-- ==== Sys2Proof/Word.lean ====
section
/-! DEFINITION. The word types of the LJX-720 and the keyed list that holds sparse state. -/

namespace Sys2Proof

/-- A 64-bit word: the contents of one register element, one packet word, one control register. -/
abbrev Word := BitVec 64

/-- One byte of memory (R4, R6). -/
abbrev Byte := BitVec 8

/-- A word of an LPF object or of a JBC translation (R81, R293). -/
abbrev W32 := BitVec 32

/-- A keyed list: rising keys, one entry a key. What an unlisted key means is said where the table is used. -/
abbrev Tab (α : Type) := List (Nat × α)

end Sys2Proof
end

