-- ==== Sys2Proof/Config.lean ====
section
/-! DEFINITION. What the spec leaves open: free values without a body, so that nothing can be proved of them. -/

namespace Sys2Proof.Config

/-- A fresh free value: the n-th choice the hardware makes where the spec fixes none
(DESIGN CHOICE, log 4: latencies inside the ranges of R131, claim order of R249, and the like). -/
opaque free : Nat → Nat

/-- What the bytes of one 16-byte block of a line read as under a key other than the one they were written under
(R181: "each read decrypts under the accessing leaf's key"; DESIGN CHOICE, log 5): key written, key read, line, block, plain block, byte index. -/
opaque otherKeyByte : Nat → Nat → Nat → Nat → Nat → Nat → Byte

/-- Whether the firmware image in the boot store passes the boot ROM's ML-DSA-65 check (R282; DESIGN CHOICE, log 6): the argument counts boots. -/
opaque bootImageOk : Nat → Bool

/-- Whether the words of an object with FW = 1 carry a valid firmware signature (R86, R282; DESIGN CHOICE, log 6). -/
opaque objectSigned : List (BitVec 32) → Bool

/-- SHAKE256 (R283; DESIGN CHOICE, log 6). -/
opaque shake256 : List Nat → Nat

/-- The SHAKE256 hash of the firmware that runs after a boot (R283; DESIGN CHOICE, log 6): the argument counts boots. -/
opaque firmwareHash : Nat → Nat

/-- The ML-DSA-65 signature of a report's hash with the identity key (R283; DESIGN CHOICE, log 6). -/
opaque reportSignature : Nat → Nat

/-- The CRC-64 of bytes 0-247 of a flit; the spec names no polynomial (R278; DESIGN CHOICE, log 7). -/
opaque crc64 : List (BitVec 8) → BitVec 64

end Sys2Proof.Config
end

