-- ==== Sys2Proof/Syntax.lean ====
section
/-! DEFINITION. The steps of opcode_table.json: one constructor each. -/

namespace Sys2Proof

/-- The fields of one native op (R295), with the slot that holds it (R123), its long immediate or extension word
(R294) and the tile shape of its bundle (R293: rows and columns, each minus 1). -/
structure Op where
  slot : Nat := 6
  la   : BitVec 4 := 0
  gn   : Bool := false
  gq   : BitVec 3 := 0
  mod  : BitVec 8 := 0
  dest : BitVec 10 := 0
  a    : BitVec 10 := 0
  b    : BitVec 10 := 0
  c    : BitVec 10 := 0
  ext  : Option Word := none
  rows : BitVec 4 := 0
  cols : BitVec 4 := 0
deriving DecidableEq, Repr

/-- Where the translation keeps an LPF value (R94, R95, R100). -/
inductive Loc where
  | reg (n : Nat)      -- register pn
  | frame (w : Nat)    -- frame word w
  | last (n : Nat)     -- last register ln
deriving DecidableEq, Repr

/-- One edge of the LPF control flow: the word offset of its target in the translation and the parallel copy of R102. -/
structure Edge where
  target : Nat
  moves  : List (Loc × Loc)
deriving DecidableEq, Repr

/-- The occasions of R21 that reset the whole device. -/
inductive ResetKind where
  | powerOn | conventional | hot | functionLevel
deriving DecidableEq, Repr

/-- Life-cycle states (R285), in the order they may follow one another. -/
inductive LifeCycle where
  | manufacture | provisioned | deployed | returned
deriving DecidableEq, Repr

/-- A request to create a partition (R12, R154, R284): its clusters (die clusters numbered 0-47 over the package),
spare choice (code of CAPPIL), NBV, granted key slots, and the translation roots its firmware binds to address spaces. -/
structure PartReq where
  id       : Nat
  clusters : List Nat
  spare    : Nat
  nbv      : Nat
  grant    : BitVec 512
  roots    : List (Nat × Nat)
deriving DecidableEq, Repr

/-- A translation key (R91), the die class being that of the cluster: object, function, region, budget. -/
structure TKey where
  obj    : Nat
  func   : Nat
  region : Nat
  budget : Nat
deriving DecidableEq, Repr

/-- A message of the collapse of R219, named by the directory or slice it reaches. -/
inductive CollapseNode where
  | package
  | die (d : Nat)
  | replica (cluster : Nat)
deriving DecidableEq, Repr

/-- What is lost (R274). -/
inductive Loss where
  | die (d : Nat)
  | device (n : Nat)
deriving DecidableEq, Repr

/-- A request that sets the HDM window (R277): the size in units of 256 MiB, the partition, for each 8 MiB granule the
run of pillar bytes it maps (run number = physical address / 8 MiB), and the key slot. -/
structure HdmReq where
  size : Nat
  part : Nat
  runs : List Nat
  key  : Nat
deriving DecidableEq, Repr

/-- Where a load finds the words of its object (R85): they are handed over, or n code words stand at an address of an address space of
the partition (R178). -/
inductive CodeImage where
  | words (ws : List W32)
  | memory (asid va n : Nat)
deriving DecidableEq, Repr

/-- The steps of the machine, one constructor per row of opcode_table.json, in the table's order.
Cores are numbered as their pillars (R174): 0 to 575. Clusters are numbered core / 12. Contexts are 0 to 3, and 4 is the
firmware slot. `die` names a front end. -/
inductive Instr where
  -- device and partition
  | deviceReset (kind : ResetKind)
  | wipeComplete
  | thermalStop (die : Nat)
  | lifeCycleChange (next : LifeCycle)
  | powerLossDuringWipe
  | partitionCreate (req : PartReq)
  | partitionReset (part : Nat)
  | loadObject (part : Nat) (image : CodeImage)
  | unloadObject (obj : Nat)
  | workgroupStart (launch core : Nat)
  -- bins and the selector
  | binAged (core ctx bin : Nat)
  | draw (core ctx : Nat)
  | quantumExpiry (core : Nat)
  | priorityBoost (core ctx : Nat)
  | firmwareCtlSteal (core : Nat)
  | preemption (core ctx : Nat)
  | contextResume (core slot toCore toCtx : Nat)
  -- machinery of a core
  | resultLanding (core ctx : Nat)
  | granuleCopyComplete (core ctx : Nat)
  | translateRequest (cluster core ctx : Nat) (key : TKey)
  | translationComplete (cluster : Nat) (key : TKey)
  | regclmGrant (core : Nat)
  | pageWalkComplete (core ctx thread : Nat)
  | stashFillComplete (core ctx granule : Nat)
  -- slices, leases, directories
  | homeWritePerform (line : Nat)
  | renewalAnswer (core ctx line : Nat)
  | collapseRequest (line : Nat) (node : CollapseNode)
  | collapseAnswer (line : Nat) (node : CollapseNode)
  | promotionRequest (core ctx line : Nat)
  | wcbSend (cluster line : Nat)
  | rangeEntryExpiry (slice index : Nat)
  | circuitArrival (cohort src dst : Nat)
  -- front ends
  | queueWriteObserved (die queue : Nat)
  | doorbellWrite (die : Nat) (bytes : Nat) (value : W32)
  | lookaheadRead (die queue : Nat)
  | nopPacket (die queue : Nat)
  | launch (die queue : Nat)
  | copy (die queue : Nat)
  | copyComplete (die job : Nat)
  | barrier (die queue : Nat)
  | barrierReread (die queue packet : Nat)
  | signal (die queue : Nat)
  | callPacket (die queue : Nat)
  | returnPacket (die queue : Nat)
  | join (die queue : Nat)
  | cond (die queue : Nat)
  | loop (die queue : Nat)
  | timestamp (die queue : Nat)
  | packetComplete (die queue packet : Nat) (value : Int)
  | priorityPreemption (die queue : Nat)
  | enable (die queue : Nat)
  | disable (die queue : Nat)
  | reset (die queue : Nat)
  | suspend (die queue : Nat)
  | resume (die queue : Nat)
  -- overlays, banks, engines
  | segmentArrival (core ctx : Nat)
  | bankAccessComplete (core slot : Nat)
  | rowOpen (core slot : Nat)
  | refreshClose (core slot : Nat)
  | rowClose (core slot : Nat)
  | prechargeEnd (core slot : Nat)
  | engineWorkComplete (core : Nat)
  | slotClearComplete (core : Nat)
  | osclaimGrant (core : Nat)
  | transferStart (core : Nat)
  | transferComplete (core : Nat)
  | transferFault (core : Nat)
  | loopGeneratorEntry (core ctx : Nat)
  | mcastDelivery (cohort group target : Nat)
  | redgrpResult (cohort group : Nat)
  | stkcpyComplete (core : Nat)
  | pbrFetchComplete (core ctx b : Nat)
  | fenceComplete (core ctx : Nat)
  | trapRecordDelivery (core : Nat)
  | firmwareRestart (core : Nat)
  | migrationRequest (core ctx toCore : Nat)
  | migrationCapture (core ctx : Nat)
  | partitionSwap (outgoing incoming : Nat)
  | checkpoint (part gen : Nat)
  | dieLoss (lost : Loss)
  -- host and fabric
  | hostCompletion (request : Nat) (ok : Bool) (data : List Byte)
  | cxlMemRead (addr len : Nat)
  | cxlMemWrite (addr : Nat) (data : List Byte)
  | flitReceive (port : Nat) (flit : List Byte)
  | laneFailure (port : Nat)
  | retrainComplete (port : Nat)
  | linkTraining (port switchPort : Nat)
  | attestationRequest (nonce : List Byte)
  | keySlotLoad (slot : Nat) (key : BitVec 512)
  -- instructions, in the order of the reference
  | abs (o : Op) | add (o : Op) | and (o : Op) | bfi (o : Op) | bfx (o : Op)
  | brev (o : Op) | clz (o : Op) | cmp (o : Op)
  | accld (o : Op) | accst (o : Op) | accz (o : Op)
  | addc (o : Op)
  | atom (o : Op) | atomAcq (o : Op) | atomRel (o : Op) | atomAr (o : Op)
  | barAw (o : Op) | barArr (o : Op) | barWait (o : Op) | bartest (o : Op) | bartestCtr (o : Op)
  | br (e : Edge)
  | cbr (q : Loc) (t f : Edge)
  | brn (o : Op)
  | brk (o : Op)
  | call (o : Op)
  | const (o : Op)
  | csrrd (o : Op) | csrwr (o : Op)
  | div (o : Op)
  | evqpop (o : Op)
  | exit (o : Op)
  | fadd (o : Op) | fsub (o : Op) | fmul (o : Op) | ffma (o : Op) | fdiv (o : Op) | fmin (o : Op) | fmax (o : Op)
  | fcmp (o : Op) | fcvt (o : Op)
  | fence (o : Op)
  | fill (o : Op)
  | freeze (o : Op)
  | frnd (o : Op)
  | icvt (o : Op)
  | idx (o : Op)
  | lcvt (o : Op)
  | ld (o : Op) | ldRng (o : Op) | ldv (o : Op)
  | lpack (o : Op) | lunpk (o : Op)
  | madc (o : Op)
  | max (o : Op) | min (o : Op) | mul (o : Op) | mulhi (o : Op) | neg (o : Op) | not (o : Op) | or (o : Op)
  | popc (o : Op) | rem (o : Op) | rot (o : Op)
  | mcast (o : Op) | redgrp (o : Op)
  | mma (o : Op)
  | mov (o : Op) | nop (o : Op)
  | osclaim (o : Op) | osload (o : Op) | osrel (o : Op)
  | pbr (o : Op) | pref (o : Op) | publish (o : Op) | recvc (o : Op) | reform (o : Op)
  | regrel (o : Op) | regclm (o : Op) | ret (o : Op)
  | rowact (o : Op) | rowactForce (o : Op) | rowcon (o : Op) | rowconW (o : Op) | rowcls (o : Op)
  | segset (o : Op)
  | sel (o : Op)
  | sendc (o : Op)
  | sfn (o : Op)
  | shape (rows cols : Nat)
  | shfl (o : Op)
  | shl (o : Op) | shr (o : Op) | shra (o : Op) | sub (o : Op) | xor (o : Op)
  | spill (o : Op)
  | st (o : Op) | stv (o : Op)
  | stmap (o : Op) | stwb (o : Op) | stinv (o : Op)
  | stkcpy (o : Op)
  | subb (o : Op)
  | switch (ty : Nat) (v : Loc) (dflt : Edge) (cases : List (Word × Edge))
  | ticket (o : Op)
  | tlbinv (o : Op)
  | tnest (o : Op)
  | trap (o : Op)
  | retry (o : Op) | cont (o : Op) | replay (o : Op) | fail (o : Op) | endThread (o : Op) | endLaunch (o : Op)
  | vote (o : Op) | vred (o : Op) | vscan (inc : Bool) (o : Op)
  | xfer (o : Op) | xloop (o : Op) | xstat (o : Op) | waitid (o : Op) | xcancel (o : Op)
  | yield (o : Op)
  -- three rows that close the table
  | bankRefresh (core slot : Nat)
  | compaction (cluster : Nat)
  | hdmWindowSet (req : HdmReq)
deriving DecidableEq, Repr

end Sys2Proof
end

