-- ==== Sys2Proof/WellFormed.lean ====
section
/-! DEFINITION. The class and code of every native op (R291, R297, R298) and which terms of Instr have an encoding. -/

namespace Sys2Proof

/-- Slot classes (R123, R298). -/
inductive Cls where
  | ctl | int | vec | sfn | mem | mtx
deriving DecidableEq, Repr

/-- The slot class and the native opcode of an op (R291, R297); none for steps that have no native op.
VSCAN has the code 0x4D, and 0x4E with INC (R290, R297). The six TRET rows share the code 0x82 (R393). -/
def Instr.code : Instr → Option (Cls × Nat × Op)
  | .add o => some (.int, 0x00, o)
  | .sub o => some (.int, 0x01, o)
  | .mul o => some (.int, 0x02, o)
  | .mulhi o => some (.int, 0x03, o)
  | .div o => some (.int, 0x07, o)
  | .rem o => some (.int, 0x08, o)
  | .neg o => some (.int, 0x09, o)
  | .abs o => some (.int, 0x0A, o)
  | .min o => some (.int, 0x0B, o)
  | .max o => some (.int, 0x0C, o)
  | .and o => some (.int, 0x0D, o)
  | .or o => some (.int, 0x0E, o)
  | .xor o => some (.int, 0x0F, o)
  | .not o => some (.int, 0x10, o)
  | .shl o => some (.int, 0x11, o)
  | .shr o => some (.int, 0x12, o)
  | .shra o => some (.int, 0x13, o)
  | .rot o => some (.int, 0x14, o)
  | .bfi o => some (.int, 0x15, o)
  | .bfx o => some (.int, 0x16, o)
  | .clz o => some (.int, 0x17, o)
  | .popc o => some (.int, 0x18, o)
  | .brev o => some (.int, 0x19, o)
  | .cmp o => some (.int, 0x1A, o)
  | .sel o => some (.int, 0x1B, o)
  | .const o => some (.int, 0x1C, o)
  | .mov o => some (.int, 0x3E, o)
  | .idx o => some (.int, 0x4C, o)
  | .addc o => some (.ctl, 0x04, o)
  | .subb o => some (.ctl, 0x05, o)
  | .madc o => some (.ctl, 0x06, o)
  | .evqpop o => some (.ctl, 0x22, o)
  | .xloop o => some (.ctl, 0x23, o)
  | .xstat o => some (.ctl, 0x24, o)
  | .waitid o => some (.ctl, 0x25, o)
  | .brn o => some (.ctl, 0x40, o)
  | .pbr o => some (.ctl, 0x41, o)
  | .call o => some (.ctl, 0x43, o)
  | .ret o => some (.ctl, 0x44, o)
  | .exit o => some (.ctl, 0x45, o)
  | .reform o => some (.ctl, 0x46, o)
  | .yield o => some (.ctl, 0x47, o)
  | .trap o => some (.ctl, 0x48, o)
  | .brk o => some (.ctl, 0x49, o)
  | .freeze o => some (.ctl, 0x4A, o)
  | .tnest o => some (.ctl, 0x4B, o)
  | .regrel o => some (.ctl, 0x4D, o)
  | .regclm o => some (.ctl, 0x4E, o)
  | .csrrd o => some (.ctl, 0x4F, o)
  | .csrwr o => some (.ctl, 0x50, o)
  | .segset o => some (.ctl, 0x80, o)
  | .tlbinv o => some (.ctl, 0x81, o)
  | .ticket o => some (.ctl, 0x83, o)
  | .stkcpy o => some (.ctl, 0x84, o)
  | .barAw o => some (.ctl, 0x20, o)
  | .barArr o => some (.ctl, 0x20, o)
  | .barWait o => some (.ctl, 0x20, o)
  | .bartest o => some (.ctl, 0x21, o)
  | .bartestCtr o => some (.ctl, 0x21, o)
  | .retry o => some (.ctl, 0x82, o)
  | .cont o => some (.ctl, 0x82, o)
  | .replay o => some (.ctl, 0x82, o)
  | .fail o => some (.ctl, 0x82, o)
  | .endThread o => some (.ctl, 0x82, o)
  | .endLaunch o => some (.ctl, 0x82, o)
  | .fadd o => some (.vec, 0x40, o)
  | .fsub o => some (.vec, 0x41, o)
  | .fmul o => some (.vec, 0x42, o)
  | .ffma o => some (.vec, 0x43, o)
  | .fdiv o => some (.vec, 0x44, o)
  | .fmin o => some (.vec, 0x45, o)
  | .fmax o => some (.vec, 0x46, o)
  | .fcmp o => some (.vec, 0x47, o)
  | .frnd o => some (.vec, 0x48, o)
  | .shfl o => some (.vec, 0x4A, o)
  | .vote o => some (.vec, 0x4B, o)
  | .vred o => some (.vec, 0x4C, o)
  | .fcvt o => some (.vec, 0x80, o)
  | .icvt o => some (.vec, 0x81, o)
  | .lcvt o => some (.vec, 0x82, o)
  | .lpack o => some (.vec, 0x83, o)
  | .lunpk o => some (.vec, 0x84, o)
  | .sfn o => some (.sfn, 0x49, o)
  | .fence o => some (.mem, 0x00, o)
  | .spill o => some (.mem, 0x10, o)
  | .fill o => some (.mem, 0x11, o)
  | .ldRng o => some (.mem, 0x12, o)
  | .ld o => some (.mem, 0xC0, o)
  | .st o => some (.mem, 0xC1, o)
  | .ldv o => some (.mem, 0xC2, o)
  | .stv o => some (.mem, 0xC3, o)
  | .atom o => some (.mem, 0xC4, o)
  | .atomAcq o => some (.mem, 0xC5, o)
  | .atomRel o => some (.mem, 0xC6, o)
  | .atomAr o => some (.mem, 0xC7, o)
  | .pref o => some (.mem, 0xC8, o)
  | .stmap o => some (.mem, 0xC9, o)
  | .stwb o => some (.mem, 0xCA, o)
  | .stinv o => some (.mem, 0xCB, o)
  | .xfer o => some (.mtx, 0x01, o)
  | .xcancel o => some (.mtx, 0x02, o)
  | .publish o => some (.mtx, 0x03, o)
  | .mcast o => some (.mtx, 0x04, o)
  | .redgrp o => some (.mtx, 0x05, o)
  | .sendc o => some (.mtx, 0x06, o)
  | .recvc o => some (.mtx, 0x07, o)
  | .mma o => some (.mtx, 0xA0, o)
  | .accld o => some (.mtx, 0xA1, o)
  | .accst o => some (.mtx, 0xA2, o)
  | .accz o => some (.mtx, 0xA3, o)
  | .osclaim o => some (.mtx, 0xA4, o)
  | .osload o => some (.mtx, 0xA5, o)
  | .osrel o => some (.mtx, 0xA6, o)
  | .rowcls o => some (.mtx, 0xA9, o)
  | .rowact o => some (.mtx, 0xA7, o)
  | .rowactForce o => some (.mtx, 0xA7, o)
  | .rowcon o => some (.mtx, 0xA8, o)
  | .rowconW o => some (.mtx, 0xA8, o)
  | .vscan inc o => some (.vec, if inc then 0x4E else 0x4D, o)
  | .nop o => some (match o.slot with | 7 => .ctl | 6 => .int | 5 => .int | 4 => .vec | 3 => .vec | 2 => .sfn | 1 => .mem | _ => .mtx, 0xFF, o)
  | _ => none

/-- The slots of a class on either die class (R123, R294, R298): INT ops also run in CTL, SFN runs in VEC.B on JXN-2. -/
def Cls.slots : Cls → List Nat
  | .ctl => [7]
  | .int => [7, 6, 5]
  | .vec => [4, 3]
  | .sfn => [3, 2]
  | .mem => [1]
  | .mtx => [0]

/-- The bits of MOD that tell apart the rows that share a native code (R290, R315, R369, R370). -/
def Instr.modOk : Instr → Bool
  | .barAw o => o.mod.extractLsb' 6 2 == 1#2 && !o.mod.getLsbD 5
  | .barArr o => o.mod.extractLsb' 6 2 == 2#2 && !o.mod.getLsbD 5
  | .barWait o => o.mod.extractLsb' 6 2 == 3#2 && !o.mod.getLsbD 5
  | .bartest o => o.mod.extractLsb' 6 2 == 0#2 && !o.mod.getLsbD 5
  | .bartestCtr o => o.mod.extractLsb' 6 2 == 0#2 && o.mod.getLsbD 5
  | .rowact o => !o.mod.getLsbD 7
  | .rowactForce o => o.mod.getLsbD 7
  | .rowcon o => !o.mod.getLsbD 7
  | .rowconW o => o.mod.getLsbD 7
  | _ => true

/-- The shape of a bundle holds at most 16 elements (R293). -/
def Op.shapeOk (o : Op) : Bool := (o.rows.toNat + 1) * (o.cols.toNat + 1) ≤ 16

/-- An op has an encoding: its slot takes its class, a long immediate stands in the slot below (R294), and its shape fits. -/
def Op.wf (cls : Cls) (o : Op) : Bool :=
  cls.slots.contains o.slot && (o.ext.isNone || 0 < o.slot) && o.shapeOk

/-- A block edge of the lowered LPF control flow names registers, frame words and last registers that exist (R94-R96, R125). -/
def Loc.wf : Loc → Bool
  | .reg n => n < 255
  | .frame w => w < 16384
  | .last n => n < 64

def Edge.wf (e : Edge) : Bool := e.moves.length ≤ 64 * 16 && e.moves.all fun m => m.1.wf && m.2.wf

/-- The terms that the encodings of the spec, or its units, can produce. -/
def Instr.wf (i : Instr) : Bool :=
  match i with
  | .br e => e.wf
  | .cbr q t f => q.wf && t.wf && f.wf
  | .switch ty v d cs => 1 ≤ ty && ty ≤ 8 && v.wf && d.wf && cs.length ≤ 63 && cs.all fun c => c.2.wf
  | .shape r c => 1 ≤ r && 1 ≤ c && r * c ≤ 16
  | .binAged k x b => k < 576 && x < 4 && b < 16
  | .draw k x => k < 576 && x < 4
  | .preemption k x => k < 576 && x < 4
  | .resultLanding k x => k < 576 && x < 5
  | .bankRefresh k b => k < 576 && b < 128
  | .keySlotLoad n _ => n < 512
  | .partitionCreate r => r.clusters.all (· < 48) && r.spare < 3 && (r.nbv == 1 || r.nbv == 2)
  | .flitReceive p f => p < 48 && f.length == 256
  | .linkTraining p n => p < 48 && n < 512
  | .hdmWindowSet r => 1 ≤ r.size && r.size ≤ 256
  | .attestationRequest n => n.length == 32
  | i => match i.code with
    | some (cls, _, o) => o.wf cls && i.modOk
    | none => true

end Sys2Proof
end

