-- ==== Sys2Proof/Decode.lean ====
section
/-! DEFINITION. Bit fields, native ops and bundles (R293-R299), LPF words (R286-R292), and their encoders. -/

namespace Sys2Proof

/-! ### Bit fields -/

/-- Bits hi:lo of a number (R4: both ends included). -/
def bits (w hi lo : Nat) : Nat := w / 2 ^ lo % 2 ^ (hi + 1 - lo)

/-- One bit of a number. -/
def bit (w i : Nat) : Bool := w / 2 ^ i % 2 == 1

/-- The value of the low w bits read as two's complement. -/
def signed (w n : Nat) : Int :=
  let m := n % 2 ^ w
  if 0 < w ∧ 2 ^ (w - 1) ≤ m then (m : Int) - 2 ^ w else m

/-- An integer reduced to w bits. -/
def wrap (w : Nat) (i : Int) : Nat := (i % (2 ^ w : Nat)).toNat

/-- Why a word is refused (R85, R292, R298, R299). -/
inductive DecodeError where
  | truncated          -- the words end inside the instruction
  | badHeader          -- header bits 3:0 nonzero, or GN without G
  | badCount           -- a count word outside 15 to 255, or counts that disagree
  | badOperand         -- an operand word with nonzero zero bits or an unassigned subkind
  | unassignedOpcode   -- an opcode that its slot class or the LPF map does not assign
  | badModifier        -- a modifier value that R290 rejects
  | badType            -- a type code outside the opcode's row
  | badBundle          -- a bundle header that R124 or R293 refuses
deriving DecidableEq, Repr

/-! ### Native ops (R295) -/

/-- The 64 bits of an op with the given opcode. -/
def Op.word (opc : BitVec 8) (o : Op) : Word :=
  opc ++ (o.la ++ (BitVec.ofBool o.gn ++ (o.gq ++ (o.mod ++ (o.dest ++ (o.a ++ (o.b ++ o.c)))))))

/-- The fields of a 64-bit op word, in the given slot. -/
def Op.ofWord (slot : Nat) (w : Word) (ext : Option Word) (rows cols : BitVec 4) : Op where
  slot := slot
  la   := w.extractLsb' 52 4
  gn   := w.getLsbD 51
  gq   := w.extractLsb' 48 3
  mod  := w.extractLsb' 40 8
  dest := w.extractLsb' 30 10
  a    := w.extractLsb' 20 10
  b    := w.extractLsb' 10 10
  c    := w.extractLsb' 0 10
  ext  := ext
  rows := rows
  cols := cols

/-- The opcode byte of an op word. -/
def opcodeOf (w : Word) : Nat := (w.extractLsb' 56 8).toNat

/-- Bits 29:0 of a J-layout op (R296). -/
def Op.j (o : Op) : BitVec 30 := o.a ++ (o.b ++ o.c)

/-- The INT codes (R298); CTL holds them as well. -/
def intCode : Nat → Option (Op → Instr)
  | 0x00 => some .add
  | 0x01 => some .sub
  | 0x02 => some .mul
  | 0x03 => some .mulhi
  | 0x07 => some .div
  | 0x08 => some .rem
  | 0x09 => some .neg
  | 0x0A => some .abs
  | 0x0B => some .min
  | 0x0C => some .max
  | 0x0D => some .and
  | 0x0E => some .or
  | 0x0F => some .xor
  | 0x10 => some .not
  | 0x11 => some .shl
  | 0x12 => some .shr
  | 0x13 => some .shra
  | 0x14 => some .rot
  | 0x15 => some .bfi
  | 0x16 => some .bfx
  | 0x17 => some .clz
  | 0x18 => some .popc
  | 0x19 => some .brev
  | 0x1A => some .cmp
  | 0x1B => some .sel
  | 0x1C => some .const
  | 0x3E => some .mov
  | 0x4C => some .idx
  | _ => none

/-- The codes that only CTL assigns (R298), but for BAR, BARTEST and TRET. -/
def ctlCode : Nat → Option (Op → Instr)
  | 0x04 => some .addc
  | 0x05 => some .subb
  | 0x06 => some .madc
  | 0x22 => some .evqpop
  | 0x23 => some .xloop
  | 0x24 => some .xstat
  | 0x25 => some .waitid
  | 0x40 => some .brn
  | 0x41 => some .pbr
  | 0x43 => some .call
  | 0x44 => some .ret
  | 0x45 => some .exit
  | 0x46 => some .reform
  | 0x47 => some .yield
  | 0x48 => some .trap
  | 0x49 => some .brk
  | 0x4A => some .freeze
  | 0x4B => some .tnest
  | 0x4D => some .regrel
  | 0x4E => some .regclm
  | 0x4F => some .csrrd
  | 0x50 => some .csrwr
  | 0x80 => some .segset
  | 0x81 => some .tlbinv
  | 0x83 => some .ticket
  | 0x84 => some .stkcpy
  | _ => none

/-- The VEC codes (R298), but for VSCAN. -/
def vecCode : Nat → Option (Op → Instr)
  | 0x40 => some .fadd
  | 0x41 => some .fsub
  | 0x42 => some .fmul
  | 0x43 => some .ffma
  | 0x44 => some .fdiv
  | 0x45 => some .fmin
  | 0x46 => some .fmax
  | 0x47 => some .fcmp
  | 0x48 => some .frnd
  | 0x4A => some .shfl
  | 0x4B => some .vote
  | 0x4C => some .vred
  | 0x80 => some .fcvt
  | 0x81 => some .icvt
  | 0x82 => some .lcvt
  | 0x83 => some .lpack
  | 0x84 => some .lunpk
  | _ => none

/-- The MEM codes (R298). -/
def memCode : Nat → Option (Op → Instr)
  | 0x00 => some .fence
  | 0x10 => some .spill
  | 0x11 => some .fill
  | 0x12 => some .ldRng
  | 0xC0 => some .ld
  | 0xC1 => some .st
  | 0xC2 => some .ldv
  | 0xC3 => some .stv
  | 0xC4 => some .atom
  | 0xC5 => some .atomAcq
  | 0xC6 => some .atomRel
  | 0xC7 => some .atomAr
  | 0xC8 => some .pref
  | 0xC9 => some .stmap
  | 0xCA => some .stwb
  | 0xCB => some .stinv
  | _ => none

/-- The MTX codes (R298), but for ROWACT and ROWCON. -/
def mtxCode : Nat → Option (Op → Instr)
  | 0x01 => some .xfer
  | 0x02 => some .xcancel
  | 0x03 => some .publish
  | 0x04 => some .mcast
  | 0x05 => some .redgrp
  | 0x06 => some .sendc
  | 0x07 => some .recvc
  | 0xA0 => some .mma
  | 0xA1 => some .accld
  | 0xA2 => some .accst
  | 0xA3 => some .accz
  | 0xA4 => some .osclaim
  | 0xA5 => some .osload
  | 0xA6 => some .osrel
  | 0xA9 => some .rowcls
  | _ => none

/-- BAR and BARTEST by the form and CTR bits of MOD (R290, R315). -/
def barCode (bartest : Bool) (o : Op) : Except DecodeError Instr :=
  match bartest, (o.mod.extractLsb' 6 2).toNat, o.mod.getLsbD 5 with
  | false, 1, false => .ok (.barAw o)
  | false, 2, false => .ok (.barArr o)
  | false, 3, false => .ok (.barWait o)
  | true, 0, false => .ok (.bartest o)
  | true, 0, true => .ok (.bartestCtr o)
  | _, _, _ => .error .badModifier

def orUnassigned (o : Op) : Option (Op → Instr) → Except DecodeError Instr
  | some f => .ok (f o)
  | none => .error .unassignedOpcode

/-- The op of a slot, by the opcode map of its class (R298). A TRET word (CTL 0x82) reads as `retry`: which of the six
answers it gives stands in a register (R393), and `Machine.answerRow` picks the row at issue. -/
def decodeOp (slot opc : Nat) (o : Op) : Except DecodeError Instr :=
  if opc = 0xFF then .ok (.nop o) else
  match slot with
  | 7 => match opc with
    | 0x20 => barCode false o
    | 0x21 => barCode true o
    | 0x82 => .ok (.retry o)
    | _ => orUnassigned o ((ctlCode opc).or (intCode opc))
  | 6 => orUnassigned o (intCode opc)
  | 5 => orUnassigned o (intCode opc)
  | 4 => match opc with
    | 0x4D => .ok (.vscan false o)
    | 0x4E => .ok (.vscan true o)
    | _ => orUnassigned o (vecCode opc)
  | 3 => match opc with
    | 0x49 => .ok (.sfn o)
    | 0x4D => .ok (.vscan false o)
    | 0x4E => .ok (.vscan true o)
    | _ => orUnassigned o (vecCode opc)
  | 2 => match opc with
    | 0x49 => .ok (.sfn o)
    | _ => .error .unassignedOpcode
  | 1 => orUnassigned o (memCode opc)
  | 0 => match opc with
    | 0xA7 => .ok (if o.mod.getLsbD 7 then .rowactForce o else .rowact o)
    | 0xA8 => .ok (if o.mod.getLsbD 7 then .rowconW o else .rowcon o)
    | _ => orUnassigned o (mtxCode opc)
  | _ => .error .unassignedOpcode

/-- The op word of a native instruction. -/
def encodeOp (i : Instr) : Option Word :=
  i.code.map fun (_, opc, o) => o.word (BitVec.ofNat 8 opc)

/-- The instruction of an op word. -/
def decodeWord (slot : Nat) (w : Word) (ext : Option Word) (rows cols : BitVec 4) : Except DecodeError Instr :=
  decodeOp slot (opcodeOf w) (.ofWord slot w ext rows cols)

/-- The row under which decoding reports an instruction: itself, but for the answers of TRET, whose word does not hold
the mode. -/
def Instr.asDecoded : Instr → Instr
  | .cont o => .retry o
  | .replay o => .retry o
  | .fail o => .retry o
  | .endThread o => .retry o
  | .endLaunch o => .retry o
  | i => i

/-! ### Bundles (R293) -/

/-- A bundle header. -/
structure Header where
  p : BitVec 8
  l : BitVec 8
  stop : Bool
  b : Bool
  q : Bool
  rows : BitVec 4
  cols : BitVec 4
deriving DecidableEq, Repr

def Header.word (h : Header) : W32 :=
  h.p ++ (h.l ++ (BitVec.ofBool h.stop ++ (BitVec.ofBool h.b ++ (BitVec.ofBool h.q ++ (0#1 ++ (h.rows ++ (h.cols ++ 0#4)))))))

def Header.ofWord (w : W32) : Header where
  p := w.extractLsb' 24 8
  l := w.extractLsb' 16 8
  stop := w.getLsbD 15
  b := w.getLsbD 14
  q := w.getLsbD 13
  rows := w.extractLsb' 8 4
  cols := w.extractLsb' 4 4

/-- L is a subset of P without bit 7, and each L bit stands below a present op (R124). -/
def Header.maskOk (h : Header) : Bool :=
  h.l &&& h.p == h.l && !h.l.getLsbD 7 && (h.l <<< 1) &&& h.p == h.l <<< 1 && (h.l <<< 1) &&& h.l == 0

/-- What R293 refuses in one header: nonzero zero bits, P = 0 without a stop bit, a shape above 16 elements, B without a
stop bit, a misused L (R124). -/
def headerOk (w : W32) : Bool :=
  let h := Header.ofWord w
  !w.getLsbD 12 && w.extractLsb' 0 4 == 0#4 && h.maskOk && (h.stop || h.p != 0) && (h.stop || !h.b) &&
    (h.rows.toNat + 1) * (h.cols.toNat + 1) ≤ 16

/-- A 64-bit word from two 32-bit words, low word first. -/
def joinW (lo hi : W32) : Word := hi ++ lo

/-- One op slot of a bundle as it stands in the code: its slot bit and its 64 bits. -/
structure Bundle where
  hdr : Header
  ops : List (Nat × Word)
deriving DecidableEq, Repr

/-- The op words of the present slots, in descending slot order (R293). -/
def takeOps (p : BitVec 8) : List Nat → List W32 → Except DecodeError (List (Nat × Word) × List W32)
  | [], ws => .ok ([], ws)
  | s :: ss, ws =>
    if p.getLsbD s then
      match ws with
      | lo :: hi :: rest => do
        let (os, r) ← takeOps p ss rest
        .ok ((s, joinW lo hi) :: os, r)
      | _ => .error .truncated
    else takeOps p ss ws

def slotOrder : List Nat := [7, 6, 5, 4, 3, 2, 1, 0]

/-- One bundle and the words after it. -/
def decodeBundle : List W32 → Except DecodeError (Bundle × List W32)
  | [] => .error .truncated
  | w :: ws =>
    if headerOk w then do
      let (os, r) ← takeOps (Header.ofWord w).p slotOrder ws
      .ok (⟨Header.ofWord w, os⟩, r)
    else .error .badBundle

/-- The long immediate of the op in slot s: the word of slot s - 1 when its L bit is set (R294). -/
def Bundle.ext (b : Bundle) (s : Nat) : Option Word :=
  if 0 < s ∧ b.hdr.l.getLsbD (s - 1) then (b.ops.find? (·.1 == s - 1)).map (·.2) else none

/-- The ops of a bundle in descending slot order, long immediates joined to their ops: the slot, its frame, and the
instruction or the reason there is none. -/
def Bundle.instrs (b : Bundle) : List (Op × Except DecodeError Instr) :=
  (b.ops.filter fun p => !b.hdr.l.getLsbD p.1).map fun p =>
    let o := Op.ofWord p.1 p.2 (b.ext p.1) b.hdr.rows b.hdr.cols
    (o, decodeOp p.1 (opcodeOf p.2) o)

/-- The length of a bundle in words. -/
def Bundle.size (b : Bundle) : Nat := 1 + 2 * b.ops.length

def splitW (w : Word) : List W32 := [w.extractLsb' 0 32, w.extractLsb' 32 32]

/-- The bundle that holds one op and nothing else: header, op, long immediate (R293, R294). -/
def encodeBundle (i : Instr) : Option (List W32) :=
  i.code.map fun (_, opc, o) =>
    let imm := match o.ext with
      | some _ => 1#8 <<< (o.slot - 1)
      | none => 0#8
    let h : Header := ⟨(1#8 <<< o.slot) ||| imm, imm, true, false, false, o.rows, o.cols⟩
    h.word :: (splitW (o.word (BitVec.ofNat 8 opc)) ++ match o.ext with
      | some v => splitW v
      | none => [])

/-- The words of a native instruction: a bundle of its own. -/
def encode (i : Instr) : Option (List W32) := encodeBundle i

/-- The instruction at the head of a stream of native words, when its bundle holds one op, and the words after it. -/
def decode (ws : List W32) : Except DecodeError (Instr × List W32) := do
  let (b, rest) ← decodeBundle ws
  match b.instrs with
  | [(_, .ok i)] => .ok (i, rest)
  | [(_, .error e)] => .error e
  | _ => .error .badBundle

/-! ### LPF words (R286-R292) -/

namespace Lpf

/-- Operands as they stand in the words (R287). Block references carry the value indices of their arguments (R70). -/
inductive Arg where
  | val (n : BitVec 16)
  | short (v : BitVec 30)
  | ext (v : Word)
  | ref (block : BitVec 16) (args : List (BitVec 16))
deriving DecidableEq, Repr

/-- One LPF instruction. The guard, when G is set, is the first operand. -/
structure Inst where
  opc : BitVec 9
  ty  : BitVec 5
  mod : BitVec 8
  g   : Bool
  gn  : Bool
  args : List Arg
deriving DecidableEq, Repr

/-- The words of an operand. A reference with 63 or 64 arguments carries its count in an immediate word (R70). -/
def Arg.words : Arg → List W32
  | .val n => [0#16 ++ n]
  | .short v => [1#2 ++ v]
  | .ext v => (3#2 ++ 0#30) :: splitW v
  | .ref b as =>
    if as.length < 63 then (2#2 ++ (b ++ (BitVec.ofNat 6 as.length ++ 0#8))) :: as.map fun n => 0#16 ++ n
    else (2#2 ++ (b ++ (63#6 ++ 0#8))) :: (1#2 ++ BitVec.ofNat 30 as.length) :: as.map fun n => 0#16 ++ n

/-- What an encoding can hold: at most 64 arguments a reference (R70), at most 255 operand words (R288), GN only with G. -/
def Arg.wf : Arg → Bool
  | .ref _ as => as.length ≤ 64
  | _ => true

def Inst.operandWords (i : Inst) : List W32 := (i.args.map Arg.words).flatten

def Inst.wf (i : Inst) : Bool :=
  i.args.all Arg.wf && i.operandWords.length ≤ 255 && (i.g || !i.gn)

/-- The header with the given NOPW field. -/
def Inst.header (i : Inst) (nopw : BitVec 4) : W32 :=
  i.opc ++ (i.ty ++ (i.mod ++ (nopw ++ (BitVec.ofBool i.g ++ (BitVec.ofBool i.gn ++ 0#4)))))

/-- The words of an instruction (R286, R288). -/
def Inst.words (i : Inst) : List W32 :=
  let ops := i.operandWords
  if ops.length < 15 then i.header (BitVec.ofNat 4 ops.length) :: ops
  else i.header 15#4 :: BitVec.ofNat 32 ops.length :: ops

/-- n argument words of a block reference: value words only (R70). -/
def takeVals : Nat → List W32 → Except DecodeError (List (BitVec 16) × List W32)
  | 0, ws => .ok ([], ws)
  | _ + 1, [] => .error .truncated
  | n + 1, w :: ws =>
    if w.extractLsb' 16 16 == 0#16 then do
      let (vs, r) ← takeVals n ws
      .ok (w.extractLsb' 0 16 :: vs, r)
    else .error .badOperand

/-- One operand (R287). -/
def takeArg : List W32 → Except DecodeError (Arg × List W32)
  | [] => .error .truncated
  | w :: ws =>
    match (w.extractLsb' 30 2).toNat with
    | 0 => if w.extractLsb' 16 14 == 0#14 then .ok (.val (w.extractLsb' 0 16), ws) else .error .badOperand
    | 1 => .ok (.short (w.extractLsb' 0 30), ws)
    | 2 =>
      if w.extractLsb' 0 8 != 0#8 then .error .badOperand
      else
        let n := (w.extractLsb' 8 6).toNat
        if n < 63 then do
          let (vs, r) ← takeVals n ws
          .ok (.ref (w.extractLsb' 14 16) vs, r)
        else match ws with
          | c :: ws' =>
            if c.extractLsb' 30 2 == 1#2 && (c.extractLsb' 0 30 == 63#30 || c.extractLsb' 0 30 == 64#30) then do
              let (vs, r) ← takeVals (c.extractLsb' 0 30).toNat ws'
              .ok (.ref (w.extractLsb' 14 16) vs, r)
            else .error .badCount
          | [] => .error .truncated
    | _ =>
      if w.extractLsb' 0 30 == 0#30 then
        match ws with
        | lo :: hi :: r => .ok (.ext (joinW lo hi), r)
        | _ => .error .truncated
      else .error .badOperand

/-- Operands up to the end of the operand words; the fuel is the number of words, which each operand lessens. -/
def takeArgs : Nat → List W32 → Except DecodeError (List Arg)
  | _, [] => .ok []
  | 0, _ => .error .badCount
  | f + 1, ws => do
    let (a, r) ← takeArg ws
    let as ← takeArgs f r
    .ok (a :: as)

/-- One LPF instruction and the words after it. Zero header bits, counts and operand kinds are checked here;
what the opcode allows is checked by the row (R291) in the verifier. -/
def decode : List W32 → Except DecodeError (Inst × List W32)
  | [] => .error .truncated
  | w :: ws =>
    if w.extractLsb' 0 4 != 0#4 || (w.getLsbD 4 && !w.getLsbD 5) then .error .badHeader
    else
      let nopw := (w.extractLsb' 6 4).toNat
      let body (n : Nat) (ws : List W32) : Except DecodeError (Inst × List W32) :=
        if ws.length < n then .error .truncated
        else do
          let as ← takeArgs n (ws.take n)
          .ok (⟨w.extractLsb' 23 9, w.extractLsb' 18 5, w.extractLsb' 10 8, w.getLsbD 5, w.getLsbD 4, as⟩, ws.drop n)
      if nopw < 15 then body nopw ws
      else match ws with
        | c :: ws' => if 15 ≤ c.toNat && c.toNat ≤ 255 then body c.toNat ws' else .error .badCount
        | [] => .error .truncated

/-- Modifier classes of R290. -/
inductive ModClass where
  | none | rel | round | seg | conv | atom | fence | lane | bar | sfn | flag | eng
deriving DecidableEq, Repr

/-- How an opcode's operands are counted (R291). -/
inductive Arity where
  | fixed (n : Nat)
  | ldArgs      -- 1, or 2 with RNG
  | atomArgs    -- 2, or 3 for cas
  | brArgs | cbrArgs | switchArgs | callArgs | retArgs | freezeArgs
deriving DecidableEq, Repr

/-- A row of R291. `native` is none where no op of the row's own exists. -/
structure Row where
  cls    : Cls
  types  : List Nat
  tiles  : Bool
  mod    : ModClass
  res    : Nat
  arity  : Arity
deriving DecidableEq, Repr

def tyI : List Nat := [1, 2, 3, 4, 5, 6, 7, 8]
def tyIw : List Nat := [3, 4, 7, 8]
def tyS : List Nat := [1, 2, 3, 4]
def tyF : List Nat := [9, 10, 11, 12]
def tyA : List Nat := [1, 2, 3, 4, 5, 6, 7, 8, 9, 10, 11, 12, 13, 14, 15]
/-- Element types that have tiles (R72): every scalar type but pr and ptr. -/
def tyElem : List Nat := [1, 2, 3, 4, 5, 6, 7, 8, 9, 10, 11, 12, 13]
def tyNone : List Nat := [0]

/-- The opcode map of R291. Tile codes are 0x10 + the element code; `tiles` says that they are allowed beside `types`. -/
def row : Nat → Option Row
  | 0x000 | 0x001 => some ⟨.int, 15 :: tyI, false, .none, 1, .fixed 2⟩
  | 0x002 | 0x003 => some ⟨.int, tyI, false, .none, 1, .fixed 2⟩
  | 0x004 | 0x005 => some ⟨.ctl, tyIw, false, .none, 2, .fixed 3⟩
  | 0x006 => some ⟨.ctl, [7, 8], false, .none, 2, .fixed 4⟩
  | 0x007 | 0x008 => some ⟨.int, tyI, false, .none, 1, .fixed 2⟩
  | 0x009 | 0x00A => some ⟨.int, tyS, false, .none, 1, .fixed 1⟩
  | 0x00B | 0x00C => some ⟨.int, tyI, false, .none, 1, .fixed 2⟩
  | 0x00D | 0x00E | 0x00F => some ⟨.int, 14 :: tyI, false, .none, 1, .fixed 2⟩
  | 0x010 => some ⟨.int, 14 :: tyI, false, .none, 1, .fixed 1⟩
  | 0x011 | 0x012 | 0x013 | 0x014 => some ⟨.int, tyI, false, .none, 1, .fixed 2⟩
  | 0x015 => some ⟨.int, tyI, false, .none, 1, .fixed 3⟩
  | 0x016 => some ⟨.int, tyI, false, .none, 1, .fixed 2⟩
  | 0x017 | 0x018 | 0x019 => some ⟨.int, tyI, false, .none, 1, .fixed 1⟩
  | 0x01A => some ⟨.int, 15 :: tyI, false, .rel, 1, .fixed 2⟩
  | 0x01B => some ⟨.int, tyA, true, .none, 1, .fixed 3⟩
  | 0x01C => some ⟨.int, tyA, false, .none, 1, .fixed 1⟩
  | 0x040 | 0x041 | 0x042 => some ⟨.vec, tyF, true, .none, 1, .fixed 2⟩
  | 0x043 => some ⟨.vec, tyF, true, .none, 1, .fixed 3⟩
  | 0x044 | 0x045 | 0x046 => some ⟨.vec, tyF, true, .none, 1, .fixed 2⟩
  | 0x047 => some ⟨.vec, tyF, false, .rel, 1, .fixed 2⟩
  | 0x048 => some ⟨.vec, tyF, true, .round, 1, .fixed 1⟩
  | 0x049 => some ⟨.sfn, [11], false, .sfn, 1, .fixed 1⟩
  | 0x04A => some ⟨.vec, tyElem ++ [15], false, .lane, 1, .fixed 2⟩
  | 0x04B => some ⟨.vec, [7, 14], false, .lane, 1, .fixed 1⟩
  | 0x04C | 0x04D => some ⟨.vec, tyI ++ tyF, false, .lane, 1, .fixed 1⟩
  | 0x04E => some ⟨.int, tyNone, false, .none, 0, .fixed 2⟩
  | 0x080 => some ⟨.vec, tyF, true, .conv, 1, .fixed 1⟩
  | 0x081 => some ⟨.vec, tyI ++ tyF, true, .conv, 1, .fixed 1⟩
  | 0x082 => some ⟨.vec, tyF ++ [13], true, .conv, 1, .fixed 1⟩
  | 0x083 => some ⟨.vec, [7, 8], false, .none, 1, .fixed 1⟩
  | 0x084 => some ⟨.vec, [29], false, .none, 1, .fixed 1⟩
  | 0x0A0 => some ⟨.mtx, tyNone, false, .none, 0, .fixed 1⟩
  | 0x0A1 | 0x0A2 => some ⟨.mtx, tyNone, false, .none, 0, .fixed 2⟩
  | 0x0A3 | 0x0A4 => some ⟨.mtx, tyNone, false, .none, 0, .fixed 1⟩
  | 0x0A5 => some ⟨.mtx, tyNone, false, .none, 0, .fixed 2⟩
  | 0x0A6 => some ⟨.mtx, tyNone, false, .none, 0, .fixed 1⟩
  | 0x0A7 => some ⟨.mtx, [8], false, .flag, 1, .fixed 1⟩
  | 0x0A8 => some ⟨.mtx, tyNone, false, .flag, 0, .fixed 2⟩
  | 0x0A9 => some ⟨.mtx, tyNone, false, .none, 0, .fixed 1⟩
  | 0x0C0 => some ⟨.mem, tyA, true, .seg, 1, .ldArgs⟩
  | 0x0C1 => some ⟨.mem, tyA, true, .seg, 0, .fixed 2⟩
  | 0x0C2 => some ⟨.mem, [], true, .seg, 1, .fixed 2⟩
  | 0x0C3 => some ⟨.mem, [], true, .seg, 0, .fixed 3⟩
  | 0x0C4 | 0x0C5 | 0x0C6 | 0x0C7 => some ⟨.mem, tyIw ++ [11, 12], false, .atom, 1, .atomArgs⟩
  | 0x0C8 => some ⟨.mem, tyNone, false, .seg, 0, .fixed 1⟩
  | 0x0C9 | 0x0CA | 0x0CB => some ⟨.mem, tyNone, false, .none, 0, .fixed 2⟩
  | 0x100 => some ⟨.mem, tyNone, false, .fence, 0, .fixed 0⟩
  | 0x101 => some ⟨.mtx, [7], false, .eng, 1, .fixed 1⟩
  | 0x102 | 0x103 | 0x104 | 0x105 => some ⟨.mtx, tyNone, false, .eng, 0, .fixed 1⟩
  | 0x106 => some ⟨.mtx, [24], false, .none, 0, .fixed 2⟩
  | 0x107 => some ⟨.mtx, [24], false, .none, 1, .fixed 1⟩
  | 0x120 => some ⟨.ctl, tyNone, false, .bar, 0, .fixed 0⟩
  | 0x121 => some ⟨.ctl, [7, 14], false, .bar, 1, .fixed 0⟩
  | 0x122 => some ⟨.ctl, [8], false, .none, 1, .fixed 0⟩
  | 0x123 => some ⟨.ctl, tyNone, false, .none, 0, .fixed 2⟩
  | 0x124 => some ⟨.ctl, [7], false, .eng, 1, .fixed 0⟩
  | 0x125 => some ⟨.ctl, tyNone, false, .eng, 0, .fixed 1⟩
  | 0x140 => some ⟨.ctl, tyNone, false, .none, 0, .brArgs⟩
  | 0x141 => some ⟨.ctl, tyNone, false, .none, 0, .cbrArgs⟩
  | 0x142 => some ⟨.ctl, tyI, false, .none, 0, .switchArgs⟩
  | 0x143 => some ⟨.ctl, 0 :: tyA, false, .none, 1, .callArgs⟩
  | 0x144 => some ⟨.ctl, 0 :: tyA, false, .none, 0, .retArgs⟩
  | 0x145 | 0x146 | 0x147 => some ⟨.ctl, tyNone, false, .none, 0, .fixed 0⟩
  | 0x148 | 0x149 => some ⟨.ctl, tyNone, false, .none, 0, .fixed 1⟩
  | 0x14A => some ⟨.ctl, tyNone, false, .none, 0, .freezeArgs⟩
  | 0x14B => some ⟨.ctl, tyNone, false, .none, 0, .fixed 1⟩
  | 0x14C => some ⟨.int, [7], false, .none, 1, .fixed 1⟩
  | 0x14D | 0x14E => some ⟨.ctl, tyNone, false, .none, 0, .fixed 2⟩
  | 0x14F => some ⟨.ctl, [8], false, .none, 1, .fixed 1⟩
  | 0x150 => some ⟨.ctl, [8], false, .none, 0, .fixed 2⟩
  | 0x180 => some ⟨.ctl, tyNone, false, .none, 0, .fixed 3⟩
  | 0x181 => some ⟨.ctl, tyNone, false, .none, 0, .fixed 2⟩
  | 0x182 => some ⟨.ctl, [7], false, .none, 1, .fixed 1⟩
  | 0x183 => some ⟨.ctl, [8], false, .none, 1, .fixed 1⟩
  | 0x184 => some ⟨.ctl, [7], false, .eng, 1, .fixed 1⟩
  | _ => none

/-- A type code allowed by a row (R291). -/
def Row.tyOk (r : Row) (ty : Nat) : Bool :=
  r.types.contains ty || (r.tiles && 17 ≤ ty && ty ≤ 29 && (r.types.contains (ty - 16) || r.types.isEmpty || r.types == tyA))

/-- A MOD byte allowed for an opcode (R290, with the pairings of R312, R341, R394 and the flags each entry names).
MOD is header bits 17:10, so bit i of the header's field is MOD bit i - 10. -/
def modOk (opc ty m : Nat) : Bool :=
  let lane := m / 32
  let scope := m / 16
  let isF := tyF.contains ty
  let elem := if 16 ≤ ty then ty - 16 else ty
  let src := m / 8 % 32
  match opc with
  | 0x01A => m % 32 == 0 && lane < 6
  | 0x047 => m % 32 == 0 && lane < 7
  | 0x048 => m % 32 == 0 && lane < 5
  | 0x049 => m % 8 == 0 && scope < 10
  | 0x04A => m % 32 == 0 && lane < 4
  | 0x04B => m % 32 == 0 && lane < 3 && (if lane == 2 then ty == 7 else ty == 14)
  | 0x04C => m % 32 == 0 && lane < 6 && (!isF || lane < 3)
  | 0x04D => m % 16 == 0 && lane < 6 && (!isF || lane < 3)
  | 0x080 => m % 8 == 0 && tyF.contains src && src != elem
  | 0x081 => m % 4 == 0 && src != elem &&
      (if tyI.contains src && tyI.contains elem then true
       else m % 8 == 0 && ((tyI.contains src && tyF.contains elem) || (tyF.contains src && tyI.contains elem)))
  | 0x082 => m % 8 == 0 && ((tyF.contains src && elem == 13) || (src == 13 && tyF.contains elem))
  | 0x0A7 | 0x0A8 => m % 128 == 0
  | 0x0C0 => m % 16 == 0
  | 0x0C1 | 0x0C2 | 0x0C3 | 0x0C8 => m % 32 == 0
  | 0x0C4 | 0x0C5 | 0x0C6 | 0x0C7 =>
      m % 16 < 12 && (if scope < 6 then tyIw.contains ty else if scope < 8 then true else scope == 8 && isF)
  | 0x100 => scope < 12 && m / 2 % 8 < 4 && (m % 2 == 0 || (scope == 7 && m / 2 % 8 != 1))
  | 0x101 => scope < 12 && m % 1 == 0
  | 0x102 => scope == 0 && m / 8 % 2 == 0
  | 0x103 => scope < 12 && m / 8 % 2 == 0
  | 0x104 => scope < 12 && m % 8 == 0
  | 0x105 => scope < 12 && m % 8 < 6
  | 0x120 => m / 16 % 4 == 0 && m / 64 != 0
  | 0x121 => m / 16 % 2 == 0 && m / 64 == 0 && (if m / 32 % 2 == 1 then ty == 7 else ty == 14)
  | 0x124 | 0x125 => scope == 0 && m / 8 % 2 == 0
  | 0x184 => scope == 8 && m / 8 % 2 == 0
  | _ => m == 0

/-- The native class and code of an LPF opcode: its low eight bits (R297), but for LD with RNG and VSCAN with INC. -/
def Inst.nativeCode (i : Inst) : Nat :=
  let opc := i.opc.toNat
  if opc == 0x0C0 && i.mod.getLsbD 4 then 0x12
  else if opc == 0x04D && i.mod.getLsbD 4 then 0x4E
  else opc % 256

/-- The MOD byte of the native op (R290, R295): layout D holds TY and VAR, layout V the LPF MOD, layout K TY and SAT, layout J zero but for IDX. -/
def Inst.nativeMod (i : Inst) : BitVec 8 :=
  if 0x140 ≤ i.opc.toNat ∧ i.opc.toNat ≤ 0x150 ∧ i.opc.toNat ≠ 0x14C then 0 else
  match row i.opc.toNat with
  | some r => match r.mod with
    | .none => if r.cls == .mtx || i.opc == 0x122#9 || i.opc == 0x123#9 then 0 else i.ty ++ 0#3
    | .rel | .round | .seg | .lane => i.ty ++ i.mod.extractLsb' 5 3
    | .conv => i.ty ++ (0#2 ++ BitVec.ofBool (i.mod.getLsbD 2))
    | _ => i.mod
  | none => 0

def Cls.slot : Cls → Nat
  | .ctl => 7 | .int => 6 | .vec => 4 | .sfn => 2 | .mem => 1 | .mtx => 0

/-- The native op of an LPF instruction that names no operand words, with its result in p0 (where the translation places
the only value of its function, R99). -/
def Inst.bare (i : Inst) : Except DecodeError Instr :=
  match row i.opc.toNat with
  | none => .error .unassignedOpcode
  | some r =>
    if !r.tyOk i.ty.toNat then .error .badType
    else if !modOk i.opc.toNat i.ty.toNat i.mod.toNat then .error .badModifier
    else if r.arity != .fixed 0 || !i.args.isEmpty then .error .badOperand
    else decodeOp (Cls.slot r.cls) i.nativeCode { slot := Cls.slot r.cls, mod := i.nativeMod }

end Lpf

/-- The bits of the opcode table's numbering as words: the first word holds bits 31:0. -/
def tableWords : Nat → Nat → List W32
  | 0, _ => []
  | n + 1, w => BitVec.ofNat 32 w :: tableWords n (w / 2 ^ 32)

/-- The instruction that the LPF decoder reads from the table's bits (the table gives encodings for LPF headers only). -/
def decodeTableWord (nbits w : Nat) : Option Instr :=
  if nbits = 32 then
    match Lpf.decode (tableWords 1 w) with
    | .ok (i, _) => i.bare.toOption
    | .error _ => none
  else none

end Sys2Proof
end

