-- ==== Sys2Proof/Machine/State.lean ====
section
/-! DEFINITION. The state of the machine as plain data, why a step stops, and the machine after reset. -/

namespace Sys2Proof.Machine

/-- Why a step ends in a fault of the model. -/
inductive Fault where
  /-- A step names a core, cluster, die, port or bank slot that the package does not have. Raised by the meanings of the
  device steps. R16: "A fused unit is absent. It never takes work, never holds data and never appears in a count." Safe:
  the hardware has no such step (DESIGN CHOICE, log 67). -/
  | absentUnit
deriving DecidableEq, Repr

/-- Why a step is refused. -/
inductive Refusal where
  /-- An instruction without a meaning yet. Raised by the arms of `exec` only. Safe. -/
  | notModelled (mnemonic : String)
deriving DecidableEq, Repr

/-! ### Traps (R254) -/

inductive TrapCode where
  | illegalOp | illegalBundle | priv | segLimit | misalign | pageFault | accessViolation | divZero | fpException
  | formatDivergence | rowEarly | rowLost | rowBusy | opslotFault | mcastTarget | regDeadlock | barMisuse
  | translationFault | verifyFail | rfUncorrectable | memUncorrectable | software | breakpoint | xferFault
deriving DecidableEq, Repr

/-- A trap with its SUB and ADDR (R254). A TRANSLATION_FAULT has no ADDR: its `addr` is 0, or 1 plus the LPF point that
asked, packed as FUNC, REGION, BLOCK, INST of 16 bits each, when that is not the bundle's own (R120). -/
structure Trap where
  code : TrapCode
  sub  : Nat := 0
  addr : Nat := 0
deriving DecidableEq, Repr

/-! ### Threads -/

/-- A native program counter: a translation of the cluster and a word offset in it. -/
structure Pc where
  tr  : Nat := 0
  off : Nat := 0
deriving DecidableEq, Repr

/-- The pending branch of R257: the target and the delay groups left. -/
structure Pending where
  target : Pc
  left   : Nat
deriving DecidableEq, Repr

/-- The key of a bin (R257): the PC with the pending branch. -/
structure BinKey where
  pc   : Pc := {}
  pend : Option Pending := none
deriving DecidableEq, Repr

/-- Where a thread stands (R28, R29, R37, R52, R255). -/
inductive Place where
  | group | bin | overflow | barrier (id : Nat) | tnest | regclm | trap | ended
deriving DecidableEq, Repr

/-- The call-site identity of R116. -/
structure CallSite where
  func  : Nat
  block : Nat
  inst  : Nat
deriving DecidableEq, Repr

/-- A trap that waits for its answer (R255, R256, R262). `dest` is the destination that CONTINUE of a late trap zeroes:
the selector and the width in registers, or 0x400 + n for predicate register qn. -/
structure TrapHold where
  trap  : Trap
  late  : Bool
  at_   : Pc
  stop  : BinKey
  dest  : Option (Nat × Nat)
  /-- The mode of an answer given while the context is SAVED; the thread acts on it at resume (R264). -/
  answer : Option Nat := none
  /-- The LPF block and instruction that it is attributed to, when they are not its bundle's own (R250). -/
  point : Option (Nat × Nat) := none
  /-- The trapped instruction has been performed in no lane: a failed replay (R183). -/
  unissued : Bool := false
  /-- Where the thread was parked when a late trap stopped it (R258). -/
  was   : Place := .bin
deriving DecidableEq, Repr

/-- A page-fault record that waits for its answer (R183). -/
structure FaultHold where
  seg   : Nat
  addr  : Nat
  write : Bool
  level : Nat
  walking : Bool
  /-- Its record has been answered FAIL; the trap waits for the other replays of the group (R183). -/
  failed : Bool := false
  /-- Its failure is a precise trap: the LASTPTR area of a FREEZE (R50), or the parameters of a start (R250). -/
  precise : Bool := false
  /-- The bundle of the access. -/
  at_ : Pc := {}
deriving DecidableEq, Repr

structure Thread where
  /-- p0-p254; an unlisted register holds zero (DESIGN CHOICE, log 3). -/
  regs : Tab Word := []
  /-- q0-q7, bit n for qn; q0 reads as true whatever bit 0 holds (R295). -/
  qs : BitVec 8 := 0
  /-- Registers whose element carries a poison or uncorrectable mark (R135). -/
  poisoned : List Nat := []
  /-- The copy mask of R55, as the last registers that are copied, each with its copy entries in ascending word order. -/
  copies : Tab (List Nat) := []
  /-- The copy entries that writes of last registers on their way have allocated (R57). -/
  claimed : Tab (List Nat) := []
  /-- The map of used copy entries, and the four 8 B entries of the slot's overflow record (R55). -/
  used : BitVec 4 := 0
  entries : Tab Word := []
  budget : Nat := 0
  frameBase : Nat := 0
  calls : List CallSite := []
  /-- 0 when the budget was set at dispatch, 1 after REGREL, 2 after REGCLM (R117). -/
  budgetFrom : Nat := 0
  /-- The translation whose pin count counts the thread, 0 for none (R115). -/
  inTr : Nat := 0
  place : Place := .bin
  pend : Option Pending := none
  /-- Where a parked thread goes on when it is released (R29). -/
  resume : BinKey := {}
  /-- The n, log2 g and bundle of the REGCLM at which the thread is parked (R137). -/
  claim : Option (Nat × Nat × Pc) := none
  trap : Option TrapHold := none
  fault : Option FaultHold := none
  /-- The LPF instruction that CONTINUE makes this thread pass over: native offset, block, instruction (R262). -/
  skip : Option (Pc × Nat × Nat) := none
  /-- The template levels that are open for the thread (R52). -/
  level : Nat := 0
  /-- Lines read since the last FENCE that another context wrote, with the writer (core, context) (R212). -/
  reads : List (Nat × Nat × Nat) := []
deriving DecidableEq, Repr

/-! ### Contexts -/

/-- Bin states of R32; an unlisted bin is EMPTY. -/
inductive BinState where
  | part | aged | full
deriving DecidableEq, Repr

structure Bin where
  key : BinKey
  threads : List Nat
  since : Nat
  state : BinState
deriving DecidableEq, Repr

/-- A BRN in its delay (R29, R320): the threads that take it, each with its target, and the groups left. -/
structure Delay where
  taken : Tab Pc
  left : Nat
deriving DecidableEq, Repr

/-- The issue group: lane to thread slot, the bundle it issues, the offset after the group of bundles (0 until the first has
issued), the branch delay it stands in, and where a CALL or RET has sent it. -/
structure Group where
  lanes : Tab Nat
  pc : Pc
  next : Nat := 0
  delay : Option Delay := none
  jump : Option Pc := none
deriving DecidableEq, Repr

/-- The stall counters of R140, by event number 0x01-0x12. -/
inductive Stall where
  | issued | lookahead | stashBank | rfBank | rowWait | xferWait | barWait | binAge | segOverlay | leaseRenew
  | copyFault | translateWait | uniformExpand | opslotWait | regclaimWait | switchedOut | circuitSlot | replay
deriving DecidableEq, Repr

/-- Whether a result goes to registers or to a predicate register. -/
inductive DestKind where
  | reg | pred
deriving DecidableEq, Repr

/-- A late trap that waits for the branch delay to end (R256): thread, trap, bundle, the destination that CONTINUE zeroes,
and whether an engine stream raised it. -/
structure LateTrap where
  thread : Nat
  trap : Trap
  at_ : Pc
  dest : Option (Nat × Nat)
  eng : Bool
  /-- The GTC at its detection (R259). -/
  tick : Nat
  /-- The bundle of the speculation window whose op raised it (R224). -/
  spec : Option Nat := none
deriving DecidableEq, Repr

/-- A result on its way (R127-R129). `vals` holds the guard-true threads, `zeros` the guard-false ones.
`window` counts the groups that may still issue before the landing (R128); none for exposed results. -/
structure Landing where
  due : Nat
  slot : Nat
  kind : DestKind
  dest : Nat
  width : Nat
  vals : List (Nat × List Word)
  zeros : List Nat
  lanes : List (Nat × Nat)
  window : Option Nat
  flags : Nat
  exc : List (Nat × Nat)
  /-- Late traps found with the result (R254). -/
  traps : List (Nat × Trap) := []
  /-- The bundle of the speculation window that issued it (R224). -/
  spec : Option Nat := none
  /-- Host reads whose completions it awaits (R276), and the sender whose message it awaits (R365). -/
  host : List Nat := []
  /-- Writes at home slices (R219, R223) and accesses of banks (R200) that it awaits, by number, and granules whose fills it
  awaits (R170). -/
  awaits : List Nat := []
  fills : List Nat := []
  recv : Option Nat := none
  /-- The time at which its op issued (R127). -/
  issued : Nat := 0
  at_ : Pc
deriving DecidableEq, Repr

/-- A shadow result entry of a SAVED context: the result and its offset k (R44). -/
structure Shadow where
  offset : Nat
  entry : Landing
deriving DecidableEq, Repr

/-- State of one barrier (R316, R267). -/
structure Bar where
  phase : Nat := 0
  arrived : List Nat := []
  owed : List Nat := []
  last : Tab Nat := []
deriving DecidableEq, Repr

/-- One operation of a transfer channel that PUBLISH and the completions ask for (R364, R396). -/
inductive XferState where
  | active | done | published | failed
deriving DecidableEq, Repr

structure ChanOp where
  scope : Nat
  shadow : Bool
  state : XferState
  /-- The shadow copy (R215): each run of bytes with its target, a ptr of the context, or an offset in the share of a
  logical core of its cohort. -/
  writes : List (Option Nat × Nat × List Byte) := []
deriving DecidableEq, Repr

/-- A transfer channel (R396). -/
structure Chan where
  next : Nat := 0
  done : Nat := 0
  ended : List Nat := []
  ops : Tab ChanOp := []
deriving DecidableEq, Repr

/-- A b register (R362): its target, none when PBR named no group of the translation; the time its fetch completes, none
while it awaits an overlay block; and whether it has completed. -/
structure Breg where
  target : Option Pc
  readyAt : Option Nat
  ready : Bool := false
deriving DecidableEq, Repr

/-- An armed loop generator (R400). -/
structure Arming where
  count : Nat
  s0 : Word
  s1 : Word
  s2 : Word
deriving DecidableEq, Repr

/-- Granule states of R170; an unlisted granule of a valid entry is INVALID. -/
inductive GranState where
  | filling (until_ : Nat) (mask : BitVec 256) | clean | dirty (mask : BitVec 256)
deriving DecidableEq, Repr

/-- A fence that has issued and not completed (R337). -/
structure FenceHold where
  scope : Nat
  order : Nat
  prom : List Nat
deriving DecidableEq, Repr

/-- A nested level: the LPF point of its TNEST, its group size and the continuation block of its FREEZE (R52). -/
structure Nest where
  block : Nat
  inst : Nat
  g : Nat
  cont : Nat
deriving DecidableEq, Repr

/-- Template state of a context (R48-R56, R65): levels open, group sizes g1-g3, first entry and count of each level, the
nested levels that FREEZE has opened, the TNEST that thread 0 is inside (its LPF point and g), and whether thread 0 has
broken its nest by a second TNEST. -/
structure Tmpl where
  opened : Nat := 0
  sizes : List Nat := []
  entries : List (Nat × Nat) := []
  nests : List Nest := []
  tnest : Option (Nat × Nat × Nat) := none
  broken : Bool := false
deriving DecidableEq, Repr

/-- A register saved by the speculation window (R224): the window's bundle, thread, destination and old words (none for
a last register without a copy). -/
structure SpecSave where
  bundle : Nat
  thread : Nat
  kind : DestKind
  sel : Nat
  old : List Word
deriving DecidableEq, Repr

/-- A load of the window: line, bundle number, group and latches before the bundle, version the L1 held, the answer
(none while it is awaited), and the base and descriptor of its range (R228). -/
structure SpecLoad where
  line : Nat
  bundle : Nat
  group : Group
  latches : Tab Word
  version : Nat
  answer : Option Bool
  range : Option (Nat × Word)
deriving DecidableEq, Repr

/-- A speculation window (R224-R226): its bundles, loads, saved registers, taints, and the registers that its bundles
overwrite, bundle by bundle. -/
structure Spec where
  bundles : Nat
  written : List Nat
  loads : List SpecLoad
  saves : List SpecSave
  taint : List (Nat × Nat)
deriving DecidableEq, Repr

/-- The workgroup a context hosts. -/
structure Wg where
  launch : Nat
  index : Nat
  cohort : Nat
  logical : Nat
  size : Nat
  budget : Nat
  obj : Nat
  func : Nat
  founder : Bool
  dispatched : Bool
deriving DecidableEq, Repr

/-- Control registers and counters of a context. -/
structure CtxRegs where
  fpctl : Word := 4
  binage : Nat := 48
  prio : Nat := 0
  segBase : Tab Word := []
  segLim : Tab Word := []
  mmu : Word := 0
  counters : Tab Nat := []
  bregs : Tab Breg := []
deriving DecidableEq, Repr

/-- The memory side of a context: last store, T copies, stash share and windows. -/
structure CtxMem where
  last : Tab (List Word) := []
  tcopies : Tab (Option Nat) := []
  tready : Nat := 0
  shareBase : Nat := 0
  shareLen : Nat := 0
  pool : Nat := 0
  stmap : Tab (Word × Word) := []
  granules : Tab GranState := []
  /-- The tick at which the lease of a granule ends (R170). -/
  granLease : Tab Nat := []
  /-- A write to a read-mostly page that no release at dev scope has ordered yet (R218). -/
  rmWrites : Bool := false
deriving DecidableEq, Repr

/-- Engines and circuits as a context holds them. -/
structure CtxEng where
  chans : Tab Chan := []
  evq : List Word := []
  evOvf : Bool := false
  arming : Option Arming := none
  rx : Tab (List (List Word)) := []
  credits : Tab (List Nat) := []
deriving DecidableEq, Repr

/-- What a context is doing (R36). -/
inductive CtxState where
  | empty | active | saved
deriving DecidableEq, Repr

structure Ctx where
  state : CtxState := .empty
  wg : Option Wg := none
  threads : Tab Thread := []
  bins : Tab Bin := []
  overflow : List (BinKey × Nat) := []
  group : Option Group := none
  inflight : List Landing := []
  shadows : List Shadow := []
  latches : Tab Word := []
  uniform : List Nat := []
  /-- The time before which the next group may not issue, with the events that its delay cycles count under. -/
  delays : List Stall := []
  /-- Why the group did not issue in this cycle. -/
  hold : Option Stall := none
  /-- The delay cycles of the next group have been taken. -/
  charged : Bool := false
  /-- Set when the context draws, issues or is counted in the present cycle. -/
  drew : Bool := false
  yields : Bool := false
  fence : Option FenceHold := none
  late : List LateTrap := []
  spec : Option Spec := none
  bars : Tab Bar := []
  tmpl : Tmpl := {}
  regs : CtxRegs := {}
  mem : CtxMem := {}
  eng : CtxEng := {}
  /-- Placements (cores) recorded by pre-emptions since the last release (R216). -/
  frontier : List Nat := []
  /-- The core that a migration goes to, and the cores to which the rows of V have been copied (R270, R272). -/
  migrate : Option (Nat × List Nat) := none
  /-- A CSRWR that takes effect from the next group (R327): address and value. -/
  csrLate : List (Nat × Word) := []
  /-- A pre-emption has stopped issue and the drain is on (R44). -/
  stopping : Bool := false
  /-- The time at which the last group issued (R44). -/
  lastIssue : Nat := 0
  /-- The blocks in the overlay window (translation, 32 × segment + block) in order of arrival, and the one on its way
  (R252). -/
  window : List (Nat × Nat) := []
  fetching : Option (Nat × Nat) := none
  /-- The copy of the next segment is to begin as soon as it can: a B bundle has issued (R252). -/
  copyNext : Bool := false
  /-- The stub through which the threads of a start enter, with the block (R115): PCs of translation 0 stand for it. -/
  entry : Option (TKey × Nat) := none
  /-- Threads whose parameters are not yet in their transfer words (R250). -/
  unparam : List Nat := []
  /-- The group of the last cycle is in the second of its two cycles (R34, R123). -/
  second : Bool := false
  /-- The bundles that a replay still issues again (R226). -/
  redo : Nat := 0
  /-- The time at which the workgroup finishes, once its last thread has ended (R28). -/
  finishAt : Option Nat := none
  /-- Translations that failed while the context waited for them, with the REASON; it takes the trap when it next asks (R120). -/
  failed : List (TKey × Nat) := []
  /-- Translation numbers of its PCs that stand for keys its cluster has no translation of: the context enters again through
  their stubs (R121). -/
  lacks : Tab TKey := []
deriving DecidableEq, Repr

/-! ### Cores -/

/-- A register claim of a sub-group (R137). -/
structure RegClaim where
  ctx : Nat
  threads : List Nat
  n : Nat
  live : Nat
deriving DecidableEq, Repr

/-- A set of slots and tiles (R360). -/
structure OsSet where
  slots : List Nat
  tiles : List Nat
deriving DecidableEq, Repr

structure OsClaim where
  ctx : Nat
  set : OsSet
deriving DecidableEq, Repr

/-- Which way the bytes of an engine stream go: into a slot, into a tile, or to memory. -/
inductive MoveKind where
  | toSlot | toTile | toMem
deriving DecidableEq, Repr

/-- One access of an engine stream (R309, R361): the access, the place in the slots or tiles, the bytes of a store. -/
structure EngMove where
  lane : Nat
  t : Nat
  seg : Nat
  off : Nat
  n : Nat
  kind : MoveKind
  at_ : Nat
  bytes : List Byte
deriving DecidableEq, Repr

/-- Engine work on slots and tiles (R189): what it reads and writes and when it ends. `fault` holds the page fault that
stalls the stream (R184), with the thread and the moves left; `segs` holds the segment bases and limits under which it was issued
(R165). -/
structure Work where
  ctx : Nat
  reads : OsSet
  writes : OsSet
  until_ : Nat
  fault : Option (Nat × FaultHold) := none
  todo : List EngMove := []
  segs : Tab Word × Tab Word := ([], [])
  at_ : Pc := {}
deriving DecidableEq, Repr

/-- A ticket entry (R195). -/
structure Ticket where
  ctx : Nat
  gen : Nat
  bslot : Nat
  row : Nat
deriving DecidableEq, Repr

/-- Bank states of R197. -/
inductive BankState where
  | idle | busy | opening | opened | precharge
deriving DecidableEq, Repr

/-- A bank slot: state, activation tick a, end of the consumes in progress, the time of the close that is pending, the
ticket entry that holds the row, the ticket entry of a ROWACT that waits, whether STKCPY holds or awaits it (R385), and the
numbers of the reads that the row defers (R200). -/
structure Bank where
  state : BankState := .idle
  since : Nat := 0
  row : Nat := 0
  consumeEnd : Nat := 0
  closeAt : Option Nat := none
  tix : Option Nat := none
  waiting : Option Nat := none
  stk : Bool := false
  stkWaits : Bool := false
  deferred : List Nat := []
deriving DecidableEq, Repr

/-- What an engine stream keeps of the context that issued it (R43, R397): its core and context number then, the workgroup
(none for the firmware slot), the segment bases and the address space, and for its records the template state with the levels of the
threads (R259). -/
structure EngEnv where
  core : Nat
  ctx : Nat
  wg : Option Wg
  bases : Tab Word
  root : Word
  tmpl : Tmpl
  levels : Tab Nat
deriving DecidableEq, Repr

/-- One transfer of the copy engine (R397-R400). `thread` is the highest lane's thread at issue, `at_` the bundle, `row` the
next row to copy, `ends` the time the running transfer ends, `fault` the page fault that stalls it, `bad` the address at
which it fails. -/
structure Transfer where
  env : EngEnv
  chan : Nat
  id : Nat
  thread : Nat
  scope : Nat
  shadow : Bool
  src : Word
  dst : Word
  width : Nat
  height : Nat
  spitch : Word
  dpitch : Word
  time : Nat
  rmt : Option Nat
  at_ : Pc
  row : Nat := 0
  ends : Nat := 0
  fault : Option FaultHold := none
  bad : Option Nat := none
deriving DecidableEq, Repr

/-- Transfers that a loop generator still has to enter (R400). -/
structure LoopGen where
  env : EngEnv
  left : List Transfer
deriving DecidableEq, Repr

/-- A line of the L1 (R173, R221, R228): the 128 bytes that are not zero, by address within the line, the key value they
were read under, the expiry (its low 24 bits are E), the version, the mask of a range lease (all ones for an ordinary lease). -/
structure L1Line where
  data : List Host.Cell
  key : Nat
  e : Nat
  version : Nat
  mask : BitVec 128
deriving DecidableEq, Repr

/-- A TLB entry (R182): the leaf word and its virtual page base. -/
structure TlbEntry where
  asid : Nat
  base : Nat
  size : Nat
  pte : Word
deriving DecidableEq, Repr

/-- A trap record that waits at its core for ring room (R260): the words of R259 without SEQ. -/
structure TrapRec where
  words : List Word
  ctx : Nat
  thread : Nat
deriving DecidableEq, Repr

/-- A STKCPY (R385): its identifier, the pillar offsets, the key slots, and the time it ends once its banks are its own. -/
structure StkJob where
  chan : Nat
  id : Nat
  src : Nat
  dst : Nat
  len : Nat
  skey : Nat
  dkey : Nat
  at_ : Pc
  ends : Option Nat
deriving DecidableEq, Repr

/-- The record of a SAVED context (R266): the context number it ran under, its state, the bytes of its stash share, and
its held slots and tiles. A pending claim forms again from its threads at resume (DESIGN CHOICE, log 33). -/
structure SaveRec where
  ctxNo : Nat
  ctx : Ctx
  share : List Host.Cell
  slots : List Nat
  tiles : List Nat
  opmem : List Host.Cell
  acc : Tab (BitVec 32)
deriving DecidableEq, Repr

/-- Multicast data held for a workgroup not yet started or SAVED (R353): cohort, group, logical core, offset, bytes. -/
structure Inbox where
  cohort : Nat
  group : Nat
  logical : Nat
  off : Nat
  bytes : List Byte
deriving DecidableEq, Repr

/-- The selector and the firmware slot of a core. -/
structure Sel where
  holder : Option Nat := none
  held : Nat := 0
  lastServed : Tab Nat := []
  unserved : Tab Nat := []
  boosted : List Nat := []
  brmode : BitVec 2 := 1
  ctxsel : Nat := 4
  fwWait : Nat := 0
  fwSteal : Bool := false
  /-- The recovery entry of the firmware image on this core (R261, R282). -/
  fwEntry : Option TKey := none
deriving DecidableEq, Repr

/-- Matrix engine, slots, rows of a core. -/
structure Mtx where
  opmem : List Host.Cell := []
  acc : Tab (BitVec 32) := []
  slotOwner : Tab Nat := []
  tileOwner : Tab Nat := []
  clearSlots : Tab Nat := []
  clearTiles : Tab Nat := []
  osClaims : List OsClaim := []
  work : List Work := []
  arrayFree : Nat := 0
  busFree : Nat := 0
  tickets : Tab Ticket := []
  gen : BitVec 16 := 0
  banks : Tab Bank := []
deriving DecidableEq, Repr

/-- The copy engine of a core. -/
structure Eng where
  buf : List Transfer := []
  running : Option Transfer := none
  loops : List LoopGen := []
  stk : List StkJob := []
deriving DecidableEq, Repr

structure Core where
  ctxs : Tab Ctx := []
  sel : Sel := {}
  /-- Registers taken from the pool (R136): the pool's capacity less FREE. -/
  taken : Nat := 0
  claims : List RegClaim := []
  stash : List Host.Cell := []
  mtx : Mtx := {}
  eng : Eng := {}
  l1 : Tab L1Line := []
  tlb : List TlbEntry := []
  unitFree : Tab Nat := []
  saves : Tab SaveRec := []
  recs : List TrapRec := []
  inbox : List Inbox := []
  /-- Translations that run from the resident instruction memory (R252). -/
  resident : List Nat := []
deriving DecidableEq, Repr

/-! ### Clusters, partitions, objects, launches -/

/-- One entry of a point map (R112). -/
structure PEntry where
  off : Nat
  entry : Bool
  edge : Bool
  traps : Bool
  q : Bool
  block : Nat
  inst : Nat
  ref : Nat
  locs : List (Nat × Nat × Nat)
deriving DecidableEq, Repr

/-- A translation in the heap (R91, R112): its words, point map, frame size, A + S, and for each bundle the LPF
instruction it serves (R109). -/
structure Trans where
  key : TKey
  words : List W32
  pmap : List PEntry
  frame : Nat
  advance : Nat
  segs : List (Nat × Nat)
  attr : List (Nat × Nat × Nat)
deriving DecidableEq, Repr

/-- Stub states of R115; an unlisted stub is ABSENT. A PRESENT stub holds the number of its translation and its heap address. -/
inductive StubState where
  | translating | present (tr addr : Nat)
deriving DecidableEq, Repr

/-- A stub (R115). `waiters` are the contexts that wait for it, the first requester first; `asked` says where the budget of the
first requesting thread came from (R117). -/
structure Stub where
  key : TKey
  state : StubState
  pins : Nat
  last : Nat
  waiters : List (Nat × Nat)
  asked : Nat
deriving DecidableEq, Repr

/-- An entry of the write-combining buffer (R220): the bytes and who stored, and the tick of the first store. -/
structure WcbEntry where
  since : Nat
  key : Option Nat
  bytes : List (Nat × Byte)
  owners : List (Nat × Nat × Nat)
deriving DecidableEq, Repr

structure Cluster where
  stubs : List Stub := []
  trans : Tab Trans := []
  nextTr : Nat := 1
  /-- The translations that the on-die translation cache holds, oldest first (R114). -/
  onDie : List Nat := []
  wcb : Tab WcbEntry := []
  tlb : List TlbEntry := []
  /-- The times at which the page walks in progress end, the newest first (R182). -/
  walks : List Nat := []
deriving DecidableEq, Repr

structure Partition where
  clusters : List Nat
  spare : Nat
  nbv : Nat
  grant : BitVec 512
  roots : List (Nat × Nat)
  lease : Nat := 256
  /-- The first tick of `lease`, and the length before it (R222). -/
  leaseFrom : Nat := 0
  leaseWas : Nat := 256
  logBase : Word := 0
  logCtl : Word := 0
  logDrop : Nat := 0
  trcnt : Tab Nat := []
  trapBase : Word := 0
  trapCtl : Word := 0
  seq : Nat := 0
  swapped : Bool := false
deriving DecidableEq, Repr

/-- A block of a verified function: argument types, shape in effect at its entry and at each instruction (rows,
columns; 0 for none), instructions with their word offsets. The instructions are kept as their words. -/
structure LBlock where
  args : List Nat
  shape : Nat × Nat
  insts : List (List W32)
deriving DecidableEq, Repr

structure LFunc where
  nparam : Nat
  restype : Nat
  entry : Bool
  levels : Nat
  budget : Nat
  params : List Nat
  blocks : List LBlock
  /-- The last-store entries that each template level reserves (R411). -/
  reserve : List Nat := []
deriving DecidableEq, Repr

/-- A loaded object (R81, R84): its verified copy. -/
structure Obj where
  part : Nat
  words : List W32
  fw : Bool
  funcs : List LFunc
  /-- Barriers: identifier, mode (0 arrive-wait, 1 split), count (R80). -/
  bars : List (Nat × Nat × Nat)
  kwords : List W32
  ssize : Nat
  tsize : Nat
deriving DecidableEq, Repr

/-- The outcome of a load (R85): object identifier, or the offset of the failing word. -/
structure LoadStatus where
  ok : Bool
  value : Nat
deriving DecidableEq, Repr

structure Launch where
  die : Nat
  queue : Nat
  packet : Nat
  part : Nat
  obj : Nat
  func : Nat
  ncoh : Nat
  rows : Nat
  cols : Nat
  wgsize : Nat
  budget : Nat
  tmpl : Bool
  prio : Nat
  asid : Nat
  rec_ : Nat
  segBase : List Word
  segLim : List Word
  /-- The span and the entries (source, destination, cycle) of the cohorts' circuit table (R230, R231). -/
  span : Nat
  table : List (Nat × Nat × Nat)
  lastPtr : Nat
  params : List Word
  frozen : Option (Nat × Nat)
  live : Nat := 0
  ending : Bool := false
  /-- The founder of a templated launch has been dispatched (R49). -/
  founded : Bool := false
deriving DecidableEq, Repr

/-- One issuer of a collective (R351-R354): its logical core, channel, identifier, thread, bundle, scope, source, target
offset, the bytes read, and a page fault on the source. -/
structure Issuer where
  lg : Nat
  env : EngEnv
  chan : Nat
  id : Nat
  thread : Nat
  at_ : Pc
  scope : Nat
  shadow : Bool
  src : Word
  dst : Nat
  bytes : Option (List Byte)
  fault : Option FaultHold
deriving DecidableEq, Repr

/-- A use of a group identifier of a cohort (R352-R356): the members or targets, the length in bytes, element type and
function, the issuers, who was dropped, the deliveries left, and the result of a REDGRP once it is known. -/
structure GroupUse where
  redgrp : Bool
  tmask : Nat
  len : Nat
  ety : Nat
  fn : Nat
  issuers : List Issuer
  dropped : List Nat
  left : List Nat
  result : Option (List Byte) := none
deriving DecidableEq, Repr

structure Cohort where
  launch : Nat
  index : Nat
  rows : Nat
  cols : Nat
  /-- Core of each logical core. -/
  place : List Nat
  ctxOf : List Nat
  start : Nat
  span : Nat
  table : List (Nat × Nat × Nat)
  groups : Tab GroupUse := []
  /-- Messages injected and not yet arrived: src, dst, arrival time, words. -/
  flying : List (Nat × Nat × Nat × List Word) := []
  doneCores : List Nat := []
deriving DecidableEq, Repr

/-! ### Front ends -/

inductive QueueState where
  | disabled | active | aborted | suspended
deriving DecidableEq, Repr

/-- A packet in the look-ahead or at issue: number, its eight words (none when its slot could not be read), the packet that
entered its buffer, and the value it completes with when it is malformed or unreadable. -/
structure Packet where
  id : Nat
  words : List Word
  parent : Option Nat
  bad : Option Int
deriving DecidableEq, Repr

/-- A packet that has issued and not completed. `sig` is the virtual address of its SIG, none when it has none or it did not
translate. `waits` holds the unsatisfied entries of a BARRIER (position, address), or the lines that a release waits for
(line, version to reach). `stage` is 0 while its work runs, 1 while a SIGNAL waits to be performed as a release or an
entering packet is about to complete, 2 during the release before the SIG update (R245, R248). -/
structure Issued where
  packet : Packet
  sig : Option Nat
  waits : List (Nat × Nat)
  stage : Nat
deriving DecidableEq, Repr

/-- A return point of the stack (R247): entering packet, buffer address, packets read, length; whether it is a LOOP's, and
the iterations counted. -/
structure Frame where
  packet : Nat
  buf : Nat
  pos : Nat
  len : Nat
  count : Nat
  loop : Bool
deriving DecidableEq, Repr

structure Queue where
  state : QueueState := .disabled
  abortVal : Int := 0
  ring : Nat := 0
  log2n : Nat := 4
  asid : Nat := 0
  prio : Nat := 0
  gbase : Nat := 0
  qbase : Nat := 0
  read : Nat := 0
  /-- The latest WRITE that the front end has observed. -/
  seen : Nat := 0
  /-- The number of the ring packet that the look-ahead reads next. -/
  ahead : Nat := 0
  look : List Packet := []
  /-- The stack of the look-ahead stage. -/
  stack : List Frame := []
  /-- The look-ahead stands at a COND, LOOP or JOIN until the issue stage reaches it. -/
  stopped : Bool := false
  issued : List Issued := []
  nextId : Nat := 0
deriving DecidableEq, Repr

structure CopyJob where
  id : Nat
  queue : Nat
  packet : Nat
  src : Nat
  dst : Nat
  len : Nat
  asid : Nat
deriving DecidableEq, Repr

structure FrontEnd where
  base : Word := 0
  /-- QUEUE and CMD of FEQCMD, and BUSY (R238). -/
  cmd : Word := 0
  queues : Tab Queue := []
  nextIssue : Nat := 0
  lastQueue : Tab Nat := []
  jobs : List CopyJob := []
  nextJob : Nat := 0
  lost : Bool := false
deriving DecidableEq, Repr

/-! ### Physical memory -/

/-- A write that waits at its home slice (R223): its bytes by physical address, key value (none for accesses below the
keys, DESIGN CHOICE, log 5), who made it (core, context, thread), and the number that the result of an ATOM awaits it under. -/
structure PWrite where
  bytes : List (Nat × Byte)
  key : Option Nat
  owners : List (Nat × Nat × Nat)
  id : Option Nat := none
deriving DecidableEq, Repr

/-- A line at its home slice (R221, R223, R219, R212). -/
structure Line where
  expiry : Nat := 0
  version : Nat := 0
  waiting : List PWrite := []
  writer : Option (Nat × Nat) := none
  /-- The tick of the latest write performed on the line, plus 1 (R223: one write a tick). -/
  performed : Nat := 0
  /-- The nodes whose collapse answers are awaited; empty when no collapse runs. -/
  collapse : List CollapseNode := []
  collapsing : Bool := false
deriving DecidableEq, Repr

/-- A strided-range lease entry of a slice (R228). -/
structure RangeEntry where
  slice : Nat
  core : Nat
  base : Nat
  desc : Word
  expiry : Nat
deriving DecidableEq, Repr

/-- A replica of a read-mostly line: cluster and the latest lease it granted (R218, R219). -/
structure Replica where
  cluster : Nat
  expiry : Nat
  pending : Bool
deriving DecidableEq, Repr

structure Phys where
  /-- The bytes of the pillars, in canonical form; an unlisted byte is zero (R21). -/
  dram : List Host.Cell := []
  /-- Bytes that the home slices hold and the pillars do not hold yet (R204). -/
  overlay : Tab Byte := []
  /-- The key value each line was last written under, at its home slice and in its pillar; an unlisted line is as the wipe left
  it (DESIGN CHOICE, log 5). -/
  lineKey : Tab Nat := []
  dramKey : Tab Nat := []
  poison : List Nat := []
  lines : Tab Line := []
  ranges : List RangeEntry := []
  /-- Package directory: line to dies. Die directories: line to clusters (R218). -/
  pkgDir : Tab (List Nat) := []
  dieDir : Tab (List Nat) := []
  replicas : Tab (List Replica) := []
deriving DecidableEq, Repr

/-! ### Host and fabric -/

/-- A PCIe read of the host window that waits for its completion (R276): request number, host address, length, the context and
thread it belongs to, the segment and address of the access, the place of its bytes in the thread's result, and the result's
type. -/
structure HostRead where
  id : Nat
  addr : Nat
  len : Nat
  core : Nat
  ctx : Nat
  thread : Nat
  seg : Nat
  va : Nat
  into : Nat
  ty : Nat
  deadline : Nat
deriving DecidableEq, Repr

structure HostLink where
  writes : List (Nat × Byte) := []
  reads : List HostRead := []
  nextId : Nat := 0
  window : Option HdmReq := none
  cxl : List (List Byte × Bool) := []
  mailbox : List (List Nat) := []
  aer : List Nat := []
  /-- Loads that firmware reported: status of each load in order. -/
  loads : List LoadStatus := []
  /-- Requests refused or made, as the requester sees them. -/
  replies : List Bool := []
deriving DecidableEq, Repr

/-- An LFL port (R278-R281): working lanes, up, the time its retrain ends, the switch port it is cabled to. -/
structure Port where
  lanes : Nat := 4
  up : Bool := false
  retrain : Option Nat := none
  plane : Option Nat := none
deriving DecidableEq, Repr

structure Fabric where
  ports : Tab Port := []
  rx : List (List Byte) := []
  tx : List (Nat × List Nat) := []
  retransmit : List Nat := []
  /-- Remote writes that their device has not acknowledged: core, device, the time of the acknowledgement (R204). -/
  unacked : List (Nat × Nat × Nat) := []
  lostDevices : List Nat := []
  lostDies : List Nat := []
deriving DecidableEq, Repr

/-- Fuses (R16-R20, R281, R282): an unlisted unit is whole. -/
structure Fuses where
  cmask : Tab (BitVec 12) := []
  smask : Tab (BitVec 4) := []
  banks : Tab (BitVec 128) := []
  lanes : Tab Nat := []
  device : Nat := 0
deriving DecidableEq, Repr

/-- The phases of the device (R15, R22, R282). -/
inductive Phase where
  | wiping | running | bootFailed | thermalStop
deriving DecidableEq, Repr

/-- The agents that act in a cycle. -/
inductive Agent where
  | core (k : Nat)
  | firmware (k : Nat)
  | frontEnd (d : Nat)
deriving DecidableEq, Repr

/-- An uncorrectable soft error: of a register element of a thread (R135), or of a line in DRAM or in a slice (R254). -/
inductive SoftError where
  | element (core ctx thread reg : Nat)
  | line (line : Nat)
deriving DecidableEq, Repr

structure State where
  now : Nat := 0
  agenda : List (Nat × Instr) := []
  turn : List Agent := []
  /-- The agents that have been given their turn in the present cycle. -/
  joined : List Agent := []
  /-- The core and context whose issue group executes an instruction. -/
  cur : Nat × Nat := (0, 0)
  /-- The traps of the bundle being issued, gathered op by op (R255); none outside a bundle of several ops. -/
  collect : Option (List (Nat × Nat × Trap)) := none
  freeCtr : Nat := 0
  /-- The number of the next awaited write or access. -/
  nextWait : Nat := 0
  phase : Phase := .wiping
  life : LifeCycle := .deployed
  lifePending : Option LifeCycle := none
  identity : Bool := true
  boots : Nat := 0
  fuses : Fuses := {}
  keys : Tab (BitVec 512) := []
  phys : Phys := {}
  cores : Tab Core := []
  clusters : Tab Cluster := []
  parts : Tab Partition := []
  objs : Tab Obj := []
  nextObj : Nat := 1
  scanShape : Nat × Nat := (0, 0)
  launches : Tab Launch := []
  nextLaunch : Nat := 0
  cohorts : Tab Cohort := []
  nextCohort : Nat := 0
  fes : Tab FrontEnd := []
  host : HostLink := {}
  fabric : Fabric := {}
  /-- Soft errors to come, each with its time: an input from outside (DESIGN CHOICE, log 87). -/
  softErrors : List (Nat × SoftError) := []
deriving DecidableEq, Repr

/-- The machine right after a reset: the wipe runs (R21, R22), every memory and register reads zero, every control
register holds its reset value (R301), no partition exists, and the fuses are those of a full part. -/
def State.reset : State := {}

end Sys2Proof.Machine
end

