-- ==== Sys2Proof/Machine/Ops.lean ====
section
/-! DEFINITION. The named operations over State: keyed lists, homes of the fields, the clock, the parts of the package,
filing and drawing, taking a trap and the return from one. -/

namespace Sys2Proof.Machine

/-! ### Keyed lists -/

def tget {α : Type} (t : Tab α) (k : Nat) : Option α :=
  match t with
  | [] => none
  | (j, v) :: r => if j = k then some v else tget r k

def tgetD {α : Type} (t : Tab α) (k : Nat) (d : α) : α := (tget t k).getD d

/-- Setting a key keeps the keys rising. -/
def tset {α : Type} (t : Tab α) (k : Nat) (v : α) : Tab α :=
  match t with
  | [] => [(k, v)]
  | (j, w) :: r => if k < j then (k, v) :: (j, w) :: r else if k = j then (k, v) :: r else (j, w) :: tset r k v

def tdel {α : Type} (t : Tab α) (k : Nat) : Tab α := t.filter fun e => e.1 != k

def tmod {α : Type} (t : Tab α) (k : Nat) (d : α) (f : α → α) : Tab α := tset t k (f (tgetD t k d))

/-- The first n with p n among k, k + 1, … of the given count. -/
def firstNat (p : Nat → Bool) : Nat → Nat → Option Nat
  | 0, _ => none
  | n + 1, k => if p k then some k else firstNat p n (k + 1)

def insertBy {α : Type} (key : α → Nat) (x : α) : List α → List α
  | [] => [x]
  | y :: r => if key x < key y then x :: y :: r else y :: insertBy key x r

def sortBy {α : Type} (key : α → Nat) (l : List α) : List α := l.foldr (insertBy key) []

def sumNat (l : List Nat) : Nat := l.foldl (· + ·) 0

def maxNat (l : List Nat) : Nat := l.foldl Nat.max 0

def nodup (l : List Nat) : List Nat := l.foldl (fun acc x => if acc.contains x then acc else acc ++ [x]) []

/-! ### The clock (R7) -/

/-- One tick of the GTC and one cycle, in units of 1/17 ns. -/
def tickLen : Nat := 17
def cycleLen : Nat := 20

/-- The Global Time Counter. -/
def State.gtc (s : State) : Nat := s.now / tickLen

/-- A time rounded up to a cycle boundary. -/
def cycleUp (t : Nat) : Nat := (t + (cycleLen - 1)) / cycleLen * cycleLen

/-- n cycles from now. -/
def State.after (s : State) (n : Nat) : Nat := s.now + cycleLen * n

/-- The start of a tick. -/
def tickTime (n : Nat) : Nat := n * tickLen

/-- The agenda with one more entry, after those of the same time (DESIGN CHOICE, log 66). -/
def State.schedule (s : State) (t : Nat) (i : Instr) : State :=
  { s with agenda := insertBy (·.1) (t, i) s.agenda }

/-- A free value, and the state that has drawn it (DESIGN CHOICE, log 4). -/
def State.draw1 (s : State) : Nat × State := (Config.free s.freeCtr, { s with freeCtr := s.freeCtr + 1 })

/-! ### The parts of the package (R11, R12, R16, R26, R174) -/

def coreCount : Nat := 576
def clusterCount : Nat := 48

/-- The die of a core, as the pillar numbers of R174 assign them. -/
def dieOf (k : Nat) : Nat := if k < 192 then 0 else if k < 384 then 1 else if k < 480 then 2 else 3

def clusterOf (k : Nat) : Nat := k / 12

def posOf (k : Nat) : Nat := k % 12

/-- The number of a cluster on its die. -/
def clusterOnDie (k : Nat) : Nat :=
  let c := clusterOf k
  if k < 192 then c else if k < 384 then c - 16 else if k < 480 then c - 32 else c - 40

/-- JXW-3 cores stand on dies 0 and 1. -/
def isWide (k : Nat) : Bool := k < 384

def classOf (k : Nat) : Nat := if isWide k then 0 else 1

/-- A core is present when CMASK says so (R17) and its die is not lost (R274). -/
def State.present (s : State) (k : Nat) : Bool :=
  k < coreCount && (tgetD s.fuses.cmask (clusterOf k) 0xFFF#12).getLsbD (posOf k) && !s.fabric.lostDies.contains (dieOf k)

/-- Pool capacity, stash bytes, slots, tiles and the instruction memory's window by class (R122, R185). -/
def poolCap (k : Nat) : Nat := if isWide k then 98304 else 65536
def stashCap (k : Nat) : Nat := if isWide k then 0x80000 else 0x40000
def slotCount (k : Nat) : Nat := if isWide k then 32 else 16
def tileCount (k : Nat) : Nat := if isWide k then 4 else 2
def windowWords (k : Nat) : Nat := if isWide k then 8192 else 4096
def threadCap (k : Nat) : Nat := if isWide k then 256 else 128

/-! ### Homes of the fields -/

def State.core (s : State) (k : Nat) : Core := tgetD s.cores k {}

def State.modCore (s : State) (k : Nat) (f : Core → Core) : State := { s with cores := tmod s.cores k {} f }

def Core.ctx (c : Core) (x : Nat) : Ctx := tgetD c.ctxs x {}

def Core.modCtx (c : Core) (x : Nat) (f : Ctx → Ctx) : Core := { c with ctxs := tmod c.ctxs x {} f }

def State.ctx (s : State) (k x : Nat) : Ctx := (s.core k).ctx x

def State.modCtx (s : State) (k x : Nat) (f : Ctx → Ctx) : State := s.modCore k fun c => c.modCtx x f

def Ctx.thread (c : Ctx) (t : Nat) : Thread := tgetD c.threads t {}

def Ctx.modThread (c : Ctx) (t : Nat) (f : Thread → Thread) : Ctx := { c with threads := tmod c.threads t {} f }

def State.modThread (s : State) (k x t : Nat) (f : Thread → Thread) : State :=
  s.modCtx k x fun c => c.modThread t f

/-- The core, context and context state that execute an op. -/
def State.myCore (s : State) : Nat := s.cur.1
def State.myCtxNo (s : State) : Nat := s.cur.2
def State.me (s : State) : Ctx := s.ctx s.myCore s.myCtxNo
def State.modMe (s : State) (f : Ctx → Ctx) : State := s.modCtx s.myCore s.myCtxNo f
def State.home (s : State) : Core := s.core s.myCore
def State.modHome (s : State) (f : Core → Core) : State := s.modCore s.myCore f

/-- Whether the executing context is the firmware slot. -/
def State.isFw (s : State) : Bool := s.myCtxNo == 4

def State.cluster (s : State) (c : Nat) : Cluster := tgetD s.clusters c {}
def State.modCluster (s : State) (c : Nat) (f : Cluster → Cluster) : State :=
  { s with clusters := tmod s.clusters c {} f }

/-- The start of the cycle after the bundle of a context: a bundle of two cycles ends a cycle later (R34). -/
def State.groupEnd (s : State) (k x : Nat) : Nat := s.after (if (s.ctx k x).second then 2 else 1)

/-- The translation a native PC of a core lies in. -/
def State.trans (s : State) (k : Nat) (pc : Pc) : Option Trans := tget (s.cluster (clusterOf k)).trans pc.tr

def State.modPhys (s : State) (f : Phys → Phys) : State := { s with phys := f s.phys }

def State.modFe (s : State) (d : Nat) (f : FrontEnd → FrontEnd) : State := { s with fes := tmod s.fes d {} f }

def State.modQueue (s : State) (d q : Nat) (f : Queue → Queue) : State :=
  s.modFe d fun e => { e with queues := tmod e.queues q {} f }

def State.queue (s : State) (d q : Nat) : Queue := tgetD (tgetD s.fes d {}).queues q {}

def State.modHost (s : State) (f : HostLink → HostLink) : State := { s with host := f s.host }

/-- The partition that owns a cluster (R12). -/
def State.partOfCluster (s : State) (c : Nat) : Option (Nat × Partition) :=
  s.parts.find? fun p => p.2.clusters.contains c && !p.2.swapped

def State.partOfCore (s : State) (k : Nat) : Option (Nat × Partition) := s.partOfCluster (clusterOf k)

/-- The launch a context works for. -/
def State.launchOf (s : State) (c : Ctx) : Option Launch := c.wg.bind fun w => tget s.launches w.launch

def State.cohortOf (s : State) (c : Ctx) : Option Cohort := c.wg.bind fun w => tget s.cohorts w.cohort

/-! ### Counters (R140) -/

/-- The event number of a stall counter. -/
def Stall.num : Stall → Nat
  | .issued => 0x01
  | .lookahead => 0x02
  | .stashBank => 0x03
  | .rfBank => 0x04
  | .rowWait => 0x05
  | .xferWait => 0x06
  | .barWait => 0x07
  | .binAge => 0x08
  | .segOverlay => 0x09
  | .leaseRenew => 0x0A
  | .copyFault => 0x0B
  | .translateWait => 0x0C
  | .uniformExpand => 0x0D
  | .opslotWait => 0x0E
  | .regclaimWait => 0x0F
  | .switchedOut => 0x10
  | .circuitSlot => 0x11
  | .replay => 0x12

def Ctx.count (c : Ctx) (e : Stall) : Ctx :=
  { c with regs := { c.regs with counters := tmod c.regs.counters e.num 0 fun n => (n + 1) % 2 ^ 48 } }

/-! ### Threads and their template items (R48, R54) -/

/-- The live threads of a context. -/
def Ctx.live (c : Ctx) : List Nat := (c.threads.filter fun e => e.2.place != .ended).map (·.1)

/-- The item index of a thread at an open level, all ones at a level not open. -/
def Ctx.item (c : Ctx) (t level : Nat) : Nat :=
  if (c.thread t).level ≤ level then 0xFFFFFFFF
  else if level = 0 then (c.wg.map (·.index)).getD 0
  else t / (c.tmpl.sizes[level - 1]?).getD 1

/-- The item count of a level, 0 at a level not open. -/
def Ctx.itemCount (c : Ctx) (t level nwg : Nat) : Nat :=
  if (c.thread t).level ≤ level then 0
  else if level = 0 then nwg
  else (c.wg.map (·.size)).getD 0 / (c.tmpl.sizes[level - 1]?).getD 1

/-! ### Filing and drawing (R29-R33) -/

def Ctx.binKeyed (c : Ctx) (key : BinKey) : Option (Nat × Bin) := c.bins.find? fun e => e.2.key == key

/-- The lowest-numbered empty bin. -/
def Ctx.emptyBin (c : Ctx) : Option Nat := firstNat (fun b => (tget c.bins b).isNone) 16 0

/-- The state of a bin that holds n threads, by its age (R31, R32). -/
def binStateOf (n age binage : Nat) : BinState :=
  if 32 ≤ n then .full else if cycleLen * binage ≤ age then .aged else .part

/-- Filing one thread (R30); `at_` is the time of the filing. -/
def Ctx.file1 (at_ : Nat) (key : BinKey) (c : Ctx) (t : Nat) : Ctx :=
  match c.binKeyed key with
  | some (b, bin) =>
    let ts := insertBy id t bin.threads
    { c with
      bins := tset c.bins b { bin with threads := ts, state := if 32 ≤ ts.length then .full else bin.state } }
  | none => match c.emptyBin with
    | some b => { c with bins := tset c.bins b ⟨key, [t], at_, .part⟩ }
    | none => { c with overflow := c.overflow ++ [(key, t)] }

/-- Where a filed thread then stands. -/
def Ctx.placeOf (c : Ctx) (t : Nat) : Place := if c.overflow.any (·.2 == t) then .overflow else .bin

def Ctx.file (at_ : Nat) (key : BinKey) (ts : List Nat) (c : Ctx) : Ctx :=
  let c' := ts.foldl (Ctx.file1 at_ key) c
  ts.foldl (fun c t => c.modThread t fun th => { th with place := c.placeOf t, pend := key.pend }) c'

/-- The claim of an emptied bin by the overflow list (R30): the key of the longest-waiting thread, every thread of that key. -/
def Ctx.claimOverflow (at_ : Nat) (c : Ctx) : Ctx :=
  match c.overflow, c.emptyBin with
  | (key, _) :: _, some b =>
    let ts := (c.overflow.filter (·.1 == key)).map (·.2)
    let sorted := sortBy id ts
    let c' := { c with
      overflow := c.overflow.filter fun e => e.1 != key
      bins := tset c.bins b ⟨key, sorted, at_, if 32 ≤ ts.length then .full else .part⟩ }
    ts.foldl (fun c t => c.modThread t fun th => { th with place := .bin }) c'
  | _, _ => c

/-- The bin that the next draw takes (R33): FULL before AGED, then the greatest age, then the lower number. -/
def Ctx.drawable (now : Nat) (c : Ctx) : Option (Nat × Bin) :=
  let pick (st : BinState) : Option (Nat × Bin) :=
    (c.bins.filter fun e => e.2.state == st && e.2.since ≤ now).foldl (fun best e => match best with
      | none => some e
      | some m => if e.2.since < m.2.since then some e else best) none
  (pick .full).or (pick .aged)

/-- Threads in lanes 0 upward. -/
def toLanes (ts : List Nat) : Tab Nat := ts.zipIdx.map fun p => (p.2, p.1)

/-- Drawing an issue group from a bin (R33). The latches are cleared (R126). A pending branch goes on with the group (R257). -/
def Ctx.drawFrom (now binage : Nat) (next : Nat) (b : Nat) (bin : Bin) (c : Ctx) : Ctx :=
  let take := if bin.state == .full then bin.threads.take 32 else bin.threads
  let left := bin.threads.filter fun t => !take.contains t
  let bins := if left.isEmpty then tdel c.bins b
    else tset c.bins b { bin with threads := left, state := binStateOf left.length (now - bin.since) binage }
  let delay := bin.key.pend.map fun p => (⟨take.map fun t => (t, p.target), p.left⟩ : Delay)
  let c1 : Ctx := { c with
    bins := bins, latches := [], charged := false, delays := [], drew := true
    group := some ⟨toLanes take, bin.key.pc, next, delay, none⟩ }
  let c2 := take.foldl (fun c t => c.modThread t fun th => { th with place := .group, pend := none }) c1
  if left.isEmpty then c2.claimOverflow now else c2

/-- A bin that has lost threads: no longer FULL below 32. -/
def Bin.recount (now binage : Nat) (b : Bin) : Bin :=
  let n := b.threads.length
  if b.state == BinState.full && n < 32 then { b with state := binStateOf n (now - b.since) binage } else b

/-- A thread leaves whatever bin or list holds it. -/
def Ctx.unfile (now : Nat) (t : Nat) (c : Ctx) : Ctx :=
  let bins := (c.bins.map fun e => (e.1, { e.2 with threads := e.2.threads.filter (· != t) })).filter
    fun e => !e.2.threads.isEmpty
  let freed := bins.length < c.bins.length
  let c' := { c with
    bins := bins.map fun e => (e.1, e.2.recount now c.regs.binage)
    overflow := c.overflow.filter fun e => e.2 != t }
  if freed then c'.claimOverflow now else c'

/-- The threads of the issue group, in lane order. -/
def Group.threads (g : Group) : List Nat := g.lanes.map (·.2)

/-- The pending branch that a thread carries when it is filed inside a branch delay (R257). -/
def Group.pendOf (g : Group) (t : Nat) : Option Pending :=
  g.delay.bind fun d => (tget d.taken t).map fun pc => ⟨pc, d.left⟩

/-- Keys without repeats, in order. -/
def distinctKeys (l : List BinKey) : List BinKey := l.foldl (fun acc k => if acc.contains k then acc else acc ++ [k]) []

/-- Files threads, each at its key: those with a pending branch first, threads of one key together (R29, R30). -/
def Ctx.fileKeys (at_ : Nat) (keys : List (Nat × BinKey)) (c : Ctx) : Ctx :=
  let sorted := (keys.filter fun e => e.2.pend.isSome) ++ keys.filter fun e => e.2.pend.isNone
  (distinctKeys (sorted.map (·.2))).foldl (fun c key => c.file at_ key ((sorted.filter fun e => e.2 == key).map (·.1))) c

/-- Files threads of the issue group at a PC, each with its own pending branch, taken threads first (R29, R257). -/
def Ctx.fileGroup (at_ : Nat) (g : Group) (pc : Pc) (ts : List Nat) (c : Ctx) : Ctx :=
  c.fileKeys at_ (ts.map fun t => (t, ⟨pc, g.pendOf t⟩))

/-- The issue group ends: the context has none. -/
def Ctx.noGroup (c : Ctx) : Ctx := { c with group := none, charged := false, delays := [] }

/-- Threads leave the lanes of the issue group; an empty group ends. -/
def Ctx.dropLanes (ts : List Nat) (c : Ctx) : Ctx :=
  match c.group with
  | none => c
  | some g =>
    let lanes := g.lanes.filter fun e => !ts.contains e.2
    if lanes.isEmpty then c.noGroup
    else { c with group := some { g with lanes := lanes, delay := g.delay.map fun d =>
      { d with taken := d.taken.filter fun e => !ts.contains e.1 } } }

/-- The PC of the bundle in execution, and the PC after its group. -/
def Group.nextPc (g : Group) : Pc := { g.pc with off := g.next }

/-- The PC of the issue group's bundle. -/
def Ctx.pc (c : Ctx) : Pc := (c.group.map (·.pc)).getD {}

/-! ### Trap records (R254, R259, R264) -/

def TrapCode.num : TrapCode → Nat
  | .illegalOp => 0x01
  | .illegalBundle => 0x02
  | .priv => 0x03
  | .segLimit => 0x04
  | .misalign => 0x05
  | .pageFault => 0x06
  | .accessViolation => 0x07
  | .divZero => 0x08
  | .fpException => 0x09
  | .formatDivergence => 0x0A
  | .rowEarly => 0x0B
  | .rowLost => 0x0C
  | .rowBusy => 0x0D
  | .opslotFault => 0x0E
  | .mcastTarget => 0x0F
  | .regDeadlock => 0x10
  | .barMisuse => 0x11
  | .translationFault => 0x12
  | .verifyFail => 0x13
  | .rfUncorrectable => 0x14
  | .memUncorrectable => 0x15
  | .software => 0x16
  | .breakpoint => 0x17
  | .xferFault => 0x18

/-- A number as a 64-bit word. -/
def word64 (n : Nat) : Word := BitVec.ofNat 64 n

/-- The point map has an entry for a bundle (R113). -/
def Trans.mapped (t : Trans) (off : Nat) : Bool := t.pmap.any fun e => e.off == off

/-- The LPF block and instruction that a bundle serves; all ones where it serves none (R109, R112). -/
def Trans.point (t : Trans) (off : Nat) : Nat × Nat :=
  match t.attr.find? fun e => e.1 == off with
  | some (_, b, i) => (b, i)
  | none => (0xFFFF, 0xFFFF)

def State.point (s : State) (k : Nat) (pc : Pc) : Nat × Nat :=
  match s.trans k pc with
  | some t => t.point pc.off
  | none => (0xFFFF, 0xFFFF)

/-- Whether a context runs a founder in its prologue (R52, R64), and the level it builds. -/
def Ctx.building (c : Ctx) (t : Nat) : Option Nat :=
  match c.wg with
  | some w => if w.founder then some 0 else if c.tmpl.tnest.isSome && t == 0 then some c.tmpl.opened else none
  | none => none

/-- The LPF point of a record (R254): `point` when it is given, the bundle's own otherwise, and all ones for an RF_UNCORRECTABLE
at a bundle that the point map does not list (R135). -/
def State.attributed (s : State) (k : Nat) (code : TrapCode) (at_ : Pc) (point : Option (Nat × Nat)) : Nat × Nat :=
  if code == .rfUncorrectable && !((s.trans k at_).any fun t => t.mapped at_.off) then (0xFFFF, 0xFFFF)
  else point.getD (s.point k at_)

/-- The eight words of a record but for SEQ (R259). `eng` marks an engine stream, `late` a late trap; `point` and `tick` stand in
for the bundle's own LPF point and for the present tick. -/
def State.recordWords (s : State) (k x t : Nat) (tr : Trap) (late eng : Bool) (at_ stop : Pc) (point : Option (Nat × Nat) := none)
    (tick : Option Nat := none) : List Word :=
  let c := s.ctx k x
  let fw := x == 4
  let b := c.building t
  let here := ((s.trans k at_).map (·.key)).getD ⟨(c.wg.map (·.obj)).getD 0, 0, 0, 0⟩
  let pt := s.attributed k tr.code at_ point
  let away := tr.code == .translationFault && tr.addr != 0
  let p := tr.addr - 1
  let (fn, reg, blk, ins) := if away then (p / 2 ^ 48, p / 2 ^ 32 % 2 ^ 16, p / 2 ^ 16 % 2 ^ 16, p % 2 ^ 16)
    else (here.func, here.region, pt.1, pt.2)
  let key : TKey := { here with func := fn, region := reg }
  let l := s.launchOf c
  let item n := c.item t n
  [ word64 (tick.getD s.gtc),
    word64 (tr.code.num * 2 ^ 56 + (tr.sub % 256) * 2 ^ 48 + dieOf k * 2 ^ 46 + clusterOnDie k * 2 ^ 42 +
      posOf k * 2 ^ 38 + (if fw then 0 else x) * 2 ^ 36 + (if fw then 2 ^ 35 else 0) + (if late then 2 ^ 34 else 0) +
      (if b.isSome then 2 ^ 33 else 0) + (if eng then 2 ^ 32 else 0) + (t % 256) * 2 ^ 24 + c.tmpl.opened * 2 ^ 21 +
      b.getD 0 * 2 ^ 19 + ((l.map (·.die)).getD 0) * 2 ^ 17),
    word64 (key.obj * 2 ^ 32 + key.func * 2 ^ 16 + key.region),
    word64 (blk * 2 ^ 48 + ins * 2 ^ 32 + at_.off),
    word64 (if tr.code == .translationFault then 0 else tr.addr),
    word64 (item 1 * 2 ^ 32 + item 0),
    word64 (item 3 * 2 ^ 32 + item 2),
    word64 (((c.wg.map (·.index)).getD 0) * 2 ^ 32 + ((l.map (·.queue)).getD 0) * 2 ^ 24 + stop.off) ]

/-- A record joins the records of its core that wait for room in the ring (R260). Delivery is due at once. -/
def State.addRecord (s : State) (k x t : Nat) (tr : Trap) (late eng : Bool) (at_ stop : Pc) (point : Option (Nat × Nat) := none)
    (tick : Option Nat := none) : State :=
  let w := s.recordWords k x t tr late eng at_ stop point tick
  (s.modCore k fun c => { c with recs := c.recs ++ [⟨w, x, t⟩] }).schedule s.now (.trapRecordDelivery k)

/-! ### Taking a trap (R255, R256) and answering one (R262) -/

/-- The time a restart of the firmware slot takes is free (R261; DESIGN CHOICE, log 4); it is at most this many cycles in the model. -/
def restartBound : Nat := 1024

/-- A trap in the firmware slot stops it until FIRMWARE_RESTART (R261). -/
def State.stopFirmware (s : State) (k : Nat) : State :=
  let s := s.modCtx k 4 fun c => c.noGroup
  s.schedule (s.after 1) (.firmwareRestart k)

/-- A trap-parked thread has not arrived at any barrier, and no register claim counts it as parked (R258, R137). -/
def State.leavePark (s : State) (k x t : Nat) : State :=
  let s := s.modCtx k x fun c => { c with bars := c.bars.map fun b => (b.1, { b.2 with arrived := b.2.arrived.filter (· != t) }) }
  s.modCore k fun co => { co with claims := co.claims.filter fun r => !(r.ctx == x && r.threads.contains t) }

/-- Trap-parks one thread: its record is written, and the stop point and the answer's needs are kept (R255, R262). The STOPOFF
of a precise trap is its NOFF (R259). -/
def State.park (s : State) (k x t : Nat) (h : TrapHold) (eng : Bool := false) (tick : Option Nat := none) : State :=
  let s := s.addRecord k x t h.trap h.late eng h.at_ (if h.late then h.stop.pc else h.at_) h.point tick
  let was : Place := match ((s.ctx k x).thread t).place with
    | .barrier id => .barrier id
    | .tnest => .tnest
    | .regclm => .regclm
    | _ => .bin
  (s.leavePark k x t).modCtx k x fun c => (c.unfile s.now t).modThread t fun th =>
    { th with place := .trap, pend := none, trap := some { h with was := if h.late then was else .bin } }

/-- Taking traps at the bundles of the issue group (R255): the trapping threads are trap-parked in ascending slot order, each
attributed to its own bundle, and the other threads of the group are filed at the group's bundle in the next cycle. All of them
go on there (DEDUCED, log 18). In the firmware slot, R261. -/
def State.takeTrapsAt (s : State) (k x : Nat) (traps : List (Nat × Trap × Pc)) (point : Option (Nat × Nat) := none) : State :=
  let c := s.ctx k x
  let g := c.group.getD ⟨[], {}, 0, none, none⟩
  let ts := sortBy id (nodup (traps.map (·.1)))
  let others := g.threads.filter fun t => !ts.contains t
  let s := s.modCtx k x fun c => { (c.fileGroup (s.after 1) g g.pc others).noGroup with second := false }
  let s := ts.foldl (fun s t => match traps.find? (·.1 == t) with
    | some (_, tr, pc) => s.park k x t { trap := tr, late := false, at_ := pc, stop := ⟨g.pc, g.pendOf t⟩, dest := none, point := point }
    | none => s) s
  if x == 4 then s.stopFirmware k else s

/-- Taking traps at the bundle of the issue group (R255). -/
def State.takeTraps (s : State) (k x : Nat) (traps : List (Nat × Trap)) : State :=
  s.takeTrapsAt k x (traps.map fun e => (e.1, e.2, (((s.ctx k x).group.map (·.pc)).getD {})))

/-- Of the traps of one bundle, gathered with their slots, each thread's is that of the highest slot (R255). -/
def mergeTraps (l : List (Nat × Nat × Trap)) : List (Nat × Trap) :=
  let ts := nodup (l.map (·.2.1))
  ts.filterMap fun t =>
    ((l.filter (·.2.1 == t)).foldl (fun (best : Option (Nat × Trap)) e => match best with
      | none => some (e.1, e.2.2)
      | some b => if b.1 < e.1 then some (e.1, e.2.2) else best) none).map fun b => (t, b.2)

/-- The traps of an op: taken at once, or gathered when the op is one of several of its bundle. -/
def State.trapped (s : State) (slot : Nat) (traps : List (Nat × Trap)) : State :=
  match s.collect with
  | some l => { s with collect := some (l ++ traps.map fun e => (slot, e.1, e.2)) }
  | none => s.takeTraps s.myCore s.myCtxNo traps

/-- An op that raises the traps, or has the effect when there are none (R9, R255). -/
def runOp (slot : Nat) (traps : List (Nat × Trap)) (eff : State → State) (s : State) : State :=
  match traps with
  | [] => eff s
  | _ :: _ => s.trapped slot traps

/-- An op that waits holds its bundle, and its context counts the cause (R37). -/
def State.holdFor (s : State) (e : Stall) : State := s.modMe fun c => { c with hold := some e }

/-- The native position of a thread of a context. -/
def Ctx.posOf (c : Ctx) (t : Nat) : BinKey :=
  let th := c.thread t
  match th.place with
  | .group => match c.group with
    | some g => ⟨g.pc, g.pendOf t⟩
    | none => th.resume
  | .bin => ((c.bins.find? fun e => e.2.threads.contains t).map (·.2.key)).getD th.resume
  | .overflow => ((c.overflow.find? fun e => e.2 == t).map (·.1)).getD th.resume
  | .trap => (th.trap.map (·.stop)).getD th.resume
  | _ => th.resume

/-- A late trap of a thread that has no trap yet parks it; a trap-parked thread only gets the record (R259) (DEDUCED, log 39). -/
def State.parkLate (s : State) (k x t : Nat) (h : TrapHold) (eng : Bool) (tick : Option Nat) : State :=
  if ((s.ctx k x).thread t).trap.isSome then s.addRecord k x t h.trap true eng h.at_ h.stop.pc none tick
  else s.park k x t h eng tick

/-- Late traps (R256): the group stops at its next unissued bundle, or after its branch delay, and the trapping threads
are trap-parked there, `holds` giving what each keeps (DEDUCED, log 32). -/
def State.takeLateHolds (s : State) (k x : Nat) (holds : List (Nat × TrapHold)) (eng : Bool := false) (tick : Option Nat := none) : State :=
  let c := s.ctx k x
  let ts := sortBy id (nodup (holds.map (·.1)))
  let stops := ts.map fun t => (t, match (c.thread t).trap with
    | some h => h.stop
    | none => c.posOf t)
  let s := s.modCtx k x fun c => match c.group with
    | some g =>
      if g.threads.any ts.contains then
        (c.fileGroup (s.after 1) g g.pc (g.threads.filter fun t => !ts.contains t)).noGroup
      else c
    | none => c
  let s := stops.foldl (fun s e => (holds.filter (·.1 == e.1)).foldl (fun s h =>
    s.parkLate k x e.1 { h.2 with late := true, stop := e.2 } eng tick) s) s
  if x == 4 then s.stopFirmware k else s

/-- Late traps that are attributed to one bundle. -/
def State.takeLate (s : State) (k x : Nat) (traps : List (Nat × Trap)) (at_ : Pc) (dest : Option (Nat × Nat))
    (eng : Bool := false) (tick : Option Nat := none) : State :=
  s.takeLateHolds k x (traps.map fun e => (e.1, { trap := e.2, late := true, at_ := at_, stop := {}, dest := dest })) eng tick

end Sys2Proof.Machine
end

