-- ==== Sys2Proof/Machine/Mem.lean ====
section
/-! DEFINITION. Physical memory: the pillars, the home slices with their leases, the write-combining buffers, the L1
caches, read-mostly replicas, and the translation of virtual addresses. -/

namespace Sys2Proof.Machine

/-! ### Cells -/

/-- What a listed address holds, or zero (R21: the wipe leaves zeros; an unlisted byte has not been written since). -/
def cellAt (m : List Host.Cell) (a : Nat) : Byte :=
  match m with
  | [] => 0#8
  | (j, v) :: r => if j = a then v else cellAt r a

/-- A write of one byte keeps the canonical form: rising addresses, no zero listed. -/
def cellPut (m : List Host.Cell) (a : Nat) (b : Byte) : List Host.Cell :=
  match m with
  | [] => if b = 0#8 then [] else [(a, b)]
  | (j, v) :: r =>
    if a < j then (if b = 0#8 then (j, v) :: r else (a, b) :: (j, v) :: r)
    else if a = j then (if b = 0#8 then r else (a, b) :: r)
    else (j, v) :: cellPut r a b

def cellPuts (m : List Host.Cell) (bs : List (Nat × Byte)) : List Host.Cell :=
  bs.foldl (fun m e => cellPut m e.1 e.2) m

/-- The canonical form of a memory: addresses rising, nothing listed that an unlisted address reads as. -/
def Memory.wfFrom (lo : Nat) : List Host.Cell → Bool
  | [] => true
  | (a, b) :: r => lo ≤ a && b != 0#8 && Memory.wfFrom (a + 1) r

def Memory.wf (m : List Host.Cell) : Bool := Memory.wfFrom 0 m

/-- Bytes little-endian (R4). -/
def bytesToNat : List Byte → Nat
  | [] => 0
  | b :: r => b.toNat + 256 * bytesToNat r

def natToBytes : Nat → Nat → List Byte
  | 0, _ => []
  | n + 1, v => BitVec.ofNat 8 v :: natToBytes n (v / 256)

/-- Bytes from an address upward. -/
def bytesAt (a : Nat) (bs : List Byte) : List (Nat × Byte) := bs.zipIdx.map fun p => (a + p.2, p.1)

/-! ### The physical address space (R174) -/

def hostBase : Nat := 2 ^ 51
def pillarEnd : Nat := 0x90_0000_0000

inductive Region where
  | pillar (k : Nat)
  | hole
  | host
deriving DecidableEq, Repr

def regionOf (pa : Nat) : Region :=
  if pa < pillarEnd then .pillar (pa / 2 ^ 30) else if pa < hostBase then .hole else .host

/-- Sizes of the spare region by the code that CAPPIL reports (R12), and of the fixed regions. -/
def sysBase : Nat := 0x3F00_0000

def spareSize (code : Nat) : Nat := if code = 1 then 0x800_0000 else if code = 2 then 0x1000_0000 else 0

/-- The bytes of a line of a lost die, or of a poisoned line, are uncorrectable (R254, R274). -/
def State.uncorrectable (s : State) (pa : Nat) : Bool :=
  s.phys.poison.contains (pa / 128) ||
    match regionOf pa with
    | .pillar k => s.fabric.lostDies.contains (dieOf k)
    | _ => false

/-- The stored byte, in the slice or in the pillar. -/
def Phys.raw (p : Phys) (pa : Nat) : Byte := (tget p.overlay pa).getD (cellAt p.dram pa)

/-- The byte as the pillar alone holds it (R213). -/
def Phys.rawDram (p : Phys) (pa : Nat) : Byte := cellAt p.dram pa

/-- The value of a key slot. -/
def State.keyOf (s : State) (slot : Nat) : Nat := (tgetD s.keys slot 0).toNat

/-- The key of an access that names none: slot 0 in the system regions, which it serves (R284); none elsewhere (DESIGN CHOICE, log 5). -/
def State.hwKey (s : State) (pa : Nat) : Option Nat :=
  match regionOf pa with
  | .pillar _ => if sysBase ≤ pa % 2 ^ 30 then some (s.keyOf 0) else none
  | _ => none

/-- A byte under a key (R181): as stored when the line was last written under that key or never since the wipe (DESIGN CHOICE, log 5);
the free function of the other cases. `get` reads the stored bytes. -/
def decryptByte (get : Nat → Byte) (lineKey key : Option Nat) (pa : Nat) : Byte :=
  match lineKey, key with
  | some w, some r =>
    if w = r then get pa
    else
      let blk := pa / 16
      Config.otherKeyByte w r (pa / 128) blk (bytesToNat ((List.range 16).map fun i => get (16 * blk + i))) (pa % 16)
  | _, _ => get pa

def Phys.byte (p : Phys) (key : Option Nat) (pa : Nat) : Byte :=
  decryptByte p.raw (tget p.lineKey (pa / 128)) key pa

def Phys.dramByte (p : Phys) (key : Option Nat) (pa : Nat) : Byte :=
  decryptByte p.rawDram (tget p.dramKey (pa / 128)) key pa

/-- A line takes a new key: its bytes become what they read as under it (R181). -/
def Phys.rekey (p : Phys) (line : Nat) (key : Option Nat) : Phys :=
  match key with
  | none => p
  | some k => match tget p.lineKey line with
    | none => { p with lineKey := tset p.lineKey line k }
    | some w =>
      if w = k then p
      else
        let bs := (List.range 128).map fun i => (128 * line + i, p.byte key (128 * line + i))
        { p with
          overlay := bs.foldl (fun o e => tset o e.1 e.2) p.overlay
          lineKey := tset p.lineKey line k }

/-- Bytes into the home slice, under a key. -/
def Phys.put (p : Phys) (key : Option Nat) (bs : List (Nat × Byte)) : Phys :=
  let lines := nodup (bs.map (·.1 / 128))
  let p' := lines.foldl (fun p l => p.rekey l key) p
  { p' with overlay := bs.foldl (fun o e => tset o e.1 e.2) p'.overlay }

/-- The slices write the bytes that `ok` allows into the pillars, each line under the key it was last written under (R204, mem
scope). -/
def Phys.flush (p : Phys) (ok : Nat → Bool) : Phys :=
  let out := p.overlay.filter fun e => ok e.1
  { p with
    dram := cellPuts p.dram out
    overlay := p.overlay.filter fun e => !ok e.1
    dramKey := (nodup (out.map (·.1 / 128))).foldl (fun t l => match tget p.lineKey l with
      | some k => tset t l k
      | none => t) p.dramKey }

/-- The bytes of a pillar's line as they read under a key. -/
def Phys.lineUnder (p : Phys) (line : Nat) (key : Option Nat) : List (Nat × Byte) :=
  (List.range 128).map fun i => (128 * line + i, p.dramByte key (128 * line + i))

/-- A line of a pillar takes a new key, its slice holding none of its bytes. -/
def Phys.rekeyDram (p : Phys) (line : Nat) (key : Option Nat) : Phys :=
  match key with
  | none => p
  | some k =>
    let p1 := match tget p.dramKey line with
      | none => p
      | some w => if w = k then p else { p with dram := cellPuts p.dram (p.lineUnder line key) }
    { p1 with dramKey := tset p1.dramKey line k, lineKey := tset p1.lineKey line k }

/-- Bytes into the pillar itself, which STKCPY and the fathom bus write (R213). -/
def Phys.putDram (p : Phys) (key : Option Nat) (bs : List (Nat × Byte)) : Phys :=
  let lines := nodup (bs.map (·.1 / 128))
  let p1 := lines.foldl (fun p l => p.rekeyDram l key) (p.flush fun a => lines.contains (a / 128))
  { p1 with dram := cellPuts p1.dram bs }

/-! ### Slices (R174, R218-R223) -/

/-- Slices present in a cluster (R17). -/
def State.slices (s : State) (c : Nat) : List Nat :=
  (List.range 4).filter fun i => (tgetD s.fuses.smask c 0xF#4).getLsbD i

/-- The slice of a line in a cluster: cluster × 4 + slice (R174, R218). -/
def State.sliceIn (s : State) (c line : Nat) : Nat :=
  let l := s.slices c
  4 * c + (l[line % Nat.max 1 l.length]?).getD 0

/-- The cluster that homes a line. -/
def homeCluster (line : Nat) : Nat := clusterOf (128 * line / 2 ^ 30)

def State.homeSlice (s : State) (line : Nat) : Nat := s.sliceIn (homeCluster line) line

def State.line (s : State) (l : Nat) : Line := tgetD s.phys.lines l {}

def State.modLine (s : State) (l : Nat) (f : Line → Line) : State :=
  s.modPhys fun p => { p with lines := tmod p.lines l {} f }

/-- A line is replicated when some directory records it (R218). -/
def State.replicated (s : State) (l : Nat) : Bool := (tget s.phys.pkgDir l).isSome

/-- The elements of a range descriptor (R227): stride, last index, width. -/
def rangeStride (d : Word) : Nat := (d.extractLsb' 44 20).toNat
def rangeCount (d : Word) : Nat := (d.extractLsb' 28 16).toNat
def rangeWidth (d : Word) : Nat := 2 ^ (d.extractLsb' 26 2).toNat

/-- Whether a byte lies in an element of a range that starts at `base`. -/
def inRange (base : Nat) (d : Word) (a : Nat) : Bool :=
  base ≤ a && rangeStride d != 0 && (a - base) / rangeStride d ≤ rangeCount d && (a - base) % rangeStride d < rangeWidth d

/-- The tick from which a write of these bytes may be performed (R223, R228) (DEDUCED, log 65). -/
def State.writeReady (s : State) (l : Nat) (w : PWrite) : Nat :=
  let rs := s.phys.ranges.filter fun r => s.homeSlice l == r.slice && w.bytes.any fun b => inRange r.base r.desc b.1
  maxNat ((s.line l).expiry :: (s.line l).performed :: rs.map (·.expiry))

/-! ### Banks as memory sees them (R197, R200) -/

def State.modMtx (s : State) (k : Nat) (f : Mtx → Mtx) : State := s.modCore k fun c => { c with mtx := f c.mtx }

def State.mtx (s : State) (k : Nat) : Mtx := (s.core k).mtx

def State.bank (s : State) (k b : Nat) : Bank := tgetD (s.mtx k).banks b {}

def State.modBank (s : State) (k b : Nat) (f : Bank → Bank) : State :=
  s.modMtx k fun m => { m with banks := tmod m.banks b {} f }

/-- The core and bank slot of a pillar address. -/
def bankOf (pa : Nat) : Nat × Nat := (pa / 2 ^ 30, pa % 2 ^ 30 / 2 ^ 23)

/-- The bank of a pillar address is closed and no activation waits for it: ordinary accesses are not deferred (R200) (DEDUCED,
log 73). -/
def State.bankIdle (s : State) (pa : Nat) : Bool :=
  let b := s.bank (bankOf pa).1 (bankOf pa).2
  (b.state == .idle || b.state == .busy) && b.waiting.isNone && !b.stkWaits

/-- An access or a refresh keeps a bank busy for at most 60 ticks; how long is free (R197; DESIGN CHOICE, log 4). -/
def State.busyBank (s : State) (k b : Nat) : State :=
  let (n, s) := s.draw1
  (s.modBank k b fun e => { e with state := .busy }).schedule (s.now + tickTime (1 + n % 60)) (.bankAccessComplete k b)

/-- An ordinary access reaches the bank of a pillar address, which does not defer it: an IDLE bank is BUSY with it (R197). -/
def State.bankAccess (s : State) (pa : Nat) : State :=
  if (s.bank (bankOf pa).1 (bankOf pa).2).state == .idle then s.busyBank (bankOf pa).1 (bankOf pa).2 else s

/-- The slices write what they hold into the pillars, but for the lines that `ok` leaves out, and the banks are busy with it
(R197, R204). -/
def State.flushWhere (s : State) (ok : Nat → Bool) : State :=
  let lines := nodup ((s.phys.overlay.filter fun e => ok e.1).map fun e => e.1 / 2 ^ 23 * 2 ^ 23)
  lines.foldl State.bankAccess (s.modPhys fun p => p.flush ok)

/-- The slices write what they can into the pillars; the banks with a row open or awaited defer theirs (R200). -/
def State.flushIdle (s : State) : State := s.flushWhere s.bankIdle

/-! ### Results that await memory -/

/-- A number for a write or an access that a result awaits. -/
def State.newWait (s : State) : Nat × State := (s.nextWait, { s with nextWait := s.nextWait + 1 })

/-- What a result awaited has come: it lands from the given time on. -/
def Landing.answer (l : Landing) (id at_ : Nat) : Landing :=
  if l.awaits.contains id then { l with awaits := l.awaits.filter (· != id), due := Nat.max l.due at_ } else l

def State.answered (s : State) (id at_ : Nat) : State :=
  { s with cores := s.cores.map fun k => (k.1, { k.2 with ctxs := k.2.ctxs.map fun c =>
      (c.1, { c.2 with inflight := c.2.inflight.map fun l => l.answer id at_ }) }) }

/-! ### Writes at home slices (R207, R219, R223) -/

/-- The lines of 128 B of a slice of 2 MiB (R11). -/
def sliceLines : Nat := 16384

/-- The lines that a slice holds: those the pillars do not hold yet, and the replicas (R204, R218). -/
def State.linesIn (s : State) (slice : Nat) : List Nat :=
  nodup ((s.phys.overlay.map (·.1 / 128)).filter fun l => s.homeSlice l == slice)

def State.replicasIn (s : State) (slice : Nat) : List (Nat × Nat) :=
  s.phys.replicas.flatMap fun e => (e.2.filter fun r => s.sliceIn r.cluster e.1 == slice).map fun r => (e.1, r.cluster)

/-- A slice that holds more lines than it has room for writes one back to its pillar; which is free (R11, R20; DESIGN CHOICE,
log 4). -/
def State.spill (s : State) (l : Nat) : State :=
  if s.phys.overlay.length ≤ sliceLines then s
  else
    let ls := s.linesIn (s.homeSlice l)
    if ls.length + (s.replicasIn (s.homeSlice l)).length ≤ sliceLines then s
    else
      let out := ls.filter fun l => s.bankIdle (128 * l)
      let (n, s1) := s.draw1
      match out[n % Nat.max 1 out.length]? with
      | some v => s1.flushWhere fun a => a / 128 == v
      | none => s1

/-- A write is performed at its home slice: the bytes, the version, the latest writer (R223, R212); a whole line clears poison. An
ATOM that writes nothing takes its place in the order and changes nothing. The result that awaits it lands from the next cycle. -/
def State.performWrite (s : State) (l : Nat) (w : PWrite) : State :=
  let whole := (List.range 128).all fun i => w.bytes.any fun b => b.1 == 128 * l + i
  let s := s.modPhys fun p =>
    { p.put w.key w.bytes with poison := if whole then p.poison.filter (· != l) else p.poison }
  let s := s.modLine l fun n => { n with
    version := if w.bytes.isEmpty then n.version else (n.version + 1) % 2 ^ 32
    performed := s.gtc + 1
    writer := match w.owners.getLast? with
      | some (k, x, _) => if w.bytes.isEmpty then n.writer else some (k, x)
      | none => n.writer }
  let s := s.spill l
  match w.id with
  | some id => s.answered id (cycleUp (s.now + cycleLen))
  | none => s

/-- A message of the network takes at most 100 ticks; how many is free (R219; DESIGN CHOICE, log 4). -/
def State.message (s : State) (i : Instr) : State :=
  let (n, s) := s.draw1
  s.schedule (s.now + tickTime (1 + n % 100)) i

/-- A write that arrives at its home slice now is performed at once: nothing waits before it, no lease on its bytes runs, and the
line has no replica (R219, R223). -/
def State.homeFree (s : State) (l : Nat) (w : PWrite) : Bool :=
  let n := s.line l
  n.waiting.isEmpty && !n.collapsing && !s.replicated l && s.writeReady l w ≤ s.gtc

/-- A write arrives at its home slice: performed at once when nothing holds it, else it waits in arrival order (R219, R223). -/
def State.homeArrive (s : State) (l : Nat) (w : PWrite) : State :=
  let n := s.line l
  let free := n.waiting.isEmpty && !n.collapsing
  let rep := s.replicated l
  if s.homeFree l w then s.performWrite l w
  else
    let s' := s.modLine l fun n => { n with waiting := n.waiting ++ [w], collapsing := n.collapsing || rep }
    if free && rep then s'.message (.collapseRequest l .package)
    else if free then s'.schedule (tickTime (Nat.max (s.gtc + 1) (s.writeReady l w))) (.homeWritePerform l)
    else s'

/-- The waiting writes of a line, oldest first, that lie over its bytes for `who`. -/
def State.pendingBytes (s : State) (l : Nat) (who : List (Nat × Nat × Nat) → Bool) : List (Nat × Byte) :=
  ((s.line l).waiting.filter fun w => who w.owners).flatMap (·.bytes)

/-- The last value that a list of writes gives an address. -/
def lastByte (bs : List (Nat × Byte)) (a : Nat) : Option Byte :=
  bs.foldl (fun acc e => if e.1 == a then some e.2 else acc) none

/-- The bytes of an entry of the write-combining buffer of a cluster. -/
def State.wcbEntry (s : State) (c l : Nat) : Option WcbEntry := tget (s.cluster c).wcb l

/-- An entry is sent to the home slice as one write (R220). -/
def State.sendWcb (s : State) (c l : Nat) : State :=
  match s.wcbEntry c l with
  | none => s
  | some e =>
    (s.modCluster c fun cl => { cl with wcb := tdel cl.wcb l }).homeArrive l { bytes := e.bytes, key := e.key, owners := e.owners }

/-- The oldest entry of a full buffer (R220). -/
def oldestEntry (w : Tab WcbEntry) : Option Nat :=
  (w.foldl (fun (best : Option (Nat × Nat)) e => match best with
    | none => some (e.1, e.2.since)
    | some b => if e.2.since < b.2 then some (e.1, e.2.since) else best) none).map (·.1)

/-- A store passes through the write-combining buffer of its cluster when its line is homed on another die and its
page has RM = 0 (R220). One entry holds bytes of one key: a store under another sends it (DESIGN CHOICE, log 5). -/
def State.combine (s : State) (c l : Nat) (w : PWrite) : State :=
  let s := if (s.wcbEntry c l).any fun e => e.key != w.key then s.sendWcb c l else s
  let cl := s.cluster c
  let s := match tget cl.wcb l with
    | some _ => s
    | none => if cl.wcb.length < 32 then s else match oldestEntry cl.wcb with
      | some o => s.sendWcb c o
      | none => s
  let fresh := (s.wcbEntry c l).isNone
  let e := (s.wcbEntry c l).getD ⟨s.gtc, w.key, [], []⟩
  let bytes := (e.bytes.filter fun b => (lastByte w.bytes b.1).isNone) ++ w.bytes
  let s := s.modCluster c fun cl => { cl with
    wcb := tset cl.wcb l { e with bytes := bytes, owners := e.owners ++ w.owners } }
  let whole := (List.range 128).all fun i => bytes.any fun b => b.1 == 128 * l + i
  if whole then s.sendWcb c l
  else if fresh then s.schedule (tickTime (s.gtc + 64)) (.wcbSend c l) else s

/-! ### L1 (R173, R221) -/

/-- An L1 line counts as live by its 24-bit E (R221). -/
def L1Line.live (l : L1Line) (gtc : Nat) : Bool :=
  let d := (BitVec.ofNat 24 l.e - BitVec.ofNat 24 gtc).toNat
  0 < d && d < 2 ^ 23

/-- The L1 line, when it has not been invalidated: 2^22 ticks after its expiry it is gone (R221). -/
def State.l1Line (s : State) (k l : Nat) : Option L1Line :=
  (tget (s.core k).l1 l).bind fun n => if s.gtc < n.e + 2 ^ 22 then some n else none

/-- The mask of bytes off … off + n - 1 of a line. -/
def lineMask (off n : Nat) : BitVec 128 := (BitVec.ofNat 128 (2 ^ n - 1)) <<< off

/-- A store updates the line if the L1 of its core holds it (R173); a line read under another key leaves the L1 (DESIGN CHOICE,
log 5). -/
def State.l1Store (s : State) (k l : Nat) (key : Option Nat) (bs : List (Nat × Byte)) : State :=
  match s.l1Line k l with
  | none => s
  | some n => s.modCore k fun c => { c with
      l1 := if some n.key == key then tset c.l1 l { n with data := cellPuts n.data (bs.map fun b => (b.1 % 128, b.2)) } else tdel c.l1 l }

/-- The lines of an L1: 128 KiB or 64 KiB of them (R122). -/
def l1Cap (k : Nat) : Nat := if isWide k then 1024 else 512

/-- A line enters an L1; a full L1 gives up another, and which is free (DESIGN CHOICE, log 10). -/
def State.l1Fill (s : State) (k l : Nat) (e : L1Line) : State :=
  let t := (s.core k).l1
  let (out, s1) := if (tget t l).isSome || t.length < l1Cap k then (none, s)
    else let (n, s1) := s.draw1; ((t[n % t.length]?).map (·.1), s1)
  s1.modCore k fun c => { c with l1 := tset ((out.map fun v => tdel c.l1 v).getD c.l1) l e }

/-- One store of a thread to physical bytes of one line (R173, R220): L1, then the buffer or the home slice; the host
window takes posted writes (R276). -/
def State.storeLine (s : State) (k x t : Nat) (key : Option Nat) (rm : Bool) (l : Nat) (bs : List (Nat × Byte)) : State :=
  match regionOf (128 * l) with
  | .host => s.modHost fun h => { h with writes := h.writes ++ bs }
  | .hole => s
  | .pillar p =>
    let s := s.l1Store k l key bs
    let s := if rm && x ≤ 4 then s.modCtx k x fun c => { c with mem := { c.mem with rmWrites := true } } else s
    let w : PWrite := { bytes := bs, key := key, owners := [(k, x, t)] }
    if dieOf p != dieOf k && !rm then s.combine (clusterOf k) l w else s.homeArrive l w

/-- What the memory side shows a core of a line: the slice's bytes, then what the core itself has on its way, each write under its
own key (R181, R205; DESIGN CHOICE, log 2). -/
def State.seenBy (s : State) (k l : Nat) : Phys :=
  let own (o : List (Nat × Nat × Nat)) : Bool := o.any fun e => e.1 == k
  let p := ((s.line l).waiting.filter fun w => own w.owners).foldl (fun p w => p.put w.key w.bytes) s.phys
  match s.wcbEntry (clusterOf k) l with
  | some e => if own e.owners then p.put e.key e.bytes else p
  | none => p

def State.coreByte (s : State) (k : Nat) (key : Option Nat) (pa : Nat) : Byte := (s.seenBy k (pa / 128)).byte key pa

/-- A byte after every write that has arrived at the home slice (an ATOM follows them, R223). -/
def State.lastByteAt (s : State) (key : Option Nat) (pa : Nat) : Byte :=
  ((s.line (pa / 128)).waiting.foldl (fun p w => p.put w.key w.bytes) s.phys).byte key pa

/-- How a load was served, for its latency (R131). A deferred one waits for its bank before the pillar gives it (R200). -/
inductive Served where
  | stash | l1 | expired | slice | pillar | deferred | host
deriving DecidableEq, Repr

/-- The lease that a partition grants, in ticks (R222). -/
def Partition.leaseAt (p : Partition) (gtc : Nat) : Nat := if gtc < p.leaseFrom then p.leaseWas else p.lease

def State.leaseOf (s : State) (k : Nat) : Nat := ((s.partOfCore k).map (·.2.leaseAt s.gtc)).getD 256

/-- A line's write is pending: no lease is granted (R223, R219). -/
def Line.writePending (n : Line) : Bool := !n.waiting.isEmpty || n.collapsing

/-- A replica of a line in a cluster. -/
def State.replicaOf (s : State) (l c : Nat) : Option Replica := (tgetD s.phys.replicas l []).find? (·.cluster == c)

/-- The die of a cluster. -/
def dieOfCluster (c : Nat) : Nat := if c < 16 then 0 else if c < 32 then 1 else if c < 40 then 2 else 3

/-- A slice evicts the replica of a line, and the directories are told (R218). -/
def State.evictReplica (s : State) (l c : Nat) : State :=
  let left := (tgetD s.phys.dieDir l []).filter (· != c)
  let dies := (tgetD s.phys.pkgDir l []).filter fun d => left.any fun c' => dieOfCluster c' == d
  s.modPhys fun p => { p with
    replicas := tmod p.replicas l [] (·.filter fun r => r.cluster != c)
    dieDir := if left.isEmpty then tdel p.dieDir l else tset p.dieDir l left
    pkgDir := if dies.isEmpty then tdel p.pkgDir l else tset p.pkgDir l dies }

/-- Room for one more replica in the slice of a cluster: a full slice evicts one whose leases have expired and which no collapse
awaits; which is free (DESIGN CHOICE, log 4). None when there is no such replica. -/
def State.replicaRoom (s : State) (l c : Nat) : Option State :=
  let slice := s.sliceIn c l
  let reps := s.replicasIn slice
  if (s.phys.overlay.length + s.phys.replicas.length < sliceLines) || reps.length + (s.linesIn slice).length < sliceLines then some s
  else
    let old := reps.filter fun e => !(s.line e.1).collapsing && (s.replicaOf e.1 e.2).any fun r => r.expiry ≤ s.gtc
    let (n, s1) := s.draw1
    (old[n % Nat.max 1 old.length]?).map fun e => s1.evictReplica e.1 e.2

/-- Records a replica in the directories, unless one has no free entry (R218). -/
def State.addReplica (s : State) (l c : Nat) : Option State :=
  let d := dieOfCluster c
  let dies := tgetD s.phys.pkgDir l []
  let pkgFull := dies.isEmpty && 262144 ≤ s.phys.pkgDir.length
  let onDie (e : Nat × List Nat) : Bool := e.2.any fun c' => dieOfCluster c' == d
  let clus := tgetD s.phys.dieDir l []
  let dieFull := !(onDie (l, clus)) && 65536 ≤ (s.phys.dieDir.filter onDie).length
  if pkgFull || dieFull then none
  else some (s.modPhys fun p => { p with
    pkgDir := tset p.pkgDir l (nodup (dies ++ [d]))
    dieDir := tset p.dieDir l (nodup (clus ++ [c]))
    replicas := tset p.replicas l (tgetD p.replicas l [] ++ [⟨c, 0, false⟩]) })

/-- A replica slice notes the latest lease it granted on a line. -/
def State.leaseReplica (s : State) (l c until_ : Nat) : State :=
  let up (r : Replica) : Replica := if r.cluster == c then { r with expiry := Nat.max r.expiry until_ } else r
  s.modPhys fun p => { p with replicas := tmod p.replicas l [] (·.map up) }

/-- Grants a lease on a line to an L1 of core k: by the replica slice of its cluster when the page is read-mostly and
homed on another die, else by the home slice (R218, R221). The answer is the expiry, 0 for a lease of length 0: the line is
write-pending, or its collapse is in progress (R223, R236). -/
def State.grant (s : State) (k l : Nat) (rm : Bool) : Nat × State :=
  let until_ := s.gtc + s.leaseOf k
  let c := clusterOf k
  let remote := dieOf (128 * l / 2 ^ 30) != dieOf k
  let home (s : State) : Nat × State :=
    if (s.line l).writePending then (0, s)
    else (until_, s.modLine l fun n => { n with expiry := Nat.max n.expiry until_ })
  if rm && remote then
    match s.replicaOf l c with
    | some r =>
      if r.pending || (s.line l).collapsing then (0, s)
      else (until_, s.leaseReplica l c until_)
    | none =>
      if (s.line l).writePending then (0, s)
      else match (s.replicaRoom l c).bind fun s' => s'.addReplica l c with
        | some s' => (until_, s'.leaseReplica l c until_)
        | none => home s
  else home s

/-- A range entry of the home slice for a line (R228): recorded or refreshed; none free gives the ordinary lease. -/
def State.grantRange (s : State) (k l base : Nat) (desc : Word) : Option (Nat × State) :=
  let sl := s.homeSlice l
  let until_ := s.gtc + s.leaseOf k
  let live := s.phys.ranges.filter fun r => s.gtc < r.expiry
  if (s.line l).writePending then none
  else
    let same (r : RangeEntry) : Bool := r.slice == sl && r.core == k && r.base == base && r.desc == desc
    if live.any same then
      some (until_, s.modPhys fun p => { p with ranges := live.map fun r => if same r then { r with expiry := Nat.max r.expiry until_ } else r })
    else if (live.filter (·.slice == sl)).length < 64 then
      some (until_, (s.modPhys fun p => { p with ranges := live ++ [⟨sl, k, base, desc, until_⟩] }).schedule
        (tickTime until_) (.rangeEntryExpiry sl live.length))
    else none

/-- The bytes of a line that lie in elements of a range (R228). -/
def rangeMask (base : Nat) (d : Word) (l : Nat) : BitVec 128 :=
  (List.range 128).foldl (fun m i => if inRange base d (128 * l + i) then m ||| (1#128 <<< i) else m) 0#128

/-- The 128 bytes that a core sees of a line, as cells. -/
def State.lineCells (s : State) (k l : Nat) (key : Option Nat) : List Host.Cell :=
  let p := s.seenBy k l
  cellPuts [] ((List.range 128).map fun i => (i, p.byte key (128 * l + i)))

/-- Where a miss is served: the slice, when it holds the line's bytes or, as may be, a clean copy, else the pillar through its bank,
which may defer it (R131, R197, R200; which is free, DESIGN CHOICE, log 4). -/
def State.servedBy (s : State) (l : Nat) : Served × State :=
  if s.phys.overlay.any fun e => e.1 / 128 == l then (.slice, s)
  else
    let (n, s1) := s.draw1
    if n % 132 < 51 then (.slice, s1) else if s1.bankIdle (128 * l) then (.pillar, s1.bankAccess (128 * l)) else (.deferred, s1)

/-- One load of a core within one line: how it is served and the state after the fill (R173, R221, R228).
`range` is the base and descriptor of a range load whose elements hold the bytes. Under a lease of length 0 the line does not stay in
the L1 (R223). -/
def State.touchLine (s : State) (k l off n : Nat) (key : Option Nat) (rm : Bool) (range : Option (Nat × Word)) :
    Served × State :=
  match regionOf (128 * l) with
  | .host => (.host, s)
  | .hole => (.pillar, s)
  | .pillar _ =>
    let need := lineMask off n
    let hit := (s.l1Line k l).bind fun e => if e.mask &&& need == need && some e.key == key then some e else none
    match hit with
    | some e => if e.live s.gtc then (.l1, s) else (.expired, s)
    | none =>
      let (served, s) := s.servedBy l
      let full : BitVec 128 := BitVec.allOnes 128
      let (mask, until_, s') := match range.bind fun r => (s.grantRange k l r.1 r.2).map fun g => (r, g) with
        | some ((b, d), (u, s')) =>
          (rangeMask b d l, u, s')
        | none => let (u, s') := s.grant k l rm; (full, u, s')
      if until_ = 0 then (served, s'.modCore k fun c => { c with l1 := tdel c.l1 l })
      else (served, s'.l1Fill k l ⟨s.lineCells k l key, key.getD 0, until_, (s.line l).version, mask⟩)

/-- The bytes that a load of core k sees after `touchLine`: from the L1 line when it holds them, else from memory. -/
def State.loadByte (s : State) (k : Nat) (key : Option Nat) (pa : Nat) : Byte :=
  match regionOf pa with
  | .host => 0#8
  | .hole => 0#8
  | .pillar _ => match s.l1Line k (pa / 128) with
    | some e => if e.mask.getLsbD (pa % 128) && some e.key == key then cellAt e.data (pa % 128) else s.coreByte k key pa
    | none => s.coreByte k key pa

/-- The latency of a load by how it was served; inside the ranges of R131 it is free (DESIGN CHOICE, log 4). One from the host window
lands when its completion comes (R276). -/
def State.loadLatency (s : State) (v : Served) : Nat × State :=
  match v with
  | .stash => (14, s)
  | .l1 | .expired => (30, s)
  | .slice => let (n, s) := s.draw1; (90 + n % 51, s)
  | .pillar | .deferred => let (n, s) := s.draw1; (280 + n % 81, s)
  | .host => (0, s)

/-! ### Translation (R176-R183) -/

inductive AccessKind where
  | load | store | atomic | fetch
deriving DecidableEq, Repr

/-- The outcome of a translation: the leaf, a page fault with its level, or a violation. -/
inductive Walk where
  | ok (pa : Nat) (pte : Word)
  | fault (level : Nat)
  | violation
deriving DecidableEq, Repr

def pteV (e : Word) : Bool := e.getLsbD 63
def pteRM (e : Word) : Bool := e.getLsbD 62
def pteSH (e : Word) : Bool := e.getLsbD 61
def pteKey (e : Word) : Nat := (e.extractLsb' 52 9).toNat
def ptePage (e : Word) : Nat := (e.extractLsb' 16 36).toNat * 2 ^ 16
def pteSize (e : Word) : Nat := (e.extractLsb' 12 4).toNat
def pteR (e : Word) : Bool := e.getLsbD 11
def pteW (e : Word) : Bool := e.getLsbD 10
def pteX (e : Word) : Bool := e.getLsbD 9

def pteLeaf (e : Word) : Bool := pteR e || pteW e || pteX e

/-- Page length and leaf level by SIZE (R179). -/
def pageOf : Nat → Option (Nat × Nat)
  | 0 => some (2 ^ 16, 3)
  | 1 => some (2 ^ 21, 3)
  | 2 => some (2 ^ 30, 2)
  | 3 => some (2 ^ 39, 1)
  | _ => none

def pteAllows (e : Word) : AccessKind → Bool
  | .load => pteR e
  | .store => pteW e
  | .atomic => pteR e && pteW e
  | .fetch => pteX e

/-- The pillar of a present core (R19). A lost die's pillars are uncorrectable, not absent (R274). -/
def State.presentPillar (s : State) (k : Nat) : Bool :=
  k < coreCount && (tgetD s.fuses.cmask (clusterOf k) 0xFFF#12).getLsbD (posOf k)

/-- Banks present in a pillar (R17). -/
def State.bankCount (s : State) (k : Nat) : Nat :=
  let banks := tgetD s.fuses.banks k (BitVec.allOnes 128)
  (List.range 128).foldl (fun c i => if banks.getLsbD i then c + 1 else c) 0

/-- The user region of a pillar in bytes (R12, R17, R18); 0 when the banks present hold no more than the regions above it (DESIGN CHOICE,
log 79). -/
def State.userBytes (s : State) (k : Nat) (spare : Nat) : Nat :=
  s.bankCount k * 0x80_0000 - 0x100_0000 - spareSize spare

/-- The spare choice that holds for a pillar: that of the partition which owns its core (R12), none for a core in no partition
(DESIGN CHOICE, log 79). -/
def State.spareOf (s : State) (k : Nat) : Nat := ((s.partOfCore k).map (·.2.spare)).getD 0

/-- The forbidden ranges of R174 for an address space. -/
def State.paForbidden (s : State) (asid pa : Nat) : Bool :=
  match regionOf pa with
  | .host => false
  | .hole => true
  | .pillar k =>
    let off := pa % 2 ^ 30
    let spare := spareSize (s.spareOf k)
    let user := s.userBytes k (s.spareOf k)
    !s.presentPillar k || (user ≤ off && off < sysBase - spare) || (sysBase - spare ≤ off && asid != 0)

/-- A 64-bit word of an access that names no key: table entries, descriptors (R284). -/
def State.rawWord (s : State) (pa : Nat) : Word :=
  word64 (bytesToNat ((List.range 8).map fun i => s.lastByteAt (s.hwKey pa) (pa + i)))

/-- Checks of a leaf that a walk or a TLB entry gives (R180). -/
def State.leafCheck (s : State) (part : Option Partition) (asid : Nat) (e : Word) (pa : Nat) (kind : AccessKind) : Bool :=
  !s.paForbidden asid pa && pteAllows e kind &&
    ((regionOf pa == .host) || (match part with
      | some p => p.grant.getLsbD (pteKey e)
      | none => asid == 0))

/-- The walk of the tables (R177-R180). It reads an entry of each level; the result also names the leaf entry's address. -/
def State.walkFrom (s : State) (part : Option Partition) (asid va : Nat) (kind : AccessKind) :
    Nat → Nat → Nat → Walk × Nat
  | 0, _, _ => (.violation, 0)
  | fuel + 1, level, table =>
    let addr := table + 8 * (va / 2 ^ (49 - 11 * level) % 2048)
    let e := s.rawWord addr
    if !pteV e then (.fault level, addr)
    else if pteLeaf e then
      match pageOf (pteSize e) with
      | none => (.violation, addr)
      | some (len, lv) =>
        let pa := ptePage e + va % len
        if lv != level || ptePage e % len != 0 || e.extractLsb' 0 8 != 0#8 || !s.leafCheck part asid e pa kind then (.violation, addr)
        else (.ok pa e, addr)
    else if level == 3 || e &&& 0x7FF000000000FFFF#64 != 0#64 then (.violation, addr)
    else s.walkFrom part asid va kind fuel (level + 1) (ptePage e)

/-- A TLB entry for an address. -/
def tlbFind (l : List TlbEntry) (asid va : Nat) : Option TlbEntry :=
  l.find? fun e => e.asid == asid && e.base ≤ va && va < e.base + e.size

/-- The root word and partition of an address space. -/
structure Space where
  core : Nat
  root : Word
  part : Option Partition

def Space.asid (sp : Space) : Nat := (sp.root.extractLsb' 0 12).toNat
def Space.table (sp : Space) : Nat := (sp.root.extractLsb' 16 36).toNat * 2 ^ 16

/-- The address space of a context (R176). -/
def State.spaceOf (s : State) (k x : Nat) : Space := ⟨k, (s.ctx k x).regs.mmu, (s.partOfCore k).map (·.2)⟩

/-- A page walk by one of the 8 walkers of a cluster: it waits for one when all are busy, and its length is free (R182; DESIGN CHOICE,
log 4). -/
def State.startWalker (s : State) (c : Nat) : State :=
  let busy := (s.cluster c).walks.filter (s.now < ·)
  let (n, s1) := s.draw1
  let start := if busy.length < 8 then s.now else ((sortBy id busy)[busy.length - 8]?).getD s.now
  s1.modCluster c fun cl => { cl with walks := (start + cycleLen * (1 + n % 2048)) :: busy }

/-- The time at which the walk of a cluster that began last ends. -/
def State.walkEnd (s : State) (c : Nat) : Nat := ((s.cluster c).walks.head?).getD s.now

/-- The TLBs hold no entry for an address (R182). -/
def State.tlbMiss (s : State) (sp : Space) (va : Nat) : Bool :=
  ((tlbFind (s.core sp.core).tlb sp.asid va).or (tlbFind (s.cluster (clusterOf sp.core)).tlb sp.asid va)).isNone

/-- A translation: TLBs first, then the walk, which sets A with an atomic OR and fills the TLBs (R180, R182). -/
def State.translate (s : State) (sp : Space) (va : Nat) (kind : AccessKind) : Walk × State :=
  let hit := (tlbFind (s.core sp.core).tlb sp.asid va).or (tlbFind (s.cluster (clusterOf sp.core)).tlb sp.asid va)
  match hit with
  | some e =>
    let pa := ptePage e.pte + (va - e.base)
    if s.leafCheck sp.part sp.asid e.pte pa kind then (.ok pa e.pte, s) else (.violation, s)
  | none =>
    match s.walkFrom sp.part sp.asid va kind 4 0 sp.table with
    | (.ok pa e, addr) =>
      let s := if e.getLsbD 8 then s else s.homeArrive (addr / 128)
        { bytes := bytesAt addr (natToBytes 8 (e ||| 0x100#64).toNat), key := s.hwKey addr, owners := [] }
      let s := s.startWalker (clusterOf sp.core)
      let len := ((pageOf (pteSize e)).map (·.1)).getD (2 ^ 16)
      let t : TlbEntry := ⟨sp.asid, va - va % len, len, e⟩
      let s := s.modCore sp.core fun c => { c with tlb := (t :: c.tlb).take 128 }
      (.ok pa e, s.modCluster (clusterOf sp.core) fun c => { c with tlb := (t :: c.tlb).take 8192 })
    | (w, _) => (w, s)

/-- A translation that changes nothing, for checks before an effect. -/
def State.probe (s : State) (sp : Space) (va : Nat) (kind : AccessKind) : Walk := (s.translate sp va kind).1

/-- The key of a leaf: KEY is ignored for the host window (R181). -/
def State.leafKey (s : State) (pa : Nat) (pte : Word) : Option Nat :=
  if regionOf pa == .host then none else some (s.keyOf (pteKey pte))

end Sys2Proof.Machine
end

