-- ==== Sys2Proof/Machine/Operands.lean ====
section
/-! DEFINITION. Operands and results of native ops: selectors (R125), guards (R295), types and tile runs (R72, R94),
legality (R290, R294, R299), and results on their way to their destinations (R126-R129). -/

namespace Sys2Proof

/-! ### Types (R72) -/

/-- Width in bits of a scalar type. -/
def tyBits : Nat → Nat
  | 1 => 8 | 2 => 16 | 3 => 32 | 4 => 64
  | 5 => 8 | 6 => 16 | 7 => 32 | 8 => 64
  | 9 => 16 | 10 => 16 | 11 => 32 | 12 => 64
  | 13 => 6 | 14 => 1 | 15 => 64
  | _ => 0

/-- Size in bytes of an element of a scalar type. -/
def tyBytes (ty : Nat) : Nat := (tyBits ty + 7) / 8

def isSigned (ty : Nat) : Bool := 1 ≤ ty && ty ≤ 4
def isInt (ty : Nat) : Bool := 1 ≤ ty && ty ≤ 8
def isFloat (ty : Nat) : Bool := 9 ≤ ty && ty ≤ 12
def isTileTy (ty : Nat) : Bool := 16 < ty && ty ≤ 29

/-- The element type of a type code. -/
def elemTy (ty : Nat) : Nat := if isTileTy ty then ty - 16 else ty

/-- TY of layouts D, K and X, and VAR of layout D (R295). -/
def Op.ty (o : Op) : Nat := (o.mod.extractLsb' 3 5).toNat
def Op.var (o : Op) : Nat := (o.mod.extractLsb' 0 3).toNat

/-- Elements of the bundle's tile shape (R293). -/
def Op.elems (o : Op) : Nat := (o.rows.toNat + 1) * (o.cols.toNat + 1)

/-- Elements of an operand of a type. -/
def Op.count (o : Op) (ty : Nat) : Nat := if isTileTy ty then o.elems else 1

/-- Bytes and registers of an operand of a type (R94). -/
def Op.bytesOf (o : Op) (ty : Nat) : Nat := o.count ty * tyBytes (elemTy ty)
def Op.regsOf (o : Op) (ty : Nat) : Nat := if isTileTy ty then (o.bytesOf ty + 7) / 8 else 1

/-- Words as one little-endian number. -/
def wordsToNat : List Word → Nat
  | [] => 0
  | w :: r => w.toNat + 2 ^ 64 * wordsToNat r

/-- A number as n words. -/
def natToWords : Nat → Nat → List Word
  | 0, _ => []
  | n + 1, v => BitVec.ofNat 64 v :: natToWords n (v / 2 ^ 64)

/-- The selector of source B: the long immediate takes its place when neither A nor C holds 0x1F3 (R294). -/
def Op.selB (o : Op) : Nat :=
  if o.ext.isSome && o.a != 0x1F3#10 && o.c != 0x1F3#10 then 0x1F3 else o.b.toNat

def Op.selA (o : Op) : Nat := o.a.toNat
def Op.selC (o : Op) : Nat := o.c.toNat

/-- A scalar result as a register holds it: sign-extended for s types, zero-extended otherwise (R303). -/
def regImage (ty v : Nat) : Word :=
  if isSigned ty then BitVec.ofInt 64 (signed (tyBits ty) v) else BitVec.ofNat 64 (v % 2 ^ tyBits ty)

/-- The registers of a result of type ty, from its elements. -/
def Op.resultWords (o : Op) (ty : Nat) (es : List Nat) : List Word :=
  if isTileTy ty then
    let e := elemTy ty
    natToWords (o.regsOf ty) (es.foldr (fun v acc => v % 2 ^ tyBits e + 2 ^ (8 * tyBytes e) * acc) 0)
  else [regImage ty (es.headD 0)]

/-- The long immediate stands in a source that the op has (R294): not in A and C at once, and named only when present. -/
def Op.extOk (o : Op) (useA useB useC : Bool) : Bool :=
  match o.ext with
  | none => !(useA && o.a == 0x1F3#10) && !(useB && o.b == 0x1F3#10) && !(useC && o.c == 0x1F3#10)
  | some _ => !(o.a == 0x1F3#10 && o.c == 0x1F3#10)

/-- Legality of layout D: TY by the row of R291 and VAR by R290. -/
def Op.legalD (opc : Nat) (o : Op) : Bool :=
  match Lpf.row opc with
  | some r => r.tyOk o.ty && Lpf.modOk opc o.ty (o.var * 32)
  | none => false

/-- Legality of layout V: MOD by R290, for the type that the op has. -/
def Op.legalV (opc ty : Nat) (o : Op) : Bool := Lpf.modOk opc ty o.mod.toNat

/-- Legality of layout K: TY, the zero bits, SAT, and the source type in C (R295). -/
def Op.legalK (opc : Nat) (o : Op) : Bool :=
  match Lpf.row opc with
  | some r =>
    r.tyOk o.ty && o.var % 8 < 2 && o.c.toNat < 32 &&
      Lpf.modOk opc o.ty (o.c.toNat * 8 + (o.var % 2) * 4) && (o.ext.isNone || o.a == 0x1F3#10)
  | none => false

/-- Layout J takes no long immediate, and its MOD is zero but where a field stands (R294, R296). -/
def Op.legalJ (o : Op) : Bool := o.ext.isNone && o.mod == 0#8

end Sys2Proof

namespace Sys2Proof.Machine

/-- The three kinds of selector that name storage (R125). -/
def isReg (sel : Nat) : Bool := sel < 0x100
def isLatch (sel : Nat) : Bool := 0x100 ≤ sel && sel < 0x140
def isLast (sel : Nat) : Bool := 0x140 ≤ sel && sel < 0x180

/-! ### Copies of last registers (R55, R57) -/

/-- The copy entries that a thread holds for last register n, those of writes on their way among them. -/
def Thread.own (th : Thread) (n : Nat) : List Nat := (tget th.claimed n).getD ((tget th.copies n).getD [])

/-- The free copy entries of a thread slot. -/
def Thread.freeEntries (th : Thread) : List Nat := (List.range 4).filter fun e => !th.used.getLsbD e

/-- A thread can take a copy of so many words of last register n (R57) (DEDUCED, log 76). -/
def Thread.copyFits (th : Thread) (n words : Nat) : Bool := words ≤ (th.own n).length + th.freeEntries.length

/-- The map of used entries, from the copies and the writes on their way. -/
def Thread.remap (th : Thread) : Thread :=
  { th with used := ((th.copies ++ th.claimed).flatMap (·.2)).foldl (fun m e => m ||| (1#4 <<< e)) 0 }

/-- A write of last register n allocates the entries that it lacks, lowest first (R57). -/
def Thread.allocate (th : Thread) (n words : Nat) : Thread :=
  let es := th.own n ++ th.freeEntries.take (words - (th.own n).length)
  { th with claimed := tset th.claimed n es }.remap

/-- The words of a copy; none when the thread has none. -/
def Thread.copyWords (th : Thread) (n : Nat) : Option (List Word) :=
  (tget th.copies n).map fun es => es.map fun e => tgetD th.entries e 0

/-- A value enters the copy of last register n, whose entries are then as many as its words (R57) (DEDUCED, log 76). -/
def Thread.putCopy (th : Thread) (n : Nat) (ws : List Word) : Thread :=
  let th := th.allocate n ws.length
  let es := (th.own n).take ws.length
  { th with
    copies := tset th.copies n es
    entries := (es.zip ws).foldl (fun m e => tset m e.1 e.2) th.entries }

/-! ### Landing (R126, R129) -/

/-- A result is ready to land (R127, R128). -/
def Landing.ready (now : Nat) (l : Landing) : Bool := l.due ≤ now && l.host.isEmpty && l.recv.isNone && l.awaits.isEmpty && l.fills.isEmpty

/-- The exceptions of a result that FPCTL enables (R148) (DEDUCED, log 19). -/
def Landing.enabled (l : Landing) (fpctl : Word) : Bool :=
  l.exc.any fun e => e.2 &&& (fpctl.extractLsb' 4 5).toNat != 0

/-- Shifts a result into the latches of a lane (R126). -/
def Ctx.pushLatch (c : Ctx) (slot lane : Nat) (w : Word) : Ctx :=
  let base := (slot * 32 + lane) * 8
  let olds := (List.range 7).map fun k => (base + k + 1, tgetD c.latches (base + k) 0)
  { c with latches := tset (olds.foldl (fun m e => tset m e.1 e.2) c.latches) base w }

/-- Writes words to a destination of a thread. -/
def Thread.put (th : Thread) (kind : DestKind) (dest : Nat) (ws : List Word) : Thread :=
  match kind with
  | .pred => { th with qs := if (ws.headD 0).getLsbD 0 then th.qs ||| (1#8 <<< dest) else th.qs &&& ~~~(1#8 <<< dest) }
  | .reg =>
    if isReg dest then
      let es := ws.zipIdx.map fun p => (dest + p.2, p.1)
      { th with
        regs := es.foldl (fun m e => tset m e.1 e.2) th.regs
        poisoned := th.poisoned.filter fun n => !(es.any fun e => e.1 == n) }
    else if isLast dest then th.putCopy (dest - 0x140) ws
    else th

/-- A result writes a register (a run of p registers), a predicate register or a last register. -/
def Landing.covers (l : Landing) (kind : DestKind) (sel : Nat) : Bool :=
  l.kind == kind && !(kind == .reg && isLatch l.dest) &&
    if kind == .reg && isReg l.dest then l.dest ≤ sel && sel < l.dest + l.width else l.dest == sel

/-- Another result of the same landing time wins a register of a thread (R129): the highest slot whose guard is true. -/
def Landing.beaten (all : List Landing) (l : Landing) (t sel : Nat) : Bool :=
  all.any fun m => m.due == l.due && l.slot < m.slot && m.covers l.kind sel && m.vals.any (·.1 == t)

/-- The value of a result in a thread: each register that no other result takes (R129), then the latches of its lane (R126). -/
def Ctx.enterValue (all : List Landing) (l : Landing) (c : Ctx) (v : Nat × List Word) : Ctx :=
  let keep (i : Nat) : Bool := !l.beaten all v.1 (l.dest + i)
  let c1 := c.modThread v.1 fun th =>
    if l.kind == .reg && isReg l.dest then
      v.2.zipIdx.foldl (fun th w => if keep w.2 then th.put .reg (l.dest + w.2) [w.1] else th) th
    else if keep 0 then th.put l.kind l.dest v.2 else th
  match l.kind, l.width, l.lanes.find? (·.2 == v.1) with
  | .reg, 1, some (lane, _) => if keep 0 then c1.pushLatch l.slot lane (v.2.headD 0) else c1
  | _, _, _ => c1

/-- The results of one landing time enter their destinations: zeros first, then values in ascending slot order (R129). -/
def Ctx.enter (c : Ctx) (ls : List Landing) : Ctx :=
  let c1 := ls.foldl (fun c l => l.zeros.foldl (fun c t =>
    c.modThread t fun th => th.put l.kind l.dest (List.replicate l.width 0)) c) c
  (sortBy (·.slot) ls).foldl (fun c l => l.vals.foldl (Ctx.enterValue ls l) c) c1

/-- A result is on its way to last register n of a thread. -/
def Ctx.lastOnWay (c : Ctx) (t n : Nat) : Bool :=
  (c.inflight ++ c.shadows.map (·.entry)).any fun l => l.kind == .reg && l.dest == 0x140 + n && l.vals.any (·.1 == t)

/-- Copy entries that no write on its way needs any more are free again. -/
def Ctx.settleCopies (c : Ctx) : Ctx :=
  { c with threads := c.threads.map fun e =>
      if e.2.claimed.isEmpty then e
      else (e.1, { e.2 with claimed := e.2.claimed.filter fun r => c.lastOnWay e.1 r.1 }.remap) }

/-! ### The issue group -/

def State.group (s : State) : Group := s.me.group.getD ⟨[], {}, 0, none, none⟩

/-- CONTINUE makes a thread pass over the ops of the trapped LPF instruction (R262). -/
def State.skipping (s : State) (t : Nat) : Bool :=
  match (s.me.thread t).skip with
  | some (pc, b, i) => s.me.pc.tr == pc.tr && s.point s.myCore s.me.pc == (b, i)
  | none => false

/-- An op that serves an LPF instruction and is none of its effects, a SPILL of its result or the branch past it, runs in the
threads that pass over the instruction too: the zero reaches the frame, and the thread goes on past it (R71, R262, R410) (DEDUCED, log 15). -/
def State.asServing (f : State → State) (s : State) : State :=
  let old := s.group.threads.filterMap fun t => (s.me.thread t).skip.map fun k => (t, k)
  let set (v : Nat → Option (Pc × Nat × Nat)) (s : State) : State :=
    old.foldl (fun s e => s.modThread s.cur.1 s.cur.2 e.1 fun th => { th with skip := v e.1 }) s
  if old.isEmpty then f s else set (tget old) (f (set (fun _ => none) s))

/-- A predicate register: q0 is always true (R295). -/
def Thread.q (th : Thread) (n : Nat) : Bool := n == 0 || th.qs.getLsbD n

/-- Whether an op stands in a group that issues in two cycles: a VEC op of more than 16 lanes on JXN-2 (R34, R123). -/
def State.halved (s : State) (o : Op) : Bool :=
  !isWide s.myCore && (o.slot == 3 || o.slot == 4) && 16 < s.group.lanes.length

/-- The context as the next cycle will find it: the results of earlier bundles that land by then have landed (R127). -/
def Ctx.ahead (now : Nat) (c : Ctx) : Ctx :=
  c.enter ((c.inflight.filter fun l => l.ready (now + cycleLen) && l.issued < now && !l.enabled c.regs.fpctl).map
    fun l => { l with due := now + cycleLen })

/-- What an op reads from in a lane: the second lane half of a two-cycle bundle reads in its own cycle (R127). -/
def State.view (s : State) (o : Op) (lane : Nat) : Ctx := if s.halved o && 16 ≤ lane then s.me.ahead s.now else s.me

/-- The guard of an op in a lane and thread (R295). -/
def State.guard (s : State) (o : Op) (lane t : Nat) : Bool :=
  ((((s.view o lane).thread t).q o.gq.toNat) != o.gn) && !s.skipping t

/-- The lanes of ACTIVE, in ascending order: lane and thread (R9). -/
def State.active (s : State) (o : Op) : List (Nat × Nat) := s.group.lanes.filter fun e => s.guard o e.1 e.2

/-- The active lanes whose guard is false. -/
def State.idle (s : State) (o : Op) : List (Nat × Nat) := s.group.lanes.filter fun e => !s.guard o e.1 e.2

/-- The highest-numbered lane of ACTIVE. -/
def State.top (s : State) (o : Op) : Option (Nat × Nat) := (s.active o).getLast?

/-! ### Sources (R125) -/

/-- The sixteen constants of R125, as f32 patterns and as f64 patterns. -/
def constF32 (i : Nat) : Nat :=
  ([0x00000000, 0x3F000000, 0x3F800000, 0x40000000, 0x40800000, 0x41000000, 0x41800000, 0x3E800000,
    0xBF000000, 0xBF800000, 0xC0000000, 0xC0800000, 0x3F317218, 0x3FB8AA3B, 0x40490FDB, 0x7FC00000][i]?).getD 0

def constF64 (i : Nat) : Nat :=
  ([0x0000000000000000, 0x3FE0000000000000, 0x3FF0000000000000, 0x4000000000000000, 0x4010000000000000,
    0x4020000000000000, 0x4030000000000000, 0x3FD0000000000000, 0xBFE0000000000000, 0xBFF0000000000000,
    0xC000000000000000, 0xC010000000000000, 0x3FE62E42FEFA39EF, 0x3FF71547652B82FE, 0x400921FB54442D18,
    0x7FF8000000000000][i]?).getD 0

/-- The selectors of a constant, and its value; none for the other selectors. -/
def constWord (sel : Nat) : Option Word :=
  if 0x180 ≤ sel && sel ≤ 0x1BF then some (word64 (sel - 0x180))
  else if 0x1C0 ≤ sel && sel ≤ 0x1CF then some (BitVec.ofInt 64 (-((sel : Int) - 0x1BF)))
  else if 0x1D0 ≤ sel && sel ≤ 0x1DF then some (word64 (constF32 (sel - 0x1D0)))
  else if 0x1E0 ≤ sel && sel ≤ 0x1EF then some (word64 (constF64 (sel - 0x1E0)))
  else none

/-- Whether a source of n registers is legal: the run stays in the register file, latches are one register wide, and the
long immediate exists (R125, R126, R295). -/
def srcOk (o : Op) (sel n : Nat) : Bool :=
  if isReg sel then sel + n ≤ 256
  else if isLatch sel then n ≤ 1
  else isLast sel || (constWord sel).isSome || (0x1F0 ≤ sel && sel ≤ 0x1F2) || (sel == 0x1F3 && o.ext.isSome)

/-- What register n of a thread holds. -/
def Ctx.reg (c : Ctx) (t n : Nat) : Word := tgetD (c.thread t).regs n 0

/-- What a thread reads through last register ln: its copy, or the value area (R55, R57). -/
def Ctx.lastWords (c : Ctx) (t n : Nat) : List Word :=
  match (c.thread t).copyWords n with
  | some ws => ws
  | none => tgetD c.mem.last n []

/-- The first n words that a source selector gives a lane (R125). -/
def State.srcWords (s : State) (o : Op) (lane t sel n : Nat) : List Word :=
  let c := s.view o lane
  if isReg sel then (List.range n).map fun i => c.reg t (sel + i)
  else if isLatch sel then
    [tgetD c.latches (((sel - 0x100) / 8 * 32 + lane) * 8 + (sel - 0x100) % 8) 0]
  else if isLast sel then
    let ws := c.lastWords t (sel - 0x140)
    (List.range n).map fun i => (ws[i]?).getD 0
  else match constWord sel with
    | some w => [w]
    | none =>
      if sel == 0x1F0 then [word64 lane]
      else if sel == 0x1F1 then [word64 t]
      else if sel == 0x1F2 then [word64 s.group.lanes.length]
      else if sel == 0x1F3 then [o.ext.getD 0]
      else []

/-- A source that is not a register run gives the same scalar to every element (R304). -/
def isScalarSel (sel : Nat) : Bool := !isReg sel && !isLast sel

/-- The elements, as bit patterns of the type's width, of an operand of type ty. -/
def State.operand (s : State) (o : Op) (lane t sel ty : Nat) : List Nat :=
  let e := elemTy ty
  let ws := s.srcWords o lane t sel (o.regsOf ty)
  if isTileTy ty && !isScalarSel sel then
    let v := wordsToNat ws
    (List.range o.elems).map fun i => v / 2 ^ (8 * tyBytes e * i) % 2 ^ tyBits e
  else List.replicate (o.count ty) ((ws.headD 0).toNat % 2 ^ tyBits e)

/-- One scalar operand. -/
def State.scalar (s : State) (o : Op) (lane t sel ty : Nat) : Nat := (s.operand o lane t sel ty).headD 0

/-- One whole 64-bit source. -/
def State.word (s : State) (o : Op) (lane t sel : Nat) : Word := (s.srcWords o lane t sel 1).headD 0

/-- The words of a register run (descriptors, circuit messages). -/
def State.run (s : State) (o : Op) (lane t sel n : Nat) : List Word :=
  let ws := s.srcWords o lane t sel n
  if isScalarSel sel then List.replicate n (ws.headD 0) else ws

/-! ### Results (R126-R129, R295) -/

/-- Whether a destination of n registers, holding `bytes` bytes, is legal for an op of the given slot (R125). -/
def destOk (slot sel n : Nat) : Bool :=
  if isReg sel then sel + n ≤ 256
  else if isLatch sel then sel == 0x100 + 8 * slot && n ≤ 1
  else isLast sel && n ≤ 4

/-- Threads of ACTIVE, each with the trap. -/
def State.allTrap (s : State) (o : Op) (c : TrapCode) : List (Nat × Trap) := (s.active o).map fun e => (e.2, ⟨c, 0, 0⟩)

/-- ILLEGAL_OP at every thread of ACTIVE when the op is not legal (R299). -/
def State.illegalUnless (s : State) (o : Op) (ok : Bool) : List (Nat × Trap) :=
  if ok then [] else s.allTrap o .illegalOp

/-- Traps of a last-register destination without room (R57). -/
def State.copyTraps (s : State) (o : Op) (sel n : Nat) : List (Nat × Trap) :=
  if isLast sel then
    ((s.active o).filter fun e => !(s.me.thread e.2).copyFits (sel - 0x140) n).map fun e => (e.2, ⟨.illegalOp, 0, 0⟩)
  else []

/-- The latency beyond which a result is interlocked (R127, R128). -/
def interlocked (lat width : Nat) : Bool := 4 < lat || 1 < width

/-- Threads allocate the copy entries of a result in a last register (R57). -/
def State.claimLast (s : State) (kind : DestKind) (dest width : Nat) (ts : List Nat) : State :=
  if kind == .reg && isLast dest then
    s.modMe fun c => ts.foldl (fun c t => c.modThread t fun th => th.allocate (dest - 0x140) width) c
  else s

/-- The landings of an op's result: values for the lanes of ACTIVE, zeros for the lanes whose guard is false (a last
register takes nothing there, R58), the second lane half of a JXN-2 two-cycle issue one cycle later (R127). -/
def State.land (s : State) (o : Op) (kind : DestKind) (dest width lat : Nat) (vals : List (Nat × List Word))
    (flags : Nat) (exc : List (Nat × Nat)) (traps : List (Nat × Trap)) : State :=
  let window := if interlocked lat width then some o.la.toNat else none
  let zs := if isReg dest || kind == .pred then (s.idle o).map (·.2) else []
  let mk (keep : Nat → Bool) (extra : Nat) : Landing :=
    let ts := (s.group.lanes.filter fun e => keep e.1).map (·.2)
    { due := s.after (lat + extra), slot := o.slot, kind := kind, dest := dest, width := width,
      vals := vals.filter fun v => ts.contains v.1
      zeros := zs.filter ts.contains
      lanes := s.group.lanes.filter fun e => keep e.1
      window := window, flags := flags, exc := exc, traps := traps, issued := s.now, at_ := s.me.pc }
  let claimed := s.claimLast kind dest width (vals.map (·.1))
  if s.halved o then
    let lo := mk (· < 16) 0
    let hi := mk (16 ≤ ·) 1
    claimed.modMe fun c => { c with inflight := c.inflight ++ [{ lo with flags := 0, traps := traps.filter fun e => lo.vals.any (·.1 == e.1) },
      { hi with traps := traps.filter fun e => hi.vals.any (·.1 == e.1) }] }
  else claimed.modMe fun c => { c with inflight := c.inflight ++ [mk (fun _ => true) 0] }

/-- What an op that acts once a group leaves when ACTIVE is empty: the zero writes of its guard-false lanes (R71, R295). -/
def State.landZero (s : State) (o : Op) (width lat : Nat) : State :=
  if destOk o.slot o.dest.toNat width then s.land o .reg o.dest.toNat width lat [] 0 [] [] else s

/-- The unit of a slot accepts its next op after the issue interval (R130). -/
def State.useUnit (s : State) (o : Op) (interval : Nat) : State :=
  if interval ≤ 1 then s
  else s.modHome fun c => { c with unitFree := tset c.unitFree o.slot (s.after interval) }

/-- A value per lane, from the lane and thread. -/
def State.perLane (s : State) (o : Op) (f : Nat → Nat → List Word) : List (Nat × List Word) :=
  (s.active o).map fun e => (e.2, f e.1 e.2)

/-- Threads of ACTIVE that read a poisoned register element (R135). -/
def State.rfTraps (s : State) (o : Op) (srcs : List (Nat × Nat)) : List (Nat × Trap) :=
  ((s.active o).filter fun e => srcs.any fun r =>
    isReg r.1 && (s.me.thread e.2).poisoned.any fun n => r.1 ≤ n && n < r.1 + r.2).map
      fun e => (e.2, ⟨.rfUncorrectable, 0, 0⟩)

/-- The checks that every op with sources passes: legality of the op and of its source runs (R299), then the check bits
(R135). `srcs` holds selectors and run lengths. -/
def State.srcTraps (s : State) (o : Op) (ok : Bool) (srcs : List (Nat × Nat)) : List (Nat × Trap) :=
  s.illegalUnless o (ok && srcs.all fun r => srcOk o r.1 r.2) ++ s.rfTraps o srcs

/-- An op with one result of type ty and no exceptions: after the checks of its sources and destination, and the given
traps, f gives the elements for a lane and thread. -/
def State.produce (s : State) (o : Op) (ok : Bool) (srcs : List (Nat × Nat)) (traps : List (Nat × Trap))
    (ty lat interval : Nat) (f : Nat → Nat → List Nat) : State :=
  let n := o.regsOf ty
  let d := o.dest.toNat
  runOp o.slot (s.srcTraps o (ok && destOk o.slot d n) srcs ++ traps ++ s.copyTraps o d n)
    (fun s => (s.land o .reg d n lat (s.perLane o fun l t => o.resultWords ty (f l t)) 0 [] []).useUnit o interval) s

end Sys2Proof.Machine
end

