-- ==== Sys2Proof/Machine/Flags.lean ====
section
/-! DEFINITION. Integer results and their comparisons (R158, R159, R305-R307, R349, R378), and float formats, rounding
and exceptions (R142, R146-R152). -/

namespace Sys2Proof.Machine

/-! ### Integers -/

/-- An integer from a pattern of a type. -/
def ofPat (ty v : Nat) : Int := if isSigned ty then signed (tyBits ty) v else ((v % 2 ^ tyBits ty : Nat) : Int)

/-- A pattern of a type from an integer, modulo 2^w. -/
def toPat (ty : Nat) (i : Int) : Nat := wrap (tyBits ty) i

/-- The clamp of sat() to the range of an integer type (R9). -/
def satInt (ty : Nat) (i : Int) : Int :=
  let w := tyBits ty
  let lo : Int := if isSigned ty then -(2 ^ (w - 1)) else 0
  let hi : Int := if isSigned ty then 2 ^ (w - 1) - 1 else 2 ^ w - 1
  if i < lo then lo else if hi < i then hi else i

/-- The relations of class C (R290). -/
def relInt (rel : Nat) (a b : Int) : Bool :=
  match rel with
  | 0 => a == b
  | 1 => a != b
  | 2 => a < b
  | 3 => a ≤ b
  | 4 => b < a
  | 5 => b ≤ a
  | _ => false

/-- DIV and REM, with zero divisors under IDZ = 0 (R158). -/
def divPat (ty a b : Nat) : Nat :=
  if b = 0 then 2 ^ tyBits ty - 1 else toPat ty ((ofPat ty a).tdiv (ofPat ty b))

def remPat (ty a b : Nat) : Nat :=
  if b = 0 then a else toPat ty ((ofPat ty a).tmod (ofPat ty b))

/-- MULHI (R158). -/
def mulhiPat (ty a b : Nat) : Nat := toPat ty ((ofPat ty a * ofPat ty b) / (2 ^ tyBits ty : Nat))

def popCount (w v : Nat) : Nat := (List.range w).foldl (fun n i => if bit v i then n + 1 else n) 0

def leadZeros (w v : Nat) : Nat := if v = 0 then w else w - 1 - Nat.log2 v

def revBits (w v : Nat) : Nat := (List.range w).foldl (fun r i => if bit v i then r + 2 ^ (w - 1 - i) else r) 0

def shraPat (w a b : Nat) : Nat := wrap w (signed w a / ((2 ^ (Nat.min b w) : Nat) : Int))

def rotPat (w a b : Nat) : Nat :=
  let k := b % w
  (a * 2 ^ k) % 2 ^ w + a / 2 ^ (w - k) % 2 ^ k

/-- BFI (R306). -/
def bfiPat (w a b c : Nat) : Nat :=
  let off := c % 256
  let wid := c / 256 % 256
  if w ≤ off ∨ wid = 0 then a
  else
    let n := Nat.min wid (w - off)
    a % 2 ^ off + b % 2 ^ n * 2 ^ off + a / 2 ^ (off + n) * 2 ^ (off + n)

/-- BFX (R306). -/
def bfxPat (ty a c : Nat) : Nat :=
  let w := tyBits ty
  let off := c % 256
  let wid := c / 256 % 256
  if w ≤ off ∨ wid = 0 then 0
  else
    let n := Nat.min wid (w - off)
    let r := a / 2 ^ off % 2 ^ n
    if isSigned ty then wrap w (signed n r) else r

/-- ptr arithmetic: OFF modulo 2^60, SEG and bit 60 kept (R74, R305). -/
def ptrAdd (p : Nat) (i : Int) : Nat := p / 2 ^ 60 * 2 ^ 60 + wrap 60 ((p % 2 ^ 60 : Nat) + i)

/-! ### Float formats (R142) -/

/-- A binary format: precision p with the hidden bit, bias, width. -/
structure Fmt where
  p : Nat
  bias : Nat
  width : Nat
deriving DecidableEq, Repr

def fmtOf : Nat → Fmt
  | 9 => ⟨11, 15, 16⟩
  | 10 => ⟨8, 127, 16⟩
  | 12 => ⟨53, 1023, 64⟩
  | _ => ⟨24, 127, 32⟩

def f32 : Fmt := ⟨24, 127, 32⟩

/-- Exponent field of all ones. -/
def Fmt.expMax (f : Fmt) : Nat := 2 ^ (f.width - f.p) - 1

/-- The canonical NaN (R142, R149). -/
def Fmt.nan (f : Fmt) : Nat := f.expMax * 2 ^ (f.p - 1) + 2 ^ (f.p - 2)

def Fmt.sign (f : Fmt) (s : Bool) : Nat := if s then 2 ^ (f.width - 1) else 0

def Fmt.inf (f : Fmt) (s : Bool) : Nat := f.sign s + f.expMax * 2 ^ (f.p - 1)

/-- The largest finite value of a sign. -/
def Fmt.maxFin (f : Fmt) (s : Bool) : Nat := f.sign s + f.expMax * 2 ^ (f.p - 1) - 1

/-- A float value: NaN, infinity, or (-1)^s × m × 2^e. -/
inductive FVal where
  | nan (signalling : Bool)
  | inf (s : Bool)
  | fin (s : Bool) (m : Nat) (e : Int)
deriving DecidableEq, Repr

/-- The value of a pattern. -/
def Fmt.val (f : Fmt) (v : Nat) : FVal :=
  let s := bit v (f.width - 1)
  let ex := v / 2 ^ (f.p - 1) % 2 ^ (f.width - f.p)
  let fr := v % 2 ^ (f.p - 1)
  if ex = f.expMax then (if fr = 0 then .inf s else .nan (fr < 2 ^ (f.p - 2)))
  else if ex = 0 then .fin s fr (1 - (f.bias : Int) - (f.p - 1 : Nat))
  else .fin s (fr + 2 ^ (f.p - 1)) ((ex : Int) - f.bias - (f.p - 1 : Nat))

def FVal.isNan : FVal → Bool
  | .nan _ => true
  | _ => false

def FVal.isSnan : FVal → Bool
  | .nan b => b
  | _ => false

/-- Exception bits in the order of SUB (R146, R254). -/
def flNV : Nat := 16
def flDZ : Nat := 8
def flOF : Nat := 4
def flUF : Nat := 2
def flNX : Nat := 1

/-- Union of exception sets. -/
def joinFlags (l : List Nat) : Nat := l.foldl (fun a b => a ||| b) 0

/-- Rounding modes (R146): 0 nearest even, 1 toward zero, 2 toward −∞, 3 toward +∞. -/
def roundsUp (rm : Nat) (s odd : Bool) (rem half : Nat) (sticky : Bool) : Bool :=
  match rm with
  | 0 => half < rem || (rem == half && (sticky || odd))
  | 1 => false
  | 2 => s && (rem != 0 || sticky)
  | _ => !s && (rem != 0 || sticky)

/-- m × 2^e (and a little more when sticky) to a multiple of 2^q: the multiple and whether the result is inexact. -/
def roundTo (rm : Nat) (s : Bool) (m : Nat) (e : Int) (sticky : Bool) (q : Int) : Nat × Bool :=
  if q ≤ e then (m * 2 ^ (e - q).toNat, sticky)
  else
    let k := (q - e).toNat
    let r := m / 2 ^ k
    let rem := 2 * (m % 2 ^ k)
    (if roundsUp rm s (r % 2 == 1) rem (2 ^ k) sticky then r + 1 else r, rem != 0 || sticky)

/-- The smallest normal exponent. -/
def Fmt.emin (f : Fmt) : Int := 1 - (f.bias : Int)

/-- The overflow result of R147. -/
def Fmt.overflow (f : Fmt) (rm : Nat) (s : Bool) : Nat :=
  match rm with
  | 0 => f.inf s
  | 1 => f.maxFin s
  | 2 => if s then f.inf s else f.maxFin s
  | _ => if s then f.maxFin s else f.inf s

/-- Rounds (-1)^s × m × 2^e, with m nonzero, once into the format: the pattern and the exceptions (R147, R148). A sticky
value must have at least two bits more than the precision. -/
def Fmt.round (f : Fmt) (rm : Nat) (s : Bool) (m : Nat) (e : Int) (sticky : Bool) : Nat × Nat :=
  let top : Int := e + (Nat.log2 m : Nat)
  let free := top - (f.p - 1 : Nat)
  let q := if free < f.emin - (f.p - 1 : Nat) then f.emin - (f.p - 1 : Nat) else free
  let (r, nx) := roundTo rm s m e sticky q
  let (r1, q1) := if 2 ^ f.p ≤ r then (r / 2, q + 1) else (r, q)
  if r1 < 2 ^ (f.p - 1) then
    let (u, _) := roundTo rm s m e sticky free
    let tiny := free < f.emin - (f.p - 1 : Nat) && !(2 ^ f.p ≤ u && free + 1 == f.emin - (f.p - 1 : Nat))
    (f.sign s + r1, if nx then (if tiny then flUF + flNX else flNX) else 0)
  else
    let ex := q1 + (f.p - 1 : Nat) + f.bias
    if (f.expMax : Int) ≤ ex then (f.overflow rm s, flOF + flNX)
    else
      let (u, _) := roundTo rm s m e sticky free
      let tiny := free < f.emin - (f.p - 1 : Nat) && !(2 ^ f.p ≤ u && free + 1 == f.emin - (f.p - 1 : Nat))
      (f.sign s + ex.toNat * 2 ^ (f.p - 1) + (r1 - 2 ^ (f.p - 1)),
        if nx then (if tiny then flUF + flNX else flNX) else 0)

/-- A value that may be zero. -/
def Fmt.roundZ (f : Fmt) (rm : Nat) (s : Bool) (m : Nat) (e : Int) : Nat × Nat :=
  if m = 0 then (f.sign s, 0) else f.round rm s m e false

/-- An exact sum of two finite values: sign, magnitude, exponent; a zero that comes from cancelling takes the sign of
R152. -/
def exactAdd (rm : Nat) (s1 : Bool) (m1 : Nat) (e1 : Int) (s2 : Bool) (m2 : Nat) (e2 : Int) : Bool × Nat × Int :=
  let e := if e1 ≤ e2 then e1 else e2
  let a := m1 * 2 ^ (e1 - e).toNat
  let b := m2 * 2 ^ (e2 - e).toNat
  if s1 = s2 then (s1, a + b, e)
  else if b < a then (s1, a - b, e)
  else if a < b then (s2, b - a, e)
  else (rm == 2, 0, e)

/-- a + b (R332, R333). -/
def Fmt.addV (f : Fmt) (rm : Nat) (a b : FVal) : Nat × Nat :=
  match a, b with
  | .nan x, .nan y => (f.nan, if x || y then flNV else 0)
  | .nan x, _ => (f.nan, if x then flNV else 0)
  | _, .nan y => (f.nan, if y then flNV else 0)
  | .inf x, .inf y => if x = y then (f.inf x, 0) else (f.nan, flNV)
  | .inf x, _ => (f.inf x, 0)
  | _, .inf y => (f.inf y, 0)
  | .fin s1 m1 e1, .fin s2 m2 e2 =>
    let (s, m, e) := exactAdd rm s1 m1 e1 s2 m2 e2
    f.roundZ rm s m e

def FVal.neg : FVal → FVal
  | .nan b => .nan b
  | .inf s => .inf (!s)
  | .fin s m e => .fin (!s) m e

def FVal.sign : FVal → Bool
  | .nan _ => false
  | .inf s => s
  | .fin s _ _ => s

/-- The exact product; `none` for 0 × ∞. NaN operands are handled by the callers. -/
def mulV (a b : FVal) : Option FVal :=
  match a, b with
  | .fin s1 m1 e1, .fin s2 m2 e2 => some (.fin (s1 != s2) (m1 * m2) (e1 + e2))
  | .inf s1, .fin s2 m2 _ => if m2 = 0 then none else some (.inf (s1 != s2))
  | .fin s1 m1 _, .inf s2 => if m1 = 0 then none else some (.inf (s1 != s2))
  | .inf s1, .inf s2 => some (.inf (s1 != s2))
  | _, _ => none

def Fmt.add (f : Fmt) (rm a b : Nat) : Nat × Nat := f.addV rm (f.val a) (f.val b)

def Fmt.sub (f : Fmt) (rm a b : Nat) : Nat × Nat := f.addV rm (f.val a) (f.val b).neg

def Fmt.mul (f : Fmt) (rm a b : Nat) : Nat × Nat :=
  let x := f.val a
  let y := f.val b
  if x.isNan || y.isNan then (f.nan, if x.isSnan || y.isSnan then flNV else 0)
  else match mulV x y with
    | some (.fin s m e) => f.roundZ rm s m e
    | some (.inf s) => (f.inf s, 0)
    | _ => (f.nan, flNV)

/-- a × b + c rounded once; 0 × ∞ raises NV even with a quiet NaN (R333). -/
def Fmt.fma (f : Fmt) (rm a b c : Nat) : Nat × Nat :=
  let x := f.val a
  let y := f.val b
  let z := f.val c
  let sn := if x.isSnan || y.isSnan || z.isSnan then flNV else 0
  if x.isNan || y.isNan then (f.nan, sn)
  else match mulV x y with
    | some p => if z.isNan then (f.nan, sn) else f.addV rm p z
    | none => (f.nan, flNV)

def Fmt.div (f : Fmt) (rm a b : Nat) : Nat × Nat :=
  let x := f.val a
  let y := f.val b
  let s := x.sign != y.sign
  if x.isNan || y.isNan then (f.nan, if x.isSnan || y.isSnan then flNV else 0)
  else match x, y with
    | .inf _, .inf _ => (f.nan, flNV)
    | .inf _, _ => (f.inf s, 0)
    | _, .inf _ => (f.sign s, 0)
    | .fin _ m1 e1, .fin _ m2 e2 =>
      if m2 = 0 then (if m1 = 0 then (f.nan, flNV) else (f.inf s, flDZ))
      else if m1 = 0 then (f.sign s, 0)
      else
        let k := f.p + 3 + Nat.log2 m2
        f.round rm s (m1 * 2 ^ k / m2) (e1 - e2 - (k : Nat)) (m1 * 2 ^ k % m2 != 0)
    | _, _ => (f.nan, flNV)

/-- An exact comparison of two finite or infinite values: less, equal. -/
def ltV (a b : FVal) : Bool :=
  match a, b with
  | .inf x, .inf y => x && !y
  | .inf x, _ => x
  | _, .inf y => !y
  | .fin s1 m1 e1, .fin s2 m2 e2 =>
    let e := if e1 ≤ e2 then e1 else e2
    let i1 : Int := (m1 * 2 ^ (e1 - e).toNat : Nat)
    let i2 : Int := (m2 * 2 ^ (e2 - e).toNat : Nat)
    (if s1 then -i1 else i1) < (if s2 then -i2 else i2)
  | _, _ => false

def eqV (a b : FVal) : Bool :=
  match a, b with
  | .nan _, _ => false
  | _, .nan _ => false
  | a, b => !ltV a b && !ltV b a

/-- FMIN and FMAX (R149): −0 is less than +0, and one NaN gives the other operand. -/
def Fmt.minmax (f : Fmt) (isMax : Bool) (a b : Nat) : Nat × Nat :=
  let x := f.val a
  let y := f.val b
  let fl := if x.isSnan || y.isSnan then flNV else 0
  if x.isNan && y.isNan then (f.nan, fl)
  else if x.isNan then (b, fl)
  else if y.isNan then (a, fl)
  else
    let aLess := ltV x y || (eqV x y && x.sign && !y.sign)
    (if aLess != isMax then a else b, fl)

/-- FCMP (R149, R334). -/
def Fmt.cmp (f : Fmt) (rel a b : Nat) : Bool × Nat :=
  let x := f.val a
  let y := f.val b
  let un := x.isNan || y.isNan
  let ordered := 2 ≤ rel && rel ≤ 5
  let fl := if x.isSnan || y.isSnan || (un && ordered) then flNV else 0
  let r := match rel with
    | 0 => !un && eqV x y
    | 1 => un || !eqV x y
    | 2 => !un && ltV x y
    | 3 => !un && !ltV y x
    | 4 => !un && ltV y x
    | 5 => !un && !ltV x y
    | _ => un
  (r, fl)

/-- FCVT (R335). -/
def fcvtPat (src dst : Fmt) (rm v : Nat) : Nat × Nat :=
  match src.val v with
  | .nan b => (dst.nan, if b then flNV else 0)
  | .inf s => (dst.inf s, 0)
  | .fin s m e => dst.roundZ rm s m e

/-- An integer to a float (R150). -/
def Fmt.ofInt (f : Fmt) (rm : Nat) (i : Int) : Nat × Nat := f.roundZ rm (i < 0) i.natAbs 0

/-- A finite value to an integer under a rounding mode. -/
def toIntV (rm : Nat) (s : Bool) (m : Nat) (e : Int) : Int × Bool :=
  let (r, nx) := roundTo rm s m e false (if 0 < e then e else 0)
  let n : Int := ((if 0 < e then r * 2 ^ e.toNat else r : Nat) : Int)
  (if s then -n else n, nx)

/-- A float to an integer type (R150). -/
def fToInt (f : Fmt) (ty rm v : Nat) : Nat × Nat :=
  let w := tyBits ty
  let lo : Int := if isSigned ty then -(2 ^ (w - 1)) else 0
  let hi : Int := if isSigned ty then 2 ^ (w - 1) - 1 else 2 ^ w - 1
  match f.val v with
  | .nan _ => (0, flNV)
  | .inf s => (toPat ty (if s then lo else hi), flNV)
  | .fin s m e =>
    let (i, nx) := toIntV rm s m e
    if i < lo then (toPat ty lo, flNV) else if hi < i then (toPat ty hi, flNV)
    else (toPat ty i, if nx then flNX else 0)

/-- FRND: to an integral value in the same format (R340). -/
def Fmt.rnd (f : Fmt) (rm v : Nat) : Nat × Nat :=
  match f.val v with
  | .nan b => (f.nan, if b then flNV else 0)
  | .inf s => (f.inf s, 0)
  | .fin s m e =>
    ((f.roundZ 0 s (toIntV rm s m e).1.natAbs 0).1, 0)

/-! ### FPCTL (R146) -/

def fpRM (w : Word) : Nat := (w.extractLsb' 0 2).toNat
def fpFTZ (w : Word) : Bool := w.getLsbD 2
def fpIDZ (w : Word) : Bool := w.getLsbD 3
def fpEN (w : Word) : Nat := (w.extractLsb' 4 5).toNat

/-- Hardware sets FLAGS bits (R146). -/
def fpRaise (w : Word) (fl : Nat) : Word := w ||| (word64 (fl % 32) <<< 9)

end Sys2Proof.Machine
end

