-- ==== Sys2Proof/Machine/Seg.lean ====
section
/-! DEFINITION. Segments (R163-R172): checks, addresses, the stash with its mapped windows, template copies, and the
loads and stores of an issue group. -/

namespace Sys2Proof.Machine

/-! ### Segment registers -/

/-- The fields of a ptr (R74). -/
def ptrSeg (p : Word) : Nat := (p.extractLsb' 61 3).toNat
def ptrBad (p : Word) : Bool := p.getLsbD 60
def ptrOff (p : Word) : Nat := (p.extractLsb' 0 60).toNat

def Ctx.base (c : Ctx) (seg : Nat) : Nat := (tgetD c.regs.segBase seg 0).toNat
def Ctx.limit (c : Ctx) (seg : Nat) : Nat := (tgetD c.regs.segLim seg 0).toNat

/-- Whether the launch of a context is templated (R48). -/
def State.templated (s : State) (c : Ctx) : Bool := ((s.launchOf c).map (·.tmpl)).getD false

/-- Whether a context hosts a level-0 founder (R49). -/
def Ctx.isFounder (c : Ctx) : Bool := (c.wg.map (·.founder)).getD false

/-- The size of the template copy area in each thread's private region (R167). -/
def State.copyArea (s : State) (c : Ctx) : Nat := if s.templated c then (c.limit 4 + 7) / 8 * 8 else 0

/-- The limit that applies to program accesses (R166, R167). -/
def State.effLimit (s : State) (c : Ctx) (seg : Nat) : Nat :=
  if seg = 1 then c.limit 1 - s.copyArea c else c.limit seg

/-- The workgroup size, and the interleave of P (R167). -/
def Ctx.size (c : Ctx) : Nat := (c.wg.map (·.size)).getD 1

def Ctx.pAddr (c : Ctx) (t off : Nat) : Nat :=
  c.base 1 + 8 * (32 * ((c.size + 31) / 32)) * (off / 8) + 8 * t + off % 8

/-- One contiguous access of a thread: segment, offset, length (R166). -/
structure Acc where
  lane : Nat
  t : Nat
  bad : Bool
  seg : Nat
  off : Nat
  n : Nat
deriving DecidableEq, Repr

def Acc.ofPtr (lane t : Nat) (p : Word) (n : Nat) : Acc := ⟨lane, t, ptrBad p, ptrSeg p, ptrOff p, n⟩

/-- The virtual address of a byte of an access, or its offset for S and V (R254: ADDR). -/
def Ctx.addrOf (c : Ctx) (a : Acc) (off : Nat) : Nat :=
  if a.seg = 2 ∨ a.seg = 6 then off else if a.seg = 1 then c.pAddr a.t off else c.base a.seg + off

/-- What a segment allows (R164). -/
def segAllows (seg : Nat) (kind : AccessKind) : Bool :=
  match seg with
  | 0 | 1 | 2 | 4 | 5 => true
  | 3 => kind == .load
  | _ => false

/-- Checks 1 to 4 of R166, in order. -/
def State.segCheck (s : State) (c : Ctx) (kind : AccessKind) (align : Nat) (a : Acc) : Option Trap :=
  let addr := c.addrOf a a.off
  if a.bad then some ⟨.accessViolation, a.seg, addr⟩
  else if !segAllows a.seg kind then some ⟨.accessViolation, a.seg, addr⟩
  else if a.off % Nat.max 1 align != 0 then some ⟨.misalign, a.seg, addr⟩
  else if s.effLimit c a.seg < a.off + a.n then some ⟨.segLimit, a.seg, addr⟩
  else none

/-- The aligned pieces of at most 8 bytes of an access: offset and length. -/
def pieces : Nat → Nat → Nat → List (Nat × Nat)
  | 0, _, _ => []
  | _ + 1, _, 0 => []
  | f + 1, off, n =>
    let len := Nat.min n (8 - off % 8)
    (off, len) :: pieces f (off + len) (n - len)

def Acc.pieces (a : Acc) : List (Nat × Nat) := Machine.pieces (a.n / 8 + 2) a.off a.n

/-! ### Where the bytes of an access lie -/

/-- The valid map entry that covers a granule of S, with the granule's place in it (R169). -/
def Ctx.mapped (c : Ctx) (off : Nat) : Option (Nat × Nat) :=
  (c.mem.stmap.find? fun e =>
    let base := (e.2.2.extractLsb' 0 11).toNat
    let n := (e.2.2.extractLsb' 20 11).toNat + 1
    base ≤ off / 256 && off / 256 < base + n).map fun e => (e.1, off / 256 - (e.2.2.extractLsb' 0 11).toNat)

/-- The G offset of a mapped granule (R169). -/
def Ctx.mapG (c : Ctx) (entry gran : Nat) : Nat :=
  ((tget c.mem.stmap entry).map fun e => (e.1.extractLsb' 8 52).toNat * 256 + 256 * gran).getD 0

def granKey (entry gran : Nat) : Nat := entry * 2048 + gran

/-- Where a piece of an access lies: a virtual address, the own stash, or a mapped granule of it. -/
inductive Spot where
  | virt (va : Nat)
  | stash (a : Nat)
  | window (entry gran off : Nat) (a : Nat)
deriving DecidableEq, Repr

/-- Whether T has private copies for this context (R59, R60). -/
def State.copiesT (s : State) (c : Ctx) : Bool := s.templated c && !c.isFounder

/-- Where a granule copy of T lies: a stash address, or the copy area of thread 0 (R61). -/
def State.copySpot (s : State) (c : Ctx) (gran inner : Nat) (at_ : Option Nat) : Spot :=
  match at_ with
  | some a => .stash (a + inner)
  | none => .virt (c.pAddr 0 (c.limit 1 - s.copyArea c + 256 * gran + inner))

/-- The place of one piece (R60, R167, R168, R169). -/
def State.spotOf (s : State) (c : Ctx) (a : Acc) (off : Nat) : Spot :=
  if a.seg = 2 then
    match c.mapped off with
    | some (e, g) => .window e g (off % 256) (c.base 2 + off)
    | none => .stash (c.base 2 + off)
  else if a.seg = 4 && s.copiesT c then
    match tget c.mem.tcopies (off / 256) with
    | some p => s.copySpot c (off / 256) (off % 256) p
    | none => .virt (c.base 4 + off)
  else .virt (c.addrOf a off)

/-- The state of a granule of a valid entry; none means INVALID (R170). -/
def Ctx.granule (c : Ctx) (e g : Nat) : Option GranState := tget c.mem.granules (granKey e g)

def GranState.mask : GranState → BitVec 256
  | .filling _ m => m
  | .clean => 0
  | .dirty m => m

def GranState.isFilling : GranState → Bool
  | .filling _ _ => true
  | _ => false

/-- Every one of n bytes from place `inner` of a granule has been written in the stash. -/
def GranState.written (g : GranState) (inner n : Nat) : Bool := (List.range n).all fun i => g.mask.getLsbD (inner + i)

/-- An access of n bytes of a granule goes to G (R169, R170): the granule is INVALID, or a load finds bytes of it under an expired
lease. -/
def State.granuleReads (s : State) (c : Ctx) (e g inner n : Nat) (load : Bool) : Bool :=
  match c.granule e g with
  | none => true
  | some gr => load && !gr.isFilling && !gr.written inner n && tgetD c.mem.granLease (granKey e g) 0 ≤ s.gtc

/-- The virtual addresses that n bytes of an access need translated, and the kind of each access. A mapped granule is translated as a
load of G when it fills or is renewed (R169, R170). -/
def State.needs (s : State) (c : Ctx) (a : Acc) (off n : Nat) (kind : AccessKind) : List (Nat × AccessKind) :=
  match s.spotOf c a off with
  | .virt va =>
    if a.seg = 4 && s.copiesT c && (tget c.mem.tcopies (off / 256)).isNone && kind != .load then [(va, .load)]
    else [(va, kind)]
  | .stash _ => []
  | .window e g inner _ => if s.granuleReads c e g inner n (kind == .load) then [(c.base 0 + c.mapG e g + inner, .load)] else []

/-- The window that an access to a mapped granule may not write (R169: RO). -/
def Ctx.readOnlyWindow (c : Ctx) (sp : Spot) : Bool :=
  match sp with
  | .window e _ _ _ => ((tget c.mem.stmap e).map fun w => w.2.getLsbD 46).getD false
  | _ => false

/-- Check 5 of an access: a violation as a trap, or the page faults of its pieces (address, level, and whether it writes there). -/
def State.walkCheck (s : State) (k x : Nat) (kind : AccessKind) (a : Acc) : Option Trap × List (Nat × Nat × Bool) :=
  let c := s.ctx k x
  let sp := s.spaceOf k x
  a.pieces.foldl (fun acc pc =>
    match acc.1 with
    | some _ => acc
    | none =>
      if kind != .load && c.readOnlyWindow (s.spotOf c a pc.1) then (some ⟨.accessViolation, a.seg, c.addrOf a pc.1⟩, acc.2)
      else (s.needs c a pc.1 pc.2 kind).foldl (fun acc nd =>
        match s.probe sp nd.1 nd.2 with
        | .ok pa _ =>
          if kind == .atomic && regionOf pa == .host then (some ⟨.accessViolation, a.seg, nd.1⟩, acc.2) else acc
        | .fault lv => (acc.1, acc.2 ++ [(nd.1, lv, nd.2 != .load)])
        | .violation => (some ⟨.accessViolation, a.seg, nd.1⟩, acc.2)) acc) (none, [])

/-- The traps of a group's accesses (R166): each failing thread its own, the first check that fails of its first access. -/
def State.accTraps (s : State) (k x : Nat) (kind : AccessKind) (align : Nat) (as : List Acc) : List (Nat × Trap) :=
  as.filterMap fun a => match s.segCheck (s.ctx k x) kind align a with
    | some t => some (a.t, t)
    | none => ((s.walkCheck k x kind a).1).map fun t => (a.t, t)

/-- A page fault of a thread's access. -/
structure PFault where
  t : Nat
  addr : Nat
  level : Nat
  seg : Nat
  write : Bool
deriving DecidableEq, Repr

def PFault.hold (f : PFault) (precise : Bool) (at_ : Pc) : FaultHold :=
  { seg := f.seg, addr := f.addr, write := f.write, level := f.level, walking := false, precise := precise, at_ := at_ }

/-- The PAGE_FAULT that a record reports (R254). -/
def FaultHold.trap (f : FaultHold) : Trap := ⟨.pageFault, (if f.write then 1 else 0) + 2 * f.level, f.addr⟩

/-- The page faults of a group's accesses, the first of each (R183). -/
def State.accFaults (s : State) (k x : Nat) (kind : AccessKind) (as : List Acc) : List PFault :=
  as.filterMap fun a => ((s.walkCheck k x kind a).2.head?).map fun f => ⟨a.t, f.1, f.2.1, a.seg, f.2.2⟩

/-- The group waits for the answers of its page faults: one record a thread, in ascending slot order (R183). -/
def State.pageFaults (s : State) (k x : Nat) (fs : List PFault) (precise : Bool := false) : State :=
  let pc := (s.ctx k x).pc
  let s := (sortBy (·.t) fs).foldl (fun s f =>
    if ((s.ctx k x).thread f.t).fault.isSome then s
    else
      let h := f.hold precise pc
      (s.addRecord k x f.t h.trap false false pc pc).modThread k x f.t fun th => { th with fault := some h }) s
  s.modCtx k x fun c => { c with hold := some .lookahead }

/-! ### Physical pieces -/

/-- A translated piece: physical address, length, key, read-mostly, and the time from which a page walk lets it go on. -/
structure PPiece where
  pa : Nat
  len : Nat
  key : Option Nat
  rm : Bool
  ready : Nat
deriving DecidableEq, Repr

def State.physPiece (s : State) (sp : Space) (va len : Nat) (kind : AccessKind) : Option PPiece × State :=
  match s.translate sp va kind with
  | (.ok pa e, s') => (some ⟨pa, len, s'.leafKey pa e, pteRM e, if s.tlbMiss sp va then s'.walkEnd (clusterOf sp.core) else 0⟩, s')
  | (_, s') => (none, s')

/-- A piece of the host window among the bytes of a load: physical address, length, place among the bytes, segment, address. -/
structure HostPiece where
  pa : Nat
  len : Nat
  into : Nat
  seg : Nat
  va : Nat
deriving DecidableEq, Repr

/-- What one load of bytes found: the bytes, how it was served, expired lines used speculatively with the range of their load, a poisoned line, host bytes to
fetch, the writers of its lines, the time its page walks end, the banks that defer it, and the granules whose fills it awaits. -/
structure Got where
  bytes : List Byte := []
  served : List Served := []
  expired : List (Nat × Option (Nat × Word)) := []
  poison : Option Nat := none
  host : List HostPiece := []
  writers : List (Nat × Nat × Nat) := []
  ready : Nat := 0
  banks : List (Nat × Nat) := []
  fills : List Nat := []
deriving DecidableEq, Repr

def Got.add (a b : Got) : Got :=
  { bytes := a.bytes ++ b.bytes, served := a.served ++ b.served, expired := a.expired ++ b.expired, poison := a.poison.or b.poison
    host := a.host ++ b.host.map (fun h => { h with into := a.bytes.length + h.into }), writers := a.writers ++ b.writers
    ready := Nat.max a.ready b.ready, banks := a.banks ++ b.banks, fills := a.fills ++ b.fills }

/-- The latency of a load that was served in several ways, page walks first (R131, R182), and the state that drew the free ones. -/
def State.gotLatency (s : State) (g : Got) : Nat × State :=
  let (lat, s1) := g.served.foldl (fun (acc : Nat × State) v => let (n, s') := acc.2.loadLatency v; (Nat.max acc.1 n, s')) (0, s)
  (lat + (g.ready - s.now + (cycleLen - 1)) / cycleLen, s1)

/-- A load that no register takes up: what the host window gives it is free (R276; DESIGN CHOICE, log 4). -/
def State.noHost (s : State) (g : Got) : Got × State :=
  if g.host.isEmpty then (g, s)
  else let (n, s1) := s.draw1; ({ g with bytes := natToBytes g.bytes.length n, host := [] }, s1)

/-- A load of one physical piece by core k, context x (R173). -/
def State.loadPiece (s : State) (k x : Nat) (p : PPiece) (range : Option (Nat × Word)) : Got × State :=
  let l := p.pa / 128
  let (v, s1) := s.touchLine k l (p.pa % 128) p.len p.key p.rm range
  let bytes := (List.range p.len).map fun i => s1.loadByte k p.key (p.pa + i)
  let w := match (s1.line l).writer with
    | some (k', x') => if k' = k && x' = x then [] else [(l, k', x')]
    | none => []
  ({ bytes := bytes, served := [v]
     expired := if v == .expired then [(l, range)] else []
     poison := if s1.uncorrectable p.pa then some (l * 128) else none
     host := if v == .host then [⟨p.pa, p.len, 0, 0, 0⟩] else []
     writers := w
     ready := p.ready
     banks := if v == .deferred then [bankOf p.pa] else [] },
    if p.rm && !w.isEmpty && x ≤ 4 then s1.modCtx k x fun c => { c with mem := { c.mem with rmWrites := true } } else s1)

/-- The bytes of the stash. -/
def Core.stashBytes (c : Core) (a n : Nat) : List Byte := (List.range n).map fun i => cellAt c.stash (a + i)

def State.putStash (s : State) (k a : Nat) (bs : List Byte) : State :=
  s.modCore k fun c => { c with stash := cellPuts c.stash (bytesAt a bs) }

/-- The stash address and the virtual address of a mapped granule. -/
def Ctx.granBase (c : Ctx) (e g : Nat) : Nat :=
  (((tget c.mem.stmap e).map fun w => (w.2.extractLsb' 0 11).toNat).getD 0 + g) * 256 + c.base 2

def Ctx.granVa (c : Ctx) (e g : Nat) : Nat := c.base 0 + c.mapG e g

/-- The tick at which the lease of a line in an L1 ends. -/
def State.leaseOn (s : State) (k l : Nat) : Nat := ((s.l1Line k l).map (·.e)).getD 0

/-- The 256 bytes of a mapped granule as loads of G through the L1, and the tick at which the first of their leases ends (R170). -/
def State.readGranule (s : State) (k x e g : Nat) : Got × Nat × State :=
  let va := (s.ctx k x).granVa e g
  let (got, ls, s1) := (List.range 32).foldl (fun (acc : Got × List Nat × State) i =>
    let s := acc.2.2
    match s.physPiece (s.spaceOf k x) (va + 8 * i) 8 .load with
    | (some p, s') => let (q, s'') := s'.loadPiece k x p none; (acc.1.add q, acc.2.1 ++ [p.pa / 128], s'')
    | (none, s') => (acc.1.add { bytes := List.replicate 8 0#8 }, acc.2.1, s')) (({} : Got), [], s)
  let (got, s2) := s1.noHost got
  match nodup ls with
  | [] => (got, 0, s2)
  | l :: r => (got, r.foldl (fun m l => Nat.min m (s2.leaseOn k l)) (s2.leaseOn k l), s2)

/-- Bytes read from G enter a granule where its stores have written none, under the lease they were read with. -/
def State.refreshGranule (s : State) (k x e g lease : Nat) (bs : List Byte) : State :=
  let c := s.ctx k x
  let mask := ((c.granule e g).map GranState.mask).getD 0
  let base := c.granBase e g
  let new := (bs.zipIdx.filter fun b => !mask.getLsbD b.2).map fun b => (base + b.2, b.1)
  (s.modCore k fun co => { co with stash := cellPuts co.stash new }).modCtx k x fun c =>
    { c with mem := { c.mem with granLease := tset c.mem.granLease (granKey e g) lease } }

/-- The fill of an INVALID granule (R170): 256 bytes through L1 as loads of G; it completes after the slowest of them. -/
def State.fillGranule (s : State) (k x e g : Nat) : Got × State :=
  match (s.ctx k x).granule e g with
  | some _ => ({}, s)
  | none =>
    let (got, lease, s1) := s.readGranule k x e g
    let (lat, s2) := s1.gotLatency got
    let due := s2.after lat
    let s3 := (s2.refreshGranule k x e g lease got.bytes).modCtx k x fun c =>
      { c with mem := { c.mem with granules := tset c.mem.granules (granKey e g) (.filling due 0) } }
    ({ expired := got.expired, poison := got.poison, writers := got.writers }, s3.schedule due (.stashFillComplete k x (granKey e g)))

/-- A load of n bytes of a mapped granule (R170): from the stash after a fill that it awaits, from the stash when its bytes are
written or under a live lease, else the granule is renewed by loads of its lines first. -/
def State.loadWindow (s : State) (k x e g inner a n : Nat) : Got × State :=
  let (fill, s1) := s.fillGranule k x e g
  let c := s1.ctx k x
  if (c.granule e g).any GranState.isFilling then
    ({ fill with bytes := (s1.core k).stashBytes a n, served := [.stash], fills := [granKey e g] }, s1)
  else if !s1.granuleReads c e g inner n true then ({ fill with bytes := (s1.core k).stashBytes a n, served := [.stash] }, s1)
  else
    let (got, lease, s2) := s1.readGranule k x e g
    let s3 := s2.refreshGranule k x e g lease got.bytes
    ({ got with
        bytes := (s3.core k).stashBytes a n
        served := .stash :: got.served.filter fun v => v != .l1 && v != .expired }, s3)

/-- A fill or a copy that a store or an atomic asks for takes no bytes from an expired line: its lines are read afresh (DEDUCED,
log 20). -/
def State.freshen (s : State) (k x va n : Nat) : State :=
  (pieces (n / 8 + 2) va n).foldl (fun (s : State) (pc : Nat × Nat) =>
    match s.probe (s.spaceOf k x) pc.1 .load with
    | .ok pa _ => if (s.l1Line k (pa / 128)).any fun e => !e.live s.gtc then s.modCore k fun c => { c with l1 := tdel c.l1 (pa / 128) } else s
    | _ => s) s

/-- The lines of an access that no speculation may follow are read afresh: an engine keeps what it reads (DEDUCED, log 20). -/
def State.freshAcc (s : State) (k x : Nat) (a : Acc) : State :=
  a.pieces.foldl (fun s pc =>
    let c := s.ctx k x
    match s.spotOf c a pc.1 with
    | .virt va => s.freshen k x va pc.2
    | .window e g _ _ => s.freshen k x (c.granVa e g) 256
    | .stash _ => s) s

/-- The fill that a store or an atomic starts. -/
def State.fillFor (s : State) (k x e g : Nat) : State :=
  if ((s.ctx k x).granule e g).isSome then s
  else ((s.freshen k x ((s.ctx k x).granVa e g) 256).fillGranule k x e g).2

/-- Every byte of an access lies in an element of a range (R228). -/
def State.inElements (s : State) (k x : Nat) (a : Acc) (r : Nat × Word) : Bool :=
  a.pieces.all fun pc => match s.spotOf (s.ctx k x) a pc.1 with
    | .virt va => match s.probe (s.spaceOf k x) va .load with
      | .ok pa _ => (List.range pc.2).all fun i => inRange r.1 r.2 (pa + i)
      | _ => false
    | _ => false

/-- A load of one access whose checks have passed. A range applies to a lane whose bytes lie within its elements (R228). -/
def State.loadAcc (s : State) (k x : Nat) (a : Acc) (range : Option (Nat × Word)) : Got × State :=
  let range := range.filter fun r => s.inElements k x a r
  a.pieces.foldl (fun (acc : Got × State) pc =>
    let s := acc.2
    let c := s.ctx k x
    match s.spotOf c a pc.1 with
    | .stash ad => (acc.1.add { bytes := (s.core k).stashBytes ad pc.2, served := [.stash] }, s)
    | .window e g inner ad => let (q, s') := s.loadWindow k x e g inner ad pc.2; (acc.1.add q, s')
    | .virt va => match s.physPiece (s.spaceOf k x) va pc.2 .load with
      | (some p, s') =>
        let (q, s'') := s'.loadPiece k x p range
        (acc.1.add { q with host := q.host.map fun h => { h with seg := a.seg, va := va } }, s'')
      | (none, s') => (acc.1.add { bytes := List.replicate pc.2 0#8 }, s')) (({} : Got), s)

/-! ### Template granule copies (R60-R62) -/

/-- Room for a copy in the pool above the share, none when the pool is full (R61, R168). -/
def Ctx.poolSpot (c : Ctx) : Option Nat :=
  let base := c.mem.shareBase + c.mem.shareLen
  (firstNat (fun i => !(c.mem.tcopies.any fun e => e.2 == some (base + 256 * i))) (c.mem.pool / 256) 0).map
    fun i => base + 256 * i

/-- Stores bytes to a virtual address of a context. -/
def State.storeVirt (s : State) (k x t va : Nat) (bs : List Byte) : State :=
  (pieces (bs.length / 8 + 2) va bs.length).foldl (fun (s : State) (pc : Nat × Nat) =>
    match s.physPiece (s.spaceOf k x) pc.1 pc.2 .store with
    | (some p, s') => s'.storeLine k x t p.key p.rm (p.pa / 128) (bytesAt p.pa ((bs.drop (pc.1 - va)).take pc.2))
    | (none, s') => s') s

/-- Makes the workgroup's private copy of a granule of T (R60, R61): the shared contents now, in the stash or in the copy
area. The wait lasts until 8 cycles after the slowest read has landed (R62). -/
def State.copyGranule (s : State) (k x gran : Nat) : State :=
  let c := s.ctx k x
  let a : Acc := ⟨0, 0, false, 4, 256 * gran, Nat.min 256 (c.limit 4 - 256 * gran)⟩
  let (got, s1) := (s.freshen k x (c.base 4 + a.off) a.n).loadAcc k x a none
  let (got, s1) := s1.noHost got
  let (lat, s2) := s1.gotLatency got
  let spot := c.poolSpot
  let due := s2.after (lat + 8)
  let s3 := match spot with
    | some ad => s2.putStash k ad (got.bytes ++ List.replicate (256 - got.bytes.length) 0#8)
    | none =>
      let off := c.limit 1 - s.copyArea c + 256 * gran
      (pieces 34 off got.bytes.length).foldl (fun (s : State) (pc : Nat × Nat) =>
        s.storeVirt k x 0 (c.pAddr 0 pc.1) ((got.bytes.drop (pc.1 - off)).take pc.2)) s2
  let s4 := s3.modCtx k x fun c => { c with mem := { c.mem with
    tcopies := tset c.mem.tcopies gran spot, tready := Nat.max c.mem.tready due } }
  s4.schedule due (.granuleCopyComplete k x)

/-- The granules of T that stores of a group copy first (R60, R62). -/
def State.newCopies (s : State) (k x : Nat) (as : List Acc) : List Nat :=
  let c := s.ctx k x
  if !s.copiesT c then []
  else nodup ((as.flatMap fun a => if a.seg = 4 then a.pieces.map (·.1 / 256) else []).filter fun g => (tget c.mem.tcopies g).isNone)

def State.copyFirst (s : State) (k x : Nat) (as : List Acc) : State :=
  (s.newCopies k x as).foldl (fun s g => s.copyGranule k x g) s

/-- The free places of the pool. -/
def Ctx.poolFree (c : Ctx) : Nat := c.mem.pool / 256 - (c.mem.tcopies.filter (·.2.isSome)).length

/-- The accesses of the copy area that take a copy of a granule. -/
def State.areaAcc (s : State) (c : Ctx) (gran : Nat) : List (Nat × Nat) :=
  pieces 34 (c.limit 1 - s.copyArea c + 256 * gran) (Nat.min 256 (c.limit 4 - 256 * gran))

/-- The page faults of the copies that go to the copy area, each of the thread that stores first to the granule (R61, R62). -/
def State.copyFaults (s : State) (k x : Nat) (as : List Acc) : List PFault :=
  let c := s.ctx k x
  ((s.newCopies k x as).drop c.poolFree).filterMap fun g =>
    (as.find? fun a => a.seg == 4 && a.pieces.any fun p => p.1 / 256 == g).bind fun a =>
      (s.areaAcc c g).findSome? fun pc => match s.probe (s.spaceOf k x) (c.pAddr 0 pc.1) .store with
        | .fault lv => some ⟨a.t, c.pAddr 0 pc.1, lv, 1, true⟩
        | _ => none

/-! ### Stores -/

/-- Marks bytes of a granule as written (R170). -/
def GranState.write (g : GranState) (inner len : Nat) : GranState :=
  let m := (BitVec.ofNat 256 (2 ^ len - 1)) <<< inner
  match g with
  | .filling u n => .filling u (n ||| m)
  | .clean => .dirty m
  | .dirty n => .dirty (n ||| m)

/-- A store of bytes of one access whose checks have passed (R173, R170, R60). -/
def State.storeAcc (s : State) (k x : Nat) (a : Acc) (bs : List Byte) : State :=
  a.pieces.foldl (fun s pc =>
    let c := s.ctx k x
    let part := (bs.drop (pc.1 - a.off)).take pc.2
    match s.spotOf c a pc.1 with
    | .stash ad => s.putStash k ad part
    | .window e g inner ad =>
      let s1 := s.fillFor k x e g
      (s1.putStash k ad part).modCtx k x fun c => { c with mem := { c.mem with
        granules := tmod c.mem.granules (granKey e g) .clean (·.write inner pc.2) } }
    | .virt va => s.storeVirt k x a.t va part) s

/-- A granule whose written bytes have gone to G (R171). -/
def GranState.cleaned : GranState → GranState
  | .filling u _ => .filling u 0
  | _ => .clean

/-- The written bytes of a granule go to G, as one masked store for each of its lines, and the mask is cleared (R171); those of a
granule whose page G does not have stay. The stores belong to thread t. A store that waits for a fill goes with its granule
(DEDUCED, log 80). -/
def State.writeBack (s : State) (k x t key : Nat) : State :=
  let c := s.ctx k x
  let e := key / 2048
  let g := key % 2048
  match tget c.mem.granules key with
  | none => s
  | some gr =>
    if gr.mask = 0 then s
    else match s.physPiece (s.spaceOf k x) (c.granVa e g) 256 .store with
      | (none, s1) => s1
      | (some p, s1) =>
        let part (h : Nat) : List (Nat × Byte) := (List.range 128).filterMap fun i =>
          if gr.mask.getLsbD (128 * h + i) then some (p.pa + 128 * h + i, cellAt (s.core k).stash (c.granBase e g + 128 * h + i)) else none
        let put (h : Nat) (s : State) : State :=
          if (part h).isEmpty then s else s.storeLine k x t p.key p.rm ((p.pa + 128 * h) / 128) (part h)
        (put 1 (put 0 s1)).modCtx k x fun c => { c with mem := { c.mem with granules := tset c.mem.granules key gr.cleaned } }

/-- Every dirty granule of a context (R171). -/
def State.writeBackAll (s : State) (k x t : Nat) : State :=
  ((s.ctx k x).mem.granules.map (·.1)).foldl (fun s key => s.writeBack k x t key) s

/-- A granule of a context holds bytes that G does not have yet. -/
def Ctx.dirty (c : Ctx) : Bool := c.mem.granules.any fun g => g.2.mask != 0

/-- Bytes that a write-back could not give to G: a page fault is recorded for thread t, or for the lowest live thread, and waits for
its answer; a page that refuses the store loses them and that thread traps (R166, R183; DEDUCED, log 80). -/
def State.writeBackFault (s : State) (k x t : Nat) : State :=
  let c := s.ctx k x
  let free (t : Nat) : Bool := c.live.contains t && (c.thread t).trap.isNone && (c.thread t).fault.isNone
  match c.mem.granules.find? (fun g => g.2.mask != 0), if free t then some t else c.live.find? free with
  | some (key, gr), some u =>
    let va := c.granVa (key / 2048) (key % 2048)
    let asked := c.threads.any fun e => e.2.fault.any fun f => f.addr == va
    match s.probe (s.spaceOf k x) va .store with
    | .ok _ _ => s
    | .fault lv => if asked then s else s.pageFaults k x [⟨u, va, lv, 0, true⟩]
    | .violation => (s.modCtx k x fun c => { c with mem := { c.mem with granules := tset c.mem.granules key gr.cleaned } }).takeLate k x
        [(u, ⟨.accessViolation, 0, va⟩)] c.pc none
  | _, _ => s

/-! ### Speculation windows (R224, R225) -/

/-- Loads that used expired lines open or extend the window, and send their renewals. -/
def State.speculate (s : State) (k x : Nat) (lines : List (Nat × Option (Nat × Word))) : State :=
  match nodup (lines.map (·.1)) with
  | [] => s
  | ls =>
    let c := s.ctx k x
    let sp := c.spec.getD ⟨0, [], [], [], []⟩
    let g := c.group.getD ⟨[], {}, 0, none, none⟩
    let new := ls.map fun l => (⟨l, sp.bundles, g, c.latches, ((s.l1Line k l).map (·.version)).getD 0, none,
      (lines.find? fun e => e.1 == l && e.2.isSome).bind (·.2)⟩ : SpecLoad)
    let s1 := s.modCtx k x fun c => { c with spec := some { sp with loads := sp.loads ++ new } }
    ls.foldl (fun s l => let (n, s) := s.draw1; s.schedule (s.after (1 + n % 140)) (.renewalAnswer k x l)) s1

end Sys2Proof.Machine
end

