-- ==== Sys2Proof/Machine/IntAlu.lean ====
section
/-! DEFINITION. The integer instructions: INT ops of layout D (R305-R307, R325, R328, R349, R373, R378), MOV (R358),
NOP (R359), IDX (R342), and ADDC, SUBB and MADC of layout X (R159, R311, R348, R386). -/

namespace Sys2Proof.Machine

/-- An INT op of layout D with two sources A and B of its own type (R303): f gives the result's pattern. -/
def intOp2 (opc : Nat) (o : Op) (lat interval : Nat) (rty : Nat) (f : Nat → Nat → Nat) (s : State) : State :=
  s.produce o (o.legalD opc && o.extOk true true false) [(o.selA, 1), (o.selB, 1)] [] rty lat interval
    fun l t => [f (s.scalar o l t o.selA o.ty) (s.scalar o l t o.selB o.ty)]

/-- An INT op of layout D with the one source A (R303). -/
def intOp1 (opc : Nat) (o : Op) (f : Nat → Nat) (s : State) : State :=
  s.produce o (o.legalD opc && o.extOk true false false) [(o.selA, 1)] [] o.ty 1 1
    fun l t => [f (s.scalar o l t o.selA o.ty)]

/-- The latency of DIV and REM by width (R131). -/
def divLat (o : Op) : Nat := if tyBits o.ty = 64 then 36 else 20

/-- DIV_ZERO at each thread of ACTIVE whose divisor is zero, when FPCTL.IDZ is 1 (R158). -/
def State.divTraps (s : State) (o : Op) : List (Nat × Trap) :=
  if fpIDZ s.me.regs.fpctl && o.extOk true true false && srcOk o o.selB 1 then
    ((s.active o).filter fun e => s.scalar o e.1 e.2 o.selB o.ty == 0).map fun e => (e.2, ⟨.divZero, 0, 0⟩)
  else []

/-- DIV and REM (R328, R349). -/
def divOp (opc : Nat) (f : Nat → Nat → Nat → Nat) (o : Op) (s : State) : State :=
  s.produce o (o.legalD opc && o.extOk true true false) [(o.selA, 1), (o.selB, 1)] (s.divTraps o) o.ty (divLat o) (divLat o)
    fun l t => [f o.ty (s.scalar o l t o.selA o.ty) (s.scalar o l t o.selB o.ty)]

/-- ADD and SUB of a ptr keep SEG and bit 60 (R74). -/
def addPat (ty a b : Nat) : Nat := if ty = 15 then ptrAdd a (signed 64 b) else a + b

def subPat (ty a b : Nat) : Nat := if ty = 15 then ptrAdd a (-(signed 64 b)) else toPat ty ((a : Int) - b)

/-- The extension word of ADDC, SUBB and MADC: the selectors of the second result and of MADC's fourth source; none
when it is missing, stands in for a source, or holds a nonzero zero field (R294). -/
def extPair (o : Op) (four : Bool) : Option (Nat × Nat) :=
  o.ext.bind fun w =>
    let d := (w.extractLsb' 0 10).toNat
    let h := (w.extractLsb' 10 10).toNat
    if w.extractLsb' 20 44 == 0#44 && (four || h == 0) && o.a != 0x1F3#10 && o.b != 0x1F3#10 && o.c != 0x1F3#10 &&
      h != 0x1F3 && o.var == 0 then some (d, h) else none

/-- An X op with two results that land in one cycle: f gives both from A, B, C and the fourth source (R311, R348):
the second destination finds the copy entries that the first leaves it (R57). -/
def wideOp (opc : Nat) (four : Bool) (cty rty2 lat : Nat) (o : Op) (f : Nat → Nat → Nat → Nat → Nat × Nat) (s : State) : State :=
  let ok := (Lpf.row opc).any (·.tyOk o.ty) && (extPair o four).isSome
  let (d2, h) := (extPair o four).getD (0, 0)
  let d := o.dest.toNat
  let srcs := [(o.selA, 1), (o.b.toNat, 1), (o.selC, 1)] ++ if four then [(h, 1)] else []
  let val (s : State) (l t : Nat) : Nat × Nat :=
    f (s.scalar o l t o.selA o.ty) (s.scalar o l t o.b.toNat o.ty) (s.scalar o l t o.selC cty)
      (if four then s.scalar o l t h o.ty else 0)
  runOp o.slot (s.srcTraps o (ok && destOk o.slot d 1 && destOk o.slot d2 1) srcs ++ s.copyTraps o d 1 ++
      (s.claimLast .reg d 1 ((s.active o).map (·.2))).copyTraps o d2 1)
    (fun s =>
      let s1 := s.land o .reg d 1 lat (s.perLane o fun l t => [regImage o.ty (val s l t).1]) 0 [] []
      s1.land o .reg d2 1 lat (s.perLane o fun l t => [regImage rty2 (val s l t).2]) 0 [] []) s

/-- ABS: |a| modulo 2^w (R305). -/
def execAbs (o : Op) (s : State) : Host.Outcome State Fault Refusal :=
  .next (intOp1 0x00A o (fun a => (ofPat o.ty a).natAbs) s)

/-- ADD (R305, R74). -/
def execAdd (o : Op) (s : State) : Host.Outcome State Fault Refusal :=
  .next (intOp2 0x000 o 1 1 o.ty (addPat o.ty) s)

/-- AND (R305). -/
def execAnd (o : Op) (s : State) : Host.Outcome State Fault Refusal :=
  .next (intOp2 0x00D o 1 1 o.ty (fun a b => a &&& b) s)

/-- BREV: bit i of r is bit w − 1 − i of a (R305). -/
def execBrev (o : Op) (s : State) : Host.Outcome State Fault Refusal :=
  .next (intOp1 0x019 o (revBits (tyBits o.ty)) s)

/-- CLZ: zero bits above the highest one bit (R305). -/
def execClz (o : Op) (s : State) : Host.Outcome State Fault Refusal :=
  .next (intOp1 0x017 o (leadZeros (tyBits o.ty)) s)

/-- CMP: the result is pr (R307). -/
def execCmp (o : Op) (s : State) : Host.Outcome State Fault Refusal :=
  .next (intOp2 0x01A o 1 1 14 (fun a b => if relInt o.var (ofPat o.ty a) (ofPat o.ty b) then 1 else 0) s)

/-- MAX (R349). -/
def execMax (o : Op) (s : State) : Host.Outcome State Fault Refusal :=
  .next (intOp2 0x00C o 1 1 o.ty (fun a b => if ofPat o.ty a < ofPat o.ty b then b else a) s)

/-- MIN (R349). -/
def execMin (o : Op) (s : State) : Host.Outcome State Fault Refusal :=
  .next (intOp2 0x00B o 1 1 o.ty (fun a b => if ofPat o.ty b < ofPat o.ty a then b else a) s)

/-- MUL: (a × b) modulo 2^w (R349). -/
def execMul (o : Op) (s : State) : Host.Outcome State Fault Refusal :=
  .next (intOp2 0x002 o 3 1 o.ty (fun a b => a * b) s)

/-- MULHI: the upper w bits of the exact product (R158, R349). -/
def execMulhi (o : Op) (s : State) : Host.Outcome State Fault Refusal :=
  .next (intOp2 0x003 o 3 1 o.ty (mulhiPat o.ty) s)

/-- NEG (R349). -/
def execNeg (o : Op) (s : State) : Host.Outcome State Fault Refusal :=
  .next (intOp1 0x009 o (fun a => toPat o.ty (-(a : Int))) s)

/-- NOT (R349). -/
def execNot (o : Op) (s : State) : Host.Outcome State Fault Refusal :=
  .next (intOp1 0x010 o (fun a => 2 ^ tyBits o.ty - 1 - a) s)

/-- OR (R349). -/
def execOr (o : Op) (s : State) : Host.Outcome State Fault Refusal :=
  .next (intOp2 0x00E o 1 1 o.ty (fun a b => a ||| b) s)

/-- POPC (R349). -/
def execPopc (o : Op) (s : State) : Host.Outcome State Fault Refusal :=
  .next (intOp1 0x018 o (popCount (tyBits o.ty)) s)

/-- ROT: left by b modulo w (R349). -/
def execRot (o : Op) (s : State) : Host.Outcome State Fault Refusal :=
  .next (intOp2 0x014 o 1 1 o.ty (rotPat (tyBits o.ty)) s)

/-- SHL: 0 when b ≥ w (R378). -/
def execShl (o : Op) (s : State) : Host.Outcome State Fault Refusal :=
  .next (intOp2 0x011 o 1 1 o.ty (fun a b => if tyBits o.ty ≤ b then 0 else a * 2 ^ b) s)

/-- SHR (R378). -/
def execShr (o : Op) (s : State) : Host.Outcome State Fault Refusal :=
  .next (intOp2 0x012 o 1 1 o.ty (fun a b => if tyBits o.ty ≤ b then 0 else a / 2 ^ b) s)

/-- SHRA: bit w − 1 fills the vacated bits (R378). -/
def execShra (o : Op) (s : State) : Host.Outcome State Fault Refusal :=
  .next (intOp2 0x013 o 1 1 o.ty (shraPat (tyBits o.ty)) s)

/-- SUB (R378, R74). -/
def execSub (o : Op) (s : State) : Host.Outcome State Fault Refusal :=
  .next (intOp2 0x001 o 1 1 o.ty (subPat o.ty) s)

/-- XOR (R378). -/
def execXor (o : Op) (s : State) : Host.Outcome State Fault Refusal :=
  .next (intOp2 0x00F o 1 1 o.ty (fun a b => a ^^^ b) s)

/-- DIV (R328, R158). -/
def execDiv (o : Op) (s : State) : Host.Outcome State Fault Refusal := .next (divOp 0x007 divPat o s)

/-- REM (R349, R158). -/
def execRem (o : Op) (s : State) : Host.Outcome State Fault Refusal := .next (divOp 0x008 remPat o s)

/-- BFI: the sources are a, b and the control value c (R306). -/
def execBfi (o : Op) (s : State) : Host.Outcome State Fault Refusal :=
  .next (s.produce o (o.legalD 0x015 && o.extOk true true true) [(o.selA, 1), (o.selB, 1), (o.selC, 1)] [] o.ty 1 1
    fun l t => [bfiPat (tyBits o.ty) (s.scalar o l t o.selA o.ty) (s.scalar o l t o.selB o.ty) (s.scalar o l t o.selC o.ty)])

/-- BFX: the control value is the second operand (R306). -/
def execBfx (o : Op) (s : State) : Host.Outcome State Fault Refusal :=
  .next (intOp2 0x016 o 1 1 o.ty (bfxPat o.ty) s)

/-- CONST: source B (R325). -/
def execConst (o : Op) (s : State) : Host.Outcome State Fault Refusal :=
  .next (s.produce o (o.legalD 0x01C && o.extOk false true false) [(o.selB, 1)] [] o.ty 1 1
    fun l t => [s.scalar o l t o.selB o.ty])

/-- The long immediate of SEL may stand in A, B or C; bit 0 of A chooses B or C, and a tile is chosen whole (R373). -/
def execSel (o : Op) (s : State) : Host.Outcome State Fault Refusal :=
  .next (s.produce o (o.legalD 0x01B && o.extOk true true true)
    [(o.selA, 1), (o.selB, o.regsOf o.ty), (o.selC, o.regsOf o.ty)] [] o.ty 1 1
    fun l t => if (s.word o l t o.selA).getLsbD 0 then s.operand o l t o.selB o.ty else s.operand o l t o.selC o.ty)

/-- MOV: the data form copies the 64 bits of A or a tile's run; the predicate form writes bit 0 of A to a q register
(R295, R358). -/
def execMov (o : Op) (s : State) : Host.Outcome State Fault Refusal :=
  let d := o.dest.toNat
  let n := o.regsOf o.ty
  if o.var = 0 then
    .next (runOp o.slot (s.srcTraps o (Lpf.tyA.contains (elemTy o.ty) && destOk o.slot d n && o.extOk true false false)
        [(o.selA, n)] ++ s.copyTraps o d n)
      (fun s => s.land o .reg d n 1 (s.perLane o fun l t => s.run o l t o.selA n) 0 [] []) s)
  else
    .next (runOp o.slot (s.srcTraps o (o.var == 1 && Lpf.tyA.contains (elemTy o.ty) && d < 8 && d != 0 && o.extOk true false false)
        [(o.selA, 1)])
      (fun s => s.land o .pred d 1 1 (s.perLane o fun l t => [s.word o l t o.selA]) 0 [] []) s)

/-- NOP does nothing and never traps (R359). -/
def execNop (_ : Op) (s : State) : Host.Outcome State Fault Refusal := .next s

/-- The value of IDX for a thread (R54). -/
def State.idxValue (s : State) (sel t : Nat) : Nat :=
  let c := s.me
  let coh := s.cohortOf c
  let csize := ((coh.map fun h => h.rows * h.cols).getD 1)
  let l := s.launchOf c
  let nwg := (l.map fun l => l.ncoh * l.rows * l.cols).getD 0
  match sel with
  | 0 => t
  | 1 => c.size
  | 2 => (c.wg.map (·.logical)).getD 0
  | 3 => ((c.wg.map (·.index)).getD 0) / Nat.max 1 csize
  | 4 => (c.wg.map (·.index)).getD 0
  | 5 => nwg
  | 8 | 9 | 10 | 11 => c.item t (sel - 8)
  | 12 => if c.isFounder then nwg else c.itemCount t 0 nwg
  | 13 | 14 | 15 => c.itemCount t (sel - 12) nwg
  | _ => 0

/-- IDX (R54, R342): sel in bits 23:20; 6 and 7 raise ILLEGAL_OP. -/
def execIdx (o : Op) (s : State) : Host.Outcome State Fault Refusal :=
  let sel := (o.j.extractLsb' 20 4).toNat
  let ok := o.ty == 7 && o.var == 0 && o.ext.isNone && o.j.extractLsb' 24 6 == 0#6 && o.j.extractLsb' 0 20 == 0#20 &&
    sel != 6 && sel != 7
  .next (s.produce o ok [] [] 7 1 1 fun _ t => [s.idxValue sel t])

/-- ADDC: a + b + cin, and bit w of the exact unsigned sum (R159, R311). -/
def execAddc (o : Op) (s : State) : Host.Outcome State Fault Refusal :=
  .next (wideOp 0x004 false 14 14 1 o (fun a b c _ => (a + b + c, (a + b + c) / 2 ^ tyBits o.ty)) s)

/-- SUBB: a − b − bin, and the borrow a < b + bin (R159, R386). -/
def execSubb (o : Op) (s : State) : Host.Outcome State Fault Refusal :=
  .next (wideOp 0x005 false 14 14 1 o (fun a b c _ => (toPat o.ty ((a : Int) - b - c), if a < b + c then 1 else 0)) s)

/-- MADC: (lo, hi) of a × b + c + h (R159, R348). -/
def execMadc (o : Op) (s : State) : Host.Outcome State Fault Refusal :=
  .next (wideOp 0x006 true o.ty o.ty 4 o (fun a b c h => (a * b + c + h, (a * b + c + h) / 2 ^ tyBits o.ty)) s)

end Sys2Proof.Machine
end

