-- ==== Sys2Proof/Machine/Float.lean ====
section
/-! DEFINITION. The float instructions (R332-R335, R340), conversions (R341), L6 codes (R143, R144, R343, R347), and
the combining of values across lanes (R156, R377, R394, R395). -/

namespace Sys2Proof.Machine

/-- The latency of the adds and multiplies by type, and their issue interval on a class (R131). -/
def faddLat (ty : Nat) : Nat := if elemTy ty = 12 then 8 else 4

def vecInterval (s : State) (ty : Nat) : Nat :=
  (if isWide s.myCore then 1 else 2) * (if elemTy ty = 12 then 2 else 1)

/-- A float op whose lanes give elements with exceptions (R148). The flags are the union over the lanes of ACTIVE; each
thread's own set goes to its record if the op traps at landing. -/
def floatOp (ok : Bool) (o : Op) (srcs : List (Nat × Nat)) (rty lat interval : Nat) (f : State → Nat → Nat → List (Nat × Nat))
    (s : State) : State :=
  let n := o.regsOf rty
  let d := o.dest.toNat
  runOp o.slot (s.srcTraps o (ok && destOk o.slot d n) srcs ++ s.copyTraps o d n)
    (fun s =>
      let res := (s.active o).map fun e => (e.2, f s e.1 e.2)
      let exc := res.map fun r => (r.1, joinFlags (r.2.map (·.2)))
      let vals := res.map fun r => (r.1, o.resultWords rty (r.2.map (·.1)))
      (s.land o .reg d n lat vals (joinFlags (exc.map (·.2))) exc []).useUnit o interval) s

def State.rm (s : State) : Nat := fpRM s.me.regs.fpctl

/-- A layout D float op of two sources (R332). -/
def floatOp2 (opc lat interval : Nat) (f : Fmt → Nat → Nat → Nat → Nat × Nat) (o : Op) (s : State) : State :=
  let n := o.regsOf o.ty
  floatOp (o.legalD opc && o.extOk true true false) o [(o.selA, n), (o.selB, n)] o.ty lat interval
    (fun s l t => ((s.operand o l t o.selA o.ty).zip (s.operand o l t o.selB o.ty)).map fun p =>
      f (fmtOf (elemTy o.ty)) s.rm p.1 p.2) s

/-- FADD (R332, R333). -/
def execFadd (o : Op) (s : State) : Host.Outcome State Fault Refusal := .next (floatOp2 0x040 (faddLat o.ty) (vecInterval s o.ty) Fmt.add o s)

/-- FSUB (R332, R333). -/
def execFsub (o : Op) (s : State) : Host.Outcome State Fault Refusal := .next (floatOp2 0x041 (faddLat o.ty) (vecInterval s o.ty) Fmt.sub o s)

/-- FMUL (R332, R333). -/
def execFmul (o : Op) (s : State) : Host.Outcome State Fault Refusal := .next (floatOp2 0x042 (faddLat o.ty) (vecInterval s o.ty) Fmt.mul o s)

/-- FFMA: one rounding (R332, R147). -/
def execFfma (o : Op) (s : State) : Host.Outcome State Fault Refusal :=
  let n := o.regsOf o.ty
  .next (floatOp (o.legalD 0x043 && o.extOk true true true) o [(o.selA, n), (o.selB, n), (o.selC, n)] o.ty (faddLat o.ty)
    (vecInterval s o.ty)
    (fun s l t => ((s.operand o l t o.selA o.ty).zip ((s.operand o l t o.selB o.ty).zip (s.operand o l t o.selC o.ty))).map
      fun p => (fmtOf (elemTy o.ty)).fma s.rm p.1 p.2.1 p.2.2) s)

/-- FDIV: 24 or 40 cycles; the unit takes the next op after 4, 8 or 16 (R131). -/
def execFdiv (o : Op) (s : State) : Host.Outcome State Fault Refusal :=
  let n := o.regsOf o.ty
  let wide := elemTy o.ty = 12
  .next (floatOp (o.legalD 0x044 && o.extOk true true false) o [(o.selA, n), (o.selB, n)] o.ty (if wide then 40 else 24)
    ((if isWide s.myCore then 4 else 8) * (if wide then 2 else 1))
    (fun s l t => ((s.operand o l t o.selA o.ty).zip (s.operand o l t o.selB o.ty)).map fun p =>
      (fmtOf (elemTy o.ty)).div s.rm p.1 p.2) s)

/-- FMIN (R332, R149) (DEDUCED, log 62). -/
def execFmin (o : Op) (s : State) : Host.Outcome State Fault Refusal :=
  .next (floatOp2 0x045 3 (if isWide s.myCore then 1 else 2) (fun f _ a b => f.minmax false a b) o s)

/-- FMAX (R332, R149). -/
def execFmax (o : Op) (s : State) : Host.Outcome State Fault Refusal :=
  .next (floatOp2 0x046 3 (if isWide s.myCore then 1 else 2) (fun f _ a b => f.minmax true a b) o s)

/-- FCMP: the result is pr (R334). -/
def execFcmp (o : Op) (s : State) : Host.Outcome State Fault Refusal :=
  .next (floatOp (o.legalD 0x047 && o.extOk true true false) o [(o.selA, 1), (o.selB, 1)] 14 3 (if isWide s.myCore then 1 else 2)
    (fun s l t =>
      let r := (fmtOf o.ty).cmp o.var (s.scalar o l t o.selA o.ty) (s.scalar o l t o.selB o.ty)
      [(if r.1 then 1 else 0, r.2)]) s)

/-- FRND: VAR 0 takes FPCTL.RM, the others name a mode (R290, R340). -/
def execFrnd (o : Op) (s : State) : Host.Outcome State Fault Refusal :=
  .next (floatOp (o.legalD 0x048 && o.extOk true false false) o [(o.selA, o.regsOf o.ty)] o.ty 3 (if isWide s.myCore then 1 else 2)
    (fun s l t => (s.operand o l t o.selA o.ty).map fun v =>
      (fmtOf (elemTy o.ty)).rnd (if o.var = 0 then s.rm else o.var - 1) v) s)

/-- The source type of layout K: a tile of it when the result is a tile (R290, R295). -/
def kSrcTy (o : Op) : Nat := if isTileTy o.ty then o.c.toNat + 16 else o.c.toNat

/-- A conversion of layout K: elements of the source type to elements of the result type. -/
def convOp (opc : Nat) (f : State → Nat → Nat × Nat) (o : Op) (s : State) : State :=
  let st := kSrcTy o
  floatOp (o.legalK opc) o [(o.selA, o.regsOf st)] o.ty 3 (if isWide s.myCore then 1 else 2)
    (fun s l t => (s.operand o l t o.selA st).map (f s)) s

/-- FCVT (R335). -/
def execFcvt (o : Op) (s : State) : Host.Outcome State Fault Refusal :=
  .next (convOp 0x080 (fun s v => fcvtPat (fmtOf o.c.toNat) (fmtOf (elemTy o.ty)) s.rm v) o s)

/-- One element of ICVT (R150, R341). -/
def icvtPat (src dst rm : Nat) (sat : Bool) (v : Nat) : Nat × Nat :=
  if isInt src then
    if isInt dst then (toPat dst (if sat then satInt dst (ofPat src v) else ofPat src v), 0)
    else (fmtOf dst).ofInt rm (ofPat src v)
  else fToInt (fmtOf src) dst rm v

/-- ICVT (R341). -/
def execIcvt (o : Op) (s : State) : Host.Outcome State Fault Refusal :=
  .next (convOp 0x081 (fun s v => icvtPat o.c.toNat (elemTy o.ty) s.rm (o.var % 2 == 1) v) o s)

/-! ### L6 (R143, R144) -/

/-- The table mantissas T (R143). -/
def l6T (f : Nat) : Nat := ([4096, 4871, 5793, 6889][f]?).getD 0

/-- The exact value of an L6 code: sign, mantissa, exponent; none for NaN. -/
def l6Val (c : Nat) : Option (Bool × Nat × Int) :=
  let m := c % 32
  if c % 64 = 0x20 then none
  else if m = 0 then some (false, 0, 0)
  else some (bit c 5, l6T (m % 4), (m / 4 : Nat) - 5 - 12)

/-- L6 to a float format (R143): rounded to nearest even, no flag. -/
def l6ToFloat (f : Fmt) (c : Nat) : Nat :=
  match l6Val c with
  | none => f.nan
  | some (s, m, e) => (f.roundZ 0 s m e).1

/-- A float to L6 (R144). F = M × 4096 is compared exactly: |x| = m × 2^e with 2^k ≤ |x| < 2^(k+1). -/
def floatToL6 (f : Fmt) (v : Nat) : Nat :=
  match f.val v with
  | .nan _ => 0x20
  | .inf s => (if s then 32 else 0) + 31
  | .fin s m e =>
    if m = 0 then 0
    else
      let lg := Nat.log2 m
      let k : Int := e + (lg : Nat)
      if k < -6 then 0
      else
        let big := m * 4096                     -- F × 2^lg
        let scale := 2 ^ lg
        let fr := if big ≤ 4467 * scale then 0 else if big < 5312 * scale then 1 else if big ≤ 6317 * scale then 2
          else if big < 7512 * scale then 3 else 4
        let q : Int := 4 * (k + 5) + (fr : Nat)
        (if s then 32 else 0) + (if q < 1 then 1 else if 31 < q then 31 else q.toNat)

/-- LCVT never raises a flag (R343). -/
def execLcvt (o : Op) (s : State) : Host.Outcome State Fault Refusal :=
  .next (convOp 0x082 (fun _ v =>
    (if elemTy o.ty = 13 then floatToL6 (fmtOf o.c.toNat) v else l6ToFloat (fmtOf (elemTy o.ty)) v, 0)) o s)

/-- LPACK: k codes by TY, from a tile of the bundle's shape (R347). -/
def execLpack (o : Op) (s : State) : Host.Outcome State Fault Refusal :=
  let k := if o.ty = 7 then 4 else 8
  .next (s.produce o (o.legalD 0x083 && o.extOk true false false) [(o.selA, o.regsOf 29)] [] o.ty 3
    (if isWide s.myCore then 1 else 2)
    fun l t => [((s.operand o l t o.selA 29).take k).foldr (fun c acc => c % 64 + 64 * acc) 0])

/-- LUNPK: k codes by VAR bit 40 (R347). -/
def execLunpk (o : Op) (s : State) : Host.Outcome State Fault Refusal :=
  let k := if o.var = 1 then 8 else 4
  .next (s.produce o (o.ty == 29 && o.var < 2 && o.extOk true false false) [(o.selA, 1)] [] o.ty 3
    (if isWide s.myCore then 1 else 2)
    fun l t => (List.range o.elems).map fun e => if e < k then (s.word o l t o.selA).toNat / 64 ^ e % 64 else 0)

/-! ### Lane operations -/

/-- SHFL: every lane reads the value of a lane of ACTIVE, or its own (R377). -/
def execShfl (o : Op) (s : State) : Host.Outcome State Fault Refusal :=
  let src (l b : Nat) : Option Nat :=
    match o.var with
    | 0 => some (b % 32)
    | 1 => if b ≤ l then some (l - b) else none
    | 2 => some (l + b)
    | _ => some (l ^^^ (b % 32))
  .next (s.produce o (o.legalD 0x04A && o.extOk true true false) [(o.selA, 1), (o.selB, 1)] [] o.ty 6 (if isWide s.myCore then 1 else 2)
    fun l t =>
      let own := s.scalar o l t o.selA o.ty
      match (src l (s.scalar o l t o.selB 7)).bind fun j => (s.active o).find? (·.1 == j) with
      | some (j, u) => [s.scalar o j u o.selA o.ty]
      | none => [own])

/-- VOTE (R394, R395). -/
def execVote (o : Op) (s : State) : Host.Outcome State Fault Refusal :=
  .next (s.produce o (o.legalD 0x04B && o.extOk true false false) [(o.selA, 1)] [] o.ty 4 1
    fun _ _ =>
      let q := (s.active o).map fun e => (e.1, (s.word o e.1 e.2 o.selA).getLsbD 0)
      match o.var with
      | 0 => [if q.all (·.2) then 1 else 0]
      | 1 => [if q.any (·.2) then 1 else 0]
      | _ => [sumNat (q.map fun e => if e.2 then 2 ^ e.1 else 0)])

/-- One combining operation of VRED and VSCAN, with its exceptions (R394). -/
def combine (ty op rm a b : Nat) : Nat × Nat :=
  if isFloat ty then
    match op with
    | 0 => (fmtOf ty).add rm a b
    | 1 => (fmtOf ty).minmax false a b
    | _ => (fmtOf ty).minmax true a b
  else (match op with
    | 0 => (a + b) % 2 ^ tyBits ty
    | 1 => if ofPat ty b < ofPat ty a then b else a
    | 2 => if ofPat ty a < ofPat ty b then b else a
    | 3 => a &&& b
    | 4 => a ||| b
    | _ => a ^^^ b, 0)

/-- The canonical NaN takes the place of any other NaN result (R149, R395). -/
def canon (ty v : Nat) : Nat := if isFloat ty && ((fmtOf ty).val v).isNan then (fmtOf ty).nan else v

/-- A left fold from the first value (R156). -/
def foldLanes (ty op rm : Nat) : List Nat → Option (Nat × Nat)
  | [] => none
  | v :: r => some (r.foldl (fun acc w => let c := combine ty op rm acc.1 w; (c.1, acc.2 ||| c.2)) (v, 0))

/-- One level of the pairwise tree over lane pairs (2l, 2l + 1): a node with one child passes it on (R156). -/
def treeLevel (ty op rm : Nat) : List (Option (Nat × Nat)) → List (Option (Nat × Nat))
  | some a :: some b :: r => let c := combine ty op rm a.1 b.1
    some (c.1, a.2 ||| b.2 ||| c.2) :: treeLevel ty op rm r
  | some a :: none :: r => some a :: treeLevel ty op rm r
  | none :: b :: r => b :: treeLevel ty op rm r
  | l => l

/-- The tree over 32 lanes. -/
def treeLanes (ty op rm : Nat) (l : List (Option Nat)) : Option (Nat × Nat) :=
  let v := l.map fun o => o.map fun x => (x, 0)
  ((List.range 5).foldl (fun v _ => treeLevel ty op rm v) v).headD none

/-- The NBV of the executing context's partition (R154). -/
def State.nbv (s : State) : Nat := ((s.partOfCore s.myCore).map (·.2.nbv)).getD 1

def isSnanPat (ty v : Nat) : Bool := isFloat ty && ((fmtOf ty).val v).isSnan

/-- A value from the lanes of ACTIVE for each lane, with exceptions joined over the instruction (R395). -/
def laneOp (opc : Nat) (o : Op) (f : List (Nat × Nat) → Nat → Nat × Nat) (nv : List (Nat × Nat) → Bool) (s : State) : State :=
  let n := 1
  let d := o.dest.toNat
  let lat := if isWide s.myCore then 10 else 12
  runOp o.slot (s.srcTraps o (o.legalD opc && o.extOk true false false && destOk o.slot d n) [(o.selA, 1)] ++ s.copyTraps o d n)
    (fun s =>
      let vs := (s.active o).map fun e => (e.1, s.scalar o e.1 e.2 o.selA o.ty)
      let res := (s.active o).map fun e => (e.2, f vs e.1)
      let fl := joinFlags (res.map (·.2.2)) ||| (if nv vs then flNV else 0)
      let exc := res.map fun r => (r.1, r.2.2 ||| (if nv vs then flNV else 0))
      (s.land o .reg d n lat (res.map fun r => (r.1, [regImage o.ty (canon o.ty r.2.1)])) fl exc []).useUnit o
        (if isWide s.myCore then 1 else 2)) s

/-- VRED (R156, R394, R395). -/
def execVred (o : Op) (s : State) : Host.Outcome State Fault Refusal :=
  let red (vs : List (Nat × Nat)) : Nat × Nat :=
    if isFloat o.ty && o.var = 0 && s.nbv = 2 then
      (treeLanes o.ty o.var s.rm ((List.range 32).map fun l => (vs.find? (·.1 == l)).map (·.2))).getD (0, 0)
    else (foldLanes o.ty o.var s.rm (vs.map (·.2))).getD (0, 0)
  .next (laneOp 0x04C o (fun vs _ => red vs) (fun vs => vs.any fun v => isSnanPat o.ty v.2) s)

/-- The identity of a VSCAN operation (R395). -/
def scanId (ty op : Nat) : Nat :=
  if isFloat ty then (match op with
    | 0 => 0
    | 1 => (fmtOf ty).inf false
    | _ => (fmtOf ty).inf true)
  else match op with
    | 1 => if isSigned ty then 2 ^ (tyBits ty - 1) - 1 else 2 ^ tyBits ty - 1
    | 2 => if isSigned ty then 2 ^ (tyBits ty - 1) else 0
    | 3 => 2 ^ tyBits ty - 1
    | _ => 0

/-- VSCAN, with INC or without (R395). -/
def execVscan (inc : Bool) (o : Op) (s : State) : Host.Outcome State Fault Refusal :=
  let pre (vs : List (Nat × Nat)) (l : Nat) : List Nat :=
    (vs.filter fun v => if inc then v.1 ≤ l else v.1 < l).map (·.2)
  .next (laneOp 0x04D o
    (fun vs l => (foldLanes o.ty o.var s.rm (pre vs l)).getD (scanId o.ty o.var, 0))
    (fun vs => vs.any fun v => isSnanPat o.ty v.2 && (inc || vs.any fun u => v.1 < u.1)) s)

end Sys2Proof.Machine
end

