-- ==== Sys2Proof/Machine/Special.lean ====
section
/-! DEFINITION. The special-function unit (R160-R162, R375): the accurate grade as correctly rounded values, from bounds
whose precision grows until both ends round alike, and the fast grade as its table interpolation. -/

namespace Sys2Proof.Machine

/-! ### Fixed point: a natural n stands for n / 2^P -/

/-- The integer square root, bit by bit. -/
def isqrtGo (n : Nat) : Nat → Nat → Nat
  | 0, r => r
  | k + 1, r => isqrtGo n k (if (r + 2 ^ k) * (r + 2 ^ k) ≤ n then r + 2 ^ k else r)

def isqrt (n : Nat) : Nat := isqrtGo n (Nat.log2 n / 2 + 1) 0

/-- Σ of terms, each from the last: t_{k+1} = step k t_k. -/
def series (step : Nat → Int → Int) : Nat → Nat → Int → Int
  | 0, _, _ => 0
  | f + 1, k, t => t + series step f (k + 1) (step k t)

/-- e^(t / 2^P) for |t| < 2^P. -/
def expFix (P : Nat) (t : Int) : Int := series (fun k x => x * t / 2 ^ P / ((k : Int) + 1)) (P + 8) 0 (2 ^ P)

/-- atanh(1/n). -/
def atanhInv (P n : Nat) : Int :=
  (List.range (P + 8)).foldl (fun (acc : Int) k => acc + (2 ^ (P + 8) / (n ^ (2 * k + 1) * (2 * k + 1)) : Nat)) 0 / 2 ^ 8

/-- ln 2 = 2 atanh(1/3). -/
def ln2Fix (P : Nat) : Int := 2 * atanhInv P 3

/-- arctan(1/n). -/
def atanInv (P n : Nat) : Int :=
  (List.range (P + 8)).foldl (fun (acc : Int) k =>
    let term : Int := (2 ^ (P + 8) / (n ^ (2 * k + 1) * (2 * k + 1)) : Nat)
    if k % 2 = 0 then acc + term else acc - term) 0 / 2 ^ 8

/-- π by Machin's formula. -/
def piFix (P : Nat) : Int := 16 * atanInv P 5 - 4 * atanInv P 239

/-- atanh(z / 2^P) for |z| ≤ 2^P / 3. -/
def atanhFix (P : Nat) (z : Int) : Int :=
  let z2 := z * z / 2 ^ P
  (List.range (P + 8)).foldl (fun (acc : Int × Int) (k : Nat) =>
    (acc.1 + acc.2 / (2 * (k : Int) + 1), acc.2 * z2 / 2 ^ P)) (0, z) |>.1

/-- log2 of n / 2^P for 1 ≤ n / 2^P < 2. -/
def log2Fix (P : Nat) (n : Int) : Int := 2 * atanhFix P ((n - 2 ^ P) * 2 ^ P / (n + 2 ^ P)) * 2 ^ P / ln2Fix P

/-- sin and cos of t / 2^P for 0 ≤ t < 2 × 2^P. -/
def sinFix (P : Nat) (t : Int) : Int :=
  series (fun k x => -(x * t / 2 ^ P * t / 2 ^ P) / ((2 * (k : Int) + 2) * (2 * (k : Int) + 3))) (P + 8) 0 t

def cosFix (P : Nat) (t : Int) : Int :=
  series (fun k x => -(x * t / 2 ^ P * t / 2 ^ P) / ((2 * (k : Int) + 1) * (2 * (k : Int) + 2))) (P + 8) 0 (2 ^ P)

/-- 2^(t / 2^P) for 0 ≤ t < 2^P. -/
def exp2Fix (P : Nat) (t : Int) : Int := expFix P (t * ln2Fix P / 2 ^ P)

/-- e^(-t / 2^P) for t ≥ 0, as 2^f × 2^-n: the factor 2^f and n. -/
def expNeg (P : Nat) (t : Int) : Int × Nat :=
  let y := t * 2 ^ P / ln2Fix P                -- t log2 e
  let n := (y / 2 ^ P + 1).toNat
  (exp2Fix P (n * 2 ^ P - y), n)

/-- 2 / √π. -/
def twoOverSqrtPi (P : Nat) : Int := 2 * 2 ^ (2 * P) / (isqrt ((piFix P).toNat * 2 ^ P) : Int)

/-- erf(t) / t for 0 ≤ t / 2^P < 4: 2/√π × e^(-t²) × Σ (2 t²)^k / (2k + 1)!!. -/
def erfOver (P : Nat) (t : Int) : Int :=
  let t2 := t * t / 2 ^ P
  let sum := series (fun k x => x * (2 * t2) / 2 ^ P / (2 * (k : Int) + 3)) (2 * P + 200) 0 (2 ^ P)
  let (e, n) := expNeg P t2
  twoOverSqrtPi P * sum / 2 ^ P * e / 2 ^ P / 2 ^ n

/-! ### The accurate grade (R160) -/

/-- The functions of class S (R290). -/
inductive SfnKind where
  | rcp | rsq | sqrt | exp2 | log2 | sin | cos | tanh | erf | sigm
deriving DecidableEq, Repr

def sfnKind (n : Nat) : Option SfnKind :=
  [SfnKind.rcp, .rsq, .sqrt, .exp2, .log2, .sin, .cos, .tanh, .erf, .sigm][n]?

/-- A value from bounds: (sign, lower, upper, exponent), at a working precision. -/
structure Bounds where
  s : Bool
  lo : Int
  hi : Int
  e : Int

/-- The error of one evaluation at precision P, in units of 2^-P. -/
def fixErr : Int := 2 ^ 16

def Bounds.of (s : Bool) (v : Int) (e : Int) : Bounds := ⟨s, v - fixErr, v + fixErr, e⟩

/-- The common rounding of both bounds, if there is one. -/
def Bounds.rounded (b : Bounds) : Option Nat :=
  if b.lo ≤ 0 then none
  else
    let l := (f32.round 0 b.s b.lo.toNat b.e false).1
    let h := (f32.round 0 b.s b.hi.toNat b.e false).1
    if l = h then some l else none

/-- Bounds of a transcendental function of (-1)^s × m × 2^e at precision P. The special values and the ranges in which
the result is known otherwise are handled before. -/
def sfnBounds (k : SfnKind) (P : Nat) (s : Bool) (m : Nat) (e : Int) : Bounds :=
  let scaled (W : Nat) : Int := (if 0 ≤ e + W then (m * 2 ^ (e + W).toNat : Nat) else (m / 2 ^ (-(e + W)).toNat : Nat) : Nat)
  match k with
  | .exp2 =>
    let x : Int := if s then -(scaled P) else scaled P
    let n := x / 2 ^ P
    .of false (exp2Fix P (x - n * 2 ^ P)) (n - P)
  | .log2 =>
    let lg := Nat.log2 m
    let kx : Int := e + (lg : Nat)
    let v := log2Fix P ((m : Int) * 2 ^ P / 2 ^ lg)
    let t := kx * 2 ^ P + v
    .of (t < 0) t.natAbs (-(P : Int))
  | .sin | .cos =>
    let W := P + 170
    let half := piFix W / 2
    let q := scaled W / half
    let r := (scaled W - q * half) / 2 ^ 170
    let quad := (q + (if k = .cos then 1 else 0)) % 4
    let v := if quad % 2 = 0 then sinFix P r else cosFix P r
    .of ((2 ≤ quad) != (s && k != .cos)) v (-(P : Int))
  | .tanh =>
    let (u, n) := expNeg P (2 * scaled P)
    let ex := u / 2 ^ n
    .of s ((2 ^ P - ex) * 2 ^ P / (2 ^ P + ex)) (-(P : Int))
  | .erf =>
    let q := erfOver P (scaled P)
    ⟨s, (q - fixErr) * m, (q + fixErr) * m, e - P⟩
  | .sigm =>
    let (u, n) := expNeg P (scaled P)
    let ex := u / 2 ^ n
    if s then .of false (u * 2 ^ P / (2 ^ P + ex)) (-(P : Int) - n)
    else .of false (2 ^ (2 * P) / (2 ^ P + ex)) (-(P : Int))
  | _ => .of false 0 0

/-- Precision grows until the bounds round alike. -/
def sfnZiv (k : SfnKind) (s : Bool) (m : Nat) (e : Int) : Nat → Nat → Nat
  | 0, _ => 0
  | f + 1, P => match (sfnBounds k P s m e).rounded with
    | some v => v
    | none => sfnZiv k s m e f (2 * P)

/-- The exact function value rounded to nearest even, for a finite nonzero argument that R161 does not list. -/
def sfnAccurate (k : SfnKind) (s : Bool) (m : Nat) (e : Int) : Nat :=
  let lg : Int := e + (Nat.log2 m : Nat)            -- 2^lg ≤ |x| < 2^(lg+1)
  match k with
  | .rcp => (f32.div 0 (f32.sign s + 127 * 2 ^ 23) (f32.roundZ 0 false m e).1).1
  | .rsq =>
    let j : Int := if e % 2 = 0 then e else e - 1
    let n := if e % 2 = 0 then m else 2 * m
    let v := isqrt (2 ^ 160 / n)
    (f32.round 0 false v (-(j / 2) - 80) (v * v * n != 2 ^ 160)).1
  | .sqrt =>
    let n := (if e % 2 = 0 then m else 2 * m) * 2 ^ 80
    let j : Int := if e % 2 = 0 then e else e - 1
    let v := isqrt n
    (f32.round 0 false v (j / 2 - 40) (v * v != n)).1
  | .exp2 =>
    if s && 8 ≤ lg then 0
    else if 0 ≤ e ∨ m % 2 ^ (-e).toNat = 0 then
      let n : Int := if 0 ≤ e then (m * 2 ^ e.toNat : Nat) else (m / 2 ^ (-e).toNat : Nat)
      (f32.round 0 false 1 (if s then -n else n) false).1
    else sfnZiv k s m e 5 100
  | .sin => if lg < -13 then (f32.roundZ 0 s m e).1 else sfnZiv k s m e 5 100
  | .cos => if lg < -13 then 127 * 2 ^ 23 else sfnZiv k s m e 5 100
  | .tanh =>
    if lg < -13 then (f32.roundZ 0 s m e).1
    else if 4 ≤ lg then f32.sign s + 127 * 2 ^ 23
    else sfnZiv k s m e 5 100
  | .erf => if 2 ≤ lg then f32.sign s + 127 * 2 ^ 23 else sfnZiv k s m e 5 100
  | .sigm => if 8 ≤ lg then (if s then 0 else 127 * 2 ^ 23) else sfnZiv k s m e 5 100
  | .log2 =>
    if m = 2 ^ Nat.log2 m then (f32.ofInt 0 lg).1 else sfnZiv k s m e 5 100

/-! ### Special values (R161) -/

/-- The special values of both grades, with their flags; none for the other arguments. -/
def sfnSpecial (k : SfnKind) (v : Nat) : Option (Nat × Nat) :=
  let one := 127 * 2 ^ 23
  match f32.val v with
  | .nan b => some (f32.nan, if b then flNV else 0)
  | .inf s => some (match k with
    | .rcp => (f32.sign s, 0)
    | .rsq => if s then (f32.nan, flNV) else (0, 0)
    | .sqrt => if s then (f32.nan, flNV) else (f32.inf false, 0)
    | .exp2 => if s then (0, 0) else (f32.inf false, 0)
    | .log2 => if s then (f32.nan, flNV) else (f32.inf false, 0)
    | .sin | .cos => (f32.nan, flNV)
    | .tanh | .erf => (f32.sign s + one, 0)
    | .sigm => (if s then 0 else one, 0))
  | .fin s m e =>
    if m = 0 then match k with
      | .rcp | .rsq => some (f32.inf s, flDZ)
      | .sqrt | .sin | .tanh | .erf => some (f32.sign s, 0)
      | .log2 => some (f32.inf true, flDZ)
      | .sigm => some (126 * 2 ^ 23, 0)
      | .exp2 | .cos => some (one, 0)
    else match k with
      | .rsq | .sqrt => if s then some (f32.nan, flNV) else none
      | .log2 => if s then some (f32.nan, flNV) else if v = one then some (0, 0) else none
      | .exp2 => if !s && 7 ≤ e + (Nat.log2 m : Nat) then some (f32.inf false, flOF + flNX) else none
      | _ => none

/-! ### The fast grade (R162) -/

/-- A dyadic number m × 2^e. -/
structure Dy where
  m : Int
  e : Int

def Dy.add (a b : Dy) : Dy :=
  let e := if a.e ≤ b.e then a.e else b.e
  ⟨a.m * 2 ^ (a.e - e).toNat + b.m * 2 ^ (b.e - e).toNat, e⟩

def Dy.mul (a b : Dy) : Dy := ⟨a.m * b.m, a.e + b.e⟩

def Dy.neg (a : Dy) : Dy := ⟨-a.m, a.e⟩

/-- The floor of a dyadic number. -/
def Dy.floor (a : Dy) : Int := if 0 ≤ a.e then a.m * 2 ^ a.e.toNat else a.m / 2 ^ (-a.e).toNat

/-- Rounds n / 2^P to the nearest multiple of 2^q, ties to even. -/
def coeffRound (P : Nat) (n : Int) (q : Int) : Dy :=
  let (r, _) := roundTo 0 false n.natAbs (-(P : Int)) false q
  ⟨if n < 0 then -(r : Int) else r, q⟩

/-- The working precision of the coefficients. -/
def coeffP : Nat := 160

/-- The exact table function, its first derivative and its second, at v = n / 512 (a midpoint, since h = 1/256 in every
table), at the working precision. -/
def tableFn (k : SfnKind) (n : Nat) : Int × Int × Int :=
  let P := coeffP
  let one : Int := 2 ^ P
  let v : Int := (n : Int) * 2 ^ P / 512
  let inv (a : Int) : Int := one * one / a
  let mul (a b : Int) : Int := a * b / one
  match k with
  | .rcp =>
    let i := inv v
    (i, -(mul i i), 2 * mul i (mul i i))
  | .rsq =>
    let r := inv (isqrt (v.toNat * 2 ^ P) : Int)
    let i := inv v
    (r, -(mul r i) / 2, 3 * mul r (mul i i) / 4)
  | .sqrt =>
    let r : Int := isqrt (v.toNat * 2 ^ P)
    let i := inv r
    (r, i / 2, -(mul i (inv v)) / 4)
  | .exp2 =>
    let y := exp2Fix P v
    let l := ln2Fix P
    (y, mul y l, mul y (mul l l))
  | .log2 =>
    let l := inv (ln2Fix P)
    let i := inv v
    (log2Fix P v, mul i l, -(mul i (mul i l)))
  | .sin | .cos =>
    let h := piFix P / 2
    let t := mul h v
    (sinFix P t, mul h (cosFix P t), -(mul (mul h h) (sinFix P t)))
  | .tanh =>
    let (u, c) := expNeg P (2 * v)
    let ex := u / 2 ^ c
    let t := (one - ex) * one / (one + ex)
    let d := one - mul t t
    (t, d, -2 * mul t d)
  | .erf =>
    let (u, c) := expNeg P (mul v v)
    let g := mul (twoOverSqrtPi P) (u / 2 ^ c)
    (mul v (erfOver P v), g, -2 * mul v g)
  | .sigm =>
    let (u, c) := expNeg P v
    let y := inv (one + u / 2 ^ c)
    let d := mul y (one - y)
    (y, d, mul d (one - 2 * y))

/-- The interpolated y for an offset into the table interval: v = start + off, off dyadic and not negative (R162). -/
def interpolate (k : SfnKind) (start : Nat) (off : Dy) : Dy :=
  let i := (Dy.mul off ⟨256, 0⟩).floor
  let sx := Dy.add (Dy.mul off ⟨256, 0⟩) ⟨-(2 * i + 1), -1⟩
  let (g, g1, g2) := tableFn k (512 * start + 2 * i.toNat + 1)
  let q : Int := (Nat.log2 g.toNat : Nat) - (coeffP : Int) - 32
  let c0 := coeffRound coeffP g q
  let c1 := coeffRound (coeffP + 8) g1 q
  let c2 := coeffRound (coeffP + 17) g2 q
  c0.add ((c1.mul sx).add (c2.mul (sx.mul sx)))

/-- 1/(2π) rounded to 34 fraction bits (R162). -/
def invTwoPi : Int := (coeffRound 200 (2 ^ 400 / (2 * piFix 200)) (-34)).m

/-- The rebuilt value of the fast grade for a finite nonzero argument that is not special. -/
def sfnRebuilt (k : SfnKind) (s : Bool) (m : Nat) (e : Int) : Dy :=
  let lg : Int := e + (Nat.log2 m : Nat)
  let x : Dy := ⟨m, e⟩
  let norm (j : Int) : Dy := ⟨m, e - j⟩
  let sgn (d : Dy) : Dy := if s then d.neg else d
  match k with
  | .rcp =>
    let y := interpolate .rcp 1 ((norm lg).add ⟨-1, 0⟩)
    sgn ⟨y.m, y.e - lg⟩
  | .rsq =>
    let j := lg / 2
    let y := interpolate .rsq 1 ((norm (2 * j)).add ⟨-1, 0⟩)
    ⟨y.m, y.e - j⟩
  | .sqrt =>
    let j := lg / 2
    let y := interpolate .sqrt 1 ((norm (2 * j)).add ⟨-1, 0⟩)
    ⟨y.m, y.e + j⟩
  | .exp2 =>
    let xs := sgn x
    let n := xs.floor
    let y := interpolate .exp2 0 (xs.add ⟨-n, 0⟩)
    ⟨y.m, y.e + n⟩
  | .log2 => Dy.add ⟨lg, 0⟩ (interpolate .log2 1 ((norm lg).add ⟨-1, 0⟩))
  | .sin | .cos =>
    let r0 := (sgn x).mul ⟨invTwoPi, -34⟩
    let r := if k = .cos then r0.add ⟨1, -2⟩ else r0
    let u := r.add ⟨-r.floor, 0⟩
    let u4 : Dy := ⟨u.m, u.e + 2⟩
    let q := u4.floor
    let f := u4.add ⟨-q, 0⟩
    let v := if q % 2 = 0 then f else f.neg.add ⟨1, 0⟩
    let y := if 1 ≤ v.floor then ⟨1, 0⟩ else interpolate .sin 0 v
    if 2 ≤ q then y.neg else y
  | .tanh => sgn (if 3 ≤ lg then ⟨1, 0⟩ else interpolate .tanh 0 x)
  | .erf => sgn (if 2 ≤ lg then ⟨1, 0⟩ else interpolate .erf 0 x)
  | .sigm =>
    let y := if 4 ≤ lg then ⟨1, 0⟩ else interpolate .sigm 0 x
    if s then y.neg.add ⟨1, 0⟩ else y

/-- A dyadic number as f32, to nearest even. -/
def Dy.toF32 (d : Dy) : Nat := (f32.roundZ 0 (d.m < 0) d.m.natAbs d.e).1

/-- The pattern is subnormal. -/
def isSubnormal (v : Nat) : Bool := v % 2 ^ 31 < 2 ^ 23 && v % 2 ^ 31 != 0

/-- The exact result lies strictly between zero and the least normal number: so does what it rounds to, or it is SIN or TANH
of the least normal number, which lies just below its argument and rounds to it. -/
def exactSubnormal (k : SfnKind) (exact : Nat) : Bool :=
  exact % 2 ^ 31 < 2 ^ 23 || (exact % 2 ^ 31 == 2 ^ 23 && (k == .sin || k == .tanh))

/-- One lane of SFN: the result and its flags (R151, R160-R162). -/
def sfnValue (k : SfnKind) (acc ftz : Bool) (v0 : Nat) : Nat × Nat :=
  let v := if !acc && ftz && isSubnormal v0 then v0 / 2 ^ 31 * 2 ^ 31 else v0
  match sfnSpecial k v with
  | some r => r
  | none => match f32.val v with
    | .fin s m e =>
      let exact := sfnAccurate k s m e
      if acc || (!ftz && (isSubnormal v || exactSubnormal k exact)) then (exact, 0)
      else
        let r := (sfnRebuilt k s m e).toF32
        (if ftz && isSubnormal r then r / 2 ^ 31 * 2 ^ 31 else r, 0)
    | _ => (f32.nan, 0)

/-- The slot of SFN: its own on JXW-3, VEC.B on JXN-2 (R123, R298). -/
def sfnSlot (k : Nat) : Nat := if isWide k then 2 else 3

/-- SFN: the function in MOD bits 7:4, ACC in bit 3 (R290, R375). -/
def execSfn (o : Op) (s : State) : Host.Outcome State Fault Refusal :=
  let acc := o.mod.getLsbD 3
  let w := if isWide s.myCore then 1 else 2
  let legal := o.slot == sfnSlot s.myCore && o.legalV 0x049 11 && o.extOk true false false && (sfnKind (o.mod.extractLsb' 4 4).toNat).isSome
  .next (floatOp legal o [(o.selA, 1)] 11 (if acc then 16 else 8) ((if acc then 8 else 4) * w)
    (fun s l t => match sfnKind (o.mod.extractLsb' 4 4).toNat with
      | some k => [sfnValue k acc (fpFTZ s.me.regs.fpctl) (s.scalar o l t o.selA 11)]
      | none => []) s)

end Sys2Proof.Machine
end

