-- ==== Sys2Proof/Machine/Memory.lean ====
section
/-! DEFINITION. The memory instructions: LD, LDV, ST, STV, ATOM, PREF, SPILL, FILL, STMAP, STWB, STINV and FENCE. -/

namespace Sys2Proof.Machine

/-! ### Releases (R204, R208) -/

/-- A write of core k is still on its way. -/
def State.writesPending (s : State) (k : Nat) : Bool :=
  (s.cluster (clusterOf k)).wcb.any (fun e => e.2.owners.any (·.1 == k)) ||
    s.phys.lines.any fun l => l.2.waiting.any fun w => w.owners.any (·.1 == k)

/-- Stores of a stalled ACCST of core k have not been made (R310). -/
def State.streamStores (s : State) (k : Nat) : Bool :=
  (s.core k).mtx.work.any fun w => w.fault.isSome && w.todo.any fun m => m.kind == MoveKind.toMem

/-- A thread's access meets bytes that a stalled ACCST of it will write (R310). -/
def State.streamHolds (s : State) (k x : Nat) (as : List Acc) : Bool :=
  (s.core k).mtx.work.any fun w => w.ctx == x && w.fault.isSome && w.todo.any fun m =>
    m.kind == MoveKind.toMem && as.any fun a => a.t == m.t && a.seg == m.seg && a.off < m.off + m.n && m.off < a.off + a.n

/-- The scope at which a release of a context is performed: dev from core on, when its ordered writes include one to a read-mostly page
(R218). -/
def State.relScope (s : State) (k x scope : Nat) : Nat :=
  if 3 ≤ scope && scope < 7 && (s.ctx k x).mem.rmWrites then 7 else scope

/-- The cores at which a release of a context is performed: its own, and those of its release frontier (R216). -/
def State.relCores (s : State) (k x : Nat) : List Nat := k :: (s.ctx k x).frontier

/-- A remote write of core k has not been acknowledged by its device (R204). -/
def State.unackedOf (s : State) (k : Nat) : Bool :=
  s.fabric.unacked.any fun e => e.1 == k && s.now < e.2.2 && !s.fabric.lostDevices.contains e.2.1

/-- The point of a release (R204): the writes that the releasing thread has made or seen on its core have been
performed, at die scope or wider with the written stash granules, at mem scope or wider the slices can write them into the pillars, and
at pod scope the devices have acknowledged the remote ones. -/
def State.releaseReady (s : State) (k x scope : Nat) : Bool :=
  let scope := s.relScope k x scope
  scope < 3 || ((s.relCores k x).all (fun c => !s.writesPending c) && !s.streamStores k && (scope < 6 || !(s.ctx k x).dirty) &&
    (scope < 8 || s.phys.overlay.all fun e => s.bankIdle e.1) && (scope < 11 || (s.relCores k x).all fun c => !s.unackedOf c))

/-- The write-combining entries with stores of a core are sent (R220). -/
def State.sendCore (s : State) (k : Nat) : State :=
  ((s.cluster (clusterOf k)).wcb.filter fun e => e.2.owners.any (·.1 == k)).foldl (fun s e => s.sendWcb (clusterOf k) e.1) s

/-- What a release starts: at die scope or wider the dirty stash granules are written back, and the write-combining entries are sent
(R171, R216, R220). -/
def State.releaseStart (s : State) (k x t scope : Nat) : State :=
  let scope := s.relScope k x scope
  if scope < 3 then s
  else
    let s := if 6 ≤ scope then (s.writeBackAll k x t).writeBackFault k x t else s
    (s.relCores k x).foldl State.sendCore s

/-- What a release leaves when it completes: at mem scope the pillars hold the writes; the release frontier is cleared
(R204, R216). -/
def State.releaseDone (s : State) (k x scope : Nat) : State :=
  let scope := s.relScope k x scope
  let s := if 8 ≤ scope then s.flushIdle else s
  s.modCtx k x fun c => { c with frontier := [], mem := { c.mem with rmWrites := c.mem.rmWrites && scope < 7 } }

/-! ### Loads -/

/-- Host reads for the bytes that lie in the host window (R276); each notes where its bytes go. -/
def State.hostReads (s : State) (k x t ty : Nat) (reqs : List HostPiece) : List Nat × State :=
  reqs.foldl (fun (acc : List Nat × State) r =>
    let s := acc.2
    let id := s.host.nextId
    let dl := s.now + tickTime 50000000
    (acc.1 ++ [id], (s.modHost fun h => { h with
      nextId := id + 1
      reads := h.reads ++ [⟨id, r.pa - hostBase, r.len, k, x, t, r.seg, r.va, r.into, ty, dl⟩] }).schedule dl (.hostCompletion id false []))) ([], s)

/-- The loads that open rows defer wait for their banks: one number a bank (R200). -/
def State.awaitBanks (s : State) (bs : List (Nat × Nat)) : List Nat × State :=
  (bs.foldl (fun acc b => if acc.contains b then acc else acc ++ [b]) ([] : List (Nat × Nat))).foldl (fun (acc : List Nat × State) b =>
    let (id, s1) := acc.2.newWait
    (acc.1 ++ [id], s1.modBank b.1 b.2 fun n => { n with deferred := n.deferred ++ [id] })) ([], s)

/-- The result that entered last waits for more than its time. -/
def State.lastAwaits (s : State) (f : Landing → Landing) : State :=
  s.modMe fun c => { c with inflight := c.inflight.mapIdx fun i l => if i + 1 == c.inflight.length then f l else l }

/-- Threads remember the lines they read that another context wrote (R212). -/
def Thread.noteReads (th : Thread) (ws : List (Nat × Nat × Nat)) : Thread :=
  { th with reads := th.reads ++ ws.filter fun w => !th.reads.contains w }

/-- A load of the group (R166, R183, R345): the checks of every lane, then page faults, then the reads. `accs` gives the
accesses of a thread, whose bytes joined are its result of type ty. -/
def loadOp (o : Op) (ok : Bool) (srcs : List (Nat × Nat)) (extra : List (Nat × Trap)) (ty align : Nat)
    (range : Option (Nat × Word)) (accs : List Acc) (s : State) : State :=
  let n := o.regsOf ty
  let d := o.dest.toNat
  let k := s.myCore
  let x := s.myCtxNo
  let first := s.srcTraps o (ok && destOk o.slot d n) srcs ++ s.copyTraps o d n ++ extra
  let traps := if first.isEmpty then s.accTraps k x .load align accs else first
  let faults := if traps.isEmpty then s.accFaults k x .load accs else []
  if !faults.isEmpty then s.pageFaults k x faults
  else if traps.isEmpty && s.streamHolds k x accs then s.holdFor .opslotWait
  else runOp o.slot traps (fun s =>
    let (gots, s1) := (s.active o).foldl (fun (acc : List (Nat × Got) × State) e =>
      let (g, s') := (accs.filter (·.t == e.2)).foldl (fun (a : Got × State) ac =>
        let (q, s'') := a.2.loadAcc k x ac range; (a.1.add q, s'')) (({} : Got), acc.2)
      (acc.1 ++ [(e.2, g)], s')) (([] : List (Nat × Got)), s)
    let all := gots.foldl (fun (a : Got) g => a.add g.2) {}
    let (lat, s2) := s1.gotLatency all
    let size := tyBytes (elemTy ty)
    let elems (g : Got) : List Nat := (List.range (o.count ty)).map fun i =>
      bytesToNat ((g.bytes.drop (i * size)).take size)
    let late := gots.filterMap fun g => g.2.poison.map fun pa => (g.1, (⟨.memUncorrectable, 0, pa⟩ : Trap))
    let s3 := s2.land o .reg d n (Nat.max 5 lat) (gots.map fun g => (g.1, o.resultWords ty (elems g.2))) 0 [] late
    let s4 := gots.foldl (fun s g => s.modThread k x g.1 fun th => th.noteReads g.2.writers) s3
    let (ids, s5) := gots.foldl (fun (acc : List Nat × State) g =>
      let (i, s') := acc.2.hostReads k x g.1 ty g.2.host; (acc.1 ++ i, s')) (([] : List Nat), s4)
    let (waits, s6) := s5.awaitBanks all.banks
    (s6.lastAwaits fun l => { l with host := ids, awaits := waits, fills := all.fills }).speculate k x all.expired) s

/-- The accesses of LD: each lane one access from its ptr. -/
def ldAccs (o : Op) (s : State) : List Acc :=
  (s.active o).map fun e => Acc.ofPtr e.1 e.2 (s.word o e.1 e.2 o.selA) (o.bytesOf o.ty)

/-- LD (R344, R345). -/
def execLd (o : Op) (s : State) : Host.Outcome State Fault Refusal :=
  .next (loadOp o (o.legalD 0x0C0 && o.extOk true false false) [(o.selA, 1)] [] o.ty (tyBytes (elemTy o.ty)) none (ldAccs o s) s)

/-- A descriptor is legal (R227): the zero field, and STRIDE a multiple of the width and at least it. -/
def rangeDescOk (d : Word) : Bool :=
  d.extractLsb' 0 26 == 0#26 && rangeWidth d ≤ rangeStride d && rangeStride d % rangeWidth d == 0

/-- The physical base and descriptor of a range load: the highest lane's, when the whole range lies in its page, and on
segments that take range entries (R227, R346). -/
def rangeOf (o : Op) (s : State) : Option (Nat × Word) :=
  (s.top o).bind fun e =>
    let p := s.word o e.1 e.2 o.selA
    let d := s.word o e.1 e.2 o.selC
    let seg := ptrSeg p
    if seg = 2 || seg = 3 then none
    else match s.translate (s.spaceOf s.myCore s.myCtxNo) (s.me.addrOf (Acc.ofPtr e.1 e.2 p 1) (ptrOff p)) .load with
      | (.ok pa pte, _) =>
        let len := ((pageOf (pteSize pte)).map (·.1)).getD 65536
        if pa % len + rangeStride d * rangeCount d + rangeWidth d ≤ len && regionOf pa != .host then some (pa, d) else none
      | _ => none

/-- LD with RNG (R227, R228, R346). A bad descriptor raises ILLEGAL_OP before any lane loads. -/
def execLdRng (o : Op) (s : State) : Host.Outcome State Fault Refusal :=
  let good := match s.top o with
    | some e => rangeDescOk (s.word o e.1 e.2 o.selC)
    | none => true
  .next (loadOp o (o.legalD 0x0C0 && o.extOk true false true) [(o.selA, 1), (o.selC, 1)]
    (s.illegalUnless o good) o.ty (tyBytes (elemTy o.ty)) (rangeOf o s) (ldAccs o s) s)

/-- The rows of an LDV or STV lane: row i from p + i × stride (R344, R380). -/
def rowAccs (o : Op) (lane t : Nat) (p stride : Word) : List Acc :=
  (List.range (o.rows.toNat + 1)).map fun (i : Nat) =>
    let q := word64 (ptrAdd p.toNat ((i : Int) * stride.toInt))
    Acc.ofPtr lane t q ((o.cols.toNat + 1) * tyBytes (elemTy o.ty))

/-- LDV (R344, R345). -/
def execLdv (o : Op) (s : State) : Host.Outcome State Fault Refusal :=
  let accs := (s.active o).flatMap fun e => rowAccs o e.1 e.2 (s.word o e.1 e.2 o.selA) (s.word o e.1 e.2 o.selB)
  .next (loadOp o (o.legalD 0x0C2 && o.extOk true true false) [(o.selA, 1), (o.selB, 1)] [] o.ty (tyBytes (elemTy o.ty)) none accs s)

/-! ### Stores -/

/-- A store of the group (R381): the checks of every lane, page faults, template copies, then the writes in lane order. -/
def storeOp (o : Op) (ok : Bool) (srcs : List (Nat × Nat)) (align : Nat) (writes : List (Acc × List Byte)) (s : State) : State :=
  let k := s.myCore
  let x := s.myCtxNo
  let accs := writes.map (·.1)
  let first := s.srcTraps o ok srcs
  let traps := if first.isEmpty then s.accTraps k x .store align accs else first
  let faults := if traps.isEmpty then s.accFaults k x .store accs ++ s.copyFaults k x accs else []
  if !faults.isEmpty then s.pageFaults k x faults
  else if traps.isEmpty && s.streamHolds k x accs then s.holdFor .opslotWait
  else runOp o.slot traps (fun s =>
    let s1 := s.copyFirst k x accs
    writes.foldl (fun s w => s.storeAcc k x w.1 w.2) s1) s

/-- The bytes of elements of a type as memory holds them (R380). -/
def elemBytes (ty : Nat) (es : List Nat) : List Byte :=
  es.flatMap fun v => natToBytes (tyBytes (elemTy ty)) (v % 2 ^ tyBits (elemTy ty))

/-- ST (R380, R381). -/
def execSt (o : Op) (s : State) : Host.Outcome State Fault Refusal :=
  let writes := (s.active o).map fun e =>
    (Acc.ofPtr e.1 e.2 (s.word o e.1 e.2 o.selA) (o.bytesOf o.ty), elemBytes o.ty (s.operand o e.1 e.2 o.selB o.ty))
  .next (storeOp o (o.legalD 0x0C1 && o.extOk true true false) [(o.selA, 1), (o.selB, o.regsOf o.ty)]
    (tyBytes (elemTy o.ty)) writes s)

/-- STV: A is the ptr, B the stride, C the tile (R380). -/
def execStv (o : Op) (s : State) : Host.Outcome State Fault Refusal :=
  let writes := (s.active o).flatMap fun e =>
    let bs := elemBytes o.ty (s.operand o e.1 e.2 o.selC o.ty)
    let rows := rowAccs o e.1 e.2 (s.word o e.1 e.2 o.selA) (s.word o e.1 e.2 o.selB)
    rows.zipIdx.map fun r => (r.1, (bs.drop (r.2 * r.1.n)).take r.1.n)
  .next (storeOp o (o.legalD 0x0C3 && o.extOk true true true) [(o.selA, 1), (o.selB, 1), (o.selC, o.regsOf o.ty)]
    (tyBytes (elemTy o.ty)) writes s)

/-! ### Frame words: SPILL and FILL (R338, R379) -/

/-- The access of a frame word of a thread. -/
def frameAcc (c : Ctx) (lane t word : Nat) : Acc := ⟨lane, t, false, 1, 8 * ((c.thread t).frameBase + word), 8⟩

/-- FILL: DEST takes a frame word (R338). -/
def execFill (o : Op) (s : State) : Host.Outcome State Fault Refusal :=
  let w := (o.j.extractLsb' 16 14).toNat
  let ok := o.legalJ && o.j.extractLsb' 0 16 == 0#16
  .next (loadOp { o with mod := 0x40 } ok [] [] 8 8 none ((s.active o).map fun e => frameAcc s.me e.1 e.2 w) s)

/-- SPILL: a frame word takes a source (R379). -/
def execSpill (o : Op) (s : State) : Host.Outcome State Fault Refusal :=
  let w := (o.j.extractLsb' 16 14).toNat
  let sel := (o.j.extractLsb' 0 10).toNat
  let ok := o.legalJ && o.j.extractLsb' 10 6 == 0#6 && o.dest == 0#10 && sel != 0x1F3
  .next (s.asServing fun s => storeOp o ok [(sel, 1)] 8
    ((s.active o).map fun e => (frameAcc s.me e.1 e.2 w, natToBytes 8 (s.word o e.1 e.2 sel).toNat)) s)

/-! ### Atomics (R312-R314) -/

/-- The new value of an atomic function (R312): fn, type, old, v, new. -/
def atomNew (fn ty old v new_ : Nat) : Nat :=
  match fn with
  | 0 => (old + v) % 2 ^ tyBits ty
  | 1 => if ofPat ty v < ofPat ty old then v else old
  | 2 => if ofPat ty old < ofPat ty v then v else old
  | 3 => old &&& v
  | 4 => old ||| v
  | 5 => old ^^^ v
  | 6 => v
  | 7 => if old = v then new_ else old
  | _ => ((fmtOf ty).add 0 old v).1

/-- What one lane of an ATOM found: the old value, its latency, what its result awaits, the writer of its line, a poisoned line. -/
structure AtomGot where
  old : Nat
  lat : Nat
  awaits : List Nat := []
  fills : List Nat := []
  writers : List (Nat × Nat × Nat) := []
  poison : Option Nat := none
deriving DecidableEq, Repr

/-- An ATOM reaches the home slice of its line: performed at once or in its turn, when its result is awaited (R223); the bytes it
writes, none for one that writes nothing. -/
def State.atomArrive (s : State) (k l : Nat) (w : PWrite) : List Nat × State :=
  let s := if w.bytes.isEmpty then s else s.l1Store k l w.key w.bytes
  if s.homeFree l w then ([], s.homeArrive l w)
  else
    let (id, s1) := s.newWait
    ([id], s1.homeArrive l { w with id := some id })

/-- One lane of an ATOM (R131, R313, R314): `f` gives the new value, `writes` says whether it is written. -/
def State.atomLane (s : State) (k x : Nat) (a : Acc) (f : Nat → Nat) (writes : Nat → Bool) : AtomGot × State :=
  let c := s.ctx k x
  match s.spotOf c a a.off with
  | .stash ad =>
    let old := bytesToNat ((s.core k).stashBytes ad a.n)
    let (n, s1) := if a.seg = 4 then s.draw1 else (0, s)
    ({ old := old, lat := if a.seg = 4 then 110 + n % 51 else 20 }, if writes old then s1.putStash k ad (natToBytes a.n (f old)) else s1)
  | .window e g _ ad =>
    let s1 := s.fillFor k x e g
    let old := bytesToNat ((s1.core k).stashBytes ad a.n)
    ({ old := old, lat := 20, fills := if ((s1.ctx k x).granule e g).any GranState.isFilling then [granKey e g] else [] },
      if writes old then s1.storeAcc k x a (natToBytes a.n (f old)) else s1)
  | .virt va => match s.physPiece (s.spaceOf k x) va a.n .atomic with
    | (some p, s0) =>
      let l := p.pa / 128
      let s1 := s0.sendWcb (clusterOf k) l
      let old := bytesToNat ((List.range a.n).map fun i => s1.lastByteAt p.key (p.pa + i))
      let who := match (s1.line l).writer with
        | some (k', x') => if k' = k && x' = x then [] else [(l, k', x')]
        | none => []
      let (n, s2) := s1.draw1
      let (ids, s3) := s2.atomArrive k l
        { bytes := if writes old then bytesAt p.pa (natToBytes a.n (f old)) else [], key := p.key, owners := [(k, x, a.t)] }
      ({ old := old, lat := 110 + n % 51 + (p.ready - s.now + (cycleLen - 1)) / cycleLen, awaits := ids, writers := who
         poison := if s3.uncorrectable p.pa then some (l * 128) else none },
        if p.rm && x ≤ 4 then s3.modCtx k x fun c => { c with mem := { c.mem with rmWrites := true } } else s3)
    | (none, s0) => ({ old := 0, lat := 110 }, s0)

/-- ATOM in its four orders. `rel` waits for the release first, `acq` fences later accesses (R208, R312). -/
def atomOp (opc : Nat) (acq rel : Bool) (o : Op) (s : State) : State :=
  let k := s.myCore
  let x := s.myCtxNo
  let ty := ((o.ext.getD 0).extractLsb' 0 5).toNat
  let scope := (o.mod.extractLsb' 0 4).toNat
  let fn := (o.mod.extractLsb' 4 4).toNat
  let cas := fn == 7
  let extOk := match o.ext with
    | some w => w.extractLsb' 5 59 == 0#59 && o.a != 0x1F3#10 && o.b != 0x1F3#10 && (!cas || o.c != 0x1F3#10)
    | none => false
  let ok := extOk && (Lpf.row opc).any (·.tyOk ty) && Lpf.modOk opc ty o.mod.toNat && destOk o.slot o.dest.toNat 1
  let n := tyBytes ty
  let d := o.dest.toNat
  let accs := (s.active o).map fun e => Acc.ofPtr e.1 e.2 (s.word o e.1 e.2 o.selA) n
  let first := s.srcTraps o ok ([(o.selA, 1), (o.b.toNat, 1)] ++ if cas then [(o.selC, 1)] else []) ++ s.copyTraps o d 1
  let traps := if first.isEmpty then s.accTraps k x .atomic n accs else first
  let faults := if traps.isEmpty then s.accFaults k x .atomic accs ++ s.copyFaults k x accs else []
  if !faults.isEmpty then s.pageFaults k x faults
  else if traps.isEmpty && s.streamHolds k x accs then s.holdFor .opslotWait
  else
    let started := if rel && traps.isEmpty && !(s.active o).isEmpty then s.releaseStart k x (((s.top o).map (·.2)).getD 0) scope else s
    if rel && traps.isEmpty && !(s.active o).isEmpty && !started.releaseReady k x scope then started.holdFor .lookahead
    else runOp o.slot traps (fun s =>
      let s0 := s.copyFirst k x accs
      let (gots, s1) := (s.active o).foldl (fun (acc : List (Nat × AtomGot) × State) e =>
        match accs.find? fun a => a.t == e.2 with
        | some a =>
          let v := s.scalar o e.1 e.2 o.b.toNat ty
          let nw := if cas then s.scalar o e.1 e.2 o.selC ty else 0
          let (g, s') := acc.2.atomLane k x a (fun old => atomNew fn ty old v nw) (fun old => !cas || old == v)
          (acc.1 ++ [(e.2, g)], s')
        | none => acc) (([] : List (Nat × AtomGot)), s0)
      let vals := gots.map fun g => (g.1, [regImage ty g.2.old])
      let late := gots.filterMap fun g => g.2.poison.map fun pa => (g.1, (⟨.memUncorrectable, 0, pa⟩ : Trap))
      let s2 := (s1.land o .reg d 1 (maxNat (20 :: gots.map (·.2.lat))) vals 0 [] late).lastAwaits fun l =>
        { l with awaits := gots.flatMap (·.2.awaits), fills := gots.flatMap (·.2.fills) }
      let s2 := gots.foldl (fun s g => s.modThread k x g.1 fun th => th.noteReads g.2.writers) s2
      let s3 := if rel && !vals.isEmpty then s2.releaseDone k x scope else s2
      if acq && !vals.isEmpty then s3.modMe fun c => { c with fence := some ⟨scope, 0, []⟩ } else s3) started

/-- ATOM, relaxed. -/
def execAtom (o : Op) (s : State) : Host.Outcome State Fault Refusal := .next (atomOp 0x0C4 false false o s)

/-- ATOM with `.acq`: the atomic, then an acquire fence at its scope. -/
def execAtomAcq (o : Op) (s : State) : Host.Outcome State Fault Refusal := .next (atomOp 0x0C5 true false o s)

/-- ATOM with `.rel`: a release fence at its scope, then the atomic. -/
def execAtomRel (o : Op) (s : State) : Host.Outcome State Fault Refusal := .next (atomOp 0x0C6 false true o s)

/-- ATOM with `.ar`: both. -/
def execAtomAr (o : Op) (s : State) : Host.Outcome State Fault Refusal := .next (atomOp 0x0C7 true true o s)

/-! ### PREF (R363) -/

/-- One lane of PREF: a line fill or a granule fill, and nothing where a load would fault or be refused. -/
def State.prefLane (s : State) (k x lane t : Nat) (p : Word) : State :=
  let c := s.ctx k x
  let a := Acc.ofPtr lane t p 1
  if (s.segCheck c .load 1 a).isSome then s
  else match s.walkCheck k x .load a with
    | (none, []) => match s.spotOf c a a.off with
      | .virt va => match s.physPiece (s.spaceOf k x) va 1 .load with
        | (some q, s') => (s'.touchLine k (q.pa / 128) (q.pa % 128) 1 q.key q.rm none).2
        | (none, _) => s
      | .window e g _ _ => (s.fillGranule k x e g).2
      | .stash _ => s
    | _ => s

/-- PREF never traps (R363). -/
def execPref (o : Op) (s : State) : Host.Outcome State Fault Refusal :=
  .next (runOp o.slot (s.srcTraps o (o.legalD 0x0C8 && o.extOk true false false) [(o.selA, 1)])
    (fun s => (s.active o).foldl (fun s' e => s'.prefLane s.myCore s.myCtxNo e.1 e.2 (s.word o e.1 e.2 o.selA)) s) s)

/-! ### Stash control (R169-R171, R382, R383) -/

/-- What a result awaited of granules has come: it lands from the given time on. -/
def Landing.fillsDone (l : Landing) (keys : List Nat) (at_ : Nat) : Landing :=
  if l.fills.any keys.contains then { l with fills := l.fills.filter fun f => !keys.contains f, due := Nat.max l.due at_ } else l

/-- The time from which an access to a granule is complete: 14 cycles after its fill (R170). -/
def GranState.served (g : GranState) : Nat :=
  match g with
  | .filling u _ => u + 14 * cycleLen
  | _ => 0

/-- An entry leaves the map: its dirty granules are written back first (R169, R171). The accesses that wait for one of its fills
complete with it. -/
def State.evictEntry (s : State) (k x t e : Nat) : State :=
  let gs := (s.ctx k x).mem.granules.filter fun g => g.1 / 2048 == e
  let s := gs.foldl (fun s g => s.writeBack k x t g.1) s
  s.modCtx k x fun c => { c with
    inflight := gs.foldl (fun ls g => ls.map fun l => l.fillsDone [g.1] g.2.served) c.inflight
    mem := { c.mem with
      stmap := tdel c.mem.stmap e
      granules := c.mem.granules.filter fun g => g.1 / 2048 != e
      granLease := c.mem.granLease.filter fun g => g.1 / 2048 != e } }

/-- The first write-back of the given granules that G refuses, as a trap, and the page faults of the others (R166, R171, R183). -/
def State.backCheck (s : State) (k x t : Nat) (keys : List Nat) : Option Trap × List PFault :=
  let c := s.ctx k x
  (keys.filter fun g => (tget c.mem.granules g).any fun gr => gr.mask != 0).foldl (fun (acc : Option Trap × List PFault) g =>
    let va := c.granVa (g / 2048) (g % 2048)
    match s.probe (s.spaceOf k x) va .store with
    | .ok _ _ => acc
    | .fault lv => (acc.1, acc.2 ++ [⟨t, va, lv, 0, true⟩])
    | .violation => (acc.1.or (some ⟨.accessViolation, 0, va⟩), acc.2)) (none, [])

/-- The window of an entry in granules: first and count. -/
def mapWindow (w1 : Word) : Nat × Nat := ((w1.extractLsb' 0 11).toNat, (w1.extractLsb' 20 11).toNat + 1)

/-- Traps of an entry that STMAP is to write (R169). -/
def mapTrap (c : Ctx) (w0 w1 : Word) : Option Trap :=
  let pitch := (w1.extractLsb' 48 16).toNat
  let (b, n) := mapWindow w1
  let g := (w0.extractLsb' 8 52).toNat * 256
  if w0.extractLsb' 60 4 != 0#4 || w0.extractLsb' 0 8 != 0#8 || w1.extractLsb' 31 15 != 0#15 || w1.extractLsb' 11 9 != 0#9 ||
      (w1.getLsbD 47 && (pitch % 8 != 0 || pitch < 8)) then some ⟨.illegalOp, 0, 0⟩
  else if c.limit 2 < 256 * (b + n) then some ⟨.segLimit, 2, 256 * b⟩
  else if c.limit 0 < g + 256 * n then some ⟨.segLimit, 0, c.base 0 + g⟩
  else none

/-- STMAP: from the highest lane of ACTIVE (R382). -/
def execStmap (o : Op) (s : State) : Host.Outcome State Fault Refusal :=
  let k := s.myCore
  let x := s.myCtxNo
  match s.top o with
  | none => .next s
  | some e =>
    let i := s.word o e.1 e.2 o.selA
    let ws := s.run o e.1 e.2 o.selB 2
    let w0 := ws.headD 0
    let w1 := (ws[1]?).getD 0
    let idx := (i.extractLsb' 0 8).toNat
    let clr := i.getLsbD 8
    let ok := o.legalD 0x0C9 && o.extOk true true false && (clr || o.elems == 2) && idx < 32 && i.extractLsb' 9 23 == 0#23
    let traps := s.srcTraps o ok ((o.selA, 1) :: if clr then [] else [(o.selB, 2)])
    let mt := if clr || !traps.isEmpty then none else mapTrap s.me w0 w1
    let (b, n) := mapWindow w1
    let hit (en : Nat × Word × Word) : Bool :=
      let (b', n') := mapWindow en.2.2
      en.1 == idx || (!clr && b < b' + n' && b' < b + n)
    let gone := (s.me.mem.stmap.filter hit).map (·.1)
    let (bt, bf) := if traps.isEmpty && mt.isNone then
      s.backCheck k x e.2 ((s.me.mem.granules.map (·.1)).filter fun g => gone.contains (g / 2048)) else (none, [])
    let all := traps ++ ((mt.or bt).toList.flatMap fun tr => (s.active o).map fun a => (a.2, tr))
    .next (if all.isEmpty && !bf.isEmpty then s.pageFaults k x bf else runOp o.slot all
      (fun s =>
        let s1 := gone.foldl (fun s en => s.evictEntry k x e.2 en) s
        if clr then s1
        else s1.modMe fun c => { c with mem := { c.mem with stmap := tset c.mem.stmap idx (w0, w1) } }) s)

/-- The granules of valid entries with a byte in [off, off + n) of S (R383). -/
def Ctx.coveredGranules (c : Ctx) (off n : Nat) : List Nat :=
  c.mem.granules.filterMap fun g =>
    (tget c.mem.stmap (g.1 / 2048)).bind fun w =>
      let a := 256 * ((w.2.extractLsb' 0 11).toNat + g.1 % 2048)
      if 0 < n && a < off + n && off < a + 256 then some g.1 else none

/-- STWB and STINV share their checks; `act` acts on the covered granules for the thread of the highest lane (R383). `back` says that
it writes them back. -/
def stashOp (opc : Nat) (back : Bool) (o : Op) (act : List Nat → Nat → State → State) (s : State) : State :=
  match s.top o with
  | none => s
  | some e =>
    let p := s.word o e.1 e.2 o.selA
    let n := s.scalar o e.1 e.2 o.selB 7
    let tr : List Trap :=
      if ptrSeg p != 2 || ptrBad p then [⟨.accessViolation, ptrSeg p, s.me.addrOf (Acc.ofPtr 0 e.2 p 1) (ptrOff p)⟩]
      else if s.me.limit 2 < ptrOff p + n then [⟨.segLimit, 2, ptrOff p⟩] else []
    let first := s.srcTraps o (o.legalD opc && o.extOk true true false) [(o.selA, 1), (o.selB, 1)]
    let traps := first ++ if first.isEmpty then tr.flatMap fun t => (s.active o).map fun a => (a.2, t) else []
    let gs := s.me.coveredGranules (ptrOff p) n
    let (bt, bf) := if back && traps.isEmpty then s.backCheck s.myCore s.myCtxNo e.2 gs else (none, [])
    if traps.isEmpty && back && gs.any (fun g => (tget s.me.mem.granules g).any GranState.isFilling) then s.holdFor .lookahead
    else if !bf.isEmpty then s.pageFaults s.myCore s.myCtxNo bf
    else runOp o.slot (traps ++ bt.toList.flatMap fun t => (s.active o).map fun a => (a.2, t)) (act gs e.2) s

/-- STWB: dirty granules are written back; a filling one is waited for (R383). -/
def execStwb (o : Op) (s : State) : Host.Outcome State Fault Refusal :=
  .next (stashOp 0x0CA true o (fun gs t s => gs.foldl (fun s g => s.writeBack s.myCore s.myCtxNo t g) s) s)

/-- Accesses wait for the fill of a granule: loads and atomics by their results, stores by their bytes. -/
def Ctx.fillAwaited (c : Ctx) (key : Nat) : Bool :=
  (tget c.mem.granules key).any fun g => g.isFilling && (g.mask != 0 || c.inflight.any fun l => l.fills.contains key)

/-- A fill that was dropped starts again for the accesses that wait for it (R383). -/
def State.refill (s : State) (k x key : Nat) : State :=
  let (got, lease, s1) := s.readGranule k x (key / 2048) (key % 2048)
  let (lat, s2) := s1.gotLatency got
  let due := s2.after lat
  let mask := ((tget (s.ctx k x).mem.granules key).map GranState.mask).getD 0
  ((s2.refreshGranule k x (key / 2048) (key % 2048) lease got.bytes).modCtx k x fun c =>
    { c with mem := { c.mem with granules := tset c.mem.granules key (.filling due mask) } }).schedule due (.stashFillComplete k x key)

/-- STINV: granules become INVALID, dirty bytes are discarded, and a fill that accesses wait for starts again (R383). -/
def execStinv (o : Op) (s : State) : Host.Outcome State Fault Refusal :=
  .next (stashOp 0x0CB false o (fun gs _ s =>
    let again := gs.filter s.me.fillAwaited
    again.foldl (fun s g => s.refill s.myCore s.myCtxNo g) (s.modMe fun c => { c with mem := { c.mem with
      granules := c.mem.granules.filter fun g => !gs.contains g.1 || again.contains g.1 } })) s)

/-! ### FENCE (R208, R212, R336, R337) -/

/-- FENCE: releases start, a promoting acquire sends its requests, and the group waits for FENCE_COMPLETE. A fence at
scope thr completes at once. -/
def execFence (o : Op) (s : State) : Host.Outcome State Fault Refusal :=
  let k := s.myCore
  let x := s.myCtxNo
  let scope := (o.mod.extractLsb' 4 4).toNat
  let order := (o.mod.extractLsb' 1 3).toNat
  let prom := o.mod.getLsbD 0
  .next (runOp o.slot (s.illegalUnless o (o.legalV 0x100 0))
    (fun s => match s.top o with
      | none => s
      | some e =>
        if scope = 0 then
          let s1 := if order = 0 then s else s.releaseDone k x 0
          (s.active o).foldl (fun s a => s.modThread k x a.2 fun th => { th with reads := [] }) s1
        else
          let reads := if prom then nodup (((s.active o).flatMap fun a => (s.me.thread a.2).reads.map (·.1))) else []
          let s1 := if order != 0 then s.releaseStart k x e.2 scope else s
          let s2 := reads.foldl (fun s l => s.message (.promotionRequest k x l)) s1
          (s.active o).foldl (fun s a => s.modThread k x a.2 fun th => { th with reads := [] })
            (s2.modMe fun c => { c with fence := some ⟨scope, order, reads⟩ })) s)

/-- Every earlier load of the context has landed and is confirmed (R337). -/
def Ctx.loadsDone (c : Ctx) : Bool := c.spec.isNone && c.inflight.all fun l => l.slot != 1

/-- When the fence of a context is complete (R337). -/
def State.fenceReady (s : State) (k x : Nat) (f : FenceHold) : Bool :=
  let c := s.ctx k x
  f.prom.isEmpty && (f.order == 1 || c.loadsDone) && (f.order == 0 || s.releaseReady k x f.scope)

end Sys2Proof.Machine
end

