-- ==== Sys2Proof/Machine/Uses.lean ====
section
/-! DEFINITION. What an op reads: the register runs that count for the banks of R132 and the taints of R224, and which ops
are commit points (R225). -/

namespace Sys2Proof

/-- The source runs of an op by its layout: selector and width in registers. -/
def Instr.uses : Instr → List (Nat × Nat)
  | .abs o | .brev o | .clz o | .neg o | .not o | .popc o | .vote o | .sfn o => [(o.selA, 1)]
  | .add o | .and o | .bfx o | .cmp o | .max o | .min o | .mul o | .mulhi o | .or o | .rot o | .shl o | .shr o | .shra o
  | .sub o | .xor o | .div o | .rem o | .shfl o | .fcmp o => [(o.selA, 1), (o.selB, 1)]
  | .bfi o => [(o.selA, 1), (o.selB, 1), (o.selC, 1)]
  | .const o => [(o.selB, 1)]
  | .sel o => [(o.selA, 1), (o.selB, o.regsOf o.ty), (o.selC, o.regsOf o.ty)]
  | .mov o => [(o.selA, if o.var == 0 then o.regsOf o.ty else 1)]
  | .addc o | .subb o => [(o.selA, 1), (o.b.toNat, 1), (o.selC, 1)]
  | .madc o => [(o.selA, 1), (o.b.toNat, 1), (o.selC, 1), (((o.ext.getD 0).extractLsb' 10 10).toNat, 1)]
  | .fadd o | .fsub o | .fmul o | .fdiv o | .fmin o | .fmax o => [(o.selA, o.regsOf o.ty), (o.selB, o.regsOf o.ty)]
  | .ffma o => [(o.selA, o.regsOf o.ty), (o.selB, o.regsOf o.ty), (o.selC, o.regsOf o.ty)]
  | .frnd o => [(o.selA, o.regsOf o.ty)]
  | .fcvt o | .icvt o | .lcvt o => [(o.selA, o.regsOf (o.c.toNat % 32))]
  | .lpack o => [(o.selA, o.regsOf 29)]
  | .lunpk o => [(o.selA, 1)]
  | .vred o | .vscan _ o => [(o.selA, 1)]
  | .ld o | .pref o => [(o.selA, 1)]
  | .ldRng o => [(o.selA, 1), (o.selC, 1)]
  | .ldv o => [(o.selA, 1), (o.selB, 1)]
  | .st o => [(o.selA, 1), (o.selB, o.regsOf o.ty)]
  | .stv o => [(o.selA, 1), (o.selB, 1), (o.selC, o.regsOf o.ty)]
  | .atom o | .atomAcq o | .atomRel o | .atomAr o =>
    [(o.selA, 1), (o.b.toNat, 1)] ++ if o.mod.extractLsb' 4 4 == 7#4 then [(o.selC, 1)] else []
  | .spill o | .csrwr o => [((o.j.extractLsb' 0 10).toNat, 1)]
  | .stmap o => [(o.selA, 1), (o.selB, 2)]
  | .stwb o | .stinv o => [(o.selA, 1), (o.selB, 1)]
  | .xfer o | .stkcpy o => [(o.selA, 8)]
  | .xloop o => [(o.selA, 1), (o.selB, 8)]
  | .waitid o | .xcancel o | .publish o => [(o.selA, 1)]
  | .mcast o | .redgrp o => [(o.selA, 4)]
  | .mma o => [(o.selA, 1)]
  | .ticket o => [(o.selA, 1)]
  | .sendc o => [(o.selA, 1), (o.selB, 8)]
  | .recvc o => [(o.selA, 1)]
  | .accld o | .accst o => [(o.selA, 1), (o.selB, 1)]
  | .accz o => [(o.selA, 1)]
  | .osclaim o | .osrel o | .rowact o | .rowactForce o | .rowcls o => [(o.selA, 1)]
  | .osload o => [(o.selA, 1), (o.selB, 1)]
  | .rowcon o | .rowconW o => [(o.selA, 1), (o.selB, 1)]
  | .segset o => [(o.selA, 1), (o.selB, 1), (o.selC, 1)]
  | .tlbinv o => [(o.selA, 1), (o.selB, 1)]
  | .retry o | .cont o | .replay o | .fail o | .endThread o | .endLaunch o => [(o.selA, 1)]
  | _ => []

/-- The op of a native instruction. -/
def Instr.op (i : Instr) : Option Op := i.code.map fun c => c.2.2

/-- Ops that make their bundle a commit point (R225): stores and the write-backs of STMAP and STWB, SPILL, atomics, fences, CSRWR,
EXIT, every op of the MTX slot, what files or parks its group (R29), and what a replay could not repeat (R226) (DEDUCED, log 28). -/
def Instr.commits : Instr → Bool
  | .st _ | .stv _ | .spill _ | .atom _ | .atomAcq _ | .atomRel _ | .atomAr _ | .fence _ | .csrwr _ | .exit _
  | .stmap _ | .stwb _ | .reform _ | .barAw _ | .barWait _ | .barArr _ | .regclm _ | .regrel _ | .tnest _ | .freeze _
  | .trap _ | .brk _ | .segset _ | .stkcpy _ | .ticket _ | .tlbinv _ | .call _ | .ret _ => true
  | i => (i.op.map fun o => o.slot == 0).getD false

end Sys2Proof
end

