-- ==== Sys2Proof/Machine/Csr.lean ====
section
/-! DEFINITION. Control registers (R300-R302): which exist, what a read gives and what a write does. -/

namespace Sys2Proof.Machine

/-- What an address allows (R300). -/
inductive CsrKind where
  | none | ro | rw | zero
deriving DecidableEq, Repr

/-- The assigned addresses of R301 and the zero addresses of R141. -/
def csrKind (a : Nat) : CsrKind :=
  if a == 0x010 || a == 0x016 then .rw
  else if a == 0x000 || (0x008 ≤ a && a ≤ 0x00F) || (0x011 ≤ a && a ≤ 0x01A) then .ro
  else if a == 0x020 || (0x033 ≤ a && a ≤ 0x05F) then .zero
  else if (0x021 ≤ a && a ≤ 0x032) || (0x060 ≤ a && a ≤ 0x06F) || (0x0C0 ≤ a && a ≤ 0x0C5) || (0x0D0 ≤ a && a ≤ 0x0D4) then .ro
  else if a == 0x142 then .ro
  else if a == 0x140 || a == 0x141 || a == 0x143 || a == 0x144 || a == 0x150 || a == 0x152 || a == 0x160 || a == 0x161 ||
      a == 0x170 || a == 0x171 then .rw
  else .none

/-- The per-context registers (R301). -/
def csrOfCtx (a : Nat) : Bool :=
  (0x008 ≤ a && a ≤ 0x011) || a == 0x016 || (0x018 ≤ a && a ≤ 0x01A) || (0x021 ≤ a && a ≤ 0x032) ||
    (0x060 ≤ a && a ≤ 0x06F) || a == 0x150

/-- The number of set bits n among the first m. -/
def countBits (m : Nat) (p : Nat → Bool) : Nat := (List.range m).foldl (fun c i => if p i then c + 1 else c) 0

/-- Cores present, slices present and LFL lanes present in the package (R16, R17). -/
def State.coresPresent (s : State) : Nat := countBits coreCount s.presentPillar

def State.slicesPresent (s : State) : Nat := sumNat ((List.range clusterCount).map fun c => (s.slices c).length)

def State.lanesPresent (s : State) : Nat := sumNat ((List.range 48).map fun p => tgetD s.fuses.lanes p 4)

/-- Free registers of a core's pool (R139). -/
def State.poolFree (s : State) (k : Nat) : Nat := poolCap k - (s.core k).taken

/-- The tickets of a context, as a mask (R202). -/
def Core.rowLive (c : Core) (x : Nat) : Nat :=
  (c.mtx.tickets.filter fun e => e.2.ctx == x && e.1 < 16).foldl (fun m e => m + 2 ^ e.1) 0

/-- The slots and tiles that a context holds (R188). -/
def Core.osHeld (c : Core) (x : Nat) : Nat :=
  (c.mtx.slotOwner.filter fun e => e.2 == x).foldl (fun m e => m + 2 ^ e.1) 0 +
    2 ^ 32 * (c.mtx.tileOwner.filter fun e => e.2 == x).foldl (fun m e => m + 2 ^ e.1) 0

/-- CIRCSPAN (R234). -/
def State.circSpan (s : State) (c : Ctx) : Nat :=
  match s.cohortOf c with
  | some h => if h.span = 0 then 0 else (s.now - h.start) / cycleLen % h.span * 2 ^ 16 + h.span
  | none => 0

/-- What a read of an assigned address gives. `y` is the context whose instance is read, `t` the reading thread. -/
def State.csrValue (s : State) (k x y t a : Nat) : Nat :=
  let c := s.ctx k y
  let part := (s.partOfCore k).map (·.2)
  let user := y != 4
  let fe := tgetD s.fes (dieOf k) {}
  let per (v : Nat) : Nat := if user then v else 0
  if a == 0x000 then s.gtc
  else if 0x008 ≤ a && a ≤ 0x00F then per (tgetD c.eng.chans (a - 0x008) {}).done
  else if a == 0x010 then per c.regs.binage
  else if a == 0x011 then per c.regs.prio
  else if a == 0x012 then 0
  else if a == 0x013 then 1
  else if a == 0x014 then poolCap k * 2 ^ 32 + s.poolFree k
  else if a == 0x015 then ((s.ctx k x).thread t).budget
  else if a == 0x016 then per c.regs.fpctl.toNat
  else if a == 0x017 then (part.map (·.nbv)).getD 1
  else if a == 0x018 then per ((s.core k).rowLive y)
  else if a == 0x019 then per ((s.core k).osHeld y)
  else if a == 0x01A then per (s.circSpan c)
  else if 0x021 ≤ a && a ≤ 0x032 then per (tgetD c.regs.counters (a - 0x020) 0)
  else if 0x060 ≤ a && a ≤ 0x067 then per (tgetD c.regs.segBase (a - 0x060) 0).toNat
  else if 0x068 ≤ a && a ≤ 0x06F then per (tgetD c.regs.segLim (a - 0x068) 0).toNat
  else if a == 0x0C0 then
    0xB1 * 2 ^ 24 + clusterOnDie k * 2 ^ 16 + posOf k * 2 ^ 8 + (if isWide k then 2 else 1) * 4 + dieOf k
  else if a == 0x0C1 then
    (tgetD s.fuses.smask (clusterOf k) 0xF#4).toNat * 2 ^ 16 + (tgetD s.fuses.cmask (clusterOf k) 0xFFF#12).toNat
  else if a == 0x0C2 then (tgetD s.fuses.banks k (BitVec.allOnes 128)).toNat % 2 ^ 64
  else if a == 0x0C3 then (tgetD s.fuses.banks k (BitVec.allOnes 128)).toNat / 2 ^ 64
  else if a == 0x0C4 then
    s.userBytes k (s.spareOf k) / 2 ^ 20 * 2 ^ 16 + s.bankCount k * 2 ^ 8 + s.spareOf k
  else if a == 0x0C5 then s.lanesPresent * 2 ^ 18 + s.slicesPresent * 2 ^ 10 + s.coresPresent
  else if 0x0D0 ≤ a && a ≤ 0x0D4 then (part.map fun p => tgetD p.trcnt (a - 0x0D0) 0).getD 0
  else if a == 0x140 then (part.map (·.logBase.toNat)).getD 0
  else if a == 0x141 then (part.map (·.logCtl.toNat)).getD 0
  else if a == 0x142 then (part.map (·.logDrop)).getD 0
  else if a == 0x143 then (part.map (·.trapBase.toNat)).getD 0
  else if a == 0x144 then (part.map (·.trapCtl.toNat)).getD 0
  else if a == 0x150 then c.regs.mmu.toNat
  else if a == 0x152 then (part.map (·.lease)).getD 256
  else if a == 0x160 then fe.base.toNat
  else if a == 0x161 then fe.cmd.toNat
  else if a == 0x170 then (s.core k).sel.brmode.toNat
  else if a == 0x171 then (s.core k).sel.ctxsel
  else 0

/-- The partition of a core takes a change. -/
def State.modPartOf (s : State) (k : Nat) (f : Partition → Partition) : State :=
  match s.partOfCore k with
  | some (i, p) => { s with parts := tset s.parts i (f p) }
  | none => s

/-- A control word keeps HEAD and takes SIZE and TAIL (R118, R260). -/
def ringCtl (old new_ : Word) : Word := (new_ &&& 0x0000FFFF0000FFFF#64) ||| (old &&& 0x00000000FFFF0000#64)

/-- A clamp of the whole written value to a range (DEDUCED, log 29). -/
def clampNat (lo hi v : Nat) : Nat := Nat.max lo (Nat.min hi v)

/-- The command of FEQCMD as the step that carries it out (R238). -/
def feCommand (die queue cmd : Nat) : Option Instr :=
  match cmd with
  | 1 => some (.enable die queue)
  | 2 => some (.disable die queue)
  | 3 => some (.reset die queue)
  | 4 => some (.suspend die queue)
  | 5 => some (.resume die queue)
  | _ => none

/-- A write of FEQCMD: ignored while BUSY; a command sets BUSY until its step has run (R238). -/
def State.writeFeqCmd (s : State) (die : Nat) (v : Word) : State :=
  let fe := tgetD s.fes die {}
  let q := (v.extractLsb' 8 8).toNat
  let cmd := (v.extractLsb' 0 3).toNat
  if fe.cmd.getLsbD 16 then s
  else match feCommand die q cmd with
    | some i => (s.modFe die fun e => { e with cmd := word64 (2 ^ 16 + q * 2 ^ 8 + cmd) }).schedule (s.after 1) i
    | none => s.modFe die fun e => { e with cmd := word64 (q * 2 ^ 8 + cmd) }

/-- A new BINAGE holds for every bin: whether it is AGED follows its age again (R31, R35). -/
def Ctx.setBinage (now n : Nat) (c : Ctx) : Ctx :=
  { c with
    regs := { c.regs with binage := n }
    bins := c.bins.map fun e => (e.1, { e.2 with state := binStateOf e.2.threads.length (now - e.2.since) n }) }

/-- The effect of a write to a RW register. -/
def State.csrStore (s : State) (k x a : Nat) (v : Word) : State :=
  let y := if x == 4 then (s.core k).sel.ctxsel else x
  if a == 0x010 then s.modCtx k y (·.setBinage s.now (clampNat 8 4096 v.toNat))
  else if a == 0x016 then s.modCtx k y fun c => { c with regs := { c.regs with fpctl := v &&& 0x3FFF#64 } }
  else if a == 0x140 then s.modPartOf k fun p => { p with logBase := v &&& 0x000FFFFFFFFFFFE0#64 }
  else if a == 0x141 then s.modPartOf k fun p => { p with logCtl := ringCtl p.logCtl v }
  else if a == 0x143 then s.modPartOf k fun p => { p with trapBase := v &&& 0x000FFFFFFFFFFFC0#64 }
  else if a == 0x144 then
    let s := s.modPartOf k fun p => { p with trapCtl := ringCtl p.trapCtl v }
    let waiting := s.cores.filter fun e => !e.2.recs.isEmpty
    waiting.foldl (fun s e => s.schedule s.now (.trapRecordDelivery e.1)) s
  else if a == 0x150 then s.modCtx k y fun c => { c with regs := { c.regs with mmu := v &&& 0x000FFFFFFFFF0FFF#64 } }
  else if a == 0x152 then s.modPartOf k fun p =>
    { p with lease := clampNat 16 4096 v.toNat, leaseFrom := s.gtc + 1, leaseWas := p.leaseAt s.gtc }
  else if a == 0x160 then s.modFe (dieOf k) fun e => { e with base := v &&& 0x000FFFFFFFFFC000#64 }
  else if a == 0x161 then s.writeFeqCmd (dieOf k) v
  else if a == 0x170 then
    let usr : BitVec 2 := if s.life == .manufacture then v.extractLsb' 0 2 &&& 2#2 else (s.core k).sel.brmode &&& 2#2
    s.modCore k fun c => { c with sel := { c.sel with brmode := usr ||| (v.extractLsb' 0 2 &&& 1#2) } }
  else if a == 0x171 then s.modCore k fun c => { c with sel := { c.sel with ctxsel := (v.extractLsb' 0 3).toNat } }
  else s

/-- The traps of an access of address a, in every lane of ACTIVE (R300, R254). -/
def State.csrTraps (s : State) (o : Op) (a : Nat) (write : Bool) (v : Word) : List (Nat × Trap) :=
  let fw := s.isFw
  let y := if fw then s.home.sel.ctxsel else s.myCtxNo
  let bad :=
    match csrKind a with
    | .none => true
    | .ro | .zero => write
    | .rw => write && (
        (y == 4 && csrOfCtx a && a != 0x150) ||
        (a == 0x150 && y != 4 && v.extractLsb' 0 12 == 0#12) ||
        (a == 0x171 && 4 < (v.extractLsb' 0 3).toNat))
  if 0x100 ≤ a && !fw then (s.active o).map fun e => (e.2, ⟨.priv, 0, a⟩)
  else if bad then s.allTrap o .illegalOp
  else []

/-- CSRRD (R326). -/
def execCsrrd (o : Op) (s : State) : Host.Outcome State Fault Refusal :=
  let a := (o.j.extractLsb' 18 12).toNat
  let d := o.dest.toNat
  let ok := o.legalJ && o.j.extractLsb' 0 18 == 0#18
  let y := if s.isFw then s.home.sel.ctxsel else s.myCtxNo
  let first := s.srcTraps o (ok && destOk o.slot d 1) []
  .next (runOp o.slot (first ++ (if first.isEmpty then s.csrTraps o a false 0 else []) ++ s.copyTraps o d 1)
    (fun s => s.land o .reg d 1 4 (s.perLane o fun _ t => [word64 (s.csrValue s.myCore s.myCtxNo y t a)]) 0 [] []) s)

/-- CSRWR: the value of the highest lane of ACTIVE, from the context's next bundle (R327). -/
def execCsrwr (o : Op) (s : State) : Host.Outcome State Fault Refusal :=
  let a := (o.j.extractLsb' 18 12).toNat
  let sel := (o.j.extractLsb' 0 10).toNat
  let ok := o.legalJ && o.j.extractLsb' 10 8 == 0#8 && o.dest == 0#10 && sel != 0x1F3
  match s.top o with
  | none => .next s
  | some e =>
    let v := s.word o e.1 e.2 sel
    let first := s.srcTraps o ok [(sel, 1)]
    .next (runOp o.slot (first ++ if first.isEmpty then s.csrTraps o a true v else [])
      (fun s => s.modMe fun c => { c with csrLate := c.csrLate ++ [(a, v)] }) s)

/-- Some thread of a context stands in the delay of a taken BRN. -/
def Ctx.inDelay (c : Ctx) : Bool :=
  (c.group.bind (·.delay)).isSome || c.bins.any (·.2.key.pend.isSome) || c.overflow.any (·.1.pend.isSome)

/-- A write of BRMODE affects a context that stands in the delay of a taken BRN: the firmware slot, and the user contexts too where
the write of USR is honoured (R302). -/
def State.brmodeHeld (s : State) (k : Nat) : Bool :=
  (s.core k).ctxs.any fun e => (e.1 == 4 || s.life == .manufacture) && e.2.inDelay

/-- The writes of a context's CSRWR take effect; one to BRMODE waits for the contexts that it affects (R302, R327). -/
def State.applyLate (s : State) (k x : Nat) : State :=
  let c := s.ctx k x
  let busy := s.brmodeHeld k
  let now := c.csrLate.filter fun e => !(busy && e.1 == 0x170)
  let later := c.csrLate.filter fun e => busy && e.1 == 0x170
  let s := s.modCtx k x fun c => { c with csrLate := later }
  now.foldl (fun s e => s.csrStore k x e.1 e.2) s

end Sys2Proof.Machine
end

