-- ==== Sys2Proof/Machine/Fetch.lean ====
section
/-! DEFINITION. Fetch of groups (R293), the stub tables (R115), translation requests (R117), and the moves of threads from
one translation to another. -/

namespace Sys2Proof.Machine

/-! ### Groups -/

/-- The bundles of the group that starts at an offset, each with its offset, and the offset after the group; none when
the words end first or a header is refused (R293). At most eight bundles have disjoint slots. -/
def fetchGroup : Nat → Nat → List W32 → List (Nat × Bundle) → Option (List (Nat × Bundle) × Nat)
  | 0, _, _, _ => none
  | n + 1, off, ws, acc =>
    match decodeBundle ws with
    | .ok (b, r) =>
      if b.hdr.stop then some (acc ++ [(off, b)], off + b.size)
      else fetchGroup n (off + b.size) r (acc ++ [(off, b)])
    | .error _ => none

/-- The words from an offset to the end of its segment (R111, R293). -/
def Trans.from (t : Trans) (off : Nat) : List W32 :=
  match t.segs.find? fun e => e.1 ≤ off && off < e.1 + e.2 with
  | some (a, n) => (t.words.drop off).take (a + n - off)
  | none => t.words.drop off

def Trans.groupAt (t : Trans) (off : Nat) : Option (List (Nat × Bundle) × Nat) := fetchGroup 9 off (t.from off) []

/-- The group at a PC of a core. -/
def State.groupAt (s : State) (k : Nat) (pc : Pc) : Option (List (Nat × Bundle) × Nat) :=
  (s.trans k pc).bind fun t => t.groupAt pc.off

/-- The offsets at which a group starts: from each offset the next, up to the length (R296: branch targets). -/
def groupStarts : Nat → Nat → List W32 → List Nat
  | 0, _, _ => []
  | n + 1, off, ws => match fetchGroup 9 off ws [] with
    | some (_, nx) => off :: groupStarts n nx (ws.drop (nx - off))
    | none => [off]


/-- The offset of a region entry in a translation (R113, R412). -/
def Trans.entryAt (t : Trans) (block inst : Nat) : Option Nat :=
  (t.pmap.find? fun e => e.entry && e.block == block && e.inst == inst).map (·.off)

/-- Where a launch or a CALL enters: the first bundle of block 0 (R92). -/
def Trans.start (t : Trans) : Nat := (t.entryAt 0 0).getD 0

/-- A bundle holds the op of the CTL slot with the given opcode. -/
def holdsCtl (opc : Nat) (ws : List W32) : Bool :=
  match decodeBundle ws with
  | .ok (b, _) => b.ops.any fun p => p.1 == 7 && opcodeOf p.2 == opc
  | .error _ => false

/-- The point of a CALL's defining position: the group after the CALL's (R116). -/
def Trans.returnAt (t : Trans) (block inst : Nat) : Option Nat :=
  ((t.attr.find? fun e => e.2 == (block, inst) && holdsCtl 0x43 (t.words.drop e.1)).bind fun e => t.groupAt e.1).map (·.2)

/-! ### Stub tables (R115) -/

def Cluster.stub (c : Cluster) (key : TKey) : Option Stub := c.stubs.find? fun e => e.key == key

def State.stub (s : State) (c : Nat) (key : TKey) : Option Stub := (s.cluster c).stub key

/-- Sets the stub of a key, at the end of the table when it is new. -/
def State.setStub (s : State) (c : Nat) (st : Stub) : State :=
  s.modCluster c fun cl => { cl with
    stubs := if (cl.stub st.key).isSome then cl.stubs.map fun e => if e.key == st.key then st else e
      else cl.stubs ++ [st] }

def State.dropStub (s : State) (c : Nat) (key : TKey) : State :=
  s.modCluster c fun cl => { cl with stubs := cl.stubs.filter fun e => e.key != key }

/-- The stub leads to a translation. -/
def Stub.leadsTo (e : Stub) (tr : Nat) : Bool :=
  match e.state with
  | .present n _ => n == tr
  | .translating => false

/-- A change of the stub that leads to a translation. -/
def State.modStub (s : State) (c tr : Nat) (f : Stub → Stub) : State :=
  s.modCluster c fun cl => { cl with stubs := cl.stubs.map fun e => if e.leadsTo tr then f e else e }

/-- A thread enters a translation: its pin and the tick of the entry (R115). -/
def State.enterTr (s : State) (c tr : Nat) : State := s.modStub c tr fun e => { e with pins := e.pins + 1, last := s.gtc }

/-- A thread leaves a translation (R115). -/
def State.leaveTr (s : State) (c tr : Nat) : State := s.modStub c tr fun e => { e with pins := e.pins - 1 }

/-- A thread goes to a translation: it subtracts its pin from the one it leaves and adds it to the one it enters (R115). -/
def State.goToTr (s : State) (k x t tr : Nat) : State :=
  let old := ((s.ctx k x).thread t).inTr
  if old == tr then s
  else ((s.leaveTr (clusterOf k) old).enterTr (clusterOf k) tr).modThread k x t fun th => { th with inTr := tr }

/-- Threads whose PC has come to lie in another translation enter it (R115, R412). -/
def State.follow (s : State) (k x : Nat) (ts : List Nat) : State :=
  ts.foldl (fun s t =>
    let c := s.ctx k x
    if (c.thread t).place == .ended then s else s.goToTr k x t (c.posOf t).pc.tr) s

/-- What a key's stub answers to an entry. -/
inductive StubAnswer where
  | present (tr : Nat) (t : Trans)
  | waits
  | failed (reason : Nat)
deriving DecidableEq, Repr

/-- Asks for a key: an ABSENT stub becomes TRANSLATING and the tron gets the request, and the context joins the waiters of a
stub that is TRANSLATING (R117, R121); a context whose wait has ended in a failure gets that (R120). `asked` says where the
asking thread's budget came from. -/
def State.askStub (s : State) (k x : Nat) (key : TKey) (asked : Nat) : StubAnswer × State :=
  let c := clusterOf k
  match (s.ctx k x).failed.find? fun f => f.1 == key with
  | some f => (.failed f.2, s)
  | none => match s.stub c key with
    | some st => match st.state with
      | .present tr _ => match tget (s.cluster c).trans tr with
        | some t => (.present tr t, s)
        | none => (.waits, s)
      | .translating => (.waits, if st.waiters.contains (k, x) then s else s.setStub c { st with waiters := st.waiters ++ [(k, x)] })
    | none => (.waits, (s.setStub c ⟨key, .translating, 0, 0, [(k, x)], asked⟩).schedule s.now (.translateRequest c k x key))

/-- A context takes the failure of a translation (R120). -/
def State.takeFailure (s : State) (k x : Nat) (key : TKey) : State :=
  s.modCtx k x fun c => { c with failed := c.failed.filter fun f => f.1 != key }

/-- A context that is EMPTY waits for no stub. -/
def State.forgetWaits (s : State) (k x : Nat) : State :=
  s.modCluster (clusterOf k) fun cl => { cl with
    stubs := cl.stubs.map fun e => { e with waiters := e.waiters.filter (· != (k, x)) } }

/-! ### PCs that move to other translations -/

def Pending.mapPc (f : Pc → Pc) (p : Pending) : Pending := { p with target := f p.target }

def BinKey.mapPc (f : Pc → Pc) (k : BinKey) : BinKey := ⟨f k.pc, k.pend.map (·.mapPc f)⟩

def TrapHold.mapPc (f : Pc → Pc) (h : TrapHold) : TrapHold := { h with at_ := f h.at_, stop := h.stop.mapPc f }

def Thread.mapPc (f : Pc → Pc) (t : Thread) : Thread :=
  { t with
    pend := t.pend.map (·.mapPc f), resume := t.resume.mapPc f, claim := t.claim.map fun c => (c.1, c.2.1, f c.2.2)
    trap := t.trap.map (·.mapPc f), fault := t.fault.map fun h => { h with at_ := f h.at_ }
    skip := t.skip.map fun k => (f k.1, k.2) }

def Group.mapPc (f : Pc → Pc) (g : Group) : Group :=
  { g with
    pc := f g.pc, jump := g.jump.map f
    delay := g.delay.map fun d => { d with taken := d.taken.map fun e => (e.1, f e.2) } }

/-- Every native PC that a context keeps. -/
def Ctx.mapPc (f : Pc → Pc) (c : Ctx) : Ctx :=
  { c with
    threads := c.threads.map fun e => (e.1, e.2.mapPc f)
    bins := c.bins.map fun e => (e.1, { e.2 with key := e.2.key.mapPc f })
    overflow := c.overflow.map fun e => (e.1.mapPc f, e.2)
    group := c.group.map (·.mapPc f)
    inflight := c.inflight.map fun l => { l with at_ := f l.at_ }
    shadows := c.shadows.map fun h => { h with entry := { h.entry with at_ := f h.entry.at_ } }
    late := c.late.map fun l => { l with at_ := f l.at_ }
    regs := { c.regs with bregs := c.regs.bregs.map fun b => (b.1, { b.2 with target := b.2.target.map f }) } }

/-! ### Starts (R28, R115) -/

/-- PCs of one translation number become PCs of another. -/
def renumber (from_ to_ : Nat) (pc : Pc) : Pc := if pc.tr == from_ then { pc with tr := to_ } else pc

/-- The threads of a start that wait at their entry's stub go to its translation. -/
def State.enterEntry (s : State) (k x tr : Nat) (t : Trans) : State :=
  let c := s.ctx k x
  let off := (t.entryAt ((c.entry.map (·.2)).getD 0) 0).getD 0
  let mine := c.live.filter fun u => (c.posOf u).pc.tr == 0
  let s1 := s.modCtx k x fun c => c.mapPc fun pc => if pc.tr = 0 then ⟨tr, off⟩ else pc
  s1.follow k x mine

/-- The key that an issue group waits to enter: that of a start, or one that the cluster lacks (R115, R121). -/
def State.wantedKey (s : State) (k x tr : Nat) : Option TKey :=
  if tr = 0 then (s.ctx k x).entry.map (·.1)
  else if (s.trans k ⟨tr, 0⟩).isSome then none else tget (s.ctx k x).lacks tr

/-- An issue group at a stub goes through it, or asks for the translation. -/
def State.passEntry (s : State) (k x tr : Nat) : State :=
  match s.wantedKey k x tr with
  | none => s
  | some key => match s.askStub k x key 0 with
    | (.present n t, s1) =>
      if tr = 0 then s1.enterEntry k x n t
      else
        let s2 := s1.modCtx k x fun c => { c.mapPc (renumber tr n) with lacks := tdel c.lacks tr }
        s2.follow k x (s2.ctx k x).live
    | (_, s1) => s1

/-- The failure that a context's wait for its entry has ended in: key and REASON (R120). -/
def State.entryFailure (s : State) (k x tr : Nat) : Option (TKey × Nat) :=
  (s.wantedKey k x tr).bind fun key => (s.ctx k x).failed.find? fun f => f.1 == key

/-- An issue group waits for the translation that it is to enter. -/
def State.entryWaits (s : State) (k x tr : Nat) : Bool := (s.wantedKey k x tr).isSome && (s.entryFailure k x tr).isNone

/-- Bytes into memory by an access that names no key, as one write of each line (R284). -/
def State.putCells (s : State) (bs : List (Nat × Byte)) : State :=
  (nodup (bs.map (·.1 / 128))).foldl (fun s l =>
    s.homeArrive l { bytes := bs.filter fun b => b.1 / 128 == l, key := s.hwKey (128 * l), owners := [] }) s

/-- Words into memory by an access that names no key. -/
def State.putWords (s : State) (pa : Nat) (ws : List Word) : State :=
  s.putCells (bytesAt pa (ws.flatMap fun w => natToBytes 8 w.toNat))

/-! ### The code heap (R112, R114, R265) -/

/-- The words of an entry of the point map (R112). -/
def PEntry.image (e : PEntry) : List Nat :=
  let flag (b : Bool) (n : Nat) : Nat := if b then n else 0
  [e.off * 2 ^ 8 + flag e.entry 8 + flag e.edge 4 + flag e.traps 2 + flag e.q 1, e.block % 2 ^ 16 * 2 ^ 16 + e.inst % 2 ^ 16,
    e.locs.length * 2 ^ 16 + e.ref % 2 ^ 16] ++ e.locs.map fun l => l.1 * 2 ^ 30 + l.2.1 % 2 ^ 16 * 2 ^ 14 + l.2.2 % 2 ^ 14

/-- The words of the point map of a translation, TPV 1 (R112, R91). -/
def Trans.mapImage (t : Trans) (wide : Bool) : List Nat :=
  [t.key.func * 2 ^ 16 + t.key.region, t.key.budget * 2 ^ 24 + (if wide then 2 else 1) * 2 ^ 22 + 2 ^ 14 + t.frame, t.pmap.length, 0] ++
    t.pmap.flatMap PEntry.image

/-- The bytes of a translation in the heap: its words, then its point map, little-endian (R4) (DESIGN CHOICE, log 60). -/
def Trans.image (t : Trans) (wide : Bool) : List Byte :=
  (t.words.map (·.toNat) ++ t.mapImage wide).flatMap (natToBytes 4)

/-- The number of bytes of a translation in the heap. -/
def Trans.heapBytes (t : Trans) : Nat :=
  4 * t.words.length + 16 + sumNat (t.pmap.map fun e => 12 + 4 * e.locs.length)

/-- The share of a pillar in the code heap of its cluster. -/
def heapShare : Nat := 0x40_0000

/-- The present pillars of a cluster, whose shares make up its code heap (R114). -/
def State.heapPillars (s : State) (c : Nat) : List Nat := ((List.range 12).map (12 * c + ·)).filter s.presentPillar

/-- The code heap of a cluster: 4 MiB for each present pillar (R114). -/
def State.heapCap (s : State) (c : Nat) : Nat := (s.heapPillars c).length * heapShare

/-- The address of a byte of the heap: the shares follow one another in the order of their pillars (DESIGN CHOICE, log 60). -/
def heapAddr (ps : List Nat) (h : Nat) : Nat := (ps[h / heapShare]?).getD 0 * 2 ^ 30 + sysBase + h % heapShare

/-- The place in the heap of an address. -/
def heapOffset (ps : List Nat) (pa : Nat) : Nat := ((ps.findIdx? (· == pa / 2 ^ 30)).getD 0) * heapShare + (pa % 2 ^ 30 - sysBase)

def Cluster.heapUsed (cl : Cluster) : Nat := sumNat (cl.trans.map fun t => t.2.heapBytes)

/-- What lies in the heap: place and length. -/
def Cluster.heapSpans (cl : Cluster) (ps : List Nat) : List (Nat × Nat) :=
  cl.stubs.filterMap fun e => match e.state with
    | .present tr pa => some (heapOffset ps pa, ((tget cl.trans tr).map Trans.heapBytes).getD 0)
    | .translating => none

/-- The lowest place at which n bytes fit. -/
def heapFit (spans : List (Nat × Nat)) (cap n : Nat) : Option Nat :=
  let ok (h : Nat) : Bool := h + n ≤ cap && spans.all fun e => h + n ≤ e.1 || e.1 + e.2 ≤ h
  (sortBy id ((0 :: spans.map fun e => e.1 + e.2).filter ok)).head?

/-- A translation is written at a place of the heap. -/
def State.putTrans (s : State) (c h : Nat) (t : Trans) : State :=
  s.putCells ((t.image (isWide (12 * c))).zipIdx.map fun b => (heapAddr (s.heapPillars c) (h + b.2), b.1))

/-- The translations of the heap move together from its start, in the order of their places (R121) (DESIGN CHOICE, log 60). -/
def State.compact (s : State) (c : Nat) : State :=
  let ps := s.heapPillars c
  let place (e : Stub) : Nat := match e.state with
    | .present _ pa => heapOffset ps pa
    | .translating => 0
  ((sortBy place ((s.cluster c).stubs)).foldl (fun (acc : Nat × State) e => match e.state with
    | .present tr _ => match tget (s.cluster c).trans tr with
      | some t => (acc.1 + t.heapBytes,
          (acc.2.putTrans c acc.1 t).modStub c tr fun e => { e with state := .present tr (heapAddr ps acc.1) })
      | none => acc
    | .translating => acc) (0, s)).2

/-- The capacity of the on-die translation cache (R114). -/
def onDieCap : Nat := 0x40_0000

/-- A translation moves into the on-die cache; the oldest leave it until it fits (DESIGN CHOICE, log 10). -/
def Cluster.cacheCode (cl : Cluster) (tr : Nat) : Cluster :=
  let size (n : Nat) : Nat := ((tget cl.trans n).map Trans.heapBytes).getD 0
  let all := (cl.onDie.filter (· != tr)) ++ [tr]
  { cl with onDie := (List.range all.length).foldl (fun l _ => if onDieCap < sumNat (l.map size) then l.drop 1 else l) all }

/-! ### The translation log (R117, R118) -/

/-- A record of a ring at a physical base: written where HEAD points, dropped when the ring is full. The answer is the
control word after it, none when the record found no room. -/
def ringPush (ctl : Word) : Option (Nat × Word) :=
  let size := (ctl.extractLsb' 32 16).toNat
  let head := (ctl.extractLsb' 16 16).toNat
  let tail := (ctl.extractLsb' 0 16).toNat
  if size = 0 || (head + 1) % size == tail % size then none
  else some (head, (ctl &&& 0xFFFFFFFF0000FFFF#64) ||| word64 ((head + 1) % size * 2 ^ 16))

/-- A translation event: its counter and its log record (R117, R118). The 2-bit CTX of a request of the firmware slot, number 4, is 0
(DESIGN CHOICE, log 81). -/
def State.logTr (s : State) (c k x event reason : Nat) (key : TKey) (size : Nat) : State :=
  match s.partOfCluster c with
  | none => s
  | some (i, p) =>
    let cls := if isWide (12 * c) then 2 else 1
    let p1 := { p with trcnt := tmod p.trcnt (event - 1) 0 fun n => (n + 1) % 2 ^ 48 }
    let evict := event == 2
    let words : List Word :=
      [ word64 s.gtc,
        word64 (event * 2 ^ 56 + reason * 2 ^ 48 + key.budget * 2 ^ 40 + cls * 2 ^ 38 + dieOf (12 * c) * 2 ^ 36 +
          clusterOnDie (12 * c) * 2 ^ 32 + (if evict then 0 else posOf k * 2 ^ 28 + x % 4 * 2 ^ 26) + key.region),
        word64 (key.obj * 2 ^ 32 + key.func),
        word64 (size * 2 ^ 32) ]
    match ringPush p.logCtl with
    | some (h, ctl) => ({ s with parts := tset s.parts i { p1 with logCtl := ctl } }).putWords (p.logBase.toNat + 32 * h) words
    | none =>
      let on := (p.logCtl.extractLsb' 32 16).toNat != 0
      { s with parts := tset s.parts i { p1 with logDrop := if on then (p.logDrop + 1) % 2 ^ 48 else p.logDrop } }

/-! ### Answers (Host.Outcome) -/

/-- What the meaning of an instruction answers. -/
abbrev Answer := Host.Outcome State Fault Refusal

/-- Goes on from a next state; stops stay. -/
def Answer.andThen (r : Answer) (f : State → Answer) : Answer :=
  match r with
  | .next s => f s
  | .fault x => .fault x
  | .refused x => .refused x

/-- The state of an answer, or the given one when the machine has stopped. -/
def Answer.stateOr (r : Answer) (s : State) : State :=
  match r with
  | .next s' => s'
  | _ => s

end Sys2Proof.Machine
end

