-- ==== Sys2Proof/Machine/Overlay.lean ====
section
/-! DEFINITION. Instruction memory (R252): resident translations, the overlay window of a context, and the blocks that
stream into it. -/

namespace Sys2Proof.Machine

/-- The words of the resident instruction memory (R122: 128 KiB). -/
def residentWords : Nat := 32768

/-- The segment of an offset. -/
def Trans.segOf (t : Trans) (off : Nat) : Nat :=
  (t.segs.findIdx? fun e => e.1 ≤ off && off < e.1 + e.2).getD 0

/-- The 1 KiB block of an offset: 32 × segment + block in the segment. -/
def Trans.blockOf (t : Trans) (off : Nat) : Nat :=
  let sg := t.segOf off
  32 * sg + (off - ((t.segs[sg]?).getD (0, 0)).1) / 256

/-- The blocks of a segment. -/
def Trans.blocks (t : Trans) (sg : Nat) : Nat := ((((t.segs[sg]?).getD (0, 0)).2) + 255) / 256

/-- The code at a PC is in instruction memory (R252). -/
def State.codeHere (s : State) (k x : Nat) (pc : Pc) : Bool :=
  (s.core k).resident.contains pc.tr ||
    match s.trans k pc with
    | some t => (s.ctx k x).window.contains (pc.tr, t.blockOf pc.off)
    | none => true

/-- The translations that threads of a core stand in. -/
def State.pinnedOn (s : State) (k : Nat) : List Nat :=
  nodup ((s.core k).ctxs.flatMap fun e => e.2.live.map fun t => (e.2.posOf t).pc.tr)

/-- The words of a translation of a core's cluster. -/
def State.trWords (s : State) (k tr : Nat) : Nat := ((s.trans k ⟨tr, 0⟩).map (·.words.length)).getD 0

/-- A translation fits the resident memory beside those that are pinned on the core. -/
def State.fitsResident (s : State) (k tr : Nat) : Bool :=
  let held := ((s.core k).resident.filter fun r => r != tr && (s.pinnedOn k).contains r)
  sumNat (held.map (s.trWords k)) + s.trWords k tr ≤ residentWords

/-- Unpinned translations leave the resident memory, oldest first, until another fits. -/
def makeRoom (size : Nat → Nat) (pinned : List Nat) (need : Nat) : List Nat → List Nat
  | [] => []
  | r :: rs =>
    if sumNat ((r :: rs).map size) + need ≤ residentWords then r :: rs
    else if pinned.contains r then r :: makeRoom size pinned (need + size r) rs
    else makeRoom size pinned need rs

/-- A copy to instruction memory begins, at 64 B a cycle: a whole translation that fits the resident memory, else one block
of the window (DEDUCED, log 34). -/
def State.startFetch (s : State) (k x : Nat) (tr blk : Nat) : State :=
  let words := if s.fitsResident k tr then s.trWords k tr else 256
  ((s.modCtx k x fun c => { c with fetching := some (tr, blk) }).modCluster (clusterOf k) (·.cacheCode tr)).schedule (s.after (Nat.max 1 ((words + 15) / 16))) (.segmentArrival k x)

/-- A bundle whose block is not in instruction memory: the copy restarts at it, unless it is the block on its way (R252). -/
def State.fetchCode (s : State) (k x : Nat) (pc : Pc) : State :=
  match s.trans k pc with
  | none => s
  | some t =>
    let blk := t.blockOf pc.off
    if s.codeHere k x pc || (s.ctx k x).fetching == some (pc.tr, blk) then s
    else (s.modCtx k x fun c => { c with window := [], copyNext := false }).startFetch k x pc.tr blk

/-- The blocks of an overlay window by class (R252). -/
def windowBlocks (k : Nat) : Nat := windowWords k / 256

/-- The copy goes on in the background: the next block of the segment once issue has left the oldest block of a full window,
and the next segment from the issue of its predecessor's last bundle, which carries B. A copy that must wait its turn is still owed. -/
def State.pumpCode (s : State) (k x : Nat) (pc : Pc) (b : Bool) : State :=
  let c := s.ctx k x
  let owed := b || c.copyNext
  let s1 := if owed == c.copyNext then s else s.modCtx k x fun c => { c with copyNext := owed }
  match s.trans k pc, c.window.getLast? with
  | some t, some (tr, blk) =>
    let sg := blk / 32
    let more := blk % 32 + 1 < t.blocks sg
    let next := if more then some (blk + 1) else if owed && sg + 1 < t.segs.length then some (32 * (sg + 1)) else none
    let room := c.window.length < windowBlocks k || c.window.head? != some (tr, t.blockOf pc.off)
    match next with
    | some n =>
      if tr == pc.tr && c.fetching.isNone && room && !(s.core k).resident.contains tr then
        (s1.modCtx k x fun c => { c with copyNext := owed && more }).startFetch k x tr n
      else s1
    | none => s1
  | _, _ => s1

/-- SEGMENT_ARRIVAL (R252): the translation is resident when it fits, else the block joins the window; b registers whose
target has come complete their fetch (R362). -/
def execSegmentArrival (core ctx : Nat) (s : State) : Host.Outcome State Fault Refusal :=
  match (s.ctx core ctx).fetching with
  | none => .next s
  | some (tr, blk) =>
    let s1 := if s.fitsResident core tr then
        s.modCore core fun c => { c with
          resident := makeRoom (s.trWords core) (s.pinnedOn core) (s.trWords core tr) (c.resident.filter (· != tr)) ++ [tr] }
      else s.modCtx core ctx fun c =>
        let w := c.window ++ [(tr, blk)]
        { c with window := w.drop (w.length - windowBlocks core) }
    let s2 := s1.modCtx core ctx fun c => { c with fetching := none }
    let ready := (s2.ctx core ctx).regs.bregs.filter fun e =>
      e.2.readyAt.isNone && ((e.2.target.map fun pc => s2.codeHere core ctx pc).getD true)
    let s3 := s2.modCtx core ctx fun c => { c with regs := { c.regs with
      bregs := c.regs.bregs.map fun e => if ready.any (·.1 == e.1) then (e.1, { e.2 with readyAt := some s.now }) else e } }
    let s4 := ready.foldl (fun s e => s.schedule s.now (.pbrFetchComplete core ctx e.1)) s3
    .next (s4.pumpCode core ctx (s4.ctx core ctx).pc false)

end Sys2Proof.Machine
end

