-- ==== Sys2Proof/Machine/Rows.lean ====
section
/-! DEFINITION. The matrix side of a core: slots and tiles (R185-R189), tickets and banks (R193-R201), the instructions
OSCLAIM, OSREL, ROWACT, ROWCON, ROWCLS and the events of banks, slots and claims. -/

namespace Sys2Proof.Machine

/-! ### Banks (R193, R197) -/

/-- The region of a bank slot (R193): user, hole, spare or system. -/
inductive BankRegion where
  | user | hole | spare | system
deriving DecidableEq, Repr

def State.bankRegion (s : State) (k b spare : Nat) : BankRegion :=
  let n := s.bankCount k
  let ns := 2 + spareSize spare / 2 ^ 23
  if 126 ≤ b then .system
  else if 128 - ns ≤ b then .spare
  else if b < n - ns then .user
  else .hole

/-- A bank holds an open row: OPENING or OPEN, with no close pending: a closing row is no open row (R196). -/
def Bank.holdsRow (b : Bank) : Bool := (b.state == .opening || b.state == .opened) && b.closeAt.isNone

/-- An activation begins (R197). -/
def State.activate (s : State) (k b row : Nat) (tix : Option Nat) (stk : Bool) : State :=
  let a := s.gtc
  let s := s.modBank k b fun n => { n with
    state := .opening, since := a, row := row, tix := tix, stk := stk, waiting := none, stkWaits := false, closeAt := none, consumeEnd := 0 }
  (s.schedule (tickTime (a + 14)) (.rowOpen k b)).schedule (tickTime (a + 4000)) (.refreshClose k b)

/-- Bytes that the slices hold for a bank of a pillar (R200). -/
def State.deferredIn (s : State) (k b : Nat) : Bool :=
  s.phys.overlay.any fun e => e.1 / 2 ^ 30 == k && e.1 % 2 ^ 30 / 2 ^ 23 == b

/-- The accesses that a bank deferred are performed, and the bank is busy with them: writes reach the pillar, and reads land with the
latency of a pillar (R131, R197, R200). -/
def State.serveDeferred (s : State) (k b : Nat) : State :=
  let ids := (s.bank k b).deferred
  let s1 := (s.modPhys fun p => p.flush fun a => a / 2 ^ 30 == k && a % 2 ^ 30 / 2 ^ 23 == b).modBank k b fun e => { e with deferred := [] }
  (ids.foldl (fun s id => let (n, s) := s.draw1; s.answered id (s.after (280 + n % 81))) s1).busyBank k b

/-- The bank goes on after a close or an access: to the ROWACT that waits, else to IDLE (R197). STKCPY's activation waits
like any other. -/
def State.settleBank (s : State) (k b : Nat) : State :=
  let n := s.bank k b
  match n.waiting with
  | some tix => match tget (s.mtx k).tickets tix with
    | some t => s.activate k b t.row (some tix) false
    | none => s.modBank k b fun e => { e with state := .idle, waiting := none }
  | none =>
    if n.stkWaits then s.activate k b 0 none true
    else
      let s := s.modBank k b fun e => { e with state := .idle, tix := none, stk := false, closeAt := none }
      if n.deferred.isEmpty then s else s.serveDeferred k b

/-- The close of an open or opening row is set in motion (R197). -/
def State.closeRow (s : State) (k b : Nat) : State :=
  let n := s.bank k b
  if n.holdsRow then
    let at_ := Nat.max s.now (Nat.max (tickTime (n.since + 32)) n.consumeEnd)
    (s.modBank k b fun e => { e with closeAt := some at_, tix := none }).schedule at_ (.rowClose k b)
  else s

/-- A ticket dies (R199): its row closes, or its activation that has not begun is cancelled. -/
def State.killTicket (s : State) (k tix : Nat) : State :=
  match tget (s.mtx k).tickets tix with
  | none => s
  | some t =>
    let s := s.modMtx k fun m => { m with tickets := tdel m.tickets tix }
    let n := s.bank k t.bslot
    if n.waiting == some tix then s.modBank k t.bslot fun e => { e with waiting := none }
    else if n.tix == some tix then s.closeRow k t.bslot
    else s

/-- Every ticket of a context dies (R199). -/
def State.killTickets (s : State) (k x : Nat) : State :=
  (((s.mtx k).tickets.filter fun e => e.2.ctx == x).map (·.1)).foldl (fun s t => s.killTicket k t) s

/-! ### Slots and tiles (R185-R189) -/

def noSet : OsSet := ⟨[], []⟩

def OsSet.meets (a b : OsSet) : Bool := a.slots.any b.slots.contains || a.tiles.any b.tiles.contains

/-- The engine work on a core that has not ended. -/
def State.workOf (s : State) (k : Nat) : List Work := (s.mtx k).work.filter fun w => s.now < w.until_ || w.fault.isSome

/-- A conflict with earlier work (R189). -/
def State.conflicts (s : State) (k : Nat) (reads writes : OsSet) : Bool :=
  (s.workOf k).any fun w => writes.meets w.reads || writes.meets w.writes || reads.meets w.writes

def State.addWork (s : State) (k : Nat) (w : Work) : State :=
  (s.modMtx k fun m => { m with work := m.work ++ [w] }).schedule w.until_ (.engineWorkComplete k)

def State.holdsSlot (s : State) (k x n : Nat) : Bool := n < slotCount k && tget (s.mtx k).slotOwner n == some x
def State.holdsTile (s : State) (k x n : Nat) : Bool := n < tileCount k && tget (s.mtx k).tileOwner n == some x

/-- The set that a context holds. -/
def State.heldSet (s : State) (k x : Nat) : OsSet :=
  ⟨((s.mtx k).slotOwner.filter fun e => e.2 == x).map (·.1), ((s.mtx k).tileOwner.filter fun e => e.2 == x).map (·.1)⟩

/-- Frees slots and tiles: 128 cycles clear a slot, 1,024 a tile, and they read zero (R187). -/
def State.freeSet (s : State) (k : Nat) (set : OsSet) : State :=
  let s := s.modMtx k fun m => { m with
    slotOwner := m.slotOwner.filter fun e => !set.slots.contains e.1
    tileOwner := m.tileOwner.filter fun e => !set.tiles.contains e.1
    clearSlots := set.slots.foldl (fun t n => tset t n (s.after 128)) m.clearSlots
    clearTiles := set.tiles.foldl (fun t n => tset t n (s.after 1024)) m.clearTiles
    opmem := m.opmem.filter fun e => !set.slots.contains (e.1 / 16384)
    acc := m.acc.filter fun e => !set.tiles.contains (e.1 / 32768) }
  let s := if set.slots.isEmpty then s else s.schedule (s.after 128) (.slotClearComplete k)
  if set.tiles.isEmpty then s else s.schedule (s.after 1024) (.slotClearComplete k)

/-- The set word of OSCLAIM and OSREL (R360). -/
def osSetOf (w : Nat) : OsSet :=
  ⟨(List.range (w / 2 ^ 8 % 64)).map fun i => w % 32 + i, (List.range 4).filter fun i => w / 2 ^ 16 % 16 / 2 ^ i % 2 == 1⟩

def osWordOk (w : Nat) : Bool := w < 2 ^ 20 && w / 2 ^ 14 % 4 == 0 && w / 2 ^ 5 % 8 == 0 && w / 2 ^ 8 % 64 ≤ 32

/-- Every slot and tile of the set exists on the class of core k. -/
def setExists (k : Nat) (set : OsSet) : Bool := set.slots.all (· < slotCount k) && set.tiles.all (· < tileCount k)

/-- A set as sorted lists, for comparison. -/
def OsSet.sorted (a : OsSet) : OsSet := ⟨sortBy id (nodup a.slots), sortBy id (nodup a.tiles)⟩

/-- Operands of the row and slot ops: legality, and the word that a source gives the highest lane (R186). -/
def mtxTraps (opc : Nat) (o : Op) (s : State) (srcs : List Nat) : List (Nat × Trap) :=
  s.srcTraps o (o.legalV opc 0 && o.extOk false false false && o.ext.isNone) (srcs.map fun r => (r, 1))

/-- OSCLAIM: the request joins the order when its bundle first reaches issue, and the group waits for the grant (R186). -/
def execOsclaim (o : Op) (s : State) : Host.Outcome State Fault Refusal :=
  let k := s.myCore
  let x := s.myCtxNo
  match s.top o with
  | none => .next s
  | some e =>
    let w := s.scalar o e.1 e.2 o.selA 7
    let set := (osSetOf w).sorted
    let held := (s.heldSet k x).sorted
    let first := mtxTraps 0x0A4 o s [o.selA] ++ s.illegalUnless o (osWordOk w)
    let bad := (set == noSet) || !setExists k set || (held != noSet && held != set)
    let traps := first ++ if first.isEmpty && bad then s.allTrap o .opslotFault else []
    if traps.isEmpty && held != set then
      let joined := (s.mtx k).osClaims.any (·.ctx == x)
      let s := if joined then s else s.modMtx k fun m => { m with osClaims := m.osClaims ++ [⟨x, set⟩] }
      .next (s.holdFor .opslotWait)
    else .next (runOp o.slot traps id s)

/-- OSCLAIM_GRANT: the oldest request whose slots and tiles are all free takes them (R186). -/
def execOsclaimGrant (core : Nat) (s : State) : Host.Outcome State Fault Refusal :=
  let m := s.mtx core
  match m.osClaims with
  | c :: r =>
    let free := c.set.slots.all (fun n => (tget m.slotOwner n).isNone && (tget m.clearSlots n).isNone) &&
      c.set.tiles.all (fun n => (tget m.tileOwner n).isNone && (tget m.clearTiles n).isNone)
    if free then
      .next (s.modMtx core fun m => { m with
        osClaims := r
        slotOwner := c.set.slots.foldl (fun t n => tset t n c.ctx) m.slotOwner
        tileOwner := c.set.tiles.foldl (fun t n => tset t n c.ctx) m.tileOwner })
    else .next s
  | [] => .next s

/-- OSREL: waits for the work on its set, then frees it (R187). -/
def execOsrel (o : Op) (s : State) : Host.Outcome State Fault Refusal :=
  let k := s.myCore
  let x := s.myCtxNo
  match s.top o with
  | none => .next s
  | some e =>
    let w := s.scalar o e.1 e.2 o.selA 7
    let set := (osSetOf w).sorted
    let first := mtxTraps 0x0A6 o s [o.selA] ++ s.illegalUnless o (osWordOk w)
    let bad := !(set.slots.all (s.holdsSlot k x) && set.tiles.all (s.holdsTile k x))
    let traps := first ++ if first.isEmpty && bad then s.allTrap o .opslotFault else []
    if traps.isEmpty && s.conflicts k noSet set then .next (s.holdFor .opslotWait)
    else .next (runOp o.slot traps (fun s => s.freeSet k set) s)

/-- SLOT_CLEAR_COMPLETE: cleared slots and tiles become grantable (R187). -/
def execSlotClearComplete (core : Nat) (s : State) : Host.Outcome State Fault Refusal :=
  .next (s.modMtx core fun m => { m with
    clearSlots := m.clearSlots.filter fun e => s.now < e.2
    clearTiles := m.clearTiles.filter fun e => s.now < e.2 })

/-- ENGINE_WORK_COMPLETE: work that has ended leaves the order (R189). -/
def execEngineWorkComplete (core : Nat) (s : State) : Host.Outcome State Fault Refusal :=
  .next (s.modMtx core fun m => { m with work := m.work.filter fun w => s.now < w.until_ || w.fault.isSome })

/-! ### Tickets (R195, R196, R369) -/

/-- The row segment of a context (R194): pillar, key slot, first pillar offset, limit. -/
def Ctx.vPillar (c : Ctx) : Nat := ((tgetD c.regs.segBase 6 0).extractLsb' 50 10).toNat
def Ctx.vKey (c : Ctx) : Nat := ((tgetD c.regs.segBase 6 0).extractLsb' 41 9).toNat
def Ctx.vBase (c : Ctx) : Nat := ((tgetD c.regs.segBase 6 0).extractLsb' 11 19).toNat * 2048

/-- A ticket value. -/
def ticketWord (tix : Nat) (t : Ticket) : Word :=
  word64 (t.row * 2 ^ 44 + t.bslot * 2 ^ 37 + t.gen * 2 ^ 16 + tix)

/-- The live ticket entry that a value names for a context (R195). -/
def State.liveTicket (s : State) (k x : Nat) (w : Word) : Option (Nat × Ticket) :=
  let tix := (w.extractLsb' 0 4).toNat
  match tget (s.mtx k).tickets tix with
  | some t => if t.ctx = x && ticketWord tix t == w then some (tix, t) else none
  | none => none

/-- The lowest free ticket entry. -/
def Mtx.freeTix (m : Mtx) : Option Nat := firstNat (fun i => (tget m.tickets i).isNone) 16 0

/-- The TIX that ROW_BUSY reports for a bank (R254). -/
def Bank.busyTix (b : Bank) : Nat :=
  if b.stk || b.stkWaits then 0xFE else (b.waiting.or b.tix).getD 0xFF

/-- The first check of R196 that fails. `o` is the pillar offset of the row. -/
def State.rowactTrap (s : State) (k x : Nat) (p : Word) (force : Bool) : Option Trap :=
  let c := s.ctx k x
  let off := ptrOff p
  let o := c.vBase + off
  let b := o / 2 ^ 23 % 128
  let n := s.bank k b
  let spare := s.spareOf k
  let owner := n.tix.bind fun t => (tget (s.mtx k).tickets t).map (·.ctx)
  if ptrSeg p != 6 || ptrBad p then some ⟨.accessViolation, ptrSeg p, off⟩
  else if off % 2048 != 0 then some ⟨.misalign, 6, off⟩
  else if c.limit 6 ≤ off then some ⟨.segLimit, 6, off⟩
  else if c.vPillar != k || s.bankRegion k b spare != .user then some ⟨.accessViolation, 6, off⟩
  else if n.holdsRow && (n.stk || owner != some x) then some ⟨.rowBusy, n.busyTix, o⟩
  else if n.holdsRow && !force then some ⟨.rowBusy, n.busyTix, o⟩
  else if n.waiting.isSome || n.stkWaits then some ⟨.rowBusy, n.busyTix, o⟩
  else if ((s.mtx k).freeTix).isNone then some ⟨.rowBusy, 0xFF, o⟩
  else none

/-- ROWACT, with and without the force flag (R196, R197, R369). -/
def rowactOp (force : Bool) (o : Op) (s : State) : State :=
  let k := s.myCore
  let x := s.myCtxNo
  let d := o.dest.toNat
  match s.top o with
  | none => s.landZero o 1 2
  | some e =>
    let p := s.word o e.1 e.2 o.selA
    let first := s.srcTraps o (o.legalV 0x0A7 8 && o.ext.isNone && destOk o.slot d 1) [(o.selA, 1)] ++ s.copyTraps o d 1
    let tr := if first.isEmpty then (s.rowactTrap k x p force).toList else []
    runOp o.slot (first ++ tr.flatMap fun t => (s.active o).map fun a => (a.2, t))
      (fun s =>
        let off := s.me.vBase + ptrOff p
        let b := off / 2 ^ 23 % 128
        let n0 := s.bank k b
        let s1 := match (if n0.holdsRow then n0.tix else none) with
          | some t => s.killTicket k t
          | none => s
        match (s1.mtx k).freeTix with
        | none => s1
        | some tix =>
          let t : Ticket := ⟨x, (s1.mtx k).gen.toNat, b, off / 2048 % 4096⟩
          let s2 := s1.modMtx k fun m => { m with tickets := tset m.tickets tix t, gen := m.gen + 1 }
          let s3 := if (s2.bank k b).state == .idle then s2.activate k b t.row (some tix) false
            else s2.modBank k b fun e => { e with waiting := some tix }
          s3.land o .reg d 1 2 (s3.perLane o fun _ _ => [ticketWord tix t]) 0 [] []) s

/-- ROWACT. -/
def execRowact (o : Op) (s : State) : Host.Outcome State Fault Refusal := .next (rowactOp false o s)

/-- ROWACT with `.force`. -/
def execRowactForce (o : Op) (s : State) : Host.Outcome State Fault Refusal := .next (rowactOp true o s)

/-! ### ROWCON and ROWCLS (R198, R199, R370, R371) -/

/-- The fields of the control word of ROWCON: slot, slot offset, length, row offset. -/
def rowconFields (w : Nat) : Nat × Nat × Nat × Nat :=
  (w / 2 ^ 16 % 32, w / 2 ^ 9 % 128 * 128, (w / 2 ^ 4 % 32 + 1) * 128, w % 16 * 128)

/-- What stops a ROWCON before it looks at the bank: legality, the slot, the ticket (R198). -/
def State.rowconTrap (s : State) (k x : Nat) (tw : Word) (w : Nat) : Option Trap :=
  let (slot, soff, len, roff) := rowconFields w
  let rowOff := ((tw.extractLsb' 37 7).toNat * 4096 + (tw.extractLsb' 44 12).toNat) * 2048
  if 2 ^ 21 ≤ w || 2048 < roff + len || 16384 < soff + len then some ⟨.illegalOp, 0, 0⟩
  else if !s.holdsSlot k x slot then some ⟨.opslotFault, 0, 0⟩
  else if (s.liveTicket k x tw).isNone then some ⟨.rowLost, (tw.extractLsb' 0 4).toNat, rowOff⟩
  else none

/-- ROWCON. `wait` is W (R198). The copy decrypts the row under the KEY of V and takes len / 128 cycles of the bus. -/
def rowconOp (wait : Bool) (o : Op) (s : State) : State :=
  let k := s.myCore
  let x := s.myCtxNo
  match s.top o with
  | none => s
  | some e =>
    let tw := s.word o e.1 e.2 o.selA
    let w := s.scalar o e.1 e.2 o.selB 7
    let (slot, soff, len, roff) := rowconFields w
    let first := mtxTraps 0x0A8 o s [o.selA, o.selB]
    let tr := if first.isEmpty then (s.rowconTrap k x tw w).toList else []
    let bank := (s.liveTicket k x tw).map fun t => (t, s.bank k t.2.bslot)
    let isOpen := bank.any fun b => b.2.state == .opened && b.2.tix == some b.1.1
    let rowOff := (bank.map fun b => (b.1.2.bslot * 4096 + b.1.2.row) * 2048).getD 0
    let early : List Trap := if tr.isEmpty && first.isEmpty && !wait && !isOpen then
        [⟨.rowEarly, (tw.extractLsb' 0 4).toNat, rowOff⟩] else []
    let traps := first ++ (tr ++ early).flatMap fun t => (s.active o).map fun a => (a.2, t)
    if traps.isEmpty && !isOpen then s.holdFor .rowWait
    else if traps.isEmpty && s.now < (s.mtx k).busFree then s.holdFor .lookahead
    else if traps.isEmpty && s.conflicts k noSet ⟨[slot], []⟩ then s.holdFor .opslotWait
    else runOp o.slot traps (fun s =>
      let key := some (s.keyOf s.me.vKey)
      let pa := k * 2 ^ 30 + rowOff + roff
      let end_ := s.after (len / 128)
      let bytes := (List.range len).map fun i => s.phys.dramByte key (pa + i)
      let bad := (List.range (len / 128)).find? fun i => s.uncorrectable (pa + 128 * i)
      let s1 := s.modMtx k fun m => { m with opmem := cellPuts m.opmem (bytesAt (slot * 16384 + soff) bytes), busFree := end_ }
      let s2 := match bank with
        | some b => s1.modBank k b.1.2.bslot fun n => { n with consumeEnd := Nat.max n.consumeEnd end_ }
        | none => s1
      let s3 := s2.addWork k { ctx := x, reads := noSet, writes := ⟨[slot], []⟩, until_ := end_ }
      match bad with
      | some i => s3.modMe fun c => { c with late := c.late ++ [{ thread := e.2, trap := ⟨.memUncorrectable, 0, pa + 128 * i⟩, at_ := s.me.pc, dest := none, eng := false, tick := s.gtc }] }
      | none => s3) s

/-- ROWCON with W = 0. -/
def execRowcon (o : Op) (s : State) : Host.Outcome State Fault Refusal := .next (rowconOp false o s)

/-- ROWCON with W = 1. -/
def execRowconW (o : Op) (s : State) : Host.Outcome State Fault Refusal := .next (rowconOp true o s)

/-- ROWCLS: a live ticket dies at once (R199, R371). -/
def execRowcls (o : Op) (s : State) : Host.Outcome State Fault Refusal :=
  match s.top o with
  | none => .next s
  | some e =>
    let tw := s.word o e.1 e.2 o.selA
    .next (runOp o.slot (mtxTraps 0x0A9 o s [o.selA]) (fun s =>
      match s.liveTicket s.myCore s.myCtxNo tw with
      | some t => s.killTicket s.myCore t.1
      | none => s) s)

/-! ### The banks of STKCPY (R385) -/

/-- The bank slots that a range of pillar offsets touches. -/
def bankSpan (off len : Nat) : List Nat := (List.range 128).filter fun b => b * 2 ^ 23 < off + len && off < (b + 1) * 2 ^ 23

def StkJob.banks (j : StkJob) : List Nat := nodup (bankSpan j.src j.len ++ bankSpan j.dst j.len)

/-- The oldest STKCPY of a core takes its banks: it opens those that are idle and waits for the others. It holds one row a
bank (DESIGN CHOICE, log 24). -/
def State.stkBegin (s : State) (k : Nat) : State :=
  match (s.core k).eng.stk with
  | j :: _ =>
    j.banks.foldl (fun s b =>
      let n := s.bank k b
      if n.stk || n.stkWaits then s
      else if n.state == .idle then s.activate k b 0 none true
      else s.modBank k b fun e => { e with stkWaits := true }) s
  | [] => s

/-- The copy runs once all its banks are open, at 64 B a cycle of the fathom bus (R130, R385). -/
def State.stkReady (s : State) (k : Nat) : State :=
  match (s.core k).eng.stk with
  | j :: r =>
    if j.ends.isNone && j.banks.all fun b => (s.bank k b).stk && (s.bank k b).state == .opened then
      let ends := Nat.max s.now (s.mtx k).busFree + cycleLen * ((j.len + 63) / 64)
      ((s.modCore k fun c => { c with eng := { c.eng with stk := { j with ends := some ends } :: r } }).modMtx k fun m =>
        { m with busFree := ends }).schedule ends (.stkcpyComplete k)
    else s
  | [] => s

/-! ### Bank events (R197) -/

/-- BANK_ACCESS_COMPLETE: a BUSY bank ends its access; an ARMED one begins its activation. -/
def execBankAccessComplete (core slot : Nat) (s : State) : Host.Outcome State Fault Refusal :=
  if (s.bank core slot).state == .busy then .next (s.settleBank core slot) else .next s

/-- ROW_OPEN: at a + 14 ticks an OPENING bank is OPEN. -/
def execRowOpen (core slot : Nat) (s : State) : Host.Outcome State Fault Refusal :=
  let n := s.bank core slot
  if n.state == .opening && n.since + 14 ≤ s.gtc then .next ((s.modBank core slot fun e => { e with state := .opened }).stkReady core)
  else .next s

/-- REFRESH_CLOSE: at a + 4000 the ticket dies and the row closes, after the consume in progress. -/
def execRefreshClose (core slot : Nat) (s : State) : Host.Outcome State Fault Refusal :=
  let n := s.bank core slot
  if n.state == .opened && n.closeAt.isNone && n.since + 4000 ≤ s.gtc then
    let at_ := Nat.max s.now n.consumeEnd
    let s1 := match n.tix with
      | some t => s.modMtx core fun m => { m with tickets := tdel m.tickets t }
      | none => s
    .next ((s1.modBank core slot fun e => { e with closeAt := some at_, tix := none }).schedule at_ (.rowClose core slot))
  else .next s

/-- ROW_CLOSE: the close that was pending takes place, and tRP begins. -/
def execRowClose (core slot : Nat) (s : State) : Host.Outcome State Fault Refusal :=
  match (s.bank core slot).closeAt with
  | some t =>
    if t ≤ s.now then
      .next ((s.modBank core slot fun e =>
        { e with state := .precharge, closeAt := none, tix := none, stk := false, stkWaits := e.stkWaits || e.stk }).schedule
        (s.now + tickTime 14) (.prechargeEnd core slot))
    else .next s
  | none => .next s

/-- PRECHARGE_END: accesses deferred by the open row come first; then a ROWACT that waits, else the bank is IDLE. -/
def execPrechargeEnd (core slot : Nat) (s : State) : Host.Outcome State Fault Refusal :=
  if (s.bank core slot).state == .precharge then
    if s.deferredIn core slot || !(s.bank core slot).deferred.isEmpty then .next (s.serveDeferred core slot)
    else .next (s.settleBank core slot)
  else .next s

/-- BANK_REFRESH: a refresh of an IDLE bank makes it BUSY (R197). A fused bank is absent (R16). -/
def execBankRefresh (core slot : Nat) (s : State) : Host.Outcome State Fault Refusal :=
  if !s.presentPillar core || 128 ≤ slot || s.bankRegion core slot (s.spareOf core) == .hole then .fault .absentUnit
  else if (s.bank core slot).state == .idle then .next (s.busyBank core slot)
  else .next s

end Sys2Proof.Machine
end

