-- ==== Sys2Proof/Machine/Workgroup.lean ====
section
/-! DEFINITION. Threads of a workgroup: release and end of threads, barrier phases (R316, R317), register claims (R137,
R138), the end of a workgroup (R28, R171, R187, R250), and the LPF side of a function's regions (R92). -/

namespace Sys2Proof.Machine

/-! ### Functions of an object -/

/-- The LPF opcode of a header word. -/
def headOpc (ws : List W32) : Nat := ((ws.headD 0).extractLsb' 23 9).toNat

/-- REGREL and REGCLM end their region (R92). -/
def endsRegion (ws : List W32) : Bool := headOpc ws == 0x14D || headOpc ws == 0x14E

def LFunc.block (f : LFunc) (b : Nat) : LBlock := (f.blocks[b]?).getD ⟨[], (0, 0), []⟩

/-- The region that holds an instruction: the REGRELs and REGCLMs before it in layout order (R92). -/
def LFunc.regionAt (f : LFunc) (block inst : Nat) : Nat :=
  sumNat (((f.blocks.take block).map fun b => (b.insts.filter endsRegion).length)) +
    (((f.block block).insts.take inst).filter endsRegion).length

/-- The function that a translation holds. -/
def State.funcOf (s : State) (key : TKey) : Option LFunc := (tget s.objs key.obj).bind fun o => o.funcs[key.func]?

/-- The LPF instruction of a bundle. -/
def State.instAt (s : State) (k : Nat) (pc : Pc) : Option Lpf.Inst :=
  (s.trans k pc).bind fun t => (s.funcOf t.key).bind fun f =>
    let (b, i) := t.point pc.off
    (((f.block b).insts)[i]?).bind fun ws => match Lpf.decode ws with
      | .ok (n, _) => some n
      | .error _ => none

/-! ### Address spaces of front ends and agents -/

/-- The address space of an ASID in a partition, as seen from a core (R237, R249). -/
def State.spaceFor (s : State) (k part asid : Nat) : Space :=
  let p := tget s.parts part
  let root := (p.bind fun q => tget q.roots asid).getD 0
  ⟨k, word64 (root + asid), p⟩

/-- A 64-bit word of an address space after every write that has arrived; none when the access fails. A word of the host
window or of an uncorrectable line is free (DESIGN CHOICE, log 4). -/
def State.peek64 (s : State) (sp : Space) (va : Nat) : Option Word × State :=
  match s.physPiece sp va 8 .load with
  | (some p, s') =>
    if regionOf p.pa == .host || s'.uncorrectable p.pa then let (n, s2) := s'.draw1; (some (word64 n), s2)
    else (some (word64 (bytesToNat ((List.range 8).map fun i => s'.lastByteAt p.key (p.pa + i)))), s')
  | (none, s') => (none, s')

/-- A 64-bit store of an agent at its home slice; false when the access fails. -/
def State.poke64 (s : State) (sp : Space) (va : Nat) (w : Word) : Bool × State :=
  match s.physPiece sp va 8 .store with
  | (some p, s') => match regionOf p.pa with
    | .host => (true, s'.modHost fun h => { h with writes := h.writes ++ bytesAt p.pa (natToBytes 8 w.toNat) })
    | _ => (true, s'.homeArrive (p.pa / 128) { bytes := bytesAt p.pa (natToBytes 8 w.toNat), key := p.key, owners := [] })
  | (none, s') => (false, s')

/-- One atomic read-modify-write of an agent at a home slice. -/
def State.rmw64 (s : State) (sp : Space) (va : Nat) (f : Word → Word) : Option Word × State :=
  match s.peek64 sp va with
  | (some w, s') => (some w, (s'.poke64 sp va (f w)).2)
  | (none, s') => (none, s')

/-! ### Release of parked threads (R29) -/

/-- Releases threads: each is filed at its resume point in this cycle. -/
def State.releaseThreads (s : State) (k x : Nat) (ts : List Nat) : State :=
  s.modCtx k x fun c =>
    c.fileKeys s.now (ts.map fun t => (t, (c.thread t).resume))

/-- Takes a parked thread out of its park with a precise trap at the bundle where it parked. -/
def State.trapParked (s : State) (k x t : Nat) (tr : Trap) (at_ : BinKey) : State :=
  s.park k x t { trap := tr, late := false, at_ := at_.pc, stop := at_, dest := none }

/-! ### Barriers (R316, R317) -/

def Ctx.bar (c : Ctx) (id : Nat) : Bar := tgetD c.bars id {}

def Ctx.modBar (c : Ctx) (id : Nat) (f : Bar → Bar) : Ctx := { c with bars := tmod c.bars id {} f }

/-- The declaration of a barrier: mode and count (R80). -/
def State.barDecl (s : State) (c : Ctx) (id : Nat) : Option (Nat × Nat) :=
  (c.wg.bind fun w => tget s.objs w.obj).bind fun o => (o.bars.find? fun b => b.1 == id).map (·.2)

/-- The expected count E (R316) (DEDUCED, log 27). -/
def Ctx.expected (c : Ctx) (count : Nat) : Nat := if count = 0 then c.live.length else count

/-- The threads parked on a barrier. -/
def Ctx.parkedAt (c : Ctx) (id : Nat) : List Nat := (c.threads.filter fun e => e.2.place == .barrier id).map (·.1)

/-- The phase completes when the arrivals reach E: the counter advances and the parked threads are released (R316). -/
def State.barCheck (s : State) (k x id count : Nat) : State :=
  let c := s.ctx k x
  let b := c.bar id
  let e := c.expected count
  let parked := c.parkedAt id
  if b.arrived.isEmpty || b.arrived.length < e then
    -- the arrivals plus the threads still to come fall below E (R317)
    if count != 0 && (nodup (b.arrived ++ c.live)).length < e then
      parked.foldl (fun s t => s.trapParked k x t ⟨.barMisuse, id, 0⟩ { ((s.ctx k x).thread t).resume with
        pc := (((s.ctx k x).thread t).claim.map (·.2.2)).getD ((s.ctx k x).thread t).resume.pc }) s
    else s
  else
    let s := s.modCtx k x fun c => c.modBar id fun b => { b with
      phase := (b.phase + 1) % 2 ^ 16
      arrived := []
      owed := b.owed.filter fun t => !parked.contains t }
    s.releaseThreads k x parked

/-! ### Register claims (R137, R138) -/

/-- The threads of the sub-group of 2^lg slots that holds t. -/
def subGroup (t lg : Nat) : List Nat := (List.range (2 ^ lg)).map fun i => t / 2 ^ lg * 2 ^ lg + i

/-- A sub-group whose live threads have all parked becomes one claim, at the end of the order. -/
def State.formClaims (s : State) (k x : Nat) : State :=
  let c := s.ctx k x
  let waiting := c.threads.filterMap fun e => if e.2.place == .regclm then e.2.claim.map fun r => (e.1, r.1, r.2.1) else none
  waiting.foldl (fun s w =>
    let (t, n, lg) := w
    let members := (subGroup t lg).filter c.live.contains
    let claimed := (s.core k).claims.any fun r => r.ctx == x && r.threads.contains t
    if !claimed && members.head? == some t && members.all fun m => (c.thread m).place == .regclm then
      s.modCore k fun co => { co with claims := co.claims ++ [⟨x, members, n, members.length⟩] }
    else s) s

/-- REG_DEADLOCK: every live thread of the core's user contexts is parked and the oldest claim does not fit (R138). -/
def State.deadlockCheck (s : State) (k : Nat) : State :=
  let users := (s.core k).ctxs.filter fun e => e.1 < 4 && e.2.state == .active
  let parked (th : Thread) : Bool := match th.place with
    | .regclm | .tnest | .barrier _ | .ended => true
    | _ => false
  match (s.core k).claims with
  | c :: _ =>
    if s.poolFree k < c.n * c.live && users.all fun e => e.2.threads.all fun t => parked t.2 then
      let victims := users.flatMap fun e => (e.2.threads.filter fun t => t.2.place == .regclm).map fun t => (e.1, t.1, t.2)
      let s := s.modCore k fun co => { co with claims := [] }
      victims.foldl (fun s v =>
        let (n, _, pc) := v.2.2.claim.getD (0, 0, {})
        s.trapParked k v.1 v.2.1 ⟨.regDeadlock, 0, n⟩ ⟨pc, v.2.2.pend⟩) s
    else s
  | [] => s

/-- REGCLM_GRANT: the oldest claim takes its registers and its threads go on at the raised budget (R137). -/
def execRegclmGrant (core : Nat) (s : State) : Host.Outcome State Fault Refusal :=
  match (s.core core).claims with
  | c :: r =>
    if c.n * c.live ≤ s.poolFree core then
      let s := s.modCore core fun co => { co with claims := r, taken := co.taken + c.n * c.live }
      let s := c.threads.foldl (fun s t => s.modThread core c.ctx t fun th =>
        { th with budget := th.budget + c.n, budgetFrom := 2, claim := none }) s
      .next (s.releaseThreads core c.ctx c.threads)
    else .next s
  | [] => .next s

/-! ### The end of a workgroup -/

/-- The cohort-wide count of workgroups of a launch. -/
def Launch.total (l : Launch) : Nat := l.ncoh * l.rows * l.cols

/-- The home of a context's launch record. -/
def State.launchSpace (s : State) (k : Nat) (l : Launch) : Space := s.spaceFor k l.part l.asid

/-- A packet's work is done: the front end hears of it after a message of free length (R219; DESIGN CHOICE, log 4). -/
def State.report (s : State) (l : Launch) (value : Int) : State :=
  s.message (.packetComplete l.die l.queue l.packet value)

/-- A workgroup of a launch has gone: it adds 1 to DONE, and the addition that brings DONE to the total reports completion;
a launch that is ending completes with −4 when the last of its workgroups has gone (R250, R262). -/
def State.countFinish (s : State) (k ln : Nat) (founder : Bool) : State :=
  match tget s.launches ln with
  | none => s
  | some l =>
    let l := { l with live := l.live - 1 }
    let s := { s with launches := tset s.launches ln l }
    if l.ending then (if l.live = 0 then s.report l (-4) else s)
    else if founder then s
    else
      let (old, s) := s.rmw64 (s.launchSpace k l) (l.rec_ + 8) (· + 1)
      if old.map (·.toNat + 1) == some l.total then s.report l 0 else s

/-- The set bits of a target mask. -/
def maskBits (m : Nat) : List Nat := (List.range 12).filter fun i => m / 2 ^ i % 2 == 1

/-- Every member of a REDGRP has contributed or been dropped (R354). -/
def GroupUse.complete (u : GroupUse) : Bool :=
  (maskBits u.tmask).all fun lg => u.dropped.contains lg || u.issuers.any fun i => i.lg == lg && i.bytes.isSome

/-- A workgroup that finishes is left out of the REDGRPs to which it has not contributed (R354). -/
def State.leaveGroups (s : State) (cohort lg : Nat) : State :=
  match tget s.cohorts cohort with
  | none => s
  | some h => h.groups.foldl (fun s e =>
      let u := e.2
      if u.redgrp && (maskBits u.tmask).contains lg && !(u.issuers.any fun i => i.lg == lg) && !u.dropped.contains lg then
        let v := { u with dropped := u.dropped ++ [lg] }
        let s1 := { s with cohorts := tset s.cohorts cohort { ((tget s.cohorts cohort).getD h) with
          groups := tset ((tget s.cohorts cohort).getD h).groups e.1 v } }
        if v.complete then s1.message (.redgrpResult cohort e.1) else s1
      else s) s

/-- The workgroup of a context finishes: write-backs, tickets, slots, claims, inbox; the context is EMPTY (R28, R171, R187,
R199). Its transfers go on under their engines (R399). -/
def State.finishWg (s : State) (k x : Nat) : State :=
  let c := s.ctx k x
  match c.wg with
  | none => s
  | some w =>
    let s := s.writeBackAll k x 0
    let s := (s.killTickets k x).freeSet k (s.heldSet k x)
    let s := s.modMtx k fun m => { m with
      osClaims := m.osClaims.filter fun e => e.ctx != x, work := m.work.filter fun w => w.ctx != x || w.fault.isNone }
    let s := s.modCore k fun co => { co with
      claims := co.claims.filter fun e => e.ctx != x
      sel := { co.sel with
        holder := if co.sel.holder == some x then none else co.sel.holder
        unserved := tdel co.sel.unserved x
        boosted := co.sel.boosted.filter (· != x) } }
    let s := (s.modCtx k x fun _ => {}).forgetWaits k x
    let s := { s with cohorts := tmod s.cohorts w.cohort ⟨w.launch, 0, 0, 0, [], [], 0, 0, [], [], [], []⟩ fun h =>
      { h with doneCores := h.doneCores ++ [w.logical] } }
    (s.leaveGroups w.cohort w.logical).countFinish k w.launch w.founder

/-! ### The end of threads (R28, R331) -/

/-- What an ending thread gives back: its lane or bin, its registers, its pin (R115, R136). -/
def State.dropThread (s : State) (k x t : Nat) : State :=
  let c := s.ctx k x
  let th := c.thread t
  let s := s.leaveTr (clusterOf k) th.inTr
  let s := s.modCore k fun co => { co with taken := if x < 4 then co.taken - th.budget else co.taken }
  s.modCtx k x fun c => ((c.unfile s.now t).dropLanes [t]).modThread t fun _ => { place := .ended }

/-- Threads end; what waited on them is looked at again: barriers, TNEST, claims, the deadlock rule (R52, R137, R138, R316). A
workgroup whose last thread ends finishes in the next cycle (R28). -/
def State.endThreads (s : State) (k x : Nat) (ts : List Nat) : State :=
  match ts with
  | [] => s
  | _ :: _ =>
    let s := ts.foldl (fun s t => s.dropThread k x t) s
    if x == 4 then s
    else if (s.ctx k x).live.isEmpty then s.modCtx k x fun c => { c with finishAt := some (s.groupEnd k x) }
    else
      let c := s.ctx k x
      let ids := c.bars.map (·.1)
      let s := ids.foldl (fun s id =>
        let s := s.modCtx k x fun c => c.modBar id fun b => { b with arrived := b.arrived.filter fun t => !ts.contains t }
        s.barCheck k x id (((s.barDecl c id).map (·.2)).getD 0)) s
      let s := if ts.contains 0 then
          ((c.threads.filter fun e => e.2.place == .tnest).map (·.1)).foldl (fun s t =>
            let th := (s.ctx k x).thread t
            s.trapParked k x t ⟨.barMisuse, 0xFF, 0⟩ { th.resume with pc := (th.claim.map (·.2.2)).getD th.resume.pc }) s
        else s
      (s.formClaims k x).deadlockCheck k

/-- A thread that cannot end: a founder before its FREEZE (R53). -/
def Ctx.isBuilder (c : Ctx) (t : Nat) : Bool :=
  (c.building t).isSome

/-- EXIT and the RET of an entry function: the threads of ACTIVE end (R331, R368). -/
def endOp (ok : Bool) (o : Op) (s : State) : State :=
  let builders := (s.active o).filter fun e => s.me.isBuilder e.2
  runOp o.slot (s.illegalUnless o ok ++ if ok then builders.map fun e => (e.2, ⟨.illegalOp, 0, 0⟩) else [])
    (fun s => s.endThreads s.myCore s.myCtxNo ((s.active o).map (·.2))) s

/-- EXIT (R331). -/
def execExit (o : Op) (s : State) : Host.Outcome State Fault Refusal :=
  .next (endOp (o.legalJ && o.dest == 0#10 && o.j == 0#30) o s)

end Sys2Proof.Machine
end

