-- ==== Sys2Proof/Machine/Control.lean ====
section
/-! DEFINITION. Control flow: BRN, PBR, CALL, RET, BR, CBR, SWITCH, REFORM, YIELD, TRAP, BRK, SHAPE, and the parking
instructions BAR, BARTEST, REGREL, REGCLM, TNEST and FREEZE. -/

namespace Sys2Proof.Machine

/-! ### Where threads go on after a bundle (R29, R257) -/

/-- Where a thread of the group goes on after the bundle, with its pending branch. -/
def Group.keyAfter (g : Group) (t : Nat) : BinKey :=
  match g.pendOf t with
  | none => ⟨g.nextPc, none⟩
  | some p => if p.left ≤ 1 then ⟨p.target, none⟩ else ⟨g.nextPc, some { p with left := p.left - 1 }⟩

/-- Files threads of the group after its bundle: those of a taken branch first (R30, R257). -/
def Ctx.fileAfter (at_ : Nat) (g : Group) (ts : List Nat) (c : Ctx) : Ctx :=
  let (taken, rest) := ts.partition fun t => (g.pendOf t).isSome
  (c.fileKeys at_ (taken.map fun t => (t, g.keyAfter t))).fileKeys at_ (rest.map fun t => (t, g.keyAfter t))

/-- The two cycles before the first bundle of another activation or region (R324, R368, R412). -/
def farDelay : List Stall := [.lookahead, .lookahead]

/-- Threads leave the group for keys of their own, the others at the next bundle; a group that agrees goes on as one
(R29). `keys` gives each leaving thread its key. -/
def State.sendTo (s : State) (keys : List (Nat × BinKey)) : State :=
  let g := s.group
  let leavers := keys.map (·.1)
  let rest := g.threads.filter fun t => !leavers.contains t
  match keys with
  | [] => s
  | (_, k0) :: _ =>
    if rest.isEmpty && keys.all (fun e => e.2 == k0) && k0.pend.isNone then
      s.modMe fun c => { c with group := c.group.map fun g => { g with jump := some k0.pc } }
    else
      let at_ := s.groupEnd s.myCore s.myCtxNo
      s.modMe fun c => ((c.fileKeys at_ keys).fileAfter at_ g rest).noGroup

/-- A branch of threads to their targets, after two more groups when `delayed` (R320). -/
def State.branch (s : State) (taken : List (Nat × Pc)) (delayed : Bool) : State :=
  if taken.isEmpty then s
  else if delayed then s.modMe fun c => { c with group := c.group.map fun g => { g with delay := some ⟨taken, 3⟩ } }
  else s.sendTo (taken.map fun e => (e.1, ⟨e.2, none⟩))

/-! ### Entries into other translations (R115, R412) -/

/-- A thread with the translation that its key names. -/
structure Entry where
  t : Nat
  tr : Nat
  trans : Trans
deriving DecidableEq, Repr

/-- What the stubs answer for a list of threads with their keys. -/
structure Entries where
  ready : List Entry := []
  waiting : Bool := false
  failed : List (Nat × Nat × TKey) := []
deriving DecidableEq, Repr

def State.askAll (s : State) (asks : List (Nat × TKey)) : Entries × State :=
  asks.foldl (fun (acc : Entries × State) a =>
    match acc.2.askStub acc.2.myCore acc.2.myCtxNo a.2 (acc.2.me.thread a.1).budgetFrom with
    | (.present tr t, s') => ({ acc.1 with ready := acc.1.ready ++ [⟨a.1, tr, t⟩] }, s')
    | (.waits, s') => ({ acc.1 with waiting := true }, s')
    | (.failed r, s') => ({ acc.1 with failed := acc.1.failed ++ [(a.1, r, a.2)] }, s')) (({} : Entries), s)

/-- The traps of failed requests (R120). `site` gives the LPF point of a thread's request when it is not the bundle's own,
as the `addr` of the trap. -/
def Entries.traps (e : Entries) (site : Nat → Nat) : List (Nat × Trap) :=
  e.failed.map fun f => (f.1, ⟨.translationFault, f.2.1, site f.1⟩)

/-- The context takes the failures of its requests (R119, R120). -/
def State.takeFailures (s : State) (e : Entries) : State :=
  e.failed.foldl (fun s f => s.takeFailure s.myCore s.myCtxNo f.2.2) s

/-- The key of the translation that the issue group runs. -/
def State.hereKey (s : State) : TKey := ((s.trans s.myCore s.me.pc).map (·.key)).getD ⟨0, 0, 0, 0⟩

/-- A jump whose target lies in the same translation still waits the two cycles of a CALL or RET (R324, R368); one into
another translation gets them when the group moves on. -/
def State.farJump (s : State) (keys : List (Nat × BinKey)) : State :=
  let s1 := s.sendTo keys
  if keys.isEmpty then s else match (s1.me.group.bind (·.jump)) with
  | some pc => if pc.tr == s.me.pc.tr then s1.modMe fun c => { c with delays := c.delays ++ farDelay } else s1
  | none => s1

/-! ### BRN and PBR (R320, R362, R412) -/

/-- Whether the context uses the prepare-to-branch form (R302). -/
def State.prepForm (s : State) (k x : Nat) : Bool :=
  (s.core k).sel.brmode.getLsbD (if x == 4 then 0 else 1)

/-- The signed word displacement of a J layout (R296). -/
def dispOf (o : Op) : Int := signed 30 o.j.toNat

/-- The target of a displacement when it starts a group of the translation (R296). -/
def State.targetAt (s : State) (off : Int) : Option Pc :=
  let pc := s.me.pc
  match s.trans s.myCore pc with
  | some t => if 0 ≤ off && (groupStarts t.words.length 0 t.words).contains off.toNat then some { pc with off := off.toNat } else none
  | none => none

/-- The target that a displacement of this bundle names. -/
def State.target (s : State) (o : Op) : Option Pc := s.targetAt ((s.me.pc.off : Int) + dispOf o)

/-- BRN, cross-region (R412) (DEDUCED, log 61). -/
def brnFar (o : Op) (s : State) : State :=
  let w := o.ext.getD 0
  let ok := o.ext.isSome && w.extractLsb' 0 16 == 0#16 && o.mod == 0x40#8 && o.dest == 0#10 && o.j == 0#30
  let ts := (s.active o).map (·.2)
  let key := s.hereKey
  let first := s.illegalUnless o ok
  if !first.isEmpty then runOp o.slot first id s
  else
    let (e, s1) := s.askAll (ts.map fun t =>
      (t, { key with region := (w.extractLsb' 48 16).toNat, budget := (s.me.thread t).budget }))
    if e.waiting then s1.holdFor .translateWait
    else
      let spot (x : Entry) : Option Nat := x.trans.entryAt (w.extractLsb' 32 16).toNat (w.extractLsb' 16 16).toNat
      let traps := e.traps (fun _ => 0) ++ (e.ready.filter fun x => (spot x).isNone).map fun x => (x.t, ⟨.illegalOp, 0, 0⟩)
      let now := s.prepForm s.myCore s.myCtxNo
      let dest (x : Entry) : Pc := ⟨x.tr, (spot x).getD 0⟩
      runOp o.slot traps (fun s =>
        if now then s.farJump (e.ready.map fun (y : Entry) => (y.t, ⟨dest y, none⟩))
        else s.branch (e.ready.map fun (y : Entry) => (y.t, dest y)) true) (s1.takeFailures e)

/-- BRN within a translation (R320). -/
def brnNear (o : Op) (s : State) : State :=
  let form := o.mod.getLsbD 7
  let n := (o.mod.extractLsb' 0 2).toNat
  let ts := (s.active o).map (·.2)
  let ok := o.ext.isNone && o.dest == 0#10 && o.mod.extractLsb' 2 5 == 0#5 && form == s.prepForm s.myCore s.myCtxNo &&
    (if form then o.j == 0#30 else n == 0)
  let b := tget s.me.regs.bregs n
  let target := if form then b.bind (·.target) else s.target o
  let traps := s.illegalUnless o (ok && target.isSome)
  if form && traps.isEmpty && !ts.isEmpty && !(b.map (·.ready)).getD false then
    ((target.map fun pc => s.fetchCode s.myCore s.myCtxNo pc).getD s).holdFor .lookahead
  else runOp o.slot traps (fun s => match target with
    | some pc => s.branch (ts.map fun t => (t, pc)) (!form)
    | none => s) s

/-- BRN in its three forms (R296, R320, R412). -/
def execBrn (o : Op) (s : State) : Host.Outcome State Fault Refusal :=
  .next (s.asServing fun s => if o.mod.getLsbD 6 && !o.mod.getLsbD 7 then brnFar o s else brnNear o s)

/-- PBR: the b register takes the target and its fetch starts: 4 cycles when it is in instruction memory (R362). -/
def execPbr (o : Op) (s : State) : Host.Outcome State Fault Refusal :=
  let n := (o.mod.extractLsb' 0 2).toNat
  let ok := o.ext.isNone && o.mod.extractLsb' 2 6 == 0#6 && o.dest == 0#10
  let k := s.myCore
  let x := s.myCtxNo
  .next (runOp o.slot (s.illegalUnless o ok) (fun s =>
    if (s.active o).isEmpty then s
    else
      let target := s.target o
      let here := (target.map fun pc => s.codeHere k x pc).getD true
      let set (b : Breg) (s : State) : State := s.modMe fun c => { c with regs := { c.regs with bregs := tset c.regs.bregs n b } }
      if here then (set ⟨target, some (s.after 4), false⟩ s).schedule (s.after 4) (.pbrFetchComplete k x n)
      else
        let s1 := set ⟨target, none, false⟩ s
        match target with
        | some pc => if s1.me.fetching.isNone then s1.fetchCode k x pc else s1
        | none => s1) s)

/-- The fetch of a b register has ended by a time. -/
def Breg.fetched (now : Nat) (b : Breg) : Breg := { b with ready := b.ready || b.readyAt.any fun r => r ≤ now }

/-- PBR_FETCH_COMPLETE (R362). -/
def execPbrFetchComplete (core ctx b : Nat) (s : State) : Host.Outcome State Fault Refusal :=
  let done (e : Nat × Breg) : Nat × Breg := if e.1 == b then (e.1, e.2.fetched s.now) else e
  .next (s.modCtx core ctx fun c => { c with regs := { c.regs with bregs := c.regs.bregs.map done } })

/-! ### CALL and RET (R116, R323, R324, R368) -/

/-- The point of a request as the `addr` of a TRANSLATION_FAULT (R120). -/
def siteAddr (key : TKey) (block inst : Nat) : Nat :=
  1 + key.func * 2 ^ 48 + key.region * 2 ^ 32 + block * 2 ^ 16 + inst

/-- Whether a frame at a base, of so many words, passes P's effective limit (R324) (DEDUCED, log 63). -/
def State.frameTrap (s : State) (t base words : Nat) : Option Trap :=
  if s.effLimit s.me 1 < 8 * (base + words) then some ⟨.segLimit, 1, s.me.pAddr t (8 * base)⟩ else none

/-- CALL (R323, R324). -/
def execCall (o : Op) (s : State) : Host.Outcome State Fault Refusal :=
  let fidx := (o.j.extractLsb' 14 16).toNat
  let key := s.hereKey
  let funcs := ((tget s.objs key.obj).map (·.funcs.length)).getD 0
  let ok := o.legalJ && o.dest == 0#10 && o.j.extractLsb' 0 14 == 0#14 && fidx < funcs
  let first := s.illegalUnless o ok
  let ts := (s.active o).map (·.2)
  if !first.isEmpty then .next (runOp o.slot first id s)
  else
    let (e, s1) := s.askAll (ts.map fun t => (t, { key with func := fidx, region := 0, budget := (s.me.thread t).budget }))
    if e.waiting then .next (s1.holdFor .translateWait)
    else
      let adv := ((s.trans s.myCore s.me.pc).map (·.advance)).getD 0
      let (b, i) := s.point s.myCore s.me.pc
      let limit := e.ready.filterMap fun x => (s.frameTrap x.t ((s.me.thread x.t).frameBase + adv) x.trans.frame).map fun tr => (x.t, tr)
      .next (runOp o.slot (e.traps (fun _ => 0) ++ limit) (fun s =>
        if ts.isEmpty then s else
        let s2 := s.modMe fun c => ts.foldl (fun c t => c.modThread t fun th =>
          { th with calls := ⟨key.func, b, i⟩ :: th.calls, frameBase := th.frameBase + adv }) c
        s2.farJump (e.ready.map fun x => (x.t, ⟨⟨x.tr, x.trans.start⟩, none⟩))) (s1.takeFailures e))

/-- RET (R368): threads of an entry function, or without a call-site identity, end; the others go on after their CALL. -/
def execRet (o : Op) (s : State) : Host.Outcome State Fault Refusal :=
  let ok := o.legalJ && o.dest == 0#10 && o.j == 0#30
  let ts := (s.active o).map (·.2)
  let entry := ((s.funcOf s.hereKey).map (·.entry)).getD false
  let enders := ts.filter fun t => entry || (s.me.thread t).calls.isEmpty
  let first := s.illegalUnless o ok ++
    if ok then (enders.filter s.me.isBuilder).map fun t => (t, ⟨.illegalOp, 0, 0⟩) else []
  let key := s.hereKey
  let asks := (ts.filter fun t => !enders.contains t).filterMap fun t => match (s.me.thread t).calls with
    | [] => none
    | c :: _ =>
      let f := (s.funcOf { key with func := c.func }).getD ⟨0, 0, false, 0, 0, [], [], []⟩
      some (t, c, ({ key with func := c.func, region := f.regionAt c.block c.inst, budget := (s.me.thread t).budget } : TKey))
  if !first.isEmpty then .next (runOp o.slot first id s)
  else
    let (e, s1) := s.askAll (asks.map fun a => (a.1, a.2.2))
    if e.waiting then .next (s1.holdFor .translateWait)
    else
      let site (t : Nat) : Nat := ((asks.find? (·.1 == t)).map fun a => siteAddr a.2.2 a.2.1.block a.2.1.inst).getD 0
      let spot (x : Entry) : Option Nat := (asks.find? (·.1 == x.t)).bind fun a => x.trans.returnAt a.2.1.block a.2.1.inst
      let lost := (e.ready.filter fun x => (spot x).isNone).map fun x => (x.t, (⟨.illegalOp, 0, 0⟩ : Trap))
      .next (runOp o.slot (e.traps site ++ lost) (fun s =>
        let s2 := s.endThreads s.myCore s.myCtxNo enders
        if e.ready.isEmpty then s2 else
        let s3 := s2.modMe fun c => e.ready.foldl (fun c x => c.modThread x.t fun th =>
          { th with calls := th.calls.drop 1, frameBase := th.frameBase - x.trans.advance }) c
        s3.farJump (e.ready.map fun x => (x.t, ⟨⟨x.tr, (spot x).getD 0⟩, none⟩))) (s1.takeFailures e))

/-! ### The lowered LPF terminators (R102, R106, R319, R387) -/

/-- The frame words that the moves of an edge name. -/
def frameWords (ls : List Loc) : List Nat := ls.filterMap fun l => match l with
  | .frame w => some w
  | _ => none

/-- What a thread reads from a location (R94, R95, R100). -/
def State.locRead (s : State) (lane t : Nat) (l : Loc) : Word :=
  match l with
  | .reg n => s.me.reg t n
  | .last n => (s.me.lastWords t n).headD 0
  | .frame w => word64 (bytesToNat (s.loadAcc s.myCore s.myCtxNo (frameAcc s.me lane t w) none).1.bytes)

/-- A word into a location. -/
def State.locWrite (s : State) (lane t : Nat) (l : Loc) (w : Word) : State :=
  match l with
  | .reg n => s.modMe fun c => c.modThread t fun th => th.put .reg n [w]
  | .last n => s.modMe fun c => c.modThread t fun th => th.put .reg (0x140 + n) [w]
  | .frame f => s.storeAcc s.myCore s.myCtxNo (frameAcc s.me lane t f) (natToBytes 8 w.toNat)

/-- Each thread takes its edge: the copies of R102, which read every source before any is written, then the branch. `pick`
gives the edge of a thread, `srcs` what else is read. -/
def takeEdges (pick : Nat → Nat → Edge) (srcs : List Loc) (s : State) : State :=
  let k := s.myCore
  let x := s.myCtxNo
  let lanes := s.group.lanes
  let accs (l : List Loc) (e : Nat × Nat) : List Acc := (frameWords l).map fun w => frameAcc s.me e.1 e.2 w
  let reads := lanes.flatMap fun e => accs (srcs ++ (pick e.1 e.2).moves.map (·.1)) e
  let writes := lanes.flatMap fun e => accs ((pick e.1 e.2).moves.map (·.2)) e
  let traps := s.accTraps k x .load 8 reads ++ s.accTraps k x .store 8 writes
  let rf := if traps.isEmpty then s.accFaults k x .load reads else []
  let wf := if traps.isEmpty then s.accFaults k x .store writes else []
  if !rf.isEmpty then s.pageFaults k x rf
  else if !wf.isEmpty then s.pageFaults k x wf
  else runOp 7 traps (fun s =>
    let vals := lanes.map fun e => (e, (pick e.1 e.2).moves.map fun m => (m.2, s.locRead e.1 e.2 m.1))
    let s1 := vals.foldl (fun s v => v.2.foldl (fun s m => s.locWrite v.1.1 v.1.2 m.1 m.2) s) s
    s1.sendTo (lanes.map fun e => (e.2, ⟨⟨s.me.pc.tr, (pick e.1 e.2).target⟩, none⟩))) s

/-- BR. -/
def execBr (e : Edge) (s : State) : Host.Outcome State Fault Refusal :=
  .next (takeEdges (fun _ _ => e) [] s)

/-- CBR: the first edge where the predicate is true. -/
def execCbr (q : Loc) (t f : Edge) (s : State) : Host.Outcome State Fault Refusal :=
  .next (takeEdges (fun lane th => if (s.locRead lane th q).getLsbD 0 then t else f) [q] s)

/-- SWITCH: the edge of the lowest case that equals the value, else the default. -/
def execSwitch (ty : Nat) (v : Loc) (dflt : Edge) (cases : List (Word × Edge)) (s : State) : Host.Outcome State Fault Refusal :=
  let pick (lane th : Nat) : Edge :=
    let w := (s.locRead lane th v).toNat % 2 ^ tyBits ty
    ((cases.find? fun c => c.1.toNat % 2 ^ tyBits ty == w).map (·.2)).getD dflt
  .next (takeEdges pick [v] s)

/-- SHAPE: the shape in effect for the rest of its block, in the linear pass of the loader (R75, R376). -/
def execShape (rows cols : Nat) (s : State) : Host.Outcome State Fault Refusal :=
  .next { s with scanShape := (rows, cols) }

/-! ### REFORM, YIELD, TRAP and BRK (R322, R366, R392, R403) -/

/-- REFORM: every thread of the group is filed at the next bundle. -/
def execReform (o : Op) (s : State) : Host.Outcome State Fault Refusal :=
  let ok := o.legalJ && o.dest == 0#10 && o.j == 0#30
  .next (runOp o.slot (s.illegalUnless o ok) (fun s =>
    if (s.active o).isEmpty then s
    else s.modMe fun c => (c.fileAfter (s.groupEnd s.myCore s.myCtxNo) s.group s.group.threads).noGroup) s)

/-- YIELD: the context gives up issue at its next bundle boundary; nothing in the firmware slot. -/
def execYield (o : Op) (s : State) : Host.Outcome State Fault Refusal :=
  let ok := o.legalJ && o.dest == 0#10 && o.j == 0#30
  .next (runOp o.slot (s.illegalUnless o ok) (fun s =>
    if (s.active o).isEmpty || s.isFw then s else s.modMe fun c => { c with yields := true }) s)

/-- TRAP and BRK raise their trap in every thread of ACTIVE. -/
def raiseOp (code : TrapCode) (o : Op) (s : State) : State :=
  let ok := o.legalJ && o.dest == 0#10
  runOp o.slot (if ok then (s.active o).map fun e => (e.2, ⟨code, (o.j.extractLsb' 0 8).toNat, 0⟩) else s.allTrap o .illegalOp) id s

/-- TRAP. -/
def execTrap (o : Op) (s : State) : Host.Outcome State Fault Refusal := .next (raiseOp .software o s)

/-- BRK. -/
def execBrk (o : Op) (s : State) : Host.Outcome State Fault Refusal := .next (raiseOp .breakpoint o s)

/-! ### Parking (R29, R37) -/

/-- Threads of the group park outside the bins; each goes on after the bundle when it is released. `n` and `lg` are those
of a REGCLM. -/
def State.parkGroup (s : State) (place : Place) (n lg : Nat) (ts : List Nat) : State :=
  let g := s.group
  let s1 := s.modMe fun c => ts.foldl (fun c t => c.modThread t fun th =>
    { th with place := place, pend := (g.keyAfter t).pend, resume := g.keyAfter t, claim := some (n, lg, g.pc) }) c
  s1.modMe fun c => c.dropLanes ts

/-! ### Barriers (R315-R318) -/

/-- The identifier of BAR and BARTEST. -/
def barId (o : Op) : Nat := (o.mod.extractLsb' 0 4).toNat

/-- The three forms of BAR. `mode` is the mode that the form wants, `bad` says which threads misuse the barrier. -/
def barOp (mode : Nat) (bad : Bar → Nat → Bool) (eff : Nat → List Nat → State → State) (o : Op) (s : State) : State :=
  let id := barId o
  let k := s.myCore
  let x := s.myCtxNo
  let first := s.illegalUnless o (o.legalV 0x120 0 && o.ext.isNone && o.dest == 0#10 && o.j == 0#30)
  let ts := (s.active o).map (·.2)
  let decl := s.barDecl s.me id
  let wrong := ts.filter fun t => (decl.map (·.1)) != some mode || bad (s.me.bar id) t
  let traps := first ++ if first.isEmpty then wrong.map fun t => (t, ⟨.barMisuse, id, 0⟩) else []
  runOp o.slot traps (fun s =>
    if ts.isEmpty then s
    else ((eff id ts s).barCheck k x id ((decl.map (·.2)).getD 0)).deadlockCheck k) s

/-- Arrivals of threads in the current phase. -/
def Bar.arrive (b : Bar) (ts : List Nat) : Bar :=
  { b with arrived := b.arrived ++ ts, last := ts.foldl (fun l t => tset l t b.phase) b.last }

/-- BAR with form aw: arrive and park. -/
def execBarAw (o : Op) (s : State) : Host.Outcome State Fault Refusal :=
  .next (barOp 0 (fun b t => b.arrived.contains t)
    (fun id ts s => (s.modMe fun c => c.modBar id (·.arrive ts)).parkGroup (.barrier id) 0 0 ts) o s)

/-- BAR with form arr: arrive and go on. -/
def execBarArr (o : Op) (s : State) : Host.Outcome State Fault Refusal :=
  .next (barOp 1 (fun b t => b.arrived.contains t)
    (fun id ts s => s.modMe fun c => c.modBar id fun b =>
      { b.arrive ts with owed := nodup (b.owed ++ ts) }) o s)

/-- BAR with form wait: park unless the phase of the last arrival has completed. -/
def execBarWait (o : Op) (s : State) : Host.Outcome State Fault Refusal :=
  .next (barOp 1 (fun b t => !b.owed.contains t)
    (fun id ts s =>
      let b := s.me.bar id
      let (stay, go) := ts.partition b.arrived.contains
      (s.modMe fun c => c.modBar id fun b => { b with owed := b.owed.filter fun t => !go.contains t }).parkGroup
        (.barrier id) 0 0 stay) o s)

/-- BARTEST: the phase counter, or its bit 0 (R318). -/
def bartestOp (ctr : Bool) (o : Op) (s : State) : State :=
  let id := barId o
  let d := o.dest.toNat
  let ty := if ctr then 7 else 14
  let ok := o.legalV 0x121 ty && o.ext.isNone && o.j == 0#30 && destOk o.slot d 1
  let first := s.illegalUnless o ok ++ s.copyTraps o d 1
  let traps := first ++ if first.isEmpty && (s.barDecl s.me id).isNone then
      (s.active o).map fun e => (e.2, ⟨.barMisuse, id, 0⟩) else []
  let v := word64 (if ctr then (s.me.bar id).phase else (s.me.bar id).phase % 2)
  runOp o.slot traps (fun s => s.land o .reg d 1 1 (s.perLane o fun _ _ => [v]) 0 [] []) s

/-- BARTEST. -/
def execBartest (o : Op) (s : State) : Host.Outcome State Fault Refusal := .next (bartestOp false o s)

/-- BARTEST with CTR. -/
def execBartestCtr (o : Op) (s : State) : Host.Outcome State Fault Refusal := .next (bartestOp true o s)

/-! ### REGREL and REGCLM (R137, R367) -/

/-- The n and log2 g of a register release or claim. -/
def regN (o : Op) : Nat := (o.j.extractLsb' 20 8).toNat
def regLg (o : Op) : Nat := (o.j.extractLsb' 10 4).toNat

/-- The encoding of REGREL and REGCLM is legal, and g divides the workgroup size. -/
def regOk (o : Op) (s : State) : Bool :=
  o.legalJ && o.dest == 0#10 && o.gq == 0#3 && !o.gn && o.j.extractLsb' 28 2 == 0#2 && o.j.extractLsb' 14 6 == 0#6 &&
    o.j.extractLsb' 0 10 == 0#10 && regLg o ≤ 8 && regN o != 0 && s.me.size % 2 ^ regLg o == 0

/-- REGREL: budgets fall and the registers return to the pool. -/
def execRegrel (o : Op) (s : State) : Host.Outcome State Fault Refusal :=
  let n := regN o
  let ts := (s.active o).map (·.2)
  let low := ts.filter fun t => (s.me.thread t).budget < 8 + n
  let traps := if regOk o s then low.map fun t => (t, (⟨.illegalOp, 0, 0⟩ : Trap)) else s.allTrap o .illegalOp
  .next (runOp o.slot traps (fun s =>
    let s1 := s.modMe fun c => ts.foldl (fun c t => c.modThread t fun th => { th with budget := th.budget - n, budgetFrom := 1 }) c
    if s.isFw then s1 else s1.modHome fun c => { c with taken := c.taken - n * ts.length }) s)

/-- REGCLM: the threads park until their sub-group's claim is granted. -/
def execRegclm (o : Op) (s : State) : Host.Outcome State Fault Refusal :=
  let n := regN o
  let lg := regLg o
  let k := s.myCore
  let x := s.myCtxNo
  let ts := (s.active o).map (·.2)
  let high := ts.filter fun t => 255 < (s.me.thread t).budget + n
  let differs (t : Nat) : Bool := s.me.threads.any fun e =>
    e.2.place == .regclm && e.1 / 2 ^ lg == t / 2 ^ lg && (match e.2.claim with
      | some (m, l, _) => m != n || l != lg
      | none => false)
  let members (t : Nat) : Nat := ((subGroup t lg).filter s.me.live.contains).length
  let traps := if !regOk o s then s.allTrap o .illegalOp
    else high.map (fun t => (t, (⟨.illegalOp, 0, 0⟩ : Trap))) ++
      (ts.filter fun t => !high.contains t && differs t).map (fun t => (t, (⟨.barMisuse, 0, 0⟩ : Trap))) ++
      (ts.filter fun t => !high.contains t && !differs t && poolCap k < n * members t).map (fun t => (t, (⟨.regDeadlock, 0, n⟩ : Trap)))
  .next (runOp o.slot traps (fun s =>
    if ts.isEmpty then s else ((s.parkGroup .regclm n lg ts).formClaims k x).deadlockCheck k) s)

/-! ### TNEST and FREEZE (R49-R53, R339, R391, R411) -/

/-- The group size of the level below a level that is to open (R52: g_0 is the workgroup size). -/
def Ctx.outerSize (c : Ctx) (level : Nat) : Nat := if level ≤ 1 then c.size else (c.tmpl.sizes[level - 2]?).getD 1

/-- What a thread that executes TNEST at a point with group size g does wrong (R52), in a function of so many levels (R79). -/
def tnestTrap (c : Ctx) (templ : Bool) (levels : Nat) (point : Nat × Nat) (g : Nat) (t : Nat) : Option Trap :=
  let th := c.thread t
  let misuse : Option Trap := some ⟨.barMisuse, 0xFF, 0⟩
  let illegal : Option Trap := some ⟨.illegalOp, 0, 0⟩
  let parked := c.threads.filterMap fun e => if e.2.place == .tnest then e.2.claim else none
  if !templ || c.isFounder then illegal
  else if Nat.min 4 levels ≤ th.level || th.level = 0 then illegal
  else if c.outerSize th.level % Nat.max 1 g != 0 then illegal
  else match c.tmpl.nests[th.level - 1]? with
    | some n => if (n.block, n.inst) == point && n.g == g then none else misuse
    | none =>
      if t == 0 && c.tmpl.tnest.isSome then illegal
      else if c.tmpl.broken || (c.thread 0).place == .ended then misuse
      else match c.tmpl.tnest with
        | some (b, i, g') => if (b, i) == point && g' == g then none else misuse
        | none => if parked.any fun q => q.2.1 == point.1 * 2 ^ 16 + point.2 && q.1 != g then misuse else none

/-- The threads that leave a TNEST park for a trap. -/
def State.breakNest (s : State) (ts : List Nat) : State :=
  ts.foldl (fun s t =>
    let th := (s.me).thread t
    s.trapParked s.myCore s.myCtxNo t ⟨.barMisuse, 0xFF, 0⟩ { th.resume with pc := (th.claim.map (·.2.2)).getD th.resume.pc }) s

/-- The key of a block's region for a thread (R92). -/
def State.blockKey (s : State) (block t : Nat) : TKey :=
  let key := s.hereKey
  let f := (s.funcOf key).getD ⟨0, 0, false, 0, 0, [], [], []⟩
  { key with region := f.regionAt block 0, budget := (s.me.thread t).budget }

/-- Threads that come to a TNEST whose FREEZE has executed go directly to its continuation (R52). -/
def lateNest (o : Op) (late : List (Nat × Nest)) (traps : List (Nat × Trap)) (park : List Nat → State → State) (ts : List Nat)
    (s : State) : State :=
  match late with
  | [] => runOp o.slot traps (park ts) s
  | _ :: _ =>
    if !traps.isEmpty then runOp o.slot traps id s
    else
      let (e, s1) := s.askAll (late.map fun l => (l.1, s.blockKey l.2.cont l.1))
      if e.waiting then s1.holdFor .translateWait
      else
        let cont (t : Nat) : Nat := ((late.find? (·.1 == t)).map (·.2.cont)).getD 0
        runOp o.slot (e.traps fun _ => 0) (fun s =>
          let s2 := park (ts.filter fun t => !(late.any (·.1 == t))) s
          let s3 := s2.modMe fun c => e.ready.foldl (fun c x => c.modThread x.t fun th => { th with level := th.level + 1 }) c
          s3.sendTo (e.ready.map fun x => (x.t, ⟨⟨x.tr, (x.trans.entryAt (cont x.t) 0).getD 0⟩, none⟩))) (s1.takeFailures e)

/-- TNEST (R52, R391). Thread 0 goes on into the nested prologue, the others park. -/
def execTnest (o : Op) (s : State) : Host.Outcome State Fault Refusal :=
  let g := (o.j.extractLsb' 20 9).toNat
  let ok := o.legalJ && o.dest == 0#10 && o.gq == 0#3 && !o.gn && !o.j.getLsbD 29 && o.j.extractLsb' 0 20 == 0#20 && 1 ≤ g && g ≤ 256
  let k := s.myCore
  let point := s.point k s.me.pc
  let code := point.1 * 2 ^ 16 + point.2
  let ts := (s.active o).map (·.2)
  let templ := s.templated s.me
  let levels := ((s.funcOf s.hereKey).map (·.levels)).getD 4
  let traps := if ok then ts.filterMap fun t => (tnestTrap s.me templ levels point g t).map fun tr => (t, tr) else s.allTrap o .illegalOp
  let strangers := if ts.contains 0 then
      (s.me.threads.filter fun e => e.2.place == .tnest && (e.2.claim.map (·.2.1)) != some code).map (·.1) else []
  let s0 := if ok && !strangers.isEmpty then s.breakNest strangers else s
  let s0 := if ok && ts.contains 0 && s.me.tmpl.tnest.isSome && s.me.tmpl.tnest.map (fun n => (n.1, n.2.1)) != some point then
      s0.modMe fun c => { c with tmpl := { c.tmpl with broken := true } } else s0
  let late := ts.filterMap fun t => (s.me.tmpl.nests[(s.me.thread t).level - 1]?).map fun n => (t, n)
  let park (ts : List Nat) (s : State) : State :=
    let s1 := if ts.contains 0 then s.modMe fun c => { c with tmpl := { c.tmpl with tnest := some (point.1, point.2, g) } } else s
    let rest := ts.filter (· != 0)
    if rest.isEmpty then s1 else (s1.parkGroup .tnest g code rest).deadlockCheck k
  .next (lateNest o late traps park ts s0)

/-- Registers and bytes of a value of a type under a shape (R94). -/
def valueBytes (shape : Nat × Nat) (ty : Nat) : Nat :=
  if isTileTy ty then shape.1 * shape.2 * tyBytes (elemTy ty) else tyBytes ty

def valueRegs (shape : Nat × Nat) (ty : Nat) : Nat := if isTileTy ty then (valueBytes shape ty + 7) / 8 else 1

/-- The continuation of the FREEZE at the group's bundle: its block and that block's argument types (R339). -/
def State.freezeCont (s : State) : Option (Nat × LBlock) :=
  (s.instAt s.myCore s.me.pc).bind fun i => match i.args with
    | [.ref b _] => (s.funcOf s.hereKey).map fun f => (b.toNat, f.block b.toNat)
    | _ => none

/-- Whether FREEZE is open to a thread (R51): the level-0 founder before its FREEZE, or thread 0 of an open TNEST. -/
def State.mayFreeze (s : State) (t : Nat) : Bool :=
  s.templated s.me && (if s.me.isFounder then ((s.launchOf s.me).map (·.frozen.isNone)).getD false else t == 0 && s.me.tmpl.tnest.isSome)

/-- The low bytes of a word. -/
def lowBytes (n : Nat) (w : Word) : Word := if 8 ≤ n then w else word64 (w.toNat % 2 ^ (8 * n))

/-- The values of a FREEZE, from the founder's transfer words (R97); beyond a value's size its entry is zero (R56). -/
def State.freezeValues (s : State) (lane t : Nat) (b : LBlock) : List (List Word) :=
  (b.args.foldl (fun (acc : List (List Word) × Nat) ty =>
    let n := valueRegs b.shape ty
    let size := valueBytes b.shape ty
    (acc.1 ++ [(List.range n).map fun i => lowBytes (size - 8 * i) (s.locRead lane t (.frame (acc.2 + i)))], acc.2 + n)) ([], 0)).1

/-- The shape of the next cohort of a launch: rows, columns, workgroup size; a templated launch that is not frozen places its founder
(R49). -/
def Launch.nextShape (l : Launch) : Nat × Nat × Nat := if l.tmpl && l.frozen.isNone then (1, 1, 1) else (l.rows, l.cols, l.wgsize)

/-- The agents that claim cohorts of a launch on a cluster, by their cores: the lead agent, at the lowest present position, or for 1 × 1
cohorts every present core's (R249). -/
def State.claimers (s : State) (l : Launch) (c : Nat) : List Nat :=
  (((List.range 12).map (12 * c + ·)).filter s.present).take (if l.nextShape.1 * l.nextShape.2.1 = 1 then 12 else 1)

/-- The workgroups of a launch are offered to the agents of its partition, with messages of free length (R249; DESIGN CHOICE, log 8). -/
def State.offerStarts (s : State) (ln : Nat) : State :=
  match tget s.launches ln with
  | some l => match tget s.parts l.part with
    | some p => (p.clusters.flatMap (s.claimers l)).foldl (fun s k => s.message (.workgroupStart ln k)) s
    | none => s
  | none => s

/-- The first address of the LASTPTR area that cannot be written: a page fault with its level, or a refusal (R50). -/
def State.lastFault (s : State) (l : Launch) : Option (Nat × Option Nat) :=
  let sp := s.launchSpace s.myCore l
  let at_ (va : Nat) : Option (Nat × Option Nat) := match s.probe sp va .store with
    | .ok _ _ => none
    | .fault lv => some (va, some lv)
    | .violation => some (va, none)
  let next := (l.lastPtr / 2 ^ 16 + 1) * 2 ^ 16
  (at_ l.lastPtr).or (if next < l.lastPtr + 8192 then at_ next else none)

/-- The level-0 last goes to the LASTPTR area: entry n at byte 128 × n, and zeros in what the level reserves beyond (R50, R56). -/
def State.writeLasts (s : State) (l : Launch) (entries : List (List Word)) : State :=
  entries.zipIdx.foldl (fun s e =>
    (List.range 16).foldl (fun s i =>
      (s.poke64 (s.launchSpace s.myCore l) (l.lastPtr + 128 * e.2 + 8 * i) ((e.1[i]?).getD 0)).2) s) s

/-- Step 3 to 5 of R50 and the end of the founder (R49, R339). -/
def freezeLaunch (cont : Nat) (region : Nat) (reserve : Nat) (vals : List (List Word)) (l : Launch) (ln : Nat) (t : Nat) (s : State) : State :=
  let s1 := s.writeLasts l (vals ++ List.replicate (reserve - vals.length) [])
  let s2 := { s1 with launches := tmod s1.launches ln l fun l => { l with frozen := some (cont, region) } }
  (s2.endThreads s.myCore s.myCtxNo [t]).offerStarts ln

/-- The nested FREEZE (R52): the level opens and every thread of the nest is filed at the continuation. -/
def freezeNest (cont : Nat) (start reserve : Nat) (vals : List (List Word)) (e : Entries) (s : State) : State :=
  let (b, i, g) := s.me.tmpl.tnest.getD (0, 0, 1)
  let s1 := s.modMe fun c =>
    let area := (List.range reserve).foldl (fun (m : Tab (List Word)) n => match vals[n]? with
      | some ws => tset m (start + n) ws
      | none => tdel m (start + n)) c.mem.last
    { c with
      mem := { c.mem with last := area }
      tmpl := { c.tmpl with
        opened := c.tmpl.opened + 1, sizes := c.tmpl.sizes ++ [g], entries := c.tmpl.entries ++ [(start, vals.length)]
        nests := c.tmpl.nests ++ [⟨b, i, g, cont⟩], tnest := none } }
  let keys := e.ready.map fun (x : Entry) => (x.t, (⟨⟨x.tr, (x.trans.entryAt cont 0).getD 0⟩, none⟩ : BinKey))
  let s2 := s1.modMe fun c =>
    let c1 := (e.ready.foldl (fun c x => c.modThread x.t fun th => { th with level := th.level + 1 }) c).dropLanes [0]
    c1.fileKeys s.now keys
  let s2 := s2.follow s.myCore s.myCtxNo (e.ready.map (·.t))
  e.failed.foldl (fun s f => if f.1 = 0 then s else
    let th := s.me.thread f.1
    s.trapParked s.myCore s.myCtxNo f.1 ⟨.translationFault, f.2.1, 0⟩ { th.resume with pc := (th.claim.map (·.2.2)).getD th.resume.pc }) s2

/-- FREEZE (R50-R52, R339): ILLEGAL_OP at each thread that may not freeze (R51). -/
def execFreeze (o : Op) (s : State) : Host.Outcome State Fault Refusal :=
  let n := (o.j.extractLsb' 20 7).toNat
  let k := s.myCore
  let x := s.myCtxNo
  let cont := s.freezeCont
  let good := o.legalJ && o.dest == 0#10 && o.j.extractLsb' 27 3 == 0#3 && o.j.extractLsb' 0 20 == 0#20 && (cont.map (·.2.args.length)) == some n
  let strays := (s.active o).filter fun e => !s.mayFreeze e.2
  match s.top o, cont, good, strays with
  | none, _, _, _ => .next s
  | some (lane, t), some (b, blk), true, [] =>
    let words := sumNat (blk.args.map (valueRegs blk.shape))
    let accs := (List.range words).map fun w => frameAcc s.me lane t w
    let traps := s.accTraps k x .load 8 accs
    let faults := if traps.isEmpty then s.accFaults k x .load accs else []
    let f := (s.funcOf s.hereKey).getD ⟨0, 0, false, 0, 0, [], [], []⟩
    if !faults.isEmpty then .next (s.pageFaults k x faults)
    else if !traps.isEmpty then .next (runOp o.slot traps id s)
    else if s.me.isFounder then
      match s.launchOf s.me, s.me.wg with
      | some l, some w => match s.lastFault l with
        | some (va, some lv) => .next (s.pageFaults k x [⟨t, va, lv, 0, true⟩] true)
        | some (va, none) => .next (runOp o.slot [(t, ⟨.accessViolation, 0, va⟩)] id s)
        | none =>
          let s1 := s.releaseStart k x t 7
          if !s1.releaseReady k x 7 then .next (s1.holdFor .lookahead)
          else .next (runOp o.slot [] (freezeLaunch b (f.regionAt b 0) ((f.reserve[0]?).getD 0) (s.freezeValues lane t blk) l w.launch t) s1)
      | _, _ => .next (runOp o.slot [(t, ⟨.illegalOp, 0, 0⟩)] id s)
    else
      let lv := s.me.tmpl.opened
      let (tb, ti, _) := s.me.tmpl.tnest.getD (0, 0, 1)
      let parked := (s.me.threads.filter fun e => e.2.place == .tnest && (e.2.claim.map (·.2.1)) == some (tb * 2 ^ 16 + ti)).map (·.1)
      let (e, s1) := s.askAll ((t :: parked).map fun u => (u, s.blockKey b u))
      if e.waiting then .next (s1.holdFor .translateWait)
      else
        let mine := (e.traps fun _ => 0).filter fun f => f.1 == t
        .next (runOp o.slot mine (freezeNest b (sumNat (f.reserve.take lv)) ((f.reserve[lv]?).getD 0) (s.freezeValues lane t blk) e)
          (s1.takeFailures e))
  | some _, some _, true, _ :: _ => .next (runOp o.slot (strays.map fun e => (e.2, ⟨.illegalOp, 0, 0⟩)) id s)
  | some _, _, _, _ => .next (runOp o.slot (s.allTrap o .illegalOp) id s)

end Sys2Proof.Machine
end

