-- ==== Sys2Proof/Machine/Portable.lean ====
section
/-! DEFINITION. The portable form as the translator reads it: types of values, blocks cut at REGREL and REGCLM (R92) and at
SWITCH (R388), intervals (R98), last registers (R100) and the words of a frame (R95, R96). -/

namespace Sys2Proof.Machine

/-! ### Instructions and values -/

/-- The result types of an LPF instruction (R291). -/
def resultTypes (i : Lpf.Inst) : List Nat :=
  let ty := i.ty.toNat
  match i.opc.toNat with
  | 0x01A | 0x047 => [14]
  | 0x004 | 0x005 => [ty, 14]
  | 0x006 => [ty, ty]
  | 0x143 => if ty = 0 then [] else [ty]
  | opc => match Lpf.row opc with
    | some r => List.replicate r.res ty
    | none => []

/-- The types that the operands of an instruction take, guard and block references apart (R291 and the entries of the
reference); a tile code stands for the tile, or for an immediate of its element type where R289 admits one. -/
def operandTypes (opc ty mod : Nat) : List Nat :=
  let src := mod / 8 % 32 + if isTileTy ty then 16 else 0
  match opc with
  | 0x000 | 0x001 => if ty = 15 then [15, 4] else [ty, ty]
  | 0x004 | 0x005 => [ty, ty, 14]
  | 0x006 => [ty, ty, ty, ty]
  | 0x009 | 0x00A | 0x010 | 0x017 | 0x018 | 0x019 | 0x01C | 0x048 | 0x049 | 0x04C | 0x04D => [ty]
  | 0x015 | 0x043 => [ty, ty, ty]
  | 0x01B => [14, ty, ty]
  | 0x04A => [ty, 7]
  | 0x04B => [14]
  | 0x080 | 0x081 | 0x082 => [src]
  | 0x083 => [29]
  | 0x084 => [8]
  | 0x0A0 | 0x0A3 | 0x0A4 | 0x0A6 | 0x102 | 0x103 | 0x107 | 0x125 => [7]
  | 0x0A1 | 0x0A2 | 0x0A5 | 0x0CA | 0x0CB => [15, 7]
  | 0x0A7 | 0x0C8 => [15]
  | 0x0A8 | 0x181 => if opc = 0x0A8 then [8, 7] else [7, 8]
  | 0x0A9 | 0x182 | 0x183 => [8]
  | 0x0C0 => if mod / 16 % 2 = 1 then [15, 8] else [15]
  | 0x0C1 => [15, ty]
  | 0x0C2 => [15, 4]
  | 0x0C3 => [15, 4, ty]
  | 0x0C4 | 0x0C5 | 0x0C6 | 0x0C7 => if mod / 16 = 7 then [15, ty, ty] else [15, ty]
  | 0x0C9 | 0x123 | 0x106 => [7, 24]
  | 0x101 | 0x104 | 0x105 | 0x184 => [24]
  | 0x180 => [7, 8, 8]
  | 0x04E | 0x14D | 0x14E => [8, 8]
  | 0x148 | 0x149 | 0x14B | 0x14C | 0x14F => [8]
  | 0x150 => [8, 8]
  | 0x144 => if ty = 0 then [] else [ty]
  | _ => match Lpf.row opc with
    | some ⟨_, _, _, _, _, .fixed n⟩ => List.replicate n ty
    | _ => []

/-- The 64-bit pattern of an immediate operand (R73). -/
def argImm : Lpf.Arg → Option Word
  | .short v => some (v.signExtend 64)
  | .ext w => some w
  | _ => none

/-- The value indices that an operand names. -/
def argVals : Lpf.Arg → List Nat
  | .val n => [n.toNat]
  | .ref _ as => as.map (·.toNat)
  | _ => []

/-- The value indices that an instruction names, guard and block references included. -/
def instVals (i : Lpf.Inst) : List Nat := i.args.flatMap argVals

/-- The operands of an instruction without its guard. -/
def instOperands (i : Lpf.Inst) : List Lpf.Arg := if i.g then i.args.drop 1 else i.args

/-- A value of a block: its index, its type and its width in registers (R94). -/
structure TVal where
  idx : Nat
  ty : Nat
  width : Nat
deriving DecidableEq, Repr

/-- A source operand. -/
inductive Src where
  | val (n : Nat)
  | imm (w : Word)
deriving DecidableEq, Repr

/-- An edge to a block (LPF block, piece of it after so many REGRELs and REGCLMs, implicit block of its SWITCH), the values it
passes, and the ordinal of its block reference (0xFFFF for an edge that no reference names). -/
structure TEdge where
  block : Nat
  cut : Nat
  sub : Nat
  args : List Nat
  ref : Nat
deriving DecidableEq, Repr

/-- An LPF instruction with its values typed and the shape in effect. -/
structure TInst where
  inst : Nat
  opc : Nat
  ty : Nat
  mod : BitVec 8
  guard : Option (Nat × Bool)
  srcs : List Src
  defs : List TVal
  shape : Nat × Nat
deriving DecidableEq, Repr

/-- How a block ends: a jump, a branch on a value, the fall past a REGREL or REGCLM, or an instruction that leaves. -/
inductive TTerm where
  | jump (e : TEdge)
  | cond (q : Nat) (t f : TEdge)
  | fall (e : TEdge)
  | leave
deriving DecidableEq, Repr

/-- A block of the translation: an LPF block, or an implicit block cut from one. -/
structure TBlock where
  block : Nat
  cut : Nat
  sub : Nat
  first : Nat
  region : Nat
  args : List TVal
  insts : List TInst
  term : TTerm
  termInst : Nat
deriving DecidableEq, Repr

/-- The typed instructions of a block: state is the shape in effect and the next value index (R69, R75). -/
def typedInsts (lb : LBlock) : List (Lpf.Inst × TInst) :=
  let ins := lb.insts.filterMap fun ws => (Lpf.decode ws).toOption.map (·.1)
  (ins.zipIdx.foldl (fun (acc : List (Lpf.Inst × TInst) × (Nat × Nat) × Nat) p =>
    let (done, shape, next) := acc
    let i := p.1
    let ops := instOperands i
    let guard := if i.g then (i.args.head?.bind fun a => (argVals a).head?).map fun v => (v, i.gn) else none
    let srcs := ops.flatMap fun a => match argImm a with
      | some w => [Src.imm w]
      | none => (argVals a).map Src.val
    let defs := (resultTypes i).zipIdx.map fun t => (⟨next + t.2, t.1, valueRegs shape t.1⟩ : TVal)
    let t : TInst := ⟨p.2, i.opc.toNat, i.ty.toNat, i.mod, guard, srcs, defs, shape⟩
    let shape' := if i.opc == 0x04E#9 then
        match ops.filterMap argImm with
        | [r, c] => (r.toNat, c.toNat)
        | _ => shape
      else shape
    (done ++ [(i, t)], shape', next + defs.length)) ([], lb.shape, lb.args.length)).1

/-- The arguments of a block as values. -/
def blockArgs (lb : LBlock) : List TVal := lb.args.zipIdx.map fun p => ⟨p.2, p.1, valueRegs lb.shape p.1⟩

/-- Values in ascending order, each once. -/
def sortedVals (l : List Nat) : List Nat := sortBy id (nodup l)

/-- The edge of a block reference. -/
def refEdge (a : Lpf.Arg) (ref : Nat) : TEdge :=
  match a with
  | .ref b as => ⟨b.toNat, 0, 0, as.map (·.toNat), ref⟩
  | _ => ⟨0, 0, 0, [], ref⟩

/-- The cases of a SWITCH: value and edge (R387). -/
def switchCases : List Lpf.Arg → Nat → List (Word × TEdge)
  | a :: r :: rest, n => ((argImm a).getD 0, refEdge r n) :: switchCases rest (n + 1)
  | _, _ => []

/-- The chain of a SWITCH (R388): the block's own end and the implicit blocks. -/
def switchChain (mk : Nat → List TVal → List TInst → TTerm → TBlock) (val : Nat → Option TVal) (t : TInst) (v fresh : Nat)
    (block cut : Nat) (dflt : TEdge) : Nat → List (Word × TEdge) → List TInst → List TBlock
  | k, [], pre => [mk k [] pre (.jump dflt)]
  | k, (c, e) :: rest, pre =>
    let cmp : TInst := { t with opc := 0x01A, mod := 0, srcs := [.val v, .imm c], defs := [⟨fresh, 14, 1⟩], guard := none }
    let later := sortedVals (v :: (dflt.args ++ rest.flatMap fun r => r.2.args))
    match rest with
    | [] => [mk k [] (pre ++ [cmp]) (.cond fresh e dflt)]
    | _ :: _ =>
      let next : TEdge := ⟨block, cut, k + 1, later, 0xFFFF⟩
      let b := mk k [] (pre ++ [cmp]) (.cond fresh e next)
      match switchChain mk val t v fresh block cut dflt (k + 1) rest [] with
      | c :: cs => b :: { c with args := later.filterMap val } :: cs
      | [] => [b]

/-- One piece of a block between cuts, with its end. -/
def endPiece (block cut first region : Nat) (args : List TVal) (val : Nat → Option TVal) (count : Nat)
    (ins : List (Lpf.Inst × TInst)) : List TBlock :=
  let body := ins.dropLast.map (·.2)
  let mk (at_ : Nat) (sub : Nat) (as : List TVal) (is : List TInst) (t : TTerm) : TBlock :=
    ⟨block, cut, sub, if sub = 0 then first else at_, region, if sub = 0 then args else as, is, t, at_⟩
  match ins.getLast? with
  | none => [mk first 0 args [] .leave]
  | some (i, t) =>
    match t.opc, i.args with
    | 0x140, [r] => [mk t.inst 0 args body (.jump (refEdge r 0))]
    | 0x141, [.val q, r0, r1] => [mk t.inst 0 args body (.cond q.toNat (refEdge r0 0) (refEdge r1 1))]
    | 0x142, .val v :: d :: cs =>
      switchChain (mk t.inst) val t v.toNat count block cut (refEdge d 0) 0 (switchCases cs 1) body
    | _, _ => [mk t.inst 0 args (body ++ [t]) .leave]

/-- The pieces of a block: cut after each REGREL and REGCLM (R92). -/
def cutBlock (block region0 : Nat) (val : Nat → Option TVal) (count : Nat) :
    Nat → Nat → List TVal → List (Lpf.Inst × TInst) → List (Lpf.Inst × TInst) → List TBlock
  | cut, first, args, acc, [] => endPiece block cut first (region0 + cut) args val count acc
  | cut, first, args, acc, (i, t) :: rest =>
    if t.opc == 0x14D || t.opc == 0x14E then
      let defined := (acc.map (·.2) ++ [t]).flatMap (·.defs) |>.map (·.idx)
      let known (v : Nat) : Bool := defined.contains v || args.any (·.idx == v)
      let live := (sortedVals (rest.flatMap fun r => instVals r.1)).filter known
      ⟨block, cut, 0, first, region0 + cut, args, acc.map (·.2) ++ [t], .fall ⟨block, cut + 1, 0, live, 0xFFFF⟩, t.inst⟩ ::
        cutBlock block region0 val count (cut + 1) (t.inst + 1) (live.filterMap val) [] rest
    else cutBlock block region0 val count cut first args (acc ++ [(i, t)]) rest

/-- The blocks of a function in layout order, implicit blocks included. -/
def LFunc.tblocks (f : LFunc) : List TBlock :=
  f.blocks.zipIdx.flatMap fun p =>
    let ins := typedInsts p.1
    let args := blockArgs p.1
    let vals := args ++ ins.flatMap fun i => i.2.defs
    let val (n : Nat) : Option TVal := vals.find? (·.idx == n)
    cutBlock p.2 (f.regionAt p.2 0) val vals.length 0 0 args [] ins

/-! ### Edges -/

def TTerm.edges : TTerm → List TEdge
  | .jump e => [e]
  | .cond _ t f => [t, f]
  | .fall e => [e]
  | .leave => []

def TEdge.names (e : TEdge) (b : TBlock) : Bool := e.block == b.block && e.cut == b.cut && e.sub == b.sub

/-- The continuation blocks of the FREEZEs of a function (R51). -/
def LFunc.conts (f : LFunc) : List Nat :=
  nodup (f.blocks.flatMap fun b => b.insts.filterMap fun ws => match Lpf.decode ws with
    | .ok (i, _) => if i.opc == 0x14A#9 then
        (match i.args with
          | [.ref c _] => some c.toNat
          | _ => none) else none
    | .error _ => none)

/-- The region entries (R92): block 0, the blocks after a cut, the targets from other regions, the continuations. -/
def isEntry (conts : List Nat) (bs : List TBlock) (b : TBlock) : Bool :=
  (b.sub == 0 && (b.cut != 0 || b.block == 0 || conts.contains b.block)) ||
    bs.any fun c => c.region != b.region && c.term.edges.any fun e => e.names b

/-! ### Template depths and last registers (R100, R411) -/

/-- The references of a function: source block, target block, whether it is a FREEZE. -/
def LFunc.refs (f : LFunc) : List (Nat × Nat × Bool) :=
  f.blocks.zipIdx.flatMap fun p => p.1.insts.flatMap fun ws => match Lpf.decode ws with
    | .ok (i, _) => i.args.filterMap fun a => match a with
      | .ref b _ => some (p.2, b.toNat, i.opc == 0x14A#9)
      | _ => none
    | .error _ => []

/-- One round of depths: every reference from a block of known depth gives its target one that has none. -/
def depthRound (refs : List (Nat × Nat × Bool)) (d : Tab Nat) : Tab Nat :=
  refs.foldl (fun d r => match tget d r.1, tget d r.2.1 with
    | some n, none => tset d r.2.1 (if r.2.2 then n + 1 else n)
    | _, _ => d) d

/-- The template depth of the blocks that block 0 reaches (R411). -/
def LFunc.depths (f : LFunc) : Tab Nat :=
  (List.range f.blocks.length).foldl (fun d _ => depthRound f.refs d) [(0, 0)]

/-- What is known of where an argument lies: nothing yet, in no last register, or in one. -/
inductive LastAt where
  | open_ | no | at_ (n : Nat)
deriving DecidableEq, Repr

def LastAt.meet : LastAt → LastAt → LastAt
  | .open_, x => x
  | x, .open_ => x
  | .at_ a, .at_ b => if a = b then .at_ a else .no
  | _, _ => .no

/-- The place that a block's arguments give a value. -/
def lastIn (b : TBlock) (l : List LastAt) (v : Nat) : LastAt :=
  match b.args.findIdx? fun a => a.idx == v with
  | some j => (l[j]?).getD .no
  | none => .no

/-- One round of the propagation of R100; `fixed` gives the continuation arguments and block 0's. -/
def lastRound (bs : List TBlock) (fixed : TBlock → Option (List LastAt)) (cur : List (List LastAt)) : List (List LastAt) :=
  let ins := (bs.zip cur).flatMap fun p => p.1.term.edges.map fun e => (p.1, p.2, e)
  bs.map fun b => match fixed b with
    | some l => l
    | none => b.args.zipIdx.map fun a =>
      (ins.filter fun i => i.2.2.names b).foldl (fun m i =>
        m.meet (match i.2.2.args[a.2]? with
          | some v => lastIn i.1 i.2.1 v
          | none => .no)) .open_

/-- For each block of a function, the last register of each argument (R100). -/
def LFunc.lasts (f : LFunc) (bs : List TBlock) : List (List (Option Nat)) :=
  if f.levels = 0 then bs.map fun b => b.args.map fun _ => none
  else
    let depths := f.depths
    let conts := f.conts
    let fixed (b : TBlock) : Option (List LastAt) :=
      if b.cut == 0 && b.sub == 0 && conts.contains b.block then
        let base := sumNat (f.reserve.take ((tget depths b.block).getD 1 - 1))
        some (b.args.zipIdx.map fun a => LastAt.at_ (base + a.2))
      else if b.block == 0 && b.cut == 0 && b.sub == 0 then some (b.args.map fun _ => .no)
      else none
    let start := bs.map fun b => b.args.map fun _ => LastAt.open_
    let n := 2 * sumNat (bs.map (·.args.length)) + 1
    ((List.range n).foldl (fun c _ => lastRound bs fixed c) start).map fun l => l.map fun x => match x with
      | .at_ n => some n
      | _ => none

/-- The reuse set (R100): the four lowest last registers whose continuation arguments have no use. -/
def LFunc.reuse (f : LFunc) : List Nat :=
  if f.levels = 0 then []
  else
    let depths := f.depths
    let used := f.conts.flatMap fun c =>
      let lb := f.block c
      let base := sumNat (f.reserve.take ((tget depths c).getD 1 - 1))
      let named := (lb.insts.filterMap fun ws => (Lpf.decode ws).toOption.map (·.1)).flatMap instVals
      (List.range lb.args.length).filterMap fun j => if named.contains j then some (base + j) else none
    ((List.range (sumNat f.reserve)).filter fun n => !used.contains n).take 4

/-- The last block of depth 0 in layout, none in a function without levels (R100). -/
def LFunc.lastPrologue (f : LFunc) : Option Nat :=
  if f.levels = 0 then none else some (maxNat ((f.depths.filter fun d => d.2 == 0).map (·.1)))

/-! ### Intervals (R98) -/

/-- The instructions that take positions: the block's, and its jump or branch. -/
def TBlock.steps (b : TBlock) : Nat := b.insts.length + match b.term with
  | .jump _ | .cond _ _ _ => 1
  | _ => 0

/-- The values that an instruction uses. -/
def TInst.uses (t : TInst) : List Nat :=
  (match t.guard with
    | some (v, _) => [v]
    | none => []) ++ t.srcs.filterMap fun s => match s with
      | .val n => some n
      | .imm _ => none

/-- The values used at each position of a block whose entry is at E. -/
def TBlock.usesAt (b : TBlock) (e : Nat) : List (Nat × List Nat) :=
  let n := b.insts.length
  let body := b.insts.zipIdx.map fun p =>
    let own := p.1.uses
    let edge := match b.term with
      | .fall g => if p.2 + 1 = n then g.args else []
      | _ => []
    (e + 2 * p.2 + 1, own ++ edge)
  body ++ match b.term with
    | .jump g => [(e + 2 * n + 1, g.args)]
    | .cond q t f => [(e + 2 * n + 1, q :: (t.args ++ f.args))]
    | _ => []

/-- The values of a block with the position that defines them, and whether a guarded instruction does. -/
def TBlock.defsAt (b : TBlock) (e : Nat) : List (TVal × Nat × Bool) :=
  b.args.map (fun v => (v, e, false)) ++
    b.insts.zipIdx.flatMap fun p => p.1.defs.map fun v => (v, e + 2 * p.2 + 2, p.1.guard.isSome)

/-- The use positions of the CALLs of a block. -/
def TBlock.callsAt (b : TBlock) (e : Nat) : List Nat :=
  b.insts.zipIdx.filterMap fun p => if p.1.opc == 0x143 then some (e + 2 * p.2 + 1) else none

/-- The interval of a value. -/
def intervalEnd (uses : List (Nat × List Nat)) (v start : Nat) : Nat :=
  maxNat (start :: (uses.filter fun u => u.2.contains v && start ≤ u.1).map (·.1))

/-! ### Frames (R95, R96) -/

/-- The lowest offset of a run of w words that is free of the given runs. -/
def lowestRun (taken : List (Nat × Nat)) (w : Nat) : Nat :=
  let cands := sortBy id (0 :: taken.map fun t => t.1 + t.2)
  (cands.find? fun c => taken.all fun t => c + w ≤ t.1 || t.1 + t.2 ≤ c).getD 0

/-- The call-save words of a block's values: value, word (R96). `skip` tells the values that lie in last registers. -/
def TBlock.saves (b : TBlock) (skip : Nat → Bool) : List (Nat × Nat) :=
  let uses := b.usesAt 0
  let calls := b.callsAt 0
  let crossing := (b.defsAt 0).filterMap fun d =>
    let hi := intervalEnd uses d.1.idx d.2.1
    if !skip d.1.idx && calls.any fun c => d.2.1 < c && c < hi then some (d.1, d.2.1, hi) else none
  let got := (sortBy (fun d => d.1.idx) crossing).foldl (fun (acc : List (TVal × Nat × Nat × Nat)) d =>
    let (v, lo, hi) := d
    let clash := acc.filter fun a => a.2.1 ≤ hi && lo ≤ a.2.2.1
    let w := lowestRun (clash.map fun a => (a.2.2.2, a.1.width)) v.width
    acc ++ [(v, lo, hi, w)]) []
  got.map fun g => (g.1.idx, g.2.2.2)

/-- What the translator knows of a function before it takes a region: its blocks, the last registers of their arguments, A
and S, and the reuse set. -/
structure FuncMap where
  blocks : List TBlock
  lasts : List (List (Option Nat))
  entries : List Bool
  a : Nat
  s : Nat
  reuse : List Nat
  prologue : Option Nat
deriving DecidableEq, Repr

/-- The width of the transfer words of a block's arguments. -/
def transferWidth (b : TBlock) (l : List (Option Nat)) : Nat :=
  sumNat ((b.args.zip l).map fun p => if p.2.isSome then 0 else p.1.width)

/-- Whether a value of a block lies in a last register from its entry. -/
def inLast (b : TBlock) (l : List (Option Nat)) (v : Nat) : Option Nat :=
  ((b.args.zip l).find? fun p => p.1.idx == v).bind (·.2)

/-- The map of a function (R95, R96, R100). -/
def LFunc.map (f : LFunc) : FuncMap :=
  let bs := f.tblocks
  let ls := f.lasts bs
  let conts := f.conts
  let ents := bs.map fun b => isEntry conts bs b
  let widths := (bs.zip (ls.zip ents)).map fun p => if p.2.2 then transferWidth p.1 p.2.1 else 0
  let a := Nat.max (maxNat widths) (if f.restype = 0 then 0 else 1)
  let s := maxNat ((bs.zip ls).flatMap fun p =>
    (p.1.saves fun v => (inLast p.1 p.2 v).isSome).map fun g =>
      g.2 + (((p.1.defsAt 0).find? fun d => d.1.idx == g.1).map (·.1.width)).getD 1)
  ⟨bs, ls, ents, a, s, f.reuse, f.lastPrologue⟩

end Sys2Proof.Machine
end

