-- ==== Sys2Proof/Machine/Tron.lean ====
section
/-! DEFINITION. The tron's algorithm, TPV 1 (R91-R113): the scan, the native ops of a region, their schedule, and the words
and point map of a translation. -/

namespace Sys2Proof.Machine

/-! ### The scan (R99, R100) -/

/-- Where a piece of a value lies; a copy may also take a constant, by its selector. -/
inductive VLoc where
  | reg (n : Nat) | frame (w : Nat) | last (n : Nat) | const (sel : Nat)
deriving DecidableEq, Repr

/-- A piece of an interval (R98): its value, its ends, the transfer or call-save words that are its spill slot (R97), and
whether it may take a last register of the reuse set. -/
structure Piece where
  val : TVal
  lo : Nat
  hi : Nat
  slot : Option Nat
  mayLast : Bool
deriving DecidableEq, Repr

structure ScanState where
  active : List (Nat × VLoc) := []
  locs : Tab VLoc := []
  slots : Nat
  spilled : Bool := false
deriving DecidableEq, Repr

def pieceAt (ps : List Piece) (i : Nat) : Piece := (ps[i]?).getD ⟨⟨0, 0, 0⟩, 0, 0, none, false⟩

/-- The registers that active intervals hold. -/
def heldRegs (ps : List Piece) (active : List (Nat × VLoc)) : List Nat :=
  active.flatMap fun a => match a.2 with
    | .reg n => (List.range (pieceAt ps a.1).val.width).map (n + ·)
    | _ => []

/-- The lowest run of free registers in p0 .. p(n-1). -/
def freeRun (ps : List Piece) (active : List (Nat × VLoc)) (n w : Nat) : Option VLoc :=
  let held := heldRegs ps active
  (firstNat (fun r => (List.range w).all fun i => !held.contains (r + i)) (n + 1 - w) 0).map .reg

/-- last_reuse (R100). -/
def lastReuse (reuse : List Nat) (active : List (Nat × VLoc)) (p : Piece) : Option VLoc :=
  if p.mayLast then (reuse.find? fun n => !(active.any fun a => a.2 == VLoc.last n)).map .last else none

/-- The piece of a value at a position is in the frame. -/
def framed (ps : List Piece) (locs : Tab VLoc) (v pos : Nat) : Bool :=
  locs.any fun l => match l.2 with
    | .frame _ => let p := pieceAt ps l.1; p.val.idx == v && p.lo ≤ pos && pos ≤ p.hi
    | _ => false

/-- Some instruction would have two operands in the frame if the piece were spilled. -/
def clashes (ps : List Piece) (uses : List (Nat × List Nat)) (locs : Tab VLoc) (p : Piece) : Bool :=
  uses.any fun u => p.lo ≤ u.1 && u.1 ≤ p.hi && u.2.contains p.val.idx &&
    u.2.any fun v => v != p.val.idx && framed ps locs v u.1

/-- The candidate with the greatest end; ties go to the greatest value index. -/
def furthest (ps : List Piece) (cs : List Nat) : Option Nat :=
  cs.foldl (fun best c => match best with
    | none => some c
    | some b =>
      let p := pieceAt ps c
      let q := pieceAt ps b
      if q.hi < p.hi || (q.hi == p.hi && q.val.idx < p.val.idx) then some c else some b) none

/-- Spilling one piece (R95, R97). -/
def ScanState.spill (ps : List Piece) (x : Nat) (st : ScanState) : ScanState :=
  let p := pieceAt ps x
  let (w, next) := match p.slot with
    | some w => (w, st.slots)
    | none => (st.slots, st.slots + p.val.width)
  { active := st.active.filter fun a => a.1 != x, locs := tset st.locs x (.frame w), slots := next, spilled := true }

/-- The while loop of R99: spill until piece v has a place. -/
def makePlace (ps : List Piece) (uses : List (Nat × List Nat)) (n v : Nat) : Nat → ScanState → Option ScanState
  | 0, _ => none
  | fuel + 1, st =>
    let cs := (st.active.map (·.1) ++ [v]).filter fun c => !clashes ps uses st.locs (pieceAt ps c)
    match furthest ps cs with
    | none => none
    | some x =>
      let st1 := st.spill ps x
      if x = v then some st1
      else match freeRun ps st1.active n (pieceAt ps v).val.width with
        | some l => some { st1 with active := st1.active ++ [(v, l)], locs := tset st1.locs v l }
        | none => makePlace ps uses n v fuel st1

/-- One interval of the scan. -/
def scanOne (ps : List Piece) (uses : List (Nat × List Nat)) (reuse : List Nat) (n : Nat) (st : ScanState) (v : Nat) :
    Option ScanState :=
  let p := pieceAt ps v
  let st1 := { st with active := st.active.filter fun a => p.lo ≤ (pieceAt ps a.1).hi }
  match (freeRun ps st1.active n p.val.width).or (lastReuse reuse st1.active p) with
  | some l => some { st1 with active := st1.active ++ [(v, l)], locs := tset st1.locs v l }
  | none => makePlace ps uses n v (st1.active.length + 1) st1

/-- scan(G, n); none when it traps. -/
def scanRegion (ps : List Piece) (uses : List (Nat × List Nat)) (reuse : List Nat) (n base : Nat) : Option ScanState :=
  let order := sortBy (fun i => (pieceAt ps i).lo * 65536 * 2 + (pieceAt ps i).val.idx) (List.range ps.length)
  order.foldl (fun (st : Option ScanState) v => st.bind fun s => scanOne ps uses reuse n s v) (some { slots := base })

/-- The outcome of the allocation: the locations, the frame words, and the first register of the scratch run (R99). -/
structure Alloc where
  locs : Tab VLoc
  frame : Nat
  scratch : Nat
deriving DecidableEq, Repr

/-- translate_alloc(G, B) (R99); none for TRANSLATION_FAULT. -/
def allocate (ps : List Piece) (uses : List (Nat × List Nat)) (reuse : List Nat) (b s base : Nat) : Option Alloc :=
  (scanRegion ps uses reuse b base).bind fun first =>
    if !first.spilled then some ⟨first.locs, first.slots, b⟩
    else if b ≤ s then none
    else (scanRegion ps uses reuse (b - s) base).map fun st => ⟨st.locs, st.slots, b - s⟩

/-! ### Native ops -/

/-- What a BRN or PBR names: a block of the function, or its not-taken or taken stub. -/
inductive Label where
  | block (i : Nat) | stubF (i : Nat) | stubT (i : Nat)
deriving DecidableEq, Repr

/-- A native op before its slot: fields, what it reads and writes (registers by selector, 0x400 + n for qn), and what R104 asks
of it. `safe` marks the ops that R107 holds back; `defs` are the values, with the start of their piece, that
stand in their places once it has landed. -/
structure NOp where
  inst : Nat
  cls : Cls
  code : Nat
  mod : BitVec 8 := 0
  gq : Nat := 0
  gn : Bool := false
  dest : Nat := 0
  a : Nat := 0
  b : Nat := 0
  c : Nat := 0
  imm : Option Word := none
  reads : List Nat := []
  writes : List Nat := []
  lat : Nat := 1
  mem : Nat := 0
  ord : Bool := false
  locked : Bool := false
  traps : Bool := false
  shape : Option (Nat × Nat) := none
  defs : List (Nat × Nat) := []
  safe : Bool := false
  goal : Option Label := none
  edge : Option Nat := none
deriving DecidableEq, Repr

/-- Thirty bits of a J layout as the fields A, B and C. -/
def NOp.withJ (o : NOp) (j : Nat) : NOp := { o with a := j / 2 ^ 20 % 1024, b := j / 2 ^ 10 % 1024, c := j % 1024 }

/-- Latencies that the tron uses (R104, R131). -/
def tronLat (wide : Bool) (opc ty mod : Nat) : Nat :=
  let e := elemTy ty
  match opc with
  | 0x002 | 0x003 => 3
  | 0x006 => 4
  | 0x007 | 0x008 => if tyBits ty ≤ 32 then 20 else 36
  | 0x040 | 0x041 | 0x042 | 0x043 => if e = 12 then 8 else 4
  | 0x044 => if e = 12 then 40 else 24
  | 0x045 | 0x046 | 0x047 | 0x048 | 0x080 | 0x081 | 0x082 | 0x083 | 0x084 => 3
  | 0x049 => if mod / 8 % 2 = 1 then 16 else 8
  | 0x04A => 6
  | 0x04B => 4
  | 0x04C | 0x04D => if wide then 10 else 12
  | 0x0A0 => if wide then 64 else 128
  | 0x0A7 => 2
  | 0x0C0 | 0x0C2 => if mod / 32 = 2 then 14 else 30
  | 0x0C4 | 0x0C5 | 0x0C6 | 0x0C7 => 110
  | 0x101 | 0x184 => 2
  | 0x107 => 6
  | 0x122 | 0x124 | 0x14F | 0x182 => 4
  | 0x183 => 110
  | _ => 1

/-- Memory accesses for R104: 1 reads, 2 writes. -/
def tronMem (opc : Nat) : Nat :=
  match opc with
  | 0x0A1 | 0x0A5 | 0x0C0 | 0x0C2 | 0x0C8 => 1
  | 0x0A2 | 0x0C1 | 0x0C3 | 0x0C4 | 0x0C5 | 0x0C6 | 0x0C7 | 0x0C9 | 0x0CA | 0x0CB | 0x183 => 2
  | _ => 0

/-- Ordering ops (R104, R360, R364, R366). RET is one: nothing may issue after it. -/
def tronOrders (opc : Nat) : Bool :=
  [0x0A4, 0x0A5, 0x0A6, 0x0A7, 0x0A8, 0x0A9, 0x0C4, 0x0C5, 0x0C6, 0x0C7, 0x100, 0x101, 0x102, 0x103, 0x104, 0x105, 0x120,
    0x123, 0x124, 0x125, 0x143, 0x144, 0x145, 0x146, 0x148, 0x14A, 0x14B, 0x14D, 0x14E, 0x184].contains opc

/-- Ops whose reference entry lists a trap (R113), whatever their types (DEDUCED, log 46). -/
def tronTraps (opc : Nat) : Bool :=
  [0x04C, 0x04D, 0x081, 0x007, 0x008, 0x040, 0x041, 0x042, 0x043, 0x044, 0x045, 0x046, 0x047, 0x048, 0x049, 0x080, 0x0A0, 0x0A1, 0x0A2,
      0x0A3, 0x0A4, 0x0A5, 0x0A6, 0x0A7, 0x0A8, 0x0C0, 0x0C1, 0x0C2, 0x0C3, 0x0C4, 0x0C5, 0x0C6, 0x0C7, 0x0C9, 0x0CA,
      0x0CB, 0x101, 0x102, 0x103, 0x104, 0x105, 0x106, 0x107, 0x120, 0x121, 0x123, 0x125, 0x143, 0x144, 0x145, 0x148,
      0x149, 0x14A, 0x14B, 0x14D, 0x14E, 0x14F, 0x150, 0x180, 0x181, 0x182, 0x183, 0x184].contains opc

/-- Ops whose bundle shows the tile shape (R293). -/
def tronTile (opc ty : Nat) : Bool :=
  isTileTy ty || [0x083, 0x0C9, 0x101, 0x104, 0x105, 0x106, 0x107, 0x123, 0x184].contains opc

/-- The lowest selector among n from a base whose constant is w. -/
def selIn (base n : Nat) (w : Word) : Option Nat := firstNat (fun s => constWord s == some w) n base

/-- The constant selector of an immediate (R125): of a float type from its own table first, else the lowest (DEDUCED, log 44). -/
def constSel (ty : Nat) (w : Word) : Option Nat :=
  let all := selIn 0x180 0x70 w
  if ty = 11 then (selIn 0x1D0 16 w).or all else if ty = 12 then (selIn 0x1E0 16 w).or all else all

/-- The operand fields, in the order of the operands: 0 A, 1 B, 2 C, 3 the extension word (R303 and the entries). -/
def placesOf (opc mod : Nat) : List Nat :=
  if opc = 0x01C then [1] else if opc = 0x0C0 && mod / 16 % 2 = 1 then [0, 2] else [0, 1, 2, 3]

/-! ### What the emission of a region knows -/

structure RegionEnv where
  map : FuncMap
  wide : Bool
  pieces : List Piece
  locs : Tab VLoc
  scratch : Nat
  /-- The entry position of each block of the function; blocks of other regions have none. -/
  entry : List (Option Nat)
deriving DecidableEq, Repr

/-- The place of a value of a block at a position. -/
def RegionEnv.locOf (r : RegionEnv) (bi v pos : Nat) : VLoc :=
  let early := (r.map.blocks[bi]?).bind fun b => (r.map.lasts[bi]?).bind fun l => inLast b l v
  match early with
  | some n => .last n
  | none => ((r.locs.find? fun l =>
      let p := pieceAt r.pieces l.1
      p.val.idx == v && p.lo ≤ pos && pos ≤ p.hi).map (·.2)).getD (.reg 0)

def VLoc.sel : VLoc → Nat
  | .reg n => n
  | .last n => 0x140 + n
  | .const n => n
  | .frame _ => 0

/-- The registers of a run at a location. -/
def VLoc.run (l : VLoc) (w : Nat) : List Nat :=
  match l with
  | .reg n => (List.range w).map (n + ·)
  | .last n => [0x140 + n]
  | .frame _ | .const _ => []

/-- FILL and SPILL (R338, R379) and the two forms of MOV (R295, R358). -/
def fillOp (inst dest w : Nat) : NOp :=
  ({ inst := inst, cls := .mem, code := 0x11, dest := dest, writes := [dest], lat := 30, mem := 1, locked := true, traps := true : NOp }).withJ (w * 2 ^ 16)

def spillOp (inst src w : Nat) : NOp :=
  ({ inst := inst, cls := .mem, code := 0x10, reads := if isReg src || isLast src then [src] else [], mem := 2, traps := true : NOp }).withJ (w * 2 ^ 16 + src)

def movOp (inst dest src ty : Nat) : NOp :=
  { inst := inst, cls := .int, code := 0x3E, mod := BitVec.ofNat 8 (ty * 8), dest := dest, a := src, reads := [src], writes := [dest] }

def movQ (inst q src : Nat) : NOp :=
  { inst := inst, cls := .int, code := 0x3E, mod := 0x71#8, dest := q, a := src, reads := [src], writes := [0x400 + q] }

def fillRun (inst dest w n : Nat) : List NOp := (List.range n).map fun i => fillOp inst (dest + i) (w + i)
def spillRun (inst src w n : Nat) : List NOp := (List.range n).map fun i => spillOp inst (src + i) (w + i)

/-! ### Parallel copies (R102) -/

/-- A pending copy of n units. -/
structure Copy where
  dst : VLoc
  src : VLoc
  n : Nat
  ty : Nat
deriving DecidableEq, Repr

/-- A value of w registers as copies of one register each; a tile that lies in a last register moves as a whole. -/
def copiesOf (dst src : VLoc) (w ty : Nat) : List Copy :=
  let at_ (l : VLoc) (i : Nat) : VLoc := match l with
    | .reg n => .reg (n + i)
    | .frame n => .frame (n + i)
    | .last n => .last n
    | .const n => .const n
  match src with
  | .last _ => [⟨dst, src, w, ty⟩]
  | _ => (List.range w).map fun i => ⟨at_ dst i, at_ src i, 1, if isTileTy ty then 8 else ty⟩

def overlaps (a : VLoc) (n : Nat) (b : VLoc) (m : Nat) : Bool :=
  match a, b with
  | .reg x, .reg y => x < y + m && y < x + n
  | .frame x, .frame y => x < y + m && y < x + n
  | .last x, .last y => x == y
  | _, _ => false

def VLoc.order : VLoc → Nat
  | .reg n | .const n => n
  | .last n => 0x140 + n
  | .frame w => 0x1000 + w

/-- The ops of one copy; a MOV has the TY of the value that it moves, as the listing of R408 has it (DEDUCED, log 43). -/
def copyOps (inst scratch : Nat) (c : Copy) : List NOp :=
  match c.src, c.dst with
  | .frame w, .frame v => [fillOp inst scratch w, spillOp inst scratch v]
  | .frame w, d => [fillOp inst d.sel w]
  | .last n, .frame v =>
    if c.n ≤ 1 then [spillOp inst (0x140 + n) v]
    else { movOp inst scratch (0x140 + n) c.ty with writes := (List.range c.n).map (scratch + ·), locked := true } ::
      spillRun inst scratch v c.n
  | .last n, d =>
    if c.n ≤ 1 then [movOp inst d.sel (0x140 + n) c.ty]
    else [{ movOp inst d.sel (0x140 + n) c.ty with writes := d.run c.n, locked := true }]
  | s, .frame v => [spillOp inst s.sel v]
  | s, d => [movOp inst d.sel s.sel c.ty]

/-- The rounds of R102; `move` is the move word. -/
def copyRounds (inst scratch move : Nat) : Nat → List Copy → List NOp
  | 0, _ => []
  | _, [] => []
  | fuel + 1, c0 :: rest =>
    let cs := c0 :: rest
    let ready := cs.filter fun c => cs.all fun d => !overlaps c.dst c.n d.src d.n
    match ready with
    | [] =>
      let low := (sortBy (fun c => c.dst.order) cs).headD c0
      let save := copyOps inst scratch ⟨.frame move, low.dst, low.n, 8⟩
      save ++ copyRounds inst scratch move fuel (cs.map fun c => if overlaps low.dst low.n c.src c.n then { c with src := .frame move } else c)
    | _ :: _ =>
      (sortBy (fun c => c.dst.order) ready).flatMap (copyOps inst scratch) ++
        copyRounds inst scratch move fuel (cs.filter fun c => !ready.contains c)

def parallelCopy (inst scratch move : Nat) (cs : List Copy) : List NOp :=
  let live := cs.filter fun c => c.dst != c.src
  copyRounds inst scratch move (3 * live.length + 1) live

/-! ### The ops of an instruction -/

/-- Where an operand stands: its selector, the long immediate that takes its place, its registers, and the FILLs before it. -/
structure Placed1 where
  sel : Nat
  imm : Option Word
  regs : List Nat
  fills : List NOp
deriving DecidableEq, Repr

/-- The width of a value of a block. -/
def RegionEnv.widthOf (r : RegionEnv) (bi v : Nat) : Nat :=
  ((r.map.blocks[bi]?).bind fun b => ((b.defsAt 0).find? fun d => d.1.idx == v).map (·.1.width)).getD 1

def RegionEnv.tyOf (r : RegionEnv) (bi v : Nat) : Nat :=
  ((r.map.blocks[bi]?).bind fun b => ((b.defsAt 0).find? fun d => d.1.idx == v).map (·.1.ty)).getD 8

/-- A value as an operand at a position. -/
def RegionEnv.readVal (r : RegionEnv) (bi inst v pos : Nat) : Placed1 :=
  let w := r.widthOf bi v
  match r.locOf bi v pos with
  | .frame f => ⟨r.scratch, none, (List.range w).map (r.scratch + ·), fillRun inst r.scratch f w⟩
  | l => ⟨l.sel, none, l.run w, []⟩

/-- The FILL and MOV that bring a pr value into its predicate register (R103). -/
def RegionEnv.guardOps (r : RegionEnv) (bi inst v pos u : Nat) : List NOp :=
  let p := r.readVal bi inst v pos
  p.fills ++ [movQ inst (1 + u % 7) p.sel]

/-- The transfer word of each argument of an entry; none for those in last registers. -/
def transferWords (b : TBlock) (l : List (Option Nat)) : List (Option Nat) :=
  ((b.args.zip l).foldl (fun (acc : List (Option Nat) × Nat) p => match p.2 with
    | some _ => (acc.1 ++ [none], acc.2)
    | none => (acc.1 ++ [some acc.2], acc.2 + p.1.width)) ([], 0)).1

/-- The accumulator tiles as one resource of R104. MMA names its tile only at run time. -/
def accRes : Nat := 0x480

/-- The native op of an instruction that has one op of its own (R291, R295, R303), after one FILL of the value that it reads from the
frame (R99, R101). An immediate of LUNPK is read as a z64, and takes the z64 form when it has more than 32 bits (DESIGN CHOICE, log 86). -/
def RegionEnv.plainOp (r : RegionEnv) (bi : Nat) (t : TInst) (pos : Nat) (guard : Nat × Bool) : List NOp :=
  let m := t.mod.toNat
  let tys := operandTypes t.opc t.ty m
  let ops := t.srcs.zipIdx.map fun p => match p.1 with
    | .val v => r.readVal bi t.inst v pos
    | .imm w => match constSel (elemTy ((tys[p.2]?).getD 8)) w with
      | some s => ⟨s, none, [], []⟩
      | none => ⟨0x1F3, some w, [], []⟩
  let at_ (n : Nat) : Option Placed1 := ((placesOf t.opc m).zip ops).find? (·.1 == n) |>.map (·.2)
  let field (n : Nat) : Nat := match at_ n with
    | some p => if n == 1 && p.imm.isSome then 0 else p.sel
    | none => 0
  let dests := (t.defs.foldl (fun (acc : List (TVal × VLoc × Nat) × Nat) v =>
    let l := r.locOf bi v.idx (pos + 1)
    match l with
    | .frame _ => (acc.1 ++ [(v, l, acc.2)], acc.2 + v.width)
    | _ => (acc.1 ++ [(v, l, l.sel)], acc.2)) (([] : List (TVal × VLoc × Nat)), r.scratch)).1
  let dest (n : Nat) : Nat := ((dests[n]?).map (·.2.2)).getD 0
  let second := word64 (dest 1)
  let ext : Option Word := match t.opc with
    | 0x004 | 0x005 => some second
    | 0x006 => some (second ||| word64 (field 3 * 2 ^ 10))
    | 0x0C4 | 0x0C5 | 0x0C6 | 0x0C7 => some (word64 t.ty)
    | _ => ops.findSome? (·.imm)
  let i : Lpf.Inst := ⟨BitVec.ofNat 9 t.opc, BitVec.ofNat 5 t.ty, t.mod, false, false, []⟩
  let conv := t.opc == 0x080 || t.opc == 0x081 || t.opc == 0x082
  let unpack := t.opc == 0x084 && (t.srcs.any fun s => match s with
    | .val v => r.tyOf bi v == 8
    | .imm w => 2 ^ 32 ≤ w.toNat)
  let writes := dests.flatMap fun d => if isReg d.2.2 then (List.range d.1.width).map (d.2.2 + ·) else [d.2.2]
  let lat := tronLat r.wide t.opc t.ty m
  let op : NOp :=
    { inst := t.inst, cls := ((Lpf.row t.opc).map (·.cls)).getD .ctl, code := i.nativeCode
      mod := if unpack then i.nativeMod ||| 1#8 else i.nativeMod
      gq := guard.1, gn := guard.2, dest := dest 0, a := field 0, b := field 1
      c := if conv then m / 8 % 32 else field 2, imm := ext
      reads := (ops.flatMap (·.regs)) ++ (if guard.1 = 0 then [] else [0x400 + guard.1]) ++
        (if t.opc = 0x0A0 || t.opc = 0x0A2 then [accRes] else [])
      writes := writes ++ (if t.opc = 0x0A0 || t.opc = 0x0A1 || t.opc = 0x0A3 then [accRes] else [])
      lat := lat, mem := tronMem t.opc, ord := tronOrders t.opc
      locked := !t.defs.isEmpty && (4 < lat || t.defs.any fun v => 1 < v.width)
      traps := tronTraps t.opc, shape := if tronTile t.opc t.ty then some t.shape else none
      defs := t.defs.map fun v => (v.idx, pos + 1) }
  let imm0 : Nat := match t.srcs.head? with
    | some (.imm w) => w.toNat
    | _ => 0
  let imm1 : Nat := match (t.srcs.drop 1).head? with
    | some (.imm w) => w.toNat
    | _ => 0
  let jd := { op with a := 0, b := 0, c := 0, imm := none }
  let final : NOp := match t.opc with
    | 0x145 | 0x146 | 0x147 => { jd with safe := t.opc == 0x146 }
    | 0x148 | 0x149 => jd.withJ (imm0 % 2 ^ 30)
    | 0x14B => jd.withJ (imm0 * 2 ^ 20)
    | 0x14C => jd.withJ (imm0 * 2 ^ 20)
    | 0x14D | 0x14E => jd.withJ (imm0 * 2 ^ 20 + Nat.log2 imm1 * 2 ^ 10)
    | 0x14F => jd.withJ (imm0 * 2 ^ 18)
    | 0x150 => jd.withJ (imm0 * 2 ^ 18 + ((at_ 1).map (·.sel)).getD 0)
    | _ => op
  ((ops.map (·.fills)).find? (!·.isEmpty)).getD [] ++ [final] ++ dests.flatMap fun d => match d.2.1 with
    | .frame w => (spillRun t.inst d.2.2 w d.1.width).map fun o => { o with defs := [(d.1.idx, pos + 1)] }
    | _ => []

/-- The copies of an operand, a value or a constant, to frame words. -/
def RegionEnv.copySrc (r : RegionEnv) (bi pos : Nat) (ty : Nat) (s : Src) (dst : Nat) : List Copy :=
  match s with
  | .val v => copiesOf (.frame dst) (r.locOf bi v pos) (r.widthOf bi v) (r.tyOf bi v)
  | .imm w => [⟨.frame dst, .const ((constSel ty w).getD 0x180), 1, ty⟩]

/-- The registers, or frame words, of an operand. -/
def RegionEnv.srcWidth (r : RegionEnv) (bi : Nat) (s : Src) : Nat :=
  match s with
  | .val v => r.widthOf bi v
  | .imm _ => 1

/-- Operands to frame words from a base upward, in their order but where one would overwrite what another still reads (R97; DEDUCED,
log 45). -/
def RegionEnv.toWords (r : RegionEnv) (bi inst pos base : Nat) (srcs : List Src) (tys : List Nat) : List NOp :=
  let cs := (srcs.zipIdx.foldl (fun (acc : List Copy × Nat) p =>
    (acc.1 ++ r.copySrc bi pos ((tys[p.2]?).getD 8) p.1 acc.2, acc.2 + r.srcWidth bi p.1)) (([] : List Copy), base)).1
  parallelCopy inst r.scratch (r.map.a + r.map.s) cs

/-- A CALL (R97, R323): call-save words, arguments, the op, the result, and what comes back from the call-save words. -/
def RegionEnv.callOps (r : RegionEnv) (bi : Nat) (t : TInst) (pos : Nat) : List NOp :=
  let b := (r.map.blocks[bi]?).getD ⟨0, 0, 0, 0, 0, [], [], .leave, 0⟩
  let saves := b.saves fun v => (inLast b ((r.map.lasts[bi]?).getD []) v).isSome
  let crossing := sortBy (fun p => p.val.idx) (r.pieces.filter fun p => p.hi == pos && r.pieces.any fun q => q.val.idx == p.val.idx && q.lo == pos + 1)
  let word (v : Nat) : Nat := ((saves.find? (·.1 == v)).map (·.2)).getD 0 + r.map.a
  let out := crossing.flatMap fun p =>
    match r.locOf bi p.val.idx pos with
    | .frame w => if w = word p.val.idx then [] else
        (List.range p.val.width).flatMap fun i => copyOps t.inst r.scratch ⟨.frame (word p.val.idx + i), .frame (w + i), 1, 8⟩
    | l => (copiesOf (.frame (word p.val.idx)) l p.val.width p.val.ty).flatMap (copyOps t.inst r.scratch)
  let back := crossing.flatMap fun p => match r.locOf bi p.val.idx (pos + 1) with
    | .frame _ => []
    | l => (fillRun t.inst l.sel (word p.val.idx) p.val.width).map fun o => { o with defs := [(p.val.idx, pos + 1)] }
  let base := r.map.a + r.map.s
  let args := r.toWords bi t.inst pos base (t.srcs.drop 1) []
  let fidx := match t.srcs.head? with
    | some (.imm w) => w.toNat
    | _ => 0
  let call : NOp := ({ inst := t.inst, cls := .ctl, code := 0x43, ord := true, traps := true : NOp }).withJ (fidx * 2 ^ 14)
  let result := t.defs.flatMap fun v => match r.locOf bi v.idx (pos + 1) with
    | .frame w => (fillRun t.inst r.scratch base v.width ++ spillRun t.inst r.scratch w v.width).map fun o =>
        { o with defs := [(v.idx, pos + 1)] }
    | l => (fillRun t.inst l.sel base v.width).map fun o => { o with defs := [(v.idx, pos + 1)] }
  (out ++ args ++ [call]).map (fun o => { o with safe := true }) ++ result ++ back

/-- The ops of an instruction, and the count of predicate uses after it (R103). -/
def RegionEnv.instOps (r : RegionEnv) (bi : Nat) (t : TInst) (pos u : Nat) : List NOp × Nat :=
  match t.opc with
  | 0x04E => ([], u)
  | 0x143 => (r.callOps bi t pos, u)
  | 0x144 =>
    (r.toWords bi t.inst pos 0 t.srcs (operandTypes t.opc t.ty 0) ++
      [{ inst := t.inst, cls := .ctl, code := 0x44, ord := true, traps := true }], u)
  | 0x14A =>
    (r.toWords bi t.inst pos 0 t.srcs [] ++
      [({ inst := t.inst, cls := .ctl, code := 0x4A, ord := true, traps := true : NOp }).withJ (t.srcs.length * 2 ^ 20)], u)
  | opc =>
    let (pre, g, u1) : List NOp × (Nat × Bool) × Nat := match t.guard with
      | some (v, neg) => (r.guardOps bi t.inst v pos u, (1 + u % 7, neg), u + 1)
      | none => ([], (0, false), u)
    let tshape := opc == 0x14F && t.srcs == [.imm 0x012]
    let t1 : TInst := if tshape then
        { t with opc := 0x01C, ty := 8, mod := 0, srcs := [.imm (word64 (t.shape.1 + t.shape.2 * 2 ^ 8))] }
      else t
    (pre ++ r.plainOp bi t1 pos g, u1)

/-- The copies of an edge (R97, R102): into the places of the target's arguments, or into its transfer words. -/
def RegionEnv.edgeOps (r : RegionEnv) (bi inst pos : Nat) (e : TEdge) : List NOp :=
  match r.map.blocks.findIdx? e.names with
  | none => []
  | some ti =>
    let b := (r.map.blocks[ti]?).getD ⟨0, 0, 0, 0, 0, [], [], .leave, 0⟩
    let ls := (r.map.lasts[ti]?).getD []
    let words := transferWords b ls
    let cs := (b.args.zip (ls.zip (words.zip e.args))).flatMap fun p =>
      let (v, l, w, src) := p
      match l with
      | some _ => []
      | none =>
        let dst := if (r.map.entries[ti]?).getD false then VLoc.frame (w.getD 0)
          else r.locOf ti v.idx (((r.entry[ti]?).bind id).getD 0)
        copiesOf dst (r.locOf bi src pos) v.width v.ty
    parallelCopy inst r.scratch (r.map.a + r.map.s) cs

/-! ### Scheduling (R104, R105) -/

def meet (a b : List Nat) : Bool := a.any b.contains

def orMax (a : Option Nat) (b : Nat) : Option Nat := some (Nat.max (a.getD 0) b)

/-- The latency of the edge from a to the later op b, if there is one (R104, R107). -/
def edgeLat (a b : NOp) : Option Nat :=
  let r0 : Option Nat := if meet b.reads a.writes then some a.lat else none
  let r1 := if meet b.writes a.reads then orMax r0 0 else r0
  let r2 := if meet b.writes a.writes then orMax r1 (Nat.max 1 (a.lat + 1 - b.lat)) else r1
  let r3 := if a.mem != 0 && b.mem != 0 && (a.mem == 2 || b.mem == 2) then orMax r2 1 else r2
  let r4 := if a.ord || b.ord then orMax r3 1 else r3
  if b.safe && a.inst < b.inst then orMax r4 (if a.locked || a.writes.isEmpty || 4 < a.lat then 1 else Nat.max 1 a.lat) else r4

/-- The heights of ops in original order (R104). -/
def heights : List NOp → List Nat
  | [] => []
  | o :: rest =>
    let hs := heights rest
    Nat.max o.lat (maxNat ((rest.zip hs).filterMap fun p => (edgeLat o p.1).map (· + p.2))) :: hs

/-- An op in its cycle and slot; `imm` is the slot of its long immediate. -/
structure Sched where
  idx : Nat
  op : NOp
  cycle : Nat
  slot : Nat
  immSlot : Option Nat
deriving DecidableEq, Repr

/-- The slots that an op may take, in order, each with the slot of its long immediate (R105, R294). An SFN op on JXN-2 has none for it
and stands without it (DESIGN CHOICE, log 85). -/
def slotsFor (wide : Bool) (o : NOp) : List (Nat × Option Nat) :=
  let i := o.imm.isSome
  match o.cls, wide with
  | .ctl, _ => [(7, if i then some 6 else none)]
  | .int, true => if i then [(6, some 5), (5, some 4), (7, some 6)] else [(6, none), (5, none)]
  | .int, false => if i then [(7, some 6)] else [(6, none)]
  | .vec, true => if i then [(4, some 3), (3, some 2)] else [(4, none), (3, none)]
  | .vec, false => if i then [(4, some 3)] else [(4, none), (3, none)]
  | .sfn, true => [(2, if i then some 1 else none)]
  | .sfn, false => [(3, none)]
  | .mem, _ => [(1, if i then some 0 else none)]
  | .mtx, _ => [(0, none)]

/-- A slot is taken in a cycle; a VEC op of JXN-2, and its SFN op, holds its slot for two (R105). -/
def Sched.takes (wide : Bool) (s : Sched) (cycle slot : Nat) : Bool :=
  (s.cycle == cycle && (s.slot == slot || s.immSlot == some slot)) ||
    (!wide && (s.slot == 3 || s.slot == 4) && s.slot == slot && s.cycle + 1 == cycle)

def fitOp (wide : Bool) (placed : List Sched) (cycle : Nat) (o : NOp) : Option (Nat × Option Nat) :=
  let free (n : Nat) : Bool := !placed.any fun s => s.takes wide cycle n
  (slotsFor wide o).find? fun p => free p.1 && match p.2 with
    | some n => free n
    | none => true

/-- The first cycle that the edges from placed ops allow. -/
def readyFrom (placed : List Sched) (idx : Nat) (o : NOp) : Nat :=
  maxNat ((placed.filter fun s => s.idx < idx).filterMap fun s => (edgeLat s.op o).map (s.cycle + ·))

/-- The ops ready in a cycle, by height, ties by original order. -/
def readyOps (cycle : Nat) (placed : List Sched) (todo : List (Nat × NOp × Nat)) : List (Nat × NOp × Nat) :=
  let ready := todo.filter fun e =>
    (todo.all fun d => e.1 ≤ d.1 || (edgeLat d.2.1 e.2.1).isNone) && readyFrom placed e.1 e.2.1 ≤ cycle
  let top := maxNat (ready.map (·.2.2))
  sortBy (fun e => (top - e.2.2) * 2 ^ 20 + e.1) ready

/-- Placing in one cycle: the ready ops in order, each that still fits; then those that they made ready. -/
def fillCycle (wide : Bool) (cycle : Nat) : Nat → List Sched → List (Nat × NOp × Nat) → List Sched × List (Nat × NOp × Nat)
  | 0, placed, todo => (placed, todo)
  | fuel + 1, placed, todo =>
    let now := (readyOps cycle placed todo).foldl (fun (p : List Sched) e => match fitOp wide p cycle e.2.1 with
      | some (slot, imm) => p ++ [⟨e.1, e.2.1, cycle, slot, imm⟩]
      | none => p) placed
    if now.length = placed.length then (placed, todo)
    else fillCycle wide cycle fuel now (todo.filter fun d => !now.any fun s => s.idx == d.1)

def scheduleFrom (wide : Bool) : Nat → Nat → List Sched → List (Nat × NOp × Nat) → List Sched
  | 0, _, placed, _ => placed
  | fuel + 1, cycle, placed, todo =>
    match todo with
    | [] => placed
    | _ :: _ =>
      let (p, t) := fillCycle wide cycle (todo.length + 1) placed todo
      scheduleFrom wide fuel (cycle + 1) p t

/-- Schedules ops after those already placed, from a cycle on (R105). -/
def scheduleOps (wide : Bool) (start : Nat) (placed : List Sched) (ops : List NOp) : List Sched :=
  let n := placed.length
  let todo := (ops.zip (heights ops)).zipIdx.map fun p => (n + p.2, p.1.1, p.1.2)
  scheduleFrom wide (sumNat (ops.map fun o => o.lat + 2) + maxNat (placed.map fun s => s.op.lat) + 4) start placed todo

/-! ### Branches (R106, R110, R412) -/

/-- A run of cycles of one block or stub. -/
structure Section where
  label : Label
  bi : Nat
  start : Nat
  stop : Nat
  ops : List Sched
deriving DecidableEq, Repr

/-- A BRN: near to a label, or across regions with its extension word. -/
def brnOp (inst : Nat) (q : Option Nat) (goal : Label ⊕ Word) (safe : Bool) (ref : Nat) : NOp :=
  let base : NOp := { inst := inst, cls := .ctl, code := 0x40, gq := q.getD 0, reads := q.toList.map (0x400 + ·), safe := safe
                      edge := if ref = 0xFFFF then none else some ref }
  match goal with
  | .inl l => { base with goal := some l }
  | .inr w => { base with mod := 0x40#8, imm := some w, traps := true }

/-- The extension word of a cross-region BRN (R412). -/
def farWord (b : TBlock) : Word :=
  word64 (b.region * 2 ^ 48 + b.block * 2 ^ 32 + (if b.cut = 0 then 0 else b.first) * 2 ^ 16)

/-- The first cycle from `cycle` in which an op is ready and fits. -/
def firstFit (wide : Bool) (placed : List Sched) (o : NOp) : Nat → Nat → Nat × Option Nat
  | 0, cycle => (cycle, (slotsFor wide o).head?.bind (·.2))
  | fuel + 1, cycle => match fitOp wide placed cycle o with
    | some (_, imm) => (cycle, imm)
    | none => firstFit wide placed o fuel (cycle + 1)

/-- The last cycle of ops from a start; one before the start when there are none. -/
def lastCycle (start : Nat) (ops : List Sched) : Nat := maxNat ((start - 1) :: ops.map (·.cycle))

/-- Whether a block or stub that has no op yet has no cycle either. -/
def hasCycles (start : Nat) (ops : List Sched) : Bool := ops.any fun s => start ≤ s.cycle

/-- The cycle from which the predicate of a branch is readable. -/
def predicateFrom (placed : List Sched) (brn : NOp) : Nat :=
  maxNat ((placed.filter fun s => brn.gq != 0 && s.op.writes.contains (0x400 + brn.gq)).map fun s => s.cycle + s.op.lat)

/-- Ends a section with a BRN (R106): the placed ops, and the cycle after the section. `placed` are the ops of the section's
block before it; `fw` asks for the prepare form, in b register k mod 4 (R110). -/
def endWithBrn (wide fw : Bool) (k start : Nat) (placed : List Sched) (own : List Sched) (brn : NOp) : List Sched × Nat :=
  let all := placed ++ own
  let idx := all.length
  let ready := readyFrom all idx brn
  if fw then
    match brn.goal with
    | none =>
      let lo := Nat.max start (Nat.max ready (if hasCycles start own then lastCycle start own else start))
      let (c, imm) := firstFit wide all brn 64 lo
      (own ++ [⟨idx, brn, c, 7, imm⟩], c + 1)
    | some l =>
      let lastB := BitVec.ofNat 8 (k % 4)
      let pbr : NOp := { inst := brn.inst, cls := .ctl, code := 0x41, mod := lastB, goal := some l }
      let pStart := if brn.gq = 0 then start else Nat.max start (predicateFrom all brn + 1)
      let (pc, _) := firstFit wide all pbr 64 pStart
      let all1 := all ++ [⟨idx, pbr, pc, 7, none⟩]
      let b1 : NOp := { brn with mod := 0x80#8 ||| lastB, goal := none }
      let lo := Nat.max (pc + 1) (Nat.max ready (lastCycle start own))
      let (c, _) := firstFit wide all1 b1 64 lo
      (own ++ [⟨idx, pbr, pc, 7, none⟩, ⟨idx + 1, b1, c, 7, none⟩], c + 1)
  else
    let last := if hasCycles start own then lastCycle start own else start
    let lo := Nat.max start (Nat.max ready (last - 2))
    let (c, imm) := firstFit wide all brn 64 lo
    let fin := Nat.max (if hasCycles start own then lastCycle start own else c) (c + 2)
    (own ++ [⟨idx, brn, c, 7, imm⟩], fin + 1)

/-- What an edge's BRN names: the block, or the entry of another region. -/
def RegionEnv.target (r : RegionEnv) (region : Nat) (e : TEdge) : Label ⊕ Word :=
  match r.map.blocks.findIdx? e.names with
  | some ti =>
    let b := (r.map.blocks[ti]?).getD ⟨0, 0, 0, 0, 0, [], [], .leave, 0⟩
    if b.region == region then .inl (.block ti) else .inr (farWord b)
  | none => .inl (.block 0)

/-- Whether an edge goes back: to a block at or before its source in layout (R107). -/
def RegionEnv.isBack (r : RegionEnv) (bi : Nat) (e : TEdge) : Bool :=
  match r.map.blocks.findIdx? e.names with
  | some ti => ti ≤ bi
  | none => false

/-- The number of a block's branch: the blocks before it that end in a branch, in layout order (R110) (DEDUCED, log 45). -/
def RegionEnv.branchNo (r : RegionEnv) (bi : Nat) : Nat :=
  ((r.map.blocks.take bi).filter fun b => match b.term with
    | .leave => false
    | _ => true).length

/-- The stub of an edge: its copies and a BRN to the target, after the block's ops (R106). -/
def RegionEnv.stub (r : RegionEnv) (fw : Bool) (bi region inst pos start : Nat) (label : Label) (placed : List Sched) (e : TEdge) : Section :=
  let back := r.isBack bi e
  let ops := (r.edgeOps bi inst pos e).map fun o => { o with safe := back, edge := if e.ref = 0xFFFF then none else some e.ref }
  let own := (scheduleOps r.wide start placed ops).drop placed.length
  let (own', fin) := endWithBrn r.wide fw (r.branchNo bi) start placed own (brnOp inst none (r.target region e) back e.ref)
  ⟨label, bi, start, fin, own'⟩

/-- The sections of a block: its own cycles, then its stubs (R106). `next` is the block that follows in the translation. -/
def RegionEnv.blockSections (r : RegionEnv) (fw : Bool) (bi : Nat) (b : TBlock) (next : Option Nat) : List Section :=
  let e0 := ((r.entry[bi]?).bind id).getD 0
  let ls := (r.map.lasts[bi]?).getD []
  let entryFills := if (r.map.entries[bi]?).getD false then
      ((b.args.zip (transferWords b ls))).flatMap fun p => match p.2, r.locOf bi p.1.idx e0 with
        | some w, .reg n => (fillRun b.first n w p.1.width).map fun o => { o with defs := [(p.1.idx, e0)] }
        | some w, .last n => [{ fillOp b.first (0x140 + n) w with defs := [(p.1.idx, e0)] }]
        | _, _ => []
    else []
  let n := b.insts.length
  let (body, u) := b.insts.zipIdx.foldl (fun (acc : List NOp × Nat) p =>
    let pos := e0 + 2 * p.2 + 1
    let (ops, u) := r.instOps bi p.1 pos acc.2
    let pre := match b.term with
      | .fall e => if p.2 + 1 = n then r.edgeOps bi p.1.inst pos e else []
      | _ => []
    (acc.1 ++ pre ++ ops, u)) (entryFills, 0)
  let tpos := e0 + 2 * n + 1
  let follows (e : TEdge) : Bool := match next, r.map.blocks.findIdx? e.names with
    | some i, some j => i == j
    | _, _ => false
  let whole (ops : List Sched) (fin : Nat) : Section := ⟨.block bi, bi, 0, fin, ops⟩
  let ended (ops : List Sched) (brn : NOp) : List Sched × Nat := endWithBrn r.wide fw (r.branchNo bi) 0 [] ops brn
  let finOf (ops : List Sched) : Nat := if ops.isEmpty then 0 else lastCycle 0 ops + 1
  match b.term with
  | .leave =>
    let ops := scheduleOps r.wide 0 [] body
    [whole ops (finOf ops)]
  | .fall e =>
    let ops := scheduleOps r.wide 0 [] body
    let (ops', fin) := ended ops (brnOp b.termInst none (r.target b.region e) false e.ref)
    [whole ops' fin]
  | .jump e =>
    let ops := scheduleOps r.wide 0 [] body
    let copies := r.edgeOps bi b.termInst tpos e
    if copies.isEmpty && follows e then [whole ops (finOf ops)]
    else if copies.isEmpty then
      let (ops', fin) := ended ops (brnOp b.termInst none (r.target b.region e) (r.isBack bi e) e.ref)
      [whole ops' fin]
    else
      let (ops', fin) := ended ops (brnOp b.termInst none (.inl (.stubT bi)) false 0xFFFF)
      [whole ops' fin, r.stub fw bi b.region b.termInst tpos fin (.stubT bi) ops' e]
  | .cond q t f =>
    let ops := scheduleOps r.wide 0 [] (body ++ r.guardOps bi b.termInst q tpos u)
    let qn := 1 + u % 7
    let stubT := !(r.edgeOps bi b.termInst tpos t).isEmpty
    let stubF := stubT || !(r.edgeOps bi b.termInst tpos f).isEmpty || !follows f
    let goal := if stubT then Sum.inl (.stubT bi) else r.target b.region t
    let (ops', fin) := ended ops (brnOp b.termInst (some qn) goal (!stubT && r.isBack bi t) (if stubT then 0xFFFF else t.ref))
    let sf := if stubF then [r.stub fw bi b.region b.termInst tpos fin (.stubF bi) ops' f] else []
    let st := if stubT then [r.stub fw bi b.region b.termInst tpos fin (.stubT bi) ops' t] else []
    whole ops' fin :: (sf ++ st)

/-! ### Bundles, segments and the point map (R108-R113) -/

/-- LA (R108) among the ops of one path: from the first op that reads the result before another writes it. -/
def lookahead (all : List Sched) (s : Sched) : Nat :=
  if !s.op.locked then 0
  else
    let later := sortBy (·.idx) (all.filter fun r => s.idx < r.idx)
    let readers := (later.foldl (fun (acc : List Nat × List Nat) r =>
      let live := acc.2
      let acc1 := if meet r.op.reads live then acc.1 ++ [r.cycle] else acc.1
      (acc1, live.filter fun w => !r.op.writes.contains w)) (([] : List Nat), s.op.writes)).1
    match readers with
    | [] => 15
    | c :: cs => Nat.min 15 (cs.foldl Nat.min c - s.cycle - 1)

/-- A bundle before the displacements are known. -/
structure RawBundle where
  label : Label
  bi : Nat
  cycle : Nat
  inst : Option Nat
  ops : List (Sched × Nat)
  stop : Bool
  q : Bool
deriving DecidableEq, Repr

def RawBundle.size (b : RawBundle) : Nat :=
  1 + 2 * sumNat (b.ops.map fun o => 1 + if o.1.immSlot.isSome then 1 else 0)

/-- LA of an op of a section: the ops of a block's edges are among the block's ops (R104), so its readers may stand in either stub. -/
def Section.lookahead (s : Section) (all : List Section) (x : Sched) : Nat :=
  let stubs := all.filter fun t => decide (s.label = .block s.bi) && t.bi == s.bi && !decide (t.label = s.label)
  (stubs.map fun t => Machine.lookahead (s.ops ++ t.ops) x).foldl Nat.min (Machine.lookahead s.ops x)

/-- The bundles of a section: each cycle one for each LPF instruction with ops in it (R109). -/
def Section.bundles (s : Section) (all : List Section) : List RawBundle :=
  let own := s.ops
  let safes := own.filter (·.op.safe)
  let isQ (cycle inst : Nat) : Bool :=
    safes.any (fun x => x.op.inst == inst && x.cycle == cycle) && safes.all fun x => x.op.inst != inst || cycle ≤ x.cycle
  (List.range (s.stop - s.start)).flatMap fun i =>
    let c := s.start + i
    let here := own.filter (·.cycle == c)
    let insts := sortedVals (here.map (·.op.inst))
    match insts with
    | [] => [⟨s.label, s.bi, c, none, [], true, false⟩]
    | _ :: _ => insts.map fun n =>
      ⟨s.label, s.bi, c, some n, (here.filter (·.op.inst == n)).map fun x => (x, s.lookahead all x), insts.getLast? == some n, isQ c n⟩

/-- Offsets of bundles. -/
def offsets : Nat → List RawBundle → List (Nat × RawBundle)
  | _, [] => []
  | off, b :: r => (off, b) :: offsets (off + b.size) r

/-- The words of a translation in groups: each group is the bundles of one cycle. -/
def groupsOf : List (Nat × RawBundle) → List (Nat × RawBundle) → List (List (Nat × RawBundle))
  | acc, [] => if acc.isEmpty then [] else [acc]
  | acc, b :: r => if b.2.stop then (acc ++ [b]) :: groupsOf [] r else groupsOf (acc ++ [b]) r

/-- Segments of at most 8,192 words: first word and length (R111). -/
def segments : Nat → Nat → List (List (Nat × RawBundle)) → List (Nat × Nat)
  | from_, len, [] => if len = 0 then [] else [(from_, len)]
  | from_, len, g :: r =>
    let n := sumNat (g.map fun b => b.2.size)
    if len != 0 && 8192 < len + n then (from_, len) :: segments (from_ + len) n r else segments from_ (len + n) r

/-- The offset of a label. -/
def labelOff (labels : List (Label × Nat)) (l : Label) : Nat :=
  match labels.find? fun (p : Label × Nat) => decide (p.1 = l) with
  | some p => p.2
  | none => 0

/-- The op word, its displacement counted from the bundle's header. -/
def schedWord (labels : List (Label × Nat)) (off : Nat) (s : Sched) (la : Nat) : Word :=
  let o := s.op
  let base : Op :=
    { slot := s.slot, la := BitVec.ofNat 4 la, gn := o.gn, gq := BitVec.ofNat 3 o.gq, mod := o.mod, dest := BitVec.ofNat 10 o.dest
      a := BitVec.ofNat 10 o.a, b := BitVec.ofNat 10 o.b, c := BitVec.ofNat 10 o.c }
  let full := match o.goal with
    | some l =>
      let at_ : Nat := labelOff labels l
      let d := wrap 30 ((at_ : Int) - off)
      { base with a := BitVec.ofNat 10 (d / 2 ^ 20), b := BitVec.ofNat 10 (d / 2 ^ 10), c := BitVec.ofNat 10 d }
    | none => base
  full.word (BitVec.ofNat 8 o.code)

/-- The words of a bundle. -/
def rawWords (labels : List (Label × Nat)) (last : Nat → Bool) (off : Nat) (b : RawBundle) : List W32 :=
  let immSlots := b.ops.filterMap fun o => o.1.immSlot.map fun s => (s, o.1.op.imm.getD 0)
  let p := (b.ops.map fun o => 2 ^ o.1.slot) ++ immSlots.map fun i => 2 ^ i.1
  let l := immSlots.map fun i => 2 ^ i.1
  let shape := b.ops.findSome? fun o => o.1.op.shape
  let h : Header :=
    ⟨BitVec.ofNat 8 (sumNat p), BitVec.ofNat 8 (sumNat l), b.stop, last (off + b.size), b.q,
      BitVec.ofNat 4 ((shape.map (·.1)).getD 1 - 1), BitVec.ofNat 4 ((shape.map (·.2)).getD 1 - 1)⟩
  h.word :: slotOrder.flatMap fun n =>
    match b.ops.find? (·.1.slot == n), immSlots.find? (·.1 == n) with
    | some o, _ => splitW (schedWord labels off o.1 o.2)
    | none, some i => splitW i.2
    | none, none => []

/-- The values live before a position, with their pieces (R113). -/
def RegionEnv.liveAt (r : RegionEnv) (bi : Nat) (b : TBlock) (pos : Nat) : List Nat :=
  let e0 := ((r.entry[bi]?).bind id).getD 0
  let uses := b.usesAt e0
  sortedVals ((b.defsAt e0).filterMap fun d =>
    if d.2.1 < pos && pos ≤ intervalEnd uses d.1.idx d.2.1 then some d.1.idx else none)

/-- The position of an instruction of a block. -/
def RegionEnv.posOf (r : RegionEnv) (bi : Nat) (b : TBlock) (inst : Nat) : Nat :=
  let e0 := ((r.entry[bi]?).bind id).getD 0
  match b.insts.findIdx? (·.inst == inst) with
  | some i => e0 + 2 * i + 1
  | none => e0 + 2 * b.insts.length + 1

/-- The location words of an entry (R112): kind, value, location. `landed` tells whether a value's definition has landed. -/
def RegionEnv.locWords (r : RegionEnv) (bi : Nat) (b : TBlock) (inst : Nat) (landed : Nat → Bool) : List (Nat × Nat × Nat) :=
  let pos := r.posOf bi b inst
  (r.liveAt bi b pos).map fun v =>
    if !landed v then (3, v, 0)
    else match r.locOf bi v pos with
      | .reg n => (0, v, n)
      | .frame w => (1, v, w)
      | .last n => (2, v, n)
      | .const _ => (3, v, 0)

/-- The sections of the blocks of a region in layout order. -/
def RegionEnv.sections (r : RegionEnv) (fw : Bool) : List (Nat × TBlock) → List Section
  | [] => []
  | (bi, b) :: rest => r.blockSections fw bi b (rest.head?.map (·.1)) ++ r.sections fw rest

/-- The point-map entry of a bundle, when it has one. -/
def RegionEnv.pointEntry (r : RegionEnv) (secs : List Section) (firsts : List (Nat × Nat)) (e : Nat × RawBundle) : Option PEntry :=
  let (off, rb) := e
  let b := (r.map.blocks[rb.bi]?).getD ⟨0, 0, 0, 0, 0, [], [], .leave, 0⟩
  let isFirst := firsts.contains (off, rb.bi) && rb.label == Label.block rb.bi && rb.cycle == 0
  let traps := rb.ops.any fun o => o.1.op.traps
  if !rb.q && !traps && !isFirst then none
  else
    let inst := if isFirst then b.first else rb.inst.getD b.first
    let edge := rb.ops.findSome? fun o => o.1.op.edge
    let mine := secs.flatMap fun s => if s.bi == rb.bi then s.ops else []
    let pos := r.posOf rb.bi b inst
    let landed (v : Nat) : Bool :=
      let ds := mine.flatMap fun s => (s.op.defs.filter fun d => d.1 == v && d.2 < pos).map fun d => (d.2, s.cycle + s.op.lat)
      let top := maxNat (ds.map (·.1))
      ds.all fun d => d.1 != top || d.2 ≤ rb.cycle
    let locs := r.locWords rb.bi b inst (if rb.q then fun _ => true else landed)
    some ⟨off, isFirst, edge.isSome, traps, rb.q, b.block, inst, edge.getD 0xFFFF, locs⟩

/-! ### A translation -/

/-- The pieces of a region's blocks (R97, R98). -/
def regionPieces (m : FuncMap) (bi e0 : Nat) (b : TBlock) : List Piece :=
  let ls := (m.lasts[bi]?).getD []
  let uses := b.usesAt e0
  let calls := b.callsAt e0
  let saves := b.saves fun v => (inLast b ls v).isSome
  let words := (b.args.zip (transferWords b ls)).map fun p => (p.1.idx, p.2)
  let entry := (m.entries[bi]?).getD false
  let late := match m.prologue with
    | some n => n < b.block
    | none => true
  ((b.defsAt e0).filter fun d => (inLast b ls d.1.idx).isNone).flatMap fun d =>
    let (v, lo, guarded) := d
    let hi := intervalEnd uses v.idx lo
    let cuts := calls.filter fun c => lo < c && c < hi
    let save := (saves.find? (·.1 == v.idx)).map fun g => m.a + g.2
    let transfer := if entry then ((words.find? (·.1 == v.idx)).bind (·.2)) else none
    let los := lo :: cuts.map (· + 1)
    let his := cuts ++ [hi]
    (los.zip his).zipIdx.map fun p =>
      let slot := if p.2 = 0 && transfer.isSome then transfer else if cuts.isEmpty then none else save
      ⟨v, p.1.1, p.1.2, slot, v.width == 1 && !guarded && late⟩

/-- The entry positions of a region's blocks (R98). -/
def entryPositions (region : Nat) : Nat → List TBlock → List (Option Nat)
  | _, [] => []
  | e, b :: r => if b.region == region then some e :: entryPositions region (e + 2 * b.steps + 1) r
      else none :: entryPositions region e r

/-- The outcome of a translation: the translation, or the REASON of its failure (R117, R120). -/
inductive TronResult where
  | done (t : Trans)
  | failed (reason : Nat)
deriving DecidableEq, Repr

/-- The translation of a region (R91) (DEDUCED, log 45). -/
def translateRegion (f : LFunc) (fw wide : Bool) (key : TKey) : TronResult :=
  let m := f.map
  let entry := entryPositions key.region 0 m.blocks
  let mine := (m.blocks.zipIdx.map fun p => (p.2, p.1)).filter fun p => p.2.region == key.region
  let e (bi : Nat) : Nat := ((entry[bi]?).bind id).getD 0
  let pieces := mine.flatMap fun p => regionPieces m p.1 (e p.1) p.2
  let uses := mine.flatMap fun p => p.2.usesAt (e p.1)
  let s := maxNat (pieces.map (·.val.width) ++ mine.flatMap fun p => p.2.insts.map fun i => sumNat (i.defs.map (·.width)))
  let base := m.a + m.s + 1
  match allocate pieces uses m.reuse key.budget s base with
  | none => .failed 2
  | some al =>
    if 16384 ≤ al.frame then .failed 3
    else
      let r : RegionEnv := ⟨m, wide, pieces, al.locs, al.scratch, entry⟩
      let secs := r.sections fw mine
      let raw := secs.flatMap (·.bundles secs)
      let placed := offsets 0 raw
      let total := sumNat (raw.map (·.size))
      let labels := (secs.foldl (fun (acc : List (Label × Nat) × Nat) s =>
        (acc.1 ++ [(s.label, acc.2)], acc.2 + sumNat ((s.bundles secs).map (·.size)))) (([] : List (Label × Nat)), 0)).1
      let segs := segments 0 0 (groupsOf [] placed)
      let ends := segs.map fun g => g.1 + g.2
      let words := placed.flatMap fun p => rawWords labels ends.contains p.1 p.2
      let firsts := mine.filterMap fun p => if (m.entries[p.1]?).getD false then
          ((labels.find? (·.1 == Label.block p.1)).map fun l => (l.2, p.1)) else none
      let pm := placed.filterMap (r.pointEntry secs firsts)
      let bare := firsts.filter fun q => !(pm.any fun x => x.entry && x.off == q.1)
      let extra := bare.map fun q =>
        let b := (m.blocks[q.2]?).getD ⟨0, 0, 0, 0, 0, [], [], .leave, 0⟩
        (⟨q.1, true, false, false, false, b.block, b.first, 0xFFFF, r.locWords q.2 b b.first fun _ => true⟩ : PEntry)
      let attr := placed.filterMap fun p => p.2.inst.map fun i =>
        (p.1, ((m.blocks[p.2.bi]?).map (·.block)).getD 0, i)
      .done ⟨key, words, sortBy (·.off) (pm ++ extra), al.frame, m.a + m.s, if total = 0 then [(0, 0)] else segs, attr⟩

end Sys2Proof.Machine
end

