-- ==== Sys2Proof/Machine/Loader.lean ====
section
/-! DEFINITION. The loader: the single pass that verifies a code object (R68-R86, R289-R292, R411), and the load and unload
of an object (R84, R85). Every failure is the word offset that R85 reports. -/

namespace Sys2Proof.Machine

/-- An entry of the function table (R81). -/
structure VFunc where
  off : Nat
  len : Nat
  restype : Nat
  nparam : Nat
  levels : Nat
  entry : Bool
  budget : Nat
deriving DecidableEq, Repr

/-- A block reference as the pass meets it: the header of its instruction, its word, source and target block, the words and types of
its arguments, the shape in effect, and whether a FREEZE holds it. -/
structure VRef where
  hdr : Nat
  off : Nat
  src : Nat
  target : Nat
  args : List (Nat × Nat)
  shape : Nat × Nat
  freeze : Bool
deriving DecidableEq, Repr

/-- An argument of a CALL: its word, and the type of its value or its immediate. -/
structure VArg where
  off : Nat
  ty : Option Nat
  imm : Word
deriving DecidableEq, Repr

/-- What the pass carries: the tables, the argument types of the block 0 of each function scanned, and the CALLs whose callee
has not been scanned. -/
structure Verify where
  fw : Bool
  funcs : List VFunc
  bars : List (Nat × Nat × Nat)
  seen : Tab (List Nat) := []
  calls : List (Nat × List VArg) := []
deriving DecidableEq, Repr

/-- What the pass carries inside a function: the next word offset, the words left of the function, the blocks scanned, the
shape in effect, the references so far, and the TNESTs and FREEZEs with their header words. -/
structure FuncScan where
  fidx : Nat
  off : Nat
  words : List W32
  blocks : List LBlock := []
  shape : Nat × Nat := (0, 0)
  refs : List VRef := []
  nests : List (Nat × Nat) := []
  vf : Verify
deriving DecidableEq, Repr

def check (b : Bool) (off : Nat) : Except Nat Unit := if b then .ok () else .error off

/-- The lowest of some failing offsets. -/
def checkNone (offs : List Nat) : Except Nat Unit :=
  match offs with
  | [] => .ok ()
  | o :: r => .error (r.foldl Nat.min o)

/-! ### Operands (R73, R287, R289) -/

/-- Whether an immediate lies in the range of a type (R73, R325); a tile code stands for its element type. -/
def immOk (ty : Nat) (w : Word) : Bool :=
  let e := elemTy ty
  if isInt e then
    if e ≤ 4 then -(2 ^ (tyBits e - 1) : Int) ≤ w.toInt && w.toInt < 2 ^ (tyBits e - 1) else w.toNat < 2 ^ tyBits e
  else if isFloat e then w.toNat < 2 ^ tyBits e
  else if e = 13 then w.toNat < 64
  else if e = 14 then w.toNat < 2
  else true

/-- What an operand position admits (R289): only a value, a value or an immediate of a constant selector, only an
immediate, or a value or any immediate. -/
inductive OperandKind where
  | value | selector | immOnly | any
deriving DecidableEq, Repr

def operandKind (r : Lpf.Row) (opc pos ty : Nat) : OperandKind :=
  if [0x04E, 0x148, 0x149, 0x14B, 0x14C, 0x14D, 0x14E, 0x14F].contains opc || (opc = 0x150 && pos = 0) then .immOnly
  else if (ty = 14 && opc != 0x01C) || opc = 0x0A7 || opc = 0x0A9 then .value
  else if isTileTy ty && (!r.tiles || opc = 0x0C2 || opc = 0x0C3) then .value
  else if r.cls = .mtx || [0x004, 0x005, 0x006, 0x0C4, 0x0C5, 0x0C6, 0x0C7, 0x144, 0x150].contains opc then .selector
  else .any

/-- The elements that a descriptor tile must have (R350, R365, R382, R384, R397, R400); 0 where any shape will do. -/
def descriptorCount (opc : Nat) : Nat :=
  match opc with
  | 0x101 | 0x106 | 0x107 | 0x123 | 0x184 => 8
  | 0x104 | 0x105 => 4
  | 0x0C9 => 2
  | _ => 0

/-- The ranges of the immediates that an op's fields hold (R54, R75, R300, R367, R391, R392). -/
def fieldOk (opc pos : Nat) (before : List Word) (w : Word) : Bool :=
  let n := w.toNat
  match opc, pos with
  | 0x04E, 0 => 1 ≤ n && n ≤ 16
  | 0x04E, _ => 1 ≤ n && ((before.head?.map (·.toNat)).getD 0) * n ≤ 16
  | 0x148, _ | 0x149, _ => -(2 ^ 29 : Int) ≤ w.toInt && w.toInt < 2 ^ 29
  | 0x14B, _ => 1 ≤ n && n ≤ 256
  | 0x14C, _ => n < 16 && n != 6 && n != 7
  | 0x14D, 0 | 0x14E, 0 => 1 ≤ n && n ≤ 247
  | 0x14D, _ | 0x14E, _ => 1 ≤ n && n ≤ 256 && 2 ^ Nat.log2 n == n
  | 0x14F, _ | 0x150, 0 => n ≤ 0xFFF
  | _, _ => true

/-- Where the operands of an instruction with so many operand words begin, its header at `off`. -/
def argStart (off n : Nat) : Nat := off + 1 + if n < 15 then 0 else 1

/-- Operands with the offsets of their words. -/
def argOffs (start : Nat) (args : List Lpf.Arg) : List (Nat × Lpf.Arg) :=
  (args.foldl (fun (acc : List (Nat × Lpf.Arg) × Nat) a => (acc.1 ++ [(acc.2, a)], acc.2 + a.words.length)) ([], start)).1

/-- The word that makes an operand unreadable, for operands that start at `off`; the header's own word when they do not
end where NOPW says. -/
def badArg (hdr : Nat) : Nat → Nat → List W32 → Nat
  | 0, _, _ => hdr
  | _, _, [] => hdr
  | fuel + 1, off, w :: ws =>
    match Lpf.takeArg (w :: ws) with
    | .ok (a, r) => badArg hdr fuel (off + a.words.length) r
    | .error .truncated => hdr
    | .error .badCount => off + 1
    | .error _ =>
      if w.extractLsb' 30 2 == 2#2 && w.extractLsb' 0 8 == 0#8 then
        let counted := w.extractLsb' 8 6 == 63#6
        let vs := if counted then ws.drop 1 else ws
        match vs.findIdx? fun v => v.extractLsb' 16 16 != 0#16 with
        | some n => off + 1 + n + if counted then 1 else 0
        | none => off
      else off

/-- The operands up to the first unreadable one, and that one too when it is a reference whose count of arguments stands. -/
def goodArgs : Nat → List W32 → List Lpf.Arg
  | 0, _ => []
  | _, [] => []
  | fuel + 1, w :: ws =>
    match Lpf.takeArg (w :: ws) with
    | .ok (a, r) => a :: goodArgs fuel r
    | .error _ =>
      if w.extractLsb' 30 2 == 2#2 && w.extractLsb' 0 8 == 0#8 then
        let n := (w.extractLsb' 8 6).toNat
        let vs := if n < 63 then ws.take n else (ws.drop 1).take ((ws.headD 0).extractLsb' 0 30).toNat
        [.ref (w.extractLsb' 14 16) (vs.map fun v => v.extractLsb' 0 16)]
      else []

/-- What of an instruction can be read when an operand cannot: its header's fields, its operand words, and the operands before. -/
def partInst (ws : List W32) : Lpf.Inst × Nat :=
  match ws with
  | [] => (⟨0, 0, 0, false, false, []⟩, 0)
  | w :: rest =>
    let n := (w.extractLsb' 6 4).toNat
    let c := if n < 15 then n else (rest.headD 0).toNat
    let body := if n < 15 then rest.take n else (rest.drop 1).take c
    (⟨w.extractLsb' 23 9, w.extractLsb' 18 5, w.extractLsb' 10 8, w.getLsbD 5, w.getLsbD 4, goodArgs (c + 1) body⟩, c)

/-- The instruction at the head of the words left, with its length. -/
def takeInst (off : Nat) (ws : List W32) : Except Nat (Lpf.Inst × Nat) :=
  match Lpf.decode ws with
  | .ok (i, r) => .ok (i, ws.length - r.length)
  | .error e => match ws with
    | [] => .error off
    | w :: rest =>
      if w.extractLsb' 0 4 != 0#4 || (w.getLsbD 4 && !w.getLsbD 5) then .error off
      else
        let n := (w.extractLsb' 6 4).toNat
        let c := (rest.headD 0).toNat
        if n < 15 then .error (if e = .truncated then off else badArg off (n + 1) (off + 1) (rest.take n))
        else if rest.isEmpty then .error off
        else if c < 15 || 255 < c then .error (off + 1)
        else .error (if e = .truncated then off else badArg off (c + 1) (off + 2) ((rest.drop 1).take c))

/-! ### Operand counts (R291) -/

/-- Whether the operands, guard apart, have a number that the opcode's row gives. -/
def arityOk (r : Lpf.Row) (m restype n : Nat) : Bool :=
  match r.arity with
  | .fixed k => n == k
  | .ldArgs => n == if m / 16 % 2 = 1 then 2 else 1
  | .atomArgs => n == if m / 16 = 7 then 3 else 2
  | .brArgs | .freezeArgs => n == 1
  | .cbrArgs => n == 3
  | .switchArgs => 2 ≤ n && n ≤ 128 && n % 2 == 0
  | .callArgs => 1 ≤ n
  | .retArgs => n == if restype = 0 then 0 else 1

/-! ### Operands of an instruction -/

/-- The type of a value index, or the failure at its word (R69). -/
def valType (vals : List Nat) (off : Nat) (n : BitVec 16) : Except Nat Nat :=
  match vals[n.toNat]? with
  | some t => .ok t
  | none => .error off

/-- An operand against the type its position has. `longs` tells whether a long immediate has been taken. -/
def checkOperand (vals : List Nat) (kind : OperandKind) (tys : List Nat) (longs : Bool) (off : Nat) (a : Lpf.Arg) :
    Except Nat Bool :=
  match a, argImm a with
  | .val n, _ => do
    check (kind != .immOnly) off
    let t ← valType vals off n
    check (tys.contains t) off
    .ok longs
  | _, some w => do
    check (kind != .value && immOk (tys.headD 8) w) off
    let sel := (constSel 8 w).isSome
    if kind == .immOnly || sel then .ok longs
    else do
      check (kind == .any && !longs) off
      .ok true
  | _, none => .error off

/-- The operands of an instruction that has a fixed list of typed positions. LUNPK takes a z64 or a z32 value, and an immediate of it is
checked as a z64 (R73; DESIGN CHOICE, log 86). -/
def checkOperands (vals : List Nat) (r : Lpf.Row) (opc : Nat) (shape : Nat × Nat) :
    Nat → Bool → List Word → List Nat → List (Nat × Lpf.Arg) → Except Nat Unit
  | pos, longs, before, ty :: tys, (off, a) :: as => do
    let accepts := if opc = 0x084 then [8, 7] else [ty]
    let longs' ← checkOperand vals (operandKind r opc pos ty) accepts longs off a
    check (!(isTileTy ty && (argImm a).isNone) || shape != (0, 0)) off
    let want := if isTileTy ty then descriptorCount opc else 0
    check (want = 0 || shape.1 * shape.2 == want) off
    let w := argImm a
    check (operandKind r opc pos ty != .immOnly || (w.map (fieldOk opc pos before)).getD false) off
    checkOperands vals r opc shape (pos + 1) longs' (before ++ w.toList) tys as
  | _, _, _, _, _ => .ok ()

/-- The words and types of the arguments of a reference. -/
def refArgs (vals : List Nat) (off : Nat) : List (BitVec 16) → Nat → Except Nat (List (Nat × Nat))
  | [], _ => .ok []
  | n :: r, k => do
    let t ← valType vals (off + k) n
    let rest ← refArgs vals off r (k + 1)
    .ok ((off + k, t) :: rest)

/-- A reference to a block already scanned, whose header has given its arguments and its entry shape (R70, R75, R85). -/
def checkBack (r : VRef) (args : List Nat) (shape : Nat × Nat) : Except Nat Unit := do
  check (r.args.length == args.length && r.shape == shape) r.off
  match (r.args.zip args).find? fun p => p.1.2 != p.2 with
  | some p => .error p.1.1
  | none => .ok ()

/-- Whether a reference fits a block, all checks at once (for a forward reference). -/
def fits (r : VRef) (args : List Nat) (shape : Nat × Nat) : Bool := r.args.map (·.2) == args && r.shape == shape

/-- Takes a block reference (R51, R68, R70). -/
def FuncScan.takeRef (f : FuncScan) (vals : List Nat) (off : Nat) (a : Lpf.Arg) (freeze : Bool) : Except Nat FuncScan :=
  match a with
  | .ref b as => do
    check (as.isEmpty || f.shape != (0, 0) || !(as.any fun n => isTileTy ((vals[n.toNat]?).getD 0))) off
    let args ← refArgs vals off as (if as.length < 63 then 1 else 2)
    let r : VRef := ⟨f.off, off, f.blocks.length - 1, b.toNat, args, f.shape, freeze⟩
    check (!(freeze && b == 0)) off
    check (!f.refs.any fun q => q.target == r.target && q.freeze != freeze) off
    match f.blocks[b.toNat]? with
    | some t => checkBack r t.args t.shape
    | none => .ok ()
    .ok { f with refs := f.refs ++ [r] }
  | _ => .error off

/-- The cases of a SWITCH (R387). -/
def FuncScan.takeCases (f : FuncScan) (vals : List Nat) (ty : Nat) : List Word → List (Nat × Lpf.Arg) → Except Nat FuncScan
  | done, (o1, a) :: (o2, r) :: rest => do
    let w := (argImm a).getD 0
    check ((argImm a).isSome && immOk ty w && !done.contains w) o1
    let f' ← f.takeRef vals o2 r false
    f'.takeCases vals ty (w :: done) rest
  | done, [(o1, a)] => do
    let w := (argImm a).getD 0
    check ((argImm a).isSome && immOk ty w && !done.contains w) o1
    .ok f
  | _, [] => .ok f

/-- References one after another (R68, R70). -/
def FuncScan.takeRefs (f : FuncScan) (vals : List Nat) : List (Nat × Lpf.Arg) → Except Nat FuncScan
  | [] => .ok f
  | (o, a) :: rest => do
    let f' ← f.takeRef vals o a false
    f'.takeRefs vals rest

/-- The offset of the first argument that does not fit a parameter (R85). -/
def callArgsBad (args : List VArg) (params : List Nat) : Option Nat :=
  ((args.zip params).find? fun p => match p.1.ty with
    | some t => t != p.2
    | none => p.2 == 14 || !immOk p.2 p.1.imm).map (·.1.off)

/-- The arguments of a CALL before their types are compared. -/
def callArgs (vals : List Nat) : List (Nat × Lpf.Arg) → Except Nat (List VArg)
  | [] => .ok []
  | (off, a) :: r => do
    let x : VArg ← match a, argImm a with
      | .val n, _ => do
        let t ← valType vals off n
        .ok ⟨off, some t, 0⟩
      | _, some w => do
        check (constSel 8 w).isSome off
        .ok ⟨off, none, w⟩
      | _, none => .error off
    let rest ← callArgs vals r
    .ok (x :: rest)

/-- The CALL of R78, R85 and R323; `whole` tells whether all its operands are there. -/
def FuncScan.takeCall (f : FuncScan) (whole : Bool) (vals : List Nat) (hdr ty : Nat) (args : List (Nat × Lpf.Arg)) : Except Nat FuncScan :=
  match args with
  | (off, a) :: rest => do
    let fidx := ((argImm a).map (·.toNat)).getD f.vf.funcs.length
    match f.vf.funcs[fidx]? with
    | none => .error off
    | some c => do
      check (c.levels == 0) off
      check (c.restype == ty && (!whole || rest.length == c.nparam)) hdr
      let as ← callArgs vals rest
      match tget f.vf.seen fidx with
      | some params => match callArgsBad as params with
        | some o => .error o
        | none => .ok f
      | none => .ok { f with vf := { f.vf with calls := f.vf.calls ++ [(fidx, as)] } }
  | [] => .error hdr

/-! ### Instructions and blocks -/

/-- The table entry of the function being scanned. -/
def FuncScan.entry (f : FuncScan) : VFunc := (f.vf.funcs[f.fidx]?).getD ⟨0, 0, 0, 0, 0, false, 0⟩

/-- The checks that an instruction's header word settles, before its operands are read. -/
def FuncScan.checkHeader (f : FuncScan) (last : Bool) : Except Nat Unit :=
  let off := f.off
  match f.words with
  | [] => .error off
  | w :: _ =>
    let opc := (w.extractLsb' 23 9).toNat
    let ty := (w.extractLsb' 18 5).toNat
    let m := (w.extractLsb' 10 8).toNat
    let g := w.getLsbD 5
    let noGuard := [0x04E, 0x140, 0x141, 0x142, 0x143, 0x144, 0x14A, 0x14B, 0x14D, 0x14E].contains opc
    let terminator := [0x140, 0x141, 0x142, 0x144, 0x14A].contains opc || (opc = 0x145 && !g)
    let shapeNeed := isTileTy ty || opc = 0x107
    match Lpf.row opc with
    | none => .error off
    | some r => check (w.extractLsb' 0 4 == 0#4 && (g || !w.getLsbD 4) && (f.vf.fw || opc < 0x180) && r.tyOk ty &&
        Lpf.modOk opc ty m && !(g && noGuard) && terminator == last && (!shapeNeed || f.shape != (0, 0)) &&
        (opc != 0x107 || f.shape.1 * f.shape.2 == 8) && (!(opc = 0x14A || opc = 0x14B) || f.entry.levels != 0) &&
        (opc != 0x144 || ty == f.entry.restype) &&
        (opc != 0x120 || f.vf.bars.any fun b => b.1 == m % 16 && (b.2.1 == 0) == (m / 64 == 1))) off

/-- The checks of the operands of one instruction at `off`, with the values of its block so far: of all of them, or of those before an
unreadable word. `start` is the offset of the first. -/
def FuncScan.takeInstr (f : FuncScan) (whole : Bool) (start : Nat) (vals : List Nat) (i : Lpf.Inst) : Except Nat FuncScan := do
  let off := f.off
  let opc := i.opc.toNat
  let ty := i.ty.toNat
  let m := i.mod.toNat
  match Lpf.row opc with
  | none => .error off
  | some r => do
    let args := argOffs start i.args
    let ops := if i.g then args.drop 1 else args
    check (!whole || !i.g || !args.isEmpty) off
    check (!whole || arityOk r m f.entry.restype ops.length) off
    match i.g, args.head? with
    | true, some (o, a) => (checkOperand vals .value [14] false o a).map fun _ => ()
    | _, _ => .ok ()
    match opc, ops with
    | 0x140, [(o, a)] => f.takeRef vals o a false
    | 0x14A, [(o, a)] => f.takeRef vals o a true
    | 0x141, (o, q) :: rs => do
      let _ ← checkOperand vals .value [14] false o q
      f.takeRefs vals rs
    | 0x142, (o, v) :: rs => do
      let _ ← checkOperand vals .value [ty] false o v
      let f1 ← f.takeRefs vals (rs.take 1)
      f1.takeCases vals ty [] (rs.drop 1)
    | 0x143, _ :: _ => f.takeCall whole vals off ty ops
    | _, _ => do
      checkOperands vals r opc f.shape 0 false [] (operandTypes opc ty m) ops
      let f1 := if opc = 0x14B then { f with nests := f.nests ++ [(f.blocks.length - 1, off)] } else f
      match opc, (ops.map (·.2)).filterMap argImm with
      | 0x04E, [a, b] => .ok { f1 with shape := (a.toNat, b.toNat) }
      | _, _ => .ok f1

/-- One instruction, its words checked in ascending order (R85): before an unreadable operand word the operands that stand before it. -/
def FuncScan.takeWords (f : FuncScan) (vals : List Nat) : Except Nat (FuncScan × Lpf.Inst × Nat) :=
  match takeInst f.off f.words with
  | .ok (i, len) => do
    let f1 ← f.takeInstr true (argStart f.off i.operandWords.length) vals i
    .ok (f1, i, len)
  | .error e =>
    let (i, n) := partInst f.words
    match f.takeInstr false (argStart f.off n) vals i with
    | .error x => .error (Nat.min x e)
    | .ok _ => .error e

/-- The instructions of a block. -/
def FuncScan.takeInsts : Nat → List Nat → FuncScan → Except Nat FuncScan
  | 0, _, f => .ok f
  | n + 1, vals, f => do
    f.checkHeader (n == 0)
    let (f1, i, len) ← f.takeWords vals
    check (vals.length + (resultTypes i).length ≤ 65536) f.off
    let ws := f.words.take len
    let blocks := f1.blocks.dropLast ++ (f1.blocks.getLast?.map fun b => { b with insts := b.insts ++ [ws] }).toList
    takeInsts n (vals ++ resultTypes i) { f1 with blocks := blocks, off := f.off + len, words := f.words.drop len }

def argTypeOk (t : Nat) : Bool := (1 ≤ t && t ≤ 15) || isTileTy t

/-- The argument types of a block, a word for each four (R82). -/
def takeTypes : Nat → Nat → List W32 → Except Nat (List Nat)
  | 0, _, _ => .ok []
  | n + 1, off, ws => match ws with
    | [] => .error off
    | w :: r => do
      let k := Nat.min (n + 1) 4
      let bytes := natToBytes 4 w.toNat
      check ((bytes.take k).all fun b => b.toNat < 32 && argTypeOk b.toNat) off
      check ((bytes.drop k).all fun b => b == 0) off
      let rest ← takeTypes (n + 1 - 4) (off + 1) r
      .ok ((bytes.take k).map (·.toNat) ++ rest)

/-- A block: its header, its argument types, the references that waited for it, its instructions (R82, R85). -/
def FuncScan.takeBlock (f : FuncScan) : Except Nat FuncScan :=
  match f.words with
  | [] => .error f.off
  | h :: rest => do
    let w := h.toNat
    let nargs := w / 2 ^ 8 % 256
    let ninst := w / 2 ^ 16
    let fn := f.entry
    let bi := f.blocks.length
    check (w % 256 == 10 && 1 ≤ ninst && nargs ≤ 64 && bi < 65536) f.off
    check (bi != 0 || nargs == fn.nparam) f.off
    let tw := (nargs + 3) / 4
    let args ← takeTypes nargs (f.off + 1) rest
    match bi, args.findIdx? fun t => isTileTy t || (fn.entry && t == 14) with
    | 0, some j => .error (f.off + 1 + j / 4)
    | _, _ => .ok ()
    checkNone ((f.refs.filter fun r => r.target == bi && !fits r args f.shape).map (·.off))
    if bi = 0 then checkNone ((f.vf.calls.filter fun c => c.1 == f.fidx).filterMap fun c => callArgsBad c.2 args) else .ok ()
    let vf := if bi = 0 then
        { f.vf with seen := tset f.vf.seen f.fidx args, calls := f.vf.calls.filter fun c => c.1 != f.fidx }
      else f.vf
    FuncScan.takeInsts ninst args
      { f with off := f.off + 1 + tw, words := rest.drop tw, blocks := f.blocks ++ [⟨args, f.shape, []⟩], vf := vf }

def FuncScan.takeBlocks : Nat → FuncScan → Except Nat FuncScan
  | 0, f => .ok f
  | fuel + 1, f => if f.words.isEmpty then .ok f else do
    let f1 ← f.takeBlock
    takeBlocks fuel f1

/-! ### The end of a function (R85, R411) -/

/-- The template depths that the references give. -/
def refDepths (n : Nat) (refs : List VRef) : Tab Nat :=
  (List.range n).foldl (fun d _ => depthRound (refs.map fun r => (r.src, r.target, r.freeze)) d) [(0, 0)]

/-- The depth that a reference gives its target. -/
def VRef.gives (d : Tab Nat) (r : VRef) : Option Nat := (tget d r.src).map fun n => if r.freeze then n + 1 else n

/-- The words of the references that give a block two depths: the lowest referring word for each block. -/
def depthClashes (d : Tab Nat) (refs : List VRef) : List Nat :=
  refs.filterMap fun r =>
    let given := (refs.filter fun q => q.target == r.target).filterMap (VRef.gives d)
    let all := if r.target = 0 then 0 :: given else given
    if (r.gives d).isSome && all.any fun x => all.any fun y => x != y then some r.off else none

/-- The entries that each level reserves (R411). -/
def reserves (levels : Nat) (d : Tab Nat) (refs : List VRef) : List Nat :=
  (List.range levels).map fun l =>
    maxNat ((refs.filter fun r => r.freeze && tget d r.src == some l).map fun r => r.args.length)

/-- The checks at a function's end, and its record. -/
def FuncScan.finish (f : FuncScan) : Except Nat LFunc := do
  let fn := f.entry
  let n := f.blocks.length
  checkNone ((f.refs.filter fun r => n ≤ r.target).map (·.off))
  let d := refDepths n f.refs
  let levels := fn.levels
  let res := reserves (Nat.max levels (n + 1)) d f.refs
  if levels = 0 then .ok () else do
    let frozen := f.refs.filter (·.freeze)
    checkNone (depthClashes d f.refs ++
      (f.nests.filter fun x => (tget d x.1).isNone || tget d x.1 == some 0).map (·.2) ++
      (frozen.filter fun r => (tget d r.src).isNone).map (·.hdr))
    check (sumNat res ≤ 64) (((frozen.map (·.off)).foldl Nat.min ((frozen.head?.map (·.off)).getD f.off)))
  .ok ⟨fn.nparam, fn.restype, fn.entry, levels, fn.budget, (f.blocks.head?.map (·.args)).getD [], f.blocks,
    if levels = 0 then [] else res⟩

/-! ### The object (R81) -/

def wordAt (ws : List W32) (n : Nat) : Nat := ((ws[n]?).getD 0).toNat

/-- The bytes of the string area. -/
def stringArea (ws : List W32) (n : Nat) : List Byte := (ws.flatMap fun w => natToBytes 4 w.toNat).take n

/-- A NUL-terminated ASCII string starts at an offset. -/
def nameOk (area : List Byte) (off : Nat) : Bool :=
  let r := area.drop off
  match r.findIdx? (· == 0) with
  | some n => (r.take n).all fun b => b.toNat < 128
  | none => false

/-- The function table. -/
def takeFuncs (ws : List W32) (area : List Byte) (codeEnd : Nat) : Nat → Nat → Nat → Except Nat (List VFunc)
  | 0, _, _ => .ok []
  | n + 1, off, code => do
    let a := wordAt ws off
    let b := wordAt ws (off + 1)
    let c := wordAt ws (off + 2)
    let d := wordAt ws (off + 3)
    check (a == code) off
    check (1 ≤ b && code + b ≤ codeEnd && (n != 0 || code + b == codeEnd)) (off + 1)
    let restype := bits c 31 27
    let nparam := bits c 26 21
    let levels := bits c 20 18
    let entry := bit c 17
    let budget := bits c 15 8
    check (restype ≤ 15 && levels ≤ 4 && !bit c 16 && bits c 7 0 == 0 && (budget == 0 || 8 ≤ budget)) (off + 2)
    check (if entry then restype == 0 && nparam ≤ 32 else levels == 0) (off + 2)
    check (d < area.length && nameOk area d) (off + 3)
    let rest ← takeFuncs ws area codeEnd n (off + 4) (code + b)
    .ok (⟨a, b, restype, nparam, levels, entry, budget⟩ :: rest)

/-- The barrier table: identifier, mode (0 arrive-wait, 1 split), count. -/
def takeBars (ws : List W32) : Nat → Nat → List Nat → Except Nat (List (Nat × Nat × Nat))
  | 0, _, _ => .ok []
  | n + 1, off, ids => do
    let w := wordAt ws off
    let id := bits w 3 0
    let mode := bits w 5 4
    check (bits w 31 16 ≤ 256 && bits w 15 6 == 0 && (mode == 1 || mode == 2) && !ids.contains id) off
    let rest ← takeBars ws n (off + 1) (id :: ids)
    .ok ((id, mode - 1, bits w 31 16) :: rest)

/-- The functions, in table order. -/
def takeBodies (ws : List W32) : Nat → List VFunc → Verify → Except Nat (List LFunc)
  | _, [], _ => .ok []
  | k, f :: r, v => do
    let s ← FuncScan.takeBlocks (f.len + 1) { fidx := k, off := f.off, words := (ws.drop f.off).take f.len, vf := v }
    let fn ← s.finish
    let rest ← takeBodies ws (k + 1) r s.vf
    .ok (fn :: rest)

/-- The single pass of R85: the verified copy of the object, or the offset of the failing word (DEDUCED, log 47) (DESIGN CHOICE, log 75). -/
def verify (part : Nat) (ws : List W32) : Except Nat Obj := do
  let w (n : Nat) : Nat := wordAt ws n
  check (1 ≤ ws.length && w 0 == 0x3046504C) 0
  let fw := w 1 % 2 == 1
  check (2 ≤ ws.length && w 1 / 2 == 2 ^ 15 && (!fw || Config.objectSigned ws)) 1
  let nbar := w 2 / 2 ^ 16
  let nfunc := w 2 % 2 ^ 16
  check (3 ≤ ws.length && nbar ≤ 16 && 1 ≤ nfunc) 2
  check (8 ≤ ws.length) ws.length
  let kstart := 8 + 4 * nfunc + nbar
  let cstart := kstart + w 3
  let cend := cstart + w 6
  check (w 7 % 4 == 0 && cend + w 7 / 4 == ws.length) 7
  let area := stringArea (ws.drop cend) (w 7)
  let funcs ← takeFuncs ws area cend nfunc 8 cstart
  let bars ← takeBars ws nbar (8 + 4 * nfunc) []
  let bodies ← takeBodies ws 0 funcs { fw := fw, funcs := funcs, bars := bars }
  .ok ⟨part, ws, fw, bodies, bars, (ws.drop kstart).take (w 3), w 4, w 5⟩

/-! ### LOAD_OBJECT and UNLOAD_OBJECT -/

/-- The loader fetches a code word (R178: X); one of the host window or of an uncorrectable line is free (DESIGN CHOICE, log 4). -/
def State.fetchWord (s : State) (sp : Space) (va : Nat) : Option W32 × State :=
  match s.physPiece sp va 4 .fetch with
  | (some p, s1) =>
    if regionOf p.pa == .host || s1.uncorrectable p.pa then let (n, s2) := s1.draw1; (some (BitVec.ofNat 32 n), s2)
    else (some (BitVec.ofNat 32 (bytesToNat ((List.range 4).map fun i => s1.lastByteAt p.key (p.pa + i)))), s1)
  | (none, s1) => (none, s1)

/-- The words of an image, or the offset of the first word that may not be fetched, at which the load fails (DESIGN CHOICE, log 82). -/
def State.imageWords (s : State) (part : Nat) (image : CodeImage) : Except Nat (List W32) × State :=
  match image with
  | .words ws => (.ok ws, s)
  | .memory asid va n =>
    let k := ((tget s.parts part).bind fun p => (p.clusters.flatMap fun c => (List.range 12).map (12 * c + ·)).find? s.present).getD 0
    (List.range n).foldl (fun (acc : Except Nat (List W32) × State) i => match acc.1 with
      | .error e => (.error e, acc.2)
      | .ok ws => match acc.2.fetchWord (acc.2.spaceFor k part asid) (va + 4 * i) with
        | (some w, s1) => (if va % 4 == 0 then .ok (ws ++ [w]) else .error 0, s1)
        | (none, s1) => (.error i, s1)) (.ok [], s)

/-- The firmware slot runs from an entry of its image: one thread, BRMODE.FW = 1 (R261, R282). Its registers stay as they are (DESIGN
CHOICE, log 9), and its budget is that of the entry (DESIGN CHOICE, log 16). -/
def State.startFirmware (s : State) (k : Nat) (entry : TKey) : State :=
  let s := s.leaveTr (clusterOf k) ((s.ctx k 4).thread 0).inTr
  let s := s.modCtx k 4 fun c =>
    let c1 : Ctx := { c with
      state := .active, bins := [], overflow := [], inflight := [], latches := [], late := [], delays := [], fence := none, spec := none
      entry := some (entry, 0), group := some ⟨[(0, 0)], {}, 0, none, none⟩ }
    c1.modThread 0 fun th => { th with
      place := .group, trap := none, fault := none, pend := none, skip := none, inTr := 0, calls := [], budget := entry.budget }
  s.modCore k fun c => { c with sel := { c.sel with brmode := c.sel.brmode ||| 1#2, fwWait := 0, fwSteal := false } }

/-- The entries of a firmware object: the main entry is its first entry function, the recovery entry its second, or the first when there
is no second (DESIGN CHOICE, log 17). -/
def Obj.entries (o : Obj) (id : Nat) : Option (TKey × TKey) :=
  let key (f : LFunc × Nat) : TKey := ⟨id, f.2, 0, if f.1.budget = 0 then 8 else f.1.budget⟩
  match (o.funcs.zipIdx.filter fun f => f.1.entry).map key with
  | [] => none
  | [m] => some (m, m)
  | m :: r :: _ => some (m, r)

/-- A firmware object is the image of the cores of its partition that have none yet: their firmware slots start at its main entry
(DESIGN CHOICE, log 17). -/
def State.installFirmware (s : State) (p : Partition) (o : Obj) (id : Nat) : State :=
  match o.fw, o.entries id with
  | true, some (main, recovery) =>
    let ks := (p.clusters.flatMap fun c => (List.range 12).map (12 * c + ·)).filter fun k => s.present k && (s.core k).sel.fwEntry.isNone
    ks.foldl (fun s k => (s.modCore k fun c => { c with sel := { c.sel with fwEntry := some recovery } }).startFirmware k main) s
  | _, _ => s

/-- LOAD_OBJECT (R85): the object becomes executable, or the load completes with the offset of the failing word. -/
def execLoadObject (part : Nat) (image : CodeImage) (s : State) : Host.Outcome State Fault Refusal :=
  if s.phase != .running then .next s
  else
    let (ws, s1) := s.imageWords part image
    .next (match tget s.parts part, ws.bind (verify part) with
      | none, _ => s.modHost fun h => { h with replies := h.replies ++ [false] }
      | some p, .ok o =>
        let s2 := s1.modHost fun h => { h with loads := h.loads ++ [⟨true, s.nextObj⟩] }
        State.installFirmware { s2 with objs := tset s2.objs s.nextObj o, nextObj := s.nextObj + 1 } p o s.nextObj
      | some _, .error off => s1.modHost fun h => { h with loads := h.loads ++ [⟨false, off⟩] })

/-- UNLOAD_OBJECT (R84): refused while a launch that names one of its entries has not completed. -/
def execUnloadObject (obj : Nat) (s : State) : Host.Outcome State Fault Refusal :=
  if s.phase != .running then .next s
  else .next (
    let used := s.launches.any fun l => l.2.obj == obj
    let ok := (tget s.objs obj).isSome && !used
    let s1 := s.modHost fun h => { h with replies := h.replies ++ [ok] }
    if ok then { s1 with objs := tdel s1.objs obj } else s1)

end Sys2Proof.Machine
end

