-- ==== Sys2Proof/Machine/Translate.lean ====
section
/-! DEFINITION. The translation cache of a cluster (R114-R121): requests, the heap and its evictions, completions. -/

namespace Sys2Proof.Machine

/-- The translation of a key on a cluster (R91); none when its object has gone. -/
def State.translationOf (s : State) (c : Nat) (key : TKey) : Option TronResult :=
  (tget s.objs key.obj).bind fun o => o.funcs[key.func]?.map fun f => translateRegion f o.fw (isWide (12 * c)) key

/-- The event of a request with its REASON, `asked` saying where the requesting thread's budget came from (R117) (DEDUCED, log 59). -/
def State.requestEvent (s : State) (c : Nat) (key : TKey) (asked : Nat) : Nat × Nat :=
  let known := (s.cluster c).stubs.any fun e => e.key.obj == key.obj && e.key.func == key.func && e.key.region == key.region &&
    e.state != .translating
  if !known then (1, 0)
  else match asked with
    | 1 => (3, 1)
    | 2 => (3, 2)
    | _ => (4, 0)

/-- TRANSLATE_REQUEST (R117): the event is logged, and the tron begins; how long it takes is free (DESIGN CHOICE, log 4). -/
def execTranslateRequest (cluster core ctx : Nat) (key : TKey) (s : State) : Host.Outcome State Fault Refusal :=
  .next (match s.stub cluster key with
    | some st =>
      if st.state != .translating then s
      else
        let (event, reason) := s.requestEvent cluster key st.asked
        let size := match s.translationOf cluster key with
          | some (.done t) => t.words.length
          | _ => 0
        let (n, s1) := (s.logTr cluster core ctx event reason key size).draw1
        s1.schedule (s1.after (1 + n)) (.translationComplete cluster key)
    | none => s)

/-- The translations that pending branches and jumps of a context go to. -/
def Ctx.headedFor (c : Ctx) : List Nat :=
  let pend (p : Option Pending) : List Nat := p.toList.map (·.target.tr)
  c.threads.flatMap (fun e => pend e.2.pend ++ pend e.2.resume.pend ++ (e.2.trap.map fun h => pend h.stop.pend).getD []) ++
    c.bins.flatMap (fun e => pend e.2.key.pend) ++ c.overflow.flatMap (fun e => pend e.1.pend) ++
    (match c.group with
      | some g => (g.jump.toList.map (·.tr)) ++ (g.delay.map fun d => d.taken.map (·.2.tr)).getD []
      | none => [])

/-- The translations of a cluster that a branch in its delay goes to: they are not evicted before its threads enter (DEDUCED, log 61). -/
def State.headed (s : State) (c : Nat) : List Nat :=
  s.cores.flatMap fun k => if clusterOf k.1 == c then k.2.ctxs.flatMap (fun x => x.2.headedFor) ++ k.2.saves.flatMap (fun r => r.2.ctx.headedFor) else []

/-- The unpinned translation that was entered least recently (R119); of several entered last in one tick, the one that was asked for
first (DESIGN CHOICE, log 77). -/
def Cluster.victim (cl : Cluster) (headed : List Nat) : Option (Stub × Nat) :=
  cl.stubs.foldl (fun (best : Option (Stub × Nat)) e => match e.state, best with
    | .present tr _, none => if e.pins = 0 && !headed.contains tr then some (e, tr) else none
    | .present tr _, some b => if e.pins = 0 && !headed.contains tr && e.last < b.1.last then some (e, tr) else some b
    | _, b => b) none

/-- Evicts until `need` bytes fit, with an EVICT record for each (R119). -/
def State.makeRoom (c need : Nat) : Nat → State → State
  | 0, s => s
  | fuel + 1, s =>
    if (s.cluster c).heapUsed + need ≤ s.heapCap c then s
    else match (s.cluster c).victim (s.headed c) with
      | none => s
      | some (e, tr) =>
        let size := ((tget (s.cluster c).trans tr).map (·.words.length)).getD 0
        let s1 := s.modCluster c fun cl => { cl with
          stubs := cl.stubs.filter fun f => f.key != e.key
          trans := tdel cl.trans tr
          onDie := cl.onDie.filter (· != tr) }
        makeRoom c need fuel (s1.logTr c (12 * c) 0 2 0 e.key size)

/-- A translation that failed: its record; the stub is ABSENT again, and every context that waits takes the trap when it next asks
(R117, R119, R120). -/
def State.failTranslation (s : State) (c : Nat) (key : TKey) (st : Stub) (reason : Nat) : State :=
  let (k, x) := st.waiters.headD (12 * c, 0)
  let s1 := (s.logTr c k x 5 reason key 0).dropStub c key
  st.waiters.foldl (fun s w => s.modCtx w.1 w.2 fun x => { x with failed := x.failed ++ [(key, reason)] }) s1

/-- A finished translation takes its place in the heap, and its stub becomes PRESENT (R114, R119). -/
def State.placeTrans (s : State) (c : Nat) (key : TKey) (st : Stub) (t : Trans) : State :=
  let fit (s : State) : Option Nat := heapFit ((s.cluster c).heapSpans (s.heapPillars c)) (s.heapCap c) t.heapBytes
  let s1 := if (fit s).isSome then s else s.compact c
  let h := (fit s1).getD 0
  let tr := (s1.cluster c).nextTr
  let s2 := s1.modCluster c fun cl => { cl with trans := tset cl.trans tr t, nextTr := tr + 1 }
  let s3 := (s2.setStub c { st with state := .present tr (heapAddr (s.heapPillars c) h), pins := 0, last := s2.gtc, waiters := [] }).putTrans c h t
  st.waiters.foldl (fun s w => if (s.ctx w.1 w.2).entry.map (·.1) == some key then s.enterEntry w.1 w.2 tr t else s) s3

/-- TRANSLATION_COMPLETE (R119, R120). -/
def execTranslationComplete (cluster : Nat) (key : TKey) (s : State) : Host.Outcome State Fault Refusal :=
  .next (match s.stub cluster key, s.translationOf cluster key with
    | some st, some (.done t) =>
      if st.state != .translating then s
      else
        let s1 := State.makeRoom cluster t.heapBytes ((s.cluster cluster).stubs.length + 1) s
        if (s1.cluster cluster).heapUsed + t.heapBytes ≤ s1.heapCap cluster then s1.placeTrans cluster key st t
        else s1.failTranslation cluster key st 1
    | some st, some (.failed r) => if st.state != .translating then s else s.failTranslation cluster key st r
    | some _, none => s.dropStub cluster key
    | none, _ => s)

/-- COMPACTION (R121): the translations of the heap move together. PCs name translations and not addresses, so threads follow (DESIGN
CHOICE, log 60). -/
def execCompaction (cluster : Nat) (s : State) : Host.Outcome State Fault Refusal :=
  if clusterCount ≤ cluster then .fault .absentUnit else .next (s.compact cluster)

end Sys2Proof.Machine
end

