-- ==== Sys2Proof/Machine/Issue.lean ====
section
/-! DEFINITION. The issue of a group of bundles (R123-R134, R293-R299): fetch, the waits and delays before it, the ops,
and where its threads go on. The meaning of one instruction comes in as a parameter. -/

namespace Sys2Proof.Machine

/-! ### Legality of a group (R124) -/

/-- Slot masks that share no slot (R124). -/
def disjointSlots : List (BitVec 8) → BitVec 8 → Bool
  | [], _ => true
  | p :: r, used => p &&& used == 0#8 && disjointSlots r (used ||| p)

/-- A bundle holds a BRN. -/
def hasBrn (b : Bundle) : Bool := b.ops.any fun p => p.1 == 7 && opcodeOf p.2 == 0x40

/-- What R124 refuses in a fetched group, headers apart. -/
def State.groupLegal (s : State) (k x : Nat) (g : Group) (bs : List (Nat × Bundle)) : Bool :=
  disjointSlots (bs.map (·.2.hdr.p)) 0#8 &&
    (isWide k || bs.all fun b => b.2.hdr.p &&& 0x24#8 == 0#8) &&
    !(g.delay.isSome && !s.prepForm k x && bs.any fun b => hasBrn b.2)

/-! ### The rows of TRET -/

/-- The row of R262 that a TRET word is, by the MODE of the answer word in the highest lane of ACTIVE; modes 6 and 7,
and an empty ACTIVE, stay with the row that decoding gives (DEDUCED, log 64). -/
def answerRow (i : Instr) (s : State) : Instr :=
  match i with
  | .retry o => match s.top o with
    | some e => match ((s.word o e.1 e.2 o.selA).extractLsb' 16 3).toNat with
      | 1 => .cont o
      | 2 => .replay o
      | 3 => .fail o
      | 4 => .endThread o
      | 5 => .endLaunch o
      | _ => .retry o
    | none => .retry o
  | i => i

/-! ### Running the ops of a group (R255) -/

/-- One op of a bundle: its meaning, or ILLEGAL_OP when its code is unassigned or its encoding refused (R299). -/
def runOne (ex : Instr → State → Answer) (e : Op × Except DecodeError Instr) (s : State) : Answer :=
  match e.2 with
  | .ok i => ex (answerRow i s) s
  | .error _ => .next (runOp e.1.slot (s.allTrap e.1 .illegalOp) id s)

/-- Ops one after another. -/
def runEach (ex : Instr → State → Answer) : List (Op × Except DecodeError Instr) → State → Answer
  | [], s => .next s
  | e :: r, s => (runOne ex e s).andThen (runEach ex r)

/-- The group's bundle in execution. -/
def State.atBundle (s : State) (off next : Nat) : State :=
  s.modMe fun c => { c with group := c.group.map fun g => { g with pc := { g.pc with off := off }, next := next } }

def State.collected (s : State) : List (Nat × Nat × Trap) := s.collect.getD []

/-- The traps that bundles raise from a state, of each bundle each thread's own, with the bundle (R255). -/
def trapsOf (ex : Instr → State → Answer) (next : Nat) (bs : List (Nat × Bundle)) (s : State) : List (Nat × Trap × Pc) :=
  bs.flatMap fun b =>
    let s0 := { s.atBundle b.1 next with collect := some [] }
    (mergeTraps ((runEach ex b.2.instrs s0).stateOr s0).collected).map fun e => (e.1, e.2, s0.me.pc)

/-- The bundles of a group in order. Ops of slot 7 wait in `ctl` until the others have run, for a branch or a park
moves the group. A bundle that traps and those after it take effect in no lane, and the earlier ones stand; a thread that traps in
a later bundle only takes that trap (R255) (DEDUCED, log 18). -/
def runBundles (ex : Instr → State → Answer) (next : Nat) (ctl : List (Nat × Op × Except DecodeError Instr)) :
    List (Nat × Bundle) → State → Answer
  | [], s => match ctl with
    | [] => .next s
    | (off, e) :: _ => runOne ex e ({ s with collect := none }.atBundle off next)
  | (off, b) :: r, s =>
    let s0 := { s.atBundle off next with collect := some [] }
    let plain := b.instrs.filter fun e => e.1.slot != 7
    let mine := b.instrs.filter fun e => e.1.slot == 7
    (runEach ex plain s0).andThen fun s1 =>
      (runEach ex mine { s1 with collect := some s1.collected }).andThen fun dry =>
        match dry.collected with
        | [] =>
          let s2 := { s1 with collect := none }
          if s2.me.hold.isSome || dry.me.hold.isSome then
            .next { (if dry.me.hold.isSome then { dry with collect := none } else s2) with collect := none }
          else runBundles ex next (ctl ++ mine.map fun e => (off, e)) r s2
        | ts =>
          let s2 := { s.atBundle off next with collect := none }
          let traps := (mergeTraps ts).map (fun e => (e.1, e.2, s2.me.pc)) ++ trapsOf ex next r s2
          match ctl with
          | [] => .next (s2.takeTrapsAt s.myCore s.myCtxNo traps)
          | (o, e) :: _ => (runOne ex e (s2.atBundle o next)).andThen fun s3 =>
            .next ((s3.atBundle off next).takeTrapsAt s.myCore s.myCtxNo traps)

/-- The effect of a group that issues. When an op holds its bundle, only that op's waiting effect stays. -/
def runGroup (ex : Instr → State → Answer) (bs : List (Nat × Bundle)) (next : Nat) (s : State) : Answer :=
  match bs with
  | [(off, b)] => match b.instrs with
    | [] => .next (s.atBundle off next)
    | [e] => runOne ex e (s.atBundle off next)
    | _ => runBundles ex next [] bs s
  | _ => runBundles ex next [] bs s

/-- The ops of a group. -/
def groupOps (bs : List (Nat × Bundle)) : List Instr :=
  bs.flatMap fun b => b.2.instrs.filterMap fun e => e.2.toOption

/-- The state in which the ops that hold have waited and nothing else has happened: each op alone on the state before. -/
def heldOnly (ex : Instr → State → Answer) (bs : List (Nat × Bundle)) (next : Nat) (s : State) : State :=
  let try1 (acc : State) (off : Nat) (e : Op × Except DecodeError Instr) : State :=
    if acc.me.hold.isSome then acc
    else
      let r := (runOne ex e { acc.atBundle off next with collect := some [] }).stateOr acc
      if r.me.hold.isSome then { r with collect := none } else acc
  let start := (bs.head?.map (·.1)).getD 0
  (bs.foldl (fun s b => b.2.instrs.foldl (fun s e => try1 s b.1 e) s) s).atBundle start s.group.next

/-! ### After a group -/

/-- The group goes on: a jump, the end of a branch delay, or the next group (R29, R320). -/
def Ctx.advance (now : Nat) (c : Ctx) : Ctx :=
  match c.group with
  | none => c
  | some g =>
    let c := { c with charged := false }
    let goTo (pc : Pc) (c : Ctx) : Ctx :=
      { c with
        group := some { g with pc := pc, delay := none, jump := none }
        delays := c.delays ++ if pc.tr == g.pc.tr then [] else farDelay }
    match g.jump, g.delay with
    | some pc, _ => goTo pc c
    | none, none => { c with group := some { g with pc := g.nextPc } }
    | none, some d =>
      if 1 < d.left then { c with group := some { g with pc := g.nextPc, delay := some { d with left := d.left - 1 } } }
      else match d.taken with
        | [] => { c with group := some { g with pc := g.nextPc, delay := none } }
        | (_, pc) :: _ =>
          if g.threads.all fun t => tget d.taken t == some pc then goTo pc c
          else (c.fileAfter (now + if c.second then 2 * cycleLen else cycleLen) g g.threads).noGroup

/-! ### Uniform registers (R134) and taints (R224) -/

/-- The registers of a result. -/
def Landing.regs (l : Landing) : List Nat :=
  if l.kind == .reg && isReg l.dest then (List.range l.width).map (l.dest + ·) else []

/-- The results that a group added. -/
def newLandings (before after : Ctx) : List Landing := after.inflight.drop before.inflight.length

/-- Two results are the lane halves of one op (R127). -/
def Landing.sibling (a b : Landing) : Bool := a.at_ == b.at_ && a.slot == b.slot && a.dest == b.dest && a.kind == b.kind && a.issued == b.issued

/-- The registers that the results of a group overwrite, both halves of an op counted once (R224). -/
def overwritten (ls : List Landing) : Nat :=
  let once := ls.foldl (fun (acc : List Landing) l => if acc.any (·.sibling l) then acc else acc ++ [l]) []
  sumNat (once.map fun l => if l.kind == .reg && isLatch l.dest then 0 else l.width)

/-- The registers that the results of a group write. -/
def touched (ls : List Landing) : List Nat := nodup (ls.flatMap Landing.regs)

/-- The results of a group leave register n uniform: every live thread writes it, each the same value (R134). -/
def uniformReg (c : Ctx) (ls : List Landing) (n : Nat) : Bool :=
  let mine := ls.filter fun l => l.regs.contains n
  let words := mine.flatMap fun l => l.vals.map fun v => (v.1, (v.2[n - l.dest]?).getD 0)
  mine.all (·.zeros.isEmpty) && c.live.all (fun t => words.any (·.1 == t)) && words.all fun w => some w.2 == words.head?.map (·.2)

/-- The uniform marks after the results of a group. -/
def noteUniform (c : Ctx) (ls : List Landing) : List Nat :=
  (c.uniform.filter fun n => !(touched ls).contains n) ++ (touched ls).filter (uniformReg c ls)

/-- A result of the group expands a uniform register (R134). -/
def expands (c : Ctx) (ls : List Landing) : Bool := (touched ls).any fun n => c.uniform.contains n && !uniformReg c ls n

/-- Taint marks: 0 for registers, 1 for predicates, 2 for the latches of a slot. -/
def taintOf (kind : DestKind) (n : Nat) : Nat × Nat := if kind == .pred then (1, n) else (0, n)

def taintedBy (sp : Spec) (i : Instr) : Bool :=
  (Sys2Proof.Instr.uses i).any (fun r =>
    (isReg r.1 && (List.range r.2).any fun j => sp.taint.contains (0, r.1 + j)) ||
      (isLast r.1 && sp.taint.contains (0, r.1)) || (isLatch r.1 && sp.taint.contains (2, (r.1 - 0x100) / 8))) ||
    ((Sys2Proof.Instr.op i).map fun o => sp.taint.contains (1, o.gq.toNat)).getD false

/-- The results of a bundle of the window take its number; what a tainted op, or the loads of the window, write is
tainted (R224). A replay to a load of the group issues all of it again (R35, R226). -/
def noteSpec (ops : List Instr) (grew : Bool) (before : Ctx) (c : Ctx) : Ctx :=
  match c.spec with
  | none => c
  | some sp =>
    let slots := (ops.filter fun i => taintedBy sp i).filterMap fun i => (Sys2Proof.Instr.op i).map (·.slot)
    let n := before.inflight.length
    let marks := (newLandings before c).flatMap fun l =>
      if slots.contains l.slot || (grew && l.slot == 1) then
        (if l.kind == .reg && l.width == 1 then [(2, l.slot)] else []) ++ (List.range l.width).map fun j => taintOf l.kind (l.dest + j)
      else []
    { c with
      spec := some { sp with
        loads := sp.loads.map fun l => if l.bundle == sp.bundles then { l with group := before.group.getD l.group } else l
        bundles := sp.bundles + 1, written := sp.written ++ [overwritten (newLandings before c)], taint := sp.taint ++ marks.filter fun m => !sp.taint.contains m }
      inflight := c.inflight.mapIdx fun i l => if n ≤ i then { l with spec := some sp.bundles } else l }

/-! ### Delays of a bundle (R132-R134, R58, R140) -/

/-- The largest number of equal entries. -/
def maxCount (l : List Nat) : Nat := maxNat (l.map fun x => l.count x)

/-- The source runs that an op reads now: STMAP with CLR reads no entry (R382). -/
def State.readsOf (s : State) (i : Instr) : List (Nat × Nat) :=
  match i with
  | .stmap o => match s.top o with
    | some e => if (s.word o e.1 e.2 o.selA).getLsbD 8 then [(o.selA, 1)] else i.uses
    | none => i.uses
  | i => i.uses

/-- The register-file cycles of a group beyond the first (R132). -/
def rfDelay (s : State) (k : Nat) (c : Ctx) (g : Group) (halved : Bool) (ops : List Instr) : Nat :=
  let runs := ops.flatMap s.readsOf
  let regs := nodup (runs.flatMap fun r => if isReg r.1 then (List.range r.2).map (r.1 + ·) else [])
  let copied := runs.any fun r => isLast r.1 && g.threads.any fun t => ((c.thread t).copyWords (r.1 - 0x140)).isSome
  if regs.isEmpty && !copied then 0
  else
    let cols (ls : Tab Nat) : Nat := maxCount (ls.map fun e => e.2 % (if isWide k then 32 else 16))
    let n := if halved then
        Nat.max (cols (g.lanes.filter fun e => e.1 < 16)) (cols (g.lanes.filter fun e => 16 ≤ e.1))
      else cols g.lanes
    let e := sumNat ((List.range 4).map fun b => (regs.filter fun r => r % 4 == b).length - 2)
    Nat.max 1 n * (1 + e) - 1

/-- The bank of a stash word (R133). -/
def stashBank (c : Ctx) (a : Nat) : Nat :=
  let swz := c.mem.stmap.find? fun e =>
    let b := (e.2.2.extractLsb' 0 11).toNat * 256 + c.base 2
    let n := ((e.2.2.extractLsb' 20 11).toNat + 1) * 256
    e.2.2.getLsbD 47 && b ≤ a && a < b + n
  match swz with
  | some e =>
    let b := (e.2.2.extractLsb' 0 11).toNat * 256 + c.base 2
    let w := (a - b) / Nat.max 1 (e.2.2.extractLsb' 48 16).toNat
    (a / 8 % 32) ^^^ (w % 32)
  | none => a / 8 % 32

/-- The accesses of a MEM op. -/
def memAccs (s : State) (i : Instr) : List Acc :=
  match i with
  | .ld o | .ldRng o => ldAccs o s
  | .st o => (s.active o).map fun e => Acc.ofPtr e.1 e.2 (s.word o e.1 e.2 o.selA) (o.bytesOf o.ty)
  | .ldv o | .stv o =>
    (s.active o).flatMap fun e => rowAccs o e.1 e.2 (s.word o e.1 e.2 o.selA) (s.word o e.1 e.2 o.selB)
  | .atom o | .atomAcq o | .atomRel o | .atomAr o => (s.active o).map fun e =>
    Acc.ofPtr e.1 e.2 (s.word o e.1 e.2 o.selA) (tyBytes ((o.ext.getD 0).extractLsb' 0 5).toNat)
  | _ => []

/-- The stash cycles of a group beyond the first (R133). -/
def stashDelay (s : State) (k x : Nat) (halved : Bool) (ops : List Instr) : Nat :=
  let c := s.ctx k x
  let words (as : List Acc) : List Nat := nodup (as.flatMap fun a => a.pieces.filterMap fun (p : Nat × Nat) =>
    match s.spotOf c a p.1 with
    | .stash ad => some (ad / 8)
    | .window _ _ _ ad => some (ad / 8)
    | .virt _ => none)
  let worst (as : List Acc) : Nat := maxCount ((words as).map fun w => stashBank c (8 * w))
  let as := ops.flatMap (memAccs s)
  let n := if halved then
      Nat.max (worst (as.filter fun a => a.lane < 16)) (worst (as.filter fun a => 16 ≤ a.lane))
    else worst as
  n - 1

/-- The group issues in two cycles (R34, R123). -/
def twoCycle (k : Nat) (g : Group) (ops : List Instr) : Bool :=
  !isWide k && 16 < g.lanes.length && ops.any fun i => match Sys2Proof.Instr.op i with
    | some o => o.slot == 3 || o.slot == 4
    | none => false

/-- The delay cycles of a group, in the order of R140, from a trial of its ops. -/
def chargeOf (s trial : State) (k x : Nat) (g : Group) (ops : List Instr) : List Stall :=
  let c := s.ctx k x
  let ls := newLandings c (trial.ctx k x)
  let two := twoCycle k g ops
  let copy := ls.any fun l => l.kind == .reg && isLast l.dest &&
    l.vals.any fun v => ((c.thread v.1).own (l.dest - 0x140)).isEmpty
  List.replicate (rfDelay s k c g two ops) .rfBank ++
    List.replicate (stashDelay s k x two ops) .stashBank ++
    (if expands c ls then List.replicate 2 .uniformExpand else []) ++
    (if copy then List.replicate 6 .copyFault else [])

/-! ### Waits (R36, R37, R128, R130, R252) -/

/-- An interlocked result whose window is exhausted (R128). -/
def Ctx.windowShut (c : Ctx) : Bool := c.inflight.any fun l => l.window == some 0

/-- Units that have not finished their issue interval (R130). -/
def State.unitsBusy (s : State) (k : Nat) (ops : List Instr) : Bool :=
  ops.any fun i => match Sys2Proof.Instr.op i with
    | some o => s.now < tgetD (s.core k).unitFree o.slot 0
    | none => false

/-- A context that is being pre-empted issues nothing more: not before it has completed a replay, the second cycle of its bundle,
or a copy fault (R44, R66, R226). -/
def Ctx.stopNow (c : Ctx) : Bool := c.stopping && c.redo == 0 && !c.second && !(c.charged && c.delays.contains .copyFault)

/-- The waits that stand without looking at the group's ops (R37). A context that a pre-emption has stopped stays in the wait it
was in. -/
def State.waitCause (s : State) (k x : Nat) (g : Group) : Option Stall :=
  let c := s.ctx k x
  if g.threads.any fun t => (c.thread t).fault.isSome then some .lookahead
  else match c.fence with
    | some f => if f.prom.isEmpty then some .lookahead else some .leaseRenew
    | none =>
      if c.windowShut then some .lookahead
      else if c.stopNow then some (c.hold.getD .switchedOut)
      else if (s.wantedKey k x g.pc.tr).isSome || s.codeHere k x g.pc then none
      else some .segOverlay

/-- A Q-marked bundle issues only when every interlocked result of the context has arrived (R107) (DEDUCED, log 42). -/
def Ctx.unsettled (c : Ctx) (now : Nat) : Bool := c.inflight.any fun l => l.window.isSome && !l.ready now

/-- Whether a bundle at an offset leaves the LPF block of a point, or is the block's last instruction. -/
def State.leavesBlock (s : State) (k tr off b : Nat) : Bool :=
  let p := s.point k ⟨tr, off⟩
  let last := match s.trans k ⟨tr, off⟩ with
    | some t => ((s.funcOf t.key).map fun f => (f.block b).insts.length == p.2 + 1).getD true
    | none => true
  (p.1 != b && p.1 != 0xFFFF) || (p.1 == b && last)

/-- A result on its way to a thread of the group, from an op whose LPF block the bundles at these offsets leave (DEDUCED, log 13). -/
def State.carriedOver (s : State) (k : Nat) (g : Group) (offs : List Nat) (l : Landing) : Bool :=
  !l.ready s.now && g.threads.any (fun t => l.vals.any (·.1 == t) || l.zeros.contains t) &&
    (l.at_.tr != g.pc.tr || offs.any fun off => s.leavesBlock k g.pc.tr off (s.point k l.at_).1)

/-- The op reads the destination of the result. -/
def Landing.readBy (l : Landing) (i : Instr) : Bool :=
  match l.kind with
  | .pred => ((Sys2Proof.Instr.op i).map fun o => o.gq.toNat == l.dest).getD false
  | .reg => (Sys2Proof.Instr.uses i).any fun u => u.1 < l.dest + l.width && l.dest < u.1 + u.2

/-- The group waits for a result that crosses into it from an earlier LPF block or from the block of its edge: it reads the
destination, or a result of its own would land in it no later (DEDUCED, log 13). Blocks are scheduled alone (R104) and a lookahead
field counts the readers in the block only (R108), so the value would else be lost (R408). -/
def State.carryWait (s trial : State) (k x : Nat) (g : Group) (offs : List Nat) (ops : List Instr) : Bool :=
  let c := s.ctx k x
  let owed := c.inflight.filter fun l => s.carriedOver k g offs l
  let ls := newLandings c (trial.ctx k x)
  owed.any fun l => ops.any l.readBy ||
    ls.any fun n => n.kind == l.kind && n.dest < l.dest + l.width && l.dest < n.dest + n.width &&
      (n.due ≤ l.due || !({ l with due := 0 }).ready 0)

/-- Delays that leave the context holding issue although an op asks for them (R37). -/
def Stall.keepsIssue : Stall → Bool
  | .circuitSlot | .copyFault => true
  | _ => false

/-! ### One attempt to issue -/

/-- What an attempt comes to. -/
inductive Attempt where
  /-- The context waits (R37). -/
  | waits (e : Stall) (s : State)
  /-- A delay cycle that keeps issue. -/
  | delayed (e : Stall) (s : State)
  /-- The threads are filed at a safe point and nothing issues (R34, R270). A group that has just been drawn there issues its first
bundle (R33; DEDUCED, log 14). -/
  | filed (s : State)
  /-- The group issues. -/
  | issues (r : Answer)

/-- A bin of the context is drawable (R34). -/
def Ctx.anyDrawable (c : Ctx) : Bool := c.bins.any fun e => e.2.state != .part

/-- Some thread is parked at a barrier, at TNEST or in REGCLM (R270). -/
def Ctx.anyParked (c : Ctx) : Bool := c.threads.any fun e => match e.2.place with
  | .barrier _ | .tnest | .regclm => true
  | _ => false

/-- Some renewal of the window has no answer yet (R225). -/
def Ctx.answersDue (c : Ctx) : Bool := (c.spec.map fun sp => sp.loads.any (·.answer.isNone)).getD false

/-- The group is a commit point of its window (R225). -/
def commitPoint (now : Nat) (c : Ctx) (sp : Spec) (q : Bool) (ops : List Instr) (trial : Ctx) : Bool :=
  let brn := ops.any fun i => match i with
    | .brn o => sp.taint.contains (1, o.gq.toNat)
    | _ => false
  let moved := (trial.advance now).group
  let trapped := moved.isNone || moved.map (·.threads) != c.group.map (·.threads)
  let more := overwritten (newLandings c trial)
  q || brn || trapped || ops.any Sys2Proof.Instr.commits || 32 < sumNat sp.written + more || 16 ≤ sp.bundles

/-- Once a thread has issued a bundle past the LPF block of the instruction that CONTINUE passed over, it passes over nothing
more (R262). -/
def State.clearSkips (s : State) (k x tr : Nat) (offs ts : List Nat) : State :=
  let done (th : Thread) : Bool := match th.skip with
    | some (pc, b, _) => pc.tr != tr || offs.any fun off => s.leavesBlock k tr off b
    | none => false
  let mine := ts.filter fun t => done ((s.ctx k x).thread t)
  mine.foldl (fun s t => s.modThread k x t fun th => { th with skip := none }) s

/-- The shadow results of a resumed context land from its first group on: offset k is readable by the group of the k-th cycle
(R46). -/
def Ctx.enterShadows (now : Nat) (c : Ctx) : Ctx :=
  { c with
    inflight := c.inflight ++ c.shadows.map fun h => { h.entry with due := now + cycleLen * (h.offset - 1) }
    shadows := [] }

/-- After the ops of a group that issued: windows, marks, the next PC, the pins, the late CSR writes. -/
def finishGroup (k x : Nat) (b : Bool) (offs : List Nat) (ops : List Instr) (before : Ctx) (s : State) : State :=
  let ts := (before.group.map (·.threads)).getD []
  let s := s.clearSkips k x before.pc.tr offs ts
  let grew := ((s.ctx k x).spec.map (·.loads.length)).getD 0 != (before.spec.map (·.loads.length)).getD 0
  let s := s.modCtx k x fun c =>
    let ls := newLandings before c
    let c := noteSpec ops grew before { c with uniform := noteUniform c ls }
    let last := s.now + if c.second then cycleLen else 0
    ({ c with lastIssue := last, redo := if c.group.isSome then c.redo - 1 else 0 }).advance s.now
  (((s.follow k x ts).applyLate k x).applyLate k 4).pumpCode k x before.pc b

/-- The windows of the results in flight let one group less through (R128). -/
def Ctx.passWindows (c : Ctx) : Ctx :=
  { c with inflight := c.inflight.map fun l => { l with window := l.window.map (· - 1) } }

/-! ### Before the first bundle of a start (R250) -/

/-- The places of a workgroup's parameters in the transfer words of its entry: frame word and value (R97). -/
def State.entryWords (s : State) (c : Ctx) : List (Nat × Word) :=
  match s.launchOf c, c.wg.bind fun w => (tget s.objs w.obj).bind fun o => o.funcs[w.func]? with
  | some l, some f =>
    let b := f.block 0
    (l.params.take f.nparam).zipIdx.map fun p => (sumNat ((b.args.take p.2).map (valueRegs b.shape)), p.1)
  | _, _ => []

/-- What the parameters of an issue group come to: they are in place, or the group waits, or threads trap. -/
inductive ParamWrite where
  | ready (s : State)
  | faulted (s : State)
  | trapped (s : State)

/-- The parameters of the group's threads enter their transfer words before the first bundle (DEDUCED, log 53). -/
def State.writeParams (s : State) (k x : Nat) (g : Group) : ParamWrite :=
  let c := s.ctx k x
  let need := g.lanes.filter fun e => c.unparam.contains e.2 && (c.thread e.2).skip.isNone
  let ws := s.entryWords c
  let accs := need.flatMap fun e => ws.map fun w => frameAcc c e.1 e.2 w.1
  let traps := s.accTraps k x .store 8 accs
  let faults := if traps.isEmpty then s.accFaults k x .store accs else []
  match faults, traps with
  | _ :: _, _ => .faulted (s.pageFaults k x faults true)
  | [], _ :: _ => .trapped (s.takeTrapsAt k x (traps.map fun e => (e.1, e.2, g.pc)) (some (0, 0)))
  | [], [] =>
    let s1 := need.foldl (fun s e => ws.foldl (fun s w =>
      s.storeAcc k x (frameAcc c e.1 e.2 w.1) (natToBytes 8 w.2.toNat)) s) s
    .ready (s1.modCtx k x fun c => { c with unparam := c.unparam.filter fun t => !g.threads.contains t })

/-- The LPF point of a group that waits to enter a translation, as the `addr` of a TRANSLATION_FAULT (R120): the entry of a start,
or the point where it stands in the translation that its cluster lacks. -/
def State.entrySite (s : State) (k x : Nat) (g : Group) (key : TKey) : Nat :=
  if g.pc.tr = 0 then siteAddr key (((s.ctx k x).entry.map (·.2)).getD 0) 0
  else match s.translationOf (clusterOf k) key with
    | some (.done t) => siteAddr key (t.point g.pc.off).1 (t.point g.pc.off).2
    | _ => siteAddr key 0xFFFF 0xFFFF

/-- The traps of a group whose wait for its entry has ended in a failure (R120). -/
def State.entryFailed (s : State) (k x : Nat) (g : Group) : Option State :=
  (s.entryFailure k x g.pc.tr).map fun f =>
    (s.takeTraps k x (g.threads.map fun t => (t, ⟨.translationFault, f.2, s.entrySite k x g f.1⟩))).takeFailure k x f.1

/-- A group whose ops have been tried: commit points wait for the answers of the window, then come the group's delay cycles, then
a SENDC's slot, and then it issues (R140, R225, R232). -/
def tryGroup (ex : Instr → State → Answer) (k x : Nat) (g : Group) (bs : List (Nat × Bundle)) (next : Nat) (s : State) : Attempt :=
  let c := s.ctx k x
  let ops := groupOps bs
  let offs := bs.map (·.1)
  let start := s.modCtx k x fun c => { (c.passWindows.enterShadows s.now) with second := twoCycle k g ops }
  let trial := runGroup ex bs next start
  let t := trial.stateOr start
  let charge := if c.charged then [] else chargeOf start t k x g ops
  if s.carryWait t k x g offs ops then .waits .lookahead (s.modCtx k x fun c => { c with hold := some .lookahead })
  else if c.answersDue && c.spec.any fun sp => commitPoint s.now (start.ctx k x) sp (bs.any (·.2.hdr.q)) ops (t.ctx k x) then .delayed .leaseRenew s
  else match (t.ctx k x).hold, charge with
    | none, [] => .issues (trial.andThen fun s' => .next (finishGroup k x (bs.any (·.2.hdr.b)) offs ops (start.ctx k x) s'))
    | some h, [] =>
      let s1 := (heldOnly ex bs next s).modCtx k x fun c => { c with hold := some h }
      if h.keepsIssue then .delayed h s1 else .waits h s1
    | h, e :: r =>
      if h.all Stall.keepsIssue then .delayed e (s.modCtx k x fun c => { c with charged := true, delays := r })
      else .waits (h.getD e) ((heldOnly ex bs next s).modCtx k x fun c => { c with hold := h })

/-- An attempt of context x of core k to issue its group at this cycle. -/
def attempt (ex : Instr → State → Answer) (k x : Nat) (s0 : State) : Attempt :=
  let sa := { s0.modCtx k x (fun c => { c with hold := none }) with cur := (k, x), collect := none }
  match (sa.ctx k x).group with
  | none => .waits .binAge sa
  | some ga =>
    match sa.waitCause k x ga with
    | some e => .waits e sa
    | none =>
      let sb := sa.passEntry k x ga.pc.tr
      let g := ((sb.ctx k x).group).getD ga
      match sb.entryFailed k x g with
      | some s => .issues (.next s)
      | none =>
      let c := sb.ctx k x
      if (sb.wantedKey k x g.pc.tr).isSome then .waits .translateWait sb
      else if !sb.codeHere k x g.pc then .waits .segOverlay sb
      else if !c.late.isEmpty && c.answersDue && g.delay.isNone then .delayed .leaseRenew sb
      else match c.delays with
      | e :: r => .delayed e (sb.modCtx k x fun c => { c with delays := r })
      | [] =>
        if sb.now < c.mem.tready then .delayed .copyFault sb
        else match sb.writeParams k x g with
        | .faulted s => .waits .lookahead s
        | .trapped s => .issues (.next s)
        | .ready s =>
        let c := s.ctx k x
        match s.groupAt k g.pc with
        | none => .issues (.next (s.takeTraps k x (g.threads.map fun t => (t, ⟨.illegalBundle, 0, 0⟩))))
        | some (bs, next) =>
          let q := bs.any (·.2.hdr.q)
          if !s.groupLegal k x g bs then
            .issues (.next (s.takeTraps k x (g.threads.map fun t => (t, ⟨.illegalBundle, 0, 0⟩))))
          else if q && c.unsettled s.now then .waits .lookahead (s.modCtx k x fun c => { c with hold := some .lookahead })
          else if q && c.answersDue then .delayed .leaseRenew s
          else if q && ((g.next != 0 && c.anyDrawable) || (c.migrate.isSome && !c.anyParked)) then
            .filed (s.modCtx k x fun c => (c.fileGroup s.now g g.pc g.threads).noGroup)
          else if s.unitsBusy k (groupOps bs) then .waits .lookahead s
          else tryGroup ex k x g bs next s

end Sys2Proof.Machine
end

