-- ==== Sys2Proof/Machine/Packets.lean ====
section
/-! DEFINITION. Front ends: queue descriptors and commands (R237-R239), packets and their checks (R240-R243), look-ahead and
issue (R247), completion and abort (R244-R246), and the packets other than LAUNCH. -/

namespace Sys2Proof.Machine

/-! ### Descriptors (R237) -/

def State.fe (s : State) (d : Nat) : FrontEnd := tgetD s.fes d {}

/-- The core whose TLBs serve the front end of a die. -/
def feCore (d : Nat) : Nat := if d = 0 then 0 else if d = 1 then 192 else if d = 2 then 384 else 480

def State.descAddr (s : State) (d q : Nat) : Nat := (s.fe d).base.toNat + 64 * q

/-- A word of a queue's descriptor. -/
def State.descWord (s : State) (d q i : Nat) : Word := s.rawWord (s.descAddr d q + 8 * i)

def QueueState.code : QueueState → Nat
  | .disabled => 0
  | .active => 1
  | .aborted => 2
  | .suspended => 3

/-- The front end writes READ, STATE and ABORTVAL of a descriptor. -/
def State.putDesc (s : State) (d q : Nat) : State :=
  let u := s.queue d q
  s.putWords (s.descAddr d q + 24) [word64 u.read, word64 u.state.code, BitVec.ofInt 64 u.abortVal]

/-- The partition that an ASID's translation root is bound in (DESIGN CHOICE, log 11). -/
def State.partOfAsid (s : State) (asid : Nat) : Option Nat :=
  (s.parts.find? fun p => !p.2.swapped && p.2.roots.any fun r => r.1 == asid).map (·.1)

/-- The address space of a queue. -/
def State.queueSpace (s : State) (d : Nat) (u : Queue) : Space :=
  match s.partOfAsid u.asid with
  | some i => s.spaceFor (feCore d) i u.asid
  | none => ⟨feCore d, word64 u.asid, none⟩

/-- The signed 64-bit count of packets from one number to another (R239). -/
def packetCount (hi lo : Nat) : Int := (word64 hi - word64 lo).toInt

/-- The number of the next packet. -/
def packetNext (n : Nat) : Nat := (n + 1) % 2 ^ 64

/-- The address of a ring slot. -/
def Queue.slot (u : Queue) (k : Nat) : Nat := u.ring + 64 * (k % 2 ^ u.log2n)

/-- Eight words from an address; none when an access fails. -/
def State.peekPacket (s : State) (sp : Space) (va : Nat) : Option (List Word) × State :=
  (List.range 8).foldl (fun (acc : Option (List Word) × State) i => match acc.1 with
    | none => acc
    | some ws => match acc.2.peek64 sp (va + 8 * i) with
      | (some w, s') => (some (ws ++ [w]), s')
      | (none, s') => (none, s')) (some [], s)

/-! ### Packets (R240-R243) -/

def wordOf (ws : List Word) (i : Nat) : Word := (ws[i]?).getD 0

def Packet.word (p : Packet) (i : Nat) : Word := wordOf p.words i
def Packet.type (p : Packet) : Nat := ((p.word 0).extractLsb' 56 8).toNat
def Packet.rel (p : Packet) : Nat := ((p.word 0).extractLsb' 47 4).toNat
def Packet.aon (p : Packet) : Bool := (p.word 0).getLsbD 46
def Packet.nwait (p : Packet) : Nat := ((p.word 0).extractLsb' 40 6).toNat

/-- COND and LOOP act as if BAR = 1 (R247). -/
def Packet.bar (p : Packet) : Bool := (p.word 0).getLsbD 55 || p.type == 8 || p.type == 9

/-- CALL, COND and LOOP enter buffers. -/
def Packet.enters (p : Packet) : Bool := p.type == 5 || p.type == 8 || p.type == 9

/-- A pointer field of a packet (R241); bit 60 of a ptr is zero (R74). -/
def ptrField (align : Nat) (p : Word) : Bool := (ptrSeg p == 0 || ptrSeg p == 5) && !ptrBad p && ptrOff p % align == 0

/-- The virtual address that a pointer field forms. -/
def Queue.va (u : Queue) (p : Word) : Nat := (if ptrSeg p = 0 then u.gbase else u.qbase) + ptrOff p

/-- A number in a range. -/
def inSpan (lo hi : Nat) (w : Word) : Bool := lo ≤ w.toNat && w.toNat ≤ hi

/-- Word 3 of LAUNCH (R243). -/
def launchWordOk (w : Word) : Bool :=
  let n := (w.extractLsb' 32 32).toNat
  let b := (w.extractLsb' 24 8).toNat
  let rows := (w.extractLsb' 12 2).toNat + 1
  let cols := (w.extractLsb' 10 2).toNat + 1
  let size := (w.extractLsb' 0 9).toNat
  w &&& 0xFEC200#64 == 0#64 && 1 ≤ n && (b == 0 || 8 ≤ b) && rows ≤ 3 && 1 ≤ size && size ≤ 256 && n * rows * cols < 2 ^ 32

/-- The fields of words 2 to 7 (R242); words not listed are zero (DEDUCED, log 48). -/
def packetBody (ws : List Word) : Bool :=
  let w (i : Nat) : Word := wordOf ws i
  let zeros (l : List Nat) : Bool := l.all fun i => w i == 0
  let n := ((w 0).extractLsb' 40 6).toNat
  match ((w 0).extractLsb' 56 8).toNat with
  | 0 | 6 | 7 => zeros [2, 3, 4, 5, 6, 7]
  | 1 => ptrField 256 (w 2) && launchWordOk (w 3) && zeros [4, 5, 6, 7]
  | 2 => ptrField 1 (w 2) && ptrField 1 (w 3) && inSpan 1 (2 ^ 32 - 1) (w 4) && zeros [5, 6, 7]
  | 3 => (List.range 6).all fun i => if i < n then ptrField 8 (w (2 + i)) else w (2 + i) == 0
  | 4 => ptrField 8 (w 2) && zeros [4, 5, 6, 7]
  | 5 => ptrField 64 (w 2) && inSpan 1 (2 ^ 24) (w 3) && zeros [4, 5, 6, 7]
  | 8 => ptrField 8 (w 2) && ptrField 64 (w 3) && inSpan 0 (2 ^ 24) (w 4) && ptrField 64 (w 5) && inSpan 0 (2 ^ 24) (w 6) && w 7 == 0
  | 9 => ptrField 8 (w 2) && ptrField 64 (w 3) && inSpan 1 (2 ^ 24) (w 4) && inSpan 0 (2 ^ 32 - 1) (w 5) && zeros [6, 7]
  | 10 => ptrField 8 (w 2) && zeros [3, 4, 5, 6, 7]
  | _ => false

/-- The header and SIG (R240, R241). -/
def packetOk (ws : List Word) : Bool :=
  let h := wordOf ws 0
  let t := (h.extractLsb' 56 8).toNat
  let n := (h.extractLsb' 40 6).toNat
  let op := (h.extractLsb' 0 2).toNat
  h.extractLsb' 2 38 == 0#38 && (n == 0 || (t == 3 && n ≤ 5)) && (h.extractLsb' 51 4).toNat < 12 &&
    (h.extractLsb' 47 4).toNat < 12 && (op == 0 || (t == 4 && op == 1)) &&
    (wordOf ws 1 == 0 || ptrField 8 (wordOf ws 1)) && packetBody ws

/-! ### The packets of a queue that have issued -/

def Queue.find (u : Queue) (id : Nat) : Option Issued := u.issued.find? fun e => e.packet.id == id

/-- A packet that has issued takes another form. -/
def Queue.setIssued (u : Queue) (id : Nat) (f : Issued → Issued) : Queue :=
  { u with issued := u.issued.map fun e => if e.packet.id == id then f e else e }

def State.setIssued (s : State) (d q id : Nat) (f : Issued → Issued) : State := s.modQueue d q (·.setIssued id f)

/-- A packet's work is done with a value: its completion comes at once. -/
def State.finishPacket (s : State) (d q id : Nat) (v : Int) : State := s.schedule s.now (.packetComplete d q id v)

/-- The packets that entered the buffers a packet lies in. -/
def Queue.ancestors (u : Queue) : Nat → Option Nat → List Nat
  | 0, _ => []
  | _ + 1, none => []
  | n + 1, some i => i :: u.ancestors n ((u.find i).bind (·.packet.parent))

/-- Every packet that BAR = 1 at this one waits for has completed: all that have issued but itself and those that entered
its buffers (R242). -/
def Queue.alone (u : Queue) (p : Packet) : Bool :=
  let up := u.ancestors u.issued.length p.parent
  u.issued.all fun e => up.contains e.packet.id || e.packet.id == p.id

/-- An entering packet completes once the issue stage has left its buffers and every packet of them has completed (R242). -/
def State.checkEntering (s : State) (d q : Nat) (id : Option Nat) : State :=
  match id with
  | none => s
  | some i =>
    let u := s.queue d q
    match u.find i with
    | some e =>
      if e.packet.enters && e.stage == 0 && !(u.stack.any fun f => f.packet == i) && !(u.look.any fun p => p.parent == some i || p.id == i) &&
          !(u.issued.any fun x => x.packet.parent == some i) then
        (s.setIssued d q i fun e => { e with stage := 1 }).finishPacket d q i 0
      else s
    | none => s

/-! ### Signals and aborts (R245, R246) -/

/-- A value to the SIG that a packet's words name, when it can be stored. -/
def State.storeSig (s : State) (d : Nat) (u : Queue) (ws : List Word) (v : Int) : State :=
  let p := wordOf ws 1
  if p == 0 || !ptrField 8 p then s else (s.poke64 (s.queueSpace d u) (u.va p) (BitVec.ofInt 64 v)).2

/-- The value to the SIG of n ring packets from number k on, as their slots hold them. -/
def State.sweep (d : Nat) (u : Queue) (v : Int) : Nat → Nat → State → State
  | 0, _, s => s
  | n + 1, k, s =>
    let (ws, s1) := s.peekPacket (s.queueSpace d u) (u.slot k)
    State.sweep d u v n (packetNext k) (match ws with
      | some ws => s1.storeSig d u ws v
      | none => s1)

/-- The unread ring packets up to a WRITE, unless it is an overrun. -/
def Queue.unread (u : Queue) (write : Nat) : Nat :=
  let n := packetCount write u.ahead
  if 2 ^ u.log2n < n then 0 else n.toNat

/-- The queue aborts (R246): ABORTED with its value, the packets that entered buffers and every packet not issued take the
value, in ring order (DEDUCED, log 49). -/
def State.abortQueue (s : State) (d q : Nat) (v : Int) : State :=
  let u := s.queue d q
  if u.state != .active && u.state != .suspended then s
  else
    let write := (s.descWord d q 2).toNat
    let entering := u.issued.filter (·.packet.enters)
    let read := u.look.filter fun p => p.parent.isNone && (u.find p.id).isNone
    let s1 := s.modQueue d q fun u => { u with
      state := .aborted, abortVal := v, look := [], stack := [], stopped := false
      issued := u.issued.filter fun e => !e.packet.enters, ahead := write, seen := write }
    let s2 := s1.putDesc d q
    let s3 := entering.foldl (fun s e => s.storeSig d u e.packet.words v) s2
    let s4 := read.foldl (fun s p => s.storeSig d u p.words v) s3
    State.sweep d u v (u.unread write) u.ahead s4

/-! ### Completion (R245, R248) -/

/-- The lines whose waiting writes a release waits for, each with the version after them. -/
def State.releaseLines (s : State) : List (Nat × Nat) :=
  (s.phys.lines.filter fun l => !l.2.waiting.isEmpty).map fun l => (l.1, l.2.version + l.2.waiting.length)

/-- The release of a packet's work starts: every write-combining buffer is sent. -/
def State.sendAll (s : State) : State :=
  s.clusters.foldl (fun s c => c.2.wcb.foldl (fun s e => s.sendWcb c.1 e.1) s) s

/-- The writes of a release have been performed, and the slices can write them into the pillars (R204). -/
def State.releaseMet (s : State) (ls : List (Nat × Nat)) : Bool :=
  ls.all (fun l => l.2 ≤ (s.line l.1).version || (s.line l.1).waiting.isEmpty) && s.phys.overlay.all fun e => s.bankIdle e.1

/-- The slices write what a release orders into the pillars (R204: part scope). -/
def State.releaseFlush (s : State) : State := s.flushIdle

/-- The release of an issued packet: started when it is not, and none while it waits (DEDUCED, log 51). -/
def State.packetRelease (s : State) (d q : Nat) (e : Issued) (stage : Nat) (started : Bool) : Option State × State :=
  let s1 := if started then s else
    let s' := s.sendAll
    s'.setIssued d q e.packet.id fun x => { x with stage := stage, waits := s'.releaseLines }
  let ls := (((s1.queue d q).find e.packet.id).map (·.waits)).getD []
  if s1.releaseMet ls then (some s1.releaseFlush, s1) else (none, s1)

/-- The conditional decrement of SIG, or the store of a negative value; false when the access fails (R241, R245). -/
def State.updateSig (s : State) (sp : Space) (sig : Option Nat) (v : Int) : Bool × State :=
  match sig with
  | none => (true, s)
  | some va =>
    if v < 0 then s.poke64 sp va (BitVec.ofInt 64 v)
    else match s.peek64 sp va with
      | (some w, s1) =>
        if (s1.physPiece sp va 8 .atomic).1.isNone then (false, s1)
        else if 0 < w.toInt then s1.poke64 sp va (w - 1) else (true, s1)
      | (none, s1) => (false, s1)

/-- The end of a packet: SIG, what hangs on it, and the abort of a negative value. -/
def State.endPacket (s : State) (d q : Nat) (e : Issued) (v : Int) : State :=
  let u := s.queue d q
  let (ok, s1) := s.updateSig (s.queueSpace d u) e.sig v
  let v := if ok then v else -5
  let s2 := s1.modQueue d q fun u => { u with issued := u.issued.filter fun x => x.packet.id != e.packet.id }
  let s3 := { s2 with launches := s2.launches.filter fun l => !(l.2.die == d && l.2.queue == q && l.2.packet == e.packet.id) }
  if v < 0 then s3.abortQueue d q v else s3.checkEntering d q e.packet.parent

/-- The write of a SIGNAL packet (R242); false when it fails. -/
def State.signalWrite (s : State) (d q : Nat) (p : Packet) : Bool × State :=
  let u := s.queue d q
  let sp := s.queueSpace d u
  let va := u.va (p.word 2)
  if (p.word 0).getLsbD 0 then s.poke64 sp va (p.word 3)
  else match s.peek64 sp va with
    | (some w, s1) => s1.poke64 sp va (w + p.word 3)
    | (none, s1) => (false, s1)

/-- The completion goes on in the next tick. -/
def State.laterPacket (s : State) (d q id : Nat) (v : Int) : State :=
  s.schedule (tickTime (s.gtc + 1)) (.packetComplete d q id v)

/-- The release before SIG, and the end. A negative value is stored as a release at part scope (R245). -/
def State.releasePacket (s : State) (d q : Nat) (e : Issued) (v : Int) : State :=
  if e.packet.rel = 0 && 0 ≤ v then s.endPacket d q e v
  else match s.packetRelease d q e 2 (e.stage == 2) with
    | (some s1, _) => s1.endPacket d q e v
    | (none, s1) => s1.laterPacket d q e.packet.id v

/-- PACKET_COMPLETE (R245): a SIGNAL performs its write first, as a release at REL (R242). -/
def execPacketComplete (die queue packet : Nat) (value : Int) (s : State) : Host.Outcome State Fault Refusal :=
  match (s.queue die queue).find packet with
  | none => .next s
  | some e =>
    if e.packet.type == 4 && e.stage < 2 && 0 ≤ value && e.packet.bad.isNone then
      let (go, s1) := if e.packet.rel = 0 then (some s, s) else s.packetRelease die queue e 1 (e.stage == 1)
      match go with
      | none => .next (s1.laterPacket die queue packet value)
      | some s2 =>
        let (ok, s3) := s2.signalWrite die queue e.packet
        .next (s3.releasePacket die queue { e with stage := 0 } (if ok then value else -5))
    else .next (s.releasePacket die queue e value)

/-! ### Look-ahead (R247, R405) -/

/-- The look-ahead has a packet to read, or a buffer to leave. -/
def Queue.lookReady (u : Queue) : Bool :=
  u.state == .active && !u.stopped && match u.stack with
    | f :: _ => f.len ≤ f.pos || u.look.length < 16
    | [] => u.look.length < 16 && 0 < packetCount u.seen u.ahead

/-- A packet enters the look-ahead, which goes on or stops there. -/
def Queue.take (u : Queue) (p : Packet) (stop : Bool) : Queue :=
  { u with look := u.look ++ [p], nextId := u.nextId + 1, stopped := stop }

/-- What the look-ahead does with a packet it has read (DEDUCED, log 50). -/
def Queue.follow (u : Queue) (p : Packet) : Queue :=
  match p.bad with
  | some _ => u.take p true
  | none => match p.type, u.stack with
    | 5, fs =>
      if 8 ≤ fs.length then u.take { p with bad := some (-2) } true
      else { u.take p false with stack := ⟨p.id, u.va (p.word 2), 0, (p.word 3).toNat, 0, false⟩ :: fs }
    | 6, [] => u.take { p with bad := some (-2) } true
    | 6, f :: fs => { u.take p false with stack := if f.loop then { f with pos := f.len } :: fs else fs }
    | 7, _ => u.take p true
    | 8, _ => u.take p true
    | 9, _ => u.take p true
    | _, _ => u.take p false

/-- LOOKAHEAD_READ: the next packet of the ring or of the buffer being read. At the end of a buffer the stack is popped; at
the end of a body the LOOP comes again. -/
def execLookaheadRead (die queue : Nat) (s : State) : Host.Outcome State Fault Refusal :=
  let u := s.queue die queue
  let read (va : Nat) (parent : Option Nat) (v : Queue) : Host.Outcome State Fault Refusal :=
    let (ws, s1) := s.peekPacket (s.queueSpace die u) va
    let p : Packet := match ws with
      | some ws => ⟨u.nextId, ws, parent, if packetOk ws then none else some (-2)⟩
      | none => ⟨u.nextId, [], parent, some (-5)⟩
    .next (s1.modQueue die queue fun _ => v.follow p)
  if !u.lookReady then .next s
  else match u.stack with
    | [] => read (u.slot u.ahead) none { u with ahead := packetNext u.ahead }
    | f :: fs =>
      if f.pos < f.len then read (f.buf + 64 * f.pos) (some f.packet) { u with stack := { f with pos := f.pos + 1 } :: fs }
      else if f.loop then
        .next (s.modQueue die queue fun u => { u with
          stopped := true, look := u.look ++ ((u.find f.packet).map (·.packet)).toList })
      else .next ((s.modQueue die queue fun u => { u with stack := fs }).checkEntering die queue (some f.packet))

/-! ### Issue (R247) -/

/-- WRITE covers a packet (R239): it passes the number of a ring packet; for one of a buffer, or for a LOOP that comes again, whose ring
packet READ has counted, it has not fallen below READ (DEDUCED, log 50). -/
def Queue.covered (u : Queue) (p : Packet) : Bool :=
  let n := packetCount u.seen u.read
  if p.parent.isNone && (u.find p.id).isNone then 0 < n else 0 ≤ n

/-- The head packet can issue. -/
def Queue.canIssue (u : Queue) : Bool :=
  u.state == .active && match u.look with
    | p :: _ => u.covered p && (!p.bar || u.alone p)
    | [] => false

/-- The queue that a front end serves: the lowest PRIO among those whose head can issue, then round-robin in queue order. -/
def FrontEnd.serves (e : FrontEnd) : Option Nat :=
  let ready := e.queues.filter fun q => q.2.canIssue
  match ready with
  | [] => none
  | (_, _) :: _ =>
    let p := ready.foldl (fun m q => Nat.min m q.2.prio) 8
    let mine := (ready.filter fun q => q.2.prio == p).map (·.1)
    let last := (tget e.lastQueue p).getD 255
    (mine.find? fun q => last < q).or mine.head?

/-- The step that issues a packet. A packet of no type is issued as a NOP, and completes with its value. -/
def packetInstr (d q : Nat) (p : Packet) : Instr :=
  match p.type with
  | 1 => .launch d q
  | 2 => .copy d q
  | 3 => .barrier d q
  | 4 => .signal d q
  | 5 => .callPacket d q
  | 6 => .returnPacket d q
  | 7 => .join d q
  | 8 => .cond d q
  | 9 => .loop d q
  | 10 => .timestamp d q
  | _ => .nopPacket d q

/-- A front end has packets to read or to issue. -/
def State.feBusy (s : State) (d : Nat) : Bool :=
  !(s.fe d).lost && (s.fe d).queues.any fun q => q.2.lookReady || q.2.canIssue

/-- What a front end does next in a cycle. -/
def State.feEvent (s : State) (d : Nat) : Option Instr :=
  let e := s.fe d
  if e.lost then none
  else match e.queues.find? fun q => q.2.lookReady with
    | some (q, _) => some (.lookaheadRead d q)
    | none =>
      if s.now < e.nextIssue then none
      else e.serves.bind fun q => (s.queue d q).look.head?.map (packetInstr d q)

/-- The head packet of a queue issues: READ counts it, and the next packet of the front end issues 8 ticks later at the
earliest. The answer is the packet. -/
def State.issueHead (s : State) (d q : Nat) : Option (Packet × State) :=
  let u := s.queue d q
  match u.look with
  | [] => none
  | p :: r =>
    let again := (u.find p.id).isSome
    let sig := if p.word 1 == 0 || !ptrField 8 (p.word 1) then none else some (u.va (p.word 1))
    let s1 := s.modQueue d q fun u => { u with
      look := r
      issued := if again then u.issued else u.issued ++ [⟨p, sig, [], 0⟩]
      read := if again || p.parent.isSome then u.read else packetNext u.read }
    let s2 := s1.modFe d fun e => { e with nextIssue := s.now + tickTime 8, lastQueue := tset e.lastQueue u.prio q }
    some (p, if again || p.parent.isSome then s2 else s2.putDesc d q)

/-- A pointer of a packet translates for an access. -/
def State.reaches (s : State) (sp : Space) (va : Nat) (kind : AccessKind) : Bool × State :=
  let (p, s') := s.physPiece sp va 8 kind
  (p.isSome, s')

/-- Whether every address translates. -/
def State.reachAll (s : State) (sp : Space) (l : List (Nat × AccessKind)) : Bool × State :=
  l.foldl (fun (acc : Bool × State) a =>
    let (ok, s') := acc.2.reaches sp a.1 a.2
    (acc.1 && ok, s')) (true, s)

/-- A packet issues: a malformed one completes with its value, one with a pointer that fails with −5, and a SIG that fails
receives nothing (R241); the others start their work. -/
def issuePacket (d q : Nat) (ptrs : Packet → List (Word × AccessKind)) (work : Packet → State → State) (s : State) :
    Host.Outcome State Fault Refusal :=
  if !(s.queue d q).canIssue then .next s
  else match s.issueHead d q with
  | none => .next s
  | some (p, s1) =>
    let u := s1.queue d q
    let sp := s1.queueSpace d u
    let sig := ((u.find p.id).bind (·.sig)).toList.map fun va => (va, AccessKind.atomic)
    let (sigOk, s2) := s1.reachAll sp sig
    let s3 := if sigOk then s2 else s2.setIssued d q p.id fun e => { e with sig := none }
    match p.bad with
    | some v => .next (s3.finishPacket d q p.id v)
    | none =>
      let (ok, s4) := s3.reachAll sp ((ptrs p).map fun a => (u.va a.1, a.2))
      .next (if sigOk && ok then work p s4 else s4.finishPacket d q p.id (-5))

/-- NOP (R242). -/
def execNopPacket (die queue : Nat) (s : State) : Host.Outcome State Fault Refusal :=
  issuePacket die queue (fun _ => []) (fun p s => s.finishPacket die queue p.id 0) s

/-- RETURN completes at issue (R242). -/
def execReturnPacket (die queue : Nat) (s : State) : Host.Outcome State Fault Refusal :=
  issuePacket die queue (fun _ => []) (fun p s => s.finishPacket die queue p.id 0) s

/-- JOIN: the look-ahead goes on behind it (R247). -/
def execJoin (die queue : Nat) (s : State) : Host.Outcome State Fault Refusal :=
  issuePacket die queue (fun _ => []) (fun p s =>
    (s.modQueue die queue fun u => { u with stopped := false }).finishPacket die queue p.id 0) s

/-- CALL: its buffer is being read; it completes when the issue stage has left it (R242). -/
def execCallPacket (die queue : Nat) (s : State) : Host.Outcome State Fault Refusal :=
  issuePacket die queue (fun p => [(p.word 2, .load)]) (fun p s => s.checkEntering die queue (some p.id)) s

/-- TIMESTAMP (R242). -/
def execTimestamp (die queue : Nat) (s : State) : Host.Outcome State Fault Refusal :=
  issuePacket die queue (fun p => [(p.word 2, .store)]) (fun p s =>
    let u := s.queue die queue
    let (ok, s1) := s.poke64 (s.queueSpace die u) (u.va (p.word 2)) (word64 s.gtc)
    s1.finishPacket die queue p.id (if ok then 0 else -5)) s

/-- SIGNAL (R242): its write is part of its completion. -/
def execSignal (die queue : Nat) (s : State) : Host.Outcome State Fault Refusal :=
  issuePacket die queue (fun p => [(p.word 2, if (p.word 0).getLsbD 0 then .store else .atomic)])
    (fun p s => s.finishPacket die queue p.id 0) s

/-- The look-ahead enters a buffer; a ninth entry of the stack makes the packet malformed (R247). -/
def State.enterBuffer (s : State) (d q : Nat) (p : Packet) (buf : Word) (len : Nat) (isLoop : Bool) : State :=
  let u := s.queue d q
  if 8 ≤ u.stack.length then s.finishPacket d q p.id (-2)
  else s.modQueue d q fun u => { u with stopped := false, stack := ⟨p.id, u.va buf, 0, len, 1, isLoop⟩ :: u.stack }

/-- The predicate of a COND or LOOP, read after its acquire. -/
def State.predicate (s : State) (d q : Nat) (p : Packet) : Option Bool × State :=
  let u := s.queue d q
  let (w, s1) := s.peek64 (s.queueSpace d u) (u.va (p.word 2))
  (w.map (· != 0), s1)

/-- COND (R242). -/
def execCond (die queue : Nat) (s : State) : Host.Outcome State Fault Refusal :=
  issuePacket die queue (fun p => [(p.word 2, .load), (p.word 3, .load), (p.word 5, .load)]) (fun p s =>
    match s.predicate die queue p with
    | (none, s1) => s1.finishPacket die queue p.id (-5)
    | (some b, s1) =>
      let (buf, len) := if b then (p.word 3, (p.word 4).toNat) else (p.word 5, (p.word 6).toNat)
      if len = 0 then (s1.modQueue die queue fun u => { u with stopped := false }).finishPacket die queue p.id 0
      else s1.enterBuffer die queue p buf len false) s

/-- LOOP (R247): another iteration while the predicate is nonzero and fewer than max are done, otherwise it completes. -/
def execLoop (die queue : Nat) (s : State) : Host.Outcome State Fault Refusal :=
  issuePacket die queue (fun p => [(p.word 2, .load), (p.word 3, .load)]) (fun p s =>
    match s.predicate die queue p with
    | (none, s1) => s1.finishPacket die queue p.id (-5)
    | (some b, s1) =>
      let max := (p.word 5).toNat
      match (s1.queue die queue).stack with
      | f :: fs =>
        if f.loop && f.packet == p.id then
          if b && (max == 0 || f.count < max) then
            s1.modQueue die queue fun u => { u with stopped := false, stack := { f with pos := 0, count := f.count + 1 } :: fs }
          else (s1.modQueue die queue fun u => { u with stopped := false, stack := fs }).finishPacket die queue p.id 0
        else if b then s1.enterBuffer die queue p (p.word 3) (p.word 4).toNat true
        else (s1.modQueue die queue fun u => { u with stopped := false }).finishPacket die queue p.id 0
      | [] =>
        if b then s1.enterBuffer die queue p (p.word 3) (p.word 4).toNat true
        else (s1.modQueue die queue fun u => { u with stopped := false }).finishPacket die queue p.id 0) s

/-! ### BARRIER (R244) -/

/-- BARRIER: its wait list is read at once, and again until every entry is satisfied. -/
def execBarrier (die queue : Nat) (s : State) : Host.Outcome State Fault Refusal :=
  let list (p : Packet) : List (Nat × Word) := (List.range p.nwait).map fun i => (i, p.word (2 + i))
  issuePacket die queue (fun p => (list p).map fun e => (e.2, .load)) (fun p s =>
    let u := s.queue die queue
    (s.setIssued die queue p.id fun e => { e with waits := (list p).map fun w => (w.1, u.va w.2) }).schedule s.now
      (.barrierReread die queue p.id)) s

/-- What a reading of a wait list finds: the entries still unsatisfied, the first negative value, whether a read failed. -/
structure WaitRead where
  left : List (Nat × Nat) := []
  neg : Option Int := none
  failed : Bool := false
deriving DecidableEq, Repr

/-- One reading of the unsatisfied entries of a BARRIER. -/
def State.readWaits (s : State) (sp : Space) (aon : Bool) (l : List (Nat × Nat)) : WaitRead × State :=
  l.foldl (fun (acc : WaitRead × State) e =>
    match acc.2.peek64 sp e.2 with
    | (none, s') => ({ acc.1 with failed := true }, s')
    | (some w, s') =>
      let v := w.toInt
      if v = 0 || (v < 0 && !aon) then (acc.1, s')
      else if v < 0 then ({ acc.1 with neg := acc.1.neg.or (some v), left := acc.1.left ++ [e] }, s')
      else ({ acc.1 with left := acc.1.left ++ [e] }, s')) (({} : WaitRead), s)

/-- BARRIER_REREAD. A BARRIER of a SUSPENDED queue waits again after RESUME (R253). How soon it is read again is free
(DESIGN CHOICE, log 4). -/
def execBarrierReread (die queue packet : Nat) (s : State) : Host.Outcome State Fault Refusal :=
  let u := s.queue die queue
  match u.find packet with
  | none => .next s
  | some e =>
    if e.packet.type != 3 || e.stage != 0 then .next s
    else if u.state == .suspended then .next (s.message (.barrierReread die queue packet))
    else
      let (r, s1) := s.readWaits (s.queueSpace die u) e.packet.aon e.waits
      .next (match r.failed, r.neg, r.left with
        | true, _, _ => s1.finishPacket die queue packet (-5)
        | false, some v, _ => s1.finishPacket die queue packet v
        | false, none, [] => s1.finishPacket die queue packet 0
        | false, none, l =>
          (s1.setIssued die queue packet fun e => { e with waits := l }).message (.barrierReread die queue packet))

/-! ### COPY (R242) -/

/-- COPY: the die's copy engine takes it; how long it runs is free (DESIGN CHOICE, log 10). -/
def execCopy (die queue : Nat) (s : State) : Host.Outcome State Fault Refusal :=
  issuePacket die queue (fun p => [(p.word 2, .load), (p.word 3, .store)]) (fun p s =>
    let u := s.queue die queue
    let e := s.fe die
    let len := (p.word 4).toNat
    let (n, s1) := s.draw1
    (s1.modFe die fun f => { f with
      nextJob := f.nextJob + 1
      jobs := f.jobs ++ [⟨e.nextJob, queue, p.id, u.va (p.word 2), u.va (p.word 3), len, u.asid⟩] }).schedule
      (s1.after (1 + len / 64 + n)) (.copyComplete die e.nextJob)) s

/-- A run of bytes at a translated place; those of the host window or of an uncorrectable line are free (DESIGN CHOICE, log 4). -/
def State.readRun (s : State) (p : PPiece) (n : Nat) : List Byte × State :=
  if regionOf p.pa == .host || s.uncorrectable p.pa then let (v, s1) := s.draw1; (natToBytes n v, s1)
  else ((List.range n).map fun i => s.lastByteAt p.key (p.pa + i), s)

/-- A run of bytes within one line to a translated place. -/
def State.writeRun (s : State) (p : PPiece) (bs : List Byte) (owner : Nat × Nat × Nat) : State :=
  match regionOf p.pa with
  | .host => s.modHost fun h => { h with writes := h.writes ++ bytesAt p.pa bs }
  | _ => s.homeArrive (p.pa / 128) { bytes := bytesAt p.pa bs, key := p.key, owners := [owner] }

/-- The copy, as if byte by byte in ascending order: runs that stay within one line at both ends and do not reach the bytes
they themselves write. False when an access fails; what was copied before stands. -/
def copyBytes (sp : Space) (owner : Nat × Nat × Nat) : Nat → Nat → Nat → Nat → State → Bool × State
  | 0, _, _, _, s => (true, s)
  | fuel + 1, src, dst, len, s =>
    if len = 0 then (true, s)
    else match s.physPiece sp src 1 .load with
      | (none, s1) => (false, s1)
      | (some a, s1) => match s1.physPiece sp dst 1 .store with
        | (none, s2) => (false, s2)
        | (some b, s2) =>
          let n := Nat.min len (Nat.min (128 - src % 128) (128 - dst % 128))
          let n := if a.pa < b.pa && b.pa < a.pa + n then b.pa - a.pa else n
          let (bs, s3) := s2.readRun a n
          copyBytes sp owner fuel (src + n) (dst + n) (len - n) (s3.writeRun b bs owner)

/-- COPY_COMPLETE: the bytes are in place, and the packet completes. -/
def execCopyComplete (die job : Nat) (s : State) : Host.Outcome State Fault Refusal :=
  match (s.fe die).jobs.find? fun j => j.id == job with
  | none => .next s
  | some j =>
    let sp := s.queueSpace die { asid := j.asid }
    let (ok, s1) := copyBytes sp (1024 + die, j.queue, j.packet) j.len j.src j.dst j.len s
    .next ((s1.modFe die fun f => { f with jobs := f.jobs.filter fun k => k.id != job }).finishPacket die j.queue j.packet
      (if ok then 0 else -5))

/-! ### WRITE (R239, R275) -/

/-- The front end looks at WRITE again within 2,000 ticks (R239); when is free (DESIGN CHOICE, log 4). -/
def State.pollWrite (s : State) (d q : Nat) : State :=
  let due (e : Nat × Instr) : Bool := e.2 == .queueWriteObserved d q
  if s.agenda.any due then s
  else let (n, s1) := s.draw1; s1.schedule (s1.now + tickTime (1 + n % 2000)) (.queueWriteObserved d q)

/-- QUEUE_WRITE_OBSERVED (R239, R253): an ACTIVE queue with more than its ring's packets is ABORTED with −2 and no SIG; the
new packets of an ABORTED queue take its value. -/
def execQueueWriteObserved (die queue : Nat) (s : State) : Host.Outcome State Fault Refusal :=
  let u := s.queue die queue
  let w := (s.descWord die queue 2).toNat
  match u.state with
  | .disabled => .next s
  | .suspended => .next ((s.modQueue die queue fun u => { u with seen := w }).pollWrite die queue)
  | .aborted =>
    let s1 := s.modQueue die queue fun u => { u with ahead := w, seen := w }
    .next ((State.sweep die u u.abortVal (u.unread w) u.ahead s1).pollWrite die queue)
  | .active =>
    if 2 ^ u.log2n < packetCount w u.read then
      .next (((s.modQueue die queue fun u => { u with
        state := .aborted, abortVal := -2, look := [], stack := [], stopped := false
        issued := u.issued.filter fun e => !e.packet.enters, ahead := w, seen := w }).putDesc die queue).pollWrite die queue)
    else .next ((s.modQueue die queue fun u => { u with seen := w }).pollWrite die queue)

/-- DOORBELL_WRITE (R239, R275): a 32-bit write of a queue number makes the front end look within 500 ticks. -/
def execDoorbellWrite (die bytes : Nat) (value : W32) (s : State) : Host.Outcome State Fault Refusal :=
  if bytes = 4 && value.toNat < 256 && die < 4 && s.phase == .running then
    let (n, s1) := s.draw1
    .next (s1.schedule (s1.now + tickTime (1 + n % 500)) (.queueWriteObserved die value.toNat))
  else .next s

/-! ### Commands (R238) -/

/-- A command of FEQCMD ends: BUSY is clear. -/
def State.endCommand (s : State) (d : Nat) : State :=
  s.modFe d fun e => { e with cmd := e.cmd &&& 0xFFFF#64 }

/-- The fields of a descriptor that ENABLE checks: the zero fields, LOG2N, and the alignment of the ring. -/
def descOk (ws : List Word) : Bool :=
  let w (i : Nat) : Word := wordOf ws i
  let n := ((w 0).extractLsb' 0 6).toNat
  let ring := ((w 0).extractLsb' 6 54).toNat * 64
  let base (b : Word) : Bool := b.extractLsb' 60 4 == 0#4 && b.extractLsb' 0 8 == 0#8
  (w 0).extractLsb' 60 4 == 0#4 && 4 ≤ n && n ≤ 20 && ring % (64 * 2 ^ n) == 0 &&
    (w 1).extractLsb' 48 16 == 0#16 && (w 1).extractLsb' 3 33 == 0#33 && (w 4).extractLsb' 2 62 == 0#62 && base (w 6) && base (w 7)

/-- The queue that a descriptor describes, issuing from READ. What it has issued before runs on. -/
def Queue.ofDesc (u : Queue) (ws : List Word) : Queue :=
  let w (i : Nat) : Word := wordOf ws i
  let r := (w 3).toNat
  { u with
    state := .active, abortVal := 0, ring := ((w 0).extractLsb' 6 54).toNat * 64, log2n := ((w 0).extractLsb' 0 6).toNat
    asid := ((w 1).extractLsb' 36 12).toNat, prio := ((w 1).extractLsb' 0 3).toNat, gbase := (w 6).toNat, qbase := (w 7).toNat
    read := r, seen := r, ahead := r, look := [], stack := [], stopped := false }

/-- ENABLE (DEDUCED, log 52). -/
def execEnable (die queue : Nat) (s : State) : Host.Outcome State Fault Refusal :=
  let s := s.endCommand die
  let u := s.queue die queue
  let ws := (List.range 8).map fun i => s.descWord die queue i
  if u.state == .disabled && descOk ws then
    .next (((s.modQueue die queue (·.ofDesc ws)).putDesc die queue).schedule s.now (.queueWriteObserved die queue))
  else .next s

/-- DISABLE: no further packet issues, those that have issued run on; a packet that entered a buffer completes with the packets of it
that have issued (DEDUCED, log 30). -/
def execDisable (die queue : Nat) (s : State) : Host.Outcome State Fault Refusal :=
  let s := s.endCommand die
  if (s.queue die queue).state == .disabled then .next s
  else
    let s1 := (s.modQueue die queue fun u => { u with state := .disabled, look := [], stack := [], stopped := false }).putDesc die queue
    .next (((s.queue die queue).issued.filter (·.packet.enters)).foldl (fun s e => s.checkEntering die queue (some e.packet.id)) s1)

/-- RESET: READ := WRITE, ABORTVAL := 0. Packets written before it take the abort's value first (R246). -/
def execReset (die queue : Nat) (s : State) : Host.Outcome State Fault Refusal :=
  let s := s.endCommand die
  let u := s.queue die queue
  if u.state == .aborted then
    let w := (s.descWord die queue 2).toNat
    let s1 := State.sweep die u u.abortVal (u.unread w) u.ahead s
    .next (((s1.modQueue die queue fun u => { u with
      state := .active, abortVal := 0, read := w, seen := w, ahead := w, look := [], stack := [], stopped := false }).putDesc
        die queue).pollWrite die queue)
  else .next s

/-- An ACTIVE queue stops at the next packet boundary. -/
def State.suspendQueue (s : State) (d q : Nat) : State :=
  if (s.queue d q).state == .active then (s.modQueue d q fun u => { u with state := .suspended }).putDesc d q else s

/-- SUSPEND. -/
def execSuspend (die queue : Nat) (s : State) : Host.Outcome State Fault Refusal :=
  .next ((s.endCommand die).suspendQueue die queue)

/-- A SUSPENDED queue goes on, and its BARRIERs wait again (R253). -/
def State.resumeQueue (s : State) (d q : Nat) : State :=
  let u := s.queue d q
  if u.state == .suspended then
    let s1 := ((s.modQueue d q fun u => { u with state := .active }).putDesc d q).schedule s.now (.queueWriteObserved d q)
    let waiting := u.issued.filter fun e => e.packet.type == 3 && e.stage == 0 && e.packet.bad.isNone
    let due (id : Nat) : Bool := s1.agenda.any fun e => e.2 == .barrierReread d q id
    waiting.foldl (fun s e => if due e.packet.id then s else s.schedule s.now (.barrierReread d q e.packet.id)) s1
  else s

/-- RESUME. -/
def execResume (die queue : Nat) (s : State) : Host.Outcome State Fault Refusal :=
  .next ((s.endCommand die).resumeQueue die queue)

end Sys2Proof.Machine
end

