-- ==== Sys2Proof/Machine/Sched.lean ====
section
/-! DEFINITION. Which event comes next (DESIGN CHOICE, log 1): entries of the agenda that are due, then each busy core and front end in
its turn of the cycle, then the passage of time. Selection of contexts (R36-R40) and the stall counters (R140). -/

namespace Sys2Proof.Machine

/-! ### Events of a core -/

/-- The contexts of a core that act: user contexts with a workgroup, and the firmware slot. -/
def Core.acting (c : Core) : List Nat := (c.ctxs.filter fun e => e.2.state == .active).map (·.1)

/-- A bin whose draw a migration holds back: its PC is a safe point and no thread is parked (R270). -/
def State.heldBin (s : State) (k : Nat) (c : Ctx) (b : Bin) : Bool :=
  c.migrate.isSome && !c.anyParked && ((s.groupAt k b.key.pc).map fun g => g.1.any fun b => b.2.hdr.q).getD false

/-- The draw that context x may make (R33). The firmware slot has no ages: it draws its first bin. -/
def State.canDraw (s : State) (k x : Nat) : Bool :=
  let c := s.ctx k x
  let c' := { c with bins := c.bins.filter fun e => !s.heldBin k c e.2 }
  c.group.isNone && !c.drew && !c.second && !c.stopping &&
    (if x == 4 then c'.bins.any (fun e => e.2.since ≤ s.now) else (c'.drawable s.now).isSome)

/-- The first bin that reaches its age (R31, R32). -/
def Ctx.agingBin (now : Nat) (c : Ctx) : Option Nat :=
  (c.bins.find? fun e => e.2.state == .part && e.2.since + cycleLen * c.regs.binage ≤ now).map (·.1)

/-- The oldest register claim fits the pool (R137). -/
def State.claimFits (s : State) (k : Nat) : Bool :=
  match (s.core k).claims with
  | c :: _ => c.n * c.live ≤ s.poolFree k
  | [] => false

/-- The slots and tiles of a set are free: nobody holds them and no clearing runs (R186, R187). -/
def Mtx.free (m : Mtx) (set : OsSet) : Bool :=
  set.slots.all (fun n => (tget m.slotOwner n).isNone && (tget m.clearSlots n).isNone) &&
    set.tiles.all (fun n => (tget m.tileOwner n).isNone && (tget m.clearTiles n).isNone)

def Mtx.claimReady (m : Mtx) : Bool :=
  match m.osClaims with
  | c :: _ => m.free c.set
  | [] => false

/-- The event of a context that comes next, selection apart. -/
def State.ctxEvent (s : State) (k x : Nat) : Option Instr :=
  let c := s.ctx k x
  let owed := !c.late.isEmpty && !c.answersDue && ((c.group.bind (·.delay)).isNone || c.stopping)
  if owed || c.inflight.any (fun l => l.ready s.now) then some (.resultLanding k x)
  else if (c.fence.map fun f => s.fenceReady k x f).getD false then some (.fenceComplete k x)
  else match (if x == 4 then none else c.agingBin s.now) with
    | some b => some (.binAged k x b)
    | none => if s.canDraw k x then some (.draw k x) else none

/-- Why a context cannot issue in this cycle, none when it could, and the state in which it has entered its wait (R36, R37). -/
def look (ex : Instr → State → Answer) (k x : Nat) (s : State) : Option Stall × State :=
  let c := s.ctx k x
  match c.group with
  | none => (some .binAge, s)
  | some g =>
    if c.drew then (some .binAge, s)
    else match s.waitCause k x g with
      | some e => (some e, s)
      | none => match attempt ex k x s with
        | .waits e h => (some e, h.modCtx k x fun c => { c with hold := some e })
        | _ => (none, s)

/-- The READY and RUNNING contexts among the given ones, the others having entered their waits. -/
def lookAll (ex : Instr → State → Answer) (k : Nat) : List Nat → State → List Nat × State
  | [], s => ([], s)
  | x :: r, s => match look ex k x s with
    | (some _, s1) => lookAll ex k r s1
    | (none, s1) => let (l, s2) := lookAll ex k r s1; (x :: l, s2)

/-- The user contexts of a core that host a workgroup. -/
def Core.users (c : Core) : List Nat := c.acting.filter (· != 4)

/-- The priority of a context at a selection (R39). -/
def State.prioAt (s : State) (k x : Nat) : Nat :=
  if (s.core k).sel.boosted.contains x then 0 else (s.ctx k x).regs.prio

/-- The selector's choice among READY contexts: lowest PRIO, then round-robin after the last served of it (R38). -/
def State.choose (s : State) (k : Nat) (ready : List Nat) : Option Nat :=
  match ready with
  | [] => none
  | _ :: _ =>
    let p := ready.foldl (fun m x => Nat.min m (s.prioAt k x)) 8
    let cands := ready.filter fun x => s.prioAt k x == p
    let last := tgetD (s.core k).sel.lastServed p 3
    (List.range 4).map (fun i => (last + 1 + i) % 4) |>.find? cands.contains

/-- The context that issues: the holder goes on unless it waits, has yielded, or one of higher priority is READY (R38). A holder
that waits has given issue up. -/
def State.candidate (s : State) (k : Nat) (ready : List Nat) : Option Nat :=
  match (s.core k).sel.holder with
  | some h =>
    if ready.contains h && !(s.ctx k h).yields && !(ready.any fun x => s.prioAt k x < s.prioAt k h) then some h
    else
      let others := ready.filter fun x => !((s.ctx k h).yields && x == h && ready.any fun y => y != h && s.prioAt k y ≤ s.prioAt k h)
      s.choose k others
  | none => s.choose k ready

/-- A context that holds issue and waits gives it up: its quantum starts again when it takes issue (R38, R39). -/
def State.release (s : State) (k : Nat) (ready : List Nat) : State :=
  match (s.core k).sel.holder with
  | some h => if ready.contains h then s else s.modCore k fun c => { c with sel := { c.sel with holder := none, held := 0 } }
  | none => s

/-- Context x takes issue (R38, R39). -/
def State.serve (s : State) (k x : Nat) : State :=
  let p := s.prioAt k x
  let was := (s.core k).sel.holder == some x && !(s.ctx k x).yields
  let s := s.modCtx k x fun c => { c with yields := false }
  if was then s
  else s.modCore k fun c => { c with sel := { c.sel with
    holder := some x
    held := 0
    lastServed := tset c.sel.lastServed p x
    unserved := tdel c.sel.unserved x
    boosted := c.sel.boosted.filter (· != x) } }

/-- The events of a core that come before its issue in a cycle. -/
def coreEvent (ex : Instr → State → Answer) (k : Nat) (s : State) : Option Instr :=
  let c := s.core k
  match c.acting.findSome? fun x => s.ctxEvent k x with
  | some i => some i
  | none =>
    if s.claimFits k then some (.regclmGrant k)
    else if c.mtx.claimReady then some (.osclaimGrant k)
    else if 64 ≤ c.sel.fwWait && !c.sel.fwSteal then some (.firmwareCtlSteal k)
    else if 4096 ≤ c.sel.held then some (.quantumExpiry k)
    else
      (c.sel.unserved.find? fun e => 65536 ≤ e.2 && !c.sel.boosted.contains e.1 && (look ex k e.1 s).1.isNone).map
        fun e => .priorityBoost k e.1

/-! ### The end of a core's cycle -/

/-- What a context without an issue group counts (R140). -/
def Ctx.idleCause (c : Ctx) : Stall :=
  if c.drew then .binAge
  else if c.threads.any (fun e => match e.2.place with
    | .barrier _ | .tnest => true
    | _ => false) then .barWait
  else if c.threads.any (fun e => e.2.place == .regclm) then .regclaimWait
  else .binAge

/-- What a user context that has not the cycle counts (R36, R140). -/
def State.idleCount (s : State) (k x : Nat) (ready : List Nat) : Stall :=
  let c := s.ctx k x
  match c.group with
  | none => c.idleCause
  | some g => if c.drew then c.idleCause else if ready.contains x then .switchedOut else ((s.waitCause k x g).or c.hold).getD .switchedOut

/-- A context whose cycle ends in a stall for code asks for it (R252). -/
def State.askCode (s : State) (k x : Nat) : State :=
  match (s.ctx k x).group with
  | some g => if g.pc.tr = 0 || s.codeHere k x g.pc then s else s.fetchCode k x g.pc
  | none => s

/-- The end of a core's cycle: each user context adds 1 to one counter (R140), `own` being the context that had the cycle with what
it counts, and the counts of the selector go on (R38, R39). -/
def countCycle (k : Nat) (ready : List Nat) (own : Option (Nat × Stall)) (s : State) : State :=
  let users := (s.core k).users
  let s := users.foldl (fun (s : State) x =>
    let cause : Stall := match own with
      | some (y, st) => if y == x then st else s.idleCount k x ready
      | none => s.idleCount k x ready
    (s.askCode k x).modCtx k x fun c => { c.count cause with drew := false }) s
  let s := (s.askCode k 4).modCtx k 4 fun c => if c.drew then { c with drew := false } else c
  s.modCore k fun c => { c with sel := { c.sel with
    held := match own, c.sel.holder with
      | some (x, _), some h => if x == h then c.sel.held + 1 else c.sel.held
      | _, _ => c.sel.held
    unserved := users.foldl (fun u x => if (own.map (·.1)) != some x then tmod u x 0 (· + 1) else u) c.sel.unserved } }

/-- The firmware slot has work (R40). -/
def State.fwWork (s : State) (k : Nat) : Bool :=
  let c := s.ctx k 4
  match c.group with
  | some g => !c.drew && (s.waitCause k 4 g).isNone
  | none => false

/-- The slots that the group of a context uses. -/
def State.slotsOf (s : State) (k x : Nat) : BitVec 8 :=
  match (s.ctx k x).group with
  | some g => match s.groupAt k g.pc with
    | some (bs, _) => bs.foldl (fun m b => m ||| b.2.hdr.p) 0#8
    | none => 0#8
  | none => 0#8

/-- The firmware slot may issue beside a bundle that uses the given slots: CTL alone (R40). A firmware group that uses other slots too
issues in a cycle in which no user context issues (DEDUCED, log 78). -/
def State.fwBeside (s : State) (k : Nat) (user : BitVec 8) : Bool := !user.getLsbD 7 && s.slotsOf k 4 &&& 0x7F#8 == 0#8

/-- The core's place in the turn passes, to its firmware slot when that may issue: `user` gives the slots of the user bundle that
issued in the cycle, if any. -/
def State.passTurn (s : State) (k : Nat) (user : Option (BitVec 8)) : State :=
  let rest := s.turn.drop 1
  if s.fwWork k then
    if user.all (s.fwBeside k) then { s with turn := .firmware k :: rest }
    else { s.modCore k fun c => { c with sel := { c.sel with fwWait := c.sel.fwWait + 1 } } with turn := rest }
  else { s with turn := rest }

/-- The context of a core that is in the second cycle of its bundle (R34). -/
def Core.secondOf (c : Core) : Option Nat := (c.users.filter fun x => (c.ctx x).second).head?

/-- The user context of a core whose workgroup finishes now (R28). -/
def State.finishing (s : State) (k : Nat) : Option Nat :=
  (s.core k).users.find? fun x => (s.ctx k x).finishAt.any fun t => t ≤ s.now

/-- The turn of a core in a cycle: a workgroup that finishes, the events that are due, the second cycle of a bundle, then issue. -/
def coreTurn (ex : Instr → State → Answer) (k : Nat) (s : State) : Answer :=
  match s.finishing k with
  | some x => .next ((s.finishWg k x).deadlockCheck k)
  | none => match coreEvent ex k s with
    | some i => ex i s
    | none =>
      let (ready, s) := lookAll ex k ((s.core k).users.filter fun x => !(s.ctx k x).second) s
      match (s.core k).secondOf with
      | some x => .next (((countCycle k ready (some (x, .issued)) (s.modCtx k x fun c => { c with second := false })).passTurn k (some 0#8)))
      | none =>
        let s := s.release k ready
        match s.candidate k ready with
        | none => .next ((countCycle k ready none s).passTurn k none)
        | some x =>
          let s := s.serve k x
          let user := s.slotsOf k x
          if (s.core k).sel.fwSteal && s.fwWork k && !s.fwBeside k user then
            .next ((countCycle k ready (some (x, .switchedOut)) s).passTurn k none)
          else match attempt ex k x s with
            | .waits _ h => .next h
            | .filed h => .next h
            | .delayed e h => .next ((countCycle k ready (some (x, e)) h).passTurn k none)
            | .issues r => r.andThen fun s' => .next ((countCycle k ready (some (x, .issued)) s').passTurn k (some user))

/-- The turn of a firmware slot (R40). -/
def firmwareTurn (ex : Instr → State → Answer) (k : Nat) (s : State) : Answer :=
  let pop (s : State) (waited : Bool) : State :=
    { s.modCore k fun c => { c with sel := { c.sel with
        fwWait := if waited then c.sel.fwWait + 1 else 0
        fwSteal := waited && c.sel.fwSteal } } with turn := s.turn.drop 1 }
  match attempt ex k 4 s with
  | .waits _ h => .next (pop h false)
  | .filed h => .next (pop h false)
  | .delayed _ h => .next (pop h false)
  | .issues r => r.andThen fun s' => .next (pop s' false)

/-! ### Time -/

/-- The agents with something to do in a cycle. -/
def State.agents (s : State) : List Agent :=
  (s.cores.filter fun e => !e.2.acting.isEmpty).map (fun e => .core e.1) ++
    (s.fes.filter fun e => s.feBusy e.1).map (fun e => .frontEnd e.1)

/-- Agents that have come to have something to do in the present cycle get their turn in it too (R33). -/
def State.late (s : State) : List Agent := s.agents.filter fun a => !s.joined.contains a

/-- An uncorrectable soft error: the element of a thread, or the line of a present pillar, bears a mark from now on, which a read
finds and a write clears (R135, R254). An error of a thread that is not there strikes nothing (DESIGN CHOICE, log 87). -/
def State.strike (s : State) (e : SoftError) : State :=
  match e with
  | .element k x t n =>
    if (s.ctx k x).threads.any (fun h => h.1 == t) && decide (n < 255) then
      s.modThread k x t fun th => { th with poisoned := nodup (n :: th.poisoned) }
    else s
  | .line l =>
    match regionOf (128 * l) with
    | .pillar k => if s.presentPillar k then s.modPhys fun p => { p with poison := nodup (l :: p.poison) } else s
    | _ => s

/-- The soft errors up to now strike. -/
def State.strikes (s : State) : State :=
  (s.softErrors.filter fun e => e.1 ≤ s.now).foldl (fun s e => s.strike e.2)
    { s with softErrors := s.softErrors.filter fun e => s.now < e.1 }

/-- Time passes to the next entry of the agenda or the next cycle that has work. -/
def State.passTime (s : State) : State :=
  let cyc := (s.now / cycleLen + 1) * cycleLen
  let busy := s.phase == .running && !s.agents.isEmpty
  let t := match s.agenda with
    | (t, _) :: _ => if busy then Nat.min t cyc else t
    | [] => cyc
  let t := Nat.max t (s.now + 1)
  let s := { s with now := t, joined := [] }.strikes
  if t % cycleLen == 0 && s.phase == .running then { s with turn := s.agents, joined := s.agents } else s

/-- The end of the turns at a time: agents that have come to have work get theirs, and then time passes. -/
def State.endTurns (s : State) : State :=
  let more := s.late
  if s.now % cycleLen == 0 && s.phase == .running && !more.isEmpty then { s with turn := more, joined := s.joined ++ more } else s.passTime

/-- A device reset: the one thing that a device after a thermal stop accepts (R15). -/
def resets (i : Instr) : Bool :=
  match i with
  | .deviceReset _ => true
  | _ => false

/-- After a thermal stop entries of the agenda pass without effect, but for a device reset (R15). -/
def State.stoppedStep (ex : Instr → State → Answer) (s : State) : Answer :=
  match s.agenda with
  | (t, i) :: r =>
    let s1 := { s with agenda := r, now := Nat.max s.now t }
    if resets i then ex i s1 else .next s1
  | [] => .next s.passTime

/-- The turn of the agent whose turn it is. -/
def turnStep (ex : Instr → State → Answer) (s : State) : Answer :=
  match s.turn with
  | .core k :: _ => coreTurn ex k s
  | .firmware k :: _ => firmwareTurn ex k s
  | .frontEnd d :: rest => match s.feEvent d with
    | some i => ex i s
    | none => .next { s with turn := rest }
  | [] => .next s.endTurns

/-- One event of the machine (DESIGN CHOICE, log 74): an entry of the agenda that is due, the end of a wipe, or a turn. -/
def machineStep (ex : Instr → State → Answer) (s : State) : Answer :=
  if s.phase == .thermalStop then s.stoppedStep ex
  else match s.agenda.head?.filter fun e => e.1 ≤ s.now with
    | some (_, i) => ex i { s with agenda := s.agenda.drop 1 }
    | none => if s.phase == .wiping then ex .wipeComplete s else turnStep ex s

end Sys2Proof.Machine
end

