-- ==== Sys2Proof/Machine/Coherence.lean ====
section
/-! DEFINITION. Events of slices, leases and directories: writes at home (R223), the collapse of replicas (R219), renewals
and replays (R224-R226), promotion (R212), the write-combining buffer (R220) and range entries (R228). -/

namespace Sys2Proof.Machine

/-- The write of a line that waits longest is given its next time. -/
def State.nextWrite (s : State) (l : Nat) : State :=
  match (s.line l).waiting with
  | w :: _ => if (s.line l).collapsing then s
    else s.schedule (tickTime (Nat.max (s.gtc + 1) (s.writeReady l w))) (.homeWritePerform l)
  | [] => s

/-- HOME_WRITE_PERFORM: the oldest waiting write, once every lease on its bytes has expired, at most one a tick (R223). -/
def execHomeWritePerform (line : Nat) (s : State) : Host.Outcome State Fault Refusal :=
  let n := s.line line
  match n.waiting with
  | w :: r =>
    if n.collapsing then .next s
    else if s.writeReady line w ≤ s.gtc then
      .next ((((s.modLine line fun n => { n with waiting := r }).performWrite line w)).nextWrite line)
    else .next (s.nextWrite line)
  | [] => .next s

/-- The die directory's entry of a line. -/
def State.clustersOn (s : State) (l d : Nat) : List Nat := (tgetD s.phys.dieDir l []).filter fun c => dieOfCluster c == d

/-- A collapse node answers, with a message of at most 100 ticks. -/
def State.answerUp (s : State) (l : Nat) (n : CollapseNode) : State := s.message (.collapseAnswer l n)

/-- COLLAPSE_REQUEST at the package directory, a die directory or a replica slice (R219, steps 2 to 5). -/
def execCollapseRequest (line : Nat) (node : CollapseNode) (s : State) : Host.Outcome State Fault Refusal :=
  match node with
  | .package =>
    let dies := tgetD s.phys.pkgDir line []
    if dies.isEmpty then .next (s.answerUp line .package)
    else
      let s1 := s.modLine line fun n => { n with collapse := n.collapse ++ dies.map .die }
      .next (dies.foldl (fun s d => s.message (.collapseRequest line (.die d))) s1)
  | .die d =>
    let cs := s.clustersOn line d
    if cs.isEmpty then .next (s.answerUp line (.die d))
    else
      let s1 := s.modLine line fun n => { n with collapse := n.collapse ++ cs.map .replica }
      .next (cs.foldl (fun s c => s.message (.collapseRequest line (.replica c))) s1)
  | .replica c =>
    match s.replicaOf line c with
    | some r =>
      if r.expiry ≤ s.gtc then
        .next ((s.modPhys fun p => { p with
          replicas := tmod p.replicas line [] (·.filter fun r => r.cluster != c) }).answerUp line (.replica c))
      else
        .next ((s.modPhys fun p => { p with replicas := tmod p.replicas line [] (·.map fun r =>
          if r.cluster == c then { r with pending := true } else r) }).schedule (tickTime r.expiry) (.collapseRequest line (.replica c)))
    | none => .next (s.answerUp line (.replica c))

/-- COLLAPSE_ANSWER on its way up (R219, steps 5 and 6). -/
def execCollapseAnswer (line : Nat) (node : CollapseNode) (s : State) : Host.Outcome State Fault Refusal :=
  let s1 := s.modLine line fun n => { n with collapse := n.collapse.filter (· != node) }
  match node with
  | .replica c =>
    let d := dieOfCluster c
    let left := (s1.line line).collapse.any fun n => match n with
      | .replica c' => dieOfCluster c' == d
      | _ => false
    if left then .next s1
    else .next ((s1.modPhys fun p => { p with
      dieDir := (tmod p.dieDir line [] (·.filter fun c' => dieOfCluster c' != d)).filter fun e => !e.2.isEmpty }).answerUp line (.die d))
  | .die _ =>
    let left := (s1.line line).collapse.any fun n => match n with
      | .die _ => true
      | _ => false
    if left then .next s1
    else .next ((s1.modPhys fun p => { p with pkgDir := tdel p.pkgDir line, replicas := tdel p.replicas line }).answerUp line .package)
  | .package =>
    .next ((s1.modLine line fun n => { n with collapsing := false }).nextWrite line)

/-- PROMOTION_REQUEST (R212): the latest writer's releases are performed again at dev scope; the fence then goes on. A
writer that is SAVED or has finished has nothing left to do. -/
def execPromotionRequest (core ctx line : Nat) (s : State) : Host.Outcome State Fault Refusal :=
  let done (s : State) : State := s.modCtx core ctx fun c => { c with
    fence := c.fence.map fun f => { f with prom := f.prom.filter (· != line) } }
  match (s.line line).writer with
  | none => .next (done s)
  | some (k, x) =>
    if (s.ctx k x).state != .active then .next (done s)
    else
      let s1 := s.releaseStart k x 0 7
      if s1.releaseReady k x 7 then .next (done s1)
      else .next (s1.schedule (tickTime (s1.gtc + 1)) (.promotionRequest core ctx line))

/-- WCB_SEND: an entry is sent 64 ticks after its first store (R220). -/
def execWcbSend (cluster line : Nat) (s : State) : Host.Outcome State Fault Refusal :=
  match s.wcbEntry cluster line with
  | some e => .next (if e.since + 64 ≤ s.gtc then s.sendWcb cluster line else s)
  | none => .next s

/-- RANGE_ENTRY_EXPIRY: entries of a slice that have expired are freed (R228). -/
def execRangeEntryExpiry (slice _index : Nat) (s : State) : Host.Outcome State Fault Refusal :=
  .next (s.modPhys fun p => { p with ranges := p.ranges.filter fun r => r.slice != slice || s.gtc < r.expiry })

/-! ### Renewals and replays (R224-R226) -/

/-- The lease of a renewal: under the range of its load when that has an entry, else of the whole line (R228). -/
def State.grantAgain (s : State) (k l : Nat) (range : Option (Nat × Word)) : BitVec 128 × Nat × State :=
  match range.bind fun r => (s.grantRange k l r.1 r.2).map fun g => (rangeMask r.1 r.2 l, g) with
  | some g => g
  | none => (BitVec.allOnes 128, s.grant k l (s.replicaOf l (clusterOf k)).isSome)

/-- A renewed line of an L1: a new expiry, and the current data when the version has changed. -/
def State.renewLine (s : State) (k l : Nat) (range : Option (Nat × Word)) : State :=
  match tget (s.core k).l1 l with
  | none => s
  | some e =>
    let (mask, u, s1) := s.grantAgain k l range
    let same := (s1.line l).version == e.version
    if u = 0 then s1.modCore k fun c => { c with l1 := tdel c.l1 l }
    else s1.modCore k fun c => { c with l1 := tset c.l1 l { e with
      e := u, version := (s1.line l).version, mask := mask, data := if same then e.data else s1.lineCells k l (some e.key) } }

/-- The saved words of a register come back; a last register that had no copy is without one again (R226). -/
def Thread.restore (th : Thread) (v : SpecSave) : Thread :=
  if v.kind == .reg && isLast v.sel && v.old.isEmpty then
    { th with copies := tdel th.copies (v.sel - 0x140), claimed := tdel th.claimed (v.sel - 0x140) }.remap
  else th.put v.kind v.sel v.old

/-- What an op of the window has left stands before the bundle to which a replay goes back. -/
def beforeBundle (b : Nat) (spec : Option Nat) : Bool := spec.all (· < b)

/-- The window after a replay to bundle b. -/
def Spec.cut (sp : Spec) (b : Nat) : Option Spec :=
  let loads := sp.loads.filter fun l => l.bundle < b
  if loads.isEmpty then none
  else some { sp with bundles := b, written := sp.written.take b, loads := loads, saves := sp.saves.filter fun v => v.bundle < b }

/-- The replay of a window from its earliest stale load (R226): results and late traps of its bundle and of those after it are
discarded, what they overwrote is restored in reverse order, and the group stands at the load's bundle again, four cycles later
(DEDUCED, log 20). A context that a pre-emption has stopped issues again up to the boundary, and its older results land first. -/
def Ctx.replay (sp : Spec) (ld : SpecLoad) (c : Ctx) : Ctx :=
  let old (l : Landing) : Bool := beforeBundle ld.bundle l.spec
  let c1 := (sp.saves.filter fun v => ld.bundle ≤ v.bundle).reverse.foldl (fun c v => c.modThread v.thread fun th => th.restore v) c
  let c2 : Ctx := { c1 with
    inflight := (c1.inflight ++ c1.shadows.map fun h => h.entry).filter old
    shadows := []
    late := c1.late.filter fun e => beforeBundle ld.bundle e.spec
    group := some ld.group, latches := ld.latches, charged := false, hold := none, second := false
    delays := List.replicate 4 .replay
    redo := if c1.stopping then sp.bundles - ld.bundle else 0
    spec := sp.cut ld.bundle }
  c2.settleCopies

/-- The window closes when every answer has come and matched. -/
def Ctx.closeWindow (c : Ctx) : Ctx :=
  match c.spec with
  | some sp =>
    if sp.loads.all fun l => l.answer == some true then
      { c with
        spec := none, inflight := c.inflight.map fun l => { l with spec := none }
        late := c.late.map fun l => { l with spec := none } }
    else c
  | none => c

/-- RENEWAL_ANSWER: the slice grants a new expiry, or sends the current data with a new version, and then the group
replays (R224, R226). -/
def execRenewalAnswer (core ctx line : Nat) (s : State) : Host.Outcome State Fault Refusal :=
  let v := (s.line line).version
  let mine (l : SpecLoad) : Bool := l.line == line && l.answer.isNone
  let range := (((s.ctx core ctx).spec.map (·.loads)).getD []).find? mine |>.bind (·.range)
  let s1 := s.renewLine core line range
  match (s1.ctx core ctx).spec with
  | none => .next s1
  | some sp =>
    let loads := sp.loads.map fun l => if mine l then { l with answer := some (l.version == v) } else l
    let sp' := { sp with loads := loads }
    match loads.find? fun l => l.answer == some false with
    | some l => .next (s1.modCtx core ctx fun c => (c.replay sp' l).closeWindow)
    | none => .next (s1.modCtx core ctx fun c => ({ c with spec := some sp' }).closeWindow)

end Sys2Proof.Machine
end

