-- ==== Sys2Proof/Machine/SaveArea.lean ====
section
/-! DEFINITION. The save slots of the system region (R265-R267): where the fields of a SAVED context's record stand, and the record
as its bytes give it (R2, R263). -/

namespace Sys2Proof.Machine

/-! ### The fields of a record (R266, R267) -/

/-- A field of a save slot: its offset and length in bytes, its value, and what a value read there means for the context. -/
structure SaveField where
  off : Nat
  len : Nat
  val : Nat
  set : Nat → Ctx → Ctx

/-- A field of 8 bytes. -/
def wordField (off : Nat) (w : Word) (set : Word → Ctx → Ctx) : SaveField := ⟨off, 8, w.toNat, fun n => set (word64 n)⟩

/-- The stall counters, event n at 0x100 + 8 × n. -/
def Ctx.counterFields (c : Ctx) : List SaveField :=
  (List.range 18).map fun i => ⟨0x108 + 8 * i, 8, tgetD c.regs.counters (i + 1) 0, fun n c =>
    { c with regs := { c.regs with counters := tset c.regs.counters (i + 1) (n % 2 ^ 48) } }⟩

/-- FPCTL, BINAGE, CTXPRIO, the segment registers, MMUCTX and OSHELD, one word each in the order of R266 (DESIGN CHOICE, log 33). -/
def Ctx.controlFields (c : Ctx) (held : Nat) : List SaveField :=
  let r := c.regs
  [wordField 0x300 r.fpctl fun w c => { c with regs := { c.regs with fpctl := w } },
    ⟨0x308, 8, r.binage, fun n c => { c with regs := { c.regs with binage := n } }⟩,
    ⟨0x310, 8, r.prio, fun n c => { c with regs := { c.regs with prio := n } }⟩] ++
  (List.range 8).map (fun i => wordField (0x318 + 8 * i) (tgetD r.segBase i 0) fun w c =>
    { c with regs := { c.regs with segBase := tset c.regs.segBase i w } }) ++
  (List.range 8).map (fun i => wordField (0x358 + 8 * i) (tgetD r.segLim i 0) fun w c =>
    { c with regs := { c.regs with segLim := tset c.regs.segLim i w } }) ++
  [wordField 0x398 r.mmu fun w c => { c with regs := { c.regs with mmu := w } }, ⟨0x3A0, 8, held, fun _ c => c⟩]

/-- The entries of the stash map, 16 bytes each. -/
def Ctx.mapFields (c : Ctx) : List SaveField :=
  c.mem.stmap.flatMap fun e =>
    let put (f : Word × Word → Word × Word) (c : Ctx) : Ctx := { c with mem := { c.mem with stmap := tset c.mem.stmap e.1 (f (tgetD c.mem.stmap e.1 e.2)) } }
    [wordField (0x400 + 16 * e.1) e.2.1 fun w => put fun p => (w, p.2), wordField (0x408 + 16 * e.1) e.2.2 fun w => put fun p => (p.1, w)]

/-- The copy masks and the maps of used entries: the masks first (DESIGN CHOICE, log 33). -/
def Ctx.maskFields (c : Ctx) : List SaveField :=
  c.threads.flatMap fun e =>
    [⟨0x3E00 + 8 * e.1, 8, sumNat (e.2.copies.map fun r => 2 ^ r.1), fun _ c => c⟩, ⟨0x4600 + e.1, 1, e.2.used.toNat, fun _ c => c⟩]

/-- The result latches of the units (R126), eight to a lane of a unit (DESIGN CHOICE, log 33). -/
def Ctx.latchFields (c : Ctx) : List SaveField :=
  c.latches.map fun e => wordField (0x4800 + 8 * e.1) e.2 fun w c => { c with latches := tset c.latches e.1 w }

/-- The last store (R55): the value area, then the copy entries of the threads. -/
def Ctx.lastFields (c : Ctx) : List SaveField :=
  c.mem.last.flatMap (fun e => e.2.zipIdx.map fun w => wordField (0x8800 + 128 * e.1 + 8 * w.2) w.1 fun v c =>
    { c with mem := { c.mem with last := tset c.mem.last e.1 ((tgetD c.mem.last e.1 []).set w.2 v) } }) ++
  c.threads.flatMap fun t => t.2.entries.map fun e => wordField (0xA800 + 32 * t.1 + 8 * e.1) e.2 fun w c =>
    c.modThread t.1 fun th => { th with entries := tset th.entries e.1 w }

/-- The registers: thread t at 0xC800 + 2,040 × t, a uniform register once, in thread 0's words. -/
def Ctx.regFields (c : Ctx) : List SaveField :=
  let put (t n : Nat) (w : Word) (c : Ctx) : Ctx := c.modThread t fun th => { th with regs := tset th.regs n w }
  let held (t : Nat) : Nat := Nat.min 255 (c.thread t).budget
  c.live.flatMap (fun t => ((List.range (held t)).filter fun n => !c.uniform.contains n).map fun n =>
    wordField (0xC800 + 2040 * t + 8 * n) (c.reg t n) (put t n)) ++
  c.uniform.map fun n => wordField (0xC800 + 8 * n) (c.reg (c.live.headD 0) n) fun w c => c.live.foldl (fun c t => put t n w c) c

/-- The event queue, the transfer channels, the b registers and the loop generator (R267). -/
def Ctx.engineFields (c : Ctx) : List SaveField :=
  let chan (n : Nat) (f : Chan → Chan) (c : Ctx) : Ctx := { c with eng := { c.eng with chans := tmod c.eng.chans n {} f } }
  let arm (i : Nat) (v : Nat) (f : Nat → Arming → Arming) : SaveField :=
    ⟨0x260 + 8 * i, 8, v, fun n c => { c with eng := { c.eng with arming := c.eng.arming.map (f n) } }⟩
  c.eng.evq.zipIdx.map (fun e => wordField (8 * e.2) e.1 fun w c => { c with eng := { c.eng with evq := c.eng.evq.set e.2 w } }) ++
  c.eng.chans.flatMap (fun e => [⟨0x200 + 8 * e.1, 4, e.2.next, fun n => chan e.1 fun h => { h with next := n }⟩,
    ⟨0x204 + 8 * e.1, 4, e.2.done, fun n => chan e.1 fun h => { h with done := n }⟩]) ++
  c.regs.bregs.map (fun e => ⟨0x240 + 8 * e.1, 8, (e.2.target.map fun pc => pc.off % 2 ^ 32 + 2 ^ 63).getD 0, fun n c =>
    { c with regs := { c.regs with bregs := tmod c.regs.bregs e.1 e.2 fun b =>
      { b with target := if n < 2 ^ 63 then none else b.target.map fun pc => { pc with off := n % 2 ^ 32 } } } }⟩) ++
  (match c.eng.arming with
    | none => []
    | some a => [arm 0 a.count fun n a => { a with count := n }, arm 1 a.s0.toNat fun n a => { a with s0 := word64 n },
        arm 2 a.s1.toNat fun n a => { a with s1 := word64 n }, arm 3 a.s2.toNat fun n a => { a with s2 := word64 n }]) ++
  [⟨0x7E0, 1, c.eng.evq.length, fun _ c => c⟩, ⟨0x7E1, 1, if c.eng.evOvf then 1 else 0, fun n c => { c with eng := { c.eng with evOvf := n % 2 == 1 } }⟩]

/-- A set of threads as a mask, and back. -/
def threadMask (l : List Nat) : Nat := l.foldl (fun m t => m ||| 2 ^ t) 0
def maskThreads (m : Nat) : List Nat := (List.range 256).filter m.testBit

/-- The barriers (R267): the phase counter, the expected count, the arrivals, and the waits owed. -/
def State.barFields (s : State) (c : Ctx) : List SaveField :=
  let bar (b : Nat) (f : Bar → Bar) (c : Ctx) : Ctx := c.modBar b f
  c.bars.flatMap fun e => [⟨0x280 + 80 * e.1, 2, e.2.phase, fun n => bar e.1 fun b => { b with phase := n }⟩,
    ⟨0x282 + 80 * e.1, 2, c.expected (((s.barDecl c e.1).map (·.2)).getD 0), fun _ c => c⟩,
    ⟨0x290 + 80 * e.1, 32, threadMask e.2.arrived, fun n => bar e.1 fun b => { b with arrived := maskThreads n }⟩,
    ⟨0x2B0 + 80 * e.1, 32, threadMask e.2.owed, fun n => bar e.1 fun b => { b with owed := maskThreads n }⟩]

/-- The uniform marks (R134, R267). -/
def Ctx.uniformField (c : Ctx) : SaveField :=
  ⟨0x7C0, 32, threadMask c.uniform, fun n c => { c with uniform := maskThreads n }⟩

/-- A field of the extension block. -/
def SaveField.inExtension (f : SaveField) : SaveField := { f with off := 0x20C000 + f.off }

/-- The fields of a record that R266 and R267 give a place. The others, whose layout the spec leaves open, stand in the record alone:
the header but for its number, bins, parked threads, shadow results, receive queues and credits, template levels (DESIGN CHOICE, log 33). -/
def State.saveFields (s : State) (r : SaveRec) : List SaveField :=
  let c := r.ctx
  let held := sumNat (r.slots.map fun n => 2 ^ n) + 2 ^ 32 * sumNat (r.tiles.map fun n => 2 ^ n)
  c.counterFields ++ c.controlFields held ++ c.mapFields ++ c.maskFields ++ c.latchFields ++ c.lastFields ++ c.regFields ++
    (c.engineFields ++ s.barFields c ++ [c.uniformField]).map SaveField.inExtension

/-! ### Bytes of a slot -/

/-- The physical address of save slot n of a core (R265). -/
def slotBase (k n : Nat) : Nat := k * 2 ^ 30 + sysBase + 0x40_0000 + 0x28_0000 * n

/-- The parts of a slot that a record uses, as offset and length: the control block, the last store, the registers, the share, held slots
and tiles, and the extension block. -/
def SaveRec.parts (r : SaveRec) : List (Nat × Nat) :=
  [(0, 0xC800), (0xC800, 2040 * r.ctx.size), (0x8C000, r.ctx.mem.shareLen), (0x20C000, 0x800)] ++
    r.slots.map (fun n => (0x10C000 + 16384 * n, 16384)) ++ r.tiles.map fun n => (0x18C000 + 131072 * n, 131072)

/-- The bytes of a record that are not zero, by their offsets. -/
def State.saveCells (s : State) (r : SaveRec) : List Host.Cell :=
  let bytes (off len v : Nat) : List (Nat × Byte) := if v = 0 then [] else bytesAt off (natToBytes len v)
  cellPuts [] ((s.saveFields r).flatMap (fun f => bytes f.off f.len f.val) ++
    (r.share.filter fun e => e.1 < r.ctx.mem.shareLen).map (fun e => (0x8C000 + e.1, e.2)) ++ r.opmem.map (fun e => (0x10C000 + e.1, e.2)) ++
    r.acc.flatMap fun e => bytes (0x18C000 + 4 * e.1) 4 e.2.toNat)

/-- Lines take a key. -/
def keyLines (key : Nat) (ls : List Nat) (t : Tab Nat) : Tab Nat := ls.foldl (fun t l => tset t l key) t

/-- Memory with new contents under a key in parts of a pillar; no slice holds bytes of them any more. -/
def Phys.replace (p : Phys) (key : Nat) (inside : Nat → Bool) (cells : List Host.Cell) : Phys :=
  let line (l : Nat) : Bool := inside (128 * l)
  let ls := nodup (cells.map (·.1 / 128))
  { p with
    dram := cellPuts (p.dram.filter fun e => !inside e.1) cells
    overlay := p.overlay.filter fun e => !inside e.1
    lineKey := keyLines key ls (p.lineKey.filter fun e => !line e.1)
    dramKey := keyLines key ls (p.dramKey.filter fun e => !line e.1)
    poison := p.poison.filter fun l => !line l
    lines := p.lines.map fun e => if line e.1 then (e.1, { e.2 with version := (e.2.version + 1) % 2 ^ 32 }) else e }

/-- A record enters a save slot of a core, and its bytes the slot's parts in use, under key slot 0 (R44, R266, R284). -/
def State.setRecord (s : State) (k n : Nat) (r : SaveRec) : State :=
  let b := slotBase k n
  let inside (pa : Nat) : Bool := r.parts.any fun e => b + e.1 ≤ pa && pa < b + e.1 + e.2
  let s1 := s.modPhys fun p => p.replace (s.keyOf 0) inside ((s.saveCells r).map fun e => (b + e.1, e.2))
  let keep (c : Core) : Core := { c with l1 := c.l1.filter fun e => !inside (128 * e.1) }
  let s2 := { s1 with cores := s1.cores.map fun (c : Nat × Core) => (c.1, keep c.2) }
  s2.modCore k fun c => { c with saves := tset c.saves n r }

/-- The bytes of a range that are not zero, as offsets in it: lines that another key has written read as slot 0 decrypts them. -/
def State.rawCells (s : State) (a n : Nat) : List Host.Cell :=
  let key := s.keyOf 0
  let odd := (s.phys.lineKey.filter fun e => e.2 != key && a ≤ 128 * e.1 && 128 * e.1 < a + n).map (·.1)
  let here (e : Nat × Byte) : Bool := a ≤ e.1 && e.1 < a + n && !odd.contains (e.1 / 128)
  (cellPuts (cellPuts (s.phys.dram.filter here) (s.phys.overlay.filter here)) (odd.flatMap fun l =>
    (List.range 128).map fun i => (128 * l + i, s.phys.byte (some key) (128 * l + i)))).map fun e => (e.1 - a, e.2)

/-- The record of a save slot as its bytes now give it (R263, R266): firmware may have written them. -/
def State.record (s : State) (k n : Nat) : Option SaveRec :=
  (tget (s.core k).saves n).map fun r =>
    let b := slotBase k n
    let value (f : SaveField) : Nat := bytesToNat ((List.range f.len).map fun i => s.lastByteAt (some (s.keyOf 0)) (b + f.off + i))
    let len := r.ctx.mem.shareLen
    let words (t : Nat) : List Nat := nodup ((s.rawCells (b + 0x18C000 + 131072 * t) 131072).map fun e => e.1 / 4)
    { r with
      ctx := (s.saveFields r).foldl (fun c f => if value f = f.val then c else f.set (value f) c) r.ctx
      share := cellPuts (r.share.filter fun e => len ≤ e.1) (s.rawCells (b + 0x8C000) len)
      opmem := cellPuts [] (r.slots.flatMap fun m => (s.rawCells (b + 0x10C000 + 16384 * m) 16384).map fun e => (16384 * m + e.1, e.2))
      acc := r.tiles.flatMap fun t => (words t).map fun w =>
        (32768 * t + w, BitVec.ofNat 32 (bytesToNat ((List.range 4).map fun i => s.lastByteAt (some (s.keyOf 0)) (b + 0x18C000 + 131072 * t + 4 * w + i)))) }

end Sys2Proof.Machine
end

