-- ==== Sys2Proof/Machine/Engines.lean ====
section
/-! DEFINITION. The copy engine and its channels: XFER, XLOOP, XSTAT, WAITID, XCANCEL, PUBLISH, EVQPOP and STKCPY
(R213-R217, R329, R330, R364, R384, R385, R396-R402), and the seat of the workgroup that an engine stream belongs to. -/

namespace Sys2Proof.Machine

/-! ### The workgroup of an engine stream -/

/-- What an engine stream keeps of the context that issues it. -/
def State.engEnv (s : State) (k x : Nat) : EngEnv :=
  let c := s.ctx k x
  ⟨k, x, c.wg, c.regs.segBase, c.regs.mmu, c.tmpl, if c.tmpl.opened = 0 then [] else c.threads.map fun e => (e.1, e.2.level)⟩

/-- Where the workgroup of an engine stream is: in a context, in a save record, or gone (R44, R264, R396). -/
inductive Seat where
  | live (k x : Nat)
  | saved (k slot : Nat)
  | gone
deriving DecidableEq, Repr

def sameWg (a b : Option Wg) : Bool :=
  match a, b with
  | some v, some w => v.cohort == w.cohort && v.logical == w.logical && v.founder == w.founder && v.launch == w.launch
  | _, _ => false

def EngEnv.same (a b : EngEnv) : Bool :=
  match a.wg, b.wg with
  | none, none => a.core == b.core
  | v, w => sameWg v w

/-- The seat of a workgroup; none stands for the firmware slot of the given core. -/
def State.seatOf (s : State) (core : Nat) (wg : Option Wg) : Seat :=
  match wg with
  | none => .live core 4
  | some _ =>
    match s.cores.findSome? fun c => (c.2.ctxs.find? fun x => x.2.state == .active && sameWg x.2.wg wg).map fun x => (c.1, x.1) with
    | some (k, x) => .live k x
    | none => match s.cores.findSome? fun c => (c.2.saves.find? fun r => sameWg r.2.ctx.wg wg).map fun r => (c.1, r.1) with
      | some (k, n) => .saved k n
      | none => .gone

def State.seat (s : State) (e : EngEnv) : Seat := s.seatOf e.core e.wg

/-- The stash of a core with the share of a save record laid over it. -/
def shareOver (stash share : List Host.Cell) (base len : Nat) : List Host.Cell :=
  cellPuts (stash.filter fun e => e.1 < base || base + len ≤ e.1) (share.map fun e => (base + e.1, e.2))

/-- The share that lies in a stash. -/
def shareOf (stash : List Host.Cell) (base len : Nat) : List Host.Cell :=
  (stash.filter fun e => base ≤ e.1 && e.1 < base + len).map fun e => (e.1 - base, e.2)

/-- Acts on a SAVED context as under the number it ran under, its share at its base (R264, R396). What the action does to the
context and its share is kept in the record. -/
def State.atSaved {α : Type} (s : State) (k slot : Nat) (d : α) (f : Nat → Nat → State → α × State) : α × State :=
  match s.record k slot with
  | none => (d, s)
  | some r =>
    let here := s.ctx k r.ctxNo
    let stash := (s.core k).stash
    let base := r.ctx.mem.shareBase
    let len := r.ctx.mem.shareLen + r.ctx.mem.pool
    let s1 := (s.modCtx k r.ctxNo fun _ => r.ctx).modCore k fun c => { c with stash := shareOver stash r.share base len }
    let (a, s2) := f k r.ctxNo s1
    let back := s2.ctx k r.ctxNo
    let share := shareOf (s2.core k).stash base len
    let s3 := (s2.modCtx k r.ctxNo fun _ => here).modCore k fun c => { c with stash := stash }
    (a, s3.setRecord k slot { r with ctx := back, share := share })

/-- Acts on the context of a workgroup wherever it is; `d` answers for one that is gone. -/
def State.atSeat {α : Type} (s : State) (seat : Seat) (d : α) (f : Nat → Nat → State → α × State) : α × State :=
  match seat with
  | .live k x => f k x s
  | .saved k n => s.atSaved k n d f
  | .gone => (d, s)

def State.onSeat (s : State) (e : EngEnv) (f : Nat → Nat → State → State) : State :=
  (s.atSeat (s.seat e) () fun k x s => ((), f k x s)).2

/-! ### Channels (R396) -/

def Ctx.chan (c : Ctx) (n : Nat) : Chan := tgetD c.eng.chans n {}

def Ctx.modChan (c : Ctx) (n : Nat) (f : Chan → Chan) : Ctx := { c with eng := { c.eng with chans := tmod c.eng.chans n {} f } }

/-- (a − b) modulo 2^32. -/
def idGap (a b : Nat) : Nat := (a + 2 ^ 32 - b % 2 ^ 32) % 2 ^ 32

/-- An identifier that the channel has not issued (R401). -/
def Chan.notIssued (c : Chan) (id : Nat) : Bool := let g := idGap id c.next; 1 ≤ g && g < 2 ^ 31

/-- An identifier at or below DONE. -/
def Chan.below (c : Chan) (id : Nat) : Bool := idGap c.done id < 2 ^ 31

/-- n more identifiers would bring NEXT − DONE to 2^31. -/
def Chan.full (c : Chan) (n : Nat) : Bool := 2 ^ 31 ≤ idGap c.next c.done + n

/-- DONE advances over the identifiers that have ended. -/
def chanAdvance : Nat → Chan → Chan
  | 0, c => c
  | n + 1, c =>
    let d := (c.done + 1) % 2 ^ 32
    if c.ended.contains d then chanAdvance n { c with done := d, ended := c.ended.filter (· != d) } else c

/-- An operation takes the next identifier. -/
def Chan.take (c : Chan) (scope : Nat) (shadow : Bool) : Chan :=
  let id := (c.next + 1) % 2 ^ 32
  { c with next := id, ops := tset c.ops id ⟨scope, shadow, .active, []⟩ }

/-- An operation ends, completed or not. A shadow waits for its PUBLISH. -/
def Chan.endOp (c : Chan) (id : Nat) (ok : Bool) : Chan :=
  let ops := match tget c.ops id with
    | some op =>
      if !ok then tset c.ops id { op with state := .failed, writes := [] }
      else if op.shadow then tset c.ops id { op with state := .done } else tdel c.ops id
    | none => c.ops
  chanAdvance (c.ended.length + 1) { c with ops := ops, ended := c.ended ++ [id] }

/-- A run of bytes joins the shadow of an operation (R215). -/
def Chan.shadowWrite (c : Chan) (id : Nat) (w : Option Nat × Nat × List Byte) : Chan :=
  { c with ops := match tget c.ops id with
    | some op => tset c.ops id { op with writes := op.writes ++ [w] }
    | none => c.ops }

/-! ### The event queue (R329) -/

def eventWord (kind chan drop id : Nat) : Word := word64 (kind * 2 ^ 60 + chan * 2 ^ 57 + drop % 2 ^ 12 * 2 ^ 45 + id)

def Ctx.pushEvent (c : Ctx) (w : Word) : Ctx :=
  if c.eng.evq.length < 64 then { c with eng := { c.eng with evq := c.eng.evq ++ [w] } }
  else { c with eng := { c.eng with evOvf := true } }

/-- The oldest record, with OVF when records were lost; 0 for an empty queue. -/
def Ctx.popEvent (c : Ctx) : Word × Ctx :=
  match c.eng.evq with
  | [] => (0, c)
  | w :: r => (if c.eng.evOvf then w ||| word64 (2 ^ 44) else w, { c with eng := { c.eng with evq := r, evOvf := false } })

/-- EVQPOP (R330). -/
def execEvqpop (o : Op) (s : State) : Host.Outcome State Fault Refusal :=
  let d := o.dest.toNat
  .next (runOp o.slot (s.illegalUnless o (o.legalV 0x122 8 && o.ext.isNone && destOk o.slot d 1) ++ s.copyTraps o d 1) (fun s =>
    if (s.active o).isEmpty then s.landZero o 1 4
    else
      let (w, c) := s.me.popEvent
      (s.modMe fun _ => c).land o .reg d 1 4 (s.perLane o fun _ _ => [w]) 0 [] []) s)

/-- An operation of an engine ends: its channel and, when it writes one, its record (R396, R329). -/
def State.endOp (s : State) (e : EngEnv) (chan id : Nat) (ok : Bool) (rec_ : Option (Nat × Nat)) : State :=
  s.onSeat e fun k x s => s.modCtx k x fun c =>
    let c1 := c.modChan chan (·.endOp id ok)
    match rec_ with
    | some (kind, drop) => c1.pushEvent (eventWord kind chan drop id)
    | none => c1

/-! ### Traps and page faults of engine streams (R184, R256, R264) -/

/-- A record of a workgroup that is gone. -/
def State.ghostRecord (s : State) (e : EngEnv) (t : Nat) (tr : Trap) (late : Bool) (at_ : Pc) : State :=
  let here := s.ctx e.core e.ctx
  let was : Ctx := { wg := e.wg, tmpl := e.tmpl, threads := [(t, { level := tgetD e.levels t 0 })] }
  ((s.modCtx e.core e.ctx fun _ => was).addRecord e.core e.ctx t tr late true at_ at_).modCtx e.core e.ctx fun _ => here

/-- A late trap of an engine stream: a thread that has ended, or that a trap already holds, is only recorded (R264) (DEDUCED, log 39). -/
def State.engineTrap (s : State) (e : EngEnv) (t : Nat) (tr : Trap) (at_ : Pc) : State :=
  match s.seat e with
  | .gone => s.ghostRecord e t tr true at_
  | _ => s.onSeat e fun k x s =>
    let c := s.ctx k x
    if !c.live.contains t then s.addRecord k x t tr true true at_ at_
    else if (c.group.bind (·.delay)).isSome then s.modCtx k x fun c => { c with
      late := c.late ++ [{ thread := t, trap := tr, at_ := at_, dest := none, eng := true, tick := s.gtc }] }
    else s.takeLate k x [(t, tr)] at_ none true

/-- The record of a page fault of an engine stream. -/
def State.engineFault (s : State) (e : EngEnv) (t : Nat) (f : FaultHold) (at_ : Pc) : State :=
  match s.seat e with
  | .gone => s.ghostRecord e t f.trap false at_
  | _ => s.onSeat e fun k x s => s.addRecord k x t f.trap false true at_ at_

/-! ### Engine accesses -/

/-- What an engine access came to. -/
inductive EngGot where
  | ok (bytes : List Byte)
  | fault (va level : Nat) (write : Bool)
  | bad (addr : Nat)
deriving DecidableEq, Repr

def EngEnv.space (s : State) (e : EngEnv) : Space := ⟨e.core, e.root, (s.partOfCore e.core).map (·.2)⟩

def EngEnv.va (e : EngEnv) (p : Word) : Nat := (tgetD e.bases (ptrSeg p) 0).toNat + ptrOff p

/-- Bytes that the spec does not fix: what the host returns to an engine, and the stash of a workgroup that is gone (DESIGN CHOICE, log 4) (DESIGN CHOICE, log 37). -/
def State.freeBytes (s : State) (n : Nat) : List Byte × State := let (v, s) := s.draw1; (natToBytes n v, s)

/-- The context number under which engine writes are noted. -/
def engCtx : Nat := 8

/-- Bytes of a virtual address by the engine of a core, as its threads' earlier writes leave them (R214). -/
def State.engLoad (s : State) (e : EngEnv) (va n : Nat) : EngGot × State :=
  (pieces (n / 8 + 2) va n).foldl (fun (acc : EngGot × State) pc =>
    match acc.1 with
    | .ok bs => match acc.2.translate (e.space acc.2) pc.1 .load with
      | (.ok pa pte, s1) =>
        if regionOf pa == .host then let (b, s2) := s1.freeBytes pc.2; (.ok (bs ++ b), s2)
        else if s1.uncorrectable pa then (.bad (pa / 128 * 128), s1)
        else
          let key := s1.leafKey pa pte
          (.ok (bs ++ (List.range pc.2).map fun i => s1.coreByte e.core key (pa + i)), s1)
      | (.fault lv, s1) => (.fault pc.1 lv false, s1)
      | (.violation, s1) => (.bad pc.1, s1)
    | g => (g, acc.2)) (.ok [], s)

/-- Writes bytes at a virtual address; a page fault or a refusal comes before any of them. -/
def State.engStore (s : State) (e : EngEnv) (va : Nat) (bs : List Byte) : EngGot × State :=
  let ps := pieces (bs.length / 8 + 2) va bs.length
  let look := ps.foldl (fun (g : EngGot) pc => match g with
    | .ok _ => match s.probe (e.space s) pc.1 .store with
      | .ok _ _ => g
      | .fault lv => .fault pc.1 lv true
      | .violation => .bad pc.1
    | g => g) (.ok [])
  match look with
  | .ok _ => (.ok [], ps.foldl (fun s pc => match s.physPiece (e.space s) pc.1 pc.2 .store with
      | (some p, s1) => s1.storeLine e.core engCtx 0 p.key p.rm (p.pa / 128) (bytesAt p.pa ((bs.drop (pc.1 - va)).take pc.2))
      | (none, s1) => s1) s)
  | g => (g, s)

/-- An access of S or T by an engine, as the workgroup sees it wherever it is: in its share, or in its copies of T (R60). -/
def State.engOwn (s : State) (seat : Seat) (seg off n : Nat) (bs : Option (List Byte)) : EngGot × State :=
  match seat with
  | .gone => let (b, s1) := s.freeBytes n; (.ok (if bs.isSome then [] else b), s1)
  | _ => s.atSeat seat (.ok []) fun k x s =>
    let a : Acc := ⟨0, 0, false, seg, off, n⟩
    match s.walkCheck k x (if bs.isSome then .store else .load) a with
    | (some tr, _) => (.bad tr.addr, s)
    | (none, f :: _) => (.fault f.1 f.2.1 f.2.2, s)
    | (none, []) => match bs with
      | some b => (.ok [], s.storeAcc k x a b)
      | none =>
        let (g, s1) := (s.freshAcc k x a).loadAcc k x a none
        let (g, s1) := s1.noHost g
        match g.poison with
        | some pa => (.bad pa, s1)
        | none => (.ok g.bytes, s1)

/-- Bytes at a ptr of the workgroup. -/
def State.engRead (s : State) (e : EngEnv) (p : Word) (n : Nat) : EngGot × State :=
  if ptrSeg p = 2 then s.engOwn (s.seat e) 2 (ptrOff p) n none
  else if ptrSeg p = 4 && s.seat e != .gone then s.engOwn (s.seat e) 4 (ptrOff p) n none
  else s.engLoad e (e.va p) n

def State.engWrite (s : State) (e : EngEnv) (p : Word) (bs : List Byte) : EngGot × State :=
  if ptrSeg p = 2 then s.engOwn (s.seat e) 2 (ptrOff p) bs.length (some bs) else s.engStore e (e.va p) bs

/-! ### Transfers (R397-R399) -/

/-- Row i of a transfer: its ptr. -/
def rowPtr (p pitch : Word) (i : Nat) : Word := word64 (ptrAdd p.toNat ((i : Int) * pitch.toInt))

/-- A transfer from its descriptor. -/
def transferOf (e : EngEnv) (chan id thread scope : Nat) (shadow : Bool) (at_ : Pc) (d : List Word) : Transfer :=
  let w (i : Nat) : Word := (d[i]?).getD 0
  { env := e, chan := chan, id := id, thread := thread, scope := scope, shadow := shadow
    src := w 0, dst := w 1, width := ((w 2).extractLsb' 24 24).toNat + 1, height := ((w 2).extractLsb' 0 24).toNat + 1
    spitch := w 3, dpitch := w 4, time := (w 5).toNat
    rmt := if (w 6).getLsbD 9 then some ((w 6).extractLsb' 0 9).toNat else none
    at_ := at_ }

/-- Repetition k of a loop (R400). -/
def Transfer.rep (t : Transfer) (a : Arming) (id k : Nat) : Transfer :=
  { t with
    id := id
    src := word64 (ptrAdd t.src.toNat ((k : Int) * a.s0.toInt))
    dst := word64 (ptrAdd t.dst.toNat ((k : Int) * a.s1.toInt))
    time := (t.time + k * a.s2.toNat) % 2 ^ 64 }

/-- The descriptor's zero fields and RMT (R398). -/
def xferDescOk (s : State) (scope : Nat) (d : List Word) : Bool :=
  let w (i : Nat) : Word := (d[i]?).getD 0
  (w 2).extractLsb' 48 16 == 0#16 && (w 6).extractLsb' 10 54 == 0#54 && w 7 == 0 &&
    (if (w 6).getLsbD 9 then scope == 11 && ((w 6).extractLsb' 0 9).toNat != s.fuses.device else (w 6).extractLsb' 0 9 == 0#9)

def Transfer.srcRow (t : Transfer) (i : Nat) : Acc := Acc.ofPtr 0 t.thread (rowPtr t.src t.spitch i) t.width
def Transfer.dstRow (t : Transfer) (i : Nat) : Acc := Acc.ofPtr 0 t.thread (rowPtr t.dst t.dpitch i) t.width

/-- The first row that a segment check refuses (R398). -/
def State.rowsTrap (s : State) (c : Ctx) (kind : AccessKind) (row : Nat → Acc) (n : Nat) : Option Trap :=
  (firstNat (fun i => (s.segCheck c kind 1 (row i)).isSome) n 0).bind fun i => s.segCheck c kind 1 (row i)

/-- Segments and rows of a transfer (R398). -/
def State.transferTrap (s : State) (c : Ctx) (t : Transfer) : Option Trap :=
  let sg := ptrSeg t.src
  let dg := ptrSeg t.dst
  if !(sg = 0 || sg = 2 || sg = 3 || sg = 5) then some ⟨.accessViolation, sg, c.addrOf (t.srcRow 0) (ptrOff t.src)⟩
  else if !(dg = 0 || dg = 2 || dg = 5) then some ⟨.accessViolation, dg, c.addrOf (t.dstRow 0) (ptrOff t.dst)⟩
  else (s.rowsTrap c .load t.srcRow t.height).or (if t.rmt.isSome then none else s.rowsTrap c .store t.dstRow t.height)

/-- An address in every page that the destination rows touch. -/
def Transfer.dstPages (t : Transfer) (c : Ctx) : List Nat :=
  if ptrSeg t.dst = 2 then []
  else nodup ((List.range t.height).flatMap fun i =>
    let va := c.addrOf (t.dstRow i) (t.dstRow i).off
    va :: (List.range ((va + t.width - 1) / 65536 - va / 65536)).map fun j => (va / 65536 + 1 + j) * 65536)

/-- The SH check (R398): a page without SH, or a page fault. -/
def State.shadowCheck (s : State) (k x : Nat) (t : Transfer) : Option Trap × List (Nat × Nat) :=
  if !t.shadow || t.rmt.isSome then (none, [])
  else (t.dstPages (s.ctx k x)).foldl (fun acc va => match acc.1 with
    | some _ => acc
    | none => match s.probe (s.spaceOf k x) va .store with
      | .ok _ pte => if pteSH pte then acc else (some ⟨.xferFault, t.chan, va⟩, acc.2)
      | .fault lv => (none, acc.2 ++ [(va, lv)])
      | .violation => acc) (none, [])

/-- A loop of the workgroup is still entering its transfers. -/
def State.loopOn (s : State) (k : Nat) (e : EngEnv) : Bool := (s.core k).eng.loops.any fun l => l.env.same e && !l.left.isEmpty

/-- A transfer enters the time-sorted buffer (R399). -/
def State.enterTransfer (s : State) (k : Nat) (t : Transfer) : State :=
  (s.modCore k fun c => { c with eng := { c.eng with buf := c.eng.buf ++ [t] } }).schedule
    (Nat.max s.now (tickTime t.time)) (.transferStart k)

/-- XFER (R397-R400). -/
def execXfer (o : Op) (s : State) : Host.Outcome State Fault Refusal :=
  let k := s.myCore
  let x := s.myCtxNo
  let d := o.dest.toNat
  let scope := (o.mod.extractLsb' 4 4).toNat
  let shadow := o.mod.getLsbD 3
  let chan := (o.mod.extractLsb' 0 3).toNat
  match s.top o with
  | none => .next (s.landZero o 1 2)
  | some e =>
    let ws := s.run o e.1 e.2 o.selA 8
    let env := s.engEnv k x
    let ch := s.me.chan chan
    let t0 := transferOf env chan ((ch.next + 1) % 2 ^ 32) e.2 scope shadow s.me.pc ws
    let ts : List Transfer := match s.me.eng.arming with
      | some a => (List.range a.count).map fun i => t0.rep a ((ch.next + 1 + i) % 2 ^ 32) i
      | none => [t0]
    let ends := t0 :: ts.getLast?.toList
    let ok := o.legalV 0x101 7 && o.ext.isNone && o.elems == 8 && destOk o.slot d 1 && xferDescOk s scope ws
    let first := s.srcTraps o ok [(o.selA, 8)] ++ s.copyTraps o d 1
    let all (l : List Trap) : List (Nat × Trap) := l.take 1 |>.flatMap fun tr => (s.active o).map fun a => (a.2, tr)
    let rows := if first.isEmpty then all (ends.filterMap fun t => s.transferTrap s.me t) else []
    let shs := ends.map fun t => s.shadowCheck k x t
    let bad := if first.isEmpty && rows.isEmpty then all (shs.filterMap (·.1)) else []
    let traps := first ++ rows ++ bad
    let pf := if traps.isEmpty then (shs.flatMap (·.2)).take 1 else []
    if !pf.isEmpty then .next (s.pageFaults k x (pf.map fun f => ⟨e.2, f.1, f.2, ptrSeg t0.dst, true⟩))
    else if traps.isEmpty && (s.loopOn k env || ch.full ts.length || (s.me.eng.arming.isNone && 64 ≤ s.home.eng.buf.length)) then
      .next (s.holdFor .xferWait)
    else .next (runOp o.slot traps (fun s =>
      let s1 := s.releaseStart k x e.2 scope
      let s2 := s1.modMe fun c => { ts.foldl (fun c _ => c.modChan chan (·.take scope shadow)) c with
        eng := { (ts.foldl (fun c _ => c.modChan chan (·.take scope shadow)) c).eng with arming := none } }
      let s3 := match s.me.eng.arming with
        | none => s2.enterTransfer k t0
        | some _ => (s2.modHome fun c => { c with eng := { c.eng with loops := c.eng.loops ++ [(⟨env, ts⟩ : LoopGen)] } }).schedule
            s.now (.loopGeneratorEntry k x)
      s3.land o .reg d 1 2 (s.perLane o fun _ _ => [word64 ((ts.getLast?.map (·.id)).getD 0)]) 0 [] []) s)

/-- LOOP_GENERATOR_ENTRY: one transfer a cycle, waiting while the buffer is full (R400). -/
def execLoopGeneratorEntry (core ctx : Nat) (s : State) : Host.Outcome State Fault Refusal :=
  let loops := (s.core core).eng.loops
  match loops.find? fun l => l.env.ctx == ctx && !l.left.isEmpty with
  | none => .next s
  | some l => match l.left with
    | [] => .next s
    | t :: r =>
      if 64 ≤ (s.core core).eng.buf.length then .next (s.schedule (s.after 1) (.loopGeneratorEntry core ctx))
      else
        let upd := (loops.map fun m => if m == l then { m with left := r } else m).filter fun m => !m.left.isEmpty
        let s1 := (s.modCore core fun c => { c with eng := { c.eng with loops := upd } }).enterTransfer core t
        .next (if r.isEmpty then s1 else s1.schedule (s.after 1) (.loopGeneratorEntry core ctx))

/-- XLOOP arms the loop generator (R400). -/
def execXloop (o : Op) (s : State) : Host.Outcome State Fault Refusal :=
  match s.top o with
  | none => .next s
  | some e =>
    let n := s.scalar o e.1 e.2 o.selA 7
    let ws := s.run o e.1 e.2 o.selB 8
    let w (i : Nat) : Word := (ws[i]?).getD 0
    let good := 1 ≤ n && n ≤ 65535 && (ws.drop 3).all (· == 0)
    let traps := s.srcTraps o (o.legalV 0x123 0 && o.ext.isNone && o.elems == 8) [(o.selA, 1), (o.selB, 8)] ++ s.illegalUnless o good
    if traps.isEmpty && s.loopOn s.myCore (s.engEnv s.myCore s.myCtxNo) then .next (s.holdFor .xferWait)
    else .next (runOp o.slot traps (fun s => s.modMe fun c => { c with eng := { c.eng with arming := some ⟨n, w 0, w 1, w 2⟩ } }) s)

/-- XSTAT: DONE of a channel (R401). -/
def execXstat (o : Op) (s : State) : Host.Outcome State Fault Refusal :=
  let d := o.dest.toNat
  let ok := o.legalV 0x124 7 && o.ext.isNone && destOk o.slot d 1
  let v := word64 (s.me.chan (o.mod.extractLsb' 0 3).toNat).done
  .next (runOp o.slot (s.illegalUnless o ok ++ s.copyTraps o d 1)
    (fun s => s.land o .reg d 1 4 (s.perLane o fun _ _ => [v]) 0 [] []) s)

/-- WAITID holds the group until the identifier is at or below DONE (R401). -/
def execWaitid (o : Op) (s : State) : Host.Outcome State Fault Refusal :=
  match s.top o with
  | none => .next s
  | some e =>
    let ch := s.me.chan (o.mod.extractLsb' 0 3).toNat
    let id := s.scalar o e.1 e.2 o.selA 7
    let traps := s.srcTraps o (o.legalV 0x125 0 && o.ext.isNone) [(o.selA, 1)] ++ s.illegalUnless o (!ch.notIssued id)
    if traps.isEmpty && !ch.below id then .next (s.holdFor .xferWait) else .next (runOp o.slot traps (fun s => s) s)

/-! ### The copy engine runs (R399) -/

/-- The next transfer of the buffer: the earliest TIME that has come, then the earliest entry. -/
def nextTransfer (gtc : Nat) (l : List Transfer) : Option Transfer :=
  (l.filter fun t => t.time ≤ gtc && t.fault.isNone && t.bad.isNone).foldl (fun best t => match best with
    | none => some t
    | some b => if t.time < b.time then some t else best) none

/-- A transfer's place in the buffer or among the loops is named by its workgroup, channel and identifier. -/
def Transfer.is (t : Transfer) (e : EngEnv) (chan id : Nat) : Bool := t.env.same e && t.chan == chan && t.id == id

/-- TRANSFER_START: the engine takes its next transfer when it is free. How long it runs beyond its 64 B a cycle is free
(DESIGN CHOICE, log 4). -/
def execTransferStart (core : Nat) (s : State) : Host.Outcome State Fault Refusal :=
  let eng := (s.core core).eng
  if eng.running.isSome then .next s
  else match nextTransfer s.gtc eng.buf with
    | none => .next s
    | some t =>
      let (n, s1) := s.draw1
      let left := (t.height - t.row) * t.width
      let ends := s1.after ((left + 63) / 64 + n % 64)
      .next ((s1.modCore core fun c => { c with eng := { c.eng with
        buf := c.eng.buf.filter fun u => !u.is t.env t.chan t.id
        running := some { t with ends := ends } } }).schedule ends (.transferComplete core))

/-- A remote write goes out over LFL; when its device acknowledges it is free (R204; DESIGN CHOICE, log 36). -/
def State.sendRemote (s : State) (k dev at_ : Nat) (bs : List Byte) : State :=
  let (n, s) := s.draw1
  { s with fabric := { s.fabric with
      tx := s.fabric.tx ++ [(dev, at_ :: bs.map (·.toNat))]
      unacked := (s.fabric.unacked.filter fun e => s.now < e.2.2) ++ [(k, dev, s.now + tickTime (1 + n))] } }

/-- Copies rows from `row` on, at most n: each is read completely before any of it is written. -/
def copyRows : Nat → Transfer → State → Transfer × State
  | 0, t, s => (t, s)
  | n + 1, t, s =>
    if t.height ≤ t.row then (t, s)
    else
      let src := rowPtr t.src t.spitch t.row
      let dst := rowPtr t.dst t.dpitch t.row
      match s.engRead t.env src t.width with
      | (.fault va lv wr, s1) => ({ t with fault := some { seg := ptrSeg src, addr := va, write := wr, level := lv, walking := false } }, s1)
      | (.bad a, s1) => ({ t with bad := some a }, s1)
      | (.ok bs, s1) =>
        if t.shadow then
          copyRows n { t with row := t.row + 1 } (s1.onSeat t.env fun k x s => s.modCtx k x fun c =>
            c.modChan t.chan (·.shadowWrite t.id (none, dst.toNat, bs)))
        else match t.rmt with
          | some dev => copyRows n { t with row := t.row + 1 } (s1.sendRemote t.env.core dev dst.toNat bs)
          | none => match s1.engWrite t.env dst bs with
            | (.ok _, s2) => copyRows n { t with row := t.row + 1 } s2
            | (.fault va lv wr, s2) => ({ t with fault := some { seg := ptrSeg dst, addr := va, write := wr, level := lv, walking := false } }, s2)
            | (.bad a, s2) => ({ t with bad := some a }, s2)

/-- Writes of the engine of a core that have not been performed. -/
def State.engPending (s : State) (k : Nat) : Bool :=
  let own (o : List (Nat × Nat × Nat)) : Bool := o.any fun e => e.1 == k && e.2.1 == engCtx
  s.phys.lines.any fun l => l.2.waiting.any fun w => own w.owners

/-- The write-combining entries of the engine of a core are sent. -/
def State.engFlush (s : State) (k : Nat) : State :=
  let mine := (s.cluster (clusterOf k)).wcb.filter fun e => e.2.owners.any fun o => o.1 == k && o.2.1 == engCtx
  mine.foldl (fun s e => s.sendWcb (clusterOf k) e.1) s

/-- The engine is free again. -/
def State.freeEngine (s : State) (k : Nat) : State :=
  (s.modCore k fun c => { c with eng := { c.eng with running := none } }).schedule s.now (.transferStart k)

def State.setRunning (s : State) (k : Nat) (t : Transfer) : State :=
  s.modCore k fun c => { c with eng := { c.eng with running := some t } }

/-- Whether a pod device takes a transfer: a port is up, the device is not lost, and its firmware has bound the sender,
which is the other device's affair and so free (R399; DESIGN CHOICE, log 4) (DESIGN CHOICE, log 36). -/
def State.podTakes (s : State) (dev : Nat) : Bool × State :=
  let (n, s) := s.draw1
  ((s.fabric.ports.any fun p => p.2.up) && !s.fabric.lostDevices.contains dev && n % 2 == 0, s)

/-- TRANSFER_COMPLETE: the rows are copied (DESIGN CHOICE, log 21), and the transfer completes when its writes have been performed, one of
scope thr, grp or wg as at core scope (R204, R214). -/
def execTransferComplete (core : Nat) (s : State) : Host.Outcome State Fault Refusal :=
  match (s.core core).eng.running with
  | none => .next s
  | some t =>
    if s.now < t.ends || t.bad.isSome then .next s
    else
      let (takes, s0) := match t.rmt with
        | some dev => s.podTakes dev
        | none => (true, s)
      if !takes then
        .next ((s0.setRunning core { t with bad := some (t.env.va t.dst) }).schedule s.now (.transferFault core))
      else
        let (u, s1) := copyRows (t.height - t.row) t s0
        let s2 := s1.engFlush core
        match u.fault, u.bad with
        | some f, _ =>
          let s3 := s2.modCore core fun c => { c with eng := { c.eng with running := none, buf := c.eng.buf ++ [u] } }
          .next ((s3.engineFault u.env u.thread f u.at_).schedule s.now (.transferStart core))
        | none, some _ => .next ((s2.setRunning core u).schedule s.now (.transferFault core))
        | none, none =>
          if s2.engPending core then
            let at_ := tickTime (s.gtc + 1)
            .next ((s2.setRunning core { u with ends := at_ }).schedule at_ (.transferComplete core))
          else .next ((s2.endOp u.env u.chan u.id true (some (1, 0))).freeEngine core)

/-- TRANSFER_FAULT: a transfer that failed ends with XFER_FAULT and a KIND 2 record (R399). -/
def execTransferFault (core : Nat) (s : State) : Host.Outcome State Fault Refusal :=
  let eng := (s.core core).eng
  let lost (s : State) (t : Transfer) : State :=
    (s.endOp t.env t.chan t.id false (some (2, 0))).engineTrap t.env t.thread ⟨.xferFault, t.chan, t.bad.getD 0⟩ t.at_
  match eng.running, eng.buf.find? fun t => t.bad.isSome with
  | some t, b =>
    if t.bad.isSome then .next ((lost s t).freeEngine core)
    else match b with
      | some u => .next (lost (s.modCore core fun c => { c with eng := { c.eng with buf := c.eng.buf.filter (· != u) } }) u)
      | none => .next s
  | none, some u => .next (lost (s.modCore core fun c => { c with eng := { c.eng with buf := c.eng.buf.filter (· != u) } }) u)
  | none, none => .next s

/-- What a running transfer has moved by now, to the next 128 B boundary, is written in place (R402). -/
def State.stopRunning (s : State) (k : Nat) (t : Transfer) : State :=
  let total := (t.height - t.row) * t.width
  let ran := (total + 63) / 64 * cycleLen - (t.ends - s.now)
  let moved := Nat.min total ((ran / cycleLen * 64 + 127) / 128 * 128)
  if t.shadow || t.rmt.isSome then s
  else
    let rows := moved / t.width
    let (u, s1) := copyRows rows { t with height := t.row + rows } s
    let s2 := if moved % t.width = 0 || u.fault.isSome || u.bad.isSome then s1
      else (copyRows 1 { u with height := u.row + 1, width := moved % t.width } s1).2
    s2.engFlush k

/-- XCANCEL (R402). -/
def execXcancel (o : Op) (s : State) : Host.Outcome State Fault Refusal :=
  let k := s.myCore
  match s.top o with
  | none => .next s
  | some e =>
    let chan := (o.mod.extractLsb' 0 3).toNat
    let id := s.scalar o e.1 e.2 o.selA 7
    let env := s.engEnv k s.myCtxNo
    let traps := s.srcTraps o (o.legalV 0x102 0 && o.ext.isNone) [(o.selA, 1)] ++
      s.illegalUnless o (!(s.me.chan chan).notIssued id)
    .next (runOp o.slot traps (fun s =>
      let homes := s.cores.filter fun c => c.2.eng.buf.any (·.is env chan id) || c.2.eng.loops.any fun l => l.left.any (·.is env chan id)
      match homes with
      | c :: _ =>
        (s.modCore c.1 fun n => { n with eng := { n.eng with
          buf := n.eng.buf.filter fun t => !t.is env chan id
          loops := n.eng.loops.map fun l => { l with left := l.left.filter fun t => !t.is env chan id } } }).endOp env chan id false none
      | [] => match s.cores.find? fun c => c.2.eng.running.any (·.is env chan id) with
        | some (j, n) => match n.eng.running with
          | some t => ((s.stopRunning j t).endOp env chan id false none).freeEngine j
          | none => s
        | none => s) s)

/-! ### PUBLISH (R215, R364) -/

/-- No L1 holds the lines any more. -/
def State.dropLines (s : State) (ls : List Nat) : State :=
  { s with cores := s.cores.map fun c => (c.1, { c.2 with l1 := c.2.l1.filter fun e => !ls.contains e.1 }) }

/-- Bytes of a line become visible to every observer at once: the home slice takes them, and no L1 keeps the line
(DESIGN CHOICE, log 22). -/
def State.publishLine (s : State) (k x t : Nat) (p : PPiece) (bs : List Byte) : State :=
  let l := p.pa / 128
  (s.performWrite l { bytes := bytesAt p.pa bs, key := p.key, owners := [(k, x, t)] }).dropLines [l]

/-- The pieces of a shadow run reach their target. -/
def State.publishAcc (s : State) (k x : Nat) (a : Acc) (bs : List Byte) : State :=
  a.pieces.foldl (fun s pc =>
    let part := (bs.drop (pc.1 - a.off)).take pc.2
    match s.spotOf (s.ctx k x) a pc.1 with
    | .virt va => match s.physPiece (s.spaceOf k x) va pc.2 .store with
      | (some p, s1) => match regionOf p.pa with
        | .pillar _ => s1.publishLine k x a.t p part
        | _ => s1.storeLine k x a.t p.key p.rm (p.pa / 128) (bytesAt p.pa part)
      | (none, s1) => s1
    | _ => s.storeAcc k x { a with off := pc.1, n := pc.2 } part) s

/-- The workgroup of a logical core of a cohort. -/
def Wg.peer (w : Wg) (lg : Nat) : Wg := { w with logical := lg }

/-- The shadow's runs reach their targets at one instant. -/
def State.publishWrites (s : State) (k x t : Nat) (ws : List (Option Nat × Nat × List Byte)) : State :=
  let wg := (s.ctx k x).wg
  ws.foldl (fun s w => match w.1 with
    | none => s.publishAcc k x (Acc.ofPtr 0 t (word64 w.2.1) w.2.2.length) w.2.2
    | some lg => (s.engOwn (s.seatOf k (wg.map (·.peer lg))) 2 w.2.1 w.2.2.length (some w.2.2)).2) s

/-- PUBLISH: a release at its scope, and a complete shadow becomes its target's contents (R364). -/
def execPublish (o : Op) (s : State) : Host.Outcome State Fault Refusal :=
  let k := s.myCore
  let x := s.myCtxNo
  match s.top o with
  | none => .next s
  | some e =>
    let scope := (o.mod.extractLsb' 4 4).toNat
    let chan := (o.mod.extractLsb' 0 3).toNat
    let id := s.scalar o e.1 e.2 o.selA 7
    let ch := s.me.chan chan
    let op := tget ch.ops id
    let first := s.srcTraps o (o.legalV 0x103 0 && o.ext.isNone) [(o.selA, 1)] ++ s.illegalUnless o (!ch.notIssued id)
    let failed := op.any fun p => p.state == .failed
    let traps := first ++ if first.isEmpty && failed then (s.active o).map fun a => (a.2, ⟨.xferFault, chan, 0⟩) else []
    let shadow := op.any (·.shadow)
    let run := match op with
      | some p => if p.shadow && p.state == .done then p.writes else []
      | none => []
    let accs := run.filterMap fun w => if w.1.isNone then some (Acc.ofPtr 0 e.2 (word64 w.2.1) w.2.2.length) else none
    let pf := if traps.isEmpty then s.accFaults k x .store accs else []
    let started := if traps.isEmpty then s.releaseStart k x e.2 scope else s
    if traps.isEmpty && shadow && (op.any fun p => p.state == .active) then .next (s.holdFor .xferWait)
    else if !pf.isEmpty then .next (s.pageFaults k x pf)
    else if traps.isEmpty && !(started.releaseReady k x (if run.isEmpty then scope else Nat.max 3 scope)) then .next (started.holdFor .lookahead)
    else .next (runOp o.slot traps (fun s =>
      let s1 := s.publishWrites k x e.2 run
      (s1.releaseDone k x scope).modMe fun c => c.modChan chan fun h => { h with
        ops := match tget h.ops id with
          | some p => if p.shadow then tset h.ops id { p with state := .published, writes := [] } else h.ops
          | none => h.ops }) started)

/-! ### STKCPY (R384, R385) -/

/-- PRIV for a user issue of CTL 0x80-0x84 (R254, R299). -/
def State.privTraps (s : State) (o : Op) (code : Nat) : List (Nat × Trap) :=
  if s.isFw then [] else (s.active o).map fun e => (e.2, ⟨.priv, 1, code⟩)

/-- The checks of R385. -/
def State.stkcpyTrap (s : State) (k : Nat) (d : List Word) : Option Trap :=
  let w (i : Nat) : Nat := ((d[i]?).getD 0).toNat
  let spare := s.spareOf k
  let bad (off len : Nat) : Bool := (bankSpan off len).any fun b => s.bankRegion k b spare == .hole
  if 2 ^ 10 ≤ w 0 || 2 ^ 30 ≤ w 1 || 2 ^ 30 ≤ w 2 || 2 ^ 31 ≤ w 3 || 2 ^ 18 ≤ w 4 || w 5 != 0 || w 6 != 0 || w 7 != 0 ||
      w 1 % 8 != 0 || w 2 % 8 != 0 || w 3 % 8 != 0 || w 3 < 8 || 2 ^ 30 < w 3 then some ⟨.illegalOp, 0, 0⟩
  else if 2 ^ 30 < w 1 + w 3 || 2 ^ 30 < w 2 + w 3 || (w 1 < w 2 + w 3 && w 2 < w 1 + w 3) then some ⟨.illegalOp, 0, 0⟩
  else if w 0 != k || bad (w 1) (w 3) || bad (w 2) (w 3) then some ⟨.accessViolation, 6, w 1⟩
  else none

/-- STKCPY: its reads follow the issuing thread's earlier writes at mem scope, so it waits for those (R213). -/
def execStkcpy (o : Op) (s : State) : Host.Outcome State Fault Refusal :=
  let k := s.myCore
  let d := o.dest.toNat
  let chan := (o.mod.extractLsb' 0 3).toNat
  let priv := s.privTraps o 0x84
  match s.top o with
  | none => .next (s.landZero o 1 2)
  | some e =>
    let ws := s.run o e.1 e.2 o.selA 8
    let w (i : Nat) : Nat := ((ws[i]?).getD 0).toNat
    let ok := o.legalV 0x184 7 && o.ext.isNone && o.elems == 8 && destOk o.slot d 1
    let first := if priv.isEmpty then s.srcTraps o ok [(o.selA, 8)] ++ s.copyTraps o d 1 else priv
    let traps := first ++ if first.isEmpty then (s.stkcpyTrap k ws).toList.flatMap fun tr => (s.active o).map fun a => (a.2, tr) else []
    let ch := s.me.chan chan
    let started := if traps.isEmpty then s.releaseStart k s.myCtxNo e.2 8 else s
    if traps.isEmpty && ch.full 1 then .next (s.holdFor .xferWait)
    else if traps.isEmpty && !started.releaseReady k s.myCtxNo 8 then .next (started.holdFor .lookahead)
    else .next (runOp o.slot traps (fun s =>
      let id := (ch.next + 1) % 2 ^ 32
      let s1 := s.flushIdle.modMe fun c => c.modChan chan (·.take 8 false)
      let job : StkJob := ⟨chan, id, w 1, w 2, w 3, w 4 % 512, w 4 / 512, s.me.pc, none⟩
      let s2 := s1.modHome fun c => { c with eng := { c.eng with stk := c.eng.stk ++ [job] } }
      (((s2.stkBegin k).stkReady k)).land o .reg d 1 2 (s.perLane o fun _ _ => [word64 id]) 0 [] []) started)

/-- Bytes into a pillar by the fathom bus: the versions of their lines advance, and no L1 keeps them (R213). -/
def State.putPillar (s : State) (key : Nat) (bs : List (Nat × Byte)) : State :=
  let ls := nodup (bs.map (·.1 / 128))
  let s1 := ls.foldl (fun s l => s.modLine l fun n => { n with version := (n.version + 1) % 2 ^ 32 }) (s.modPhys fun p => p.putDram (some key) bs)
  s1.dropLines ls

/-- The bytes of a STKCPY line by line, up to the first uncorrectable source line (R213, R385). -/
def stkCopy (k skey dkey : Nat) (src dst : Nat) : Nat → Nat → State → Option Nat × State
  | 0, _, s => (none, s)
  | f + 1, left, s =>
    if left = 0 then (none, s)
    else
      let n := Nat.min left (128 - src % 128)
      let pa := k * 2 ^ 30 + src
      if s.uncorrectable pa then (some (pa / 128 * 128), s)
      else
        let bs := (List.range n).map fun i => s.phys.dramByte (some skey) (pa + i)
        stkCopy k skey dkey (src + n) (dst + n) f (left - n) (s.putPillar dkey (bytesAt (k * 2 ^ 30 + dst) bs))

/-- STKCPY_COMPLETE: the pillar holds the copy, the banks close, DONE advances and a KIND 4 record is written (R385) (DEDUCED, log 38). -/
def execStkcpyComplete (core : Nat) (s : State) : Host.Outcome State Fault Refusal :=
  match (s.core core).eng.stk with
  | [] => .next s
  | j :: r =>
    if !(j.ends.any fun t => t ≤ s.now) then .next s
    else
      let env := s.engEnv core 4
      let (bad, s1) := stkCopy core (s.keyOf j.skey) (s.keyOf j.dkey) j.src j.dst (j.len / 8 + 1) j.len s
      let s2 := j.banks.foldl (fun s b =>
        if (s.bank core b).stk then (s.modBank core b fun n => { n with stk := false, stkWaits := false }).closeRow core b
        else s.modBank core b fun n => { n with stkWaits := false }) s1
      let s3 := (s2.modCore core fun c => { c with eng := { c.eng with stk := r } }).stkBegin core
      match bad with
      | some pa => .next ((s3.endOp { env with wg := none } j.chan j.id false none).engineTrap { env with wg := none } 0 ⟨.memUncorrectable, 0, pa⟩ j.at_)
      | none => .next (s3.endOp { env with wg := none } j.chan j.id true (some (4, 0)))

end Sys2Proof.Machine
end

