-- ==== Sys2Proof/Machine/Collective.lean ====
section
/-! DEFINITION. The collectives MCAST and REDGRP (R350-R356) and the circuits SENDC and RECVC (R230-R236, R365, R374). -/

namespace Sys2Proof.Machine

/-! ### Cohorts -/

/-- The number of logical cores of a context's cohort; none for the firmware slot. -/
def State.cohortSize (s : State) (c : Ctx) : Nat := ((s.cohortOf c).map fun h => h.rows * h.cols).getD 0

def State.modCohort (s : State) (n : Nat) (f : Cohort → Cohort) : State :=
  match tget s.cohorts n with
  | some h => { s with cohorts := tset s.cohorts n (f h) }
  | none => s

/-- A logical core's workgroup, as an engine stream names it. -/
def Cohort.peer (h : Cohort) (n lg : Nat) : Wg := ⟨h.launch, 0, n, lg, 0, 0, 0, 0, false, true⟩

def State.peerSeat (s : State) (cohort lg : Nat) : Seat :=
  match tget s.cohorts cohort with
  | some h => s.seatOf 0 (some (h.peer cohort lg))
  | none => .gone

/-! ### Descriptors (R351) -/

structure CollDesc where
  src : Word
  dst : Word
  len : Nat
  ety : Nat
  chan : Nat
  group : Nat
  tmask : Nat
deriving DecidableEq, Repr

def collDesc (redgrp : Bool) (ws : List Word) : CollDesc :=
  let w (i : Nat) : Word := (ws[i]?).getD 0
  let n := ((w 2).extractLsb' 0 16).toNat + 1
  let ety := ((w 2).extractLsb' 16 5).toNat
  ⟨w 0, w 1, if redgrp then n * tyBytes ety else 8 * n, if redgrp then ety else 0, ((w 3).extractLsb' 24 3).toNat,
    ((w 3).extractLsb' 16 4).toNat, ((w 3).extractLsb' 0 12).toNat⟩

/-- The first check of R352: zero fields, TMASK, and REDGRP's type and function. `lg` is the issuer. -/
def collDescOk (redgrp : Bool) (fn lg : Nat) (ws : List Word) : Bool :=
  let d := collDesc redgrp ws
  let w (i : Nat) : Word := (ws[i]?).getD 0
  (w 2).toNat < (if redgrp then 2 ^ 21 else 2 ^ 16) && (w 3).toNat < 2 ^ 27 && (w 3).extractLsb' 20 4 == 0#4 &&
    (w 3).extractLsb' 12 4 == 0#4 && d.tmask != 0 &&
    (!redgrp || ([3, 4, 7, 8, 11, 12].contains d.ety && (isInt d.ety || fn < 3) && d.tmask / 2 ^ lg % 2 == 1))

/-- The other checks of R352 (DEDUCED, log 35). -/
def State.collTrap (s : State) (c : Ctx) (t : Nat) (d : CollDesc) : Option Trap :=
  let n := s.cohortSize c
  let src := Acc.ofPtr 0 t d.src d.len
  let dst := Acc.ofPtr 0 t d.dst d.len
  if 2 ^ n ≤ d.tmask then some ⟨.mcastTarget, 0, (firstNat (fun i => n ≤ i && d.tmask / 2 ^ i % 2 == 1) 12 0).getD 0⟩
  else if src.seg = 1 then some ⟨.accessViolation, 1, c.addrOf src src.off⟩
  else match s.segCheck c .load 8 src with
    | some tr => some tr
    | none =>
      if dst.seg != 2 then some ⟨.accessViolation, dst.seg, c.addrOf dst dst.off⟩
      else if c.limit 2 < dst.off + d.len then some ⟨.segLimit, 2, dst.off⟩
      else none

def maskOf (l : List Nat) : Nat := l.foldl (fun m i => m + 2 ^ i) 0

/-! ### Group identifiers (R354, R356) -/

def State.groupUse (s : State) (cohort g : Nat) : Option GroupUse := (tget s.cohorts cohort).bind fun h => tget h.groups g

def State.setUse (s : State) (cohort g : Nat) (u : GroupUse) : State :=
  s.modCohort cohort fun h => { h with groups := tset h.groups g u }

def State.dropUse (s : State) (cohort g : Nat) : State :=
  s.modCohort cohort fun h => { h with groups := tdel h.groups g }

/-- The result of a REDGRP is due when its members are complete. -/
def State.redgrpCheck (s : State) (cohort g : Nat) : State :=
  match s.groupUse cohort g with
  | some u => if u.redgrp && u.complete then s.message (.redgrpResult cohort g) else s
  | none => s

/-- The deliveries of an MCAST start: each at a time of its own (R353). -/
def State.mcastSend (s : State) (cohort g : Nat) (u : GroupUse) : State :=
  u.left.foldl (fun s t => s.message (.mcastDelivery cohort g t)) s

/-- A collective's stream ends by a fault: XFER_FAULT, late, and a KIND 2 record (R355). -/
def State.collLost (s : State) (cohort g : Nat) (i : Issuer) (addr : Nat) : State :=
  let s1 := (s.endOp i.env i.chan i.id false (some (2, 0))).engineTrap i.env i.thread ⟨.xferFault, i.chan, addr⟩ i.at_
  match s1.groupUse cohort g with
  | some u =>
    if u.redgrp && u.result.isSome then s1
    else if u.redgrp then
      (s1.setUse cohort g { u with issuers := u.issuers.filter fun j => j.lg != i.lg, dropped := nodup (u.dropped ++ [i.lg]) }).redgrpCheck cohort g
    else s1.dropUse cohort g
  | none => s1

/-- An issuer's stream reads its source; a page fault stalls only the stream (R184, R353). -/
def State.collRead (s : State) (cohort g lg : Nat) : State :=
  match s.groupUse cohort g with
  | none => s
  | some u => match u.issuers.find? fun i => i.lg == lg with
    | none => s
    | some i =>
      let put (s : State) (j : Issuer) : State :=
        s.setUse cohort g { u with issuers := u.issuers.map fun k => if k.lg == lg then j else k }
      match s.engRead i.env i.src u.len with
      | (.ok bs, s1) =>
        let s2 := put s1 { i with bytes := some bs, fault := none }
        if u.redgrp then s2.redgrpCheck cohort g else s2.mcastSend cohort g u
      | (.fault va lv wr, s1) =>
        let f : FaultHold := { seg := ptrSeg i.src, addr := va, write := wr, level := lv, walking := false }
        (put s1 { i with fault := some f }).engineFault i.env i.thread f i.at_
      | (.bad a, s1) => s1.collLost cohort g i a

/-! ### The instructions -/

/-- MCAST and REDGRP (R350-R356). -/
def collOp (redgrp : Bool) (o : Op) (s : State) : State :=
  let k := s.myCore
  let x := s.myCtxNo
  let scope := (o.mod.extractLsb' 4 4).toNat
  let shadow := o.mod.getLsbD 3
  let fn := if redgrp then (o.mod.extractLsb' 0 3).toNat else 0
  let opc := if redgrp then 0x105 else 0x104
  let lg := (s.me.wg.map (·.logical)).getD 0
  let cohort := (s.me.wg.map (·.cohort)).getD 0
  match s.top o with
  | none => s
  | some e =>
    let ws := s.run o e.1 e.2 o.selA 4
    let d := collDesc redgrp ws
    let first := s.srcTraps o (o.legalV opc 0 && o.ext.isNone && o.elems == 4) [(o.selA, 4)] ++
      s.illegalUnless o (collDescOk redgrp fn lg ws)
    let all (tr : Trap) : List (Nat × Trap) := (s.active o).map fun a => (a.2, tr)
    let checks := if first.isEmpty then (s.collTrap s.me e.2 d).toList.flatMap all else []
    let use := s.groupUse cohort d.group
    let joins := use.any fun u => redgrp && u.redgrp && u.tmask / 2 ^ lg % 2 == 1 && !u.dropped.contains lg && !(u.issuers.any (·.lg == lg))
    let differs := joins && use.any fun u => u.tmask != d.tmask || u.ety != d.ety || u.len != d.len || u.fn != fn
    let ch := s.me.chan d.chan
    if !(first ++ checks).isEmpty then runOp o.slot (first ++ checks) id s
    else if (use.isSome && !joins) || ch.full 1 then s.holdFor .xferWait
    else if differs then
      let s1 := match use with
        | some u => (s.setUse cohort d.group { u with dropped := nodup (u.dropped ++ [lg]) }).redgrpCheck cohort d.group
        | none => s
      runOp o.slot (all ⟨.xferFault, d.chan, 0⟩) id s1
    else runOp o.slot [] (fun s =>
      let s1 := s.releaseStart k x e.2 scope
      let id := (ch.next + 1) % 2 ^ 32
      let s2 := s1.modMe fun c => c.modChan d.chan (·.take scope shadow)
      let iss : Issuer := ⟨lg, s.engEnv k x, d.chan, id, e.2, s.me.pc, scope, shadow, d.src, ptrOff d.dst, none, none⟩
      let u0 := use.getD ⟨redgrp, d.tmask, d.len, d.ety, fn, [], [], if redgrp then [] else maskBits d.tmask, none⟩
      let gone := if redgrp then (maskBits d.tmask).filter fun m =>
          ((tget s.cohorts cohort).map (·.doneCores.contains m)).getD false && !(u0.issuers.any (·.lg == m)) else []
      let s3 := s2.setUse cohort d.group { u0 with issuers := u0.issuers ++ [iss], dropped := nodup (u0.dropped ++ gone) }
      s3.collRead cohort d.group lg) s

/-- MCAST. -/
def execMcast (o : Op) (s : State) : Host.Outcome State Fault Refusal := .next (collOp false o s)

/-- REDGRP. -/
def execRedgrp (o : Op) (s : State) : Host.Outcome State Fault Refusal := .next (collOp true o s)

/-! ### Deliveries (R353, R354) -/

/-- A delivery of an MCAST has been written, or dropped. -/
def State.delivered (s : State) (cohort g target : Nat) (dropped : Bool) : State :=
  match s.groupUse cohort g with
  | none => s
  | some u =>
    let v := { u with left := u.left.filter (· != target), dropped := if dropped then u.dropped ++ [target] else u.dropped }
    match v.left, u.issuers.head? with
    | [], some i => (s.dropUse cohort g).endOp i.env i.chan i.id true (some (3, maskOf v.dropped))
    | _, _ => s.setUse cohort g v

/-- Bytes of a collective reach a target's share, or the shadow of the issuer's operation (R353, R355). -/
def State.collWrite (s : State) (i : Issuer) (seat : Seat) (target : Nat) (bs : List Byte) : EngGot × State :=
  if i.shadow then
    (.ok [], s.onSeat i.env fun k x s => s.modCtx k x fun c => c.modChan i.chan (·.shadowWrite i.id (some target, i.dst, bs)))
  else s.engOwn seat 2 i.dst bs.length (some bs)

/-- A page fault at a target's share stalls the stream of the issuer, with a record of its thread (R184). -/
def State.collStall (s : State) (cohort g : Nat) (i : Issuer) (va level : Nat) (write : Bool) : State :=
  let f : FaultHold := { seg := 2, addr := va, write := write, level := level, walking := false }
  match s.groupUse cohort g with
  | some u => (s.setUse cohort g { u with issuers := u.issuers.map fun j => if j.lg == i.lg then { j with fault := some f } else j }).engineFault
      i.env i.thread f i.at_
  | none => s

/-- A collective whose stream goes on after a page fault: it reads its source, or it delivers what it has read. -/
def State.collResume (s : State) (cohort g lg : Nat) : State :=
  match s.groupUse cohort g with
  | none => s
  | some u =>
    if (u.issuers.find? fun i => i.lg == lg).any fun i => i.bytes.isSome then
      let v := { u with issuers := u.issuers.map fun i => if i.lg == lg then { i with fault := none } else i }
      let s1 := s.setUse cohort g v
      if u.redgrp then s1.message (.redgrpResult cohort g) else s1.mcastSend cohort g v
    else s.collRead cohort g lg

/-- MCAST_DELIVERY: into the target's share, into the inbox of a workgroup that is not running, or nowhere (R353) (DEDUCED, log 69). -/
def execMcastDelivery (cohort group target : Nat) (s : State) : Host.Outcome State Fault Refusal :=
  match s.groupUse cohort group with
  | none => .next s
  | some u => match u.issuers.head?, u.issuers.head?.bind (·.bytes) with
    | some i, some bs =>
      if u.redgrp || !u.left.contains target || i.fault.isSome then .next s
      else
        let seat := s.peerSeat cohort target
        let done := ((tget s.cohorts cohort).map (·.doneCores.contains target)).getD true
        let hold (k : Nat) : State := s.modCore k fun c => { c with
          inbox := if c.inbox.any fun b => b.cohort == cohort && b.group == group && b.logical == target then c.inbox
            else c.inbox ++ [⟨cohort, group, target, i.dst, bs⟩] }
        match seat with
        | .live _ _ => match s.collWrite i seat target bs with
          | (.ok _, s1) => .next (s1.delivered cohort group target false)
          | (.fault va lv wr, s1) => .next (s1.collStall cohort group i va lv wr)
          | (.bad a, s1) => .next (s1.collLost cohort group i a)
        | .saved k _ => .next (hold k)
        | .gone =>
          if done then .next (s.delivered cohort group target true)
          else .next (hold (((tget s.cohorts cohort).bind fun h => h.place[target]?).getD 0))
    | _, _ => .next s

/-- Data held for a workgroup is delivered before its first bundle (R353). -/
def State.openInbox (s : State) (k cohort logical : Nat) : State :=
  let mine := (s.core k).inbox.filter fun b => b.cohort == cohort && b.logical == logical
  let s1 := s.modCore k fun c => { c with inbox := c.inbox.filter fun b => !(b.cohort == cohort && b.logical == logical) }
  mine.foldl (fun s b => s.schedule s.now (.mcastDelivery cohort b.group logical)) s1

/-- One element of a fold (R354). -/
def redOne (fn ty a b : Nat) : Nat :=
  let pick (small : Bool) : Nat :=
    if isFloat ty then ((fmtOf ty).minmax (!small) a b).1
    else if (ofPat ty a ≤ ofPat ty b) == small then a else b
  match fn with
  | 0 => if isFloat ty then ((fmtOf ty).add 0 a b).1 else (a + b) % 2 ^ tyBits ty
  | 1 => pick true
  | 2 => pick false
  | 3 => a &&& b
  | 4 => a ||| b
  | _ => a ^^^ b

/-- The elements of a buffer. -/
def bufElems (size : Nat) : Nat → List Byte → List Nat
  | 0, _ => []
  | n + 1, bs => bytesToNat (bs.take size) :: bufElems size n (bs.drop size)

/-- The fold of the members' buffers in ascending logical order (R354). -/
def redFold (fn ty len : Nat) (bufs : List (List Byte)) : List Byte :=
  let size := tyBytes ty
  let n := len / Nat.max 1 size
  match bufs.map (bufElems size n) with
  | [] => []
  | b :: r => (r.foldl (fun acc c => (acc.zip c).map fun p => redOne fn ty p.1 p.2) b).flatMap fun v => natToBytes size v

/-- A member of a REDGRP whose result has been written leaves it; the use ends with the last. -/
def State.leaveUse (s : State) (cohort g lg : Nat) : State :=
  match s.groupUse cohort g with
  | some u =>
    let left := u.issuers.filter fun i => i.lg != lg
    if left.isEmpty then s.dropUse cohort g else s.setUse cohort g { u with issuers := left }
  | none => s

/-- REDGRP_RESULT: every contributing member's share takes the result, and its operation completes (R354). -/
def execRedgrpResult (cohort group : Nat) (s : State) : Host.Outcome State Fault Refusal :=
  match s.groupUse cohort group with
  | none => .next s
  | some u =>
    if !u.redgrp || (u.result.isNone && !u.complete) then .next s
    else
      let mem := sortBy (·.lg) (u.issuers.filter fun i => i.fault.isNone)
      let bs := u.result.getD (redFold u.fn u.ety u.len (mem.filterMap (·.bytes)))
      .next (mem.foldl (fun s i => match s.collWrite i (s.peerSeat cohort i.lg) i.lg bs with
        | (.ok _, s1) => (s1.endOp i.env i.chan i.id true (some (3, maskOf u.dropped))).leaveUse cohort group i.lg
        | (.fault va lv wr, s1) => s1.collStall cohort group i va lv wr
        | (.bad a, s1) => (s1.collLost cohort group i a).leaveUse cohort group i.lg) (s.setUse cohort group { u with result := some bs }))

/-! ### Circuits (R230-R236) -/

/-- The entry cycles of an ordered pair in the cohort's table. -/
def Cohort.slots (h : Cohort) (src dst : Nat) : List Nat := (h.table.filter fun e => e.1 == src && e.2.1 == dst).map (·.2.2)

/-- The physical distance between two logical cores of a cohort, in hops. -/
def Cohort.hops (h : Cohort) (src dst : Nat) : Nat :=
  let p := posOf ((h.place[src]?).getD 0)
  let q := posOf ((h.place[dst]?).getD 0)
  ((p / 4 : Nat) - (q / 4 : Nat) : Int).natAbs + ((p % 4 : Nat) - (q % 4 : Nat) : Int).natAbs

/-- The phase of a cohort's span at a time. -/
def Cohort.phase (h : Cohort) (now : Nat) : Nat := if h.span = 0 then 0 else (now - h.start) / cycleLen % h.span

/-- The credits of a pair: the times from which each may be used. -/
def Ctx.credits (c : Ctx) (dst : Nat) : List Nat := tgetD c.eng.credits dst [0, 0, 0, 0]

/-- Takes one usable credit. -/
def spendCredit (now : Nat) : List Nat → Option (List Nat)
  | [] => none
  | t :: r => if t ≤ now then some r else (spendCredit now r).map (t :: ·)

/-- SENDC: waits for its pair's slot with a credit in hand, then injects (R232, R374). -/
def execSendc (o : Op) (s : State) : Host.Outcome State Fault Refusal :=
  match s.top o with
  | none => .next s
  | some e =>
    let n := s.cohortSize s.me
    let lg := (s.me.wg.map (·.logical)).getD 0
    let cohort := (s.me.wg.map (·.cohort)).getD 0
    let dst := s.scalar o e.1 e.2 o.selA 7
    let first := s.srcTraps o (o.legalV 0x106 24 && o.ext.isNone && o.elems == 8) [(o.selA, 1), (o.selB, 8)] ++
      s.illegalUnless o (dst < n && dst != lg)
    let slot := (s.cohortOf s.me).any fun h => (h.slots lg dst).contains (h.phase s.now)
    let credit := spendCredit s.now (s.me.credits dst)
    if first.isEmpty && (!slot || credit.isNone) then .next (s.holdFor .circuitSlot)
    else .next (runOp o.slot first (fun s =>
      let ws := s.run o e.1 e.2 o.selB 8
      let at_ := s.after ((((s.cohortOf s.me).map fun h => h.hops lg dst).getD 0) + 24)
      let s1 := s.modMe fun c => { c with eng := { c.eng with credits := tset c.eng.credits dst (credit.getD []) } }
      (s1.modCohort cohort fun h => { h with flying := h.flying ++ [(lg, dst, at_, ws)] }).schedule at_ (.circuitArrival cohort lg dst)) s)

/-- A credit of a pair comes back to its sender, to be used from a time on (R232, R236). -/
def State.giveCredit (s : State) (cohort src dst from_ : Nat) : State :=
  (s.atSeat (s.peerSeat cohort src) () fun k x s => ((), s.modCtx k x fun c =>
    { c with eng := { c.eng with credits := tset c.eng.credits dst (c.credits dst ++ [from_]) } })).2

/-- The first result of a context that waits for a message of a sender. -/
def Ctx.recvWaiting (c : Ctx) (src : Nat) : Option Nat := c.inflight.findIdx? fun l => l.recv == some src

/-- A message that a RECVC awaited lands (R365). -/
def Landing.receive (now : Nat) (ws : List Word) (l : Landing) : Landing :=
  { l with recv := none, due := Nat.max l.due now, vals := l.vals.map fun v => (v.1, ws) }

/-- CIRCUIT_ARRIVAL: into the queue of the pair, or to the RECVC that waits, whose credit is usable 16 cycles after its issue; at a workgroup that has finished it is dropped
and its credit comes back (R232, R236) (DEDUCED, log 70). -/
def execCircuitArrival (cohort src dst : Nat) (s : State) : Host.Outcome State Fault Refusal :=
  match tget s.cohorts cohort with
  | none => .next s
  | some h => match h.flying.find? fun m => m.1 == src && m.2.1 == dst && m.2.2.1 ≤ s.now with
    | none => .next s
    | some m =>
      let ws := m.2.2.2
      let s1 := s.modCohort cohort fun h => { h with flying := h.flying.erase m }
      match s1.peerSeat cohort dst with
      | .gone => .next (s1.giveCredit cohort src dst (s.after 16))
      | seat =>
        let (waited, s2) := s1.atSeat seat (none : Option Nat) fun k x s =>
          match (s.ctx k x).recvWaiting src with
          | some i => ((((s.ctx k x).inflight[i]?).map fun l => l.due + 10 * cycleLen), s.modCtx k x fun c => { c with
              inflight := c.inflight.mapIdx fun j l => if j == i then l.receive s.now ws else l })
          | none => (none, s.modCtx k x fun c => { c with eng := { c.eng with rx := tset c.eng.rx src (tgetD c.eng.rx src [] ++ [ws]) } })
        .next (match waited with
          | some at_ => s2.giveCredit cohort src dst (Nat.max s.now at_)
          | none => s2)

/-- RECVC (R365). -/
def execRecvc (o : Op) (s : State) : Host.Outcome State Fault Refusal :=
  let d := o.dest.toNat
  match s.top o with
  | none => .next (s.landZero o 8 6)
  | some e =>
    let n := s.cohortSize s.me
    let lg := (s.me.wg.map (·.logical)).getD 0
    let cohort := (s.me.wg.map (·.cohort)).getD 0
    let src := s.scalar o e.1 e.2 o.selA 7
    let first := s.srcTraps o (o.legalV 0x107 24 && o.ext.isNone && o.elems == 8 && destOk o.slot d 8) [(o.selA, 1)] ++
      s.illegalUnless o (src < n && src != lg) ++ s.copyTraps o d 8
    .next (runOp o.slot first (fun s =>
      -- earlier waits for this sender come first
      match (if (s.me.recvWaiting src).isSome then [] else tgetD s.me.eng.rx src []) with
      | ws :: r =>
        let s1 := (s.land o .reg d 8 6 (s.perLane o fun _ _ => ws) 0 [] []).modMe fun c =>
          { c with eng := { c.eng with rx := tset c.eng.rx src r } }
        s1.giveCredit cohort src lg (s.after 16)
      | [] =>
        let n := s.me.inflight.length
        (s.land o .reg d 8 6 (s.perLane o fun _ _ => List.replicate 8 0) 0 [] []).modMe fun c =>
          { c with inflight := c.inflight.mapIdx fun i l => if n ≤ i then { l with recv := some src } else l }) s)

end Sys2Proof.Machine
end

