-- ==== Sys2Proof/Machine/Matrix.lean ====
section
/-! DEFINITION. The matrix engine: MMA with its arithmetic (R153, R155, R190-R192, R357), ACCLD, ACCST and ACCZ (R308-R310),
and OSLOAD (R361). -/

namespace Sys2Proof.Machine

/-! ### Tiles and slots -/

/-- A tile element; an unlisted element is zero (R187). -/
def Mtx.accAt (m : Mtx) (tile i j : Nat) : BitVec 32 := tgetD m.acc (tile * 32768 + 128 * i + j) 0

def Mtx.accPut (m : Mtx) (tile i j : Nat) (v : BitVec 32) : Mtx :=
  let n := tile * 32768 + 128 * i + j
  { m with acc := if v = 0 then tdel m.acc n else tset m.acc n v }

/-- Bytes of a slot from an offset, as one little-endian number. -/
def Mtx.slotNat (m : Mtx) (slot off n : Nat) : Nat :=
  bytesToNat ((List.range n).map fun i => cellAt m.opmem (slot * 16384 + off + i))

/-- An element of width w bits at a bit offset of a slot. -/
def Mtx.slotBits (m : Mtx) (slot bitOff w : Nat) : Nat := m.slotNat slot (bitOff / 8) 9 / 2 ^ (bitOff % 8) % 2 ^ w

/-- The rows that a lane owns (R192). -/
def laneRows (lane : Nat) : List Nat := (List.range 8).map fun n => lane + 32 * n

/-! ### Formats of MMA (R190, R191) -/

/-- Element width in bits, K, and latency on JXW-3 of a format. -/
def mmaFormat : Nat → Nat × Nat × Nat
  | 0 => (6, 64, 64)
  | 1 => (8, 64, 256)
  | 2 => (8, 64, 256)
  | 3 => (16, 32, 256)
  | 4 => (16, 32, 256)
  | _ => (32, 16, 512)

/-- A row of A and a column of B as element patterns (R191). -/
def Mtx.rowA (m : Mtx) (fmt slot i : Nat) : List Nat :=
  let (w, kk, _) := mmaFormat fmt
  (List.range kk).map fun k => m.slotBits slot (w * (kk * i + k)) w

def Mtx.colB (m : Mtx) (fmt slot j : Nat) : List Nat :=
  let (w, kk, _) := mmaFormat fmt
  (List.range kk).map fun k => m.slotBits slot (w * (128 * k + j)) w

/-- Groups of 16. -/
def groups16 {α : Type} : Nat → List α → List (List α)
  | 0, _ => []
  | n + 1, l => l.take 16 :: groups16 n (l.drop 16)

/-! ### L6 (R153) -/

/-- The sum of a group's products, in units of 2^-22; none when a code is NaN. -/
def l6Sum (ps : List (Nat × Nat)) : Option Int :=
  ps.foldl (fun acc p => match acc with
    | none => none
    | some v =>
      if p.1 = 0x20 || p.2 = 0x20 then none
      else if p.1 = 0 || p.2 = 0 then some v
      else
        let n := p.1 % 32 + p.2 % 32
        let t : Int := (l6T (n % 4) * 2 ^ (n / 4) : Nat)
        some (if bit p.1 5 != bit p.2 5 then v - t else v + t)) (some 0)

/-- The group's value as f32: the sum times T[σ mod 4] × 2^(⌊σ/4⌋ − 34), to nearest even. -/
def l6Group (ps : List (Nat × Nat)) (sigma : Int) : Nat :=
  match l6Sum ps with
  | none => f32.nan
  | some v => (f32.roundZ 0 (v < 0) (v.natAbs * l6T (sigma % 4).toNat) (sigma / 4 - 34)).1

/-! ### The other formats (R155) -/

/-- A subnormal f16 or bf16 input reads as a zero of its sign under FTZ (R151). -/
def mmaInput (fmt : Nat) (ftz : Bool) (v : Nat) : FVal :=
  let f := if fmt = 3 then fmtOf 10 else if fmt = 4 then fmtOf 9 else f32
  match f.val v with
  | .fin s m e => if ftz && fmt != 5 && v / 2 ^ (f.p - 1) % 2 ^ (f.width - f.p) = 0 then .fin s 0 e else .fin s m e
  | x => x

/-- An exact sum of two values; NaN for ∞ − ∞. -/
def sumV (rm : Nat) (a b : FVal) : FVal :=
  match a, b with
  | .nan x, _ => .nan x
  | _, .nan x => .nan x
  | .inf x, .inf y => if x = y then .inf x else .nan false
  | .inf x, _ => .inf x
  | _, .inf y => .inf y
  | .fin s1 m1 e1, .fin s2 m2 e2 => let (s, m, e) := exactAdd rm s1 m1 e1 s2 m2 e2; .fin s m e

/-- An exact product. -/
def prodV (a b : FVal) : FVal :=
  match a, b with
  | .nan x, _ => .nan x
  | _, .nan x => .nan x
  | x, y => (mulV x y).getD (.nan false)

/-- A value as f32 under a rounding mode. -/
def roundV (rm : Nat) : FVal → Nat
  | .nan _ => f32.nan
  | .inf s => f32.inf s
  | .fin s m e => (f32.roundZ rm s m e).1

/-- The group sum: exact, rounded once. -/
def floatGroup (fmt rm : Nat) (ftz : Bool) (ps : List (Nat × Nat)) : Nat :=
  match ps.map fun p => prodV (mmaInput fmt ftz p.1) (mmaInput fmt ftz p.2) with
  | [] => 0
  | x :: r => roundV rm (r.foldl (sumV rm) x)

/-- One level of the pairwise tree. -/
def pairUp (f : Nat → Nat → Nat) : List Nat → List Nat
  | a :: b :: r => f a b :: pairUp f r
  | l => l

/-- The pairwise tree of NBV 2. -/
def treeSum (f : Nat → Nat → Nat) : Nat → List Nat → Nat
  | 0, l => l.headD 0
  | n + 1, l => match l with
    | [] => 0
    | [a] => a
    | l => treeSum f n (pairUp f l)

/-- Group sums reach the element by NBV's order (R155). -/
def floatStep (nbv rm acc : Nat) (gs : List Nat) : Nat :=
  let add (a b : Nat) : Nat := (f32.add rm a b).1
  if nbv = 2 then add acc (treeSum add 4 gs) else gs.foldl add acc

/-! ### MMA (R192) -/

/-- The fields of a format word: FMT, ASLOT, BSLOT, ACC, Z; none when a zero field is nonzero or FMT is not assigned. -/
def mmaWord (w : Nat) : Option (Nat × Nat × Nat × Nat × Bool) :=
  if 2 ^ 29 ≤ w || w / 2 ^ 26 % 4 != 0 || w / 2 ^ 21 % 8 != 0 || w / 2 ^ 13 % 8 != 0 || w / 2 ^ 4 % 16 != 0 || 5 < w % 16 then none
  else some (w % 16, w / 2 ^ 8 % 32, w / 2 ^ 16 % 32, w / 2 ^ 24 % 4, bit w 28)

/-- One element of a K step. -/
def Mtx.mmaElem (m : Mtx) (fmt aslot bslot nbv rm : Nat) (ftz : Bool) (old i j : Nat) : Nat :=
  let ps := (m.rowA fmt aslot i).zip (m.colB fmt bslot j)
  let n := ps.length / 16
  if fmt = 0 then
    let sc (slot r g : Nat) : Int := signed 8 (m.slotNat slot (12288 + 4 * r + g) 1)
    ((groups16 n ps).zipIdx).foldl (fun acc g => (f32.add 0 acc (l6Group g.1 (sc aslot i g.2 + sc bslot j g.2))).1) old
  else if fmt = 1 then wrap 32 ((old : Int) + (ps.map fun p => signed 8 p.1 * signed 8 p.2).sum)
  else if fmt = 2 then (old + (ps.map fun p => p.1 * p.2).sum) % 2 ^ 32
  else floatStep nbv rm old ((groups16 n ps).map (floatGroup fmt rm ftz))

/-- The words that a source gives the lanes of ACTIVE disagree (FORMAT_DIVERGENCE). -/
def State.diverges (s : State) (o : Op) (sel w : Nat) : Bool := (s.active o).any fun e => s.scalar o e.1 e.2 sel 7 != w

/-- MMA (DEDUCED, log 23). -/
def execMma (o : Op) (s : State) : Host.Outcome State Fault Refusal :=
  let k := s.myCore
  let x := s.myCtxNo
  match s.top o with
  | none => .next s
  | some e =>
    let w := s.scalar o e.1 e.2 o.selA 7
    let (fmt, aslot, bslot, tile, z) := (mmaWord w).getD (0, 0, 0, 0, false)
    let first := mtxTraps 0x0A0 o s [o.selA]
    let traps :=
      if !first.isEmpty then first
      else if s.diverges o o.selA w then s.allTrap o .formatDivergence
      else if (mmaWord w).isNone then s.allTrap o .illegalOp
      else if !(s.holdsSlot k x aslot && s.holdsSlot k x bslot && s.holdsTile k x tile) then s.allTrap o .opslotFault
      else []
    if traps.isEmpty && s.now < (s.mtx k).arrayFree then .next (s.holdFor .lookahead)
    else if traps.isEmpty && s.conflicts k ⟨[aslot, bslot], []⟩ ⟨[], [tile]⟩ then .next (s.holdFor .opslotWait)
    else .next (runOp o.slot traps (fun s =>
      let m := s.mtx k
      let fp := s.me.regs.fpctl
      let nbv := ((s.partOfCore k).map (·.2.nbv)).getD 1
      let new := (s.active o).flatMap fun a => (laneRows a.1).flatMap fun i => (List.range 128).map fun j =>
        let old := if z then 0 else (m.accAt tile i j).toNat
        (i, j, m.mmaElem fmt aslot bslot nbv (fpRM fp) (fpFTZ fp) old i j)
      let ends := s.after ((mmaFormat fmt).2.2 * (if isWide k then 1 else 2))
      (s.modMtx k fun m => { new.foldl (fun m v => m.accPut tile v.1 v.2.1 (BitVec.ofNat 32 v.2.2)) m with arrayFree := ends }).addWork k
        { ctx := x, reads := ⟨[aslot, bslot], []⟩, writes := ⟨[], [tile]⟩, until_ := ends }) s)

/-! ### Engine streams (R184, R309, R361) -/

def EngMove.acc (m : EngMove) : Acc := ⟨m.lane, m.t, false, m.seg, m.off, m.n⟩

/-- Bytes that come into slots or tiles. -/
def Mtx.takeBytes (m : Mtx) (kind : MoveKind) (at_ : Nat) (bs : List Byte) : Mtx :=
  match kind with
  | .toSlot => { m with opmem := cellPuts m.opmem (bytesAt at_ bs) }
  | .toTile => (List.range (bs.length / 4)).foldl (fun m i =>
      let n := at_ + i
      m.accPut (n / 32768) (n % 32768 / 128) (n % 128) (BitVec.ofNat 32 (bytesToNat ((bs.drop (4 * i)).take 4)))) m
  | .toMem => m

/-- What a stream came to: all its moves done, a page fault with the moves left, or an uncorrectable line. -/
inductive Moved where
  | done
  | fault (t : Nat) (f : FaultHold) (left : List EngMove)
  | lost (t : Nat) (tr : Trap)
deriving DecidableEq, Repr

/-- Runs the moves of a stream in order. A store to T first makes the workgroup's copy of its granule (R60-R62). -/
def runMoves (k x : Nat) : List EngMove → State → Moved × State
  | [], s => (.done, s)
  | m :: r, s =>
    let write := m.kind == MoveKind.toMem
    match s.walkCheck k x (if write then .store else .load) m.acc, (if write then (s.copyFaults k x [m.acc]).head? else none) with
    | (some tr, _), _ => (.lost m.t tr, s)
    | (none, f :: _), _ =>
      (.fault m.t { seg := m.seg, addr := f.1, write := f.2.2, level := f.2.1, walking := false } (m :: r), s)
    | (none, []), some f => (.fault m.t (f.hold false {}) (m :: r), s)
    | (none, []), none =>
      if write then runMoves k x r ((s.copyFirst k x [m.acc]).storeAcc k x m.acc m.bytes)
      else
        let (g, s1) := (s.freshAcc k x m.acc).loadAcc k x m.acc none
        match g.poison with
        | some pa => (.lost m.t ⟨.memUncorrectable, 0, pa⟩, s1)
        | none =>
          let (bs, s2) := if g.host.isEmpty then (g.bytes, s1) else s1.freeBytes m.n
          runMoves k x r (s2.modMtx k (·.takeBytes m.kind m.at_ bs))

/-- A stream runs as engine work that lasts so many cycles: a page fault stalls it, an uncorrectable line ends it late (DEDUCED, log 68). -/
def State.runStream (s : State) (k x : Nat) (w : Work) (cycles : Nat) (ms : List EngMove) : State :=
  match runMoves k x ms s with
  | (.done, s1) => s1.addWork k { w with until_ := s1.after cycles, fault := none, todo := [] }
  | (.fault t f left, s1) =>
    let regs := (s1.ctx k x).regs
    ((s1.modMtx k fun m => { m with work := m.work ++
      [{ w with until_ := s1.now, fault := some (t, f), todo := left, segs := (regs.segBase, regs.segLim) }] })).engineFault
      (s1.engEnv k x) t f w.at_
  | (.lost t tr, s1) => s1.engineTrap (s1.engEnv k x) t tr w.at_

/-- Acts with the segment bases and limits of a context as they were (R165). -/
def State.underSegs (s : State) (k x : Nat) (segs : Tab Word × Tab Word) (f : State → State) : State :=
  let set (g : Tab Word × Tab Word) (s : State) : State :=
    s.modCtx k x fun c => { c with regs := { c.regs with segBase := g.1, segLim := g.2 } }
  let now := (s.ctx k x).regs
  set (now.segBase, now.segLim) (f (set segs s))

/-- The stream that waits for the answer to a thread's page fault goes on, under the segments it was issued with (R165, R183, R184). -/
def State.resumeWork (s : State) (k : Nat) (w : Work) : State :=
  (s.modMtx k fun m => { m with work := m.work.filter (· != w) }).underSegs k w.ctx w.segs fun s =>
    s.runStream k w.ctx w (w.todo.length * 2) w.todo

/-- A stream ends with ACCESS_VIOLATION after a failed replay (R310, R361). -/
def State.failWork (s : State) (k t : Nat) (w : Work) (f : FaultHold) : State :=
  (s.modMtx k fun m => { m with work := m.work.filter (· != w) }).engineTrap (s.engEnv k w.ctx) t
    ⟨.accessViolation, f.seg, f.addr⟩ w.at_

/-! ### ACCLD, ACCST and ACCZ (R308-R310) -/

/-- The rows of a lane in memory: one access of 512 bytes each. -/
def accRows (lane t : Nat) (p : Word) : List (Nat × Acc) :=
  (laneRows lane).map fun i => (i, Acc.ofPtr lane t (word64 (ptrAdd p.toNat (512 * (i : Int)))) 512)

/-- The traps of the three instructions before their accesses are checked. -/
def accTileTraps (opc : Nat) (o : Op) (sel : Nat) (srcs : List Nat) (s : State) : List (Nat × Trap) :=
  match s.top o with
  | none => []
  | some e =>
    let w := s.scalar o e.1 e.2 sel 7
    let first := mtxTraps opc o s srcs
    if !first.isEmpty then first
    else if s.diverges o sel w then s.allTrap o .formatDivergence
    else if 4 ≤ w then s.allTrap o .illegalOp
    else if !s.holdsTile s.myCore s.myCtxNo w then s.allTrap o .opslotFault
    else []

/-- ACCLD and ACCST. -/
def accMoveOp (store : Bool) (o : Op) (s : State) : State :=
  let k := s.myCore
  let x := s.myCtxNo
  match s.top o with
  | none => s
  | some e =>
    let tile := s.scalar o e.1 e.2 o.selB 7
    let first := accTileTraps (if store then 0x0A2 else 0x0A1) o o.selB [o.selA, o.selB] s
    let kind : AccessKind := if store then .store else .load
    let rows := (s.active o).flatMap fun a => accRows a.1 a.2 (s.word o a.1 a.2 o.selA)
    let badSeg := (s.active o).filterMap fun a =>
      let q := s.word o a.1 a.2 o.selA
      let sg := ptrSeg q
      if sg = 1 || sg = 6 || sg = 7 || (store && sg = 3) then
        some (a.2, (⟨.accessViolation, sg, s.me.addrOf (Acc.ofPtr a.1 a.2 q 4) (ptrOff q)⟩ : Trap)) else none
    let checks := if !first.isEmpty then [] else badSeg ++
      (s.accTraps k x kind 4 (rows.map (·.2))).filter fun t => !badSeg.any (·.1 == t.1)
    let traps := first ++ checks
    let set : OsSet := ⟨[], [tile]⟩
    if traps.isEmpty && s.conflicts k (if store then set else noSet) (if store then noSet else set) then s.holdFor .opslotWait
    else runOp o.slot traps (fun s =>
      let m := s.mtx k
      let moves : List EngMove := rows.map fun r =>
        let bs := if store then (List.range 128).flatMap fun j => natToBytes 4 (m.accAt tile r.1 j).toNat else []
        ⟨r.2.lane, r.2.t, r.2.seg, r.2.off, 512, if store then .toMem else .toTile, tile * 32768 + 128 * r.1, bs⟩
      let w : Work := { ctx := x, reads := if store then set else noSet, writes := if store then noSet else set, until_ := s.now, at_ := s.me.pc }
      s.runStream k x w (4 * rows.length) moves) s

/-- ACCLD. -/
def execAccld (o : Op) (s : State) : Host.Outcome State Fault Refusal := .next (accMoveOp false o s)

/-- ACCST. -/
def execAccst (o : Op) (s : State) : Host.Outcome State Fault Refusal := .next (accMoveOp true o s)

/-- ACCZ. -/
def execAccz (o : Op) (s : State) : Host.Outcome State Fault Refusal :=
  let k := s.myCore
  match s.top o with
  | none => .next s
  | some e =>
    let tile := s.scalar o e.1 e.2 o.selA 7
    let traps := accTileTraps 0x0A3 o o.selA [o.selA] s
    if traps.isEmpty && s.conflicts k noSet ⟨[], [tile]⟩ then .next (s.holdFor .opslotWait)
    else .next (runOp o.slot traps (fun s =>
      let rows := (s.active o).flatMap fun a => laneRows a.1
      let s1 := s.modMtx k fun m => { m with acc := m.acc.filter fun e => !(e.1 / 32768 == tile && rows.contains (e.1 % 32768 / 128)) }
      s1.addWork k { ctx := s.myCtxNo, reads := noSet, writes := ⟨[], [tile]⟩, until_ := s.after rows.length }) s)

/-! ### OSLOAD (R361) -/

/-- The moves of an OSLOAD: 128 bytes each. -/
def osMoves (lane t : Nat) (p : Word) (slot soff len : Nat) : List EngMove :=
  (List.range (len / 128)).map fun i =>
    ⟨lane, t, ptrSeg p, ptrOff p + 128 * i, 128, .toSlot, slot * 16384 + soff + 128 * i, []⟩

/-- OSLOAD. -/
def execOsload (o : Op) (s : State) : Host.Outcome State Fault Refusal :=
  let k := s.myCore
  let x := s.myCtxNo
  match s.top o with
  | none => .next s
  | some e =>
    let p := s.word o e.1 e.2 o.selA
    let w := s.scalar o e.1 e.2 o.selB 7
    let len := (w / 2 ^ 16 % 128 + 1) * 128
    let soff := w / 2 ^ 8 % 128 * 128
    let slot := w % 32
    let acc := Acc.ofPtr e.1 e.2 p len
    let first := mtxTraps 0x0A5 o s [o.selA, o.selB] ++
      s.illegalUnless o (w < 2 ^ 23 && w / 2 ^ 15 % 2 == 0 && w / 2 ^ 5 % 8 == 0 && soff + len ≤ 16384)
    let trap : List Trap :=
      if !first.isEmpty then []
      else if !s.holdsSlot k x slot then [⟨.opslotFault, 0, 0⟩]
      else if acc.seg = 1 then [⟨.accessViolation, 1, s.me.addrOf acc acc.off⟩]
      else ((s.accTraps k x .load 8 [acc]).map (·.2)).take 1
    let traps := first ++ trap.flatMap fun tr => (s.active o).map fun a => (a.2, tr)
    if traps.isEmpty && s.conflicts k noSet ⟨[slot], []⟩ then .next (s.holdFor .opslotWait)
    else .next (runOp o.slot traps (fun s =>
      let w : Work := { ctx := x, reads := noSet, writes := ⟨[slot], []⟩, until_ := s.now, at_ := s.me.pc }
      let (n, s1) := s.draw1
      s1.runStream k x w (len / 64 + n % 512) (osMoves e.1 e.2 p slot soff len)) s)

end Sys2Proof.Machine
end

