-- ==== Sys2Proof/Machine/System.lean ====
section
/-! DEFINITION. The privileged instructions SEGSET, TLBINV and TICKET (R165, R372, R389, R390), the answers of TRET (R262,
R393), and the replays of page faults (R183, R184). -/

namespace Sys2Proof.Machine

/-! ### SEGSET (R165, R372) -/

/-- The stash ranges of the other resident contexts of a core: first byte and length. -/
def Core.shares (c : Core) (x : Nat) : List (Nat × Nat) :=
  (c.ctxs.filter fun e => e.1 != x && e.1 < 4 && e.2.state == .active).map fun e => (e.2.mem.shareBase, e.2.mem.shareLen + e.2.mem.pool)

/-- A range of stash bytes is free of the given ranges. -/
def rangeFree (rs : List (Nat × Nat)) (base len : Nat) : Bool := rs.all fun r => base + len ≤ r.1 || r.1 + r.2 ≤ base || r.2 = 0 || len = 0

/-- A base and limit are legal for a segment (R165, R372). -/
def segsetOk (k seg base lim : Nat) (shares : List (Nat × Nat)) (active : Bool) : Bool :=
  base % 256 == 0 && base + lim ≤ 2 ^ 60 &&
    (seg != 2 || (base + lim ≤ stashCap k && rangeFree shares base lim && !active)) &&
    (seg != 6 || (base / 2 ^ 50 < 576 && lim % 2048 == 0 && base / 2 ^ 11 % 2 ^ 19 * 2 ^ 11 + lim ≤ 2 ^ 30))

/-- The base as the register holds it: the zero bits of R163 and R194 read 0 (DEDUCED, log 40). -/
def segImage (seg : Nat) (base : Word) : Word := base &&& if seg = 6 then 0x0FFFFE003FFFF800#64 else 0x0FFFFFFFFFFFFF00#64

/-- The limit as the register holds it (R163). -/
def limImage (lim : Word) : Word := lim &&& 0x0FFFFFFFFFFFFFFF#64

/-- A segment register of a context. -/
def Ctx.setSeg (c : Ctx) (seg : Nat) (base lim : Word) : Ctx :=
  { c with regs := { c.regs with segBase := tset c.regs.segBase seg base, segLim := tset c.regs.segLim seg lim } }

/-- SEGSET. -/
def execSegset (o : Op) (s : State) : Host.Outcome State Fault Refusal :=
  let k := s.myCore
  let priv := s.privTraps o 0x80
  match s.top o with
  | none => .next s
  | some e =>
    let c := s.scalar o e.1 e.2 o.selA 7
    let base := s.word o e.1 e.2 o.selB
    let lim := s.word o e.1 e.2 o.selC
    let x := c % 4
    let seg := c / 16 % 8
    let active := (s.ctx k x).state == .active
    let saved := ((s.core k).saves.find? fun r => r.2.ctxNo == x).map (·.1)
    let first := if priv.isEmpty then s.srcTraps o (o.legalD 0x180 && o.extOk true true true) [(o.selA, 1), (o.selB, 1), (o.selC, 1)] else priv
    let ok := c / 4 % 4 == 0 && c < 128 && (active || saved.isSome) && segsetOk k seg base.toNat lim.toNat ((s.core k).shares x) active
    .next (runOp o.slot (first ++ if first.isEmpty then s.illegalUnless o ok else []) (fun s =>
      if active then s.modCtx k x fun c => c.setSeg seg (segImage seg base) (limImage lim)
      else match saved with
        | some n => match s.record k n with
          | some r => s.setRecord k n { r with ctx := r.ctx.setSeg seg (segImage seg base) (limImage lim) }
          | none => s
        | none => s) s)

/-! ### TLBINV (R390) -/

/-- Whether a TLB entry matches the operands. -/
def TlbEntry.matches (t : TlbEntry) (w va : Nat) : Bool :=
  bit w 13 || (t.asid == w % 2 ^ 12 && (bit w 12 || (t.base ≤ va && va < t.base + t.size)))

/-- TLBINV: the release, then every matching entry of every TLB goes. -/
def execTlbinv (o : Op) (s : State) : Host.Outcome State Fault Refusal :=
  let k := s.myCore
  let priv := s.privTraps o 0x81
  match s.top o with
  | none => .next s
  | some e =>
    let w := s.scalar o e.1 e.2 o.selA 7
    let va := (s.word o e.1 e.2 o.selB).toNat
    let first := if priv.isEmpty then s.srcTraps o (o.legalD 0x181 && o.extOk true true false) [(o.selA, 1), (o.selB, 1)] else priv
    let ok := w < 2 ^ 14 && (!bit w 13 || (bit w 12 && w % 2 ^ 12 == 0)) && (bit w 12 || va < 2 ^ 60)
    let traps := first ++ if first.isEmpty then s.illegalUnless o ok else []
    let started := if traps.isEmpty then s.releaseStart k s.myCtxNo e.2 7 else s
    if traps.isEmpty && !started.releaseReady k s.myCtxNo 7 then .next (started.holdFor .lookahead)
    else .next (runOp o.slot traps (fun s =>
      { s with
        cores := s.cores.map fun c => (c.1, { c.2 with tlb := c.2.tlb.filter fun t => !t.matches w va })
        clusters := s.clusters.map fun c => (c.1, { c.2 with tlb := c.2.tlb.filter fun t => !t.matches w va }) }) started)

/-! ### TICKET (R389) -/

/-- The trap of one lane's reference (DEDUCED, log 41). -/
def State.ticketTrap (s : State) (w : Word) : Option Trap :=
  let pa := (w.extractLsb' 0 52).toNat
  if w.extractLsb' 61 3 != 0#3 then some ⟨.illegalOp, 0, 0⟩
  else if pa % 8 != 0 then some ⟨.misalign, 0, pa⟩
  else if pillarEnd ≤ pa || !s.presentPillar (pa / 2 ^ 30) then some ⟨.accessViolation, 0, pa⟩
  else none

/-- The fetch-and-add at the home slice: the old value with its latency, what the result awaits, and the state. -/
def State.ticketAdd (s : State) (k x t : Nat) (w : Word) : AtomGot × State :=
  let pa := (w.extractLsb' 0 52).toNat
  let key := some (s.keyOf (w.extractLsb' 52 9).toNat)
  let l := pa / 128
  let s1 := s.sendWcb (clusterOf k) l
  let old := bytesToNat ((List.range 8).map fun i => s1.lastByteAt key (pa + i))
  let (n, s2) := s1.draw1
  let (ids, s3) := s2.atomArrive k l { bytes := bytesAt pa (natToBytes 8 (old + 1)), key := key, owners := [(k, x, t)] }
  ({ old := old, lat := 110 + n % 51, awaits := ids, poison := if s3.uncorrectable pa then some (l * 128) else none }, s3)

/-- TICKET, ordered as an ATOM with `.ar` at part scope. -/
def execTicket (o : Op) (s : State) : Host.Outcome State Fault Refusal :=
  let k := s.myCore
  let x := s.myCtxNo
  let d := o.dest.toNat
  let priv := s.privTraps o 0x83
  if (s.active o).isEmpty then .next (s.landZero o 1 110)
  else
    let first := if priv.isEmpty then
        s.srcTraps o (o.legalD 0x183 && o.extOk true false false && destOk o.slot d 1) [(o.selA, 1)] ++ s.copyTraps o d 1 else priv
    let bad := (s.active o).filterMap fun e => (s.ticketTrap (s.word o e.1 e.2 o.selA)).map fun tr => (e.2, tr)
    let traps := first ++ if first.isEmpty then bad else []
    let started := if traps.isEmpty then s.releaseStart k x (((s.top o).map (·.2)).getD 0) 9 else s
    if traps.isEmpty && !started.releaseReady k x 9 then .next (started.holdFor .lookahead)
    else .next (runOp o.slot traps (fun s =>
      let (gots, s1) := (s.active o).foldl (fun (acc : List (Nat × AtomGot) × State) e =>
        let (g, s') := acc.2.ticketAdd k x e.2 (s.word o e.1 e.2 o.selA)
        (acc.1 ++ [(e.2, g)], s')) (([] : List (Nat × AtomGot)), s)
      let late := gots.filterMap fun g => g.2.poison.map fun pa => (g.1, (⟨.memUncorrectable, 0, pa⟩ : Trap))
      let s2 := (s1.land o .reg d 1 (maxNat (110 :: gots.map (·.2.lat))) (gots.map fun g => (g.1, [word64 g.2.old])) 0 [] late).lastAwaits
        fun l => { l with awaits := gots.flatMap (·.2.awaits) }
      (s2.releaseDone k x 9).modMe fun c => { c with fence := some ⟨9, 0, []⟩ }) started)

/-! ### Engine streams that wait for a page-fault answer (R184) -/

/-- A stalled stream. -/
inductive Stream where
  | work (w : Work) (t : Nat) (f : FaultHold)
  | xfer (core : Nat) (t : Transfer) (f : FaultHold)
  | coll (cohort group : Nat) (i : Issuer) (f : FaultHold)
deriving DecidableEq, Repr

def Stream.hold : Stream → FaultHold
  | .work _ _ f => f
  | .xfer _ _ f => f
  | .coll _ _ _ f => f

/-- The core and context under which a stream's records are answered. -/
def State.streamPlace (s : State) (e : EngEnv) : Nat × Nat :=
  match s.seat e with
  | .live k x => (k, x)
  | .saved k n => (k, ((tget (s.core k).saves n).map (·.ctxNo)).getD e.ctx)
  | .gone => (e.core, e.ctx)

/-- The stalled streams of a thread. -/
def State.streams (s : State) (k x t : Nat) : List Stream :=
  ((s.mtx k).work.filterMap fun w => match w.fault with
    | some (u, f) => if w.ctx == x && u == t then some (.work w t f) else none
    | none => none) ++
  (s.cores.flatMap fun c => c.2.eng.buf.filterMap fun u => match u.fault with
    | some f => if u.thread == t && s.streamPlace u.env == (k, x) then some (.xfer c.1 u f) else none
    | none => none) ++
  (s.cohorts.flatMap fun h => h.2.groups.flatMap fun g => g.2.issuers.filterMap fun i => match i.fault with
    | some f => if i.thread == t && s.streamPlace i.env == (k, x) then some (.coll h.1 g.1 i f) else none
    | none => none)

/-- A stream's page fault takes another form. -/
def State.setStreamHold (s : State) (k : Nat) (st : Stream) (f : FaultHold) : State :=
  match st with
  | .work w t _ => s.modMtx k fun m => { m with work := m.work.map fun v => if v == w then { v with fault := some (t, f) } else v }
  | .xfer c u _ => s.modCore c fun n => { n with eng := { n.eng with buf := n.eng.buf.map fun v => if v == u then { v with fault := some f } else v } }
  | .coll h g i _ => match s.groupUse h g with
    | some u => s.setUse h g { u with issuers := u.issuers.map fun j => if j == i then { j with fault := some f } else j }
    | none => s

/-- A stream whose walk found its leaf goes on. -/
def State.resumeStream (s : State) (k : Nat) (st : Stream) : State :=
  match st with
  | .work w _ _ => s.resumeWork k w
  | .xfer c u _ => (s.modCore c fun n => { n with eng := { n.eng with
      buf := n.eng.buf.map fun v => if v == u then { v with fault := none } else v } }).schedule s.now (.transferStart c)
  | .coll h g i _ => s.collResume h g i.lg

/-- A stream ends by the fault that its entry names (R184). -/
def State.failStream (s : State) (k : Nat) (st : Stream) : State :=
  match st with
  | .work w t f => s.failWork k t w f
  | .xfer c u f => (s.modCore c fun n => { n with eng := { n.eng with
      buf := n.eng.buf.map fun v => if v == u then { v with fault := none, bad := some f.addr } else v } }).schedule s.now (.transferFault c)
  | .coll h g i f => s.collLost h g i f.addr

/-- The context and thread of a stream, and where it was issued. -/
def State.streamEnv (s : State) (k : Nat) (st : Stream) : EngEnv × Nat × Pc :=
  match st with
  | .work w t _ => (s.engEnv k w.ctx, t, w.at_)
  | .xfer _ u _ => (u.env, u.thread, u.at_)
  | .coll _ _ i _ => (i.env, i.thread, i.at_)

/-- A repeated walk of a stream ends: it goes on, or faults again with a record of its own (R183). -/
def State.streamWalked (s : State) (k : Nat) (st : Stream) : State :=
  let f := st.hold
  let (env, t, at_) := s.streamEnv k st
  match s.translate (env.space s) f.addr (if f.write then .store else .load) with
  | (.fault lv, s1) =>
    let g : FaultHold := { f with level := lv, walking := false }
    (s1.setStreamHold k st g).engineFault env t g at_
  | (_, s1) => s1.resumeStream k st

/-! ### TRET (R262, R393) -/

/-- A repeated walk, on one of the cluster's walkers (R182, R183). -/
def State.startWalk (s : State) (k x t : Nat) : State :=
  let s1 := s.startWalker (clusterOf k)
  s1.schedule (s1.walkEnd (clusterOf k)) (.pageWalkComplete k x t)

/-- Stash bytes whose page G will never have are lost, so that the fence or the save which waits for them goes on (DEDUCED, log 80). -/
def State.loseBytes (s : State) (k x addr : Nat) : State :=
  let lost (c : Ctx) : Tab GranState := c.mem.granules.map fun g =>
    if c.granVa (g.1 / 2048) (g.1 % 2048) == addr then (g.1, g.2.cleaned) else g
  s.modCtx k x fun c => if c.fence.isNone && !c.stopping then c else { c with mem := { c.mem with granules := lost c } }

/-- Once no page fault of the issue group waits for an answer, the threads whose replays failed trap together: the instruction has been
performed in no lane (R183). Those of a FREEZE or of a start's parameters trap precisely, the latter at instruction 0 of block 0 (R50,
R250). -/
def State.settleFaults (s : State) (k x : Nat) : State :=
  let c := s.ctx k x
  let g := (c.group.map Group.threads).getD []
  let held := c.threads.filterMap fun e => e.2.fault.map fun f => (e.1, f)
  let ripe := if (held.any fun e => g.contains e.1 && !e.2.failed) then held.filter (fun e => !g.contains e.1) else held
  match ripe.filter (·.2.failed) with
  | [] => s
  | gone =>
    let s1 := gone.foldl (fun s e => s.modThread k x e.1 fun th => { th with fault := none }) s
    let s1 := gone.foldl (fun s e => s.loseBytes k x e.2.addr) s1
    let precise : List (Nat × Trap × Pc) := (gone.filter (·.2.precise)).map fun e => (e.1, ⟨.accessViolation, e.2.seg, e.2.addr⟩, e.2.at_)
    let s2 := if precise.isEmpty then s1
      else s1.takeTrapsAt k x precise (if (precise.any fun e => c.unparam.contains e.1) then some (0, 0) else none)
    let late := (gone.filter fun e => !e.2.precise).map fun e =>
      (e.1, ({ trap := ⟨.accessViolation, e.2.seg, e.2.addr⟩, late := true, at_ := e.2.at_, stop := {}, dest := none, unissued := true } : TrapHold))
    if late.isEmpty then s2 else s2.takeLateHolds k x late

/-- The opcode of the LPF instruction of a bundle, and whether it is guarded. -/
def State.lpfAt (s : State) (k : Nat) (pc : Pc) : Option (Nat × Bool) := (s.instAt k pc).map fun i => (i.opc.toNat, i.g)

/-- Terminators (R66, R70): BR, CBR, SWITCH, RET, FREEZE, and an EXIT without a guard. -/
def isTerminator (i : Nat × Bool) : Bool :=
  i.1 == 0x140 || i.1 == 0x141 || i.1 == 0x142 || i.1 == 0x144 || i.1 == 0x14A || (i.1 == 0x145 && !i.2)

/-- Whether a mode is allowed for a trap that is not a page fault (R262). -/
def State.modeOk (s : State) (k : Nat) (h : TrapHold) (mode : Nat) : Bool :=
  match mode with
  | 0 => !h.late
  | 1 => h.late || (!((s.lpfAt k h.at_).any isTerminator) &&
      !(h.trap.code == TrapCode.rfUncorrectable && s.attributed k h.trap.code h.at_ h.point == (0xFFFF, 0xFFFF)))
  | 4 | 5 => true
  | _ => false

/-- Zero in the destination of a late trap's op (R262). -/
def Thread.zeroDest (th : Thread) (d : Option (Nat × Nat)) : Thread :=
  match d with
  | none => th
  | some (sel, n) =>
    if 0x400 ≤ sel then th.put .pred (sel - 0x400) [0] else th.put .reg sel (List.replicate n 0)

/-- A thread goes on at a place, in the cycle after the TRET. -/
def State.refile (s : State) (k x t : Nat) (key : BinKey) : State :=
  s.modCtx k x fun c => (c.modThread t fun th => { th with trap := none, claim := none, place := .bin }).file (s.after 1) key [t]

/-- A thread that a late trap took out of a park parks there again: it arrives at its barrier, joins the claims, or waits for the
FREEZE, and after the FREEZE comes to its TNEST (R52, R137, R258; DEDUCED, log 32). -/
def State.repark (s : State) (k x t : Nat) (h : TrapHold) : State :=
  let stay := s.modThread k x t fun th => { th with trap := none, place := h.was }
  match h.was with
  | .barrier id =>
    let s1 := stay.modCtx k x fun c => c.modBar id fun b => { b with arrived := insertBy id t b.arrived }
    s1.barCheck k x id (((s1.barDecl (s1.ctx k x) id).map (·.2)).getD 0)
  | .regclm => (stay.formClaims k x).deadlockCheck k
  | .tnest =>
    let th := (s.ctx k x).thread t
    if ((s.ctx k x).tmpl.nests[th.level - 1]?).isSome then s.refile k x t { h.stop with pc := (th.claim.map (·.2.2)).getD h.stop.pc }
    else stay
  | _ => s.refile k x t h.stop

/-- A thread goes on at its stop point; `skip` passes over the trapped LPF instruction (R262). -/
def State.resumeThread (s : State) (k x t : Nat) (h : TrapHold) (skip : Bool) : State :=
  let p := h.point.getD (s.point k h.at_)
  let s1 := if skip then s.modThread k x t fun th => { th with skip := some (h.at_, p.1, p.2) } else s
  if h.late then s1.repark k x t h else s1.refile k x t h.stop

/-- A register that takes zero in one thread alone is no longer uniform (R134). -/
def Ctx.zeroDest (c : Ctx) (t : Nat) (d : Option (Nat × Nat)) : Ctx :=
  { (c.modThread t fun th => th.zeroDest d) with
    uniform := match d with
      | some (sel, n) => c.uniform.filter fun r => r < sel || sel + n ≤ r
      | none => c.uniform }

/-- The threads of a context end at once; what its units still had on the way is dropped (R262: END_LAUNCH). -/
def State.endCtx (s : State) (k x : Nat) : State :=
  let s1 := s.modCtx k x fun c => { c with inflight := [], late := [], fence := none, spec := none, hold := none }
  s1.endThreads k x (s1.ctx k x).live

/-- END_LAUNCH: every workgroup of the launch ends; SAVED ones end without resuming (R262, R264). -/
def State.endLaunch (s : State) (ln : Nat) : State :=
  let s1 := { s with launches := match tget s.launches ln with
    | some l => tset s.launches ln { l with ending := true }
    | none => s.launches }
  let mine (c : Ctx) : Bool := (c.wg.map (·.launch)) == some ln
  let saved := s1.cores.flatMap fun c => (c.2.saves.filter fun r => mine r.2.ctx).map fun r => (c.1, r.1, r.2)
  let s2 := saved.foldl (fun s r =>
    let s' := s.modCore r.1 fun c => { c with saves := tdel c.saves r.2.1 }
    s'.countFinish r.1 ln ((r.2.2.ctx.wg.map (·.founder)).getD false)) s1
  let live := s2.cores.flatMap fun c => (c.2.ctxs.filter fun x => x.1 < 4 && x.2.state == .active && mine x.2).map fun x => (c.1, x.1)
  live.foldl (fun s p => s.endCtx p.1 p.2) s2

/-- The launch of a context ends. -/
def State.endLaunchOf (s : State) (k x : Nat) : State :=
  match (s.ctx k x).wg with
  | some w => s.endLaunch w.launch
  | none => s

/-- END_THREAD: as EXIT ends a thread; for a level-0 founder as END_LAUNCH (R53, R262). -/
def State.endByAnswer (s : State) (k x t : Nat) : State :=
  if (s.ctx k x).isFounder then s.endLaunchOf k x
  else ((s.modThread k x t fun th => { th with trap := none, fault := none }).endThreads k x [t]).settleFaults k x

/-- The effect of an allowed answer on a trap that is not a page fault. -/
def State.answerTrap (s : State) (k x t : Nat) (h : TrapHold) (mode : Nat) : State :=
  match mode with
  | 0 => s.resumeThread k x t h false
  | 1 => if h.late then (s.modCtx k x fun c => c.zeroDest t h.dest).resumeThread k x t h h.unissued
    else s.resumeThread k x t h true
  | 4 => s.endByAnswer k x t
  | _ => s.endLaunchOf k x

/-- The effect of an allowed answer on the page fault of a thread. -/
def State.answerFault (s : State) (k x t : Nat) (f : FaultHold) (mode : Nat) : State :=
  match mode with
  | 2 => (s.modThread k x t fun th => { th with fault := some { f with walking := true } }).startWalk k x t
  | 3 => (s.modThread k x t fun th => { th with fault := some { f with failed := true } }).settleFaults k x
  | 4 => s.endByAnswer k x t
  | _ => s.endLaunchOf k x

/-- The effect of an allowed answer on the page fault of an engine stream: a thread that is made to end takes its stream
with it (DEDUCED, log 26). -/
def State.answerStream (s : State) (k x t : Nat) (st : Stream) (mode : Nat) : State :=
  match mode with
  | 2 => (s.setStreamHold k st { st.hold with walking := true }).startWalk k x t
  | 3 => s.failStream k st
  | 4 => (s.endByAnswer k x t).failStream k st
  | _ => (s.endLaunchOf k x).failStream k st

/-- A page fault takes the modes 2 to 5. -/
def faultMode (mode : Nat) : Bool := 2 ≤ mode && mode ≤ 5

/-- The SAVED context of a core, numbered x, with a trap of thread t that has no answer yet. -/
def State.savedTrap (s : State) (k x t : Nat) : Option (Nat × TrapHold) :=
  (s.core k).saves.findSome? fun r =>
    if r.2.ctxNo != x then none
    else ((r.2.ctx.thread t).trap.bind fun h => if h.answer.isNone then some (r.1, h) else none)

/-- The answer to the trap of a thread: the status of R262 and the state. -/
def State.answer (s : State) (k x t mode : Nat) : Nat × State :=
  let c := s.ctx k x
  let th := c.thread t
  let held := (tget c.threads t).isSome && c.state == .active
  match (if held then th.trap else none), (if held then th.fault else none), s.streams k x t, s.savedTrap k x t with
  | some h, _, _, _ => if s.modeOk k h mode then (0, s.answerTrap k x t h mode) else (2, s)
  | none, some f, _, _ =>
    if f.walking || f.failed then (1, s) else if faultMode mode then (0, s.answerFault k x t f mode) else (2, s)
  | none, none, st :: _, _ =>
    if st.hold.walking then (1, s) else if faultMode mode then (0, s.answerStream k x t st mode) else (2, s)
  | none, none, [], some (n, h) =>
    if !s.modeOk k h mode then (2, s)
    else if mode = 5 then
      (0, match (tget (s.core k).saves n).bind (·.ctx.wg) with
        | some w => s.endLaunch w.launch
        | none => s)
    else (0, s.modCore k fun co => { co with saves := co.saves.map fun r =>
      if r.1 == n then (n, { r.2 with ctx := r.2.ctx.modThread t fun th => { th with trap := some { h with answer := some mode } } }) else r })
  | none, none, [], none => (1, s)

/-- The fields of an answer word: context, thread; none when a zero bit is nonzero (R393). -/
def tretWord (w : Nat) : Option (Nat × Nat) :=
  if w < 2 ^ 19 && w / 4 % 64 == 0 then some (w % 4, w / 2 ^ 8 % 256) else none

/-- TRET with a mode. -/
def tretOp (mode : Nat → Nat) (o : Op) (s : State) : State :=
  let k := s.myCore
  let d := o.dest.toNat
  let priv := s.privTraps o 0x82
  match s.top o with
  | none => s.landZero o 1 4
  | some e =>
    let w := (s.word o e.1 e.2 o.selA).toNat
    let ok := o.legalD 0x182 && o.extOk true false false && destOk o.slot d 1
    let first := if priv.isEmpty then s.srcTraps o ok [(o.selA, 1)] ++ s.illegalUnless o (tretWord w).isSome ++ s.copyTraps o d 1 else priv
    runOp o.slot first (fun s =>
      let (x, t) := (tretWord w).getD (0, 0)
      let (st, s1) := s.answer k x t (mode (w / 2 ^ 16 % 8))
      s1.land o .reg d 1 4 (s1.perLane o fun _ _ => [word64 st]) 0 [] []) s

/-- RETRY; a word of mode 6 or 7, which no row names, gives status 2 here. -/
def execRetry (o : Op) (s : State) : Host.Outcome State Fault Refusal :=
  .next (tretOp (fun m => if 6 ≤ m then m else 0) o s)

/-- CONTINUE. -/
def execCont (o : Op) (s : State) : Host.Outcome State Fault Refusal := .next (tretOp (fun _ => 1) o s)

/-- REPLAY. -/
def execReplay (o : Op) (s : State) : Host.Outcome State Fault Refusal := .next (tretOp (fun _ => 2) o s)

/-- FAIL. -/
def execFail (o : Op) (s : State) : Host.Outcome State Fault Refusal := .next (tretOp (fun _ => 3) o s)

/-- END_THREAD. -/
def execEndThread (o : Op) (s : State) : Host.Outcome State Fault Refusal := .next (tretOp (fun _ => 4) o s)

/-- END_LAUNCH. -/
def execEndLaunch (o : Op) (s : State) : Host.Outcome State Fault Refusal := .next (tretOp (fun _ => 5) o s)

/-! ### PAGE_WALK_COMPLETE (R180, R183, R184) -/

/-- A page fault of a thread again: a new record, and the wait goes on (R183). -/
def State.refault (s : State) (k x t : Nat) (f : FaultHold) (level : Nat) : State :=
  let h := { f with level := level, walking := false }
  (s.addRecord k x t h.trap false false f.at_ f.at_).modThread k x t fun th => { th with fault := some h }

/-- An access whose page fault has been answered: the bytes that a fence waits for go to G, and threads whose replays failed trap when
it was the last one waited for (R171, R183). -/
def State.replayed (s : State) (k x t : Nat) : State :=
  let s1 := s.modThread k x t fun th => { th with fault := none }
  let s2 := if ((s1.ctx k x).fence.any fun f => f.order != 0 && 6 ≤ s1.relScope k x f.scope) then
      let s' := (s1.writeBackAll k x t).writeBackFault k x t
      (s'.relCores k x).foldl State.sendCore s'
    else s1
  s2.settleFaults k x

/-- PAGE_WALK_COMPLETE: a repeated walk finds its leaf, and the instruction or stream goes on (it checks its accesses
again), or it faults again with a record of its own (R183). -/
def execPageWalkComplete (core ctx thread : Nat) (s : State) : Host.Outcome State Fault Refusal :=
  match ((s.ctx core ctx).thread thread).fault with
  | some f =>
    if !f.walking then .next s
    else
      match s.translate (s.spaceOf core ctx) f.addr (if f.write then .store else .load) with
      | (.fault lv, s1) => .next (s1.refault core ctx thread f lv)
      | (_, s1) => .next (s1.replayed core ctx thread)
  | none => match (s.streams core ctx thread).find? fun st => st.hold.walking with
    | some st => .next (s.streamWalked core st)
    | none => .next s

end Sys2Proof.Machine
end

