-- ==== Sys2Proof/Machine/Launch.lean ====
section
/-! DEFINITION. Launches: the checks of a LAUNCH packet (R243, R404), circuit tables (R230, R231), placement (R43, R249), and
the start of workgroups and founders (R49, R50, R250). -/

namespace Sys2Proof.Machine

/-! ### Circuit tables -/

/-- A 32-bit word of an address space; one of the host window or of an uncorrectable line is free (DESIGN CHOICE, log 4). -/
def State.peek32 (s : State) (sp : Space) (va : Nat) : Option Nat × State :=
  match s.physPiece sp va 4 .load with
  | (some p, s') =>
    if regionOf p.pa == .host || s'.uncorrectable p.pa then let (n, s2) := s'.draw1; (some (n % 2 ^ 32), s2)
    else (some (bytesToNat ((List.range 4).map fun i => s'.lastByteAt p.key (p.pa + i))), s')
  | (none, s') => (none, s')

/-- n words of a table; none when an access fails. -/
def State.peekWords (s : State) (sp : Space) (va n : Nat) : Option (List Nat) × State :=
  (List.range n).foldl (fun (acc : Option (List Nat) × State) i => match acc.1 with
    | none => acc
    | some ws => match acc.2.peek32 sp (va + 4 * i) with
      | (some w, s') => (some (ws ++ [w]), s')
      | (none, s') => (none, s')) (some [], s)

/-- The nodes of a route in logical coordinates: along the row, then along the column (R229). -/
def routeNodes (cols src dst : Nat) : List Nat :=
  let i := src / cols
  let j := src % cols
  let p := dst / cols
  let q := dst % cols
  let dj := if j ≤ q then q - j else j - q
  let di := if i ≤ p then p - i else i - p
  ((List.range (dj + 1)).map fun n => cols * i + if j ≤ q then j + n else j - n) ++
    (List.range di).map fun n => cols * (if i ≤ p then i + n + 1 else i - n - 1) + q

/-- The directed links of a route. -/
def routeLinks (cols src dst : Nat) : List (Nat × Nat) :=
  let ns := routeNodes cols src dst
  ns.zip (ns.drop 1)

/-- No number occurs twice. -/
def allDistinct : List Nat → Bool
  | [] => true
  | x :: r => !r.contains x && allDistinct r

/-- The ordered pairs of n cores. -/
def corePairs (n : Nat) : List (Nat × Nat) :=
  (List.range n).flatMap fun a => ((List.range n).filter (· != a)).map fun b => (a, b)

/-- The rules of R230 on the entries of a table. -/
def tableOk (n cols len : Nat) (es : List (Nat × Nat × Nat)) : Bool :=
  es.all (fun e => e.1 < n && e.2.1 < n && e.1 != e.2.1 && e.2.2 < len) &&
    (corePairs n).all (fun p => es.any fun e => e.1 == p.1 && e.2.1 == p.2) &&
    allDistinct (es.flatMap fun e => (routeLinks cols e.1 e.2.1).zipIdx.map fun l =>
      (l.1.1 * 16 + l.1.2) * 1024 + (e.2.2 + l.2) % len) &&
    allDistinct (es.map fun e => e.1 * 1024 + e.2.2) &&
    allDistinct (es.map fun e => e.2.1 * 1024 + (e.2.2 + (routeLinks cols e.1 e.2.1).length) % len)

/-- The default table of a cohort of n ≥ 2 cores: its span and entries (R231). -/
def defaultTable (n : Nat) : Nat × List (Nat × Nat × Nat) :=
  (16 * ((5 * n * (n - 1) + 15) / 16), (corePairs n).zipIdx.map fun p => (p.1.1, p.1.2, 5 * p.2))

/-- What the circuit table of a launch comes to: span and entries, or the value its packet completes with. -/
def State.readTable (s : State) (d : Nat) (u : Queue) (rows cols : Nat) (circ : Word) :
    Except Int (Nat × List (Nat × Nat × Nat)) × State :=
  let n := rows * cols
  if n = 1 then (.ok (0, []), s)
  else if circ == 0 then (.ok (defaultTable n), s)
  else if !ptrField 1 circ then (.error (-2), s)
  else
    let sp := s.queueSpace d u
    match s.peek32 sp (u.va circ) with
    | (none, s1) => (.error (-5), s1)
    | (some h, s1) =>
      let nent := h / 2 ^ 16
      let len := h % 2 ^ 11
      if nent < 1 || 4096 < nent || h / 2 ^ 11 % 2 ^ 5 != 0 || len < 16 || 1024 < len || len % 16 != 0 then (.error (-2), s1)
      else match s1.peekWords sp (u.va circ + 4) nent with
        | (none, s2) => (.error (-5), s2)
        | (some ws, s2) =>
          let es := ws.map fun w => (w / 2 ^ 18 % 16, w / 2 ^ 14 % 16, w / 2 ^ 22)
          if ws.all (fun w => w % 2 ^ 14 == 0) && tableOk n cols len es then (.ok (len, es), s2) else (.error (-2), s2)

/-! ### Placement (R43, R249) -/

/-- The positions of a cohort's logical cores under each placement, in the order of the choice: lowest row, lowest column,
then ID, FR, FC, ROT. -/
def placements (rows cols : Nat) : List (List Nat) :=
  (List.range (4 - rows)).flatMap fun r0 => (List.range (5 - cols)).flatMap fun c0 => (List.range 4).map fun sym =>
    (List.range (rows * cols)).map fun l =>
      let i := l / cols
      let j := l % cols
      4 * (r0 + if sym % 2 = 1 then rows - 1 - i else i) + c0 + if 2 ≤ sym then cols - 1 - j else j

/-- The clusters of a partition whose class can run a workgroup size (R26). -/
def Partition.runs (p : Partition) (size : Nat) : List Nat := p.clusters.filter fun c => size ≤ 128 || isWide (12 * c)

/-- A placement whose cores are all present. -/
def State.placeable (s : State) (c rows cols : Nat) : Bool :=
  (placements rows cols).any fun ps => ps.all fun p => s.present (12 * c + p)

/-- The lowest 256 B-aligned stash address at which a share fits beside the resident shares and pools (R250). -/
def State.stashSpot (s : State) (k len : Nat) : Option Nat :=
  let rs := (s.core k).shares 5
  let starts := sortBy id (0 :: rs.map fun r => (r.1 + r.2 + 255) / 256 * 256)
  starts.find? fun b => b + len ≤ stashCap k && rs.all fun r => b + len ≤ r.1 || r.1 + r.2 ≤ b || r.2 = 0

/-- The lowest EMPTY context number of a core. -/
def Core.emptyCtx (c : Core) : Option Nat := firstNat (fun x => (c.ctx x).state == .empty) 4 0

/-- The budget of a member (R249). -/
def State.budgetFor (s : State) (k asked size hint : Nat) : Nat :=
  if asked != 0 then asked
  else
    let b := Nat.min 248 (8 * (Nat.min (s.poolFree k) (poolCap k / 4) / (8 * size)))
    Nat.max b (if hint = 0 then 8 else hint)

/-- The firmware slot of a core has trapped and restarts (R261). -/
def State.fwStopped (s : State) (k : Nat) : Bool := s.agenda.any fun e => e.2 == .firmwareRestart k

/-- What a core offers a member: context number and budget. A core whose firmware slot restarts waits with its dispatch (R261). -/
def State.seatFor (s : State) (k asked size hint stash : Nat) : Option (Nat × Nat) :=
  let b := s.budgetFor k asked size hint
  match (s.core k).emptyCtx with
  | some x => if s.present k && !s.fwStopped k && size * b ≤ s.poolFree k && (s.stashSpot k stash).isSome then some (x, b) else none
  | none => none

/-- The seats of a valid placement on a cluster: core, context, budget of each logical core. -/
def State.findPlace (s : State) (c rows cols asked size hint stash : Nat) : Option (List (Nat × Nat × Nat)) :=
  (placements rows cols).findSome? fun ps =>
    let seats := ps.map fun p => (s.seatFor (12 * c + p) asked size hint stash).map fun e => (12 * c + p, e)
    if seats.all (·.isSome) then some (seats.filterMap id) else none

/-! ### LAUNCH (R243, R249) -/

/-- The zero bits of a segment base image: R163, and R194 for V. -/
def segZero (n : Nat) : Word := if n = 6 then 0xF00001FFC00007FF#64 else 0xF0000000000000FF#64

/-- What the words of a launch record and of the packet say is malformed (R243, R83, R80, R81, R61, R404). `w3` is the word 3
of the packet. -/
def State.recordOk (s : State) (part : Nat) (w3 : Word) (ws : List Word) : Bool :=
  let w (i : Nat) : Word := wordOf ws i
  let tmpl := w3.getLsbD 16
  let size := (w3.extractLsb' 0 9).toNat
  let base (n : Nat) : Word := w (4 + n)
  let lim (n : Nat) : Nat := (w (12 + n)).toNat
  let area := if tmpl then (lim 4 + 7) / 8 * 8 else 0
  match tget s.objs ((w 2).extractLsb' 0 32).toNat with
  | none => false
  | some o => match o.funcs[((w 2).extractLsb' 32 16).toNat]? with
    | none => false
    | some f =>
      o.part == part && f.entry && (f.levels != 0) == tmpl && (w 2).extractLsb' 48 16 == 0#16 && w 0 == 0 && w 1 == 0 &&
        ((w 20 != 0) == tmpl) && (w 20 == 0 || ptrField 256 (w 20)) && ((List.range 11).all fun i => w (21 + i) == 0) &&
        (o.bars.all fun b => b.2.2 ≤ size) &&
        ((List.range 8).all fun n => base n &&& segZero n == 0 && lim n < 2 ^ 60) &&
        o.ssize ≤ lim 2 && o.tsize ≤ lim 4 && area ≤ lim 1 && 8 * f.map.a ≤ lim 1 - area

/-- The launch that a packet and its record describe. -/
def launchOfWords (d q part : Nat) (u : Queue) (p : Packet) (ws : List Word)
    (table : Nat × List (Nat × Nat × Nat)) : Launch :=
  let w (i : Nat) : Word := wordOf ws i
  let h := p.word 3
  { die := d, queue := q, packet := p.id, part := part
    obj := ((w 2).extractLsb' 0 32).toNat, func := ((w 2).extractLsb' 32 16).toNat
    ncoh := (h.extractLsb' 32 32).toNat, rows := (h.extractLsb' 12 2).toNat + 1, cols := (h.extractLsb' 10 2).toNat + 1
    wgsize := (h.extractLsb' 0 9).toNat, budget := (h.extractLsb' 24 8).toNat, tmpl := h.getLsbD 16
    prio := u.prio, asid := u.asid, rec_ := u.va (p.word 2)
    segBase := (List.range 8).map fun n => w (4 + n), segLim := (List.range 8).map fun n => w (12 + n)
    span := table.1, table := table.2, lastPtr := u.va (w 20), params := (List.range 32).map fun n => w (32 + n), frozen := none }

/-- The launch can never be placed (R19, R26, R249): no cluster that can run its size has a placement of present cores, or
the stash of every such class is below SEGLIM2. -/
def State.unplaceable (s : State) (p : Partition) (rows cols size stash : Nat) : Bool :=
  let cs := p.runs size
  !(cs.any fun c => s.placeable c rows cols) || cs.all fun c => stashCap (12 * c) < stash

/-- The work of a LAUNCH: its checks, then its post to the agents. -/
def launchWork (d q : Nat) (p : Packet) (s : State) : State :=
  let u := s.queue d q
  match s.partOfAsid u.asid with
  | none => s.finishPacket d q p.id (-5)
  | some part =>
    let sp := s.queueSpace d u
    let va := u.va (p.word 2)
    let (ws, s1) := (List.range 64).foldl (fun (acc : Option (List Word) × State) i => match acc.1 with
      | none => acc
      | some ws => match acc.2.peek64 sp (va + 8 * i) with
        | (some w, s') => (some (ws ++ [w]), s')
        | (none, s') => (none, s')) (some [], s)
    match ws, tget s1.parts part with
    | some ws, some pt =>
      if !s1.recordOk part (p.word 3) ws then s1.finishPacket d q p.id (-2)
      else
        let h := p.word 3
        let rows := (h.extractLsb' 12 2).toNat + 1
        let cols := (h.extractLsb' 10 2).toNat + 1
        match s1.readTable d u rows cols (wordOf ws 3) with
        | (.error v, s2) => s2.finishPacket d q p.id v
        | (.ok table, s2) =>
          if s2.unplaceable pt rows cols (h.extractLsb' 0 9).toNat (wordOf ws 14).toNat then s2.finishPacket d q p.id (-3)
          else
            let l := launchOfWords d q part u p ws table
            let n := s2.nextLaunch
            State.offerStarts { s2 with launches := tset s2.launches n l, nextLaunch := n + 1 } n
    | _, _ => s1.finishPacket d q p.id (-5)

/-- LAUNCH: the record is read with the packet's pointers, at both its ends. -/
def execLaunch (die queue : Nat) (s : State) : Host.Outcome State Fault Refusal :=
  issuePacket die queue (fun p => [(p.word 2, .atomic), (p.word 2 + 256, .atomic)]) (launchWork die queue) s

/-! ### The start of a workgroup (R28, R50, R168, R250) -/

/-- The segment images of a member: S takes the share, P the workgroup's part, V the core's own pillar. -/
def segStart (l : Launch) (k share index size : Nat) (c : Ctx) : Ctx :=
  (List.range 8).foldl (fun c n =>
    let b := wordOf l.segBase n
    let lim := wordOf l.segLim n
    let b' : Word := if n = 1 then b + word64 (index * (32 * ((size + 31) / 32)) * 8 * ((lim.toNat + 7) / 8))
      else if n = 2 then word64 share
      else if n = 6 then (b &&& 0x0003FFFFFFFFFFFF#64) ||| word64 (k * 2 ^ 50)
      else b
    c.setSeg n (segImage n b') (limImage lim)) c

/-- The copy pool above a share (R168): the T limit, or what is free if that is smaller. -/
def State.poolAbove (s : State) (k share len tlim : Nat) : Nat :=
  let top := share + len
  let next := ((s.core k).shares 5).foldl (fun m r => if top ≤ r.1 && r.2 != 0 then Nat.min m r.1 else m) (stashCap k)
  Nat.min ((tlim + 255) / 256 * 256) ((next - top) / 256 * 256)

/-- The level-0 last as the LASTPTR area holds it (R50, R56): the words of each argument of the continuation. -/
def State.readLasts (s : State) (k : Nat) (l : Launch) (b : LBlock) : Tab (List Word) × State :=
  b.args.zipIdx.foldl (fun (acc : Tab (List Word) × State) e =>
    let (ws, s') := (List.range (valueRegs b.shape e.1)).foldl (fun (r : List Word × State) i =>
      match r.2.peek64 (r.2.launchSpace k l) (l.lastPtr + 128 * e.2 + 8 * i) with
      | (some w, s2) => (r.1 ++ [w], s2)
      | (none, s2) => let (n, s3) := s2.draw1; (r.1 ++ [word64 n], s3)) (([] : List Word), acc.2)
    (tset acc.1 e.2 ws, s')) (([] : Tab (List Word)), s)

/-- Where a member enters: the key of its stub, the block, and that block (R49, R92). -/
def State.startEntry (s : State) (l : Launch) (budget : Nat) (founder : Bool) : TKey × Nat × LBlock :=
  let f := ((tget s.objs l.obj).bind fun o => o.funcs[l.func]?).getD ⟨0, 0, false, 0, 0, [], [], []⟩
  match founder, l.frozen with
  | false, some (b, r) => (⟨l.obj, l.func, r, budget⟩, b, f.block b)
  | _, _ => (⟨l.obj, l.func, 0, budget⟩, 0, f.block 0)

/-- A member agent starts its workgroup (R250): the share and its zeroes, the segment registers, the priority, the last, and
every thread filed at the entry. -/
def State.startMember (s : State) (ln : Nat) (l : Launch) (cohort index logical : Nat) (founder : Bool) (k x budget : Nat) : State :=
  let size := if founder then 1 else l.wgsize
  let len := (wordOf l.segLim 2).toNat
  let share := (s.stashSpot k len).getD 0
  let pool := if l.tmpl then s.poolAbove k share len (wordOf l.segLim 4).toNat else 0
  let (key, block, blk) := s.startEntry l budget founder
  let items := l.tmpl && !founder
  let (lasts, s1) := if items then s.readLasts k l blk else ([], s)
  let ids := List.range size
  let thread : Thread := { budget := budget, level := if items then 1 else 0 }
  let fresh : Ctx :=
    { state := .active
      wg := some ⟨ln, index, cohort, logical, size, budget, l.obj, l.func, founder, true⟩
      threads := ids.map fun t => (t, thread)
      tmpl := if items then { opened := 1, entries := [(0, blk.args.length)] } else {}
      regs := { prio := l.prio, mmu := (s.launchSpace k l).root }
      mem := { last := lasts, shareBase := share, shareLen := len, pool := pool }
      entry := some (key, block)
      unparam := if items then [] else ids }
  let s2 := s1.modCore k fun c => { c with
    taken := c.taken + size * budget
    stash := c.stash.filter fun e => e.1 < share || share + len ≤ e.1 }
  let s3 := s2.modCtx k x fun _ => segStart l k share index size fresh
  let at_ := cycleUp s.now
  let s4 := s3.modCtx k x fun c => c.file at_ ⟨{}, none⟩ ids
  (s4.passEntry k x 0).openInbox k cohort logical

/-- The members of a cohort start together (R25, R249). -/
def State.startCohort (s : State) (ln : Nat) (l : Launch) (index : Nat) (founder : Bool) (rows cols : Nat)
    (seats : List (Nat × Nat × Nat)) : State :=
  let n := s.nextCohort
  let h : Cohort :=
    { launch := ln, index := index, rows := rows, cols := cols, place := seats.map (·.1), ctxOf := seats.map (·.2.1)
      start := cycleUp s.now, span := if founder then 0 else l.span, table := if founder then [] else l.table }
  let l' := { l with live := l.live + seats.length, founded := l.founded || founder }
  let s1 := { s with cohorts := tset s.cohorts n h, nextCohort := n + 1, launches := tset s.launches ln l' }
  seats.zipIdx.foldl (fun s e =>
    s.startMember ln l n (index * (rows * cols) + e.2) e.2 founder e.1.1 e.1.2.1 e.1.2.2) s1

/-- A SAVED context of the partition resumes before new workgroups of the same or lower priority start (R251). -/
def State.savedFirst (s : State) (part prio : Nat) : Bool :=
  match tget s.parts part with
  | none => false
  | some p => s.cores.any fun c => p.clusters.contains (clusterOf c.1) && c.2.saves.any fun r =>
      r.2.ctx.regs.prio ≤ prio && (s.launchOf r.2.ctx).map (·.part) == some part

/-- The hint of a launch's entry (R81). -/
def State.hintOf (s : State) (l : Launch) : Nat :=
  (((tget s.objs l.obj).bind fun o => o.funcs[l.func]?).map (·.budget)).getD 0

/-- The seats of a valid placement of the next cohort of a launch on a cluster. -/
def State.placeNext (s : State) (l : Launch) (c : Nat) : Option (List (Nat × Nat × Nat)) :=
  s.findPlace c l.nextShape.1 l.nextShape.2.1 l.budget l.nextShape.2.2 (s.hintOf l) (wordOf l.segLim 2).toNat

/-- An agent that finds no placement looks again after a message of free length; a priority-0 launch that has none on any cluster asks
for pre-emption (R251). -/
def State.waitPlace (s : State) (ln core : Nat) (l : Launch) (p : Partition) : State :=
  let none_ := (p.runs l.wgsize).all fun c => (s.placeNext l c).isNone
  let s1 := if l.prio = 0 && none_ && !(s.agenda.any fun e => e.2 == .priorityPreemption l.die l.queue) then
      s.schedule s.now (.priorityPreemption l.die l.queue) else s
  s1.message (.workgroupStart ln core)

/-- The seats that the agent of a core may take: its own for a 1 × 1 cohort, those of a placement on its cluster otherwise (R249). -/
def State.agentSeats (s : State) (l : Launch) (core : Nat) : Option (List (Nat × Nat × Nat)) :=
  if l.nextShape.1 * l.nextShape.2.1 = 1 then
    (s.seatFor core l.budget l.nextShape.2.2 (s.hintOf l) (wordOf l.segLim 2).toNat).map fun e => [(core, e)]
  else s.placeNext l (clusterOf core)

/-- WORKGROUP_START: the agent of a core takes the next cohort of a launch when a placement is valid, by a TICKET, and starts
it; a templated launch starts its founder first (R49, R249, R250). -/
def execWorkgroupStart (launch core : Nat) (s : State) : Host.Outcome State Fault Refusal :=
  match tget s.launches launch with
  | none => .next s
  | some l => match tget s.parts l.part with
    | none => .next s
    | some p =>
      let founder := l.tmpl && l.frozen.isNone
      if l.ending || !((p.runs l.wgsize).contains (clusterOf core)) || (founder && l.founded) then .next s
      else if p.swapped || s.fwStopped core || s.savedFirst l.part l.prio then .next (s.message (.workgroupStart launch core))
      else match s.agentSeats l core with
        | none => .next (s.waitPlace launch core l p)
        | some seats =>
          if founder then .next (s.startCohort launch l 0 true 1 1 seats)
          else match s.rmw64 (s.launchSpace core l) l.rec_ (· + 1) with
            | (some c, s1) =>
              if c.toNat < l.ncoh then .next ((s1.startCohort launch l c.toNat false l.rows l.cols seats).message (.workgroupStart launch core))
              else .next s1
            | (none, s1) => .next s1

end Sys2Proof.Machine
end

