-- ==== Sys2Proof/Machine/Preempt.lean ====
section
/-! DEFINITION. Pre-emption and the save of contexts (R44, R172, R266, R267), their resume (R46, R264), pre-emption for
priority-0 launches (R251), and migration (R270-R272). -/

namespace Sys2Proof.Machine

/-! ### The stop and the drain (R44, steps 1 to 5) -/

/-- The contexts of a cohort that run: core and context. A pre-emption takes them together (R236). -/
def State.members (s : State) (cohort : Nat) : List (Nat × Nat) :=
  s.cores.flatMap fun c =>
    (c.2.ctxs.filter fun x => x.1 < 4 && x.2.state == .active && x.2.wg.map (·.cohort) == some cohort).map fun x => (c.1, x.1)

/-- An exposed result that has not landed in this cycle (DEDUCED, log 31). -/
def Landing.exposedAfter (now : Nat) (l : Landing) : Bool :=
  l.window.isNone && ({ l with due := 0 }).ready 0 && cycleUp now < l.due

/-- The exposed results in flight become shadow results with their offsets k (R44, step 4). -/
def Ctx.takeShadows (now : Nat) (c : Ctx) : Ctx :=
  { c with
    shadows := c.shadows ++ (c.inflight.filter (·.exposedAfter now)).map fun l => ⟨(l.due - c.lastIssue) / cycleLen, l⟩
    inflight := c.inflight.filter fun l => !l.exposedAfter now }

/-- The copy area of a granule can be written. -/
def State.areaOpen (s : State) (k x gran : Nat) : Bool :=
  let c := s.ctx k x
  (s.areaAcc c gran).all fun pc => match s.probe (s.spaceOf k x) (c.pAddr 0 pc.1) .store with
    | .ok _ _ => true
    | _ => false

/-- The template copies in the stash move to the copy area (R65); one whose area has no page stays among the saved bytes of the pool
(DEDUCED, log 55). -/
def State.moveCopies (s : State) (k x : Nat) : State :=
  (s.ctx k x).mem.tcopies.foldl (fun s e => match e.2 with
    | none => s
    | some ad =>
      let c := s.ctx k x
      let off := c.limit 1 - s.copyArea c + 256 * e.1
      let bs := (s.core k).stashBytes ad 256
      if !s.areaOpen k x e.1 then s
      else
        let s1 := (s.areaAcc c e.1).foldl (fun (s : State) (pc : Nat × Nat) =>
          s.storeVirt k x 0 (c.pAddr 0 pc.1) ((bs.drop (pc.1 - off)).take pc.2)) s
        s1.modCtx k x fun c => { c with mem := { c.mem with tcopies := tset c.mem.tcopies e.1 none } }) s

/-- Every write-combining entry with stores of a context is sent. -/
def State.sendOwn (s : State) (k x : Nat) : State :=
  ((s.cluster (clusterOf k)).wcb.filter fun e => e.2.owners.any fun o => o.1 == k && o.2.1 == x).foldl
    (fun s e => s.sendWcb (clusterOf k) e.1) s

/-- Issue of a context stops at its next bundle boundary, and from then on its drain goes on: shadows, template copies, write-backs, and
its stores (R44, R66, R172, R226; DEDUCED, log 55). -/
def State.stopCtx (s : State) (k x : Nat) : State :=
  let s1 := s.modCtx k x fun c => { c with stopping := true }
  if !(s1.ctx k x).stopNow then s1
  else ((((s1.modCtx k x fun c => c.takeShadows s.now).moveCopies k x).writeBackAll k x 0).writeBackFault k x 0).sendOwn k x

/-- A write of a context has not been performed at its home slice (R216). -/
def State.ownWrites (s : State) (k x : Nat) : Bool :=
  (s.cluster (clusterOf k)).wcb.any (fun e => e.2.owners.any fun o => o.1 == k && o.2.1 == x) ||
    s.phys.lines.any fun l => l.2.waiting.any fun w => w.owners.any fun o => o.1 == k && o.2.1 == x

/-- The drain of a context has ended: what it had issued is complete, but for messages that its RECVCs await. -/
def State.drained (s : State) (k x : Nat) : Bool :=
  let c := s.ctx k x
  c.stopNow && c.finishAt.isNone && !c.dirty && c.inflight.all (·.recv.isSome) && c.late.isEmpty && c.spec.isNone && c.fence.isNone &&
    c.threads.all (fun t => t.2.fault.isNone) && !((s.workOf k).any fun w => w.ctx == x) && !s.ownWrites k x

/-- No message of a cohort is on its way (R236). -/
def State.quiet (s : State) (cohort : Nat) : Bool := ((tget s.cohorts cohort).map (·.flying.isEmpty)).getD true

/-! ### The save (R44, steps 6 and 7; R266) -/

/-- The save slot a context takes: that of its own number, or the lowest that holds no record (R266). -/
def Core.saveSlot (c : Core) (x : Nat) : Option Nat :=
  if (tget c.saves x).isNone then some x else firstNat (fun n => (tget c.saves n).isNone) 4 0

/-- The registers that the threads of a context hold. -/
def Ctx.held (c : Ctx) : Nat := sumNat (c.live.map fun t => (c.thread t).budget)

/-- What a save keeps of a context: bins by age, no granules (R172), no window of its translation, b registers fetched. -/
def Ctx.atRest (now k : Nat) (c : Ctx) : Ctx :=
  { c with
    state := .saved, stopping := false, hold := none, drew := false, yields := false
    bins := c.bins.map fun e => (e.1, { e.2 with since := now - e.2.since })
    shadows := c.shadows.map fun h => { h with entry := { h.entry with spec := none } }
    window := [], fetching := none, copyNext := false
    mem := { c.mem with granules := [], granLease := [] }
    regs := { c.regs with bregs := c.regs.bregs.map fun b => (b.1, { b.2 with ready := true, readyAt := some 0 }) }
    frontier := nodup (c.frontier ++ [k]) }

/-- A context leaves its core with its record: tickets die, slots and tiles are given back, claims are withdrawn, registers
return to the pool (R136, R187, R199). -/
def State.takeOut (s : State) (k x : Nat) : SaveRec × State :=
  let c := s.ctx k x
  let set := s.heldSet k x
  let m := s.mtx k
  let base := c.mem.shareBase
  let cells := (shareOf (s.core k).stash base (c.mem.shareLen + c.mem.pool)).filter fun e => c.mem.shareLen ≤ e.1 || (c.mapped e.1).isNone
  let r : SaveRec :=
    { ctxNo := x, ctx := c.atRest s.now k, share := cells, slots := set.slots, tiles := set.tiles
      opmem := m.opmem.filter fun e => set.slots.contains (e.1 / 16384)
      acc := m.acc.filter fun e => set.tiles.contains (e.1 / 32768) }
  let s1 := (s.killTickets k x).freeSet k set
  let s2 := s1.modMtx k fun m => { m with osClaims := m.osClaims.filter fun e => e.ctx != x }
  let s3 := s2.modCore k fun co => { co with
    taken := co.taken - c.held
    claims := co.claims.filter fun e => e.ctx != x
    stash := co.stash.filter fun e => e.1 < base || base + c.mem.shareLen + c.mem.pool ≤ e.1
    ctxs := tset co.ctxs x {}
    sel := { co.sel with
      holder := if co.sel.holder == some x then none else co.sel.holder
      unserved := tdel co.sel.unserved x
      boosted := co.sel.boosted.filter (· != x) } }
  (r, s3.forgetWaits k x)

/-- A drained context becomes SAVED in a free slot of its core, its record in the slot's bytes (R44, R266). -/
def State.saveCtx (s : State) (k x : Nat) : State :=
  match (s.core k).saveSlot x with
  | none => s
  | some n =>
    let (r, s1) := s.takeOut k x
    s1.setRecord k n r

/-- Contexts that may be saved now: each is drained and has a slot. -/
def State.savable (s : State) (ms : List (Nat × Nat)) : Bool :=
  ms.all (fun m => s.drained m.1 m.2 && s.quiet (((s.ctx m.1 m.2).wg.map (·.cohort)).getD 0)) &&
    (nodup (ms.map (·.1))).all fun k =>
      (ms.filter fun m => m.1 == k).length ≤ (((List.range 4).filter fun n => (tget (s.core k).saves n).isNone).length)

/-- A cohort is pre-empted when its contexts have drained; none while they have not (R44). -/
def State.preempt (s : State) (ms : List (Nat × Nat)) : Bool × State :=
  let s1 := ms.foldl (fun s m => s.stopCtx m.1 m.2) s
  if s1.savable ms then (true, ms.foldl (fun s m => s.saveCtx m.1 m.2) s1) else (false, s1)

/-- PREEMPTION of a context, with its whole cohort; firmware resumes it when it can (DESIGN CHOICE, log 54). -/
def execPreemption (core ctx : Nat) (s : State) : Host.Outcome State Fault Refusal :=
  if !s.present core then .fault .absentUnit
  else match (s.ctx core ctx).wg with
  | none => .next s
  | some w =>
    if 4 ≤ ctx || (s.ctx core ctx).state != .active then .next s
    else match s.preempt (s.members w.cohort) with
      | (true, s1) => match s1.seatOf core (some w) with
        | .saved k n => .next (s1.message (.contextResume k n core ctx))
        | _ => .next s1
      | (false, s1) => .next (s1.schedule (s1.after 1) (.preemption core ctx))

/-! ### Resume (R46, R136, R187, R194) -/

/-- The length of the share of a record: that of its S register, which SEGSET may have written (R165). -/
def SaveRec.len (r : SaveRec) : Nat := r.ctx.limit 2

/-- The stash bytes that a record takes: its share, and the pool as it was placed at the start (R168). -/
def SaveRec.stashLen (r : SaveRec) : Nat := r.len + r.ctx.mem.pool

/-- A SEGSET has given the share of a SAVED context its place (R165, R372). -/
def SaveRec.placed (r : SaveRec) : Bool := r.ctx.base 2 != r.ctx.mem.shareBase || r.len != r.ctx.mem.shareLen

/-- Where the share and pool of a record fit in a stash: the place that SEGSET gave it, or the lowest (R168, R250; DEDUCED, log 55). -/
def State.shareSpot (s : State) (k : Nat) (r : SaveRec) : Option Nat :=
  if r.placed then
    if r.ctx.base 2 + r.stashLen ≤ stashCap k && rangeFree ((s.core k).shares 5) (r.ctx.base 2) r.stashLen then some (r.ctx.base 2) else none
  else s.stashSpot k r.stashLen

/-- A context number of core k at which a record can go on; `wanted` is taken when it is EMPTY. -/
def State.roomFor (s : State) (k wanted : Nat) (r : SaveRec) : Option Nat :=
  let co := s.core k
  let free (x : Nat) : Bool := x < 4 && (co.ctx x).state == .empty
  let m := s.mtx k
  let ok := s.present k && r.ctx.held ≤ s.poolFree k && r.ctx.size ≤ threadCap k && setExists k ⟨r.slots, r.tiles⟩ &&
    r.slots.all (fun n => (tget m.slotOwner n).isNone && (tget m.clearSlots n).isNone) &&
    r.tiles.all (fun n => (tget m.tileOwner n).isNone && (tget m.clearTiles n).isNone) &&
    (s.shareSpot k r).isSome && !s.fwStopped k
  if !ok then none else if free wanted then some wanted else firstNat free 4 0

/-- The records of a cohort: core and slot, with the record. -/
def State.savedOf (s : State) (cohort : Nat) : List (Nat × Nat × SaveRec) :=
  s.cores.flatMap fun c => (c.2.saves.filter fun r => r.2.ctx.wg.map (·.cohort) == some cohort).map fun r =>
    (c.1, r.1, (s.record c.1 r.1).getD r.2)

/-- The logical core of a record. -/
def SaveRec.logical (r : SaveRec) : Nat := (r.ctx.wg.map (·.logical)).getD 0

/-- A SAVED context whose SEGLIM6 is nonzero goes on at the core that owns PILLAR only (R194). -/
def SaveRec.mayStand (r : SaveRec) (k : Nat) : Bool := r.ctx.limit 6 = 0 || r.ctx.vPillar == k

/-- The seats of records under one placement on a cluster: for each record its core and context. `want` names the core and the
context that record `lg` asks for. -/
def State.recordSeats (s : State) (ps : List Nat) (cluster lg wantCtx : Nat) (rs : List SaveRec) (fits : SaveRec → Nat → Bool) :
    Option (List (SaveRec × Nat × Nat)) :=
  let at_ (n : Nat) : Nat := 12 * cluster + (ps[n]?).getD 0
  let seats := rs.map fun r =>
    let k := at_ r.logical
    if fits r k then (s.roomFor k (if r.logical = lg then wantCtx else r.ctxNo) r).map fun x => (r, k, x) else none
  if ps.all (fun p => s.present (12 * cluster + p)) && seats.all (·.isSome) then some (seats.filterMap id) else none

/-- The placements that are tried for a cohort: those of the cluster of the wanted core that put the record there first. -/
def State.tries (s : State) (h : Cohort) (clusters : List Nat) (lg toCore : Nat) : List (Nat × List Nat) :=
  let all := clusters.flatMap fun c => (placements h.rows h.cols).map fun ps => (c, ps)
  let hits (e : Nat × List Nat) : Bool := 12 * e.1 + (e.2[lg]?).getD 0 == toCore
  let _ := s
  all.filter hits ++ all.filter fun e => !hits e

/-- Every native PC that a context keeps. -/
def Ctx.pcs (c : Ctx) : List Pc :=
  let key (k : BinKey) : List Pc := k.pc :: (k.pend.map (·.target)).toList
  c.threads.flatMap (fun e => key e.2.resume ++ (e.2.pend.map (·.target)).toList ++ (e.2.claim.map (·.2.2)).toList ++
    (match e.2.trap with
      | some h => h.at_ :: key h.stop
      | none => []) ++ (e.2.skip.map (·.1)).toList) ++
    c.bins.flatMap (fun e => key e.2.key) ++ c.overflow.flatMap (fun e => key e.1) ++
    (match c.group with
      | some g => g.pc :: (g.jump.toList ++ (g.delay.map fun d => d.taken.map (·.2)).getD [])
      | none => []) ++
    c.inflight.map (·.at_) ++ c.shadows.map (·.entry.at_) ++ c.regs.bregs.filterMap fun b => b.2.target

/-- The number under which a context keeps a translation that its cluster has none of. -/
def lackNumber (tr : Nat) : Nat := 2 ^ 64 + tr

/-- What the translations of one cluster that a context uses become on another: old number, new number, and the key of one that is not
there, whose stub the context then enters again (R115, R121). -/
def State.movedTrs (s : State) (from_ to_ : Nat) (c : Ctx) : List (Nat × Nat × Option TKey) :=
  ((nodup (c.pcs.map (·.tr))).filter (· != 0)).map fun tr =>
    match ((tget (s.cluster from_).trans tr).map (·.key)).or (tget c.lacks tr) with
    | none => (tr, tr, none)
    | some key => match (s.stub to_ key).map (·.state) with
      | some (StubState.present n _) => (tr, n, none)
      | _ => (tr, lackNumber tr, some key)

/-- A context of one cluster as it stands on another. -/
def State.onCluster (s : State) (from_ to_ : Nat) (c : Ctx) : Ctx :=
  if from_ == to_ then c
  else
    let m := s.movedTrs from_ to_ c
    { (c.mapPc fun p => { p with tr := ((m.find? fun e => e.1 == p.tr).map (·.2.1)).getD p.tr }) with
      lacks := m.filterMap fun e => e.2.2.map fun key => (e.2.1, key) }

/-- The pins of the threads of a context go from the translations of one cluster to those of another (R115). -/
def State.movePinsTo (s : State) (from_ to_ : Nat) (new_ : Ctx) : Ctx × State :=
  if from_ == to_ then (new_, s)
  else new_.live.foldl (fun (acc : Ctx × State) t =>
    let tr := (acc.1.posOf t).pc.tr
    (acc.1.modThread t fun th => { th with inTr := tr }, (acc.2.leaveTr from_ (acc.1.thread t).inTr).enterTr to_ tr)) (new_, s)

/-- The answers that came while a context was SAVED take effect (R264). -/
def State.storedAnswers (s : State) (k x : Nat) : State :=
  (s.ctx k x).threads.foldl (fun s e => match e.2.trap with
    | some h => match h.answer with
      | some mode => s.answerTrap k x e.1 { h with answer := none } mode
      | none => s
    | none => s) s

/-- The bytes of a record's share and pool, at their places above a base. -/
def SaveRec.stashCells (r : SaveRec) (base : Nat) : List Host.Cell :=
  r.share.filterMap fun e =>
    if e.1 < r.ctx.mem.shareLen then (if e.1 < r.len then some (base + e.1, e.2) else none)
    else some (base + r.len + (e.1 - r.ctx.mem.shareLen), e.2)

/-- A record goes on as context x of core k: registers, share, pool, slots and tiles are taken and filled, ages go on, the results of
offset 1 are readable at once (R46, R136, R168, R187). -/
def State.putIn (s : State) (k x : Nat) (r : SaveRec) (c : Ctx) : State :=
  let len := r.len
  let base := (s.shareSpot k r).getD 0
  let at_ := cycleUp s.now
  let old := r.ctx.mem.shareBase + r.ctx.mem.shareLen
  let due := c.shadows.filter fun h => h.offset ≤ 1
  let c1 : Ctx :=
    { c.setSeg 2 (word64 base) (word64 len) with
      state := .active
      bins := c.bins.map fun e => (e.1, { e.2 with since := at_ - e.2.since })
      inflight := c.inflight ++ due.map fun h => { h.entry with due := s.now }
      shadows := c.shadows.filter fun h => 1 < h.offset
      mem := { c.mem with
        shareBase := base, shareLen := len
        tcopies := c.mem.tcopies.map fun e => (e.1, e.2.map fun a => base + len + (a - old)) } }
  let s1 := s.modCore k fun co => { co with
    taken := co.taken + c.held
    ctxs := tset co.ctxs x c1
    stash := cellPuts (co.stash.filter fun e => e.1 < base || base + r.stashLen ≤ e.1) (r.stashCells base) }
  s1.modMtx k fun m => { m with
    slotOwner := r.slots.foldl (fun t n => tset t n x) m.slotOwner
    tileOwner := r.tiles.foldl (fun t n => tset t n x) m.tileOwner
    opmem := cellPuts m.opmem (r.opmem.map fun e => (e.1, e.2))
    acc := r.acc.foldl (fun t e => tset t e.1 e.2) m.acc }

/-- After its record is in place a context looks at what it waited for: claims, data held for it, answers, walks of its
streams. -/
def State.wake (s : State) (k x : Nat) : State :=
  let w := (s.ctx k x).wg
  let s1 := s.formClaims k x
  let s2 := s1.openInbox k ((w.map (·.cohort)).getD 0) ((w.map (·.logical)).getD 0)
  let s3 := (s2.ctx k x).threads.foldl (fun s e =>
    if (s.streams k x e.1).any (·.hold.walking) then s.startWalk k x e.1 else s) s2
  s3.storedAnswers k x

/-- A cohort goes on at its new seats: its placement, and its circuit table from phase 0 (R236). -/
def State.seatCohort (s : State) (n : Nat) (h : Cohort) (cluster : Nat) (ps : List Nat) (seats : List (SaveRec × Nat × Nat)) : State :=
  let ctxs := (List.range (h.rows * h.cols)).map fun lg =>
    ((seats.find? fun e => e.1.logical == lg).map (·.2.2)).getD ((h.ctxOf[lg]?).getD 0)
  { s with cohorts := tset s.cohorts n { h with place := ps.map (12 * cluster + ·), ctxOf := ctxs, start := cycleUp s.now } }

/-- A launch of a higher priority of the partition still looks for a place (R251). -/
def State.startsFirst (s : State) (part prio : Nat) : Bool :=
  s.agenda.any fun e => match e.2 with
    | .workgroupStart ln _ => ((tget s.launches ln).map fun l => l.part == part && l.prio < prio && !l.ending).getD false
    | _ => false

/-- The SAVED contexts of a cohort go on at their seats, under the translations of its cluster (R46). -/
def State.resumeAt (s : State) (n : Nat) (h : Cohort) (recs : List (Nat × Nat × SaveRec)) (cluster : Nat) (ps : List Nat)
    (seats : List (SaveRec × Nat × Nat)) : State :=
  let s1 := (recs.foldl (fun s r => s.modCore r.1 fun c => { c with saves := tdel c.saves r.2.1 }) s).seatCohort n h cluster ps seats
  let s2 := seats.foldl (fun s e =>
    let (r, k, x) := e
    let from_ := ((recs.find? fun q => q.2.2 == r).map fun q => clusterOf q.1).getD cluster
    let (c, s') := s.movePinsTo from_ (clusterOf k) (s.onCluster from_ (clusterOf k) r.ctx)
    s'.putIn k x r c) s1
  seats.foldl (fun s e => s.wake e.2.1 e.2.2) s2

/-- CONTEXT_RESUME: firmware resumes a SAVED context, with its cohort, on a core of the same class that R46 allows; core toCore
and context toCtx when they can take it. While nothing can, it tries again later. -/
def execContextResume (core slot toCore toCtx : Nat) (s : State) : Host.Outcome State Fault Refusal :=
  if !s.present toCore then .fault .absentUnit
  else match tget (s.core core).saves slot with
  | none => .next s
  | some old =>
    let r := (s.record core slot).getD old
    match r.ctx.wg, s.partOfCore core with
    | some w, some (i, p) => match tget s.cohorts w.cohort with
      | none => .next s
      | some h =>
        let recs := s.savedOf w.cohort
        let same (c : Nat) : Bool := isWide (12 * c) == isWide core
        let fits (r : SaveRec) (k : Nat) : Bool := r.mayStand k
        if (s.launchOf r.ctx).map (·.part) != some i then .next s
        else
        let found := if s.startsFirst i r.ctx.regs.prio then none
          else (s.tries h (p.clusters.filter same) r.logical toCore).findSome? fun e =>
            (s.recordSeats e.2 e.1 r.logical toCtx (recs.map (·.2.2)) fits).map fun seats => (e, seats)
        let later (s : State) : State := s.message (.contextResume core slot toCore toCtx)
        match found with
        | none => .next (later s)
        | some ((c, ps), seats) => .next (s.resumeAt w.cohort h recs c ps seats)
    | _, _ => .next s

/-! ### Pre-emption for a priority-0 launch (R251) -/

/-- The context that a pre-emption takes on a core: the highest PRIO value, among equals the latest start. -/
def Core.victim (c : Core) : Option Nat :=
  ((c.ctxs.filter fun e => e.1 < 4 && e.2.state == .active && 1 ≤ e.2.regs.prio).foldl
    (fun (best : Option (Nat × Ctx)) e => match best with
      | none => some e
      | some b =>
        let age (x : Ctx) : Nat := (x.wg.map (·.cohort)).getD 0
        if b.2.regs.prio < e.2.regs.prio || (b.2.regs.prio == e.2.regs.prio && age b.2 < age e.2) then some e else best) none).map (·.1)

/-- A core as if a context were gone. -/
def State.without (s : State) (k x : Nat) : State :=
  s.modCore k fun c => { c with taken := c.taken - (c.ctx x).held, ctxs := tset c.ctxs x {} }

/-- The contexts of a core whose pre-emption gives a member a seat; none when there is no such choice. -/
def victimsOn (seat : State → Bool) (k : Nat) : Nat → State → Option (List Nat)
  | 0, _ => none
  | n + 1, s =>
    if seat s then some []
    else match (s.core k).victim with
      | none => none
      | some x => (victimsOn seat k n (s.without k x)).map (x :: ·)

/-- The victims of a launch on a cluster: those of its first placement that pre-emption makes valid. -/
def State.victims (s : State) (l : Launch) (cluster : Nat) : Option (List (Nat × Nat)) :=
  (placements l.nextShape.1 l.nextShape.2.1).findSome? fun ps =>
    let each := ps.map fun p =>
      let k := 12 * cluster + p
      let seat (s : State) : Bool := (s.seatFor k l.budget l.nextShape.2.2 (s.hintOf l) (wordOf l.segLim 2).toNat).isSome
      (victimsOn seat k 5 s).map fun xs => xs.map fun x => (k, x)
    if each.all (·.isSome) then some (each.flatMap (·.getD [])) else none

/-- The clusters in the order of R251: dies ascending from the front end's own, clusters ascending. -/
def dieOrder (die : Nat) (cs : List Nat) : List Nat :=
  (List.range 4).flatMap fun i => cs.filter fun c => dieOf (12 * c) == (die + i) % 4

/-- A launch has a cohort that no agent has claimed: its founder, or one that TICKET has still to give (R49, R249). -/
def State.unclaimed (s : State) (l : Launch) : Bool :=
  if l.tmpl && l.frozen.isNone then !l.founded
  else match (s.peek64 (s.launchSpace (12 * (((tget s.parts l.part).bind (·.clusters.head?)).getD 0)) l) l.rec_).1 with
    | some w => w.toNat < l.ncoh
    | none => false

/-- PRIORITY_PREEMPTION of a front end's queue (R251). -/
def execPriorityPreemption (die queue : Nat) (s : State) : Host.Outcome State Fault Refusal :=
  let trying := s.launches.filter fun e => e.2.die == die && e.2.queue == queue && e.2.prio == 0 && !e.2.ending && s.unclaimed e.2 &&
    s.agenda.any fun a => match a.2 with
      | .workgroupStart ln _ => ln == e.1
      | _ => false
  let needy := trying.filterMap fun e => (tget s.parts e.2.part).bind fun p =>
    let draining := s.cores.any fun c => p.clusters.contains (clusterOf c.1) && c.2.ctxs.any (·.2.stopping)
    let seated := (p.runs e.2.wgsize).any fun c => (s.placeNext e.2 c).isSome
    if draining || p.swapped || seated then none else (dieOrder die (p.runs e.2.wgsize)).findSome? (s.victims e.2)
  .next (((needy.headD []).foldl (fun s v => s.schedule s.now (.preemption v.1 v.2)) s))

/-! ### Migration (R270-R272) -/

/-- What refuses a migration of a member to the class of a core (R272). -/
def State.migrates (s : State) (k x toCore : Nat) : Bool :=
  let c := s.ctx k x
  c.size ≤ threadCap toCore && setExists toCore (s.heldSet k x) && c.mem.shareLen ≤ stashCap toCore && c.held ≤ poolCap toCore

/-- MIGRATION_REQUEST: firmware asks for the workgroup, with its cohort, to go to a core of its partition. A refused request
changes nothing. -/
def execMigrationRequest (core ctx toCore : Nat) (s : State) : Host.Outcome State Fault Refusal :=
  if !s.present core || !s.present toCore then .fault .absentUnit
  else match (s.ctx core ctx).wg, s.partOfCore core with
  | some w, some (_, p) =>
    let ms := s.members w.cohort
    if 4 ≤ ctx || (s.ctx core ctx).state != .active || !p.clusters.contains (clusterOf toCore) ||
        !(ms.all fun m => s.migrates m.1 m.2 toCore) then .next s
    else .next ((ms.foldl (fun s m => s.modCtx m.1 m.2 fun c => { c with migrate := some (toCore, []) }) s).schedule s.now
      (.migrationCapture core ctx))
  | _, _ => .next s

/-- A thread is stopped at a Q bundle, unissued (R270). -/
def State.atSafePoint (s : State) (k x t : Nat) : Bool :=
  let c := s.ctx k x
  let key := c.posOf t
  ((c.thread t).place == .bin || (c.thread t).place == .overflow) && key.pend.isNone && key.pc.tr != 0 &&
    ((s.groupAt k key.pc).map fun g => g.1.any fun b => b.2.hdr.q).getD false

/-- The width in registers of a value of a block of a function (R94). -/
def LFunc.valueWidth (f : LFunc) (block v : Nat) : Nat :=
  (((f.map.blocks.filter fun b => b.block == block).flatMap fun b => b.defsAt 0).find? fun d => d.1.idx == v).elim 1 (·.1.width)

/-- A live value of a thread: its LPF index, its words, and whether it is the shared value of a last register. -/
structure LiveVal where
  idx : Nat
  words : List Word
  shared : Bool
deriving DecidableEq, Repr

/-- A frame word of a thread, after every write of the context has been performed. -/
def State.frameWord (s : State) (k x t w : Nat) : Word × State :=
  let c := s.ctx k x
  let a := frameAcc c 0 t w
  match s.peek64 (s.spaceOf k x) (c.pAddr t a.off) with
  | (some v, s1) => (v, s1)
  | (none, s1) => let (n, s2) := s1.draw1; (word64 n, s2)

/-- The live values of a thread through its Q entry (R271). -/
def State.liveValues (s : State) (k x t : Nat) (f : LFunc) (e : PEntry) : List LiveVal × State :=
  e.locs.foldl (fun (acc : List LiveVal × State) l =>
    let n := f.valueWidth e.block l.2.1
    let th := (s.ctx k x).thread t
    match l.1 with
    | 0 => (acc.1 ++ [⟨l.2.1, (List.range n).map fun i => tgetD th.regs (l.2.2 + i) 0, false⟩], acc.2)
    | 1 =>
      let (ws, s1) := (List.range n).foldl (fun (r : List Word × State) i =>
        let (w, s') := r.2.frameWord k x t (l.2.2 + i); (r.1 ++ [w], s')) (([] : List Word), acc.2)
      (acc.1 ++ [⟨l.2.1, ws, false⟩], s1)
    | _ => (acc.1 ++ [⟨l.2.1, (s.ctx k x).lastWords t l.2.2, (tget th.copies l.2.2).isNone⟩], acc.2)) (([] : List LiveVal), s)

/-- The Q entry of the same LPF point in another translation (R271). -/
def Trans.samePoint (t : Trans) (e : PEntry) : Option PEntry :=
  t.pmap.find? fun f => f.q && f.block == e.block && f.inst == e.inst && f.edge == e.edge && f.ref == e.ref

/-- A thread takes its values at the locations of a Q entry: registers, and its own copy of a last value, written to its last register of
the target (R67, R271; DEDUCED, log 56). -/
def Thread.takeValues (th : Thread) (e : PEntry) (vs : List LiveVal) : Thread :=
  e.locs.foldl (fun th l => match vs.find? fun v => v.idx == l.2.1, l.1 with
    | some v, 0 => th.put .reg l.2.2 v.words
    | some v, 2 => if v.shared then th else th.put .reg (0x140 + l.2.2) v.words
    | _, _ => th) th

/-- The shared last values of a thread, at the last registers of a Q entry (R67). -/
def sharedValues (e : PEntry) (vs : List LiveVal) : List (Nat × List Word) :=
  e.locs.filterMap fun l => if l.1 = 2 then (vs.find? fun v => v.idx == l.2.1 && v.shared).map fun v => (l.2.2, v.words) else none

/-- The frame words that a Q entry asks for: word and value. -/
def frameValues (e : PEntry) (vs : List LiveVal) : List (Nat × Word) :=
  e.locs.flatMap fun l => match vs.find? fun v => v.idx == l.2.1, l.1 with
    | some v, 1 => v.words.zipIdx.map fun p => (l.2.2 + p.2, p.1)
    | _, _ => []

/-- The rows of V go to the pillar of another core, as writes of the context (R272). -/
def State.copyRows (s : State) (k x toCore : Nat) : State :=
  let c := s.ctx k x
  if c.limit 6 = 0 || c.vPillar == toCore then s
  else
    let key := some (s.keyOf c.vKey)
    (List.range ((c.limit 6 + 127) / 128)).foldl (fun s i =>
      let off := c.vBase + 128 * i
      let bs := (List.range 128).map fun j => s.lastByteAt key (c.vPillar * 2 ^ 30 + off + j)
      s.homeArrive ((toCore * 2 ^ 30 + off) / 128) { bytes := bytesAt (toCore * 2 ^ 30 + off) bs, key := key, owners := [(k, x, 0)] }) s

/-- A member of a migrating cohort: its old place, its record, its new place. -/
structure Mover where
  core : Nat
  ctx : Nat
  toCore : Nat
  toCtx : Nat
deriving DecidableEq, Repr

/-- What the threads of members carry: thread, target PC and entry, values; whether a translation is awaited, whether a point is missing,
the threads whose target translation has failed, with the REASON, and those with a poisoned live element, all with their members. -/
structure Carried where
  vals : List (Nat × Pc × PEntry × List LiveVal) := []
  waits : Bool := false
  lost : Bool := false
  failed : List (Nat × Nat) := []
  poisoned : List Nat := []
deriving DecidableEq, Repr

/-- A register of a Q entry holds a poisoned element of a thread (R135). -/
def Thread.poisonedAt (th : Thread) (f : LFunc) (e : PEntry) : Bool :=
  e.locs.any fun l => l.1 == 0 && th.poisoned.any fun n => l.2.2 ≤ n && n < l.2.2 + f.valueWidth e.block l.2.1

/-- The capture of a member (R271). -/
def State.carried (s : State) (m : Mover) : Carried × State :=
  let c := s.ctx m.core m.ctx
  c.live.foldl (fun (acc : Carried × State) t =>
    let pc := (c.posOf t).pc
    match s.trans m.core pc with
    | none => acc
    | some tr => match acc.2.askStub m.toCore m.toCtx tr.key (c.thread t).budgetFrom with
      | (.present n t', s1) =>
        match tr.pmap.find? (fun e => e.q && e.off == pc.off), s.funcOf tr.key with
        | some e, some f =>
          if (c.thread t).poisonedAt f e then ({ acc.1 with poisoned := acc.1.poisoned ++ [t] }, s1)
          else match t'.samePoint e with
          | some e' =>
            let (vs, s2) := s1.liveValues m.core m.ctx t f e
            ({ acc.1 with vals := acc.1.vals ++ [(t, ⟨n, e'.off⟩, e', vs)] }, s2)
          | none => ({ acc.1 with lost := true }, s1)
        | _, _ => ({ acc.1 with lost := true }, s1)
      | (.waits, s1) => ({ acc.1 with waits := true }, s1)
      | (.failed reason, s1) => ({ acc.1 with failed := acc.1.failed ++ [(t, reason)] }, s1)) ({}, s)

/-- Threads of a member whose capture fails trap at their Q bundles: an uncorrectable live element (R135), a failed translation (R120). -/
def State.captureTraps (s : State) (m : Mover) (v : Carried) : State :=
  let at_ (t : Nat) : BinKey := (s.ctx m.core m.ctx).posOf t
  let s1 := v.poisoned.foldl (fun s t => s.trapParked m.core m.ctx t ⟨.rfUncorrectable, 0, 0⟩ (at_ t)) s
  let s2 := v.failed.foldl (fun s f => s.trapParked m.core m.ctx f.1 ⟨.translationFault, f.2, 0⟩ (at_ f.1)) s1
  if v.failed.isEmpty then s2 else s2.modCtx m.toCore m.toCtx fun c => { c with failed := [] }

/-- The context of a member at its target: threads filed at the new Q bundles with their values, the last store with the shared ones, bins
of age 0, the stall counters but for COPY_FAULT (R67, R141, R271). -/
def migrated (now k : Nat) (c : Ctx) (vs : List (Nat × Pc × PEntry × List LiveVal)) : Ctx :=
  let c1 := vs.foldl (fun (c : Ctx) v => c.modThread v.1 fun th =>
    Thread.takeValues { th with regs := [], poisoned := [], copies := [], claimed := [], used := 0, entries := [], resume := ⟨v.2.1, none⟩ }
      v.2.2.1 v.2.2.2) c
  let last := vs.foldl (fun (l : Tab (List Word)) v => (sharedValues v.2.2.1 v.2.2.2).foldl (fun l e => tset l e.1 e.2) l) c.mem.last
  let c2 : Ctx := { c1 with
    bins := [], overflow := [], latches := [], uniform := [], shadows := [], inflight := [], migrate := none, lacks := []
    mem := { c1.mem with last := last }
    regs := { c1.regs with counters := tdel c1.regs.counters Stall.copyFault.num } }
  let c3 := if c.limit 6 = 0 then c2
    else c2.setSeg 6 ((tgetD c.regs.segBase 6 0 &&& 0xF003FFFFFFFFFFFF#64) ||| word64 (k * 2 ^ 50)) (tgetD c.regs.segLim 6 0)
  let c4 := { c3 with regs := { c3.regs with bregs := [] } }
  (c4.fileKeys now (vs.map fun v => (v.1, ⟨v.2.1, none⟩)))

/-- The members of a cohort at their new places (DEDUCED, log 56). -/
def State.migrateNow (s : State) (n : Nat) (h : Cohort) (cluster : Nat) (ps : List Nat)
    (ms : List (Mover × List (Nat × Pc × PEntry × List LiveVal))) : State :=
  let s0 := s.flushIdle
  let (outs, s1) := ms.foldl (fun (acc : List (Mover × SaveRec × Ctx) × State) m =>
    let old := acc.2.ctx m.1.core m.1.ctx
    let (r, s') := acc.2.takeOut m.1.core m.1.ctx
    let c := migrated 0 m.1.toCore { r.ctx with threads := old.threads } m.2
    let (c, s') := s'.movePinsTo (clusterOf m.1.core) (clusterOf m.1.toCore) c
    (acc.1 ++ [(m.1, r, { c with bins := c.bins.map fun b => (b.1, { b.2 with since := 0 }) })], s')) (([] : List (Mover × SaveRec × Ctx)), s0)
  let s2 := outs.foldl (fun s m => s.putIn m.1.toCore m.1.toCtx m.2.1 m.2.2) s1
  let s3 := s2.seatCohort n h cluster ps (outs.map fun m => (m.2.1, m.1.toCore, m.1.toCtx))
  let s4 := ms.foldl (fun s m => m.2.foldl (fun s v => (frameValues v.2.2.1 v.2.2.2).foldl (fun s w =>
    let c := s.ctx m.1.toCore m.1.toCtx
    s.storeAcc m.1.toCore m.1.toCtx (frameAcc c 0 v.1 w.1) (natToBytes 8 w.2.toNat)) s) s) s3
  outs.foldl (fun s m => s.wake m.1.toCore m.1.toCtx) s4

/-- The migration of a cohort is given up: its threads go on where they are. -/
def State.giveUp (s : State) (ms : List (Nat × Nat)) : State :=
  ms.foldl (fun s m => s.modCtx m.1 m.2 fun c => { c with migrate := none, stopping := false }) s

/-- MIGRATION_CAPTURE: once every live thread of the cohort is stopped at a Q bundle and its contexts have drained, the
workgroups go to their new places; until then it is tried again. -/
def execMigrationCapture (core ctx : Nat) (s : State) : Host.Outcome State Fault Refusal :=
  let again (s : State) : Host.Outcome State Fault Refusal := .next (s.schedule (s.after 1) (.migrationCapture core ctx))
  match (s.ctx core ctx).migrate, (s.ctx core ctx).wg with
  | some (toCore, done), some w => match tget s.cohorts w.cohort with
    | none => .next s
    | some h =>
      let ms := s.members w.cohort
      let safe := ms.all fun m => let c := s.ctx m.1 m.2
        c.live.all fun t => s.atSafePoint m.1 m.2 t
      if !safe then again (ms.foldl (fun s m => s.modCtx m.1 m.2 fun c => { c with stopping := false }) s)
      else
        let s1 := ms.foldl (fun s m => s.stopCtx m.1 m.2) s
        let clear := ms.all fun m => s1.drained m.1 m.2 && (s1.ctx m.1 m.2).inflight.isEmpty
        if !clear || !s1.quiet w.cohort then again s1
        else
          let recs := ms.map fun m => (m, (s1.takeOut m.1 m.2).1)
          let hits := (s1.tries h [clusterOf toCore] w.logical toCore).filter fun e =>
            12 * e.1 + (e.2[w.logical]?).getD 0 == toCore
          match hits.findSome? fun e => (s1.recordSeats e.2 e.1 w.logical ctx (recs.map (·.2)) fun _ _ => true).map fun ss => (e, ss) with
          | none => again s1
          | some ((c, ps), ss) =>
            let movers := recs.zip ss |>.map fun p => (⟨p.1.1.1, p.1.1.2, p.2.2.1, p.2.2.2⟩ : Mover)
            if done != movers.map (·.toCore) then
              again (movers.foldl (fun s m => (s.copyRows m.core m.ctx m.toCore).modCtx m.core m.ctx fun c =>
                { c with migrate := some (toCore, movers.map (·.toCore)) }) s1)
            else
              let (vs, s2) := movers.foldl (fun (acc : List (Mover × Carried) × State) m =>
                let (v, s') := acc.2.carried m; (acc.1 ++ [(m, v)], s')) (([] : List (Mover × Carried)), s1)
              let s3 := vs.foldl (fun s e => s.captureTraps e.1 e.2) s2
              if vs.any fun e => e.2.lost || !e.2.failed.isEmpty then .next (s3.giveUp ms)
              else if vs.any fun e => e.2.waits || !e.2.poisoned.isEmpty then again s3
              else .next (s3.migrateNow w.cohort h c ps (vs.map fun e => (e.1, e.2.vals)))
  | _, _ => .next s

end Sys2Proof.Machine
end

