-- ==== Sys2Proof/Machine/Device.lean ====
section
/-! DEFINITION. Device resets and the wipe (R15, R21-R23, R282, R285), partitions (R12, R21, R154, R268), checkpoints (R273), the
loss of dies and devices (R274), key slots and attestation (R283, R284). -/

namespace Sys2Proof.Machine

/-! ### Reset and wipe (R21-R23, R282) -/

/-- Every on-die memory and every pillar byte reads zero, and the wipe runs. Fuses and the life-cycle state stay, and so does
what the host holds; `pend` is the life-cycle change that the wipe is for. The links train anew, and a lost die or device is no longer
lost (DESIGN CHOICE, log 83). -/
def State.wiped (s : State) (pend : Option LifeCycle) : State :=
  { ({} : State) with
    freeCtr := s.freeCtr, boots := s.boots, fuses := s.fuses, life := s.life, identity := s.identity, lifePending := pend
    host := { s.host with reads := [], window := none } }

/-- DEVICE_RESET: the four occasions have one effect (R21). One during the wipe of a life-cycle change drops the change, as a power
loss does (R23; DESIGN CHOICE, log 83). -/
def execDeviceReset (_kind : ResetKind) (s : State) : Host.Outcome State Fault Refusal := .next (s.wiped none)

/-- The reports of an uncorrectable internal error through AER, by cause (DEDUCED, log 57). -/
def aerThermal : Nat := 1
def aerBoot : Nat := 2
def aerDie : Nat := 3

def State.aer (s : State) (cause : Nat) : State := s.modHost fun h => { h with aer := h.aer ++ [cause] }

/-- The requester is told whether firmware did what it asked. -/
def State.reply (s : State) (ok : Bool) : State := s.modHost fun h => { h with replies := h.replies ++ [ok] }

/-- WIPE_COMPLETE: within 15 ms of the reset (R22; the length is free between the 9.87 ms of one pillar and that, DESIGN CHOICE, log 4). A pending
life-cycle change is committed (R23, R283, R285), and the boot ROM checks the firmware image (R282) (DESIGN CHOICE, log 17). -/
def execWipeComplete (s : State) : Host.Outcome State Fault Refusal :=
  if s.phase != .wiping then .next s
  else
    let (n, s1) := s.draw1
    let life := s1.lifePending.getD s1.life
    let identity := match s1.lifePending with
      | some .provisioned => true
      | some .returned => false
      | _ => s1.identity
    let s2 := { s1 with
      now := s1.now + tickTime (9870000 + n % 5130001), life := life, identity := identity, lifePending := none
      boots := s1.boots + 1 }
    .next (if Config.bootImageOk s1.boots then { s2 with phase := .running } else { s2 with phase := .bootFailed }.aer aerBoot)

/-- THERMAL_STOP: issue and engines stop, the host is told, and nothing more happens until a reset (R15). A reset that is on its way
comes. -/
def execThermalStop (die : Nat) (s : State) : Host.Outcome State Fault Refusal :=
  if 4 ≤ die then .fault .absentUnit
  else .next ({ s with phase := .thermalStop, agenda := s.agenda.filter fun e => resets e.2, turn := [] }.aer aerThermal)

def lifeOrder : LifeCycle → Nat
  | .manufacture => 0
  | .provisioned => 1
  | .deployed => 2
  | .returned => 3

/-- LIFE_CYCLE_CHANGE: only forward; the wipe comes first (R23, R285). One that passes over a state is accepted (DESIGN CHOICE,
log 83). -/
def execLifeCycleChange (next : LifeCycle) (s : State) : Host.Outcome State Fault Refusal :=
  if s.phase != .running then .next s
  else if lifeOrder next ≤ lifeOrder s.life then .next (s.reply false)
  else .next ((s.reply true).wiped (some next))

/-- POWER_LOSS_DURING_WIPE: the part comes up in its old state and wipes again (R23). -/
def execPowerLossDuringWipe (s : State) : Host.Outcome State Fault Refusal :=
  .next (if s.phase == .wiping then s.wiped none else s)

/-! ### Partitions (R12, R154, R284) -/

/-- A creation request that firmware accepts: clusters with a present core, each once; a spare choice and an NBV that exist; NBV 2
for JXW-3 clusters only; the life-cycle state allows it. -/
def State.partReqOk (s : State) (r : PartReq) : Bool :=
  (s.life == .provisioned || s.life == .deployed) && (tget s.parts r.id).isNone && !r.clusters.isEmpty &&
    r.clusters.all (fun c => c < clusterCount && (List.range 12).any fun p => s.present (12 * c + p)) &&
    (nodup r.clusters).length == r.clusters.length && r.spare ≤ 2 &&
    (r.nbv == 1 || (r.nbv == 2 && r.clusters.all fun c => isWide (12 * c))) &&
    r.roots.all fun e => e.1 < 2 ^ 12

/-- PARTITION_CREATE. One that names clusters in use is created swapped out (R268) (DEDUCED, log 72). -/
def execPartitionCreate (req : PartReq) (s : State) : Host.Outcome State Fault Refusal :=
  if s.phase != .running then .next s
  else if !s.partReqOk req then .next (s.reply false)
  else
    let used := req.clusters.any fun c => (s.partOfCluster c).isSome
    let p : Partition :=
      { clusters := req.clusters, spare := req.spare, nbv := req.nbv, grant := req.grant, roots := req.roots, swapped := used }
    .next { s.reply true with parts := tset s.parts req.id p }

/-- Memory without the pillars of a set of cores. -/
def Phys.without (p : Phys) (gone : Nat → Bool) : Phys :=
  let byte (pa : Nat) : Bool := pa < pillarEnd && gone (pa / 2 ^ 30)
  let line (l : Nat) : Bool := byte (128 * l)
  { dram := p.dram.filter fun e => !byte e.1
    overlay := p.overlay.filter fun e => !byte e.1
    lineKey := p.lineKey.filter fun e => !line e.1
    dramKey := p.dramKey.filter fun e => !line e.1
    poison := p.poison.filter fun l => !line l
    lines := p.lines.filter fun e => !line e.1
    ranges := p.ranges.filter fun e => !byte e.base
    pkgDir := p.pkgDir.filter fun e => !line e.1
    dieDir := p.dieDir.filter fun e => !line e.1
    replicas := p.replicas.filter fun e => !line e.1 }

/-- The queues of a partition: die and number. -/
def State.queuesOf (s : State) (p : Partition) : List (Nat × Nat) :=
  s.fes.flatMap fun e => (e.2.queues.filter fun q => q.2.state != .disabled && p.roots.any fun r => r.1 == q.2.asid).map fun q => (e.1, q.1)

/-- A core after a partition reset; a firmware slot that ran starts again. -/
def Core.wiped (c : Core) : Core := { ({} : Core) with sel := { ({} : Sel) with fwEntry := c.sel.fwEntry } }

/-- PARTITION_RESET: the partition's cores, their pillars and what its slices home are wiped (R21). Its launches and objects go with
them, but for firmware objects, and its queues are DISABLED. One of a swapped-out partition wipes the same cores and pillars, on which
the active partition runs (DESIGN CHOICE, log 83). -/
def execPartitionReset (part : Nat) (s : State) : Host.Outcome State Fault Refusal :=
  match (tget s.parts part).filter fun _ => s.phase == .running with
  | none => .next s
  | some p =>
    let mine (k : Nat) : Bool := p.clusters.contains (clusterOf k)
    let ran := (s.cores.filter fun c => mine c.1 && c.2.sel.fwEntry.isSome && (c.2.ctx 4).state == .active).map (·.1)
    let qs := s.queuesOf p
    let fresh : Partition :=
      { clusters := p.clusters, spare := p.spare, nbv := p.nbv, grant := p.grant, roots := p.roots, swapped := p.swapped }
    let lns := (s.launches.filter fun l => l.2.part == part).map (·.1)
    let s1 := { s with
      cores := s.cores.map fun c => if mine c.1 then (c.1, c.2.wiped) else c
      clusters := s.clusters.filter fun c => !p.clusters.contains c.1
      phys := s.phys.without mine
      parts := tset s.parts part fresh
      objs := s.objs.filter fun o => o.2.part != part || o.2.fw
      launches := s.launches.filter fun l => l.2.part != part
      cohorts := s.cohorts.filter fun h => !lns.contains h.2.launch
      turn := s.turn.filter fun a => match a with
        | .core k | .firmware k => !mine k
        | .frontEnd _ => true }
    let s2 := qs.foldl (fun s q => s.modQueue q.1 q.2 fun u => { u with
      state := .disabled, look := [], stack := [], stopped := false, issued := [] }) s1
    .next (ran.foldl (fun s k => s.schedule s.now (.firmwareRestart k)) s2)

/-! ### Partition swap (R268) -/

/-- PARTITION_SWAP: the outgoing partition's queues are SUSPENDED and its contexts pre-empted; when all are saved the incoming
partition's contexts resume and its queues receive RESUME. -/
def execPartitionSwap (outgoing incoming : Nat) (s : State) : Host.Outcome State Fault Refusal :=
  match tget s.parts outgoing, tget s.parts incoming with
  | some o, some i =>
    if o.swapped || !i.swapped || !(i.clusters.all o.clusters.contains && o.clusters.all i.clusters.contains) then .next s
    else
      let s1 := (s.queuesOf o).foldl (fun s q => s.suspendQueue q.1 q.2) s
      let ms := s1.cores.flatMap fun c => if o.clusters.contains (clusterOf c.1) then
        (c.2.ctxs.filter fun x => x.1 < 4 && x.2.state == .active && x.2.wg.isSome).map fun x => (c.1, x.1) else []
      match s1.preempt ms with
      | (false, s2) => .next (s2.schedule (s2.after 1) (.partitionSwap outgoing incoming))
      | (true, s2) =>
        let s3 := { s2 with parts := tset (tset s2.parts outgoing { o with swapped := true }) incoming { i with swapped := false } }
        let back := s3.cores.flatMap fun c =>
          (c.2.saves.filter fun r => (s3.launchOf r.2.ctx).map (·.part) == some incoming).map fun r => (c.1, r.1, r.2.ctxNo)
        let s4 := back.foldl (fun s r => s.message (.contextResume r.1 r.2.1 r.1 r.2.2)) s3
        .next ((s4.queuesOf i).foldl (fun s q => s.resumeQueue q.1 q.2) s4)
  | _, _ => .next s

/-! ### Checkpoints (R273) -/

/-- A 64-bit word of a pillar, written by STKCPY's path at mem scope. -/
def State.putStk (s : State) (key pa : Nat) (v : Nat) : State := s.putPillar key (bytesAt pa (natToBytes 8 v))

/-- Stage 1 on one pillar: the head, the data, the tail; an uncorrectable source line ends it before the tail. -/
def State.localCopy (s : State) (k half gen key : Nat) : State :=
  let base := sysBase - 2 * half
  let s1 := s.putStk key (k * 2 ^ 30 + base) gen
  match stkCopy k key key 0 (base + 8) (half / 8) (half - 16) s1 with
  | (none, s2) => s2.putStk key (k * 2 ^ 30 + base + half - 8) gen
  | (some _, s2) => s2

/-- A copy in a half at a pillar's offset is valid when its head and tail hold the same nonzero number. -/
def State.copyValid (s : State) (k base half key : Nat) : Bool :=
  let word (off : Nat) : Nat := bytesToNat ((List.range 8).map fun i => s.phys.dramByte (some key) (k * 2 ^ 30 + base + off + i))
  word 0 != 0 && word 0 == word (half - 8)

/-- Stage 2 on one pillar: head, data and tail of the LOCAL half go to the BUDDY half of the pillar of the same number, in that order. -/
def State.buddyCopy (s : State) (k half key dev : Nat) : State :=
  let here := k * 2 ^ 30 + sysBase - 2 * half
  let there := k * 2 ^ 30 + sysBase - half
  let part (off n : Nat) : Nat × List Nat :=
    (dev, (there + off) :: (List.range n).map fun i => (s.phys.dramByte (some key) (here + off + i)).toNat)
  { s with fabric := { s.fabric with tx := s.fabric.tx ++ [part 0 8, part 8 (half - 16), part (half - 8) 8] } }

/-- The key slot that a partition's checkpoints use: its lowest granted one. -/
def Partition.keySlot (p : Partition) : Nat := (firstNat (fun i => p.grant.getLsbD i) 512 0).getD 0

/-- CHECKPOINT of generation gen: stage 1 on every pillar of the partition, then stage 2 to the buddy device; which device that is
and whether it takes the copy is firmware's affair (DESIGN CHOICE, log 4). Without a spare region there is none (DESIGN CHOICE, log 25). -/
def execCheckpoint (part gen : Nat) (s : State) : Host.Outcome State Fault Refusal :=
  match tget s.parts part with
  | none => .next s
  | some p =>
    let half := spareSize p.spare / 2
    if half = 0 || gen % 2 ^ 64 = 0 then .next (s.reply false)
    else
      let ks := p.clusters.flatMap fun c => ((List.range 12).map (12 * c + ·)).filter s.present
      let key := s.keyOf p.keySlot
      let s1 := ks.foldl (fun s k => s.localCopy k half gen key) s
      let (n, s2) := s1.draw1
      let dev := n % 512
      let (takes, s3) := s2.podTakes dev
      .next (if takes then (ks.foldl (fun s k => s.buddyCopy k half key dev) s3).reply true else s3.reply false)

/-! ### Loss of dies and devices (R274) -/

/-- A launch that had a workgroup on a lost core ends with −4, as by END_LAUNCH. -/
def State.endLost (s : State) (ln : Nat) : State :=
  let idle := ((tget s.launches ln).map fun l => l.live = 0 && !l.ending).getD false
  let s1 := s.endLaunch ln
  match idle, tget s1.launches ln with
  | true, some l => s1.report l (-4)
  | _, _ => s1

/-- DIE_LOSS. -/
def execDieLoss (lost : Loss) (s : State) : Host.Outcome State Fault Refusal :=
  match lost with
  | .device n =>
    if 512 ≤ n then .fault .absentUnit
    else .next { s with fabric := { s.fabric with lostDevices := nodup (s.fabric.lostDevices ++ [n]) } }
  | .die d =>
    if 4 ≤ d then .fault .absentUnit
    else
      let onDie (k : Nat) : Bool := dieOf k == d
      let s1 : State := { s with
        fabric := { s.fabric with lostDies := nodup (s.fabric.lostDies ++ [d]) }
        parts := s.parts.map fun p => (p.1, { p.2 with clusters := p.2.clusters.filter fun c => !onDie (12 * c) }) }
      let hit := nodup ((s1.cohorts.filter fun h => h.2.place.any onDie).map (·.2.launch))
      let s2 := (hit.filter fun ln => (tget s1.launches ln).isSome).foldl (fun s ln => s.endLost ln) (s1.aer aerDie)
      let s3 : State := { s2 with
        cores := s2.cores.filter fun c => !onDie c.1
        turn := s2.turn.filter fun a => match a with
          | .core k | .firmware k => !onDie k
          | .frontEnd e => e != d }
      let s4 := ((s3.fe d).queues.map (·.1)).foldl (fun s q => s.abortQueue d q (-4)) s3
      .next (s4.modFe d fun e => { e with lost := true })

/-! ### Key slots and attestation (R283, R284) -/

/-- KEY_SLOT_LOAD: later reads through the slot decrypt under the new key. -/
def execKeySlotLoad (slot : Nat) (key : BitVec 512) (s : State) : Host.Outcome State Fault Refusal :=
  if 512 ≤ slot then .fault .absentUnit
  else if s.phase != .running then .next s
  else .next { s with keys := tset s.keys slot key }

/-- What a report says of a partition. -/
def Partition.report (id : Nat) (p : Partition) : List Nat := [id, p.nbv, p.spare, p.grant.toNat]

/-- The attestation report for a nonce, and its signed hash; a RETURNED device reports only the state (R283, R285). -/
def State.attest (s : State) (nonce : List Byte) : List Nat :=
  let body := nonce.map (·.toNat) ++ [lifeOrder s.life]
  if s.life == .returned then [lifeOrder s.life]
  else
    let fw := s.objs.filter (·.2.fw)
    let all := body ++ [0xB1, Config.firmwareHash s.boots] ++ fw.map (fun o => Config.shake256 (o.2.words.map (·.toNat))) ++
      s.parts.flatMap fun p => p.2.report p.1
    let hash := Config.shake256 all
    all ++ [hash] ++ if s.identity then [Config.reportSignature hash] else []

/-- ATTESTATION_REQUEST with a nonce of 32 bytes. -/
def execAttestationRequest (nonce : List Byte) (s : State) : Host.Outcome State Fault Refusal :=
  if s.phase != .running || nonce.length != 32 then .next s
  else .next (s.modHost fun h => { h with mailbox := h.mailbox ++ [s.attest nonce] })

end Sys2Proof.Machine
end

