-- ==== Sys2Proof/Machine/Events.lean ====
section
/-! DEFINITION. Events of a core: bins and draws (R31-R33), the selector (R38-R40), results that land (R127-R129, R148),
stash fills, fences, trap records and the restart of the firmware slot. -/

namespace Sys2Proof.Machine

/-! ### Bins and the selector -/

/-- BIN_AGED: a PARTIAL bin whose age has reached BINAGE is AGED (R31, R32). -/
def execBinAged (core ctx bin : Nat) (s : State) : Host.Outcome State Fault Refusal :=
  let c := s.ctx core ctx
  match tget c.bins bin with
  | some b =>
    if b.state == .part && b.since + cycleLen * c.regs.binage ≤ s.now then
      .next (s.modCtx core ctx fun c => { c with bins := tset c.bins bin { b with state := .aged } })
    else .next s
  | none => .next s

/-- The bin that a context draws from now (R33): the firmware slot, which has no ages, takes its first. -/
def State.drawBin (s : State) (k x : Nat) : Option (Nat × Bin) :=
  let c := s.ctx k x
  let free := c.bins.filter fun e => !s.heldBin k c e.2
  if x == 4 then free.find? fun e => e.2.since ≤ s.now else ({ c with bins := free }).drawable s.now

/-- DRAW: an issue group from the oldest FULL bin, else the oldest AGED one (R33). -/
def execDraw (core ctx : Nat) (s : State) : Host.Outcome State Fault Refusal :=
  let c := s.ctx core ctx
  if c.group.isSome then .next s
  else match s.drawBin core ctx with
    | some (b, bin) => .next (s.modCtx core ctx (·.drawFrom s.now c.regs.binage 0 b bin))
    | none => .next s

/-- QUANTUM_EXPIRY: the context that has held issue for 4096 cycles yields at its next bundle boundary (R38). -/
def execQuantumExpiry (core : Nat) (s : State) : Host.Outcome State Fault Refusal :=
  let sel := (s.core core).sel
  match sel.holder with
  | some h =>
    if 4096 ≤ sel.held then
      .next ((s.modCtx core h fun c => { c with yields := true }).modCore core fun c => { c with sel := { c.sel with held := 0 } })
    else .next s
  | none => .next (s.modCore core fun c => { c with sel := { c.sel with held := 0 } })

/-- PRIORITY_BOOST: a READY context that has not issued for 65,536 cycles counts as priority 0 (R39). -/
def execPriorityBoost (core ctx : Nat) (s : State) : Host.Outcome State Fault Refusal :=
  if 65536 ≤ tgetD (s.core core).sel.unserved ctx 0 then
    .next (s.modCore core fun c => { c with sel := { c.sel with boosted := nodup (c.sel.boosted ++ [ctx]) } })
  else .next s

/-- FIRMWARE_CTL_STEAL: after 64 cycles of waiting the firmware slot takes CTL in the next cycle (R40). -/
def execFirmwareCtlSteal (core : Nat) (s : State) : Host.Outcome State Fault Refusal :=
  if 64 ≤ (s.core core).sel.fwWait then
    .next (s.modCore core fun c => { c with sel := { c.sel with fwSteal := true } })
  else .next s

/-! ### Results that land (R127-R129, R146, R148) -/

/-- The destination of a result as a late trap keeps it. -/
def Landing.destOf (l : Landing) : Nat × Nat :=
  if l.kind == .pred then (0x400 + l.dest, 1) else (l.dest, l.width)

/-- The words that a result overwrites in a speculation window, to be restored by a replay (R224). -/
def Ctx.saveSpec (c : Ctx) (l : Landing) : Ctx :=
  match c.spec, l.spec with
  | some sp, some b =>
    let old (t : Nat) : List Word :=
      let th := c.thread t
      if l.kind == .pred then [if th.qs.getLsbD l.dest then 1 else 0]
      else if isReg l.dest then (List.range l.width).map fun i => tgetD th.regs (l.dest + i) 0
      else (th.copyWords (l.dest - 0x140)).getD []
    let new := (l.vals.map (·.1) ++ l.zeros).map fun t => (⟨b, t, l.kind, l.dest, old t⟩ : SpecSave)
    if l.kind == .reg && isLatch l.dest then c else { c with spec := some { sp with saves := sp.saves ++ new } }
  | _, _ => c

/-- What late traps that are taken together have in common. -/
def LateTrap.point (l : LateTrap) : Pc × Option (Nat × Nat) × Bool × Nat := (l.at_, l.dest, l.eng, l.tick)

/-- Late traps of a context are taken: each gets its record, in the order of their detection, and the first of a thread parks it
(R256, R259) (DEDUCED, log 39). -/
def State.takeLates (s : State) (k x : Nat) (all : List LateTrap) : State :=
  let points := all.foldl (fun (acc : List (Pc × Option (Nat × Nat) × Bool × Nat)) e =>
    if acc.contains e.point then acc else acc ++ [e.point]) []
  points.foldl (fun s p =>
    s.takeLate k x ((all.filter fun e => e.point == p).map fun e => (e.thread, e.trap)) p.1 p.2.1 p.2.2.1 (some p.2.2.2)) s

/-- RESULT_LANDING: the results that are due enter their destinations and FLAGS; an op with an enabled exception writes
nothing and traps every thread of its ACTIVE (R148); late traps wait for the end of a branch delay (R256), and for the answers of a
speculation window (R225) (DEDUCED, log 20). -/
def execResultLanding (core ctx : Nat) (s : State) : Host.Outcome State Fault Refusal :=
  let c := s.ctx core ctx
  let due := (c.inflight.filter fun l => l.ready s.now).map fun l => { l with due := s.now }
  let bad := due.filter fun l => l.enabled c.regs.fpctl
  let good := due.filter fun l => !l.enabled c.regs.fpctl
  let clean := good.map fun l => { l with vals := l.vals.filter fun v => !(l.traps.any (·.1 == v.1)) }
  let rest := c.inflight.filter fun l => !l.ready s.now && !(bad.any fun b => b.sibling l && l.due ≤ s.now + cycleLen)
  let flags := (good.foldl (fun f l => f ||| l.flags) 0) % 32
  let c1 := clean.foldl Ctx.saveSpec { c with inflight := rest }
  let c2 := (c1.enter clean).settleCopies
  let c3 := { c2 with regs := { c2.regs with fpctl := c2.regs.fpctl ||| word64 (flags * 2 ^ 9) } }
  let found (l : Landing) (t : Nat) (tr : Trap) : LateTrap :=
    { thread := t, trap := tr, at_ := l.at_, dest := some l.destOf, eng := false, tick := s.gtc, spec := l.spec }
  let late := bad.flatMap (fun l => l.exc.map fun e => found l e.1 ⟨.fpException, e.2 % 32, 0⟩) ++
    good.flatMap fun l => l.traps.map fun e => found l e.1 e.2
  let all := (c.late ++ late).filter fun e => c.live.contains e.thread
  let s1 := s.modCtx core ctx fun _ => { c3 with late := [] }
  if ((c.group.bind (·.delay)).isSome && !c.stopping) || c3.answersDue then .next (s1.modCtx core ctx fun c => { c with late := all })
  else .next (s1.takeLates core ctx all)

/-! ### Copies, fills and fences -/

/-- GRANULE_COPY_COMPLETE: the wait of the copies made so far ends (R62). -/
def execGranuleCopyComplete (core ctx : Nat) (s : State) : Host.Outcome State Fault Refusal :=
  .next (s.modCtx core ctx fun c =>
    if c.mem.tready ≤ s.now then { c with mem := { c.mem with tready := 0 } } else c)

/-- A granule whose fill has completed (R170). -/
def GranState.filled (now : Nat) (g : GranState) : GranState :=
  match g with
  | .filling u m => if u ≤ now then (if m = 0 then .clean else .dirty m) else g
  | g => g

/-- An open row defers a line that the fill of a granule reads (R200). -/
def State.fillDeferred (s : State) (k x granule : Nat) : Bool :=
  [0, 128].any fun i => match s.probe (s.spaceOf k x) ((s.ctx k x).granVa (granule / 2048) (granule % 2048) + i) .load with
    | .ok pa _ => regionOf pa != .host && (tget s.phys.overlay pa).isNone && !s.bankIdle pa
    | _ => false

/-- STASH_FILL_COMPLETE (R170): a fill that an open row defers waits on (R200). The accesses that wait for the granule complete 14 cycles
after the fill. -/
def execStashFillComplete (core ctx granule : Nat) (s : State) : Host.Outcome State Fault Refusal :=
  match tget (s.ctx core ctx).mem.granules granule with
  | some g =>
    if (g.filled s.now).isFilling || !g.isFilling then .next s
    else if s.fillDeferred core ctx granule then .next (s.schedule (tickTime (s.gtc + 1)) (.stashFillComplete core ctx granule))
    else .next (s.modCtx core ctx fun c => { c with
      inflight := c.inflight.map fun l => l.fillsDone [granule] (s.after 14)
      mem := { c.mem with granules := tset c.mem.granules granule (g.filled s.now) } })
  | none => .next s

/-- FENCE_COMPLETE: the group goes on once the fence's accesses have reached their points (R337). -/
def execFenceComplete (core ctx : Nat) (s : State) : Host.Outcome State Fault Refusal :=
  match (s.ctx core ctx).fence with
  | some f =>
    if s.fenceReady core ctx f then
      let s1 := s.modCtx core ctx fun c => { c with fence := none }
      .next (if f.order == 0 then s1 else s1.releaseDone core ctx f.scope)
    else .next s
  | none => .next s

/-! ### Trap records (R259, R260) -/

/-- The words of a record with its sequence number (R259). -/
def seqWords (seq : Nat) (ws : List Word) : List Word :=
  ws.zipIdx.map fun p => if p.2 == 1 then p.1 ||| word64 (seq % 2 ^ 16) else p.1

/-- Records of a core enter the ring of its partition while it has room. -/
def deliverRecords (k : Nat) : Nat → State → State
  | 0, s => s
  | n + 1, s =>
    match (s.core k).recs, s.partOfCore k with
    | r :: rs, some (i, p) => match ringPush p.trapCtl with
      | some (h, ctl) =>
        let s1 := { s with parts := tset s.parts i { p with trapCtl := ctl, seq := (p.seq + 1) % 2 ^ 16 } }
        deliverRecords k n ((s1.modCore k fun c => { c with recs := rs }).putWords (p.trapBase.toNat + 64 * h) (seqWords p.seq r.words))
      | none => s
    | _, _ => s

/-- TRAP_RECORD_DELIVERY (R260). -/
def execTrapRecordDelivery (core : Nat) (s : State) : Host.Outcome State Fault Refusal :=
  .next (deliverRecords core (s.core core).recs.length s)

/-! ### The firmware slot (R261, R282) -/

/-- FIRMWARE_RESTART: at the recovery entry of the image (R261). -/
def execFirmwareRestart (core : Nat) (s : State) : Host.Outcome State Fault Refusal :=
  match (s.core core).sel.fwEntry with
  | some entry => .next (s.startFirmware core entry)
  | none => .next s

end Sys2Proof.Machine
end

