-- ==== Sys2Proof/Machine/Fabric.lean ====
section
/-! DEFINITION. The host's side: completions of host-window loads (R276) and CXL.mem (R277). The LFL ports: flits, lanes, training
(R278-R281). -/

namespace Sys2Proof.Machine

/-! ### Host window (R276) -/

/-- The words of a result with bytes of a host read laid over them from place `into` on. -/
def patchWords (ty : Nat) (ws : List Word) (into : Nat) (bs : List Byte) : List Word :=
  let old := ws.flatMap fun w => natToBytes 8 w.toNat
  let all := old.zipIdx.map fun p => if into ≤ p.2 then ((bs[p.2 - into]?).getD p.1) else p.1
  if isTileTy ty then natToWords ws.length (bytesToNat all) else [regImage ty (bytesToNat (all.take (tyBytes ty)))]

/-- What a completion does to the result that awaits it: its bytes, or the trap of an error. -/
def Landing.complete (now : Nat) (r : HostRead) (ok : Bool) (data : List Byte) (l : Landing) : Landing :=
  if !l.host.contains r.id then l
  else { l with
    host := l.host.filter (· != r.id), due := Nat.max l.due now
    vals := if ok then l.vals.map fun v => if v.1 == r.thread then (v.1, patchWords r.ty v.2 r.into (data.take r.len)) else v
      else l.vals
    traps := if ok then l.traps else l.traps ++ [(r.thread, ⟨.accessViolation, r.seg, r.va⟩)] }

/-- HOST_COMPLETION: the bytes of a host read arrive, or an error or the 50 ms timeout raises ACCESS_VIOLATION (DEDUCED, log 58). -/
def execHostCompletion (request : Nat) (ok : Bool) (data : List Byte) (s : State) : Host.Outcome State Fault Refusal :=
  match s.host.reads.find? fun r => r.id == request with
  | none => .next s
  | some r =>
    let good := ok && data.length == r.len
    let s1 := s.modHost fun h => { h with reads := h.reads.filter fun e => e.id != request }
    .next (s1.modCtx r.core r.ctx fun c => { c with inflight := c.inflight.map (·.complete s.now r good data) })

/-! ### Configuration requests (R22, R282) -/

/-- What the device answers to a configuration request: Configuration Request Retry Status while the wipe runs (R22); nothing after a
thermal stop (R15). -/
inductive ConfigReply where
  | retryStatus | served | nothing
deriving DecidableEq, Repr

def State.configReply (s : State) : ConfigReply :=
  match s.phase with
  | .wiping => .retryStatus
  | .running | .bootFailed => .served
  | .thermalStop => .nothing

/-- What a read of a doorbell page returns (R275). -/
def doorbellRead (bytes : Nat) : List Byte := List.replicate bytes 0#8

/-! ### CXL.mem (R277) -/

/-- A run of 8 MiB lies in the user region of a pillar of the partition. -/
def State.runOk (s : State) (p : Partition) (run : Nat) : Bool :=
  let k := run / 128
  s.present k && p.clusters.contains (clusterOf k) && (run % 128 + 1) * 2 ^ 23 ≤ s.userBytes k p.spare

/-- HDM_WINDOW_SET: 256 MiB × n, one run for each granule; a refused request keeps the old mapping. -/
def execHdmWindowSet (req : HdmReq) (s : State) : Host.Outcome State Fault Refusal :=
  if s.phase != .running then .next s
  else match tget s.parts req.part with
    | none => .next (s.reply false)
    | some p =>
      let ok := 1 ≤ req.size && req.size ≤ 256 && req.runs.length == 32 * req.size && req.key < 512 &&
        (nodup req.runs).length == req.runs.length && req.runs.all (s.runOk p)
      .next (if ok then (s.reply true).modHost fun h => { h with window := some req } else s.reply false)

/-- The physical address of a byte of the window. -/
def hdmPa (w : HdmReq) (addr : Nat) : Option Nat := (w.runs[addr / 2 ^ 23]?).map fun r => r * 2 ^ 23 + addr % 2 ^ 23

/-- The physical addresses of an access; none when it leaves the window. -/
def State.hdmRun (s : State) (addr len : Nat) : Option (Nat × List Nat) :=
  s.host.window.bind fun w =>
    let as := (List.range len).map fun i => hdmPa w (addr + i)
    if as.all (·.isSome) then some (s.keyOf w.key, as.filterMap id) else none

/-- CXL_MEM_READ: deferred while a bank it reads has an open row (R200); a poisoned line returns poison. Nothing is accepted while
the device does not run (R22). -/
def execCxlMemRead (addr len : Nat) (s : State) : Host.Outcome State Fault Refusal :=
  if s.phase != .running then .next s
  else match s.hdmRun addr len with
    | none => .next s
    | some (key, as) =>
      if !as.all s.bankIdle then .next (s.message (.cxlMemRead addr len))
      else
        let bad := as.any s.uncorrectable
        .next (s.modHost fun h => { h with cxl := h.cxl ++
          [(if bad then [] else as.map fun a => s.phys.byte (some key) a, bad)] })

/-- CXL_MEM_WRITE: performed at the home slice after the leases on its bytes (R223). -/
def execCxlMemWrite (addr : Nat) (data : List Byte) (s : State) : Host.Outcome State Fault Refusal :=
  if s.phase != .running then .next s
  else match s.hdmRun addr data.length with
    | none => .next s
    | some (key, as) =>
      if !as.all s.bankIdle then .next (s.message (.cxlMemWrite addr data))
      else
        let bs := as.zip data
        .next ((nodup (as.map (· / 128))).foldl (fun s l => s.homeArrive l
          { bytes := bs.filter fun b => b.1 / 128 == l, key := some key, owners := [] }) s)

/-! ### LFL ports (R278-R281) -/

def portCount : Nat := 48

def State.port (s : State) (p : Nat) : Port := tgetD s.fabric.ports p { lanes := tgetD s.fuses.lanes p 4 }

/-- A port with fewer than two lanes is absent (R20). -/
def State.portPresent (s : State) (p : Nat) : Bool := p < portCount && 2 ≤ tgetD s.fuses.lanes p 4

def State.setPort (s : State) (p : Nat) (v : Port) : State := { s with fabric := { s.fabric with ports := tset s.fabric.ports p v } }

/-- The port that carries class 0 to a device: DEST mod 48, or the next port up in ascending order (R279, R280). -/
def State.class0Port (s : State) (dest : Nat) : Option Nat :=
  ((List.range portCount).map fun i => (dest + i) % portCount).find? fun p => (s.port p).up

/-- The check of a flit (R278). -/
def flitOk (flit : List Byte) : Bool :=
  flit.length == 256 && bytesToNat (flit.drop 248) == (Config.crc64 (flit.take 248)).toNat

/-- FLIT_RECEIVE: a flit whose check fails is sent again by the link, as is one in flight on a port that retrains; otherwise it is
delivered (DEDUCED, log 71). The links carry nothing but while the device runs (R15, R282). -/
def execFlitReceive (port : Nat) (flit : List Byte) (s : State) : Host.Outcome State Fault Refusal :=
  if !s.portPresent port then .fault .absentUnit
  else if s.phase != .running then .next s
  else
    let p := s.port port
    if !p.up && p.retrain.isNone then .next s
    else if p.retrain.isSome || !flitOk flit then
      .next { s with fabric := { s.fabric with retransmit := s.fabric.retransmit ++ [port] } }
    else .next { s with fabric := { s.fabric with rx := s.fabric.rx ++ [flit] } }

/-- Every other device of the pod is lost when no port is up or retraining (R280, R274). -/
def State.checkPorts (s : State) : State :=
  if (List.range portCount).any fun p => (s.port p).up || (s.port p).retrain.isSome then s
  else { s with fabric := { s.fabric with lostDevices := (List.range 512).filter fun n => n != s.fuses.device } }

/-- LANE_FAILURE: the port retrains on the lanes left, for at most 2 µs, or goes down below two (R280). -/
def execLaneFailure (port : Nat) (s : State) : Host.Outcome State Fault Refusal :=
  if !s.portPresent port then .fault .absentUnit
  else
    let p := s.port port
    let n := p.lanes - 1
    if n < 2 then .next ((s.setPort port { p with lanes := n, up := false, retrain := none }).checkPorts)
    else if !p.up && p.retrain.isNone then .next (s.setPort port { p with lanes := n })
    else
      let (t, s1) := s.draw1
      let ends := s1.now + tickTime (1 + t % 2000)
      .next ((s1.setPort port { p with lanes := n, up := false, retrain := some ends }).schedule ends (.retrainComplete port))

/-- RETRAIN_COMPLETE: the port runs at its reduced rate. -/
def execRetrainComplete (port : Nat) (s : State) : Host.Outcome State Fault Refusal :=
  if !s.portPresent port then .fault .absentUnit
  else
    let p := s.port port
    match p.retrain with
    | some t => if t ≤ s.now then .next (s.setPort port { p with retrain := none, up := true }) else .next s
    | none => .next s

/-- LINK_TRAINING: the port reads the number of its switch port; the number of port 0 is the device's, and a port with another
stays down (R281): so does every port when port 0 is absent (DESIGN CHOICE, log 84). After a thermal stop none trains (R15). -/
def execLinkTraining (port switchPort : Nat) (s : State) : Host.Outcome State Fault Refusal :=
  if !s.portPresent port || 512 ≤ switchPort then .fault .absentUnit
  else if s.phase == .thermalStop then .next s
  else
    let s1 := s.setPort port { s.port port with plane := some switchPort, retrain := none }
    let s2 := if port = 0 then { s1 with fuses := { s1.fuses with device := switchPort } } else s1
    let zero := (s2.port 0).plane
    .next { s2 with fabric := { s2.fabric with ports := s2.fabric.ports.map fun e =>
      (e.1, { e.2 with up := 2 ≤ e.2.lanes && e.2.retrain.isNone && e.2.plane.isSome && e.2.plane == zero }) } }

end Sys2Proof.Machine
end

