-- ==== Sys2Proof/Machine/Dispatch.lean ====
section
/-! DEFINITION. One arm per instruction: its meaning, or a refusal by name. -/

namespace Sys2Proof.Machine

def exec (i : Instr) (s : State) : Host.Outcome State Fault Refusal :=
  match i with
  | .deviceReset kind => Sys2Proof.Machine.execDeviceReset kind s
  | .wipeComplete => Sys2Proof.Machine.execWipeComplete s
  | .thermalStop die => Sys2Proof.Machine.execThermalStop die s
  | .lifeCycleChange next => Sys2Proof.Machine.execLifeCycleChange next s
  | .powerLossDuringWipe => Sys2Proof.Machine.execPowerLossDuringWipe s
  | .partitionCreate req => Sys2Proof.Machine.execPartitionCreate req s
  | .partitionReset part => Sys2Proof.Machine.execPartitionReset part s
  | .loadObject part image => Sys2Proof.Machine.execLoadObject part image s
  | .unloadObject obj => Sys2Proof.Machine.execUnloadObject obj s
  | .workgroupStart launch core => Sys2Proof.Machine.execWorkgroupStart launch core s
  | .binAged core ctx bin => Sys2Proof.Machine.execBinAged core ctx bin s
  | .draw core ctx => Sys2Proof.Machine.execDraw core ctx s
  | .quantumExpiry core => Sys2Proof.Machine.execQuantumExpiry core s
  | .priorityBoost core ctx => Sys2Proof.Machine.execPriorityBoost core ctx s
  | .firmwareCtlSteal core => Sys2Proof.Machine.execFirmwareCtlSteal core s
  | .preemption core ctx => Sys2Proof.Machine.execPreemption core ctx s
  | .contextResume core slot toCore toCtx => Sys2Proof.Machine.execContextResume core slot toCore toCtx s
  | .resultLanding core ctx => Sys2Proof.Machine.execResultLanding core ctx s
  | .granuleCopyComplete core ctx => Sys2Proof.Machine.execGranuleCopyComplete core ctx s
  | .translateRequest cluster core ctx key => Sys2Proof.Machine.execTranslateRequest cluster core ctx key s
  | .translationComplete cluster key => Sys2Proof.Machine.execTranslationComplete cluster key s
  | .regclmGrant core => Sys2Proof.Machine.execRegclmGrant core s
  | .pageWalkComplete core ctx thread => Sys2Proof.Machine.execPageWalkComplete core ctx thread s
  | .stashFillComplete core ctx granule => Sys2Proof.Machine.execStashFillComplete core ctx granule s
  | .homeWritePerform line => Sys2Proof.Machine.execHomeWritePerform line s
  | .renewalAnswer core ctx line => Sys2Proof.Machine.execRenewalAnswer core ctx line s
  | .collapseRequest line node => Sys2Proof.Machine.execCollapseRequest line node s
  | .collapseAnswer line node => Sys2Proof.Machine.execCollapseAnswer line node s
  | .promotionRequest core ctx line => Sys2Proof.Machine.execPromotionRequest core ctx line s
  | .wcbSend cluster line => Sys2Proof.Machine.execWcbSend cluster line s
  | .rangeEntryExpiry slice index => Sys2Proof.Machine.execRangeEntryExpiry slice index s
  | .circuitArrival cohort src dst => Sys2Proof.Machine.execCircuitArrival cohort src dst s
  | .queueWriteObserved die queue => Sys2Proof.Machine.execQueueWriteObserved die queue s
  | .doorbellWrite die bytes value => Sys2Proof.Machine.execDoorbellWrite die bytes value s
  | .lookaheadRead die queue => Sys2Proof.Machine.execLookaheadRead die queue s
  | .nopPacket die queue => Sys2Proof.Machine.execNopPacket die queue s
  | .launch die queue => Sys2Proof.Machine.execLaunch die queue s
  | .copy die queue => Sys2Proof.Machine.execCopy die queue s
  | .copyComplete die job => Sys2Proof.Machine.execCopyComplete die job s
  | .barrier die queue => Sys2Proof.Machine.execBarrier die queue s
  | .barrierReread die queue packet => Sys2Proof.Machine.execBarrierReread die queue packet s
  | .signal die queue => Sys2Proof.Machine.execSignal die queue s
  | .callPacket die queue => Sys2Proof.Machine.execCallPacket die queue s
  | .returnPacket die queue => Sys2Proof.Machine.execReturnPacket die queue s
  | .join die queue => Sys2Proof.Machine.execJoin die queue s
  | .cond die queue => Sys2Proof.Machine.execCond die queue s
  | .loop die queue => Sys2Proof.Machine.execLoop die queue s
  | .timestamp die queue => Sys2Proof.Machine.execTimestamp die queue s
  | .packetComplete die queue packet value => Sys2Proof.Machine.execPacketComplete die queue packet value s
  | .priorityPreemption die queue => Sys2Proof.Machine.execPriorityPreemption die queue s
  | .enable die queue => Sys2Proof.Machine.execEnable die queue s
  | .disable die queue => Sys2Proof.Machine.execDisable die queue s
  | .reset die queue => Sys2Proof.Machine.execReset die queue s
  | .suspend die queue => Sys2Proof.Machine.execSuspend die queue s
  | .resume die queue => Sys2Proof.Machine.execResume die queue s
  | .segmentArrival core ctx => Sys2Proof.Machine.execSegmentArrival core ctx s
  | .bankAccessComplete core slot => Sys2Proof.Machine.execBankAccessComplete core slot s
  | .rowOpen core slot => Sys2Proof.Machine.execRowOpen core slot s
  | .refreshClose core slot => Sys2Proof.Machine.execRefreshClose core slot s
  | .rowClose core slot => Sys2Proof.Machine.execRowClose core slot s
  | .prechargeEnd core slot => Sys2Proof.Machine.execPrechargeEnd core slot s
  | .engineWorkComplete core => Sys2Proof.Machine.execEngineWorkComplete core s
  | .slotClearComplete core => Sys2Proof.Machine.execSlotClearComplete core s
  | .osclaimGrant core => Sys2Proof.Machine.execOsclaimGrant core s
  | .transferStart core => Sys2Proof.Machine.execTransferStart core s
  | .transferComplete core => Sys2Proof.Machine.execTransferComplete core s
  | .transferFault core => Sys2Proof.Machine.execTransferFault core s
  | .loopGeneratorEntry core ctx => Sys2Proof.Machine.execLoopGeneratorEntry core ctx s
  | .mcastDelivery cohort group target => Sys2Proof.Machine.execMcastDelivery cohort group target s
  | .redgrpResult cohort group => Sys2Proof.Machine.execRedgrpResult cohort group s
  | .stkcpyComplete core => Sys2Proof.Machine.execStkcpyComplete core s
  | .pbrFetchComplete core ctx b => Sys2Proof.Machine.execPbrFetchComplete core ctx b s
  | .fenceComplete core ctx => Sys2Proof.Machine.execFenceComplete core ctx s
  | .trapRecordDelivery core => Sys2Proof.Machine.execTrapRecordDelivery core s
  | .firmwareRestart core => Sys2Proof.Machine.execFirmwareRestart core s
  | .migrationRequest core ctx toCore => Sys2Proof.Machine.execMigrationRequest core ctx toCore s
  | .migrationCapture core ctx => Sys2Proof.Machine.execMigrationCapture core ctx s
  | .partitionSwap outgoing incoming => Sys2Proof.Machine.execPartitionSwap outgoing incoming s
  | .checkpoint part gen => Sys2Proof.Machine.execCheckpoint part gen s
  | .dieLoss lost => Sys2Proof.Machine.execDieLoss lost s
  | .hostCompletion request ok data => Sys2Proof.Machine.execHostCompletion request ok data s
  | .cxlMemRead addr len => Sys2Proof.Machine.execCxlMemRead addr len s
  | .cxlMemWrite addr data => Sys2Proof.Machine.execCxlMemWrite addr data s
  | .flitReceive port flit => Sys2Proof.Machine.execFlitReceive port flit s
  | .laneFailure port => Sys2Proof.Machine.execLaneFailure port s
  | .retrainComplete port => Sys2Proof.Machine.execRetrainComplete port s
  | .linkTraining port switchPort => Sys2Proof.Machine.execLinkTraining port switchPort s
  | .attestationRequest nonce => Sys2Proof.Machine.execAttestationRequest nonce s
  | .keySlotLoad slot key => Sys2Proof.Machine.execKeySlotLoad slot key s
  | .abs o => Sys2Proof.Machine.execAbs o s
  | .add o => Sys2Proof.Machine.execAdd o s
  | .and o => Sys2Proof.Machine.execAnd o s
  | .bfi o => Sys2Proof.Machine.execBfi o s
  | .bfx o => Sys2Proof.Machine.execBfx o s
  | .brev o => Sys2Proof.Machine.execBrev o s
  | .clz o => Sys2Proof.Machine.execClz o s
  | .cmp o => Sys2Proof.Machine.execCmp o s
  | .accld o => Sys2Proof.Machine.execAccld o s
  | .accst o => Sys2Proof.Machine.execAccst o s
  | .accz o => Sys2Proof.Machine.execAccz o s
  | .addc o => Sys2Proof.Machine.execAddc o s
  | .atom o => Sys2Proof.Machine.execAtom o s
  | .atomAcq o => Sys2Proof.Machine.execAtomAcq o s
  | .atomRel o => Sys2Proof.Machine.execAtomRel o s
  | .atomAr o => Sys2Proof.Machine.execAtomAr o s
  | .barAw o => Sys2Proof.Machine.execBarAw o s
  | .barArr o => Sys2Proof.Machine.execBarArr o s
  | .barWait o => Sys2Proof.Machine.execBarWait o s
  | .bartest o => Sys2Proof.Machine.execBartest o s
  | .bartestCtr o => Sys2Proof.Machine.execBartestCtr o s
  | .br e => Sys2Proof.Machine.execBr e s
  | .cbr q t f => Sys2Proof.Machine.execCbr q t f s
  | .brn o => Sys2Proof.Machine.execBrn o s
  | .brk o => Sys2Proof.Machine.execBrk o s
  | .call o => Sys2Proof.Machine.execCall o s
  | .const o => Sys2Proof.Machine.execConst o s
  | .csrrd o => Sys2Proof.Machine.execCsrrd o s
  | .csrwr o => Sys2Proof.Machine.execCsrwr o s
  | .div o => Sys2Proof.Machine.execDiv o s
  | .evqpop o => Sys2Proof.Machine.execEvqpop o s
  | .exit o => Sys2Proof.Machine.execExit o s
  | .fadd o => Sys2Proof.Machine.execFadd o s
  | .fsub o => Sys2Proof.Machine.execFsub o s
  | .fmul o => Sys2Proof.Machine.execFmul o s
  | .ffma o => Sys2Proof.Machine.execFfma o s
  | .fdiv o => Sys2Proof.Machine.execFdiv o s
  | .fmin o => Sys2Proof.Machine.execFmin o s
  | .fmax o => Sys2Proof.Machine.execFmax o s
  | .fcmp o => Sys2Proof.Machine.execFcmp o s
  | .fcvt o => Sys2Proof.Machine.execFcvt o s
  | .fence o => Sys2Proof.Machine.execFence o s
  | .fill o => Sys2Proof.Machine.execFill o s
  | .freeze o => Sys2Proof.Machine.execFreeze o s
  | .frnd o => Sys2Proof.Machine.execFrnd o s
  | .icvt o => Sys2Proof.Machine.execIcvt o s
  | .idx o => Sys2Proof.Machine.execIdx o s
  | .lcvt o => Sys2Proof.Machine.execLcvt o s
  | .ld o => Sys2Proof.Machine.execLd o s
  | .ldRng o => Sys2Proof.Machine.execLdRng o s
  | .ldv o => Sys2Proof.Machine.execLdv o s
  | .lpack o => Sys2Proof.Machine.execLpack o s
  | .lunpk o => Sys2Proof.Machine.execLunpk o s
  | .madc o => Sys2Proof.Machine.execMadc o s
  | .max o => Sys2Proof.Machine.execMax o s
  | .min o => Sys2Proof.Machine.execMin o s
  | .mul o => Sys2Proof.Machine.execMul o s
  | .mulhi o => Sys2Proof.Machine.execMulhi o s
  | .neg o => Sys2Proof.Machine.execNeg o s
  | .not o => Sys2Proof.Machine.execNot o s
  | .or o => Sys2Proof.Machine.execOr o s
  | .popc o => Sys2Proof.Machine.execPopc o s
  | .rem o => Sys2Proof.Machine.execRem o s
  | .rot o => Sys2Proof.Machine.execRot o s
  | .mcast o => Sys2Proof.Machine.execMcast o s
  | .redgrp o => Sys2Proof.Machine.execRedgrp o s
  | .mma o => Sys2Proof.Machine.execMma o s
  | .mov o => Sys2Proof.Machine.execMov o s
  | .nop o => Sys2Proof.Machine.execNop o s
  | .osclaim o => Sys2Proof.Machine.execOsclaim o s
  | .osload o => Sys2Proof.Machine.execOsload o s
  | .osrel o => Sys2Proof.Machine.execOsrel o s
  | .pbr o => Sys2Proof.Machine.execPbr o s
  | .pref o => Sys2Proof.Machine.execPref o s
  | .publish o => Sys2Proof.Machine.execPublish o s
  | .recvc o => Sys2Proof.Machine.execRecvc o s
  | .reform o => Sys2Proof.Machine.execReform o s
  | .regrel o => Sys2Proof.Machine.execRegrel o s
  | .regclm o => Sys2Proof.Machine.execRegclm o s
  | .ret o => Sys2Proof.Machine.execRet o s
  | .rowact o => Sys2Proof.Machine.execRowact o s
  | .rowactForce o => Sys2Proof.Machine.execRowactForce o s
  | .rowcon o => Sys2Proof.Machine.execRowcon o s
  | .rowconW o => Sys2Proof.Machine.execRowconW o s
  | .rowcls o => Sys2Proof.Machine.execRowcls o s
  | .segset o => Sys2Proof.Machine.execSegset o s
  | .sel o => Sys2Proof.Machine.execSel o s
  | .sendc o => Sys2Proof.Machine.execSendc o s
  | .sfn o => Sys2Proof.Machine.execSfn o s
  | .shape rows cols => Sys2Proof.Machine.execShape rows cols s
  | .shfl o => Sys2Proof.Machine.execShfl o s
  | .shl o => Sys2Proof.Machine.execShl o s
  | .shr o => Sys2Proof.Machine.execShr o s
  | .shra o => Sys2Proof.Machine.execShra o s
  | .sub o => Sys2Proof.Machine.execSub o s
  | .xor o => Sys2Proof.Machine.execXor o s
  | .spill o => Sys2Proof.Machine.execSpill o s
  | .st o => Sys2Proof.Machine.execSt o s
  | .stv o => Sys2Proof.Machine.execStv o s
  | .stmap o => Sys2Proof.Machine.execStmap o s
  | .stwb o => Sys2Proof.Machine.execStwb o s
  | .stinv o => Sys2Proof.Machine.execStinv o s
  | .stkcpy o => Sys2Proof.Machine.execStkcpy o s
  | .subb o => Sys2Proof.Machine.execSubb o s
  | .switch ty v dflt cases => Sys2Proof.Machine.execSwitch ty v dflt cases s
  | .ticket o => Sys2Proof.Machine.execTicket o s
  | .tlbinv o => Sys2Proof.Machine.execTlbinv o s
  | .tnest o => Sys2Proof.Machine.execTnest o s
  | .trap o => Sys2Proof.Machine.execTrap o s
  | .retry o => Sys2Proof.Machine.execRetry o s
  | .cont o => Sys2Proof.Machine.execCont o s
  | .replay o => Sys2Proof.Machine.execReplay o s
  | .fail o => Sys2Proof.Machine.execFail o s
  | .endThread o => Sys2Proof.Machine.execEndThread o s
  | .endLaunch o => Sys2Proof.Machine.execEndLaunch o s
  | .vote o => Sys2Proof.Machine.execVote o s
  | .vred o => Sys2Proof.Machine.execVred o s
  | .vscan inc o => Sys2Proof.Machine.execVscan inc o s
  | .xfer o => Sys2Proof.Machine.execXfer o s
  | .xloop o => Sys2Proof.Machine.execXloop o s
  | .xstat o => Sys2Proof.Machine.execXstat o s
  | .waitid o => Sys2Proof.Machine.execWaitid o s
  | .xcancel o => Sys2Proof.Machine.execXcancel o s
  | .yield o => Sys2Proof.Machine.execYield o s
  | .bankRefresh core slot => Sys2Proof.Machine.execBankRefresh core slot s
  | .compaction cluster => Sys2Proof.Machine.execCompaction cluster s
  | .hdmWindowSet req => Sys2Proof.Machine.execHdmWindowSet req s

end Sys2Proof.Machine
end

