-- ==== Sys2Proof/Machine/Step.lean ====
section
/-! DEFINITION. The step of the machine, and a state whose next step runs a given instruction. -/

namespace Sys2Proof.Machine

/-- One step: one event of the machine, or the passage of time (DESIGN CHOICE, log 1). -/
def step (s : State) : Host.Outcome State Fault Refusal := machineStep exec s

/-- The native words of an LPF instruction that stands alone: the bundle of its native op. -/
def fetchWords (nbits w : Nat) : List W32 :=
  match decodeTableWord nbits w with
  | some i => (encode i).getD []
  | none => [BitVec.ofNat 32 w]

/-- The barrier that a BAR word names, with the mode its form asks for and a count of 1 (R80). -/
def fetchBars (nbits w : Nat) : List (Nat × Nat × Nat) :=
  match decodeTableWord nbits w with
  | some (.barAw o) => [((o.mod.extractLsb' 0 4).toNat, 0, 1)]
  | some (.barArr o) => [((o.mod.extractLsb' 0 4).toNat, 1, 1)]
  | some (.barWait o) => [((o.mod.extractLsb' 0 4).toNat, 1, 1)]
  | some (.bartest o) => [((o.mod.extractLsb' 0 4).toNat, 0, 1)]
  | some (.bartestCtr o) => [((o.mod.extractLsb' 0 4).toNat, 0, 1)]
  | _ => []

/-- The load that places an instruction where the next step fetches (DESIGN CHOICE, log 12): one partition, object 1 with the
instruction as function 0, its translation in cluster 0, and a workgroup of one thread in context 0 of core 0 whose
issue group stands at it. -/
def State.withFetchWord (s : State) (nbits w : Nat) : State :=
  let ws := fetchWords nbits w
  let tr : Trans := ⟨⟨1, 0, 0, 8⟩, ws, [], 0, 0, [(0, ws.length)], [(0, 0, 0)]⟩
  let obj : Obj := ⟨0, [], false, [⟨0, 0, true, 0, 8, [], [], []⟩], fetchBars nbits w, [], 0, 0⟩
  let part : Partition := { clusters := [0], spare := 1, nbv := 1, grant := 0, roots := [] }
  let launch : Launch :=
    { die := 0, queue := 0, packet := 0, part := 0, obj := 1, func := 0, ncoh := 1, rows := 1, cols := 1, wgsize := 1,
      budget := 8, tmpl := false, prio := 0, asid := 1, rec_ := 0, segBase := [], segLim := [], span := 0, table := [], lastPtr := 0,
      params := [], frozen := none, live := 1 }
  let wg : Wg := ⟨0, 0, 0, 0, 1, 8, 1, 0, false, true⟩
  let cohort : Cohort :=
    { launch := 0, index := 0, rows := 1, cols := 1, place := [0], ctxOf := [0], start := 0, span := 0, table := [] }
  let thread : Thread := { budget := 8, place := .group }
  let ctx : Ctx :=
    { state := .active, wg := some wg, threads := [(0, thread)], charged := true
      group := some ⟨[(0, 0)], ⟨1, 0⟩, 0, none, none⟩ }
  let core : Core := { ctxs := [(0, ctx)], taken := 8, resident := [1] }
  { s with
    phase := .running
    agenda := []
    turn := [.core 0]
    joined := [.core 0]
    cores := tset s.cores 0 core
    clusters := tset s.clusters 0 { stubs := [⟨⟨1, 0, 0, 8⟩, .present 1 sysBase, 1, 0, [], 0⟩], trans := [(1, tr)], nextTr := 2 }
    parts := tset s.parts 0 part
    objs := tset s.objs 1 obj
    nextObj := 2
    launches := tset s.launches 0 launch
    nextLaunch := 1
    cohorts := tset s.cohorts 0 cohort
    nextCohort := 1 }

end Sys2Proof.Machine
end

