-- ==== Sys2Proof/Safety.lean ====
section
/-! DEFINITION. What a step promises, in the words that the statements use: an instruction completes, its operands are sound, its
result is on its way, its threads are parked with a trap, the machine waits. -/

namespace Sys2Proof.Machine

/-- A step goes on. -/
def State.goesOn (s : State) : Prop := ∃ t, step s = .next t

/-- An instruction goes on in a state, and what then holds. -/
def Completes (i : Instr) (s : State) (post : State → Prop) : Prop := ∃ t, exec i s = .next t ∧ post t

/-- The sources and the destination of an op are legal and readable (R57, R125, R126, R135, R295): every source run exists,
no active thread reads a marked register, the destination takes the result, and a last register has room for its copy.
`srcs` holds selectors and run lengths. -/
structure Sound (s : State) (o : Op) (srcs : List (Nat × Nat)) (dest width : Nat) : Prop where
  runs : ∀ r ∈ srcs, srcOk o r.1 r.2 = true
  clean : ∀ e ∈ s.active o, ∀ r ∈ srcs, isReg r.1 = true →
    ∀ n ∈ (s.me.thread e.2).poisoned, ¬(r.1 ≤ n ∧ n < r.1 + r.2)
  target : destOk o.slot dest width = true
  room : isLast dest = true → ∀ e ∈ s.active o, (s.me.thread e.2).copyFits (dest - 0x140) width = true

/-- The sources of an op without a register destination. -/
structure Readable (s : State) (o : Op) (srcs : List (Nat × Nat)) : Prop where
  runs : ∀ r ∈ srcs, srcOk o r.1 r.2 = true
  clean : ∀ e ∈ s.active o, ∀ r ∈ srcs, isReg r.1 = true →
    ∀ n ∈ (s.me.thread e.2).poisoned, ¬(r.1 ≤ n ∧ n < r.1 + r.2)

/-- The cycles after which a lane's result is due: on JXN-2 the lanes from 16 up of a two-cycle VEC issue take one more (R127). -/
def dueIn (s : State) (o : Op) (lat lane : Nat) : Nat := lat + if s.halved o = true ∧ 16 ≤ lane then 1 else 0

/-- The results of an op are on their way and nothing else has changed but the copy entries that a last register has claimed and the
unit's next issue (R57, R126-R130, R295). `v` gives the
words of a lane and thread. A guard-false lane takes zero, unless the destination is a last register (R58). -/
structure Lands (s t : State) (o : Op) (kind : DestKind) (dest width lat interval : Nat) (v : Nat → Nat → List Word)
    (ls : List Landing) : Prop where
  frame : t =
    let u := (s.claimLast kind dest width ((s.active o).map (·.2))).modMe fun c => { c with inflight := c.inflight ++ ls }
    if interval ≤ 1 then u else u.modHome fun c => { c with unitFree := tset c.unitFree o.slot (s.now + cycleLen * interval) }
  place : ∀ l ∈ ls, l.kind = kind ∧ l.dest = dest ∧ l.width = width ∧ l.slot = o.slot ∧ l.at_ = s.me.pc ∧ l.issued = s.now ∧
    l.window = if 4 < lat ∨ 1 < width then some o.la.toNat else none
  free : ∀ l ∈ ls, l.host = [] ∧ l.awaits = [] ∧ l.fills = [] ∧ l.recv = none
  given : ∀ e ∈ s.active o, ∃ l ∈ ls, (e.2, v e.1 e.2) ∈ l.vals ∧ l.due = s.now + cycleLen * dueIn s o lat e.1
  only : ∀ l ∈ ls, ∀ p ∈ l.vals, ∃ e ∈ s.active o, p = (e.2, v e.1 e.2)
  zeroed : (isReg dest = true ∨ kind = .pred) → ∀ e ∈ s.idle o, ∃ l ∈ ls, e.2 ∈ l.zeros ∧ l.due = s.now + cycleLen * dueIn s o lat e.1

/-- A result without exceptions, flags or late traps. -/
def Landing.plain (l : Landing) : Prop := l.flags = 0 ∧ l.exc = [] ∧ l.traps = []

/-- The state after an op of one result, with every landing plain. -/
def Gives (s t : State) (o : Op) (kind : DestKind) (dest width lat interval : Nat) (v : Nat → Nat → List Word) : Prop :=
  ∃ ls, Lands s t o kind dest width lat interval v ls ∧ ∀ l ∈ ls, l.plain

/-- The context waits: its bundle is held for the cause, and nothing else has changed (R37). -/
def HeldFor (e : Stall) (s t : State) : Prop := t = s.modMe fun c => { c with hold := some e }

/-- A thread stands filed at a key (R29, R30): in the bin of that key, or on the overflow list. -/
def Filed (c : Ctx) (key : BinKey) (t : Nat) : Prop :=
  (∃ e ∈ c.bins, e.2.key = key ∧ t ∈ e.2.threads) ∨ (key, t) ∈ c.overflow

/-- The tables of a context rise, and each thread of the issue group stands there and holds one lane (R9, R29). -/
structure Ctx.Tidy (c : Ctx) : Prop where
  bins : c.bins.Pairwise fun a b => a.1 < b.1
  threads : c.threads.Pairwise fun a b => a.1 < b.1
  lanes : ((c.group.map Group.threads).getD []).Nodup
  standing : ∀ t ∈ (c.group.map Group.threads).getD [], (c.thread t).place = .group

/-- The threads of the issue group go on at PCs of their own: as one group where they agree, else each filed at its PC and the
issue group over (R29). -/
def Goes (s t : State) (dest : Nat × Nat → Pc) : Prop :=
  (∃ pc, (∀ e ∈ s.group.lanes, dest e = pc) ∧ t.me.group = s.me.group.map fun g => { g with jump := some pc }) ∨
  (t.me.group = none ∧ ∀ e ∈ s.group.lanes, Filed t.me ⟨dest e, none⟩ e.2)

/-- The stub of a key leads to a translation, and no failure of it waits for the context (R115, R120). -/
def State.StubHolds (s : State) (key : TKey) (e : Nat × Trans) : Prop :=
  (∀ f ∈ s.me.failed, f.1 ≠ key) ∧ ∃ st pa, s.stub (clusterOf s.cur.1) key = some st ∧ st.state = .present e.1 pa ∧
    tget (s.cluster (clusterOf s.cur.1)).trans e.1 = some e.2

/-- Some threads of the issue group leave it for PCs of their own: as one group where all leave for one PC, else each filed at its PC,
the others after the bundle, and the issue group over (R29). -/
def Leaves (s t : State) (ts : List Nat) (dest : Nat → Pc) : Prop :=
  (∃ pc, (∀ th ∈ s.group.threads, th ∈ ts ∧ dest th = pc) ∧ t.me.group = s.me.group.map fun g => { g with jump := some pc }) ∨
  (t.me.group = none ∧ (∀ th ∈ ts, Filed t.me ⟨dest th, none⟩ th) ∧
    ∀ th ∈ s.group.threads, th ∉ ts → Filed t.me (s.group.keyAfter th) th)

/-- Threads of the issue group are trap-parked, each with its trap (R255, R259, R262): parked at the bundle with its pending
branch, with a record for each in ascending slot order; the others are filed at the bundle; no register changes. -/
structure TrapParks (s t : State) (traps : List (Nat × Trap)) : Prop where
  parked : ∀ e ∈ traps, (t.me.thread e.1).place = .trap ∧
    (t.me.thread e.1).trap = some { trap := e.2, late := false, at_ := s.me.pc, stop := ⟨s.me.pc, s.group.pendOf e.1⟩, dest := none }
  records : t.home.recs = s.home.recs ++ (sortBy (fun e => e.1) traps).map fun e =>
    ⟨s.recordWords s.cur.1 s.cur.2 e.1 e.2 false false s.me.pc s.me.pc, s.cur.2, e.1⟩
  others : ∀ th ∈ s.group.threads, (∀ e ∈ traps, e.1 ≠ th) → Filed t.me ⟨s.me.pc, s.group.pendOf th⟩ th
  ended : t.me.group = none
  registers : ∀ th, (t.me.thread th).regs = (s.me.thread th).regs ∧ (t.me.thread th).qs = (s.me.thread th).qs ∧
    (t.me.thread th).copies = (s.me.thread th).copies

/-- The canonical form of every memory of the machine (R6, R21): pillars, stashes, operand memories, and the shares and slots
of saved contexts. -/
def SaveRec.canonical (r : SaveRec) : Bool := Memory.wf r.share && Memory.wf r.opmem

def Core.canonical (c : Core) : Bool := Memory.wf c.stash && Memory.wf c.mtx.opmem && c.saves.all fun r => r.2.canonical

def State.canonical (s : State) : Bool := Memory.wf s.phys.dram && s.cores.all fun c => c.2.canonical

end Sys2Proof.Machine
end

