-- ==== Sys2Proof/Certificates/Slice0/Obligations.lean ====
section
/-! DEFINITION. The statements for the provers. -/

namespace Sys2Proof.Claims

open Sys2Proof.Machine

/-! ### Shared words of the statements -/

/-- A source of an op as a number of w bits, read by a lane and thread: an integer op reads the low w bits (R303). -/
def src (w : Nat) (s : State) (o : Op) (sel lane thread : Nat) : BitVec w := (s.word o lane thread sel).setWidth w

/-- A result of w bits as a register holds it (R303): sign-extended for s types, zero-extended for the others. -/
def image {w : Nat} (ty : Nat) (v : BitVec w) : Word := if isSigned ty then v.signExtend 64 else v.setWidth 64

/-- The slots that take an INT op (R123, R298). -/
def intSlot (o : Op) : Prop := o.slot = 5 ∨ o.slot = 6 ∨ o.slot = 7

/-- One row of the tables of integer ops: the instruction, its LPF opcode, its latency, its issue interval, and its result as a
function of w-bit operands. -/
structure Row2 (w : Nat) where
  instr : Instr
  opc : Nat
  lat : Nat
  interval : Nat
  value : BitVec w → BitVec w → BitVec w

/-- The larger or smaller of two numbers, signed or unsigned. -/
def pick {w : Nat} (sgn big : Bool) (a b : BitVec w) : BitVec w :=
  if (if sgn then a.slt b else a.ult b) = big then b else a

/-- DIV and REM (R158): truncation toward zero; a zero divisor under IDZ = 0 gives all ones, or the dividend. -/
def quotient {w : Nat} (sgn : Bool) (a b : BitVec w) : BitVec w :=
  if b = 0 then BitVec.allOnes w else if sgn then a.sdiv b else a / b

def remainder {w : Nat} (sgn : Bool) (a b : BitVec w) : BitVec w :=
  if b = 0 then a else if sgn then a.srem b else a % b

/-- The upper half of the exact product (R349). -/
def upper {w : Nat} (sgn : Bool) (a b : BitVec w) : BitVec w :=
  if sgn then (a.signExtend (2 * w) * b.signExtend (2 * w)).extractLsb' w w
  else (a.setWidth (2 * w) * b.setWidth (2 * w)).extractLsb' w w

/-- The integer ops of two sources whose result has the type of the instruction (R305, R328, R349, R378). -/
def int2 (o : Op) : List (Row2 (tyBits o.ty)) :=
  let sgn := isSigned o.ty
  let far := if tyBits o.ty = 64 then 36 else 20
  [ ⟨.mul o, 0x002, 3, 1, fun a b => a * b⟩,
    ⟨.mulhi o, 0x003, 3, 1, upper sgn⟩,
    ⟨.div o, 0x007, far, far, quotient sgn⟩,
    ⟨.rem o, 0x008, far, far, remainder sgn⟩,
    ⟨.min o, 0x00B, 1, 1, pick sgn false⟩,
    ⟨.max o, 0x00C, 1, 1, pick sgn true⟩,
    ⟨.and o, 0x00D, 1, 1, fun a b => a &&& b⟩,
    ⟨.or o, 0x00E, 1, 1, fun a b => a ||| b⟩,
    ⟨.xor o, 0x00F, 1, 1, fun a b => a ^^^ b⟩,
    ⟨.shl o, 0x011, 1, 1, fun a b => a <<< b⟩,
    ⟨.shr o, 0x012, 1, 1, fun a b => a >>> b⟩,
    ⟨.shra o, 0x013, 1, 1, fun a b => a.sshiftRight' b⟩,
    ⟨.rot o, 0x014, 1, 1, fun a b => a.rotateLeft (b.toNat % tyBits o.ty)⟩ ]

/-- The integer ops of one source (R305, R349). -/
def int1 (o : Op) : List (Instr × Nat × (BitVec (tyBits o.ty) → BitVec (tyBits o.ty))) :=
  [ (.neg o, 0x009, fun a => -a),
    (.abs o, 0x00A, fun a => if a.msb then -a else a),
    (.not o, 0x010, fun a => ~~~a),
    (.clz o, 0x017, fun a => a.clz),
    (.popc o, 0x018, fun a => a.cpop),
    (.brev o, 0x019, fun a => a.reverse) ]

/-- A relation of CMP between two w-bit operands (R307). -/
def related {w : Nat} (sgn : Bool) (rel : Nat) (a b : BitVec w) : Bool :=
  let lt (x y : BitVec w) : Bool := if sgn then x.slt y else x.ult y
  match rel with
  | 0 => a == b
  | 1 => a != b
  | 2 => lt a b
  | 3 => !lt b a
  | 4 => lt b a
  | _ => !lt a b

/-- The sum and the difference of a ptr and an s64 (R74): OFF modulo 2^60, SEG and bit 60 kept. -/
def ptrPlus (a b : Word) : Word := a.extractLsb' 60 4 ++ (a.extractLsb' 0 60 + b.extractLsb' 0 60)
def ptrMinus (a b : Word) : Word := a.extractLsb' 60 4 ++ (a.extractLsb' 0 60 - b.extractLsb' 0 60)

/-- The field of BFI and BFX (R306): offset and width of the control value. -/
def fieldOff {w : Nat} (c : BitVec w) : Nat := c.toNat % 256
def fieldWid {w : Nat} (c : BitVec w) : Nat := c.toNat / 256 % 256

def inserted {w : Nat} (a b c : BitVec w) : BitVec w :=
  if w ≤ fieldOff c ∨ fieldWid c = 0 then a
  else
    let mask := ((1#w <<< min (fieldWid c) (w - fieldOff c)) - 1#w) <<< fieldOff c
    (a &&& ~~~mask) ||| ((b <<< fieldOff c) &&& mask)

def extracted {w : Nat} (sgn : Bool) (a c : BitVec w) : BitVec w :=
  if w ≤ fieldOff c ∨ fieldWid c = 0 then 0
  else
    let f := a.extractLsb' (fieldOff c) (min (fieldWid c) (w - fieldOff c))
    if sgn then f.signExtend w else f.setWidth w

end Sys2Proof.Claims

open Sys2Proof Sys2Proof.Machine Sys2Proof.Claims

/-! ### Integer ops -/

/-- R305, R328, R349, R378 and R158: the results, latencies and issue intervals of the integer ops of two sources, in every lane
and width; and nothing else changes. DIV and REM: where no active lane divides by zero under FPCTL.IDZ = 1. -/
def Sys2Proof.Claims.IntegerPairResults : Prop :=
  ∀ (s : State) (o : Op) (r : Row2 (tyBits o.ty)), r ∈ int2 o → intSlot o →
    o.legalD r.opc = true → o.extOk true true false = true → Sound s o [(o.selA, 1), (o.selB, 1)] o.dest.toNat 1 →
    (r.opc = 0x007 ∨ r.opc = 0x008 → s.divTraps o = []) →
    Completes r.instr s fun t => Gives s t o .reg o.dest.toNat 1 r.lat r.interval fun l th =>
      [image o.ty (r.value (src _ s o o.selA l th) (src _ s o o.selB l th))]

/-- R305 and R349: the integer ops of one source. -/
def Sys2Proof.Claims.IntegerSingleResults : Prop :=
  ∀ (s : State) (o : Op) (r : Instr × Nat × (BitVec (tyBits o.ty) → BitVec (tyBits o.ty))), r ∈ int1 o → intSlot o →
    o.legalD r.2.1 = true → o.extOk true false false = true → Sound s o [(o.selA, 1)] o.dest.toNat 1 →
    Completes r.1 s fun t => Gives s t o .reg o.dest.toNat 1 1 1 fun l th => [image o.ty (r.2.2 (src _ s o o.selA l th))]

/-- The integer ops of two sources and of one. -/
def Obligations.IntegerResults : Prop := IntegerPairResults ∧ IntegerSingleResults

/-- R305, R307, R378 and R74: ADD, SUB, with their ptr forms, and CMP, whose result is a pr. -/
def Sys2Proof.Claims.AddSubCompareResults : Prop :=
  ∀ (s : State) (o : Op), intSlot o → o.extOk true true false = true → Sound s o [(o.selA, 1), (o.selB, 1)] o.dest.toNat 1 →
    (o.legalD 0x000 = true → o.ty ≠ 15 → Completes (.add o) s fun t => Gives s t o .reg o.dest.toNat 1 1 1 fun l th =>
      [image o.ty (src (tyBits o.ty) s o o.selA l th + src (tyBits o.ty) s o o.selB l th)]) ∧
    (o.legalD 0x000 = true → o.ty = 15 → Completes (.add o) s fun t => Gives s t o .reg o.dest.toNat 1 1 1 fun l th =>
      [ptrPlus (s.word o l th o.selA) (s.word o l th o.selB)]) ∧
    (o.legalD 0x001 = true → o.ty ≠ 15 → Completes (.sub o) s fun t => Gives s t o .reg o.dest.toNat 1 1 1 fun l th =>
      [image o.ty (src (tyBits o.ty) s o o.selA l th - src (tyBits o.ty) s o o.selB l th)]) ∧
    (o.legalD 0x001 = true → o.ty = 15 → Completes (.sub o) s fun t => Gives s t o .reg o.dest.toNat 1 1 1 fun l th =>
      [ptrMinus (s.word o l th o.selA) (s.word o l th o.selB)]) ∧
    (o.legalD 0x01A = true → Completes (.cmp o) s fun t => Gives s t o .reg o.dest.toNat 1 1 1 fun l th =>
      [if related (isSigned o.ty) o.var (src (tyBits o.ty) s o o.selA l th) (src (tyBits o.ty) s o o.selB l th) then 1 else 0])

/-- R306: BFI and BFX. -/
def Sys2Proof.Claims.BitFieldResults : Prop :=
  ∀ (s : State) (o : Op), intSlot o →
    (o.legalD 0x015 = true → o.extOk true true true = true → Sound s o [(o.selA, 1), (o.selB, 1), (o.selC, 1)] o.dest.toNat 1 →
      Completes (.bfi o) s fun t => Gives s t o .reg o.dest.toNat 1 1 1 fun l th =>
        [image o.ty (inserted (src (tyBits o.ty) s o o.selA l th) (src _ s o o.selB l th) (src _ s o o.selC l th))]) ∧
    (o.legalD 0x016 = true → o.extOk true true false = true → Sound s o [(o.selA, 1), (o.selB, 1)] o.dest.toNat 1 →
      Completes (.bfx o) s fun t => Gives s t o .reg o.dest.toNat 1 1 1 fun l th =>
        [image o.ty (extracted (isSigned o.ty) (src (tyBits o.ty) s o o.selA l th) (src _ s o o.selB l th))])

/-- The integer ops on pointers, flags and bit fields. -/
def Obligations.AddCompareFieldResults : Prop := AddSubCompareResults ∧ BitFieldResults

/-- R159, R311, R348, R386: both results of ADDC, SUBB and MADC, from the exact sum, difference or product. The extension word
holds the second destination in bits 9:0 and MADC's fourth source in bits 19:10 (R294). -/
def Obligations.CarryResults : Prop :=
  ∀ (s : State) (o : Op) (x : Word), intSlot o → o.ext = some x → x.extractLsb' 20 44 = 0#44 → o.var = 0 →
    o.a ≠ 0x1F3#10 → o.b ≠ 0x1F3#10 → o.c ≠ 0x1F3#10 →
    let d := o.dest.toNat
    let d2 := (x.extractLsb' 0 10).toNat
    let hs := (x.extractLsb' 10 10).toNat
    let w := tyBits o.ty
    let a (l th : Nat) : Nat := (src w s o o.selA l th).toNat
    let b (l th : Nat) : Nat := (src w s o o.b.toNat l th).toNat
    let cin (l th : Nat) : Nat := (src 1 s o o.selC l th).toNat
    let c (l th : Nat) : Nat := (src w s o o.selC l th).toNat
    let h (l th : Nat) : Nat := (src w s o hs l th).toNat
    let first (s : State) : State := s.claimLast .reg d 1 ((s.active o).map (·.2))
    let both (lat : Nat) (v1 v2 : Nat → Nat → Word) (t : State) : Prop :=
      ∃ s1, Gives s s1 o .reg d 1 lat 1 (fun l th => [v1 l th]) ∧ Gives s1 t o .reg d2 1 lat 1 fun l th => [v2 l th]
    (o.ty ∈ [3, 4, 7, 8] → hs = 0 → Sound s o [(o.selA, 1), (o.b.toNat, 1), (o.selC, 1)] d 1 →
        Sound (first s) o [(o.selA, 1), (o.b.toNat, 1), (o.selC, 1)] d2 1 →
      Completes (.addc o) s (both 1 (fun l th => image o.ty (BitVec.ofNat w (a l th + b l th + cin l th)))
        fun l th => if 2 ^ w ≤ a l th + b l th + cin l th then 1 else 0) ∧
      Completes (.subb o) s (both 1 (fun l th => image o.ty (BitVec.ofInt w ((a l th : Int) - b l th - cin l th)))
        fun l th => if a l th < b l th + cin l th then 1 else 0)) ∧
    (o.ty ∈ [7, 8] → hs ≠ 0x1F3 → Sound s o [(o.selA, 1), (o.b.toNat, 1), (o.selC, 1), (hs, 1)] d 1 →
        Sound (first s) o [(o.selA, 1), (o.b.toNat, 1), (o.selC, 1), (hs, 1)] d2 1 →
      Completes (.madc o) s (both 4 (fun l th => word64 ((a l th * b l th + c l th + h l th) % 2 ^ w))
        fun l th => word64 ((a l th * b l th + c l th + h l th) / 2 ^ w)))

/-- R325, R342, R358, R359, R373 and R54: CONST, SEL, MOV with its predicate form, IDX and NOP. -/
def Obligations.MoveResults : Prop :=
  ∀ (s : State) (o : Op), intSlot o →
    (o.legalD 0x01C = true → o.extOk false true false = true → Sound s o [(o.selB, 1)] o.dest.toNat 1 →
      Completes (.const o) s fun t => Gives s t o .reg o.dest.toNat 1 1 1 fun l th =>
        [image o.ty (src (tyBits o.ty) s o o.selB l th)]) ∧
    (o.legalD 0x01B = true → o.extOk true true true = true →
        Sound s o [(o.selA, 1), (o.selB, o.regsOf o.ty), (o.selC, o.regsOf o.ty)] o.dest.toNat (o.regsOf o.ty) →
      Completes (.sel o) s fun t => Gives s t o .reg o.dest.toNat (o.regsOf o.ty) 1 1 fun l th =>
        o.resultWords o.ty (s.operand o l th (if (s.word o l th o.selA).getLsbD 0 then o.selB else o.selC) o.ty)) ∧
    (Lpf.tyA.contains (elemTy o.ty) = true → o.extOk true false false = true → o.var = 0 →
        Sound s o [(o.selA, o.regsOf o.ty)] o.dest.toNat (o.regsOf o.ty) →
      Completes (.mov o) s fun t => Gives s t o .reg o.dest.toNat (o.regsOf o.ty) 1 1 fun l th =>
        s.run o l th o.selA (o.regsOf o.ty)) ∧
    (Lpf.tyA.contains (elemTy o.ty) = true → o.extOk true false false = true → o.var = 1 → 1 ≤ o.dest.toNat → o.dest.toNat < 8 →
        Readable s o [(o.selA, 1)] →
      Completes (.mov o) s fun t => Gives s t o .pred o.dest.toNat 1 1 1 fun l th => [s.word o l th o.selA]) ∧
    (∀ sel, sel < 16 → sel ≠ 6 → sel ≠ 7 → o.ty = 7 → o.var = 0 → o.ext = none → o.j = BitVec.ofNat 30 (sel * 2 ^ 20) →
        Sound s o [] o.dest.toNat 1 →
      Completes (.idx o) s fun t => Gives s t o .reg o.dest.toNat 1 1 1 fun _ th => [word64 (s.idxValue sel th % 2 ^ 32)]) ∧
    exec (.nop o) s = .next s

/-! ### Float, conversion, SFN and lane ops -/

namespace Sys2Proof.Claims

/-- The slots that take a VEC op (R123, R298). -/
def vecSlot (o : Op) : Prop := o.slot = 3 ∨ o.slot = 4

/-- The results of a float op: elements with their exceptions for each lane and thread. Registers take the elements; the flags are
the union over all elements of all active lanes, and each thread's own exceptions go with its result (R148). -/
def FloatGives (s t : State) (o : Op) (rty lat interval : Nat) (f : Nat → Nat → List (Nat × Nat)) : Prop :=
  let each := (s.active o).map fun e => (e.2, joinFlags ((f e.1 e.2).map (·.2)))
  let all := joinFlags (each.map (·.2))
  ∃ ls, Lands s t o .reg o.dest.toNat (o.regsOf rty) lat interval (fun l th => o.resultWords rty ((f l th).map (·.1))) ls ∧
    (∀ l ∈ ls, l.exc = each ∧ l.traps = [] ∧ (l.flags = all ∨ l.flags = 0)) ∧ ∃ l ∈ ls, l.flags = all

/-- Issue intervals of R131: 1 on JXW-3 and 2 on JXN-2, doubled for f64 arithmetic. -/
def unitGap (s : State) : Nat := if isWide s.cur.1 then 1 else 2

def pairs (s : State) (o : Op) (l th : Nat) : List (Nat × Nat) :=
  (s.operand o l th o.selA o.ty).zip (s.operand o l th o.selB o.ty)

/-- The float ops of two sources (R332): instruction, LPF opcode, latency, interval, one element. -/
def float2 (s : State) (o : Op) : List (Instr × Nat × Nat × Nat × (Nat × Nat → Nat × Nat)) :=
  let f64 := elemTy o.ty = 12
  let fmt := fmtOf (elemTy o.ty)
  let lat := if f64 then 8 else 4
  let gap := unitGap s * if f64 then 2 else 1
  [ (.fadd o, 0x040, lat, gap, fun p => fmt.add s.rm p.1 p.2),
    (.fsub o, 0x041, lat, gap, fun p => fmt.sub s.rm p.1 p.2),
    (.fmul o, 0x042, lat, gap, fun p => fmt.mul s.rm p.1 p.2),
    (.fdiv o, 0x044, if f64 then 40 else 24, (if isWide s.cur.1 then 4 else 8) * (if f64 then 2 else 1), fun p => fmt.div s.rm p.1 p.2),
    (.fmin o, 0x045, 3, unitGap s, fun p => fmt.minmax false p.1 p.2),
    (.fmax o, 0x046, 3, unitGap s, fun p => fmt.minmax true p.1 p.2) ]

/-- The conversions of layout K (R335, R341, R343): instruction, LPF opcode, one element. -/
def conversions (s : State) (o : Op) : List (Instr × Nat × (Nat → Nat × Nat)) :=
  let from_ := o.c.toNat
  let into := elemTy o.ty
  [ (.fcvt o, 0x080, fun v => fcvtPat (fmtOf from_) (fmtOf into) s.rm v),
    (.icvt o, 0x081, fun v => icvtPat from_ into s.rm (o.var % 2 == 1) v),
    (.lcvt o, 0x082, fun v => (if into = 13 then floatToL6 (fmtOf from_) v else l6ToFloat (fmtOf into) v, 0)) ]

/-- The lane that SHFL reads (R377), for modes idx, up, down and xor. -/
def shuffled (mode lane : Nat) (b : BitVec 32) : Option Nat :=
  match mode with
  | 0 => some (b.toNat % 32)
  | 1 => if b.toNat ≤ lane then some (lane - b.toNat) else none
  | 2 => some (lane + b.toNat)
  | _ => some (lane ^^^ (b.toNat % 32))

/-- The lanes of ACTIVE with the elements they give. -/
def given (s : State) (o : Op) (ty : Nat) : List (Nat × Nat) := (s.active o).map fun e => (e.1, s.scalar o e.1 e.2 o.selA ty)

end Sys2Proof.Claims

/-- R332, R334, R340 and R131: float arithmetic, comparison and rounding in every element and lane, with the flags of R148. -/
def Obligations.FloatResults : Prop :=
  ∀ (s : State) (o : Op), vecSlot o →
    let n := o.regsOf o.ty
    let d := o.dest.toNat
    (∀ r ∈ float2 s o, o.legalD r.2.1 = true → o.extOk true true false = true → Sound s o [(o.selA, n), (o.selB, n)] d n →
      Completes r.1 s fun t => FloatGives s t o o.ty r.2.2.1 r.2.2.2.1 fun l th => (pairs s o l th).map r.2.2.2.2) ∧
    (o.legalD 0x043 = true → o.extOk true true true = true → Sound s o [(o.selA, n), (o.selB, n), (o.selC, n)] d n →
      Completes (.ffma o) s fun t => FloatGives s t o o.ty (if elemTy o.ty = 12 then 8 else 4)
        (unitGap s * if elemTy o.ty = 12 then 2 else 1) fun l th =>
          ((s.operand o l th o.selA o.ty).zip ((s.operand o l th o.selB o.ty).zip (s.operand o l th o.selC o.ty))).map
            fun p => (fmtOf (elemTy o.ty)).fma s.rm p.1 p.2.1 p.2.2) ∧
    (o.legalD 0x047 = true → o.extOk true true false = true → Sound s o [(o.selA, 1), (o.selB, 1)] d 1 →
      Completes (.fcmp o) s fun t => FloatGives s t o 14 3 (unitGap s) fun l th =>
        let r := (fmtOf o.ty).cmp o.var (s.scalar o l th o.selA o.ty) (s.scalar o l th o.selB o.ty)
        [(if r.1 then 1 else 0, r.2)]) ∧
    (o.legalD 0x048 = true → o.extOk true false false = true → Sound s o [(o.selA, n)] d n →
      Completes (.frnd o) s fun t => FloatGives s t o o.ty 3 (unitGap s) fun l th =>
        (s.operand o l th o.selA o.ty).map fun v => (fmtOf (elemTy o.ty)).rnd (if o.var = 0 then s.rm else o.var - 1) v)

/-- R335, R341, R343, R347 and R375: conversions, L6 packing, and the special functions in both grades. -/
def Obligations.ConversionResults : Prop :=
  ∀ (s : State) (o : Op),
    let d := o.dest.toNat
    (vecSlot o → ∀ r ∈ conversions s o, o.legalK r.2.1 = true → Sound s o [(o.selA, o.regsOf (kSrcTy o))] d (o.regsOf o.ty) →
      Completes r.1 s fun t => FloatGives s t o o.ty 3 (unitGap s) fun l th => (s.operand o l th o.selA (kSrcTy o)).map r.2.2) ∧
    (vecSlot o → o.legalD 0x083 = true → o.extOk true false false = true → Sound s o [(o.selA, o.regsOf 29)] d 1 →
      Completes (.lpack o) s fun t => Gives s t o .reg d 1 3 (unitGap s) fun l th =>
        [word64 (sumNat (((s.operand o l th o.selA 29).take (if o.ty = 7 then 4 else 8)).zipIdx.map fun e => e.1 % 64 * 64 ^ e.2))]) ∧
    (vecSlot o → o.ty = 29 → o.var < 2 → o.extOk true false false = true → Sound s o [(o.selA, 1)] d (o.regsOf 29) →
      Completes (.lunpk o) s fun t => Gives s t o .reg d (o.regsOf 29) 3 (unitGap s) fun l th =>
        o.resultWords 29 ((List.range o.elems).map fun e =>
          if e < (if o.var = 1 then 8 else 4) then ((s.word o l th o.selA).extractLsb' (6 * e) 6).toNat else 0)) ∧
    (o.slot = (if isWide s.cur.1 then 2 else 3) → ∀ k, sfnKind (o.mod.extractLsb' 4 4).toNat = some k → o.mod.extractLsb' 0 3 = 0#3 →
        o.extOk true false false = true → Sound s o [(o.selA, 1)] d 1 →
      let acc := o.mod.getLsbD 3
      Completes (.sfn o) s fun t => FloatGives s t o 11 (if acc then 16 else 8) ((if acc then 8 else 4) * unitGap s) fun l th =>
        [sfnValue k acc (fpFTZ s.me.regs.fpctl) (s.scalar o l th o.selA 11)])

/-- R377, R394 and R395: the ops that combine lanes. SHFL reads the named lane of ACTIVE or its own; VOTE and VRED give every lane
one value, and VSCAN folds the lanes below, or up to and with, its own. -/
def Obligations.LaneResults : Prop :=
  ∀ (s : State) (o : Op), vecSlot o → Sound s o [(o.selA, 1)] o.dest.toNat 1 →
    let d := o.dest.toNat
    let lat := if isWide s.cur.1 then 10 else 12
    let vs := given s o o.ty
    let scan (inc : Bool) (l : Nat) : Nat × Nat :=
      (foldLanes o.ty o.var s.rm ((vs.filter fun v => if inc then v.1 ≤ l else v.1 < l).map (·.2))).getD (scanId o.ty o.var, 0)
    let red : Nat × Nat :=
      if isFloat o.ty && o.var = 0 && s.nbv = 2 then
        (treeLanes o.ty o.var s.rm ((List.range 32).map fun l => (vs.find? (·.1 == l)).map (·.2))).getD (0, 0)
      else (foldLanes o.ty o.var s.rm (vs.map (·.2))).getD (0, 0)
    (o.legalD 0x04A = true → o.extOk true true false = true → Readable s o [(o.selB, 1)] →
      Completes (.shfl o) s fun t => Gives s t o .reg d 1 6 (unitGap s) fun l th =>
        match (shuffled o.var l (src 32 s o o.selB l th)).bind fun j => (s.active o).find? (·.1 == j) with
        | some e => [regImage o.ty (s.scalar o e.1 e.2 o.selA o.ty)]
        | none => [regImage o.ty (s.scalar o l th o.selA o.ty)]) ∧
    (o.legalD 0x04B = true → o.extOk true false false = true →
      let on (e : Nat × Nat) : Bool := (s.word o e.1 e.2 o.selA).getLsbD 0
      Completes (.vote o) s fun t => Gives s t o .reg d 1 4 1 fun _ _ =>
        [match o.var with
        | 0 => if (s.active o).all on then 1 else 0
        | 1 => if (s.active o).any on then 1 else 0
        | _ => word64 (sumNat ((s.active o).map fun e => if on e then 2 ^ e.1 else 0) % 2 ^ 32)]) ∧
    (o.legalD 0x04C = true → o.extOk true false false = true →
      Completes (.vred o) s fun t => ∃ ls, Lands s t o .reg d 1 lat (unitGap s) (fun _ _ => [regImage o.ty (canon o.ty red.1)]) ls) ∧
    (∀ inc, o.legalD 0x04D = true → o.extOk true false false = true →
      Completes (.vscan inc o) s fun t => ∃ ls, Lands s t o .reg d 1 lat (unitGap s) (fun l _ => [regImage o.ty (canon o.ty (scan inc l).1)]) ls)

/-! ### Memory ops -/

namespace Sys2Proof.Claims

/-- The checks of R166 and R183 let a group's accesses pass, the template copies that its writes make have their pages (R62), and no
stalled ACCST of the threads still has to write their bytes (R310). -/
def Accepts (s : State) (kind : AccessKind) (align : Nat) (accs : List Acc) : Prop :=
  s.accTraps s.cur.1 s.cur.2 kind align accs = [] ∧ s.accFaults s.cur.1 s.cur.2 kind accs = [] ∧
    (kind ≠ .load → s.copyFaults s.cur.1 s.cur.2 accs = []) ∧ s.streamHolds s.cur.1 s.cur.2 accs = false

/-- The pages of G take the written bytes of these granules (R171). -/
def BacksUp (s : State) (keys : List Nat) : Prop :=
  ∀ g ∈ keys, ∀ gr, tget s.me.mem.granules g = some gr → gr.mask ≠ 0 →
    ∃ pa pte, s.probe (s.spaceOf s.cur.1 s.cur.2) (s.me.granVa (g / 2048) (g % 2048)) .store = .ok pa pte

/-- A result of an op is on its way to its destination. -/
def UnderWay (t : State) (o : Op) (width : Nat) : Prop :=
  ∃ l ∈ t.me.inflight, l.kind = .reg ∧ l.dest = o.dest.toNat ∧ l.width = width ∧ l.slot = o.slot

/-- The accesses of the loads and stores of a group, lane by lane (R344, R346, R380). -/
def loadAccs (o : Op) (s : State) : List Acc :=
  (s.active o).map fun e => Acc.ofPtr e.1 e.2 (s.word o e.1 e.2 o.selA) (o.bytesOf o.ty)

def rowLoadAccs (o : Op) (s : State) : List Acc :=
  (s.active o).flatMap fun e => rowAccs o e.1 e.2 (s.word o e.1 e.2 o.selA) (s.word o e.1 e.2 o.selB)

/-- The frame word of FILL and SPILL, and its access in each lane (R338, R379): private memory at 8 times the thread's frame base
plus the word. -/
def frameWord (o : Op) : Nat := (o.j.extractLsb' 16 14).toNat

def frameAccs (o : Op) (s : State) : List Acc :=
  (s.active o).map fun e => ⟨e.1, e.2, false, 1, 8 * ((s.me.thread e.2).frameBase + frameWord o), 8⟩

/-- What each lane of ST stores, at the access its ptr gives. -/
def stores (o : Op) (s : State) : List (Acc × List Byte) :=
  (s.active o).map fun e =>
    (Acc.ofPtr e.1 e.2 (s.word o e.1 e.2 o.selA) (o.bytesOf o.ty), elemBytes o.ty (s.operand o e.1 e.2 o.selB o.ty))

/-- What each lane of STV stores: row i of its tile at p + i × stride. -/
def rowStores (o : Op) (s : State) : List (Acc × List Byte) :=
  (s.active o).flatMap fun e =>
    let bs := elemBytes o.ty (s.operand o e.1 e.2 o.selC o.ty)
    (rowAccs o e.1 e.2 (s.word o e.1 e.2 o.selA) (s.word o e.1 e.2 o.selB)).zipIdx.map fun r => (r.1, (bs.drop (r.2 * r.1.n)).take r.1.n)

/-- The state after the stores of a group, in lane order, behind the template copies they make (R60, R381). -/
def stored (s : State) (ws : List (Acc × List Byte)) : State :=
  ws.foldl (fun s' w => s'.storeAcc s.cur.1 s.cur.2 w.1 w.2) (s.copyFirst s.cur.1 s.cur.2 (ws.map (·.1)))

/-- An access lies in the plain scratch of the stash: segment S, no mapped granule (R168, R170). -/
def Scratch (s : State) (a : Acc) : Prop := a.seg = 2 ∧ ∀ p ∈ a.pieces, s.me.mapped p.1 = none

/-- The stash address of an access in S. -/
def stashAt (s : State) (a : Acc) : Nat := s.me.base 2 + a.off

/-- A byte of the stash of the executing core. -/
def stashByte (s : State) (a : Nat) : Byte := cellAt s.home.stash a

/-- The function of an ATOM, its scope and its type (R290, R312). -/
def atomFn (o : Op) : Nat := (o.mod.extractLsb' 4 4).toNat
def atomScope (o : Op) : Nat := (o.mod.extractLsb' 0 4).toNat
def atomTy (o : Op) : Nat := ((o.ext.getD 0).extractLsb' 0 5).toNat

def atomAccs (o : Op) (s : State) : List Acc :=
  (s.active o).map fun e => Acc.ofPtr e.1 e.2 (s.word o e.1 e.2 o.selA) (tyBytes (atomTy o))

/-- The encoding of an ATOM is legal (R290, R294, R312). -/
def AtomLegal (opc : Nat) (o : Op) : Prop :=
  (∃ w, o.ext = some w ∧ w.extractLsb' 5 59 = 0#59) ∧ o.a ≠ 0x1F3#10 ∧ o.b ≠ 0x1F3#10 ∧ (atomFn o = 7 → o.c ≠ 0x1F3#10) ∧
    (Lpf.row opc).any (·.tyOk (atomTy o)) = true ∧ Lpf.modOk opc (atomTy o) o.mod.toNat = true

/-- The sources of an ATOM: the ptr, the operand, and the new value of a compare and swap. -/
def atomSrcs (o : Op) : List (Nat × Nat) := [(o.selA, 1), (o.b.toNat, 1)] ++ if atomFn o = 7 then [(o.selC, 1)] else []

def atoms (o : Op) : List (Instr × Nat × Bool) :=
  [(.atom o, 0x0C4, false), (.atomAcq o, 0x0C5, false), (.atomRel o, 0x0C6, true), (.atomAr o, 0x0C7, true)]

/-- The release of an op with release order at a scope is complete once its writes are sent (R204, R208). -/
def Released (s : State) (o : Op) (scope : Nat) : Prop :=
  (s.releaseStart s.cur.1 s.cur.2 (((s.top o).map (·.2)).getD 0) scope).releaseReady s.cur.1 s.cur.2 scope = true

end Sys2Proof.Claims

/-- R338, R344, R345, R346: every load form completes when its checks pass, its result on the way to its destination. -/
def Obligations.LoadsComplete : Prop :=
  ∀ (s : State) (o : Op), o.slot = 1 →
    (o.legalD 0x0C0 = true → o.extOk true false false = true → Sound s o [(o.selA, 1)] o.dest.toNat (o.regsOf o.ty) →
        Accepts s .load (tyBytes (elemTy o.ty)) (loadAccs o s) →
      Completes (.ld o) s fun t => UnderWay t o (o.regsOf o.ty)) ∧
    (o.legalD 0x0C0 = true → o.extOk true false true = true →
        Sound s o [(o.selA, 1), (o.selC, 1)] o.dest.toNat (o.regsOf o.ty) →
        (∀ e, s.top o = some e → rangeDescOk (s.word o e.1 e.2 o.selC) = true) →
        Accepts s .load (tyBytes (elemTy o.ty)) (loadAccs o s) →
      Completes (.ldRng o) s fun t => UnderWay t o (o.regsOf o.ty)) ∧
    (o.legalD 0x0C2 = true → o.extOk true true false = true →
        Sound s o [(o.selA, 1), (o.selB, 1)] o.dest.toNat (o.regsOf o.ty) →
        Accepts s .load (tyBytes (elemTy o.ty)) (rowLoadAccs o s) →
      Completes (.ldv o) s fun t => UnderWay t o (o.regsOf o.ty)) ∧
    (o.legalJ = true → o.j.extractLsb' 0 16 = 0#16 → Sound s o [] o.dest.toNat 1 → Accepts s .load 8 (frameAccs o s) →
      Completes (.fill o) s fun t => UnderWay t o 1)

/-- R344 and R131: a scalar load whose lanes all read the plain scratch of S gives each lane the bytes at its address,
little-endian and extended by its type, after 14 cycles, and its window is its lookahead (R128); no register is written yet and no memory changes. -/
def Obligations.StashLoadResults : Prop :=
  ∀ (s : State) (o : Op), o.slot = 1 → o.legalD 0x0C0 = true → isTileTy o.ty = false → o.extOk true false false = true →
    Sound s o [(o.selA, 1)] o.dest.toNat 1 → Accepts s .load (tyBytes o.ty) (loadAccs o s) → (s.active o ≠ []) →
    (s.active o).Pairwise (fun a b => a.2 ≠ b.2) → (∀ a ∈ loadAccs o s, Scratch s a) →
    Completes (.ld o) s fun t =>
      (∃ lnd ∈ t.me.inflight, lnd.kind = .reg ∧ lnd.dest = o.dest.toNat ∧ lnd.width = 1 ∧ lnd.due = s.now + cycleLen * 14 ∧
        lnd.window = some o.la.toNat ∧ ∀ e ∈ s.active o,
          let a := Acc.ofPtr e.1 e.2 (s.word o e.1 e.2 o.selA) (o.bytesOf o.ty)
          (e.2, [image o.ty (BitVec.ofNat (tyBits o.ty)
            (bytesToNat ((List.range (tyBytes o.ty)).map fun i => stashByte s (stashAt s a + i))))]) ∈ lnd.vals) ∧
      (∀ th, (t.me.thread th).regs = (s.me.thread th).regs ∧ (t.me.thread th).qs = (s.me.thread th).qs) ∧
      t.phys = s.phys ∧ ∀ a, stashByte t a = stashByte s a

/-- R379, R380, R381: every store form completes when its checks pass. Each active lane stores its operand's bytes at the address its
ptr, its row or its frame word gives, in lane order. SPILL runs in the threads that CONTINUE passes over too (DEDUCED, log 15). -/
def Obligations.StoresComplete : Prop :=
  ∀ (s : State) (o : Op), o.slot = 1 →
    (o.legalD 0x0C1 = true → o.extOk true true false = true → Readable s o [(o.selA, 1), (o.selB, o.regsOf o.ty)] →
        Accepts s .store (tyBytes (elemTy o.ty)) ((stores o s).map (·.1)) →
      Completes (.st o) s fun t => t = stored s (stores o s)) ∧
    (o.legalD 0x0C3 = true → o.extOk true true true = true →
        Readable s o [(o.selA, 1), (o.selB, 1), (o.selC, o.regsOf o.ty)] →
        Accepts s .store (tyBytes (elemTy o.ty)) ((rowStores o s).map (·.1)) →
      Completes (.stv o) s fun t => t = stored s (rowStores o s)) ∧
    (∀ sel, sel = (o.j.extractLsb' 0 10).toNat → o.legalJ = true → o.dest = 0#10 → o.j.extractLsb' 10 6 = 0#6 → sel ≠ 0x1F3 →
        (∀ t ∈ s.group.threads, (s.me.thread t).skip = none) → Readable s o [(sel, 1)] → Accepts s .store 8 (frameAccs o s) →
      Completes (.spill o) s fun t => t = stored s ((s.active o).map fun e =>
        (⟨e.1, e.2, false, 1, 8 * ((s.me.thread e.2).frameBase + frameWord o), 8⟩, natToBytes 8 (s.word o e.1 e.2 sel).toNat)))

/-- R6, R344, R380: ST into the plain scratch of S. Every byte that no lane stores to reads as before, in the stash and in all of
physical memory; a byte that some lane stores to reads as the highest such lane stored it; registers and all else stay. -/
def Obligations.StashStoreFrame : Prop :=
  ∀ (s t : State) (o : Op), o.slot = 1 → Memory.wf s.home.stash = true → o.legalD 0x0C1 = true → o.extOk true true false = true →
    Readable s o [(o.selA, 1), (o.selB, o.regsOf o.ty)] → Accepts s .store (tyBytes (elemTy o.ty)) ((stores o s).map (·.1)) →
    (∀ w ∈ stores o s, Scratch s w.1) → exec (.st o) s = .next t →
    (t = s ∨ ∃ m, t = s.modHome fun c => { c with stash := m }) ∧
    (∀ a, (∀ w ∈ stores o s, a < stashAt s w.1 ∨ stashAt s w.1 + w.2.length ≤ a) → stashByte t a = stashByte s a) ∧
    (∀ pre w post, stores o s = pre ++ w :: post → ∀ i, i < w.2.length →
      (∀ v ∈ post, stashAt s w.1 + i < stashAt s v.1 ∨ stashAt s v.1 + v.2.length ≤ stashAt s w.1 + i) →
      some (stashByte t (stashAt s w.1 + i)) = w.2[i]?) ∧
    (∀ key a, t.phys.byte key a = s.phys.byte key a)

/-- R312, R313 and R208: ATOM completes in its four orders, the old value on its way, when its checks pass and, for release orders,
its release is complete. -/
def Obligations.AtomicsComplete : Prop :=
  ∀ (s : State) (o : Op) (r : Instr × Nat × Bool), r ∈ atoms o → o.slot = 1 → AtomLegal r.2.1 o →
    Sound s o (atomSrcs o) o.dest.toNat 1 →
    Accepts s .atomic (tyBytes (atomTy o)) (atomAccs o s) → (r.2.2 = true → s.active o ≠ [] → Released s o (atomScope o)) →
    Completes r.1 s fun t => UnderWay t o 1

/-- R312 and R131: an ATOM of one active lane in the plain scratch of S returns the old value after 20 cycles, and leaves the
function's new value there, or the old one where a compare fails. -/
def Obligations.StashAtomicResult : Prop :=
  ∀ (s : State) (o : Op) (l th : Nat), o.slot = 1 → Memory.wf s.home.stash = true → AtomLegal 0x0C4 o →
    Sound s o (atomSrcs o) o.dest.toNat 1 → Accepts s .atomic (tyBytes (atomTy o)) (atomAccs o s) →
    s.active o = [(l, th)] →
    let a := Acc.ofPtr l th (s.word o l th o.selA) (tyBytes (atomTy o))
    Scratch s a →
    let old := bytesToNat ((List.range a.n).map fun i => stashByte s (stashAt s a + i))
    let v := s.scalar o l th o.b.toNat (atomTy o)
    let new := atomNew (atomFn o) (atomTy o) old v (if atomFn o = 7 then s.scalar o l th o.selC (atomTy o) else 0)
    Completes (.atom o) s fun t =>
      (∃ lnd ∈ t.me.inflight, lnd.vals = [(th, [regImage (atomTy o) old])] ∧ lnd.due = s.now + cycleLen * 20 ∧
        lnd.dest = o.dest.toNat) ∧
      (∀ i, i < a.n → atomFn o ≠ 7 ∨ old = v → some (stashByte t (stashAt s a + i)) = (natToBytes a.n new)[i]?) ∧
      (∀ b, b < stashAt s a ∨ stashAt s a + a.n ≤ b ∨ (atomFn o = 7 ∧ old ≠ v) → stashByte t b = stashByte s b) ∧
      t.phys = s.phys

/-- R169, R170, R337, R363, R382, R383: prefetch, the stash map, write-back, invalidation and fences. -/
def Obligations.StashControlEffects : Prop :=
  ∀ (s : State) (o : Op) (e : Nat × Nat), o.slot = 1 → s.top o = some e →
    let p := s.word o e.1 e.2 o.selA
    let n := s.scalar o e.1 e.2 o.selB 7
    let gs := s.me.coveredGranules (ptrOff p) n
    let all := s.me.mem.granules.map (·.1)
    (o.legalD 0x0C8 = true → o.extOk true false false = true → Readable s o [(o.selA, 1)] →
      Completes (.pref o) s fun t => t = (s.active o).foldl (fun s' a =>
        s'.prefLane s.cur.1 s.cur.2 a.1 a.2 (s.word o a.1 a.2 o.selA)) s) ∧
    (o.legalD 0x0C9 = true → o.extOk true true false = true → Readable s o [(o.selA, 1)] → p.extractLsb' 9 23 = 0#23 →
        p.getLsbD 8 = true → (p.extractLsb' 0 8).toNat < 32 → BacksUp s all →
      Completes (.stmap o) s fun t => tget t.me.mem.stmap (p.extractLsb' 0 8).toNat = none) ∧
    (∀ w0 w1, s.run o e.1 e.2 o.selB 2 = [w0, w1] → o.legalD 0x0C9 = true → o.extOk true true false = true →
        Readable s o [(o.selA, 1), (o.selB, 2)] → o.elems = 2 → p.extractLsb' 9 23 = 0#23 → p.getLsbD 8 = false →
        (p.extractLsb' 0 8).toNat < 32 → mapTrap s.me w0 w1 = none → BacksUp s all →
      Completes (.stmap o) s fun t => tget t.me.mem.stmap (p.extractLsb' 0 8).toNat = some (w0, w1)) ∧
    (ptrSeg p = 2 → ptrBad p = false → ptrOff p + n ≤ s.me.limit 2 → o.extOk true true false = true →
        Readable s o [(o.selA, 1), (o.selB, 1)] →
      (o.legalD 0x0CA = true → (∀ g ∈ gs, (tget s.me.mem.granules g).any GranState.isFilling = false) → BacksUp s gs →
        Completes (.stwb o) s fun t => t = gs.foldl (fun s' g => s'.writeBack s'.cur.1 s'.cur.2 e.2 g) s) ∧
      (o.legalD 0x0CB = true →
        Completes (.stinv o) s fun t => ∀ g ∈ gs,
          (s.me.fillAwaited g = false → tget t.me.mem.granules g = none) ∧
          (s.me.fillAwaited g = true → ∃ due m, tget t.me.mem.granules g = some (.filling due m)))) ∧
    (∀ scope order prom, scope < 12 → order < 4 → scope ≠ 0 → (prom = true → scope = 7 ∧ order ≠ 1) →
        o.mod = BitVec.ofNat 8 (scope * 16 + order * 2 + if prom then 1 else 0) → o.ext = none →
      Completes (.fence o) s fun t => ∃ lines, t.me.fence = some ⟨scope, order, lines⟩ ∧ (prom = false → lines = []))

/-! ### Control flow -/

namespace Sys2Proof.Claims

/-- An op of layout J that has no field but its opcode (R294, R296). -/
def Bare (o : Op) : Prop := o.ext = none ∧ o.mod = 0#8 ∧ o.dest = 0#10 ∧ o.j = 0#30

/-- The threads of ACTIVE, and the other threads of the issue group. -/
def acting (s : State) (o : Op) : List Nat := (s.active o).map (·.2)
def resting (s : State) (o : Op) : List Nat := s.group.threads.filter fun t => !(acting s o).contains t

/-- No thread of the group passes over an instruction (R262). -/
def NoSkip (s : State) : Prop := ∀ t ∈ s.group.threads, (s.me.thread t).skip = none

/-- The frame words that a lowered branch reads and writes pass the checks of R166 and R183. -/
def EdgesSound (s : State) (pick : Nat → Nat → Edge) (srcs : List Loc) : Prop :=
  let accs (l : List Loc) (e : Nat × Nat) : List Acc := (frameWords l).map fun w => frameAcc s.me e.1 e.2 w
  let reads := s.group.lanes.flatMap fun e => accs (srcs ++ (pick e.1 e.2).moves.map (·.1)) e
  let writes := s.group.lanes.flatMap fun e => accs ((pick e.1 e.2).moves.map (·.2)) e
  s.accTraps s.cur.1 s.cur.2 .load 8 reads = [] ∧ s.accTraps s.cur.1 s.cur.2 .store 8 writes = [] ∧
    s.accFaults s.cur.1 s.cur.2 .load reads = [] ∧ s.accFaults s.cur.1 s.cur.2 .store writes = []

/-- The parallel copy of each thread's edge: every source is read in the state before the copies (R102). -/
def copied (s : State) (pick : Nat → Nat → Edge) : State :=
  s.group.lanes.foldl (fun s' e => (pick e.1 e.2).moves.foldl (fun s' m => s'.locWrite e.1 e.2 m.2 (s.locRead e.1 e.2 m.1)) s') s

/-- What a lowered branch does: the copies, then each thread goes on at the target of its edge. Where the copies write distinct
registers, each register holds what its source held before, and the group splits or goes on as one (R29, R102). -/
def BranchEffect (s t : State) (pick : Nat → Nat → Edge) : Prop :=
  t = (copied s pick).sendTo (s.group.lanes.map fun e => (e.2, ⟨⟨s.me.pc.tr, (pick e.1 e.2).target⟩, none⟩)) ∧
  (s.me.Tidy → s.group.lanes ≠ [] →
    (∀ e ∈ s.group.lanes, ((pick e.1 e.2).moves.map (·.2)).Nodup ∧ ∀ m ∈ (pick e.1 e.2).moves, ∃ n, m.2 = .reg n ∧ n < 256) →
    Goes s t (fun e => ⟨s.me.pc.tr, (pick e.1 e.2).target⟩) ∧
    ∀ e ∈ s.group.lanes, ∀ m ∈ (pick e.1 e.2).moves, ∀ n, m.2 = .reg n →
      tgetD (t.me.thread e.2).regs n 0 = s.locRead e.1 e.2 m.1)

/-- The key that a thread's return needs: the region of the CALL, at the thread's budget (R92, R116). -/
def returnKey (s : State) (th : Nat) (c : CallSite) : TKey :=
  let f := (s.funcOf { s.hereKey with func := c.func }).getD ⟨0, 0, false, 0, 0, [], [], []⟩
  { s.hereKey with func := c.func, region := f.regionAt c.block c.inst, budget := (s.me.thread th).budget }

/-- The key of the region of this function that a cross-region branch names (R412). -/
def regionKey (s : State) (w : Word) (th : Nat) : TKey :=
  { s.hereKey with region := (w.extractLsb' 48 16).toNat, budget := (s.me.thread th).budget }

/-- The threads of ACTIVE have taken their branch when two more groups have issued (R320). -/
def Delayed (s t : State) (o : Op) (dest : Nat → Pc) : Prop :=
  t = if s.active o = [] then s else s.modMe fun c =>
    { c with group := c.group.map fun g => { g with delay := some ⟨(acting s o).map fun th => (th, dest th), 3⟩ } }

end Sys2Proof.Claims

/-- R319, R387, R102 and R29: BR, CBR and SWITCH as the tron lowers them. -/
def Obligations.LoweredBranches : Prop :=
  ∀ (s : State) (e f : Edge) (q : Loc) (ty : Nat) (cases : List (Word × Edge)),
    let truth (l th : Nat) : Bool := (s.locRead l th q).getLsbD 0
    let value (l th : Nat) : BitVec (tyBits ty) := (s.locRead l th q).setWidth _
    let chosen (l th : Nat) : Edge := ((cases.find? fun c => c.1.setWidth (tyBits ty) == value l th).map (·.2)).getD e
    (EdgesSound s (fun _ _ => e) [] → Completes (.br e) s fun t => BranchEffect s t fun _ _ => e) ∧
    (EdgesSound s (fun l th => if truth l th then e else f) [q] →
      Completes (.cbr q e f) s fun t => BranchEffect s t fun l th => if truth l th then e else f) ∧
    (EdgesSound s chosen [q] → Completes (.switch ty q e cases) s fun t => BranchEffect s t chosen) ∧
    (∀ rows cols, Completes (.shape rows cols) s fun t => t = { s with scanShape := (rows, cols) })

/-- R320, R412 and R29: BRN in its three forms. FORM 0 gives the lanes of ACTIVE a branch that is taken after two more groups; FORM 1
takes the target of its b register at once; the cross-region form enters the region that the stub table gives, at once in the firmware
slot's or the users' prepare-to-branch form and after two more groups in the delay form (DEDUCED, log 61). An empty ACTIVE changes
nothing. -/
def Obligations.NativeBranches : Prop :=
  ∀ (s : State) (o : Op), NoSkip s → o.dest = 0#10 →
    (∀ pc, o.ext = none → o.mod = 0#8 → s.prepForm s.cur.1 s.cur.2 = false → s.target o = some pc →
      Completes (.brn o) s fun t => Delayed s t o fun _ => pc) ∧
    (∀ n b pc, n < 4 → o.ext = none → o.mod = BitVec.ofNat 8 (0x80 + n) → o.j = 0#30 → s.prepForm s.cur.1 s.cur.2 = true →
        tget s.me.regs.bregs n = some b → b.target = some pc → b.ready = true → s.me.Tidy →
      Completes (.brn o) s fun t => (s.active o = [] → t = s) ∧ (s.active o ≠ [] → Leaves s t (acting s o) fun _ => pc)) ∧
    (∀ (w : Word) (ent : Nat → Nat × Trans), o.ext = some w → w.extractLsb' 0 16 = 0#16 → o.mod = 0x40#8 → o.j = 0#30 →
      let spot (th : Nat) : Option Nat := (ent th).2.entryAt (w.extractLsb' 32 16).toNat (w.extractLsb' 16 16).toNat
      let dest (th : Nat) : Pc := ⟨(ent th).1, (spot th).getD 0⟩
      (∀ th ∈ acting s o, s.StubHolds (regionKey s w th) (ent th) ∧ (spot th).isSome = true) →
      (s.prepForm s.cur.1 s.cur.2 = false → Completes (.brn o) s fun t => Delayed s t o dest) ∧
      (s.prepForm s.cur.1 s.cur.2 = true → s.me.Tidy →
        Completes (.brn o) s fun t => (s.active o = [] → t = s) ∧ (s.active o ≠ [] → Leaves s t (acting s o) dest)))

/-- R362, R366, R403 and R29: PBR loads its b register, with the fetch ended 4 cycles later where the code is in instruction memory;
REFORM files every thread of the group at the next bundle, each with its own outcome of a branch that is pending; YIELD marks the
context and changes nothing in the firmware slot. With an empty ACTIVE each does nothing. -/
def Obligations.PrepareAndRegroup : Prop :=
  ∀ (s : State) (o : Op),
    (∀ n, n < 4 → o.ext = none → o.mod = BitVec.ofNat 8 n → o.dest = 0#10 → s.active o ≠ [] →
        (s.target o = none ∨ ∃ pc, s.target o = some pc ∧ s.codeHere s.cur.1 s.cur.2 pc = true) →
      Completes (.pbr o) s fun t => tget t.me.regs.bregs n = some ⟨s.target o, some (s.now + cycleLen * 4), false⟩ ∧
        (s.now + cycleLen * 4, Instr.pbrFetchComplete s.cur.1 s.cur.2 n) ∈ t.agenda ∧
        ∀ m, m ≠ n → tget t.me.regs.bregs m = tget s.me.regs.bregs m) ∧
    (∀ n pc, n < 4 → o.ext = none → o.mod = BitVec.ofNat 8 n → o.dest = 0#10 → s.active o ≠ [] → s.target o = some pc →
        s.codeHere s.cur.1 s.cur.2 pc = false →
      Completes (.pbr o) s fun t => tget t.me.regs.bregs n = some ⟨some pc, none, false⟩) ∧
    (Bare o → s.active o ≠ [] → s.me.Tidy →
      Completes (.reform o) s fun t => t.me.group = none ∧ ∀ th ∈ s.group.threads, Filed t.me (s.group.keyAfter th) th) ∧
    (Bare o → Completes (.yield o) s fun t =>
      t = if s.active o = [] ∨ s.cur.2 = 4 then s else s.modMe fun c => { c with yields := true }) ∧
    (Bare o → s.active o = [] → exec (.reform o) s = .next s) ∧
    (∀ n, n < 4 → o.ext = none → o.mod = BitVec.ofNat 8 n → o.dest = 0#10 → s.active o = [] → exec (.pbr o) s = .next s)

/-- R392, R322, R254 and R255: TRAP and BRK raise SOFTWARE and BREAKPOINT in every thread of ACTIVE, with SUB the low 8 bits of the
immediate. The whole effect is the trap: each thread is trap-parked at the bundle, with its record, and the others are filed
there. -/
def Obligations.RaisingOps : Prop :=
  ∀ (s : State) (o : Op) (r : Instr × TrapCode), r ∈ [(Instr.trap o, TrapCode.software), (.brk o, .breakpoint)] →
    o.ext = none → o.mod = 0#8 → o.dest = 0#10 → s.cur.2 < 4 → s.collect = none → s.me.Tidy →
    Completes r.1 s fun t =>
      (s.active o = [] → t = s) ∧
      (s.active o ≠ [] → TrapParks s t ((acting s o).map fun th => (th, ⟨r.2, (o.j.extractLsb' 0 8).toNat, 0⟩)))

/-- R323, R324, R368, R116 and R331: CALL pushes the call-site identity, advances the frame base by A + S and goes on at the callee's
first bundle; RET undoes both and goes on after the CALL; a RET of an entry function or without a call-site identity, and EXIT, end the
thread. Every other thread of the group goes on after the bundle. The SUB and address of a CALL's SEG_LIMIT are the model's (DEDUCED, log 63). -/
def Obligations.CallsAndReturns : Prop :=
  ∀ (s : State) (o : Op) (ent : Nat → Nat × Trans), o.ext = none → o.mod = 0#8 → o.dest = 0#10 → s.me.Tidy →
    let f := (o.j.extractLsb' 14 16).toNat
    let entry := ((s.funcOf s.hereKey).map (·.entry)).getD false
    let adv := ((s.trans s.cur.1 s.me.pc).map (·.advance)).getD 0
    let site : CallSite := ⟨s.hereKey.func, (s.point s.cur.1 s.me.pc).1, (s.point s.cur.1 s.me.pc).2⟩
    let callee (th : Nat) : TKey := { s.hereKey with func := f, region := 0, budget := (s.me.thread th).budget }
    let head (th : Nat) : CallSite := (s.me.thread th).calls.headD ⟨0, 0, 0⟩
    let back (th : Nat) : Option Nat := (ent th).2.returnAt (head th).block (head th).inst
    (o.j.extractLsb' 0 14 = 0#14 → f < ((tget s.objs s.hereKey.obj).map (·.funcs.length)).getD 0 →
        (∀ th ∈ acting s o, s.StubHolds (callee th) (ent th) ∧
          8 * ((s.me.thread th).frameBase + adv + (ent th).2.frame) ≤ s.effLimit s.me 1) →
      Completes (.call o) s fun t => (s.active o = [] → t = s) ∧ (s.active o ≠ [] →
        Leaves s t (acting s o) (fun th => ⟨(ent th).1, (ent th).2.start⟩) ∧
        ∀ th ∈ acting s o, (t.me.thread th).calls = site :: (s.me.thread th).calls ∧
          (t.me.thread th).frameBase = (s.me.thread th).frameBase + adv)) ∧
    (o.j = 0#30 → entry = false →
        (∀ th ∈ acting s o, (s.me.thread th).calls ≠ [] ∧ s.StubHolds (returnKey s th (head th)) (ent th) ∧ (back th).isSome = true) →
      Completes (.ret o) s fun t => (s.active o = [] → t = s) ∧ (s.active o ≠ [] →
        Leaves s t (acting s o) (fun th => ⟨(ent th).1, (back th).getD 0⟩) ∧
        ∀ th ∈ acting s o, (t.me.thread th).calls = (s.me.thread th).calls.tail ∧
          (t.me.thread th).frameBase = (s.me.thread th).frameBase - (ent th).2.advance)) ∧
    (o.j = 0#30 → (∀ th ∈ acting s o, (entry = true ∨ (s.me.thread th).calls = []) ∧ s.me.isBuilder th = false) →
      Completes (.ret o) s fun t => t = s.endThreads s.cur.1 s.cur.2 (acting s o)) ∧
    (o.j = 0#30 → (∀ th ∈ acting s o, s.me.isBuilder th = false) →
      Completes (.exit o) s fun t => t = s.endThreads s.cur.1 s.cur.2 (acting s o)) ∧
    (o.j = 0#30 → s.cur.2 < 4 → (∀ th ∈ acting s o, s.me.isBuilder th = false) → s.active o ≠ [] →
      Completes (.exit o) s fun t => (∀ th ∈ acting s o, (t.me.thread th).place = .ended ∧ th ∉ t.me.live) ∧
        ((∀ th ∈ s.me.live, th ∈ acting s o) → t.me.finishAt = some (s.groupEnd s.cur.1 s.cur.2)))

/-! ### Parking: barriers, register claims, templates -/

namespace Sys2Proof.Claims

/-- The arrivals of a barrier and the threads still to come reach its count (R317). -/
def Enough (s : State) (count : Nat) (arrived : List Nat) : Prop := count = 0 ∨ count ≤ (nodup (arrived ++ s.me.live)).length

/-- The encoding of a BAR of a form on identifier id, whose barrier is declared with the mode and count (R315, R317). -/
def BarSound (s : State) (o : Op) (form id mode count : Nat) : Prop :=
  id < 16 ∧ o.ext = none ∧ o.dest = 0#10 ∧ o.j = 0#30 ∧ o.mod = BitVec.ofNat 8 (form * 64 + id) ∧
    s.barDecl s.me id = some (mode, count) ∧ s.me.Tidy ∧ s.home.claims = []

/-- A register release or claim is legal (R137, R367): n registers for sub-groups of 2^lg threads. -/
def RegSound (s : State) (o : Op) (n lg : Nat) : Prop :=
  o.ext = none ∧ o.mod = 0#8 ∧ o.dest = 0#10 ∧ o.gq = 0#3 ∧ o.gn = false ∧ 0 < n ∧ n < 256 ∧ lg ≤ 8 ∧
    o.j = BitVec.ofNat 30 (n * 2 ^ 20 + lg * 2 ^ 10) ∧ s.me.size % 2 ^ lg = 0 ∧ s.me.Tidy

end Sys2Proof.Claims

/-- R315, R316 and R318: BAR in its three forms and BARTEST in its two. An arrival joins the arrivals; the arrival that brings them to
the expected count E completes the phase: the counter goes up by 1 modulo 2^16, the arrivals are empty, the parked threads are
released. -/
def Obligations.BarrierResults : Prop :=
  ∀ (s : State) (o : Op) (id count : Nat), s.active o ≠ [] →
    let ts := acting s o
    let b := s.me.bar id
    let e := s.me.expected count
    (BarSound s o 1 id 0 count → (∀ th ∈ ts, th ∉ b.arrived) →
      (b.arrived.length + ts.length < e → Enough s count (b.arrived ++ ts) →
        Completes (.barAw o) s fun t => (t.me.bar id).phase = b.phase ∧ (t.me.bar id).arrived = b.arrived ++ ts ∧
          ∀ th ∈ ts, (t.me.thread th).place = .barrier id ∧ (t.me.thread th).resume = s.group.keyAfter th) ∧
      (e ≤ b.arrived.length + ts.length →
        Completes (.barAw o) s fun t => (t.me.bar id).phase = (b.phase + 1) % 2 ^ 16 ∧ (t.me.bar id).arrived = [] ∧
          (∀ th ∈ ts, Filed t.me (s.group.keyAfter th) th) ∧ ∀ th ∈ s.me.parkedAt id, Filed t.me (s.me.thread th).resume th)) ∧
    (BarSound s o 2 id 1 count → (∀ th ∈ ts, th ∉ b.arrived) →
      (b.arrived.length + ts.length < e → Enough s count (b.arrived ++ ts) →
        Completes (.barArr o) s fun t => (t.me.bar id).phase = b.phase ∧ (t.me.bar id).arrived = b.arrived ++ ts ∧
          t.me.group = s.me.group) ∧
      (e ≤ b.arrived.length + ts.length →
        Completes (.barArr o) s fun t => (t.me.bar id).phase = (b.phase + 1) % 2 ^ 16 ∧ (t.me.bar id).arrived = [] ∧
          t.me.group = s.me.group ∧ ∀ th ∈ s.me.parkedAt id, Filed t.me (s.me.thread th).resume th)) ∧
    (BarSound s o 3 id 1 count → (∀ th ∈ ts, th ∈ b.owed) → b.arrived.length < e → Enough s count b.arrived →
      Completes (.barWait o) s fun t => (t.me.bar id).phase = b.phase ∧ (t.me.bar id).arrived = b.arrived ∧
        ∀ th ∈ ts, (th ∈ b.arrived → (t.me.thread th).place = .barrier id) ∧
          (th ∉ b.arrived → (t.me.thread th).place = .group ∧ th ∉ (t.me.bar id).owed)) ∧
    (id < 16 → o.ext = none → o.j = 0#30 → (s.barDecl s.me id).isSome = true → Sound s o [] o.dest.toNat 1 →
      (o.mod = BitVec.ofNat 8 id →
        Completes (.bartest o) s fun t => Gives s t o .reg o.dest.toNat 1 1 1 fun _ _ => [word64 (b.phase % 2)]) ∧
      (o.mod = BitVec.ofNat 8 (0x20 + id) →
        Completes (.bartestCtr o) s fun t => Gives s t o .reg o.dest.toNat 1 1 1 fun _ _ => [word64 b.phase]))

/-- R137 and R367: REGREL lowers each executing thread's budget and returns its registers to the pool at once; REGCLM parks the executing
threads, and the sub-group whose live threads have all parked is one claim. The firmware slot's registers are its own (R136). -/
def Obligations.RegisterBudget : Prop :=
  ∀ (s : State) (o : Op) (n lg : Nat), RegSound s o n lg → s.cur.2 < 4 → NoSkip s → s.active o ≠ [] →
    let ts := s.group.threads
    ((∀ th ∈ ts, 8 + n ≤ (s.me.thread th).budget) →
      Completes (.regrel o) s fun t => t.home.taken = s.home.taken - n * ts.length ∧
        (∀ th ∈ ts, (t.me.thread th).budget = (s.me.thread th).budget - n) ∧
        (∀ th, th ∉ ts → t.me.thread th = s.me.thread th) ∧
        ∀ th, (t.me.thread th).regs = (s.me.thread th).regs) ∧
    ((∀ th ∈ ts, (s.me.thread th).budget + n ≤ 255) → (∀ e ∈ s.me.threads, e.2.place ≠ .regclm) → s.home.claims = [] →
        (∀ th ∈ ts, n * ((subGroup th lg).filter s.me.live.contains).length ≤ s.poolFree s.cur.1) →
      Completes (.regclm o) s fun t =>
        (∀ th ∈ ts, (t.me.thread th).place = .regclm ∧ (t.me.thread th).claim = some (n, lg, s.me.pc) ∧
          (t.me.thread th).budget = (s.me.thread th).budget ∧ (t.me.thread th).resume = s.group.keyAfter th) ∧
        t.me.group = none ∧
        ∀ th ∈ ts, ((∀ m ∈ (subGroup th lg).filter s.me.live.contains, m ∈ ts) →
            ∃ r ∈ t.home.claims, r.ctx = s.cur.2 ∧ r.n = n ∧ r.threads = (subGroup th lg).filter s.me.live.contains) ∧
          ((∃ m ∈ (subGroup th lg).filter s.me.live.contains, m ∉ ts) → ∀ r ∈ t.home.claims, th ∉ r.threads))

/-- R49-R52, R339 and R391: TNEST opens a nested prologue for thread 0 and parks the other threads; a nested FREEZE opens the level, fills
its last-store entries from the founder's transfer words and files thread 0 and the parked threads at the continuation; the
FREEZE of a launch's founder writes the level-0 last, opens the launch and ends the founder. -/
def Obligations.TemplateSteps : Prop :=
  ∀ (s : State) (o : Op), o.ext = none → o.mod = 0#8 → o.dest = 0#10 → s.me.Tidy →
    let levels := ((s.funcOf s.hereKey).map (·.levels)).getD 4
    (∀ g, 1 ≤ g → g ≤ 256 → o.gq = 0#3 → o.gn = false → NoSkip s → o.j = BitVec.ofNat 30 (g * 2 ^ 20) → s.home.claims = [] →
        (∀ th ∈ s.group.threads, tnestTrap s.me (s.templated s.me) levels (s.point s.cur.1 s.me.pc) g th = none ∧
          s.me.tmpl.nests[(s.me.thread th).level - 1]? = none) →
        (0 ∈ s.group.threads → ∀ e ∈ s.me.threads, e.2.place ≠ .tnest) →
      Completes (.tnest o) s fun t =>
        (0 ∈ s.group.threads → t.me.tmpl.tnest = some ((s.point s.cur.1 s.me.pc).1, (s.point s.cur.1 s.me.pc).2, g) ∧
          (t.me.thread 0).place = .group) ∧
        ∀ th ∈ s.group.threads, th ≠ 0 → (t.me.thread th).place = .tnest ∧ (t.me.thread th).resume = s.group.keyAfter th) ∧
    (∀ n b blk lane th w l, n < 128 → o.j = BitVec.ofNat 30 (n * 2 ^ 20) → s.freezeCont = some (b, blk) → blk.args.length = n →
        s.top o = some (lane, th) → (∀ e ∈ s.active o, s.mayFreeze e.2 = true) →
      let accs := (List.range (sumNat (blk.args.map (valueRegs blk.shape)))).map fun i => frameAcc s.me lane th i
      let f := (s.funcOf s.hereKey).getD ⟨0, 0, false, 0, 0, [], [], []⟩
      let vals := s.freezeValues lane th blk
      s.accTraps s.cur.1 s.cur.2 .load 8 accs = [] → s.accFaults s.cur.1 s.cur.2 .load accs = [] →
      (s.me.isFounder = true → s.launchOf s.me = some l → s.me.wg = some w → s.lastFault l = none →
          (s.releaseStart s.cur.1 s.cur.2 th 7).releaseReady s.cur.1 s.cur.2 7 = true →
        Completes (.freeze o) s fun t => t = freezeLaunch b (f.regionAt b 0) ((f.reserve[0]?).getD 0) vals l w.launch th
          (s.releaseStart s.cur.1 s.cur.2 th 7)) ∧
      (∀ tb ti g (ent : Nat → Nat × Trans), s.me.isFounder = false → s.me.tmpl.tnest = some (tb, ti, g) →
        let parked := (s.me.threads.filter fun e => e.2.place == .tnest && (e.2.claim.map (·.2.1)) == some (tb * 2 ^ 16 + ti)).map (·.1)
        let lv := s.me.tmpl.opened
        let start := sumNat (f.reserve.take lv)
        (∀ u ∈ th :: parked, s.StubHolds (s.blockKey b u) (ent u)) → vals.length ≤ (f.reserve[lv]?).getD 0 →
        Completes (.freeze o) s fun t =>
          t.me.tmpl.opened = lv + 1 ∧ t.me.tmpl.sizes = s.me.tmpl.sizes ++ [g] ∧ t.me.tmpl.tnest = none ∧
          t.me.tmpl.nests = s.me.tmpl.nests ++ [⟨tb, ti, g, b⟩] ∧
          (∀ i ws, vals[i]? = some ws → tget t.me.mem.last (start + i) = some ws) ∧
          ∀ u ∈ th :: parked, Filed t.me ⟨⟨(ent u).1, ((ent u).2.entryAt b 0).getD 0⟩, none⟩ u))

/-! ### Control registers -/

namespace Sys2Proof.Claims

/-- The result of an op that acts once for its group is on its way to every lane of ACTIVE (R126-R129). -/
def Coming (s t : State) (o : Op) (width lat : Nat) (v : List Word) : Prop :=
  ∀ e ∈ s.active o, ∃ l ∈ t.me.inflight, l.kind = .reg ∧ l.dest = o.dest.toNat ∧ l.width = width ∧
    l.due = s.now + cycleLen * dueIn s o lat e.1 ∧ (e.2, v) ∈ l.vals

/-- Registers that any context reads (R17, R234, R301): address, and the value for a thread. -/
def userCsrs (s : State) : List (Nat × (Nat → Nat)) :=
  let c := s.me
  let k := s.cur.1
  let part := (s.partOfCore k).map (·.2)
  let banks := (tgetD s.fuses.banks k (BitVec.allOnes 128)).toNat
  [ (0x000, fun _ => s.now / 17),
    (0x010, fun _ => c.regs.binage),
    (0x011, fun _ => c.regs.prio),
    (0x012, fun _ => 0),
    (0x013, fun _ => 1),
    (0x014, fun _ => poolCap k * 2 ^ 32 + (poolCap k - s.home.taken)),
    (0x015, fun t => (c.thread t).budget),
    (0x016, fun _ => c.regs.fpctl.toNat),
    (0x017, fun _ => (part.map (·.nbv)).getD 1),
    (0x018, fun _ => s.home.rowLive s.cur.2),
    (0x019, fun _ => s.home.osHeld s.cur.2),
    (0x01A, fun _ => match s.cohortOf c with
      | some h => if h.span = 0 then 0 else (s.now - h.start) / cycleLen % h.span * 2 ^ 16 + h.span
      | none => 0),
    (0x0C0, fun _ => 0xB1 * 2 ^ 24 + clusterOnDie k * 2 ^ 16 + posOf k * 2 ^ 8 + (if isWide k then 2 else 1) * 4 + dieOf k),
    (0x0C1, fun _ => (tgetD s.fuses.smask (clusterOf k) 0xF#4).toNat * 2 ^ 16 + (tgetD s.fuses.cmask (clusterOf k) 0xFFF#12).toNat),
    (0x0C2, fun _ => banks % 2 ^ 64),
    (0x0C3, fun _ => banks / 2 ^ 64),
    (0x0C4, fun _ => s.userBytes k (s.spareOf k) / 2 ^ 20 * 2 ^ 16 + s.bankCount k * 2 ^ 8 + s.spareOf k),
    (0x0C5, fun _ => s.lanesPresent * 2 ^ 18 + s.slicesPresent * 2 ^ 10 + s.coresPresent) ] ++
  ((List.range 8).map fun n => (0x008 + n, fun _ => (c.chan n).done)) ++
  ((List.range 18).map fun n => (0x021 + n, fun _ => tgetD c.regs.counters (n + 1) 0)) ++
  ((0x020 :: (List.range 0x2D).map (0x033 + ·)).map fun n => (n, fun _ => 0)) ++
  ((List.range 8).map fun n => (0x060 + n, fun _ => (tgetD c.regs.segBase n 0).toNat)) ++
  ((List.range 8).map fun n => (0x068 + n, fun _ => (tgetD c.regs.segLim n 0).toNat)) ++
  ((List.range 5).map fun n => (0x0D0 + n, fun _ => (part.map fun p => tgetD p.trcnt n 0).getD 0))

/-- Registers that only the firmware slot reads (R300, R301). -/
def firmwareCsrs (s : State) (p : Partition) : List (Nat × Nat) :=
  let fe := tgetD s.fes (dieOf s.cur.1) {}
  [ (0x140, p.logBase.toNat), (0x141, p.logCtl.toNat), (0x142, p.logDrop), (0x143, p.trapBase.toNat), (0x144, p.trapCtl.toNat),
    (0x150, (s.ctx s.cur.1 s.home.sel.ctxsel).regs.mmu.toNat), (0x152, p.lease), (0x160, fe.base.toNat), (0x161, fe.cmd.toNat),
    (0x170, s.home.sel.brmode.toNat), (0x171, s.home.sel.ctxsel) ]

/-- The addresses that CSRWR may write a value to (R300-R302, R176): from a user context, and from the firmware slot. -/
def MayWrite (s : State) (a : Nat) (v : Word) : Prop :=
  let sel := s.home.sel.ctxsel
  (s.cur.2 ≠ 4 ∧ (a = 0x010 ∨ a = 0x016)) ∨
  (s.cur.2 = 4 ∧
    ((sel ≠ 4 ∧ (a = 0x010 ∨ a = 0x016)) ∨ a ∈ [0x140, 0x141, 0x143, 0x144, 0x152, 0x160, 0x161, 0x170] ∨
      (a = 0x150 ∧ (sel = 4 ∨ v.extractLsb' 0 12 ≠ 0#12)) ∨ (a = 0x171 ∧ (v.extractLsb' 0 3).toNat ≤ 4)))

/-- What a CSRWR of a user context leaves once it has taken effect (R35, R146, R327): address, and what then holds. -/
def writtenCsrs (v : Word) (k x : Nat) : List (Nat × (State → Prop)) :=
  [ (0x010, fun t => (t.ctx k x).regs.binage = Nat.max 8 (Nat.min 4096 v.toNat)),
    (0x016, fun t => (t.ctx k x).regs.fpctl = v &&& 0x3FFF#64) ]

/-- What a CSRWR of the firmware slot leaves, in partition i, for the context that CTXSEL names (R118, R176, R222, R238, R260, R302). -/
def writtenByFirmware (s : State) (v : Word) (k i : Nat) : List (Nat × (State → Prop)) :=
  let of (f : Partition → Prop) (t : State) : Prop := ∃ q, tget t.parts i = some q ∧ f q
  [ (0x140, of fun q => q.logBase = v &&& 0x000FFFFFFFFFFFE0#64),
    (0x143, of fun q => q.trapBase = v &&& 0x000FFFFFFFFFFFC0#64),
    (0x150, fun t => (t.ctx k (s.core k).sel.ctxsel).regs.mmu = v &&& 0x000FFFFFFFFF0FFF#64),
    (0x152, of fun q => q.lease = Nat.max 16 (Nat.min 4096 v.toNat)),
    (0x160, fun t => (tgetD t.fes (dieOf k) {}).base = v &&& 0x000FFFFFFFFFC000#64),
    (0x171, fun t => (t.core k).sel.ctxsel = (v.extractLsb' 0 3).toNat) ]

end Sys2Proof.Claims

/-- R300, R301, R326 and R327: CSRRD gives each register's value after 4 cycles; CSRWR's write takes effect from the context's next
bundle, BINAGE clamped to 8-4096 and LEASECTL to 16-4096 as the whole written value (DEDUCED, log 29); a user context that names an
address from 0x100 up traps PRIV; and an address that no register has, or a write of one that may not be written, traps ILLEGAL_OP. -/
def Obligations.ControlRegisters : Prop :=
  ∀ (s : State) (o : Op) (a : Nat), a < 2 ^ 12 → o.ext = none → o.mod = 0#8 →
    let all (c : TrapCode) (addr : Nat) : List (Nat × Trap) := (acting s o).map fun th => (th, ⟨c, 0, addr⟩)
    let user := s.cur.2 < 4 ∧ s.collect = none ∧ s.me.Tidy ∧ s.active o ≠ []
    (o.j = BitVec.ofNat 30 (a * 2 ^ 18) →
      (∀ r ∈ userCsrs s, r.1 = a → s.cur.2 < 4 → Sound s o [] o.dest.toNat 1 →
        Completes (.csrrd o) s fun t => Gives s t o .reg o.dest.toNat 1 4 1 fun _ th => [word64 (r.2 th)]) ∧
      (∀ i p, s.partOfCore s.cur.1 = some (i, p) → ∀ r ∈ firmwareCsrs s p, r.1 = a → s.cur.2 = 4 → Sound s o [] o.dest.toNat 1 →
        Completes (.csrrd o) s fun t => Gives s t o .reg o.dest.toNat 1 4 1 fun _ _ => [word64 r.2]) ∧
      (user → Sound s o [] o.dest.toNat 1 → 0x100 ≤ a → Completes (.csrrd o) s fun t => TrapParks s t (all .priv a)) ∧
      (user → Sound s o [] o.dest.toNat 1 → a < 0x100 → (∀ r ∈ userCsrs s, r.1 ≠ a) →
        Completes (.csrrd o) s fun t => TrapParks s t (all .illegalOp 0))) ∧
    (∀ sel e, sel < 2 ^ 10 → sel ≠ 0x1F3 → o.dest = 0#10 → o.j = BitVec.ofNat 30 (a * 2 ^ 18 + sel) → s.top o = some e →
        Readable s o [(sel, 1)] →
      (MayWrite s a (s.word o e.1 e.2 sel) →
        Completes (.csrwr o) s fun t => t = s.modMe fun c => { c with csrLate := c.csrLate ++ [(a, s.word o e.1 e.2 sel)] }) ∧
      (user → 0x100 ≤ a → Completes (.csrwr o) s fun t => TrapParks s t (all .priv a)) ∧
      (user → a < 0x100 → a ≠ 0x010 → a ≠ 0x016 → Completes (.csrwr o) s fun t => TrapParks s t (all .illegalOp 0))) ∧
    (∀ v x, x < 4 → (s.ctx s.cur.1 x).csrLate = [(a, v)] → ∀ w ∈ writtenCsrs v s.cur.1 x, w.1 = a →
      w.2 (s.applyLate s.cur.1 x) ∧ ((s.applyLate s.cur.1 x).ctx s.cur.1 x).csrLate = []) ∧
    (∀ v i p, s.partOfCore s.cur.1 = some (i, p) → (s.ctx s.cur.1 4).csrLate = [(a, v)] →
      ∀ w ∈ writtenByFirmware s v s.cur.1 i, w.1 = a → w.2 (s.applyLate s.cur.1 4))

/-! ### Transfers, events and collectives -/

namespace Sys2Proof.Claims

/-- The channel of an op of class X or C, and its scope and SH bit (R290). -/
def chanOf (o : Op) : Nat := (o.mod.extractLsb' 0 3).toNat
def scopeOf (o : Op) : Nat := (o.mod.extractLsb' 4 4).toNat
def shadowOf (o : Op) : Bool := o.mod.getLsbD 3

/-- The next identifier of a channel (R396). -/
def nextId (s : State) (chan : Nat) : Nat := ((s.me.chan chan).next + 1) % 2 ^ 32

/-- The transfer that an XFER's descriptor asks for, when no loop is armed (R397, R398). -/
def xferOf (s : State) (o : Op) (e : Nat × Nat) : Transfer :=
  transferOf (s.engEnv s.cur.1 s.cur.2) (chanOf o) (nextId s (chanOf o)) e.2 (scopeOf o) (shadowOf o) s.me.pc (s.run o e.1 e.2 o.selA 8)

/-- Repetition i of the armed loop (R400). -/
def loopOf (s : State) (o : Op) (e : Nat × Nat) (a : Arming) : List Transfer :=
  (List.range a.count).map fun i => (xferOf s o e).rep a (((s.me.chan (chanOf o)).next + 1 + i) % 2 ^ 32) i

/-- A transfer passes the checks of R398, and no page of its destination faults. -/
def XferSound (s : State) (t : Transfer) : Prop :=
  s.transferTrap s.me t = none ∧ s.shadowCheck s.cur.1 s.cur.2 t = (none, [])

end Sys2Proof.Claims

/-- R397-R400 and R396: an XFER takes its channel's next identifier, enters the time-sorted buffer and gives the identifier after 2
cycles; with a loop armed it hands all its repetitions to the loop generator. It waits while the channel or the buffer is
full. XLOOP arms the generator. -/
def Obligations.TransfersIssue : Prop :=
  ∀ (s : State) (o : Op) (e : Nat × Nat), s.top o = some e → o.ext = none →
    let c := chanOf o
    let r := s.releaseStart s.cur.1 s.cur.2 e.2 (scopeOf o)
    (o.legalV 0x101 7 = true → o.elems = 8 → Sound s o [(o.selA, 8)] o.dest.toNat 1 →
        xferDescOk s (scopeOf o) (s.run o e.1 e.2 o.selA 8) = true → s.loopOn s.cur.1 (s.engEnv s.cur.1 s.cur.2) = false →
      (s.me.eng.arming = none → XferSound s (xferOf s o e) → (s.me.chan c).full 1 = false → s.home.eng.buf.length < 64 →
        Completes (.xfer o) s fun t => (t.me.chan c).next = ((r.me.chan c).next + 1) % 2 ^ 32 ∧ t.home.eng.buf = r.home.eng.buf ++ [xferOf s o e] ∧
          (Nat.max r.now (tickTime (xferOf s o e).time), Instr.transferStart s.cur.1) ∈ t.agenda ∧
          ∃ l ∈ t.me.inflight, l.dest = o.dest.toNat ∧ l.width = 1 ∧ (e.2, [word64 (nextId s c)]) ∈ l.vals) ∧
      (∀ a, s.me.eng.arming = some a → 1 ≤ a.count → (∀ u ∈ loopOf s o e a ++ [xferOf s o e], XferSound s u) → (s.me.chan c).full a.count = false →
        Completes (.xfer o) s fun t => t.me.eng.arming = none ∧
          (⟨s.engEnv s.cur.1 s.cur.2, loopOf s o e a⟩ : LoopGen) ∈ t.home.eng.loops ∧
          (s.now, Instr.loopGeneratorEntry s.cur.1 s.cur.2) ∈ t.agenda ∧
          ∃ l ∈ t.me.inflight, l.dest = o.dest.toNat ∧ (e.2, [word64 (((s.me.chan c).next + a.count) % 2 ^ 32)]) ∈ l.vals) ∧
      (s.me.eng.arming = none → XferSound s (xferOf s o e) → (s.me.chan c).full 1 = true ∨ 64 ≤ s.home.eng.buf.length →
        Completes (.xfer o) s fun t => HeldFor .xferWait s t)) ∧
    (o.legalV 0x123 0 = true → o.elems = 8 → Readable s o [(o.selA, 1), (o.selB, 8)] →
        s.loopOn s.cur.1 (s.engEnv s.cur.1 s.cur.2) = false → 1 ≤ s.scalar o e.1 e.2 o.selA 7 → s.scalar o e.1 e.2 o.selA 7 ≤ 65535 →
        ∀ s0 s1 s2, s.run o e.1 e.2 o.selB 8 = [s0, s1, s2, 0, 0, 0, 0, 0] →
      Completes (.xloop o) s fun t => t = s.modMe fun c =>
        { c with eng := { c.eng with arming := some ⟨s.scalar o e.1 e.2 o.selA 7, s0, s1, s2⟩ } })

/-- R329, R330, R396, R401 and R402: EVQPOP takes the oldest record, with OVF when records were lost, and 0 from an empty queue; XSTAT
gives a channel's DONE; WAITID holds its group until its identifier is at or below DONE; XCANCEL takes a transfer out of the
buffer and ends it, and does nothing for one that has ended. -/
def Obligations.ChannelStatus : Prop :=
  ∀ (s : State) (o : Op) (e : Nat × Nat), s.top o = some e → o.ext = none →
    let c := chanOf o
    let id := s.scalar o e.1 e.2 o.selA 7
    (o.legalV 0x122 8 = true → Sound s o [] o.dest.toNat 1 →
      Completes (.evqpop o) s fun t => t.me.eng.evq = s.me.eng.evq.tail ∧
        Coming s t o 1 4 [match s.me.eng.evq with
          | [] => 0
          | w :: _ => if s.me.eng.evOvf then w ||| word64 (2 ^ 44) else w]) ∧
    (o.legalV 0x124 7 = true → Sound s o [] o.dest.toNat 1 →
      Completes (.xstat o) s fun t => Gives s t o .reg o.dest.toNat 1 4 1 fun _ _ => [word64 (s.me.chan c).done]) ∧
    (o.legalV 0x125 0 = true → Readable s o [(o.selA, 1)] → (s.me.chan c).notIssued id = false →
      ((s.me.chan c).below id = true → Completes (.waitid o) s fun t => t = s) ∧
      ((s.me.chan c).below id = false → Completes (.waitid o) s fun t => HeldFor .xferWait s t)) ∧
    (o.legalV 0x102 0 = true → Readable s o [(o.selA, 1)] → (s.me.chan c).notIssued id = false →
      let env := s.engEnv s.cur.1 s.cur.2
      ((∀ n ∈ s.cores, (∀ u ∈ n.2.eng.buf, u.is env c id = false) ∧ (∀ l ∈ n.2.eng.loops, ∀ u ∈ l.left, u.is env c id = false) ∧
          ∀ u, n.2.eng.running = some u → u.is env c id = false) →
        Completes (.xcancel o) s fun t => t = s) ∧
      (∀ k core pre post, s.cores = pre ++ (k, core) :: post →
          (∀ n ∈ pre, (∀ u ∈ n.2.eng.buf, u.is env c id = false) ∧ ∀ l ∈ n.2.eng.loops, ∀ u ∈ l.left, u.is env c id = false) →
          (∃ u ∈ core.eng.buf, u.is env c id = true) →
        Completes (.xcancel o) s fun t => t = (s.modCore k fun n => { n with eng := { n.eng with
          buf := n.eng.buf.filter fun u => !u.is env c id
          loops := n.eng.loops.map fun l => { l with left := l.left.filter fun u => !u.is env c id } } }).endOp env c id false none))

namespace Sys2Proof.Claims

/-- The runs of a complete shadow, and their accesses (R215, R364). -/
def shadowRun (p : Option ChanOp) : List (Option Nat × Nat × List Byte) :=
  match p with
  | some p => if p.shadow && p.state == .done then p.writes else []
  | none => []

def shadowAccs (th : Nat) (run : List (Option Nat × Nat × List Byte)) : List Acc :=
  run.filterMap fun w => if w.1.isNone then some (Acc.ofPtr 0 th (word64 w.2.1) w.2.2.length) else none

/-- A collective joins its group identifier: the channel's next identifier is taken, the issuer is entered, and its stream reads its
source (R351-R354). -/
def collStarted (redgrp : Bool) (s : State) (o : Op) (e : Nat × Nat) : State :=
  let w := s.me.wg
  let lg := (w.map (·.logical)).getD 0
  let cohort := (w.map (·.cohort)).getD 0
  let fn := if redgrp then (o.mod.extractLsb' 0 3).toNat else 0
  let d := collDesc redgrp (s.run o e.1 e.2 o.selA 4)
  let u := (s.groupUse cohort d.group).getD ⟨redgrp, d.tmask, d.len, d.ety, fn, [], [], if redgrp then [] else maskBits d.tmask, none⟩
  let gone := if redgrp then (maskBits d.tmask).filter fun m =>
    ((tget s.cohorts cohort).map (·.doneCores.contains m)).getD false && !(u.issuers.any (·.lg == m)) else []
  let i : Issuer := ⟨lg, s.engEnv s.cur.1 s.cur.2, d.chan, nextId s d.chan, e.2, s.me.pc, scopeOf o, shadowOf o, d.src, ptrOff d.dst, none, none⟩
  ((((s.releaseStart s.cur.1 s.cur.2 e.2 (scopeOf o)).modMe fun c => c.modChan d.chan (·.take (scopeOf o) (shadowOf o))).setUse cohort d.group
    { u with issuers := u.issuers ++ [i], dropped := nodup (u.dropped ++ gone) }).collRead cohort d.group lg)

end Sys2Proof.Claims

/-- R215, R364, R350-R354: PUBLISH is a release at its scope and makes a complete shadow its target's contents; MCAST and REDGRP join a
free group identifier, or wait for it. -/
def Obligations.PublishAndCollectives : Prop :=
  ∀ (s : State) (o : Op) (e : Nat × Nat), s.top o = some e → o.ext = none →
    let k := s.cur.1
    let x := s.cur.2
    let r := s.releaseStart k x e.2 (scopeOf o)
    (o.legalV 0x103 0 = true → Readable s o [(o.selA, 1)] →
      let id := s.scalar o e.1 e.2 o.selA 7
      let p := tget (s.me.chan (chanOf o)).ops id
      let run := shadowRun p
      (s.me.chan (chanOf o)).notIssued id = false → (∀ q, p = some q → q.state ≠ .failed ∧ (q.shadow = true → q.state ≠ .active)) →
        s.accFaults k x .store (shadowAccs e.2 run) = [] → r.releaseReady k x (if run = [] then scopeOf o else Nat.max 3 (scopeOf o)) = true →
      Completes (.publish o) s fun t => t = ((r.publishWrites k x e.2 run).releaseDone k x (scopeOf o)).modMe fun c => c.modChan (chanOf o) fun h =>
        { h with ops := match tget h.ops id with
          | some q => if q.shadow then tset h.ops id { q with state := .published, writes := [] } else h.ops
          | none => h.ops }) ∧
    (∀ redgrp, let opc := if redgrp then 0x105 else 0x104
      let i := if redgrp then Instr.redgrp o else .mcast o
      let ws := s.run o e.1 e.2 o.selA 4
      let d := collDesc redgrp ws
      let fn := if redgrp then (o.mod.extractLsb' 0 3).toNat else 0
      o.legalV opc 0 = true → o.elems = 4 → Readable s o [(o.selA, 4)] →
        collDescOk redgrp fn ((s.me.wg.map (·.logical)).getD 0) ws = true → s.collTrap s.me e.2 d = none → (s.me.chan d.chan).full 1 = false →
      (s.groupUse ((s.me.wg.map (·.cohort)).getD 0) d.group = none → Completes i s fun t => t = collStarted redgrp s o e) ∧
      (∀ u, s.groupUse ((s.me.wg.map (·.cohort)).getD 0) d.group = some u → redgrp = false → Completes i s fun t => HeldFor .xferWait s t) ∧
      (∀ u, s.groupUse ((s.me.wg.map (·.cohort)).getD 0) d.group = some u → redgrp = true → u.redgrp = true →
          u.tmask / 2 ^ (s.me.wg.map (·.logical)).getD 0 % 2 = 1 → (s.me.wg.map (·.logical)).getD 0 ∉ u.dropped →
          (∀ j ∈ u.issuers, j.lg ≠ (s.me.wg.map (·.logical)).getD 0) → u.tmask = d.tmask → u.ety = d.ety → u.len = d.len → u.fn = fn →
        Completes i s fun t => t = collStarted redgrp s o e))

/-- R230-R236, R365 and R374: SENDC waits for a slot of its pair with a credit in hand, then its message flies for 24 cycles and a hop
each; the message enters the pair's queue; RECVC takes the oldest message, and waits for the next where there is none. -/
def Obligations.CircuitMessages : Prop :=
  ∀ (s : State) (o : Op) (e : Nat × Nat) (h : Cohort) (w : Wg), s.top o = some e → o.ext = none → o.elems = 8 →
    s.me.wg = some w → tget s.cohorts w.cohort = some h →
    let lg := w.logical
    let peer := s.scalar o e.1 e.2 o.selA 7
    peer < h.rows * h.cols → peer ≠ lg →
    (o.legalV 0x106 24 = true → Readable s o [(o.selA, 1), (o.selB, 8)] →
      (∀ cr, h.phase s.now ∈ h.slots lg peer → spendCredit s.now (s.me.credits peer) = some cr →
        let at_ := s.now + cycleLen * (h.hops lg peer + 24)
        Completes (.sendc o) s fun t => t.me.credits peer = cr ∧
          tget t.cohorts w.cohort = some { h with flying := h.flying ++ [(lg, peer, at_, s.run o e.1 e.2 o.selB 8)] } ∧
          (at_, Instr.circuitArrival w.cohort lg peer) ∈ t.agenda) ∧
      (h.phase s.now ∉ h.slots lg peer ∨ spendCredit s.now (s.me.credits peer) = none →
        Completes (.sendc o) s fun t => HeldFor .circuitSlot s t)) ∧
    (o.legalV 0x107 24 = true → Sound s o [(o.selA, 1)] o.dest.toNat 8 →
      (∀ m r j y, s.me.recvWaiting peer = none → tgetD s.me.eng.rx peer [] = m :: r → s.peerSeat w.cohort peer = .live j y →
          (j, y) ≠ s.cur →
        Completes (.recvc o) s fun t => Coming s t o 8 6 m ∧ tget t.me.eng.rx peer = some r ∧
          (t.ctx j y).credits lg = (s.ctx j y).credits lg ++ [s.now + cycleLen * 16]) ∧
      (tgetD s.me.eng.rx peer [] = [] →
        Completes (.recvc o) s fun t => ∃ ls, ls ≠ [] ∧ t.me.inflight = s.me.inflight ++ ls ∧
          ∀ l ∈ ls, l.recv = some peer ∧ l.dest = o.dest.toNat ∧ l.width = 8)) ∧
    (∀ m, m ∈ h.flying → m.1 = peer → m.2.1 = lg → m.2.2.1 ≤ s.now →
        (∀ n ∈ h.flying, n.1 = peer → n.2.1 = lg → n.2.2.1 ≤ s.now → n = m) → s.peerSeat w.cohort lg = .live s.cur.1 s.cur.2 →
      (s.me.recvWaiting peer = none →
        Completes (.circuitArrival w.cohort peer lg) s fun t => tget t.me.eng.rx peer = some (tgetD s.me.eng.rx peer [] ++ [m.2.2.2])) ∧
      (∀ i l j y, s.me.recvWaiting peer = some i → s.me.inflight[i]? = some l → s.peerSeat w.cohort peer = .live j y → (j, y) ≠ s.cur →
        Completes (.circuitArrival w.cohort peer lg) s fun t => t.me.inflight[i]? = some (l.receive s.now m.2.2.2) ∧
          (t.ctx j y).credits lg = (s.ctx j y).credits lg ++ [Nat.max s.now (l.due + 10 * cycleLen)]))

/-! ### The matrix engine, slots, tiles and rows -/

namespace Sys2Proof.Claims

/-- An MTX op of class none is legal and its sources are readable (R186, R299). -/
def MtxSound (s : State) (o : Op) (opc : Nat) (srcs : List Nat) : Prop :=
  o.ext = none ∧ o.legalV opc 0 = true ∧ Readable s o (srcs.map fun r => (r, 1))

/-- Every lane of ACTIVE gives the same word for a source. -/
def Uniform (s : State) (o : Op) (sel w : Nat) : Prop := ∀ a ∈ s.active o, s.scalar o a.1 a.2 sel 7 = w

/-- The lanes of ACTIVE are lanes of a core (R123). -/
def RealLanes (s : State) (o : Op) : Prop := ∀ a ∈ s.active o, a.1 < 32

/-- A tile element, and a byte of a slot. -/
def tileAt (s : State) (tile i j : Nat) : BitVec 32 := (s.mtx s.cur.1).accAt tile i j
def slotByte (s : State) (slot n : Nat) : Byte := cellAt (s.mtx s.cur.1).opmem (slot * 16384 + n)

/-- The rows that ACTIVE owns (R192). -/
def ownedRows (s : State) (o : Op) : List Nat := (s.active o).flatMap fun a => laneRows a.1

/-- Only the given rows of a tile change, to the given elements (R192, R308). -/
def TileRows (s t : State) (tile : Nat) (rows : List Nat) (v : Nat → Nat → BitVec 32) : Prop :=
  (∀ i ∈ rows, ∀ j, j < 128 → tileAt t tile i j = v i j) ∧
  (∀ tl i j, i < 256 → j < 128 → (tl ≠ tile ∨ i ∉ rows) → tileAt t tl i j = tileAt s tl i j) ∧
  (t.mtx s.cur.1).opmem = (s.mtx s.cur.1).opmem

/-- The dot product of row i of the A slot with column j of the B slot, of 64 byte elements (R190, R191). -/
def byteDot (s : State) (f : Nat → Int) (aslot bslot i j : Nat) : Int :=
  ((List.range 64).map fun n => f (slotByte s aslot (64 * i + n)).toNat * f (slotByte s bslot (128 * n + j)).toNat).sum

/-- The numerics of the context (R148, R154). -/
def nbvOf (s : State) : Nat := ((s.partOfCore s.cur.1).map (·.2.nbv)).getD 1

/-- The moves of ACCLD and ACCST, row by row: lane n owns rows n, n + 32, … of 512 bytes each (R309). -/
def tileMoves (store : Bool) (s : State) (o : Op) (tile : Nat) : List EngMove :=
  ((s.active o).flatMap fun a => accRows a.1 a.2 (s.word o a.1 a.2 o.selA)).map fun r =>
    ⟨r.2.lane, r.2.t, r.2.seg, r.2.off, 512, if store then .toMem else .toTile, tile * 32768 + 128 * r.1,
      if store then (List.range 128).flatMap fun j => natToBytes 4 (tileAt s tile r.1 j).toNat else []⟩

/-- The row accesses of ACCLD and ACCST pass their checks (R309, R310). -/
def RowsSound (store : Bool) (s : State) (o : Op) : Prop :=
  (∀ a ∈ s.active o, ptrSeg (s.word o a.1 a.2 o.selA) ∈ (if store then [0, 2, 4, 5] else [0, 2, 3, 4, 5])) ∧
    s.accTraps s.cur.1 s.cur.2 (if store then .store else .load) 4
      (((s.active o).flatMap fun a => accRows a.1 a.2 (s.word o a.1 a.2 o.selA)).map (·.2)) = []

end Sys2Proof.Claims

/-- R153, R155, R190-R192 and R357: MMA writes D = A × B + C in every row that a lane of ACTIVE owns, and nothing else of the tiles and
slots; the integer formats are exact modulo 2^32. It waits for the array and for conflicting work. -/
def Obligations.MatrixMultiply : Prop :=
  ∀ (s : State) (o : Op) (w fmt aslot bslot tile : Nat) (z : Bool), MtxSound s o 0x0A0 [o.selA] → s.active o ≠ [] → Uniform s o o.selA w →
    mmaWord w = some (fmt, aslot, bslot, tile, z) → RealLanes s o →
    s.holdsSlot s.cur.1 s.cur.2 aslot = true → s.holdsSlot s.cur.1 s.cur.2 bslot = true → s.holdsTile s.cur.1 s.cur.2 tile = true →
    let c (i j : Nat) : Nat := if z then 0 else (tileAt s tile i j).toNat
    (s.now < (s.mtx s.cur.1).arrayFree → Completes (.mma o) s fun t => HeldFor .lookahead s t) ∧
    ((s.mtx s.cur.1).arrayFree ≤ s.now → s.conflicts s.cur.1 ⟨[aslot, bslot], []⟩ ⟨[], [tile]⟩ = true →
      Completes (.mma o) s fun t => HeldFor .opslotWait s t) ∧
    ((s.mtx s.cur.1).arrayFree ≤ s.now → s.conflicts s.cur.1 ⟨[aslot, bslot], []⟩ ⟨[], [tile]⟩ = false →
      Completes (.mma o) s fun t =>
        TileRows s t tile (ownedRows s o) (fun i j => BitVec.ofNat 32 ((s.mtx s.cur.1).mmaElem fmt aslot bslot (nbvOf s)
          (fpRM s.me.regs.fpctl) (fpFTZ s.me.regs.fpctl) (c i j) i j)) ∧
        (fmt = 1 → TileRows s t tile (ownedRows s o) fun i j => BitVec.ofInt 32 (c i j + byteDot s (signed 8) aslot bslot i j)) ∧
        (fmt = 2 → TileRows s t tile (ownedRows s o) fun i j => BitVec.ofInt 32 (c i j + byteDot s (fun n => n) aslot bslot i j)) ∧
        (t.mtx s.cur.1).arrayFree = s.now + cycleLen * ((mmaFormat fmt).2.2 * if isWide s.cur.1 then 1 else 2))

/-- R308-R310 and R361: ACCZ zeroes the owned rows; ACCLD, ACCST and OSLOAD run their rows as an engine stream. -/
def Obligations.TileAndSlotMoves : Prop :=
  ∀ (s : State) (o : Op) (e : Nat × Nat), s.top o = some e →
    (∀ tile, MtxSound s o 0x0A3 [o.selA] → Uniform s o o.selA tile → tile < 4 → RealLanes s o → s.holdsTile s.cur.1 s.cur.2 tile = true →
        s.conflicts s.cur.1 noSet ⟨[], [tile]⟩ = false →
      Completes (.accz o) s fun t => TileRows s t tile (ownedRows s o) (fun _ _ => 0) ∧
        (s.now + cycleLen * (ownedRows s o).length, Instr.engineWorkComplete s.cur.1) ∈ t.agenda) ∧
    (∀ store tile, let i := if store then Instr.accst o else .accld o
      let set : OsSet := ⟨[], [tile]⟩
      let mine : Work := { ctx := s.cur.2, reads := if store then set else noSet, writes := if store then noSet else set, until_ := s.now, at_ := s.me.pc }
      MtxSound s o (if store then 0x0A2 else 0x0A1) [o.selA, o.selB] → Uniform s o o.selB tile → tile < 4 → RowsSound store s o →
        s.holdsTile s.cur.1 s.cur.2 tile = true →
      (s.conflicts s.cur.1 (if store then set else noSet) (if store then noSet else set) = false →
        Completes i s fun t => t = s.runStream s.cur.1 s.cur.2 mine (4 * (tileMoves store s o tile).length) (tileMoves store s o tile)) ∧
      (s.conflicts s.cur.1 (if store then set else noSet) (if store then noSet else set) = true → Completes i s fun t => HeldFor .opslotWait s t)) ∧
    (∀ slot soff n, slot < 32 → soff < 128 → n < 128 → soff + n + 1 ≤ 128 → MtxSound s o 0x0A5 [o.selA, o.selB] →
        s.scalar o e.1 e.2 o.selB 7 = n * 2 ^ 16 + soff * 2 ^ 8 + slot → s.holdsSlot s.cur.1 s.cur.2 slot = true →
        ptrSeg (s.word o e.1 e.2 o.selA) ≠ 1 →
        s.accTraps s.cur.1 s.cur.2 .load 8 [Acc.ofPtr e.1 e.2 (s.word o e.1 e.2 o.selA) (128 * (n + 1))] = [] →
        s.conflicts s.cur.1 noSet ⟨[slot], []⟩ = false →
      Completes (.osload o) s fun t => t = s.draw1.2.runStream s.cur.1 s.cur.2
        { ctx := s.cur.2, reads := noSet, writes := ⟨[slot], []⟩, until_ := s.now, at_ := s.me.pc } (2 * (n + 1) + s.draw1.1 % 512)
        ((List.range (n + 1)).map fun i => ⟨e.1, e.2, ptrSeg (s.word o e.1 e.2 o.selA), ptrOff (s.word o e.1 e.2 o.selA) + 128 * i, 128, .toSlot,
          slot * 16384 + 128 * soff + 128 * i, []⟩))

namespace Sys2Proof.Claims

/-- The set word of OSCLAIM and OSREL: `n` slots from `first`, and a mask of tiles (R360). -/
def setWord (first n tiles : Nat) : Nat := tiles * 2 ^ 16 + n * 2 ^ 8 + first

/-- The slots and the tiles that the set word names. -/
def claimed (first n tiles : Nat) : OsSet := ⟨(List.range n).map (first + ·), (List.range 4).filter fun i => tiles / 2 ^ i % 2 == 1⟩

end Sys2Proof.Claims

/-- R186, R187 and R360: OSCLAIM waits in the order of claims until the set is the context's own, and then does nothing more; OSREL frees
its set: the slots and tiles read zero and are grantable after 128 and 1,024 cycles. -/
def Obligations.SlotClaims : Prop :=
  ∀ (s : State) (o : Op) (e : Nat × Nat) (first n tiles : Nat), s.top o = some e → first < 32 → n ≤ 32 → tiles < 16 →
    s.scalar o e.1 e.2 o.selA 7 = setWord first n tiles →
    let set := claimed first n tiles
    (∀ i ∈ set.slots, i < slotCount s.cur.1) → (∀ i ∈ set.tiles, i < tileCount s.cur.1) → set ≠ noSet →
    (MtxSound s o 0x0A4 [o.selA] →
      ((s.heldSet s.cur.1 s.cur.2).sorted = set.sorted → Completes (.osclaim o) s fun t => t = s) ∧
      ((s.heldSet s.cur.1 s.cur.2).sorted = noSet → (∀ c ∈ (s.mtx s.cur.1).osClaims, c.ctx ≠ s.cur.2) →
        Completes (.osclaim o) s fun t => (t.mtx s.cur.1).osClaims = (s.mtx s.cur.1).osClaims ++ [⟨s.cur.2, set.sorted⟩] ∧
          t.me.hold = some .opslotWait)) ∧
    (MtxSound s o 0x0A6 [o.selA] → (∀ i ∈ set.slots, s.holdsSlot s.cur.1 s.cur.2 i = true) → (∀ i ∈ set.tiles, s.holdsTile s.cur.1 s.cur.2 i = true) →
      (s.conflicts s.cur.1 noSet set.sorted = false →
        Completes (.osrel o) s fun t =>
          (∀ i ∈ set.slots, tget (t.mtx s.cur.1).slotOwner i = none ∧ tget (t.mtx s.cur.1).clearSlots i = some (s.now + cycleLen * 128) ∧
            ∀ b, b < 16384 → slotByte t i b = 0) ∧
          (∀ i ∈ set.tiles, tget (t.mtx s.cur.1).tileOwner i = none ∧ tget (t.mtx s.cur.1).clearTiles i = some (s.now + cycleLen * 1024) ∧
            ∀ r j, r < 256 → j < 128 → tileAt t i r j = 0) ∧
          (∀ i, i ∉ set.slots → tget (t.mtx s.cur.1).slotOwner i = tget (s.mtx s.cur.1).slotOwner i ∧ ∀ b, b < 16384 → slotByte t i b = slotByte s i b) ∧
          ∀ i, i ∉ set.tiles → tget (t.mtx s.cur.1).tileOwner i = tget (s.mtx s.cur.1).tileOwner i) ∧
      (s.conflicts s.cur.1 noSet set.sorted = true → Completes (.osrel o) s fun t => HeldFor .opslotWait s t))

namespace Sys2Proof.Claims

/-- The first four checks of a ROWACT pass (R196): a row of V on the core's own pillar, in the user region. -/
def RowSound (s : State) (p : Word) : Prop :=
  ptrSeg p = 6 ∧ ptrBad p = false ∧ ptrOff p % 2048 = 0 ∧ ptrOff p < s.me.limit 6 ∧ s.me.vPillar = s.cur.1 ∧
    s.bankRegion s.cur.1 ((s.me.vBase + ptrOff p) / 2 ^ 23 % 128) (s.spareOf s.cur.1) = .user

end Sys2Proof.Claims

/-- R195-R199, R369-R371: ROWACT takes the lowest free ticket entry and begins the activation of an idle bank, or waits for a bank that is
not idle and holds no open row; the force form first closes the context's own row; ROWCON copies bytes of an open row into a slot,
decrypted under V's key, and waits for the row where W is set; ROWCLS ends a live ticket and does nothing for a dead one. -/
def Obligations.RowOps : Prop :=
  ∀ (s : State) (o : Op) (e : Nat × Nat), s.top o = some e → o.ext = none →
    let k := s.cur.1
    let m := s.mtx k
    let p := s.word o e.1 e.2 o.selA
    (∀ (force : Bool) tix, o.legalV 0x0A7 8 = true → Sound s o [(o.selA, 1)] o.dest.toNat 1 → RowSound s p → m.freeTix = some tix →
      let off := s.me.vBase + ptrOff p
      let b := off / 2 ^ 23 % 128
      let t0 : Ticket := ⟨s.cur.2, m.gen.toNat, b, off / 2048 % 4096⟩
      let i := if force then Instr.rowactForce o else .rowact o
      (s.bank k b).holdsRow = false → (s.bank k b).waiting = none → (s.bank k b).stkWaits = false →
      Completes i s fun t => Coming s t o 1 2 [ticketWord tix t0] ∧ tget (t.mtx k).tickets tix = some t0 ∧ (t.mtx k).gen = m.gen + 1 ∧
        ((s.bank k b).state = .idle → (t.bank k b).state = .opening ∧ (t.bank k b).since = s.gtc ∧ (t.bank k b).row = off / 2048 % 4096 ∧
          (t.bank k b).tix = some tix ∧ (tickTime (s.gtc + 14), Instr.rowOpen k b) ∈ t.agenda ∧
          (tickTime (s.gtc + 4000), Instr.refreshClose k b) ∈ t.agenda) ∧
        ((s.bank k b).state ≠ .idle → (t.bank k b).waiting = some tix ∧ (t.bank k b).state = (s.bank k b).state)) ∧
    (∀ old tk, o.legalV 0x0A7 8 = true → Sound s o [(o.selA, 1)] o.dest.toNat 1 → RowSound s p → m.freeTix ≠ none →
      let b := (s.me.vBase + ptrOff p) / 2 ^ 23 % 128
      (s.bank k b).holdsRow = true → (s.bank k b).stk = false → (s.bank k b).waiting = none → (s.bank k b).stkWaits = false →
      (s.bank k b).tix = some old → tget m.tickets old = some tk → tk.ctx = s.cur.2 → tk.bslot = b →
      Completes (.rowactForce o) s fun t => (t.bank k b).closeAt = some (Nat.max s.now (Nat.max (tickTime ((s.bank k b).since + 32)) (s.bank k b).consumeEnd)) ∧
        ∃ tix n, (t.bank k b).waiting = some tix ∧ tget (t.mtx k).tickets tix = some n ∧ Coming s t o 1 2 [ticketWord tix n] ∧
          n.ctx = s.cur.2 ∧ n.bslot = b ∧ n.row = (s.me.vBase + ptrOff p) / 2048 % 4096) ∧
    (∀ wait tix tk slot soff n roff, let i := if wait then Instr.rowconW o else .rowcon o
      MtxSound s o 0x0A8 [o.selA, o.selB] → slot < 32 → soff < 128 → n < 32 → roff < 16 → roff + n + 1 ≤ 16 → soff + n + 1 ≤ 128 →
        s.scalar o e.1 e.2 o.selB 7 = slot * 2 ^ 16 + soff * 2 ^ 9 + n * 2 ^ 4 + roff → s.holdsSlot k s.cur.2 slot = true →
        s.liveTicket k s.cur.2 p = some (tix, tk) →
      ((s.bank k tk.bslot).state = .opened → (s.bank k tk.bslot).tix = some tix → m.busFree ≤ s.now → s.conflicts k noSet ⟨[slot], []⟩ = false →
          Memory.wf m.opmem = true →
        let pa := k * 2 ^ 30 + (tk.bslot * 4096 + tk.row) * 2048 + 128 * roff
        Completes i s fun t =>
          (∀ j, j < 128 * (n + 1) → slotByte t slot (128 * soff + j) = s.phys.dramByte (some (s.keyOf s.me.vKey)) (pa + j)) ∧
          (∀ a, (a < slot * 16384 + 128 * soff ∨ slot * 16384 + 128 * soff + 128 * (n + 1) ≤ a) → cellAt (t.mtx k).opmem a = cellAt m.opmem a) ∧
          (t.mtx k).busFree = s.now + cycleLen * (n + 1) ∧ t.phys = s.phys) ∧
      ((s.bank k tk.bslot).state ≠ .opened → wait = true → Completes i s fun t => HeldFor .rowWait s t)) ∧
    (MtxSound s o 0x0A9 [o.selA] →
      (∀ tix tk, s.liveTicket k s.cur.2 p = some (tix, tk) →
        Completes (.rowcls o) s fun t => tget (t.mtx k).tickets tix = none ∧
          ∀ j, j ≠ tix → tget (t.mtx k).tickets j = tget m.tickets j) ∧
      (s.liveTicket k s.cur.2 p = none → Completes (.rowcls o) s fun t => t = s))

/-! ### Privileged instructions and returns from traps -/

namespace Sys2Proof.Claims

/-- The privileged instructions with their native opcodes (R299, R372, R384, R389, R390, R393). -/
def privileged (o : Op) : List (Instr × Nat) :=
  [(.segset o, 0x80), (.tlbinv o, 0x81), (.retry o, 0x82), (.cont o, 0x82), (.replay o, 0x82), (.fail o, 0x82), (.endThread o, 0x82),
    (.endLaunch o, 0x82), (.ticket o, 0x83), (.stkcpy o, 0x84)]

/-- The answers of TRET with their modes (R262, R393). -/
def answers (o : Op) : List (Instr × Nat) :=
  [(.retry o, 0), (.cont o, 1), (.replay o, 2), (.fail o, 3), (.endThread o, 4), (.endLaunch o, 5)]

/-- A TRET is issued in the firmware slot for a context and thread, in a mode (R393). -/
def TretSound (s : State) (o : Op) (x th mode : Nat) : Prop :=
  s.cur.2 = 4 ∧ o.legalD 0x182 = true ∧ o.extOk true false false = true ∧ Sound s o [(o.selA, 1)] o.dest.toNat 1 ∧
    (∃ e, s.top o = some e ∧ (s.word o e.1 e.2 o.selA).toNat = mode * 2 ^ 16 + th * 2 ^ 8 + x) ∧ x < 4 ∧ th < 256 ∧ mode < 8

/-- The state after a TRET: the effect of the answer, with the status on its way after 4 cycles (R262, R393). -/
def Status (u t : State) (o : Op) (status : Nat) : Prop :=
  t = u.land o .reg o.dest.toNat 1 4 (u.perLane o fun _ _ => [word64 status]) 0 [] []

/-- A thread of a resident context waits for the answer to its trap (R255, R262). -/
def Trapped (s : State) (x th : Nat) (h : TrapHold) : Prop :=
  (s.ctx s.cur.1 x).state = .active ∧ (tget (s.ctx s.cur.1 x).threads th).isSome = true ∧ ((s.ctx s.cur.1 x).thread th).trap = some h

/-- A thread of a resident context waits for the answer to its page fault (R183, R262). -/
def Faulted (s : State) (x th : Nat) (f : FaultHold) : Prop :=
  (s.ctx s.cur.1 x).state = .active ∧ (tget (s.ctx s.cur.1 x).threads th).isSome = true ∧ ((s.ctx s.cur.1 x).thread th).trap = none ∧
    ((s.ctx s.cur.1 x).thread th).fault = some f

end Sys2Proof.Claims

/-- R254, R255 and R299: a privileged instruction in a user context raises PRIV with SUB 1 and its opcode in every thread of ACTIVE, and
has no other effect. -/
def Sys2Proof.Claims.PrivilegeTraps : Prop :=
  ∀ (s : State) (o : Op) (r : Instr × Nat), r ∈ privileged o → s.cur.2 < 4 → s.collect = none → s.me.Tidy → s.active o ≠ [] →
    Completes r.1 s fun t => TrapParks s t ((acting s o).map fun th => (th, ⟨.priv, 1, r.2⟩))

namespace Sys2Proof.Claims

/-- A base and limit that SEGSET accepts for a segment of a context (R165, R372): for S, of a SAVED context, a range of the stash
that no resident context's share and copy pool meet; for V, whole rows of one pillar. -/
def SegFits (s : State) (x seg base lim : Nat) (saved : Bool) : Prop :=
  base % 256 = 0 ∧ base + lim ≤ 2 ^ 60 ∧
  (seg = 2 → saved = true ∧ base + lim ≤ stashCap s.cur.1 ∧ ∀ e ∈ s.home.ctxs, e.1 ≠ x → e.1 < 4 → e.2.state = .active →
    lim = 0 ∨ e.2.mem.shareLen + e.2.mem.pool = 0 ∨ base + lim ≤ e.2.mem.shareBase ∨
      e.2.mem.shareBase + (e.2.mem.shareLen + e.2.mem.pool) ≤ base) ∧
  (seg = 6 → base / 2 ^ 50 < 576 ∧ lim % 2048 = 0 ∧ base / 2 ^ 11 % 2 ^ 19 * 2 ^ 11 + lim ≤ 2 ^ 30)

/-- A segment register holds the two images, and no other segment register has changed (R163, R372). -/
def SegTaken (a b : Ctx) (seg : Nat) (base lim : Word) : Prop :=
  tget b.regs.segBase seg = some (segImage seg base) ∧ tget b.regs.segLim seg = some (limImage lim) ∧
    ∀ g, g ≠ seg → tget b.regs.segBase g = tget a.regs.segBase g ∧ tget b.regs.segLim g = tget a.regs.segLim g

/-- A reference that a TICKET accepts (R389): aligned, in a present pillar. -/
def RefSound (s : State) (w : Word) : Prop :=
  w.extractLsb' 61 3 = 0#3 ∧ (w.extractLsb' 0 52).toNat % 8 = 0 ∧ (w.extractLsb' 0 52).toNat < pillarEnd ∧
    s.presentPillar ((w.extractLsb' 0 52).toNat / 2 ^ 30) = true

/-- A STKCPY descriptor that passes the checks of R385, on pillar k: source, destination, length, the key slots. -/
def StkSound (s : State) (src dst len keys : Nat) : Prop :=
  let whole (off : Nat) : Prop := off + len ≤ 2 ^ 30 ∧
    ∀ b, b < 128 → b * 2 ^ 23 < off + len → off < (b + 1) * 2 ^ 23 → s.bankRegion s.cur.1 b (s.spareOf s.cur.1) ≠ .hole
  src % 8 = 0 ∧ dst % 8 = 0 ∧ len % 8 = 0 ∧ 8 ≤ len ∧ keys < 2 ^ 18 ∧ whole src ∧ whole dst ∧ (dst + len ≤ src ∨ src + len ≤ dst)

end Sys2Proof.Claims

/-- R165, R372, R390, R389 and R385: in the firmware slot SEGSET sets a segment of a resident context, or of the record of a SAVED one;
TLBINV takes the matching entries, and no other, out of every TLB once its release is complete; TICKET waits for its release at part scope
and begins an acquire, and its result is on its way: one lane's is the value at the home slice, where 1 is added at once or in its turn;
STKCPY waits for its writes to be in the pillars, takes an identifier and joins the copies of its core. That SEGSET masks the zero bits is
the model's (DEDUCED, log 40). -/
def Obligations.FirmwareOps : Prop :=
  ∀ (s : State) (o : Op) (e : Nat × Nat), s.top o = some e → s.cur.2 = 4 →
    let k := s.cur.1
    let wa := s.scalar o e.1 e.2 o.selA 7
    (o.legalD 0x180 = true → o.extOk true true true = true → Readable s o [(o.selA, 1), (o.selB, 1), (o.selC, 1)] →
      ∀ x seg, x < 4 → seg < 8 → wa = seg * 16 + x →
      let base := s.word o e.1 e.2 o.selB
      let lim := s.word o e.1 e.2 o.selC
      ((s.ctx k x).state = .active → SegFits s x seg base.toNat lim.toNat false →
        Completes (.segset o) s fun t => SegTaken (s.ctx k x) (t.ctx k x) seg base lim) ∧
      (∀ n pre r post, (s.ctx k x).state ≠ .active → s.home.saves = pre ++ (n, r) :: post → (∀ p ∈ pre, p.1 ≠ n ∧ p.2.ctxNo ≠ x) →
          r.ctxNo = x → SegFits s x seg base.toNat lim.toNat true →
        Completes (.segset o) s fun t => ∃ a b, s.record k n = some a ∧ tget t.home.saves n = some b ∧ SegTaken a.ctx b.ctx seg base lim)) ∧
    (o.legalD 0x181 = true → o.extOk true true false = true → Readable s o [(o.selA, 1), (o.selB, 1)] →
      let va := (s.word o e.1 e.2 o.selB).toNat
      let r := s.releaseStart k 4 e.2 7
      wa < 2 ^ 14 → (wa.testBit 13 = true → wa = 0x3000) → (wa.testBit 12 = false → va < 2 ^ 60) →
      (r.releaseReady k 4 7 = false → Completes (.tlbinv o) s fun t => HeldFor .lookahead r t) ∧
      (r.releaseReady k 4 7 = true →
      Completes (.tlbinv o) s fun t => (∀ c ∈ t.cores, ∀ n ∈ c.2.tlb, n.matches wa va = false) ∧
        (∀ c ∈ t.clusters, ∀ n ∈ c.2.tlb, n.matches wa va = false) ∧
        (∀ j n, n ∈ (r.core j).tlb → n.matches wa va = false → n ∈ (t.core j).tlb) ∧
        (∀ j n, n ∈ (r.cluster j).tlb → n.matches wa va = false → n ∈ (t.cluster j).tlb))) ∧
    (o.legalD 0x183 = true → o.extOk true false false = true → Sound s o [(o.selA, 1)] o.dest.toNat 1 →
      let r := s.releaseStart k 4 e.2 9
      (∀ a ∈ s.active o, RefSound s (s.word o a.1 a.2 o.selA)) →
      (r.releaseReady k 4 9 = false → Completes (.ticket o) s fun t => HeldFor .lookahead r t) ∧
      (r.releaseReady k 4 9 = true →
      Completes (.ticket o) s fun t => UnderWay t o 1 ∧ t.me.fence = some ⟨9, 0, []⟩ ∧
        (s.active o = [e] →
          let w := s.word o e.1 e.2 o.selA
          let pa := (w.extractLsb' 0 52).toNat
          let key := some (s.keyOf (w.extractLsb' 52 9).toNat)
          let home := r.sendWcb (clusterOf k) (pa / 128)
          let old := bytesToNat ((List.range 8).map fun i => home.lastByteAt key (pa + i))
          let sum : PWrite := { bytes := bytesAt pa (natToBytes 8 (old + 1)), key := key, owners := [(k, 4, e.2)] }
          (∃ l ∈ t.me.inflight, (e.2, [word64 old]) ∈ l.vals) ∧
          (home.homeFree (pa / 128) sum = false → ∃ p ∈ (t.line (pa / 128)).waiting, p.bytes = sum.bytes ∧ p.key = key) ∧
          (home.homeFree (pa / 128) sum = true → Memory.wf home.phys.dram = true → home.phys.overlay.Pairwise (fun a b => a.1 < b.1) →
            ∀ i, i < 8 → some (t.phys.byte key (pa + i)) = (natToBytes 8 (old + 1))[i]?)))) ∧
    (o.ext = none → o.legalV 0x184 7 = true → o.elems = 8 → Sound s o [(o.selA, 8)] o.dest.toNat 1 →
      let c := chanOf o
      let r := s.releaseStart k 4 e.2 8
      ∀ src dst len keys : Word, s.run o e.1 e.2 o.selA 8 = [word64 k, src, dst, len, keys, 0, 0, 0] → k < 576 →
      StkSound s src.toNat dst.toNat len.toNat keys.toNat →
      ((s.me.chan c).full 1 = false → r.releaseReady k 4 8 = false → Completes (.stkcpy o) s fun t => HeldFor .lookahead r t) ∧
      ((s.me.chan c).full 1 = false → r.releaseReady k 4 8 = true →
        Completes (.stkcpy o) s fun t => (∃ j ∈ t.home.eng.stk, j.chan = c ∧ j.id = nextId s c ∧ j.src = src.toNat ∧ j.dst = dst.toNat ∧
            j.len = len.toNat ∧ j.skey = keys.toNat % 512 ∧ j.dkey = keys.toNat / 512) ∧
          (∀ j ∈ r.home.eng.stk, ∃ i ∈ t.home.eng.stk, i.chan = j.chan ∧ i.id = j.id) ∧ (t.me.chan c).next = nextId s c ∧
          ∃ l ∈ t.me.inflight, l.dest = o.dest.toNat ∧ (e.2, [word64 (nextId s c)]) ∈ l.vals) ∧
      ((s.me.chan c).full 1 = true → Completes (.stkcpy o) s fun t => HeldFor .xferWait s t))

/-- R262, R255, R183 and R393: TRET answers a trap or a page fault of a thread of the core. An allowed answer has its effect and gives
status 0; an answer that the trap does not take gives 2, and one for a thread that waits for none gives 1. -/
def Obligations.TrapAnswers : Prop :=
  ∀ (s : State) (o : Op) (r : Instr × Nat) (x th : Nat), r ∈ answers o → TretSound s o x th r.2 →
    let k := s.cur.1
    (∀ h, Trapped s x th h →
      (s.modeOk k h r.2 = true → Completes r.1 s fun t => Status (s.answerTrap k x th h r.2) t o 0) ∧
      (s.modeOk k h r.2 = false → Completes r.1 s fun t => Status s t o 2)) ∧
    (∀ f, Faulted s x th f →
      (f.walking = false → f.failed = false → 2 ≤ r.2 → Completes r.1 s fun t => Status (s.answerFault k x th f r.2) t o 0) ∧
      (f.walking = false → f.failed = false → r.2 < 2 → Completes r.1 s fun t => Status s t o 2) ∧
      (f.walking = true ∨ f.failed = true → Completes r.1 s fun t => Status s t o 1)) ∧
    ((s.ctx k x).state = .empty → s.streams k x th = [] → s.savedTrap k x th = none → Completes r.1 s fun t => Status s t o 1)

/-- R262 and R257: RETRY sends the thread back to the bundle of its precise trap, with its pending branch; CONTINUE of a precise trap
passes over the trapped instruction, and of a late trap, of a thread that the trap took out of no park, writes zero in the op's
destination and goes on at the stop point; REPLAY repeats the walk of a page fault; FAIL of the only fault of a context ends it with a
late ACCESS_VIOLATION, its instruction performed in no lane; END_THREAD and END_LAUNCH end the thread and the launch. That a late trap's
answer passes SPILLs by is the model's (DEDUCED, log 15). -/
def Obligations.TrapReturns : Prop :=
  ∀ (s : State) (o : Op) (x th : Nat),
    let k := s.cur.1
    let c (t : State) := t.ctx k x
    (s.ctx k x).bins.Pairwise (fun a b => a.1 < b.1) → (s.ctx k x).threads.Pairwise (fun a b => a.1 < b.1) →
    (∀ h, Trapped s x th h → h.late = false → TretSound s o x th 0 →
      Completes (.retry o) s fun t => Filed (c t) h.stop th ∧ ((c t).thread th).trap = none ∧ ((c t).thread th).regs = ((c s).thread th).regs ∧
        ((c t).thread th).skip = ((c s).thread th).skip) ∧
    (∀ h, Trapped s x th h → s.modeOk k h 1 = true → TretSound s o x th 1 → h.late = false ∨ h.was = .bin →
      let past := (h.at_, h.point.getD (s.point k h.at_))
      Completes (.cont o) s fun t => Filed (c t) h.stop th ∧ ((c t).thread th).trap = none ∧
        (h.late = false → ((c t).thread th).skip = some past ∧ ((c t).thread th).regs = ((c s).thread th).regs) ∧
        (h.late = true → ((c t).thread th).regs = (((c s).thread th).zeroDest h.dest).regs ∧
          (h.unissued = true → ((c t).thread th).skip = some past))) ∧
    (∀ f, Faulted s x th f → f.walking = false → f.failed = false → TretSound s o x th 2 →
      Completes (.replay o) s fun t => ((c t).thread th).fault = some { f with walking := true } ∧
        ∃ at_, s.now < at_ ∧ (at_, Instr.pageWalkComplete k x th) ∈ t.agenda) ∧
    (∀ f, Faulted s x th f → f.walking = false → f.failed = false → f.precise = false → TretSound s o x th 3 →
        (∀ u, u ≠ th → ((c s).thread u).fault = none) →
      Completes (.fail o) s fun t => ((c t).thread th).fault = none ∧ ((c t).thread th).place = .trap ∧
        ∃ h, ((c t).thread th).trap = some h ∧ h.trap = ⟨.accessViolation, f.seg, f.addr⟩ ∧ h.late = true ∧ h.unissued = true) ∧
    (∀ h, Trapped s x th h → TretSound s o x th 4 →
      Completes (.endThread o) s fun t => Status (s.endByAnswer k x th) t o 0) ∧
    (∀ h, Trapped s x th h → TretSound s o x th 5 →
      Completes (.endLaunch o) s fun t => Status (s.endLaunchOf k x) t o 0)

/-! ### The device: resets, partitions, objects -/

namespace Sys2Proof.Claims

/-- Every memory, register and unit of the device reads as R21 leaves it, and the wipe runs. -/
structure Blank (t : State) : Prop where
  phase : t.phase = .wiping
  bytes : ∀ pa, t.phys.raw pa = 0
  cores : ∀ k, t.core k = {}
  clusters : ∀ c, t.cluster c = {}
  keys : ∀ i, t.keyOf i = 0
  rest : t.parts = [] ∧ t.objs = [] ∧ t.launches = [] ∧ t.cohorts = [] ∧ t.fes = [] ∧ t.agenda = [] ∧ t.turn = []

/-- The replies that firmware has given end with one more. -/
def Replied (s t : State) (ok : Bool) : Prop := t = s.reply ok

/-- The contexts that a swap pre-empts. -/
def onClusters (s : State) (cs : List Nat) : List (Nat × Nat) :=
  s.cores.flatMap fun c => if cs.contains (clusterOf c.1) then
    (c.2.ctxs.filter fun x => x.1 < 4 && x.2.state == .active && x.2.wg.isSome).map fun x => (c.1, x.1) else []

/-- The pillars of a partition that are present. -/
def pillarsOf (s : State) (p : Partition) : List Nat :=
  p.clusters.flatMap fun c => ((List.range 12).map (12 * c + ·)).filter s.present

end Sys2Proof.Claims

/-- R15, R21-R23, R282 and R285: a reset leaves every on-die memory and every pillar byte zero and starts the wipe; fuses, the life-cycle
state and the identity key stay. The wipe takes at most 15 ms, commits a pending life-cycle change, and the boot ROM then runs a signed
image or reports a failure. Until it ends, configuration requests get Retry Status. Power lost during the wipe gives up the change, and so
does another reset (DESIGN CHOICE, log 83). A thermal stop ends all work until a reset: nothing else that is due has an effect. The cause
numbers of reports are the model's (DEDUCED, log 57). -/
def Obligations.ResetAndWipe : Prop :=
  ∀ (s : State),
    (∀ kind, Completes (.deviceReset kind) s fun t => Blank t ∧ t.fuses = s.fuses ∧ t.life = s.life ∧ t.identity = s.identity ∧ t.lifePending = none) ∧
    (s.phase = .wiping → s.configReply = .retryStatus) ∧
    (s.phase = .wiping → Completes .wipeComplete s fun t =>
      s.now < t.now ∧ t.now ≤ s.now + tickTime 15000000 ∧ t.life = s.lifePending.getD s.life ∧ t.lifePending = none ∧ t.boots = s.boots + 1 ∧
        (s.lifePending = some .provisioned → t.identity = true) ∧ (s.lifePending = some .returned → t.identity = false) ∧
        (s.lifePending = none → t.identity = s.identity) ∧ t.phys = s.phys ∧ t.cores = s.cores ∧
        (if Config.bootImageOk s.boots then t.phase = .running ∧ t.host = s.host
          else t.phase = .bootFailed ∧ t.host.aer = s.host.aer ++ [aerBoot])) ∧
    (s.phase = .wiping → Completes .powerLossDuringWipe s fun t => Blank t ∧ t.life = s.life ∧ t.lifePending = none) ∧
    (s.phase ≠ .wiping → Completes .powerLossDuringWipe s fun t => t = s) ∧
    ∀ die, (die < 4 → Completes (.thermalStop die) s fun t => t.phase = .thermalStop ∧ t.agenda = (s.agenda.filter fun e => resets e.2) ∧ t.turn = [] ∧
        t.host.aer = s.host.aer ++ [aerThermal] ∧ t.phys = s.phys ∧ t.cores = s.cores) ∧
      (s.phase = .thermalStop → ∀ when_ i r, s.agenda = (when_, i) :: r → resets i = false →
        step s = .next { s with agenda := r, now := Nat.max s.now when_ }) ∧
      (s.phase = .thermalStop → s.agenda = [] → step s = .next { s with now := (s.now / cycleLen + 1) * cycleLen, joined := [] }) ∧
      (4 ≤ die → exec (.thermalStop die) s = .fault .absentUnit)

/-- R23, R283, R285 and R14: the life cycle only moves forward, through a wipe; a key slot takes its key; a report carries the nonce,
the state, the firmware and the partitions under one signed hash, and of a RETURNED device the state only. -/
def Sys2Proof.Claims.LifeCycleAndKeys : Prop :=
  ∀ (s : State), s.phase = .running →
    (∀ next, lifeOrder s.life < lifeOrder next → Completes (.lifeCycleChange next) s fun t =>
      Blank t ∧ t.life = s.life ∧ t.lifePending = some next ∧ t.host.replies = s.host.replies ++ [true]) ∧
    (∀ next, lifeOrder next ≤ lifeOrder s.life → Completes (.lifeCycleChange next) s fun t => Replied s t false) ∧
    (∀ slot key, slot < 512 → Completes (.keySlotLoad slot key) s fun t =>
      t.keyOf slot = key.toNat ∧ (∀ i, i ≠ slot → t.keyOf i = s.keyOf i) ∧ t.phys = s.phys ∧ t.cores = s.cores) ∧
    (∀ slot key, 512 ≤ slot → exec (.keySlotLoad slot key) s = .fault .absentUnit) ∧
    ∀ nonce, nonce.length = 32 →
      (s.life = .returned → Completes (.attestationRequest nonce) s fun t => t.host.mailbox = s.host.mailbox ++ [[3]]) ∧
      (s.life ≠ .returned → Completes (.attestationRequest nonce) s fun t => ∃ body,
        t.host.mailbox = s.host.mailbox ++ [body ++ [Config.shake256 body] ++ if s.identity then [Config.reportSignature (Config.shake256 body)] else []] ∧
          (nonce.map (·.toNat) ++ [lifeOrder s.life]).isPrefixOf body = true ∧
          (∀ o ∈ s.objs, o.2.fw = true → Config.shake256 (o.2.words.map (·.toNat)) ∈ body) ∧
          ∀ p ∈ s.parts, ∃ a b, body = a ++ [p.1, p.2.nbv, p.2.spare, p.2.grant.toNat] ++ b)

/-- R12, R21, R154, R268 and R284: a creation request that firmware accepts makes the partition, swapped out when it names clusters in
use. A partition reset leaves its cores as a reset does and its pillars zero, its objects but firmware's and its launches are gone, and
its queues are DISABLED; other cores and pillars do not change. A swap pre-empts what runs, and makes the change when all is saved. That a
request over clusters in use is made swapped out is the model's (DEDUCED, log 72). That a reset of a swapped-out partition wipes the cores it shares is
the model's (DESIGN CHOICE, log 83). -/
def Obligations.Partitions : Prop :=
  ∀ (s : State),
    (∀ req, s.phase = .running → s.partReqOk req = true → Completes (.partitionCreate req) s fun t =>
      (∃ p, tget t.parts req.id = some p ∧ p.clusters = req.clusters ∧ p.spare = req.spare ∧ p.nbv = req.nbv ∧ p.grant = req.grant ∧
        p.roots = req.roots ∧ p.lease = 256 ∧ (p.swapped = true ↔ ∃ c ∈ req.clusters, (s.partOfCluster c).isSome = true)) ∧
      (∀ i, i ≠ req.id → tget t.parts i = tget s.parts i) ∧ t.host.replies = s.host.replies ++ [true]) ∧
    (∀ req, s.phase = .running → s.partReqOk req = false → Completes (.partitionCreate req) s fun t => Replied s t false) ∧
    (∀ part p, s.phase = .running → tget s.parts part = some p → Completes (.partitionReset part) s fun t =>
      (∀ k, clusterOf k ∈ p.clusters → t.core k = (s.core k).wiped ∧ t.cluster (clusterOf k) = {} ∧
        ∀ pa, pa < pillarEnd → pa / 2 ^ 30 = k → t.phys.raw pa = 0) ∧
      (∀ k, clusterOf k ∉ p.clusters → t.core k = s.core k) ∧
      (∀ pa, (pillarEnd ≤ pa ∨ clusterOf (pa / 2 ^ 30) ∉ p.clusters) → t.phys.raw pa = s.phys.raw pa) ∧
      (∃ q, tget t.parts part = some q ∧ q.clusters = p.clusters ∧ q.roots = p.roots ∧ q.lease = 256 ∧ q.logCtl = 0 ∧ q.trapCtl = 0 ∧ q.seq = 0) ∧
      (∀ o, o ∈ t.objs ↔ o ∈ s.objs ∧ (o.2.part ≠ part ∨ o.2.fw = true)) ∧
      (∀ l ∈ t.launches, l.2.part ≠ part) ∧ (∀ q ∈ s.queuesOf p, (t.queue q.1 q.2).state = .disabled) ∧
      ∀ c ∈ s.cores, clusterOf c.1 ∈ p.clusters → c.2.sel.fwEntry.isSome = true → (c.2.ctx 4).state = .active →
        (s.now, Instr.firmwareRestart c.1) ∈ t.agenda) ∧
    ∀ a b p q, tget s.parts a = some p → tget s.parts b = some q → p.swapped = false → q.swapped = true →
      q.clusters.all p.clusters.contains = true → p.clusters.all q.clusters.contains = true →
      let s1 := (s.queuesOf p).foldl (fun s q => s.suspendQueue q.1 q.2) s
      let r := s1.preempt (onClusters s1 p.clusters)
      (r.1 = false → Completes (.partitionSwap a b) s fun t => t = r.2.schedule (r.2.after 1) (.partitionSwap a b)) ∧
      (r.1 = true → Completes (.partitionSwap a b) s fun t =>
        (tget t.parts a).map (·.swapped) = some true ∧ (tget t.parts b).map (·.swapped) = some false)

/-- R273 and R274: a checkpoint copies each pillar's user data into its LOCAL half, and sends the BUDDY half's bytes, head, data and tail
in that order; a lost device or die is recorded, and the launches with a workgroup on a lost die end. -/
def Sys2Proof.Claims.CheckpointsAndDies : Prop :=
  ∀ (s : State),
    (∀ part p gen, tget s.parts part = some p → 1 ≤ p.spare → p.spare ≤ 2 → gen % 2 ^ 64 ≠ 0 →
      let half := spareSize p.spare / 2
      let key := s.keyOf p.keySlot
      let u := (pillarsOf s p).foldl (fun s k => s.localCopy k half gen key) s
      let sent (dev k off n : Nat) : Nat × List Nat := (dev, (k * 2 ^ 30 + sysBase - half + off) ::
        (List.range n).map fun i => (u.phys.dramByte (some key) (k * 2 ^ 30 + sysBase - 2 * half + off + i)).toNat)
      Completes (.checkpoint part gen) s fun t => t.phys = u.phys ∧ ∃ done dev, t.host.replies = s.host.replies ++ [done] ∧
        (done = true → t.fabric.tx = s.fabric.tx ++ (pillarsOf s p).flatMap fun k =>
          [sent dev k 0 8, sent dev k 8 (half - 16), sent dev k (half - 8) 8]) ∧
        (done = false → t.fabric.tx = s.fabric.tx)) ∧
    (∀ part p gen, tget s.parts part = some p → (p.spare = 0 ∨ gen % 2 ^ 64 = 0) →
      Completes (.checkpoint part gen) s fun t => Replied s t false) ∧
    (∀ n, n < 512 → Completes (.dieLoss (.device n)) s fun t => (∀ m, m ∈ t.fabric.lostDevices ↔ m = n ∨ m ∈ s.fabric.lostDevices) ∧
      t.fabric.lostDies = s.fabric.lostDies ∧ t.cores = s.cores ∧ t.phys = s.phys) ∧
    (∀ n, 512 ≤ n → exec (.dieLoss (.device n)) s = .fault .absentUnit) ∧
    (∀ d, 4 ≤ d → exec (.dieLoss (.die d)) s = .fault .absentUnit) ∧
    (∀ d, d < 4 → (∀ h ∈ s.cohorts, ∀ k ∈ h.2.place, dieOf k ≠ d) → (s.fe d).queues = [] → Completes (.dieLoss (.die d)) s fun t =>
      d ∈ t.fabric.lostDies ∧ (t.fe d).lost = true ∧ t.host.aer = s.host.aer ++ [aerDie] ∧
        (∀ k, dieOf k = d → t.core k = {}) ∧ (∀ k, dieOf k ≠ d → t.core k = s.core k) ∧
        (∀ p ∈ t.parts, ∀ c ∈ p.2.clusters, dieOf (12 * c) ≠ d) ∧ ∀ i, i ≠ d → t.fe i = s.fe i) ∧
    ∀ d, d < 4 →
      let gone : State := { s with
        fabric := { s.fabric with lostDies := nodup (s.fabric.lostDies ++ [d]) }
        parts := s.parts.map fun p => (p.1, { p.2 with clusters := p.2.clusters.filter fun c => !(dieOf (12 * c) == d) }) }
      let hit := (nodup ((s.cohorts.filter fun h => h.2.place.any fun k => dieOf k == d).map (·.2.launch))).filter fun n =>
        (tget s.launches n).isSome
      let ended := hit.foldl (fun s n => s.endLost n) (gone.aer aerDie)
      let left : State := { ended with
        cores := ended.cores.filter fun c => !(dieOf c.1 == d)
        turn := ended.turn.filter fun a => match a with
          | .core k | .firmware k => !(dieOf k == d)
          | .frontEnd e => e != d }
      Completes (.dieLoss (.die d)) s fun t =>
        t = ((((left.fe d).queues.map (·.1)).foldl (fun s q => s.abortQueue d q (-4)) left).modFe d fun e => { e with lost := true })

/-- R135 and R254: when a soft error's time has come, the element of its thread or the line of its pillar bears the mark, and no other
element, register or byte changes. That it comes from a list of errors to come is the model's (DESIGN CHOICE, log 87). -/
def Sys2Proof.Claims.SoftErrors : Prop :=
  ∀ (s : State),
    (∀ k x t n u, n < 255 → tget (s.ctx k x).threads t = some u →
      let r := s.strike (.element k x t n)
      (∀ m, m ∈ ((r.ctx k x).thread t).poisoned ↔ m = n ∨ m ∈ u.poisoned) ∧ ((r.ctx k x).thread t).regs = u.regs ∧
        (∀ h, h ≠ t → (r.ctx k x).thread h = (s.ctx k x).thread h) ∧ (∀ j, j ≠ k → r.core j = s.core j) ∧ r.phys = s.phys) ∧
    (∀ l k, regionOf (128 * l) = .pillar k → s.presentPillar k = true →
      let r := s.strike (.line l)
      r.uncorrectable (128 * l) = true ∧ (∀ m, m ∈ r.phys.poison ↔ m = l ∨ m ∈ s.phys.poison) ∧ r.phys.dram = s.phys.dram ∧
        r.phys.overlay = s.phys.overlay ∧ r.cores = s.cores) ∧
    ∀ a e, s.phase = .running → s.agenda = [] → s.agents = [] → s.turn = [] → s.softErrors = [(a, e)] →
      let c := (s.now / cycleLen + 1) * cycleLen
      (a ≤ c → ∃ t, Sys2Proof.Machine.step s = .next t ∧ t.now = c ∧ t.softErrors = [] ∧
        t.phys = (s.strike e).phys ∧ t.cores = (s.strike e).cores) ∧
      (c < a → ∃ t, Sys2Proof.Machine.step s = .next t ∧ t.now = c ∧ t.softErrors = s.softErrors ∧ t.phys = s.phys ∧ t.cores = s.cores)

/-- Checkpoints, lost devices and dies, and soft errors. Whether the buddy takes its copy is a free value (DESIGN CHOICE, log 25). -/
def Obligations.CheckpointsAndLosses : Prop := CheckpointsAndDies ∧ SoftErrors

/-- R84, R85 and R178: an object that passes the verifier becomes executable under the next identifier, and one that does not gives the
offset of its failing word; its words are given, or fetched from memory. An object is unloaded unless a launch names it. -/
def Sys2Proof.Claims.Objects : Prop :=
  ∀ (s : State), s.phase = .running →
    (∀ part words, s.imageWords part (.words words) = (.ok words, s)) ∧
    (∀ part image p words u, tget s.parts part = some p → s.imageWords part image = (.ok words, u) →
      (∀ o, verify part words = .ok o → Completes (.loadObject part image) s fun t => tget t.objs s.nextObj = some o ∧
        o.words = words ∧ o.part = part ∧ (∀ i, i ≠ s.nextObj → tget t.objs i = tget u.objs i) ∧ t.nextObj = s.nextObj + 1 ∧
        t.host.loads = u.host.loads ++ [⟨true, s.nextObj⟩]) ∧
      (∀ off, verify part words = .error off → Completes (.loadObject part image) s fun t => t.objs = u.objs ∧
        t.host.loads = u.host.loads ++ [⟨false, off⟩])) ∧
    (∀ part image p off u, tget s.parts part = some p → s.imageWords part image = (.error off, u) →
      Completes (.loadObject part image) s fun t => t.objs = u.objs ∧ t.host.loads = u.host.loads ++ [⟨false, off⟩]) ∧
    (∀ part words, tget s.parts part = none → Completes (.loadObject part (.words words)) s fun t => Replied s t false) ∧
    (∀ obj o, tget s.objs obj = some o → (∀ l ∈ s.launches, l.2.obj ≠ obj) → Completes (.unloadObject obj) s fun t =>
      tget t.objs obj = none ∧ (∀ i, i ≠ obj → tget t.objs i = tget s.objs i) ∧ t.host.replies = s.host.replies ++ [true]) ∧
    ∀ obj, (tget s.objs obj = none ∨ ∃ l ∈ s.launches, l.2.obj = obj) → Completes (.unloadObject obj) s fun t => Replied s t false

/-- Requests that firmware takes from the host. The offset at which an image in memory fails is the model's (DESIGN CHOICE, log 82), and
so is that a life-cycle change may pass over a state (DESIGN CHOICE, log 83). -/
def Obligations.ObjectsAndKeys : Prop := Objects ∧ LifeCycleAndKeys

/-! ### Contexts: bins, results, claims, pre-emption -/

namespace Sys2Proof.Claims

/-- The threads that a draw takes from a bin (R33). -/
def drawn (b : Bin) : List Nat := if b.state == .full then b.threads.take 32 else b.threads

/-- Only one context of one core differs. -/
def OnlyCtx (s t : State) (k x : Nat) : Prop := ∃ f, t = s.modCtx k x f

/-- The landing of results that raise nothing (R57, R129, R146): the words enter, copy entries claimed for them and not used are free
again, and FLAGS takes the exceptions. -/
def landed (s : State) (k x : Nat) : State :=
  let due := ((s.ctx k x).inflight.filter fun l => l.ready s.now).map fun l => { l with due := s.now }
  let flags := (due.foldl (fun f l => f ||| l.flags) 0) % 32
  s.modCtx k x fun c =>
    let c1 := (Ctx.enter { c with inflight := c.inflight.filter fun l => !l.ready s.now } due).settleCopies
    { c1 with regs := { c1.regs with fpctl := c1.regs.fpctl ||| word64 (flags * 2 ^ 9) } }

/-- A context that hosts a workgroup in a cohort and runs. -/
def Hosts (s : State) (k x : Nat) (w : Wg) : Prop := x < 4 ∧ (s.ctx k x).wg = some w ∧ (s.ctx k x).state = .active

end Sys2Proof.Claims

/-- R31-R33, R38-R40: a PARTIAL bin of the age BINAGE is AGED; a draw takes at most 32 threads of a bin, at its PC and with its pending
branch; a context that has held issue for 4,096 cycles yields; one unserved for 65,536 counts as priority 0; and the
firmware slot takes CTL after 64 cycles of waiting. -/
def Obligations.BinsAndSelector : Prop :=
  ∀ (s : State) (k x : Nat),
    (∀ b bin, tget (s.ctx k x).bins b = some bin → bin.state = .part → bin.since + cycleLen * (s.ctx k x).regs.binage ≤ s.now →
      Completes (.binAged k x b) s fun t => OnlyCtx s t k x ∧ tget (t.ctx k x).bins b = some { bin with state := .aged } ∧
        (∀ j, j ≠ b → tget (t.ctx k x).bins j = tget (s.ctx k x).bins j) ∧ (t.ctx k x).threads = (s.ctx k x).threads) ∧
    (∀ b bin, tget (s.ctx k x).bins b = some bin → (bin.state ≠ .part ∨ s.now < bin.since + cycleLen * (s.ctx k x).regs.binage) →
      Completes (.binAged k x b) s fun t => t = s) ∧
    (∀ b bin, (s.ctx k x).group = none → s.drawBin k x = some (b, bin) →
        (∀ e ∈ (s.ctx k x).overflow, e.2 ∉ drawn bin) → Completes (.draw k x) s fun t => OnlyCtx s t k x ∧
      (∃ g, (t.ctx k x).group = some g ∧ g.threads = drawn bin ∧ (∀ n, n < (drawn bin).length → tget g.lanes n = (drawn bin)[n]?) ∧
        g.pc = bin.key.pc ∧ (∀ th ∈ drawn bin, g.pendOf th = bin.key.pend)) ∧
      (∀ th ∈ drawn bin, ((t.ctx k x).thread th).place = .group ∧ ((t.ctx k x).thread th).regs = ((s.ctx k x).thread th).regs) ∧
      (t.ctx k x).latches = []) ∧
    (∀ h, (s.core k).sel.holder = some h → 4096 ≤ (s.core k).sel.held → Completes (.quantumExpiry k) s fun t =>
      (t.ctx k h).yields = true ∧ (t.core k).sel.held = 0 ∧ (t.core k).sel.holder = some h) ∧
    (∀ h, (s.core k).sel.holder = some h → (s.core k).sel.held < 4096 → Completes (.quantumExpiry k) s fun t => t = s) ∧
    (65536 ≤ tgetD (s.core k).sel.unserved x 0 → Completes (.priorityBoost k x) s fun t =>
      (∀ y, y ∈ (t.core k).sel.boosted ↔ y = x ∨ y ∈ (s.core k).sel.boosted) ∧ (t.core k).ctxs = (s.core k).ctxs) ∧
    (tgetD (s.core k).sel.unserved x 0 < 65536 → Completes (.priorityBoost k x) s fun t => t = s) ∧
    (64 ≤ (s.core k).sel.fwWait → Completes (.firmwareCtlSteal k) s fun t => (t.core k).sel.fwSteal = true ∧ (t.core k).ctxs = (s.core k).ctxs) ∧
    ((s.core k).sel.fwWait < 64 → Completes (.firmwareCtlSteal k) s fun t => t = s)

/-- R129, R146 and R148: results that are due enter their destinations, a guard-false thread takes zero, and no other register changes;
one with an enabled exception is not written, and each thread of its ACTIVE takes a late FP_EXCEPTION. That the enables are those at
landing is the model's (DEDUCED, log 19). -/
def Obligations.ResultsLand : Prop :=
  ∀ (s : State) (k x : Nat),
    let c := s.ctx k x
    c.late = [] → c.spec = none → (c.group.bind (·.delay)).isSome = false →
    ((∀ l ∈ c.inflight, l.ready s.now = true → l.exc = [] ∧ l.traps = []) → Completes (.resultLanding k x) s fun t => t = landed s k x) ∧
    (∀ l, (c.inflight.filter fun l => l.ready s.now) = [l] → l.exc = [] → l.traps = [] → l.kind = .reg → isReg l.dest = true →
        (l.vals.map (·.1)).Nodup → (∀ v ∈ l.vals, v.2.length = l.width ∧ v.1 ∉ l.zeros) →
      Completes (.resultLanding k x) s fun t => (t.ctx k x).inflight = c.inflight.filter (fun l => !l.ready s.now) ∧
        (∀ v ∈ l.vals, ∀ i, i < l.width → tgetD ((t.ctx k x).thread v.1).regs (l.dest + i) 0 = (v.2[i]?).getD 0) ∧
        (∀ th ∈ l.zeros, ∀ i, i < l.width → tgetD ((t.ctx k x).thread th).regs (l.dest + i) 0 = 0) ∧
        (∀ th r, (r < l.dest ∨ l.dest + l.width ≤ r ∨ (th ∉ l.zeros ∧ ∀ v ∈ l.vals, v.1 ≠ th)) →
          tgetD ((t.ctx k x).thread th).regs r 0 = tgetD (c.thread th).regs r 0) ∧
        (t.ctx k x).regs.fpctl = c.regs.fpctl ||| word64 (l.flags % 32 * 2 ^ 9) ∧ t.phys = s.phys) ∧
    ∀ l, (c.inflight.filter fun l => l.ready s.now) = [l] → l.traps = [] → l.enabled c.regs.fpctl = true → (l.exc.map (·.1)).Nodup →
        x < 4 → (∀ e ∈ l.exc, e.1 ∈ c.live ∧ (c.thread e.1).trap = none) →
      Completes (.resultLanding k x) s fun t =>
        (∀ th, ((t.ctx k x).thread th).regs = (c.thread th).regs ∧ ((t.ctx k x).thread th).qs = (c.thread th).qs) ∧
        (t.ctx k x).regs.fpctl = c.regs.fpctl ∧
        ∀ e ∈ l.exc, ((t.ctx k x).thread e.1).place = .trap ∧ ∃ h, ((t.ctx k x).thread e.1).trap = some h ∧
          h.trap = ⟨.fpException, e.2 % 32, 0⟩ ∧ h.late = true ∧ h.at_ = l.at_ ∧ h.stop = c.posOf e.1 ∧ h.dest = some l.destOf

/-- R62, R170 and R337: copies, fills and fences end. -/
def Sys2Proof.Claims.WaitsEnd : Prop :=
  ∀ (s : State) (k x : Nat),
    ((s.ctx k x).mem.tready ≤ s.now → Completes (.granuleCopyComplete k x) s fun t => OnlyCtx s t k x ∧ (t.ctx k x).mem.tready = 0 ∧
      (t.ctx k x).threads = (s.ctx k x).threads) ∧
    (s.now < (s.ctx k x).mem.tready → Completes (.granuleCopyComplete k x) s fun t => (t.ctx k x).mem.tready = (s.ctx k x).mem.tready) ∧
    (∀ g u m, tget (s.ctx k x).mem.granules g = some (.filling u m) → u ≤ s.now → s.fillDeferred k x g = false → Completes (.stashFillComplete k x g) s fun t =>
      OnlyCtx s t k x ∧ tget (t.ctx k x).mem.granules g = some (if m = 0 then .clean else .dirty m) ∧
        (∀ j, j ≠ g → tget (t.ctx k x).mem.granules j = tget (s.ctx k x).mem.granules j) ∧
        ∀ l ∈ (s.ctx k x).inflight, l.fills = [g] → ∃ m ∈ (t.ctx k x).inflight, m.fills = [] ∧ m.vals = l.vals ∧ s.now + cycleLen * 14 ≤ m.due) ∧
    (∀ g u m, tget (s.ctx k x).mem.granules g = some (.filling u m) → u ≤ s.now → s.fillDeferred k x g = true →
      Completes (.stashFillComplete k x g) s fun t => t = s.schedule (tickTime (s.gtc + 1)) (.stashFillComplete k x g)) ∧
    (∀ f, (s.ctx k x).fence = some f → s.fenceReady k x f = true → Completes (.fenceComplete k x) s fun t =>
      (t.ctx k x).fence = none ∧ (t.ctx k x).threads = (s.ctx k x).threads ∧ (t.ctx k x).group = (s.ctx k x).group ∧
        (f.order ≠ 0 → (t.ctx k x).frontier = []) ∧ ((f.order = 0 ∨ f.scope < 8) → t.phys = s.phys)) ∧
    ∀ f, (s.ctx k x).fence = some f → s.fenceReady k x f = false → Completes (.fenceComplete k x) s fun t => t = s

/-- R29, R137, R180, R183, R259-R261: the oldest claim that fits takes its registers, and its threads go on; a record enters the trap ring with
the partition's sequence number, and waits while the ring is full; the firmware slot restarts at its recovery entry, which its issue group
first enters, in privileged mode; a repeated walk ends the wait, or faults again with a new record. -/
def Sys2Proof.Claims.ClaimsRecordsWalks : Prop :=
  ∀ (s : State) (k : Nat),
    (∀ c r, (s.core k).claims = c :: r → c.n * c.live ≤ s.poolFree k → c.threads.Nodup → (s.ctx k c.ctx).bins.Pairwise (fun a b => a.1 < b.1) →
      Completes (.regclmGrant k) s fun t => (t.core k).claims = r ∧ (t.core k).taken = (s.core k).taken + c.n * c.live ∧
        ∀ th ∈ c.threads, ((t.ctx k c.ctx).thread th).budget = ((s.ctx k c.ctx).thread th).budget + c.n ∧
          ((t.ctx k c.ctx).thread th).claim = none ∧ ((t.ctx k c.ctx).thread th).regs = ((s.ctx k c.ctx).thread th).regs ∧
          Filed (t.ctx k c.ctx) ((s.ctx k c.ctx).thread th).resume th) ∧
    (∀ c r, (s.core k).claims = c :: r → s.poolFree k < c.n * c.live → Completes (.regclmGrant k) s fun t => t = s) ∧
    (∀ i p r h ctl, s.partOfCore k = some (i, p) → (s.core k).recs = [r] → ringPush p.trapCtl = some (h, ctl) →
      Completes (.trapRecordDelivery k) s fun t => 
        t = ({ s with parts := tset s.parts i { p with trapCtl := ctl, seq := (p.seq + 1) % 2 ^ 16 } }.modCore k fun c => { c with recs := [] }).putWords
          (p.trapBase.toNat + 64 * h) (r.words.zipIdx.map fun (w : Word × Nat) => if w.2 = 1 then w.1 ||| word64 (p.seq % 2 ^ 16) else w.1)) ∧
    (∀ i p, s.partOfCore k = some (i, p) → ringPush p.trapCtl = none → Completes (.trapRecordDelivery k) s fun t => t = s) ∧
    (∀ entry, (s.core k).sel.fwEntry = some entry → Completes (.firmwareRestart k) s fun t =>
      (t.ctx k 4).state = .active ∧ (t.ctx k 4).group = some ⟨[(0, 0)], {}, 0, none, none⟩ ∧ (t.ctx k 4).entry = some (entry, 0) ∧ (t.core k).sel.brmode.getLsbD 0 = true ∧
        ((t.ctx k 4).thread 0).place = .group ∧ ((t.ctx k 4).thread 0).regs = ((s.ctx k 4).thread 0).regs ∧
        ∀ x, x ≠ 4 → t.ctx k x = s.ctx k x) ∧
    ∀ x th f, ((s.ctx k x).thread th).fault = some f → f.walking = true → (s.ctx k x).fence = none →
      let w := s.translate (s.spaceOf k x) f.addr (if f.write then .store else .load)
      (∀ lv, w.1 = .fault lv → Completes (.pageWalkComplete k x th) s fun t =>
        ((t.ctx k x).thread th).fault = some { f with level := lv, walking := false } ∧ ∃ r, (t.core k).recs = (w.2.core k).recs ++ [r] ∧
          r.ctx = x ∧ r.thread = th) ∧
      ((∀ lv, w.1 ≠ .fault lv) → Completes (.pageWalkComplete k x th) s fun t => ((t.ctx k x).thread th).fault = none)

/-- The ends of what threads wait for. The budget of a restarted firmware slot is the model's (DESIGN CHOICE, log 16). Whose fault a write-back is, is
the model's (DEDUCED, log 80). -/
def Obligations.WaitsAndClaims : Prop := WaitsEnd ∧ ClaimsRecordsWalks

/-- R43-R46, R236, R251, R266 and R270-R272: a pre-emption takes a cohort as a whole, once all of it has drained; a SAVED cohort goes on
where its records fit; a launch of priority 0 names the contexts that make room for it; a migration waits for the safe point of every
thread, copies the rows of V, and moves the cohort; threads with an uncorrectable live element or a failed translation trap there. What a
save and a migration keep is the model's (DEDUCED, log 55 and log 56). -/
def Obligations.PreemptionAndMigration : Prop :=
  ∀ (s : State) (k x : Nat) (w : Wg), Hosts s k x w →
    let ms := s.members w.cohort
    let p := s.preempt ms
    (s.present k = false → exec (.preemption k x) s = .fault .absentUnit) ∧
    (s.present k = true →
      (p.1 = false → Completes (.preemption k x) s fun t => t = p.2.schedule (p.2.after 1) (.preemption k x)) ∧
      (p.1 = true → Completes (.preemption k x) s fun t => t.cores = p.2.cores ∧ t.phys = p.2.phys ∧
        ∀ j n, p.2.seatOf k (some w) = .saved j n → ∃ at_, p.2.now < at_ ∧ (at_, Instr.contextResume j n k x) ∈ t.agenda)) ∧
    (∀ toCore, s.present k = true → s.present toCore = true →
      (∀ i q, s.partOfCore k = some (i, q) → clusterOf toCore ∈ q.clusters → (∀ m ∈ ms, s.migrates m.1 m.2 toCore = true) →
        Completes (.migrationRequest k x toCore) s fun t => (∀ m ∈ ms, (t.ctx m.1 m.2).migrate = some (toCore, [])) ∧
          (s.now, Instr.migrationCapture k x) ∈ t.agenda ∧ t.phys = s.phys) ∧
      (∀ i q, s.partOfCore k = some (i, q) → (clusterOf toCore ∉ q.clusters ∨ ∃ m ∈ ms, s.migrates m.1 m.2 toCore = false) →
        Completes (.migrationRequest k x toCore) s fun t => t = s)) ∧
    (∀ toCore, (s.present k = false ∨ s.present toCore = false) → exec (.migrationRequest k x toCore) s = .fault .absentUnit) ∧
    ∀ toCore done h, (s.ctx k x).migrate = some (toCore, done) → tget s.cohorts w.cohort = some h →
      let stopped := ms.foldl (fun s m => s.stopCtx m.1 m.2) s
      let recs := ms.map fun m => (m, (stopped.takeOut m.1 m.2).1)
      let hits := (stopped.tries h [clusterOf toCore] w.logical toCore).filter fun e => 12 * e.1 + (e.2[w.logical]?).getD 0 == toCore
      let found := hits.findSome? fun e => (stopped.recordSeats e.2 e.1 w.logical x (recs.map (·.2)) fun _ _ => true).map fun ss => (e, ss)
      let safe := ms.all fun m => (s.ctx m.1 m.2).live.all fun th => s.atSafePoint m.1 m.2 th
      let clear := ms.all (fun m => stopped.drained m.1 m.2 && (stopped.ctx m.1 m.2).inflight.isEmpty) && stopped.quiet w.cohort
      let again (u : State) : State := u.schedule (u.after 1) (.migrationCapture k x)
      (safe = false → Completes (.migrationCapture k x) s fun t =>
        t = again (ms.foldl (fun s m => s.modCtx m.1 m.2 fun c => { c with stopping := false }) s)) ∧
      (safe = true → (clear = false ∨ found = none) → Completes (.migrationCapture k x) s fun t => t = again stopped) ∧
      ∀ c ps ss, safe = true → clear = true → found = some ((c, ps), ss) →
        let movers := recs.zip ss |>.map fun p => (⟨p.1.1.1, p.1.1.2, p.2.2.1, p.2.2.2⟩ : Mover)
        (done ≠ movers.map (·.toCore) → Completes (.migrationCapture k x) s fun t =>
          t = again (movers.foldl (fun s m => (s.copyRows m.core m.ctx m.toCore).modCtx m.core m.ctx fun c =>
            { c with migrate := some (toCore, movers.map (·.toCore)) }) stopped)) ∧
        ∀ m, movers = [m] → done = [m.toCore] → let v := stopped.carried m
          let u := v.2.captureTraps m v.1
          (v.1.lost = true ∨ v.1.failed ≠ [] → Completes (.migrationCapture k x) s fun t => t = u.giveUp ms) ∧
          (v.1.lost = false → v.1.failed = [] → v.1.waits = true ∨ v.1.poisoned ≠ [] → Completes (.migrationCapture k x) s fun t => t = again u) ∧
          (v.1.lost = false → v.1.failed = [] → v.1.waits = false → v.1.poisoned = [] → Completes (.migrationCapture k x) s fun t =>
            t = u.migrateNow w.cohort h c ps [(m, v.1.vals)])

/-- R46 and R251: a SAVED cohort goes on at a placement whose cores take every record, and while there is none, or a launch of a higher
priority still looks for its place, firmware tries again later; a priority-0 launch that has no placement on any cluster asks for the
pre-emption of its victims. -/
def Obligations.ResumeAndVictims : Prop :=
  ∀ (s : State),
    (∀ core slot toCore toCtx, s.present toCore = false → exec (.contextResume core slot toCore toCtx) s = .fault .absentUnit) ∧
    (∀ core slot toCore toCtx r w i p h, s.present toCore = true → s.record core slot = some r → r.ctx.wg = some w →
      s.partOfCore core = some (i, p) → tget s.cohorts w.cohort = some h → (s.launchOf r.ctx).map (·.part) = some i →
      let recs := s.savedOf w.cohort
      let found := (s.tries h (p.clusters.filter fun c => isWide (12 * c) == isWide core) r.logical toCore).findSome? fun e =>
        (s.recordSeats e.2 e.1 r.logical toCtx (recs.map (·.2.2)) fun r k => r.mayStand k).map fun seats => (e, seats)
      ((s.startsFirst i r.ctx.regs.prio = true ∨ found = none) → Completes (.contextResume core slot toCore toCtx) s fun t =>
        ∃ at_, s.now < at_ ∧ (at_, Instr.contextResume core slot toCore toCtx) ∈ t.agenda ∧ t.cores = s.cores) ∧
      ∀ c ps seats, s.startsFirst i r.ctx.regs.prio = false → found = some ((c, ps), seats) →
        Completes (.contextResume core slot toCore toCtx) s fun t => t = s.resumeAt w.cohort h recs c ps seats) ∧
    ∀ die queue e rest p vs, (s.launches.filter fun e => e.2.die == die && e.2.queue == queue && e.2.prio == 0 && !e.2.ending &&
        s.unclaimed e.2 && s.agenda.any fun a => match a.2 with
          | .workgroupStart ln _ => ln == e.1
          | _ => false) = e :: rest →
      tget s.parts e.2.part = some p → p.swapped = false →
      (∀ c ∈ s.cores, clusterOf c.1 ∈ p.clusters → ∀ x ∈ c.2.ctxs, x.2.stopping = false) →
      (∀ c ∈ p.runs e.2.wgsize, s.placeNext e.2 c = none) →
      (dieOrder die (p.runs e.2.wgsize)).findSome? (s.victims e.2) = some vs →
      Completes (.priorityPreemption die queue) s fun t => (∀ v ∈ vs, (s.now, Instr.preemption v.1 v.2) ∈ t.agenda) ∧ t.cores = s.cores

/-! ### Translations, slices and leases -/

/-- R91, R109, R114-R121, R252 and R362: a request is logged and answered; a translation that fits enters the heap and its stub becomes
PRESENT; of one that fails, or that the heap has no room for, the stub is ABSENT again and every context that waits has the failure to
take; compaction moves no thread; code that arrives is in instruction memory, resident or in the overlay window, and a b register
completes its fetch. Where in the heap a translation lies is the model's (DESIGN CHOICE, log 60). -/
def Obligations.Translations : Prop :=
  ∀ (s : State) (c : Nat) (key : TKey),
    (∀ st k x, s.stub c key = some st → st.state = .translating → Completes (.translateRequest c k x key) s fun t =>
      (∃ at_, s.now < at_ ∧ (at_, Instr.translationComplete c key) ∈ t.agenda) ∧ t.clusters = s.clusters ∧ (∀ j y, t.ctx j y = s.ctx j y) ∧
        ∀ i p, s.partOfCluster c = some (i, p) → let e := (s.requestEvent c key st.asked).1 - 1
          ∃ q, tget t.parts i = some q ∧ tgetD q.trcnt e 0 = (tgetD p.trcnt e 0 + 1) % 2 ^ 48) ∧
    (∀ st w, s.stub c key = some st → st.state = .translating → s.translationOf c key = some (.done w) →
      (s.cluster c).heapUsed + w.heapBytes ≤ s.heapCap c →
      Completes (.translationComplete c key) s fun t => tget (t.cluster c).trans (s.cluster c).nextTr = some w ∧
        (∃ st' pa, t.stub c key = some st' ∧ st'.state = .present (s.cluster c).nextTr pa ∧ st'.waiters = []) ∧
        ∀ n, n ≠ (s.cluster c).nextTr → tget (t.cluster c).trans n = tget (s.cluster c).trans n) ∧
    (∀ st r, s.stub c key = some st → st.state = .translating → s.translationOf c key = some (.failed r) →
      Completes (.translationComplete c key) s fun t => (t.cluster c).trans = (s.cluster c).trans ∧ t.stub c key = none ∧
        ∀ w ∈ st.waiters, (key, r) ∈ (t.ctx w.1 w.2).failed) ∧
    (∀ st w, s.stub c key = some st → st.state = .translating → s.translationOf c key = some (.done w) → s.heapCap c < w.heapBytes →
      Completes (.translationComplete c key) s fun t => t.stub c key = none ∧ ∀ u ∈ st.waiters, (key, 1) ∈ (t.ctx u.1 u.2).failed) ∧
    (c < 48 → Completes (.compaction c) s fun t => (∀ j pc, t.trans j pc = s.trans j pc) ∧ (∀ j y, t.ctx j y = s.ctx j y) ∧
      (∀ key, (t.stub c key).map (·.pins) = (s.stub c key).map (·.pins)) ∧ ∀ i, i ≠ c → t.cluster i = s.cluster i) ∧ (48 ≤ c → exec (.compaction c) s = .fault .absentUnit) ∧
    (∀ k x tr blk, (s.ctx k x).fetching = some (tr, blk) → Completes (.segmentArrival k x) s fun t =>
      (s.fitsResident k tr = true → tr ∈ (t.core k).resident) ∧
      (s.fitsResident k tr = false → (tr, blk) ∈ (t.ctx k x).window ∧ (t.ctx k x).window.length ≤ windowBlocks k) ∧
      (t.ctx k x).threads = (s.ctx k x).threads ∧ (t.ctx k x).group = (s.ctx k x).group) ∧
    ∀ k x b r, tget (s.ctx k x).regs.bregs b = some r → Completes (.pbrFetchComplete k x b) s fun t =>
      tget (t.ctx k x).regs.bregs b = some { r with ready := r.ready || r.readyAt.any fun n => n ≤ s.now } ∧
        ∀ j, j ≠ b → tget (t.ctx k x).regs.bregs j = tget (s.ctx k x).regs.bregs j

/-- R212, R219-R224, R226 and R228: the oldest waiting write of a line is performed once every lease on its bytes has expired, with a new
version, and changes no other byte; a replicated line collapses through its directories; promotions, combined stores, range entries and
renewals: a stale load replays its group, whose younger results are gone. What a replay discards is the model's (DEDUCED, log 20). -/
def Obligations.SlicesAndLeases : Prop :=
  ∀ (s : State) (l : Nat),
    let n := s.line l
    (∀ w r, n.waiting = w :: r → n.collapsing = false → s.writeReady l w ≤ s.gtc → (w.bytes.map (·.1)).Nodup →
      Memory.wf s.phys.dram = true → s.phys.overlay.Pairwise (fun a b => a.1 < b.1) →
      Completes (.homeWritePerform l) s fun t => (∀ b ∈ w.bytes, t.phys.raw b.1 = b.2) ∧
        (∀ a, (∀ b ∈ w.bytes, b.1 ≠ a) → t.phys.byte w.key a = s.phys.byte w.key a) ∧ (t.line l).waiting = r ∧
        (t.line l).version = (if w.bytes = [] then n.version else (n.version + 1) % 2 ^ 32) ∧ (t.line l).performed = s.gtc + 1 ∧
        (∀ k x, (t.ctx k x).inflight = match w.id with
          | some id => (s.ctx k x).inflight.map (·.answer id (cycleUp (s.now + cycleLen)))
          | none => (s.ctx k x).inflight) ∧
        (∀ j, j ≠ l → t.line j = s.line j) ∧ (r ≠ [] → ∃ at_, tickTime (s.gtc + 1) ≤ at_ ∧ (at_, Instr.homeWritePerform l) ∈ t.agenda)) ∧
    (∀ w r, n.waiting = w :: r → n.collapsing = false → s.gtc < s.writeReady l w → Completes (.homeWritePerform l) s fun t =>
      t.phys = s.phys ∧ (tickTime (s.writeReady l w), Instr.homeWritePerform l) ∈ t.agenda) ∧
    (∀ dies, tgetD s.phys.pkgDir l [] = dies → Completes (.collapseRequest l .package) s fun t =>
      (t.line l).collapse = n.collapse ++ dies.map .die ∧
        (dies = [] → ∃ at_, s.now < at_ ∧ (at_, Instr.collapseAnswer l .package) ∈ t.agenda) ∧
        ∀ d ∈ dies, ∃ at_, s.now < at_ ∧ (at_, Instr.collapseRequest l (.die d)) ∈ t.agenda) ∧
    (∀ d, Completes (.collapseRequest l (.die d)) s fun t => (t.line l).collapse = n.collapse ++ (s.clustersOn l d).map .replica ∧
      (s.clustersOn l d = [] → ∃ at_, s.now < at_ ∧ (at_, Instr.collapseAnswer l (.die d)) ∈ t.agenda) ∧
        ∀ c ∈ s.clustersOn l d, ∃ at_, s.now < at_ ∧ (at_, Instr.collapseRequest l (.replica c)) ∈ t.agenda) ∧
    (∀ c r, s.replicaOf l c = some r →
      (r.expiry ≤ s.gtc → Completes (.collapseRequest l (.replica c)) s fun t => t.replicaOf l c = none ∧
        ∃ at_, s.now < at_ ∧ (at_, Instr.collapseAnswer l (.replica c)) ∈ t.agenda) ∧
      (s.gtc < r.expiry → Completes (.collapseRequest l (.replica c)) s fun t => t.replicaOf l c = some { r with pending := true } ∧
        (tickTime r.expiry, Instr.collapseRequest l (.replica c)) ∈ t.agenda)) ∧
    (Completes (.collapseAnswer l .package) s fun t => (t.line l).collapsing = false ∧ (t.line l).waiting = n.waiting ∧
      (n.waiting ≠ [] → ∃ at_, tickTime (s.gtc + 1) ≤ at_ ∧ (at_, Instr.homeWritePerform l) ∈ t.agenda)) ∧
    (∀ d, n.collapse = [.die d] → Completes (.collapseAnswer l (.die d)) s fun t => t.replicated l = false ∧ (∀ c, t.replicaOf l c = none) ∧
      (t.line l).collapse = [] ∧ ∃ at_, s.now < at_ ∧ (at_, Instr.collapseAnswer l .package) ∈ t.agenda) ∧
    (∀ c, n.collapse = [.replica c] → s.phys.dieDir.Pairwise (fun a b => a.1 < b.1) → Completes (.collapseAnswer l (.replica c)) s fun t => t.clustersOn l (dieOfCluster c) = [] ∧
      (t.line l).collapse = [] ∧ ∃ at_, s.now < at_ ∧ (at_, Instr.collapseAnswer l (.die (dieOfCluster c))) ∈ t.agenda) ∧
    (∀ k x f, (s.ctx k x).fence = some f → (n.writer = none ∨ ∃ w, n.writer = some w ∧ (s.ctx w.1 w.2).state ≠ .active) →
      Completes (.promotionRequest k x l) s fun t => (t.ctx k x).fence = some { f with prom := f.prom.filter (· != l) } ∧ t.phys = s.phys) ∧
    (∀ k x w, n.writer = some w → (s.ctx w.1 w.2).state = .active → let r := s.releaseStart w.1 w.2 0 7
      (r.releaseReady w.1 w.2 7 = false → Completes (.promotionRequest k x l) s fun t =>
        t = r.schedule (tickTime (r.gtc + 1)) (.promotionRequest k x l)) ∧
      (r.releaseReady w.1 w.2 7 = true → Completes (.promotionRequest k x l) s fun t =>
        t = r.modCtx k x fun c => { c with fence := c.fence.map fun f => { f with prom := f.prom.filter (· != l) } })) ∧
    (∀ c e, s.wcbEntry c l = some e →
      (e.since + 64 ≤ s.gtc → Completes (.wcbSend c l) s fun t => t.wcbEntry c l = none ∧
        t = (s.modCluster c fun cl => { cl with wcb := tdel cl.wcb l }).homeArrive l { bytes := e.bytes, key := e.key, owners := e.owners }) ∧
      (s.gtc < e.since + 64 → Completes (.wcbSend c l) s fun t => t = s)) ∧
    (∀ slice i, Completes (.rangeEntryExpiry slice i) s fun t =>
      ∀ r, r ∈ t.phys.ranges ↔ r ∈ s.phys.ranges ∧ (r.slice ≠ slice ∨ s.gtc < r.expiry)) ∧
    ∀ k x e, tget (s.core k).l1 l = some e →
      let range := ((((s.ctx k x).spec.map (·.loads)).getD []).find? fun d => d.line == l && d.answer.isNone).bind (·.range)
      let g := s.grantAgain k l range
      (g.2.1 ≠ 0 → Completes (.renewalAnswer k x l) s fun t => tget (t.core k).l1 l = some { e with
        e := g.2.1, version := n.version, mask := g.1
        data := if n.version = e.version then e.data else g.2.2.lineCells k l (some e.key) }) ∧
      (g.2.1 = 0 → Completes (.renewalAnswer k x l) s fun t => tget (t.core k).l1 l = none) ∧
      ∀ sp ld, (s.ctx k x).spec = some sp → sp.loads = [ld] → ld.line = l → ld.answer = none →
        (ld.version ≠ n.version → Completes (.renewalAnswer k x l) s fun t => (t.ctx k x).group = some ld.group ∧
          (t.ctx k x).latches = ld.latches ∧ (t.ctx k x).delays = List.replicate 4 .replay ∧ (t.ctx k x).spec = none ∧
          (t.ctx k x).shadows = [] ∧ ∀ h ∈ (t.ctx k x).inflight, beforeBundle ld.bundle h.spec = true) ∧
        (ld.version = n.version → Completes (.renewalAnswer k x l) s fun t => (t.ctx k x).group = (s.ctx k x).group ∧
          (t.ctx k x).threads = (s.ctx k x).threads ∧ (t.ctx k x).spec = none)

/-! ### Front ends -/

namespace Sys2Proof.Claims

/-- The head packet of a queue issues: it is well-formed, its SIG and its pointers translate, and `u` is the state in which its
work starts. -/
def Starts (s : State) (d q : Nat) (ptrs : Packet → List (Word × AccessKind)) (p : Packet) (u : State) : Prop :=
  (s.queue d q).canIssue = true ∧ p.bad = none ∧ ∃ v, s.issueHead d q = some (p, v) ∧
    let a := v.reachAll (v.queueSpace d (v.queue d q)) ((((v.queue d q).find p.id).bind (·.sig)).toList.map fun va => (va, AccessKind.atomic))
    let b := a.2.reachAll (v.queueSpace d (v.queue d q)) ((ptrs p).map fun w => ((v.queue d q).va w.1, w.2))
    a.1 = true ∧ b = (true, u)

/-- A packet completes with a value in the present cycle. -/
def DonePacket (s t : State) (d q id : Nat) (v : Int) : Prop := (s.now, Instr.packetComplete d q id v) ∈ t.agenda

/-- The pointers of each type of packet with the accesses they are checked for (R241, R242). -/
def condPtrs (p : Packet) : List (Word × AccessKind) := [(p.word 2, .load), (p.word 3, .load), (p.word 5, .load)]
def loopPtrs (p : Packet) : List (Word × AccessKind) := [(p.word 2, .load), (p.word 3, .load)]
def copyPtrs (p : Packet) : List (Word × AccessKind) := [(p.word 2, .load), (p.word 3, .store)]
def signalPtrs (p : Packet) : List (Word × AccessKind) := [(p.word 2, if (p.word 0).getLsbD 0 then .store else .atomic)]
def waitPtrs (p : Packet) : List (Word × AccessKind) := (List.range p.nwait).map fun i => (p.word (2 + i), .load)
def launchPtrs (p : Packet) : List (Word × AccessKind) := [(p.word 2, .atomic), (p.word 2 + 256, .atomic)]

/-- The packets that have no work of their own (R242). -/
def idlePackets (d q : Nat) : List Instr := [.nopPacket d q, .returnPacket d q, .join d q]

/-- Every packet instruction of a queue. -/
def packets (d q : Nat) : List Instr :=
  idlePackets d q ++ [.callPacket d q, .timestamp d q, .signal d q, .cond d q, .loop d q, .barrier d q, .copy d q, .launch d q]

/-- The look-ahead of a queue is inside no buffer of a LOOP. -/
def atLoop (u : Queue) (p : Packet) : Bool := match u.stack with
  | f :: _ => f.loop && f.packet == p.id
  | [] => false

/-- The queue stands behind the packet again. -/
def Resumes (u t : State) (d q : Nat) : Prop := t.queue d q = { u.queue d q with stopped := false }

end Sys2Proof.Claims

/-- R237-R239, R246, R253 and R275: what each queue command and each observation of WRITE does to a queue of each state. What a DISABLED
queue has issued runs on, and a packet that had entered a buffer completes once nothing of the buffer is left. How DISABLE ends a packet
that entered a buffer is the model's (DEDUCED, log 30), and so is what RESET sweeps (DEDUCED, log 49). -/
def Obligations.QueueCommands : Prop :=
  ∀ (s : State) (d q : Nat),
    let u := s.queue d q
    let ws := (List.range 8).map fun i => s.descWord d q i
    let write := (s.descWord d q 2).toNat
    let idle (t : State) : Prop := (t.fe d).cmd = (s.fe d).cmd &&& 0xFFFF#64
    (u.state = .disabled → descOk ws = true → Completes (.enable d q) s fun t => idle t ∧ t.queue d q = u.ofDesc ws ∧
      (t.queue d q).state = .active ∧ (t.queue d q).read = (s.descWord d q 3).toNat ∧ (s.now, Instr.queueWriteObserved d q) ∈ t.agenda) ∧
    ((u.state ≠ .disabled ∨ descOk ws = false) → Completes (.enable d q) s fun t => idle t ∧ t.queue d q = u ∧ t.phys = s.phys) ∧
    (u.state ≠ .disabled → Completes (.disable d q) s fun t => idle t ∧ (t.queue d q).state = .disabled ∧ (t.queue d q).look = [] ∧
      (t.queue d q).stack = [] ∧ (t.queue d q).read = u.read ∧ (t.queue d q).issued.map (·.packet) = u.issued.map (·.packet) ∧
      ∀ e ∈ u.issued, u.find e.packet.id = some e → e.packet.enters = true → e.stage = 0 →
        (∀ x ∈ u.issued, x.packet.parent ≠ some e.packet.id) → DonePacket s t d q e.packet.id 0) ∧
    (u.state = .aborted → Completes (.reset d q) s fun t => idle t ∧ (t.queue d q).state = .active ∧ (t.queue d q).abortVal = 0 ∧
      (t.queue d q).read = write ∧ (t.queue d q).look = [] ∧ ∃ at_, (at_, Instr.queueWriteObserved d q) ∈ t.agenda) ∧
    (u.state ≠ .aborted → Completes (.reset d q) s fun t => idle t ∧ t.queue d q = u ∧ t.phys = s.phys) ∧
    (u.state = .active → Completes (.suspend d q) s fun t => idle t ∧ t.queue d q = { u with state := .suspended }) ∧
    (u.state ≠ .active → Completes (.suspend d q) s fun t => idle t ∧ t.queue d q = u ∧ t.phys = s.phys) ∧
    (u.state = .suspended → Completes (.resume d q) s fun t => idle t ∧ t.queue d q = { u with state := .active } ∧
      (s.now, Instr.queueWriteObserved d q) ∈ t.agenda ∧
      ∀ e ∈ u.issued, e.packet.type = 3 → e.stage = 0 → e.packet.bad = none → ∃ at_, (at_, Instr.barrierReread d q e.packet.id) ∈ t.agenda) ∧
    (u.state ≠ .suspended → Completes (.resume d q) s fun t => idle t ∧ t.queue d q = u ∧ t.phys = s.phys) ∧
    (u.state = .disabled → Completes (.queueWriteObserved d q) s fun t => t = s) ∧
    (u.state = .suspended → Completes (.queueWriteObserved d q) s fun t => t.queue d q = { u with seen := write } ∧
      ∃ at_, (at_, Instr.queueWriteObserved d q) ∈ t.agenda) ∧
    (u.state = .active → packetCount write u.read ≤ 2 ^ u.log2n → Completes (.queueWriteObserved d q) s fun t =>
      t.queue d q = { u with seen := write } ∧ t.phys = s.phys ∧ ∃ at_, (at_, Instr.queueWriteObserved d q) ∈ t.agenda) ∧
    (u.state = .active → 2 ^ u.log2n < packetCount write u.read → Completes (.queueWriteObserved d q) s fun t =>
      (t.queue d q).state = .aborted ∧ (t.queue d q).abortVal = -2 ∧ (t.queue d q).look = [] ∧ (t.queue d q).read = u.read) ∧
    (u.state = .aborted → Completes (.queueWriteObserved d q) s fun t => (t.queue d q).state = .aborted ∧ (t.queue d q).ahead = write ∧
      t.phys = (State.sweep d u u.abortVal (u.unread write) u.ahead (s.modQueue d q fun u => { u with ahead := write, seen := write })).phys) ∧
    ∀ bytes (value : W32),
      (d < 4 → bytes = 4 → value.toNat < 256 → s.phase = .running → Completes (.doorbellWrite d bytes value) s fun t =>
        ∃ at_, s.now < at_ ∧ at_ ≤ s.now + tickTime 500 ∧ (at_, Instr.queueWriteObserved d value.toNat) ∈ t.agenda ∧ t.fes = s.fes) ∧
      ((4 ≤ d ∨ bytes ≠ 4 ∨ 256 ≤ value.toNat ∨ s.phase ≠ .running) → Completes (.doorbellWrite d bytes value) s fun t => t = s)

/-- R240-R242, R244 and R247: a packet issues once BAR allows it: READ counts it, and the next packet of the die issues 8 ticks later at the
earliest. A malformed packet completes with −2, one whose slot cannot be read with −5, and each of the others starts its work. -/
def Obligations.PacketsIssue : Prop :=
  ∀ (s : State) (d q : Nat),
    (∀ i ∈ packets d q, (s.queue d q).canIssue = false → Completes i s fun t => t = s) ∧
    (∀ i ∈ packets d q, ∀ p r v, (s.queue d q).look = p :: r → (s.queue d q).canIssue = true → p.bad = some v → p.word 1 = 0 → p.parent = none →
        (s.queue d q).find p.id = none → Completes i s fun t =>
      (t.queue d q).look = r ∧ (t.queue d q).read = packetNext (s.queue d q).read ∧ (t.fe d).nextIssue = s.now + tickTime 8 ∧
        DonePacket s t d q p.id v) ∧
    (∀ i ∈ idlePackets d q, ∀ p u, Starts s d q (fun _ => []) p u → Completes i s fun t => DonePacket u t d q p.id 0 ∧ t.phys = u.phys ∧
      (i ≠ .join d q → t.queue d q = u.queue d q) ∧ (i = .join d q → Resumes u t d q)) ∧
    (∀ p u, Starts s d q (fun p => [(p.word 2, .load)]) p u → Completes (.callPacket d q) s fun t => t = u.checkEntering d q (some p.id)) ∧
    (∀ p u, Starts s d q signalPtrs p u → Completes (.signal d q) s fun t => t = u.finishPacket d q p.id 0) ∧
    (∀ p u, Starts s d q (fun p => [(p.word 2, .store)]) p u →
      let r := u.poke64 (u.queueSpace d (u.queue d q)) ((u.queue d q).va (p.word 2)) (word64 u.gtc)
      Completes (.timestamp d q) s fun t => t = r.2.finishPacket d q p.id (if r.1 then 0 else -5)) ∧
    (∀ p u, Starts s d q waitPtrs p u → Completes (.barrier d q) s fun t => (u.now, Instr.barrierReread d q p.id) ∈ t.agenda ∧
      ∀ e, (u.queue d q).find p.id = some e → (t.queue d q).find p.id =
        some { e with waits := (List.range p.nwait).map fun i => (i, (u.queue d q).va (p.word (2 + i))) }) ∧
    (∀ p u, Starts s d q copyPtrs p u → Completes (.copy d q) s fun t => ∃ j ∈ (t.fe d).jobs, j.id = (u.fe d).nextJob ∧ j.queue = q ∧ j.packet = p.id ∧
      j.src = (u.queue d q).va (p.word 2) ∧ j.dst = (u.queue d q).va (p.word 3) ∧ j.len = (p.word 4).toNat ∧
        ∃ at_, u.now < at_ ∧ (at_, Instr.copyComplete d j.id) ∈ t.agenda) ∧
    (∀ p u, Starts s d q condPtrs p u → let r := u.predicate d q p
      ∀ b, r.1 = some b → let buf := if b then p.word 3 else p.word 5
        let len := (if b then p.word 4 else p.word 6).toNat
        (len = 0 → Completes (.cond d q) s fun t => DonePacket r.2 t d q p.id 0 ∧ Resumes r.2 t d q) ∧
        (0 < len → (r.2.queue d q).stack.length < 8 → Completes (.cond d q) s fun t => (t.queue d q).stopped = false ∧
          (t.queue d q).stack = ⟨p.id, (r.2.queue d q).va buf, 0, len, 1, false⟩ :: (r.2.queue d q).stack) ∧
        (0 < len → 8 ≤ (r.2.queue d q).stack.length → Completes (.cond d q) s fun t => DonePacket r.2 t d q p.id (-2))) ∧
    ∀ p u, Starts s d q loopPtrs p u → let r := u.predicate d q p
      let v := r.2.queue d q
      (r.1 = some true → atLoop v p = false → v.stack.length < 8 → Completes (.loop d q) s fun t => (t.queue d q).stopped = false ∧
        (t.queue d q).stack = ⟨p.id, v.va (p.word 3), 0, (p.word 4).toNat, 1, true⟩ :: v.stack) ∧
      (∀ f fs, r.1 = some true → v.stack = f :: fs → atLoop v p = true → ((p.word 5).toNat = 0 ∨ f.count < (p.word 5).toNat) →
        Completes (.loop d q) s fun t => (t.queue d q).stopped = false ∧ (t.queue d q).stack = { f with pos := 0, count := f.count + 1 } :: fs) ∧
      (∀ f fs, v.stack = f :: fs → atLoop v p = true → (r.1 = some false ∨ (r.1 = some true ∧ (p.word 5).toNat ≠ 0 ∧ (p.word 5).toNat ≤ f.count)) →
        Completes (.loop d q) s fun t => (t.queue d q).stack = fs ∧ DonePacket r.2 t d q p.id 0) ∧
      (r.1 = some false → atLoop v p = false → Completes (.loop d q) s fun t => Resumes r.2 t d q ∧ DonePacket r.2 t d q p.id 0)

namespace Sys2Proof.Claims

/-- The 64 words of a launch record, read as the front end reads them (R243). -/
def readRecord (s : State) (d q : Nat) (p : Packet) : Option (List Word) × State :=
  let sp := s.queueSpace d (s.queue d q)
  let va := (s.queue d q).va (p.word 2)
  (List.range 64).foldl (fun (acc : Option (List Word) × State) i => match acc.1 with
    | none => acc
    | some ws => match acc.2.peek64 sp (va + 8 * i) with
      | (some w, s') => (some (ws ++ [w]), s')
      | (none, s') => (none, s')) (some [], s)

/-- The rows and columns of cores that a launch word asks for (R243). -/
def gridOf (p : Packet) : Nat × Nat := (((p.word 3).extractLsb' 12 2).toNat + 1, ((p.word 3).extractLsb' 10 2).toNat + 1)

/-- What a packet that has issued and is neither a SIGNAL nor a release completes from. -/
def Ending (s : State) (d q id : Nat) (e : Issued) : Prop :=
  (s.queue d q).find id = some e ∧ (e.packet.type ≠ 4 ∨ 2 ≤ e.stage ∨ e.packet.bad ≠ none)

/-- The SIG that a packet completes with is at an address that translates. -/
def sigSpace (s : State) (d q : Nat) : Space := s.queueSpace d (s.queue d q)

end Sys2Proof.Claims

/-- R19, R26, R49, R243, R249, R250 and R404: a launch whose record, object or circuit table is malformed completes with −2, one that no
cluster can ever hold with −3, one of an unbound space with −5; any other is offered to the agents of its partition: for 1 × 1 cohorts of
every present core, otherwise one a cluster. They take cohorts in the order of TICKET and start their workgroups where a placement is
valid; a priority-0 launch that has none on any cluster asks for pre-emption. When an agent hears of a launch is free (DESIGN CHOICE, log 8), and what a
failed access does is the model's (DEDUCED, log 53). -/
def Obligations.LaunchesStart : Prop :=
  ∀ (s : State),
    (∀ d q p u, Starts s d q launchPtrs p u →
      (u.partOfAsid (u.queue d q).asid = none → Completes (.launch d q) s fun t => DonePacket u t d q p.id (-5)) ∧
      ∀ part, u.partOfAsid (u.queue d q).asid = some part → let r := readRecord u d q p
        ∀ ws pt, r.1 = some ws → tget r.2.parts part = some pt →
          (r.2.recordOk part (p.word 3) ws = false → Completes (.launch d q) s fun t => DonePacket r.2 t d q p.id (-2)) ∧
          (r.2.recordOk part (p.word 3) ws = true →
            let w := r.2.readTable d (u.queue d q) (gridOf p).1 (gridOf p).2 (wordOf ws 3)
            (∀ v, w.1 = .error v → Completes (.launch d q) s fun t => DonePacket w.2 t d q p.id v) ∧
            ∀ table, w.1 = .ok table →
              let never := w.2.unplaceable pt (gridOf p).1 (gridOf p).2 ((p.word 3).extractLsb' 0 9).toNat (wordOf ws 14).toNat
              (never = true → Completes (.launch d q) s fun t => DonePacket w.2 t d q p.id (-3)) ∧
              (never = false → Completes (.launch d q) s fun t => ∃ l, tget t.launches w.2.nextLaunch = some l ∧ l.packet = p.id ∧ l.queue = q ∧
                l.part = part ∧ l.obj = ((wordOf ws 2).extractLsb' 0 32).toNat ∧ l.func = ((wordOf ws 2).extractLsb' 32 16).toNat ∧
                l.ncoh = ((p.word 3).extractLsb' 32 32).toNat ∧ (l.rows, l.cols) = gridOf p ∧ l.wgsize = ((p.word 3).extractLsb' 0 9).toNat ∧
                l.prio = (u.queue d q).prio ∧ l.params = (List.range 32).map (fun n => wordOf ws (32 + n)) ∧ t.nextLaunch = w.2.nextLaunch + 1 ∧
                (tget w.2.parts part = some pt → ∀ c ∈ pt.clusters, ∀ k ∈ w.2.claimers l c,
                  ∃ at_, w.2.now < at_ ∧ (at_, Instr.workgroupStart w.2.nextLaunch k) ∈ t.agenda)))) ∧
    ∀ ln l k p, tget s.launches ln = some l → tget s.parts l.part = some p → l.ending = false → (p.runs l.wgsize).contains (clusterOf k) = true →
      let founder := l.tmpl && l.frozen.isNone
      let waits := p.swapped || s.fwStopped k || s.savedFirst l.part l.prio
      (founder && l.founded) = false →
      (waits = true → Completes (.workgroupStart ln k) s fun t =>
        (∃ at_, s.now < at_ ∧ (at_, Instr.workgroupStart ln k) ∈ t.agenda) ∧ t.cores = s.cores) ∧
      (waits = false → s.agentSeats l k = none → Completes (.workgroupStart ln k) s fun t =>
        (∃ at_, s.now < at_ ∧ (at_, Instr.workgroupStart ln k) ∈ t.agenda) ∧ t.cores = s.cores ∧
          (l.prio = 0 → (∀ c ∈ p.runs l.wgsize, s.placeNext l c = none) → ∃ at_, (at_, Instr.priorityPreemption l.die l.queue) ∈ t.agenda)) ∧
      ∀ seats, waits = false → s.agentSeats l k = some seats →
        (founder = true → Completes (.workgroupStart ln k) s fun t => t = s.startCohort ln l 0 true 1 1 seats ∧
          (∃ h, tget t.cohorts s.nextCohort = some h ∧ h.launch = ln ∧ h.place = seats.map (·.1) ∧ h.ctxOf = seats.map (·.2.1)) ∧
          ∀ e, seats = [e] → let c := t.ctx e.1 e.2.1
            c.state = .active ∧ c.regs.prio = l.prio ∧ c.live = [0] ∧ (c.thread 0).budget = e.2.2 ∧ (c.thread 0).level = 0 ∧
              (t.core e.1).taken = (s.core e.1).taken + e.2.2) ∧
        (founder = false → let r := s.rmw64 (s.launchSpace k l) l.rec_ (· + 1)
          (∀ n : Word, r.1 = some n → n.toNat < l.ncoh → Completes (.workgroupStart ln k) s fun t =>
            t = (r.2.startCohort ln l n.toNat false l.rows l.cols seats).message (.workgroupStart ln k)) ∧
          (∀ n : Word, r.1 = some n → l.ncoh ≤ n.toNat → Completes (.workgroupStart ln k) s fun t => t = r.2) ∧
          (r.1 = none → Completes (.workgroupStart ln k) s fun t => t = r.2))

/-- R241, R242, R244-R248: the look-ahead reads packets in order; a BARRIER completes once every entry of its list is satisfied; a COPY's
bytes are in place when it completes; and a completion releases, updates SIG, and aborts its queue when the value is negative, with −5
when its SIG cannot be stored. What a release waits for is the model's (DEDUCED, log 51). -/
def Obligations.PacketsComplete : Prop :=
  ∀ (s : State) (d q : Nat),
    let u := s.queue d q
    (u.lookReady = false → Completes (.lookaheadRead d q) s fun t => t = s) ∧
    (u.lookReady = true → u.stack = [] → let r := s.peekPacket (s.queueSpace d u) (u.slot u.ahead)
      Completes (.lookaheadRead d q) s fun t => ∃ p, t = r.2.modQueue d q (fun _ => { u with ahead := packetNext u.ahead }.follow p) ∧
        p.id = u.nextId ∧ p.parent = none ∧ p.words = r.1.getD [] ∧
        (r.1 = none → p.bad = some (-5)) ∧ ∀ ws, r.1 = some ws → p.bad = if packetOk ws then none else some (-2)) ∧
    (∀ f fs, u.lookReady = true → u.stack = f :: fs → f.pos < f.len → let r := s.peekPacket (s.queueSpace d u) (f.buf + 64 * f.pos)
      Completes (.lookaheadRead d q) s fun t => ∃ p, t = r.2.modQueue d q (fun _ => { u with stack := { f with pos := f.pos + 1 } :: fs }.follow p) ∧
        p.id = u.nextId ∧ p.parent = some f.packet ∧ p.words = r.1.getD []) ∧
    (∀ f fs, u.lookReady = true → u.stack = f :: fs → f.len ≤ f.pos → f.loop = false → Completes (.lookaheadRead d q) s fun t =>
      t = (s.modQueue d q fun u => { u with stack := fs }).checkEntering d q (some f.packet)) ∧
    (∀ id e, u.find id = some e → e.packet.type = 3 → e.stage = 0 → u.state ≠ .suspended →
      let r := s.readWaits (s.queueSpace d u) e.packet.aon e.waits
      (r.1.failed = true → Completes (.barrierReread d q id) s fun t => DonePacket r.2 t d q id (-5)) ∧
      (∀ v, r.1.failed = false → r.1.neg = some v → Completes (.barrierReread d q id) s fun t => DonePacket r.2 t d q id v) ∧
      (r.1.failed = false → r.1.neg = none → r.1.left = [] → Completes (.barrierReread d q id) s fun t => DonePacket r.2 t d q id 0) ∧
      (r.1.failed = false → r.1.neg = none → r.1.left ≠ [] → Completes (.barrierReread d q id) s fun t =>
        ∃ at_, r.2.now < at_ ∧ (at_, Instr.barrierReread d q id) ∈ t.agenda)) ∧
    (∀ id e, u.find id = some e → (e.packet.type ≠ 3 ∨ e.stage ≠ 0) → Completes (.barrierReread d q id) s fun t => t = s) ∧
    (∀ id e, u.find id = some e → e.packet.type = 3 → e.stage = 0 → u.state = .suspended → Completes (.barrierReread d q id) s fun t =>
      t.fes = s.fes ∧ t.phys = s.phys ∧ ∃ at_, s.now < at_ ∧ (at_, Instr.barrierReread d q id) ∈ t.agenda) ∧
    (∀ job j, (s.fe d).jobs.find? (fun j => j.id == job) = some j →
      let r := copyBytes (s.queueSpace d { asid := j.asid }) (1024 + d, j.queue, j.packet) j.len j.src j.dst j.len s
      Completes (.copyComplete d job) s fun t => t.phys = r.2.phys ∧ DonePacket r.2 t d j.queue j.packet (if r.1 then 0 else -5) ∧
        ∀ k ∈ (t.fe d).jobs, k.id ≠ job) ∧
    ∀ id e, (∀ v : Int, Ending s d q id e → e.packet.rel = 0 → 0 ≤ v → e.sig = none → e.packet.parent = none → Completes (.packetComplete d q id v) s fun t =>
        (t.queue d q) = { u with issued := u.issued.filter fun x => x.packet.id != e.packet.id } ∧ t.phys = s.phys ∧
          ∀ l ∈ t.launches, ¬(l.2.die = d ∧ l.2.queue = q ∧ l.2.packet = e.packet.id)) ∧
      (∀ (v : Int) va w s1, Ending s d q id e → e.packet.rel = 0 → 0 ≤ v → e.sig = some va → e.packet.parent = none →
          s.peek64 (sigSpace s d q) va = (some w, s1) → (s1.physPiece (sigSpace s d q) va 8 .atomic).1.isSome = true →
        (0 < w.toInt → (s1.poke64 (sigSpace s d q) va (w - 1)).1 = true → Completes (.packetComplete d q id v) s fun t =>
          t.phys = (s1.poke64 (sigSpace s d q) va (w - 1)).2.phys) ∧
        (w.toInt ≤ 0 → Completes (.packetComplete d q id v) s fun t => t.phys = s1.phys)) ∧
      (∀ v : Int, Ending s d q id e → v < 0 → e.stage < 2 → (u.state = .active ∨ u.state = .suspended) →
        let r := s.packetRelease d q e 2 false
        (r.1 = none → Completes (.packetComplete d q id v) s fun t => (tickTime (r.2.gtc + 1), Instr.packetComplete d q id v) ∈ t.agenda) ∧
        (∀ w : State, r.1 = some w → Completes (.packetComplete d q id v) s fun t => (t.queue d q).state = .aborted ∧ (t.queue d q).look = [] ∧
          (t.queue d q).abortVal = if (w.updateSig (w.queueSpace d (w.queue d q)) e.sig v).1 then v else -5)) ∧
      ∀ v : Int, u.find id = some e → e.packet.type = 4 → e.stage = 0 → e.packet.bad = none → 0 ≤ v → e.packet.rel = 0 →
        let r := s.signalWrite d q e.packet
        r.1 = true → Completes (.packetComplete d q id v) s fun t => t = r.2.endPacket d q { e with stage := 0 } v

/-! ### Banks, engines and collectives -/

namespace Sys2Proof.Claims

/-- What follows when a bank has nothing open: the ROWACT or STKCPY that waits begins its activation, else the bank is IDLE, or BUSY with
the reads that it has deferred. -/
def Settles (s t : State) (k b : Nat) : Prop :=
  (∀ tix n, (s.bank k b).waiting = some tix → tget (s.mtx k).tickets tix = some n → (t.bank k b).state = .opening ∧ (t.bank k b).row = n.row ∧
    (t.bank k b).tix = some tix ∧ (t.bank k b).since = s.gtc ∧ (tickTime (s.gtc + 14), Instr.rowOpen k b) ∈ t.agenda) ∧
  ((s.bank k b).waiting = none → (s.bank k b).stkWaits = true → (t.bank k b).state = .opening ∧ (t.bank k b).stk = true) ∧
  ((s.bank k b).waiting = none → (s.bank k b).stkWaits = false → (s.bank k b).deferred = [] → (t.bank k b).state = .idle) ∧
  ((s.bank k b).waiting = none → (s.bank k b).stkWaits = false → (s.bank k b).deferred ≠ [] → (t.bank k b).state = .busy)

/-- Only the banks, the agenda and the free values of a core's pillar have changed. -/
def OnlyBank (s t : State) (k b : Nat) : Prop :=
  (∀ j, j ≠ b → t.bank k j = s.bank k j) ∧ (∀ j x, t.ctx j x = s.ctx j x) ∧ t.phys = s.phys

/-- The set of a claim is free on its core (R186). -/
def freeFor (m : Mtx) (c : OsClaim) : Bool :=
  c.set.slots.all (fun n => (tget m.slotOwner n).isNone && (tget m.clearSlots n).isNone) &&
    c.set.tiles.all (fun n => (tget m.tileOwner n).isNone && (tget m.clearTiles n).isNone)

/-- The fold of a REDGRP over its members in ascending logical order (R354). -/
def redResult (u : GroupUse) : List Byte :=
  u.result.getD (redFold u.fn u.ety u.len ((sortBy (·.lg) (u.issuers.filter fun i => i.fault.isNone)).filterMap (·.bytes)))

/-- A member's share takes the result and its operation completes; a page fault stalls its stream, and a refused write ends it (R354, R355). -/
def redMember (cohort g : Nat) (u : GroupUse) (s : State) (i : Issuer) : State :=
  match s.collWrite i (s.peerSeat cohort i.lg) i.lg (redResult u) with
  | (.ok _, s1) => (s1.endOp i.env i.chan i.id true (some (3, maskOf u.dropped))).leaveUse cohort g i.lg
  | (.fault va lv wr, s1) => s1.collStall cohort g i va lv wr
  | (.bad a, s1) => (s1.collLost cohort g i a).leaveUse cohort g i.lg

end Sys2Proof.Claims

/-- R197 and R200: the life of a bank slot: an activation is open after 14 ticks, is closed by a refresh 4,000 ticks after it began and its
ticket then dead, takes 14 ticks of tRP after a close, and goes to the ROWACT that waits, to the accesses it has deferred, or to IDLE; a
refresh makes an IDLE bank BUSY for at most 60 ticks. A fused bank is absent. -/
def Sys2Proof.Claims.BankEvents : Prop :=
  ∀ (s : State) (k b : Nat),
    let n := s.bank k b
    (n.state = .busy → Completes (.bankAccessComplete k b) s fun t => Settles s t k b ∧ (n.deferred = [] → OnlyBank s t k b)) ∧
    (n.state ≠ .busy → Completes (.bankAccessComplete k b) s fun t => t = s) ∧
    (n.state = .opening → n.since + 14 ≤ s.gtc → Completes (.rowOpen k b) s fun t =>
      t.bank k b = { n with state := .opened } ∧ ∀ j, j ≠ b → t.bank k j = s.bank k j) ∧
    ((n.state ≠ .opening ∨ s.gtc < n.since + 14) → Completes (.rowOpen k b) s fun t => t = s) ∧
    (n.state = .opened → n.closeAt = none → n.since + 4000 ≤ s.gtc → Completes (.refreshClose k b) s fun t => OnlyBank s t k b ∧
      (t.bank k b).closeAt = some (Nat.max s.now n.consumeEnd) ∧ (∀ tix, n.tix = some tix → tget (t.mtx k).tickets tix = none) ∧
        (Nat.max s.now n.consumeEnd, Instr.rowClose k b) ∈ t.agenda) ∧
    ((n.state ≠ .opened ∨ n.closeAt ≠ none ∨ s.gtc < n.since + 4000) → Completes (.refreshClose k b) s fun t => t = s) ∧
    (∀ c, n.closeAt = some c → c ≤ s.now → Completes (.rowClose k b) s fun t => OnlyBank s t k b ∧ (t.bank k b).state = .precharge ∧
      (t.bank k b).closeAt = none ∧ (t.bank k b).tix = none ∧ (t.bank k b).waiting = n.waiting ∧
        (s.now + tickTime 14, Instr.prechargeEnd k b) ∈ t.agenda) ∧
    (n.state = .precharge → s.deferredIn k b = false → n.deferred = [] → Completes (.prechargeEnd k b) s fun t => Settles s t k b ∧ OnlyBank s t k b) ∧
    (n.state = .precharge → (s.deferredIn k b = true ∨ n.deferred ≠ []) → Completes (.prechargeEnd k b) s fun t => (t.bank k b).state = .busy ∧
      (t.bank k b).deferred = [] ∧ t.phys = s.phys.flush (fun a => a / 2 ^ 30 == k && a % 2 ^ 30 / 2 ^ 23 == b) ∧
      (∃ at_, s.now < at_ ∧ (at_, Instr.bankAccessComplete k b) ∈ t.agenda) ∧
      ∀ j x, ∀ l ∈ (t.ctx j x).inflight, ∀ id ∈ n.deferred, id ∉ l.awaits) ∧
    (n.state ≠ .precharge → Completes (.prechargeEnd k b) s fun t => t = s) ∧
    (s.presentPillar k = true → b < 128 → s.bankRegion k b (s.spareOf k) ≠ .hole →
      (n.state = .idle → Completes (.bankRefresh k b) s fun t => OnlyBank s t k b ∧ (t.bank k b).state = .busy ∧
        ∃ at_, s.now < at_ ∧ at_ ≤ s.now + tickTime 60 ∧ (at_, Instr.bankAccessComplete k b) ∈ t.agenda) ∧
      (n.state ≠ .idle → Completes (.bankRefresh k b) s fun t => t = s)) ∧
    ((s.presentPillar k = false ∨ 128 ≤ b ∨ s.bankRegion k b (s.spareOf k) = .hole) → exec (.bankRefresh k b) s = .fault .absentUnit)

/-- R186-R189, R213 and R385: engine work that has ended leaves the order; cleared slots and tiles become grantable; the oldest claim takes its
set when all of it is free; and a STKCPY's bytes reach the pillar before its identifier counts as done. -/
def Sys2Proof.Claims.MatrixEvents : Prop :=
  ∀ (s : State) (k : Nat),
    let m := s.mtx k
    (Completes (.engineWorkComplete k) s fun t =>
      ∀ w, w ∈ (t.mtx k).work ↔ w ∈ m.work ∧ (s.now < w.until_ ∨ w.fault.isSome = true)) ∧
    (Completes (.slotClearComplete k) s fun t => (∀ e, e ∈ (t.mtx k).clearSlots ↔ e ∈ m.clearSlots ∧ s.now < e.2) ∧
      (∀ e, e ∈ (t.mtx k).clearTiles ↔ e ∈ m.clearTiles ∧ s.now < e.2) ∧ (t.mtx k).opmem = m.opmem) ∧
    (∀ c r, m.osClaims = c :: r → freeFor m c = true → Completes (.osclaimGrant k) s fun t => (t.mtx k).osClaims = r ∧
      (∀ i ∈ c.set.slots, tget (t.mtx k).slotOwner i = some c.ctx) ∧ (∀ i ∈ c.set.tiles, tget (t.mtx k).tileOwner i = some c.ctx) ∧
      (∀ i, i ∉ c.set.slots → tget (t.mtx k).slotOwner i = tget m.slotOwner i) ∧ (t.mtx k).opmem = m.opmem) ∧
    (∀ c r, m.osClaims = c :: r → freeFor m c = false → Completes (.osclaimGrant k) s fun t => t = s) ∧
    ∀ j r, (s.core k).eng.stk = j :: r →
      ((∀ at_, j.ends = some at_ → s.now < at_) → Completes (.stkcpyComplete k) s fun t => t = s) ∧
      ∀ at_, j.ends = some at_ → at_ ≤ s.now →
        let c := stkCopy k (s.keyOf j.skey) (s.keyOf j.dkey) j.src j.dst (j.len / 8 + 1) j.len s
        c.1 = none → Completes (.stkcpyComplete k) s fun t => t.phys = c.2.phys ∧ (t.core k).eng.stk = r ∧
          (t.ctx k 4).chan j.chan = ((s.ctx k 4).chan j.chan).endOp j.id true

/-- The events of the banks and of the matrix side of a core. -/
def Obligations.BanksAndMatrix : Prop := BankEvents ∧ MatrixEvents

/-- R353-R356, R398-R400: the copy engine takes its next transfer when it is free, copies its rows, and frees the engine when its writes
have been performed; a transfer that fails ends with XFER_FAULT; the loop generator enters one transfer a cycle; a multicast reaches each
target's share, waits for its workgroup, or stalls on a page fault; and a reduction gives its result to every member. That a transfer's
bytes move at its completion is the model's (DESIGN CHOICE, log 21). That a collective's page fault stalls its stream is the model's (DEDUCED, log 68). -/
def Obligations.EngineEvents : Prop :=
  ∀ (s : State) (k : Nat),
    let eng := (s.core k).eng
    (∀ r, eng.running = some r → Completes (.transferStart k) s fun t => t = s) ∧
    (∀ tr, eng.running = none → nextTransfer s.gtc eng.buf = some tr → Completes (.transferStart k) s fun t => ∃ at_, s.now ≤ at_ ∧
      (t.core k).eng.running = some { tr with ends := at_ } ∧ (at_, Instr.transferComplete k) ∈ t.agenda ∧
        (t.core k).eng.buf = eng.buf.filter (fun u => !u.is tr.env tr.chan tr.id) ∧ t.phys = s.phys) ∧
    (∀ tr, eng.running = some tr → tr.bad = none → s.now < tr.ends → Completes (.transferComplete k) s fun t => t = s) ∧
    (∀ tr, eng.running = some tr → tr.bad = none → tr.ends ≤ s.now → tr.rmt = none →
      let c := copyRows (tr.height - tr.row) tr s
      let u := c.1
      let sent := c.2.engFlush k
      (∀ f, u.fault = some f → Completes (.transferComplete k) s fun t =>
        t = (((sent.modCore k fun c => { c with eng := { c.eng with running := none, buf := c.eng.buf ++ [u] } }).engineFault u.env u.thread f u.at_).schedule
          s.now (.transferStart k))) ∧
      (u.fault = none → u.bad.isSome = true → Completes (.transferComplete k) s fun t =>
        (t.core k).eng.running = some u ∧ (s.now, Instr.transferFault k) ∈ t.agenda ∧ t.phys = sent.phys) ∧
      (u.fault = none → u.bad = none → sent.engPending k = true → Completes (.transferComplete k) s fun t =>
        (t.core k).eng.running = some { u with ends := tickTime (s.gtc + 1) } ∧ t.phys = sent.phys) ∧
      (u.fault = none → u.bad = none → sent.engPending k = false → Completes (.transferComplete k) s fun t =>
        t = (sent.endOp u.env u.chan u.id true (some (1, 0))).freeEngine k)) ∧
    (∀ tr a, eng.running = some tr → tr.bad = some a → Completes (.transferFault k) s fun t =>
      t = ((((s.endOp tr.env tr.chan tr.id false (some (2, 0))).engineTrap tr.env tr.thread ⟨.xferFault, tr.chan, a⟩ tr.at_).freeEngine k))) ∧
    (∀ x l tr r, eng.loops.find? (fun l => l.env.ctx == x && !l.left.isEmpty) = some l → l.left = tr :: r →
      (64 ≤ eng.buf.length → Completes (.loopGeneratorEntry k x) s fun t => t = s.schedule (s.after 1) (.loopGeneratorEntry k x)) ∧
      (eng.buf.length < 64 → Completes (.loopGeneratorEntry k x) s fun t => tr ∈ (t.core k).eng.buf ∧
        (r ≠ [] → (s.after 1, Instr.loopGeneratorEntry k x) ∈ t.agenda))) ∧
    (∀ cohort g target u i bs, s.groupUse cohort g = some u → u.redgrp = false → u.issuers.head? = some i → i.bytes = some bs → i.fault = none →
      target ∈ u.left →
      let held (j : Nat) : Prop := (∀ b ∈ (s.core j).inbox, ¬(b.cohort = cohort ∧ b.group = g ∧ b.logical = target)) →
        Completes (.mcastDelivery cohort g target) s fun t => (t.core j).inbox = (s.core j).inbox ++ [⟨cohort, g, target, i.dst, bs⟩] ∧ t.phys = s.phys
      (∀ j x, s.peerSeat cohort target = .live j x → let r := s.collWrite i (.live j x) target bs
        (∀ o, r.1 = .ok o → Completes (.mcastDelivery cohort g target) s fun t => t = r.2.delivered cohort g target false) ∧
        (∀ va lv wr, r.1 = .fault va lv wr → Completes (.mcastDelivery cohort g target) s fun t => t = r.2.collStall cohort g i va lv wr) ∧
        ∀ a, r.1 = .bad a → Completes (.mcastDelivery cohort g target) s fun t => t = r.2.collLost cohort g i a) ∧
      (∀ j n, s.peerSeat cohort target = .saved j n → held j) ∧
      ∀ h, s.peerSeat cohort target = .gone → tget s.cohorts cohort = some h →
        (target ∈ h.doneCores → Completes (.mcastDelivery cohort g target) s fun t => t = s.delivered cohort g target true) ∧
        (target ∉ h.doneCores → ∀ j, h.place[target]? = some j → held j)) ∧
    ∀ cohort g u, s.groupUse cohort g = some u → u.redgrp = true →
      ((u.complete = true ∨ u.result.isSome = true) → Completes (.redgrpResult cohort g) s fun t =>
        t = (sortBy (·.lg) (u.issuers.filter fun i => i.fault.isNone)).foldl (redMember cohort g u) (s.setUse cohort g { u with result := some (redResult u) })) ∧
      (u.complete = false → u.result = none → Completes (.redgrpResult cohort g) s fun t => t = s)

/-! ### The host and the fabric -/

/-- R276 and R277: a completion gives its bytes to the result that awaits it, and an error or a timeout gives that thread a late
ACCESS_VIOLATION; the CXL.mem window reads and writes the bytes of its runs under its key, from the slices, and only while
no bank it touches has an open row. -/
def Sys2Proof.Claims.HostAccesses : Prop :=
  ∀ (s : State),
    (∀ req ok data r, s.host.reads.find? (fun r => r.id == req) = some r → Completes (.hostCompletion req ok data) s fun t =>
      (∀ e, e ∈ t.host.reads ↔ e ∈ s.host.reads ∧ e.id ≠ req) ∧ t.phys = s.phys ∧
        (t.ctx r.core r.ctx).inflight = (s.ctx r.core r.ctx).inflight.map (Landing.complete s.now r (ok && data.length == r.len) data) ∧
        ∀ l ∈ (s.ctx r.core r.ctx).inflight, r.id ∈ l.host → let m := l.complete s.now r (ok && data.length == r.len) data
          r.id ∉ m.host ∧ s.now ≤ m.due ∧
          (¬(ok = true ∧ data.length = r.len) → m.vals = l.vals ∧ m.traps = l.traps ++ [(r.thread, ⟨.accessViolation, r.seg, r.va⟩)]) ∧
          (ok = true → data.length = r.len → m.traps = l.traps ∧ (isTileTy r.ty = false → r.into = 0 → r.len = tyBytes r.ty →
            l.vals = [(r.thread, [0])] → m.vals = [(r.thread, [regImage r.ty (bytesToNat data)])]))) ∧
    (∀ req ok data, s.host.reads.find? (fun r => r.id == req) = none → Completes (.hostCompletion req ok data) s fun t => t = s) ∧
    (s.phase = .running →
      (∀ w p, tget s.parts w.part = some p →
        let good := (1 ≤ w.size && w.size ≤ 256 && w.runs.length == 32 * w.size && w.key < 512 && (nodup w.runs).length == w.runs.length &&
          w.runs.all (s.runOk p))
        (good = true → Completes (.hdmWindowSet w) s fun t => t.host.window = some w ∧ t.host.replies = s.host.replies ++ [true] ∧ t.phys = s.phys) ∧
        (good = false → Completes (.hdmWindowSet w) s fun t => Replied s t false)) ∧
      (∀ w, tget s.parts w.part = none → Completes (.hdmWindowSet w) s fun t => Replied s t false) ∧
      (∀ addr len key as, s.hdmRun addr len = some (key, as) →
        (as.all s.bankIdle = true → Completes (.cxlMemRead addr len) s fun t => t.phys = s.phys ∧
          t.host.cxl = s.host.cxl ++ [(if as.any s.uncorrectable then [] else as.map fun a => s.phys.byte (some key) a, as.any s.uncorrectable)]) ∧
        (as.all s.bankIdle = false → Completes (.cxlMemRead addr len) s fun t =>
          ∃ at_, s.now < at_ ∧ (at_, Instr.cxlMemRead addr len) ∈ t.agenda ∧ t.host = s.host)) ∧
      (∀ addr data key as, s.hdmRun addr data.length = some (key, as) →
        (as.all s.bankIdle = true → (∀ l, ((s.line l).waiting = [] ∧ (s.line l).collapsing = false ∧ s.replicated l = false ∧
            (s.line l).expiry ≤ s.gtc ∧ (s.line l).performed ≤ s.gtc)) → s.phys.ranges = [] → as.Nodup →
            Memory.wf s.phys.dram = true → s.phys.overlay.Pairwise (fun a b => a.1 < b.1) →
          Completes (.cxlMemWrite addr data) s fun t => ∀ b ∈ as.zip data, t.phys.byte (some key) b.1 = b.2) ∧
        (as.all s.bankIdle = false → Completes (.cxlMemWrite addr data) s fun t =>
          ∃ at_, s.now < at_ ∧ (at_, Instr.cxlMemWrite addr data) ∈ t.agenda ∧ t.phys = s.phys)) ∧
      (∀ addr len, s.hdmRun addr len = none → Completes (.cxlMemRead addr len) s fun t => t = s) ∧
      ∀ addr data, s.hdmRun addr data.length = none → Completes (.cxlMemWrite addr data) s fun t => t = s)

/-- R15, R20 and R278-R281: class 0 goes on port DEST mod 48 when that is up; while the device runs a good flit is delivered, and a bad one
or one on a retraining port is sent again; a lane failure retrains the port on
its lanes for at most 2 µs, or takes it down below two; training gives port 0's switch port as the device number, and a port
of another plane stays down; none trains after a thermal stop. -/
def Sys2Proof.Claims.FabricPorts : Prop :=
  ∀ (s : State) (p : Nat),
    (s.portPresent p = false →
      (∀ f, exec (.flitReceive p f) s = .fault .absentUnit) ∧ exec (.laneFailure p) s = .fault .absentUnit ∧
        exec (.retrainComplete p) s = .fault .absentUnit ∧ ∀ n, exec (.linkTraining p n) s = .fault .absentUnit) ∧
    (∀ dest, (s.port (dest % portCount)).up = true → s.class0Port dest = some (dest % portCount)) ∧
    (s.portPresent p = true → let o := s.port p
      (s.phase = .running →
        (∀ f, o.up = true → o.retrain = none → flitOk f = true → Completes (.flitReceive p f) s fun t =>
          t = { s with fabric := { s.fabric with rx := s.fabric.rx ++ [f] } }) ∧
        (∀ f, (o.retrain.isSome = true ∨ (o.up = true ∧ flitOk f = false)) → Completes (.flitReceive p f) s fun t =>
          t = { s with fabric := { s.fabric with retransmit := s.fabric.retransmit ++ [p] } }) ∧
        ∀ f, o.up = false → o.retrain = none → Completes (.flitReceive p f) s fun t => t = s) ∧
      (s.phase ≠ .running → ∀ f, Completes (.flitReceive p f) s fun t => t = s) ∧
      (o.lanes < 3 → Completes (.laneFailure p) s fun t => (t.port p).up = false ∧ (t.port p).retrain = none ∧ (t.port p).lanes = o.lanes - 1 ∧
        (∀ j, j ≠ p → t.port j = s.port j) ∧
        ((∀ j, j < portCount → j ≠ p → (s.port j).up = false ∧ (s.port j).retrain = none) →
          ∀ n, n < 512 → n ≠ s.fuses.device → n ∈ t.fabric.lostDevices)) ∧
      (3 ≤ o.lanes → (o.up = true ∨ o.retrain.isSome = true) → Completes (.laneFailure p) s fun t => ∃ ends, s.now < ends ∧ ends ≤ s.now + tickTime 2000 ∧
        t.port p = { o with lanes := o.lanes - 1, up := false, retrain := some ends } ∧ (ends, Instr.retrainComplete p) ∈ t.agenda) ∧
      (∀ at_, o.retrain = some at_ → at_ ≤ s.now → Completes (.retrainComplete p) s fun t => t.port p = { o with retrain := none, up := true } ∧
        ∀ j, j ≠ p → t.port j = s.port j) ∧
      (∀ at_, o.retrain = some at_ → s.now < at_ → Completes (.retrainComplete p) s fun t => t = s) ∧
      (∀ n, 512 ≤ n → exec (.linkTraining p n) s = .fault .absentUnit) ∧
      (∀ n, n < 512 → s.phase = .thermalStop → Completes (.linkTraining p n) s fun t => t = s) ∧
      ∀ n, n < 512 → s.phase ≠ .thermalStop → Completes (.linkTraining p n) s fun t => (t.port p).plane = some n ∧ (t.port p).retrain = none ∧
        (p = 0 → t.fuses.device = n ∧ (2 ≤ o.lanes → (t.port 0).up = true)) ∧ (p ≠ 0 → t.fuses.device = s.fuses.device) ∧
        (p ≠ 0 → ∀ z, tget s.fabric.ports 0 = some z → z.plane = some n → 2 ≤ o.lanes → (t.port p).up = true) ∧
        (p ≠ 0 → ∀ z, tget s.fabric.ports 0 = some z → z.plane ≠ some n → (t.port p).up = false))

/-- What reaches the device from outside it. That no port trains without port 0 is the model's (DESIGN CHOICE, log 84). -/
def Obligations.HostAndFabric : Prop := HostAccesses ∧ FabricPorts

/-! ### Encodings, steps, reset, invariants -/

namespace Sys2Proof.Claims

/-- The words that decode to an instruction and leave nothing over. -/
def Reads (ws : List W32) (i : Instr) : Prop := decode ws = .ok (i, [])

/-- A bundle at the PC of context x of core k that is a group of its own, with one op. -/
structure OneOp (s : State) (k : Nat) (pc : Pc) (tr : Trans) (b : Bundle) (o : Op) (i : Instr) : Prop where
  trans : s.trans k pc = some tr
  words : ∃ rest, decodeBundle (tr.from pc.off) = .ok (b, rest)
  stop : b.hdr.stop = true
  only : b.instrs = [(o, .ok i)]

/-- The turn of a core belongs to user context x: nothing else is due, the contexts that wait have entered their waits in `u`, and the
selector gives x the cycle (R37-R40). -/
structure Turn (s u : State) (k x : Nat) (ready : List Nat) : Prop where
  quiet : ∀ e r, s.agenda = e :: r → s.now < e.1
  running : s.phase = .running
  first : ∃ rest, s.turn = .core k :: rest
  finishing : s.finishing k = none
  event : coreEvent exec k s = none
  looked : lookAll exec k ((s.core k).users.filter fun y => !(s.ctx k y).second) s = (ready, u)
  second : (u.core k).secondOf = none
  chosen : (u.release k ready).candidate k ready = some x

/-- The state in which context x of core k tries to issue. -/
def trying (u : State) (k x : Nat) : State := { u.modCtx k x (fun c => { c with hold := none }) with cur := (k, x), collect := none }

/-- Context x of core k issues its group in `u`: no wait and no delay stands before it, and the firmware slot has not stolen slot 7. `v` is
the state in which the group issues, with the parameters of a start in place. -/
structure MayIssue (u v : State) (k x : Nat) (g : Group) : Prop where
  steal : ((u.core k).sel.fwSteal && u.fwWork k && !u.fwBeside k (u.slotsOf k x)) = false
  group : (u.ctx k x).group = some g
  wait : (trying u k x).waitCause k x g = none
  entered : (trying u k x).wantedKey k x g.pc.tr = none
  code : (trying u k x).codeHere k x g.pc = true
  delays : (u.ctx k x).delays = []
  copied : (u.ctx k x).mem.tready ≤ u.now
  params : (trying u k x).writeParams k x g = .ready v
  renewals : (u.ctx k x).spec = none ∧ (v.ctx k x).spec = none
  charged : (v.ctx k x).charged = true

/-- The firmware's life-cycle change that waits for a wipe goes forward (R285). -/
def LifeInv (s : State) : Prop := ∀ n, s.lifePending = some n → lifeOrder s.life < lifeOrder n

/-- The slots, types and modifiers of the integer ops of one and two sources: an op whose type or modifier its row does not allow. -/
def illegalInt (o : Op) (i : Instr) : Prop :=
  (∃ r ∈ int2 o, r.instr = i ∧ o.legalD r.opc = false) ∨ ∃ r ∈ int1 o, r.1 = i ∧ o.legalD r.2.1 = false

end Sys2Proof.Claims

/-- R293-R298: words written out from the encoding tables: an ADD of u32 in slot 6, an FFMA of f32 with a guard in slot 4, an LD of u64, a BRN, an
MMA, and a CONST whose long immediate stands in slot 5. -/
def Obligations.DecodeWords : Prop :=
  Reads [0x40008000#32, 0xC0100800#32, 0x00003800#32] (.add { slot := 6, mod := 0x38, dest := 3, a := 1, b := 2 }) ∧
  Reads [0x10008000#32, 0x00501807#32, 0x43025801#32] (.ffma { slot := 4, gq := 2, mod := 0x58, dest := 4, a := 5, b := 6, c := 7 }) ∧
  Reads [0x02008000#32, 0x00200000#32, 0xC0004002#32] (.ld { slot := 1, mod := 0x40, dest := 8, a := 2 }) ∧
  Reads [0x80008000#32, 0x00000010#32, 0x40000000#32] (.brn { slot := 7, c := 16 }) ∧
  Reads [0x01008000#32, 0x00100000#32, 0xA0000000#32] (.mma { slot := 0, a := 1 }) ∧
  Reads [0x60208000#32, 0x4007CC00#32, 0x1C004002#32, 0x00000005#32, 0x00000000#32]
    (.const { slot := 6, mod := 0x40, dest := 9, b := 0x1F3, ext := some 5 })

/-- R293-R298: every well-formed native instruction is read back from its words, whatever words follow it. A TRET is read as its first row,
since its mode stands in a register (R393). -/
def Obligations.NativeRoundTrip : Prop :=
  ∀ (i : Instr) (ws rest : List W32), i.wf = true → encode i = some ws → decode (ws ++ rest) = .ok (i.asDecoded, rest)

/-- R70, R286-R288: every well-formed LPF instruction is read back from its words, whatever words follow it. -/
def Obligations.LpfRoundTrip : Prop :=
  ∀ (i : Lpf.Inst) (rest : List W32), i.wf = true → Lpf.decode (i.words ++ rest) = .ok (i, rest)

/-- R37 and R123-R131: a step runs the instruction that is due. A group of one op at the PC issues that instruction: the windows of
results in flight pass one group, the instruction runs at its bundle, the group goes on behind it, and the cycle is counted. An entry of
the agenda that is due runs as it stands. The order of agenda entries and agents is the model's (DESIGN CHOICE, log 1). The wait at the end of an LPF
block is the model's (DEDUCED, log 13), and so is which groups the firmware slot issues beside a user bundle (DEDUCED, log 78). -/
def Obligations.StepRunsDecoded : Prop :=
  ∀ (s : State),
    (∀ e r, s.phase ≠ .thermalStop → s.agenda = e :: r → e.1 ≤ s.now → step s = exec e.2 { s with agenda := r }) ∧
    ∀ k x ready u g tr b o i v, Turn s u k x ready → MayIssue ((u.release k ready).serve k x) v k x g → OneOp v k g.pc tr b o i →
      v.groupLegal k x g [(g.pc.off, b)] = true → b.hdr.q = false → v.unitsBusy k [i] = false →
      let start := v.modCtx k x fun c => { (c.passWindows.enterShadows v.now) with second := twoCycle k g [i] }
      let at_ := start.atBundle g.pc.off (g.pc.off + b.size)
      let r := exec (answerRow i at_) at_
      let last := Answer.stateOr r start
      v.carryWait last k x g [g.pc.off] [i] = false → (last.ctx k x).hold = none →
      step s = Answer.andThen r fun w => .next ((countCycle k ready (some (x, .issued))
        (finishGroup k x b.hdr.b [g.pc.off] [i] (start.ctx k x) w)).passTurn k
          (some (((u.release k ready).serve k x).slotsOf k x)))

/-- R12, R21, R22, R36, R41, R147 and R301: after a reset every byte of memory reads zero, no core holds a thread, no queue is enabled, no
partition and no key exists, and the control registers hold their reset values. The life-cycle state and the identity key that reset finds
are the model's choice (DESIGN CHOICE, log 9). -/
def Obligations.ResetState : Prop :=
  (∀ pa, State.reset.phys.raw pa = 0) ∧ (∀ k x, (State.reset.ctx k x).state = .empty ∧ (State.reset.ctx k x).threads = []) ∧
  (∀ d q, (State.reset.queue d q).state = .disabled) ∧ State.reset.parts = [] ∧ (∀ i, State.reset.keyOf i = 0) ∧
  (∀ k x, (State.reset.ctx k x).regs.fpctl = 4 ∧ (State.reset.ctx k x).regs.binage = 48) ∧
  State.reset.phase = .wiping ∧ State.reset.canonical = true ∧ LifeInv State.reset

/-- R6 and R21: every step keeps the canonical form of every memory: rising addresses, and no byte listed that an unlisted address reads
as. The form is the model's. -/
def Obligations.StepKeepsMemories : Prop := ∀ s t : State, s.canonical = true → step s = .next t → t.canonical = true

/-- R285: the life-cycle state only moves forward, in every step of every state, and a change that waits for its wipe goes forward. -/
def Obligations.LifeCycleForward : Prop :=
  ∀ s t : State, LifeInv s → step s = .next t → LifeInv t ∧ lifeOrder s.life ≤ lifeOrder t.life

/-- R255 and R299: an integer op of a type or modifier that its row does not allow raises ILLEGAL_OP in every thread of ACTIVE, and has no
other effect. -/
def Sys2Proof.Claims.IllegalTraps : Prop :=
  ∀ (s : State) (o : Op) (i : Instr), illegalInt o i → s.cur.2 < 4 → s.collect = none → s.me.Tidy → s.active o ≠ [] →
    Completes i s fun t => TrapParks s t ((acting s o).map fun th => (th, ⟨.illegalOp, 0, 0⟩))

/-- An instruction that a context may not issue traps and has no other effect. -/
def Obligations.PrivilegeAndIllegalTraps : Prop := PrivilegeTraps ∧ IllegalTraps
end

