-- ==== Sys2Proof/Laws/State.lean ====
section
/-! SUPPORT. What each update of State does to each field of State. -/

namespace Sys2Proof.Machine

variable (s : State)

@[simp] theorem State.modCore_now (k : Nat) (f : Core → Core) : (s.modCore k f).now = s.now := rfl
@[simp] theorem State.modCore_agenda (k : Nat) (f : Core → Core) : (s.modCore k f).agenda = s.agenda := rfl
@[simp] theorem State.modCore_turn (k : Nat) (f : Core → Core) : (s.modCore k f).turn = s.turn := rfl
@[simp] theorem State.modCore_joined (k : Nat) (f : Core → Core) : (s.modCore k f).joined = s.joined := rfl
@[simp] theorem State.modCore_cur (k : Nat) (f : Core → Core) : (s.modCore k f).cur = s.cur := rfl
@[simp] theorem State.modCore_collect (k : Nat) (f : Core → Core) : (s.modCore k f).collect = s.collect := rfl
@[simp] theorem State.modCore_freeCtr (k : Nat) (f : Core → Core) : (s.modCore k f).freeCtr = s.freeCtr := rfl
@[simp] theorem State.modCore_nextWait (k : Nat) (f : Core → Core) : (s.modCore k f).nextWait = s.nextWait := rfl
@[simp] theorem State.modCore_phase (k : Nat) (f : Core → Core) : (s.modCore k f).phase = s.phase := rfl
@[simp] theorem State.modCore_life (k : Nat) (f : Core → Core) : (s.modCore k f).life = s.life := rfl
@[simp] theorem State.modCore_lifePending (k : Nat) (f : Core → Core) : (s.modCore k f).lifePending = s.lifePending := rfl
@[simp] theorem State.modCore_identity (k : Nat) (f : Core → Core) : (s.modCore k f).identity = s.identity := rfl
@[simp] theorem State.modCore_boots (k : Nat) (f : Core → Core) : (s.modCore k f).boots = s.boots := rfl
@[simp] theorem State.modCore_fuses (k : Nat) (f : Core → Core) : (s.modCore k f).fuses = s.fuses := rfl
@[simp] theorem State.modCore_keys (k : Nat) (f : Core → Core) : (s.modCore k f).keys = s.keys := rfl
@[simp] theorem State.modCore_phys (k : Nat) (f : Core → Core) : (s.modCore k f).phys = s.phys := rfl
@[simp] theorem State.modCore_cores (k : Nat) (f : Core → Core) : (s.modCore k f).cores = tmod s.cores k {} f := rfl
@[simp] theorem State.modCore_clusters (k : Nat) (f : Core → Core) : (s.modCore k f).clusters = s.clusters := rfl
@[simp] theorem State.modCore_parts (k : Nat) (f : Core → Core) : (s.modCore k f).parts = s.parts := rfl
@[simp] theorem State.modCore_objs (k : Nat) (f : Core → Core) : (s.modCore k f).objs = s.objs := rfl
@[simp] theorem State.modCore_nextObj (k : Nat) (f : Core → Core) : (s.modCore k f).nextObj = s.nextObj := rfl
@[simp] theorem State.modCore_scanShape (k : Nat) (f : Core → Core) : (s.modCore k f).scanShape = s.scanShape := rfl
@[simp] theorem State.modCore_launches (k : Nat) (f : Core → Core) : (s.modCore k f).launches = s.launches := rfl
@[simp] theorem State.modCore_nextLaunch (k : Nat) (f : Core → Core) : (s.modCore k f).nextLaunch = s.nextLaunch := rfl
@[simp] theorem State.modCore_cohorts (k : Nat) (f : Core → Core) : (s.modCore k f).cohorts = s.cohorts := rfl
@[simp] theorem State.modCore_nextCohort (k : Nat) (f : Core → Core) : (s.modCore k f).nextCohort = s.nextCohort := rfl
@[simp] theorem State.modCore_fes (k : Nat) (f : Core → Core) : (s.modCore k f).fes = s.fes := rfl
@[simp] theorem State.modCore_host (k : Nat) (f : Core → Core) : (s.modCore k f).host = s.host := rfl
@[simp] theorem State.modCore_fabric (k : Nat) (f : Core → Core) : (s.modCore k f).fabric = s.fabric := rfl
@[simp] theorem State.modCore_softErrors (k : Nat) (f : Core → Core) : (s.modCore k f).softErrors = s.softErrors := rfl

@[simp] theorem State.modCtx_now (k x : Nat) (f : Ctx → Ctx) : (s.modCtx k x f).now = s.now := rfl
@[simp] theorem State.modCtx_agenda (k x : Nat) (f : Ctx → Ctx) : (s.modCtx k x f).agenda = s.agenda := rfl
@[simp] theorem State.modCtx_turn (k x : Nat) (f : Ctx → Ctx) : (s.modCtx k x f).turn = s.turn := rfl
@[simp] theorem State.modCtx_joined (k x : Nat) (f : Ctx → Ctx) : (s.modCtx k x f).joined = s.joined := rfl
@[simp] theorem State.modCtx_cur (k x : Nat) (f : Ctx → Ctx) : (s.modCtx k x f).cur = s.cur := rfl
@[simp] theorem State.modCtx_collect (k x : Nat) (f : Ctx → Ctx) : (s.modCtx k x f).collect = s.collect := rfl
@[simp] theorem State.modCtx_freeCtr (k x : Nat) (f : Ctx → Ctx) : (s.modCtx k x f).freeCtr = s.freeCtr := rfl
@[simp] theorem State.modCtx_nextWait (k x : Nat) (f : Ctx → Ctx) : (s.modCtx k x f).nextWait = s.nextWait := rfl
@[simp] theorem State.modCtx_phase (k x : Nat) (f : Ctx → Ctx) : (s.modCtx k x f).phase = s.phase := rfl
@[simp] theorem State.modCtx_life (k x : Nat) (f : Ctx → Ctx) : (s.modCtx k x f).life = s.life := rfl
@[simp] theorem State.modCtx_lifePending (k x : Nat) (f : Ctx → Ctx) : (s.modCtx k x f).lifePending = s.lifePending := rfl
@[simp] theorem State.modCtx_identity (k x : Nat) (f : Ctx → Ctx) : (s.modCtx k x f).identity = s.identity := rfl
@[simp] theorem State.modCtx_boots (k x : Nat) (f : Ctx → Ctx) : (s.modCtx k x f).boots = s.boots := rfl
@[simp] theorem State.modCtx_fuses (k x : Nat) (f : Ctx → Ctx) : (s.modCtx k x f).fuses = s.fuses := rfl
@[simp] theorem State.modCtx_keys (k x : Nat) (f : Ctx → Ctx) : (s.modCtx k x f).keys = s.keys := rfl
@[simp] theorem State.modCtx_phys (k x : Nat) (f : Ctx → Ctx) : (s.modCtx k x f).phys = s.phys := rfl
@[simp] theorem State.modCtx_cores (k x : Nat) (f : Ctx → Ctx) : (s.modCtx k x f).cores = tmod s.cores k {} fun c => c.modCtx x f := rfl
@[simp] theorem State.modCtx_clusters (k x : Nat) (f : Ctx → Ctx) : (s.modCtx k x f).clusters = s.clusters := rfl
@[simp] theorem State.modCtx_parts (k x : Nat) (f : Ctx → Ctx) : (s.modCtx k x f).parts = s.parts := rfl
@[simp] theorem State.modCtx_objs (k x : Nat) (f : Ctx → Ctx) : (s.modCtx k x f).objs = s.objs := rfl
@[simp] theorem State.modCtx_nextObj (k x : Nat) (f : Ctx → Ctx) : (s.modCtx k x f).nextObj = s.nextObj := rfl
@[simp] theorem State.modCtx_scanShape (k x : Nat) (f : Ctx → Ctx) : (s.modCtx k x f).scanShape = s.scanShape := rfl
@[simp] theorem State.modCtx_launches (k x : Nat) (f : Ctx → Ctx) : (s.modCtx k x f).launches = s.launches := rfl
@[simp] theorem State.modCtx_nextLaunch (k x : Nat) (f : Ctx → Ctx) : (s.modCtx k x f).nextLaunch = s.nextLaunch := rfl
@[simp] theorem State.modCtx_cohorts (k x : Nat) (f : Ctx → Ctx) : (s.modCtx k x f).cohorts = s.cohorts := rfl
@[simp] theorem State.modCtx_nextCohort (k x : Nat) (f : Ctx → Ctx) : (s.modCtx k x f).nextCohort = s.nextCohort := rfl
@[simp] theorem State.modCtx_fes (k x : Nat) (f : Ctx → Ctx) : (s.modCtx k x f).fes = s.fes := rfl
@[simp] theorem State.modCtx_host (k x : Nat) (f : Ctx → Ctx) : (s.modCtx k x f).host = s.host := rfl
@[simp] theorem State.modCtx_fabric (k x : Nat) (f : Ctx → Ctx) : (s.modCtx k x f).fabric = s.fabric := rfl
@[simp] theorem State.modCtx_softErrors (k x : Nat) (f : Ctx → Ctx) : (s.modCtx k x f).softErrors = s.softErrors := rfl

@[simp] theorem State.modThread_now (k x t : Nat) (f : Thread → Thread) : (s.modThread k x t f).now = s.now := rfl
@[simp] theorem State.modThread_agenda (k x t : Nat) (f : Thread → Thread) : (s.modThread k x t f).agenda = s.agenda := rfl
@[simp] theorem State.modThread_turn (k x t : Nat) (f : Thread → Thread) : (s.modThread k x t f).turn = s.turn := rfl
@[simp] theorem State.modThread_joined (k x t : Nat) (f : Thread → Thread) : (s.modThread k x t f).joined = s.joined := rfl
@[simp] theorem State.modThread_cur (k x t : Nat) (f : Thread → Thread) : (s.modThread k x t f).cur = s.cur := rfl
@[simp] theorem State.modThread_collect (k x t : Nat) (f : Thread → Thread) : (s.modThread k x t f).collect = s.collect := rfl
@[simp] theorem State.modThread_freeCtr (k x t : Nat) (f : Thread → Thread) : (s.modThread k x t f).freeCtr = s.freeCtr := rfl
@[simp] theorem State.modThread_nextWait (k x t : Nat) (f : Thread → Thread) : (s.modThread k x t f).nextWait = s.nextWait := rfl
@[simp] theorem State.modThread_phase (k x t : Nat) (f : Thread → Thread) : (s.modThread k x t f).phase = s.phase := rfl
@[simp] theorem State.modThread_life (k x t : Nat) (f : Thread → Thread) : (s.modThread k x t f).life = s.life := rfl
@[simp] theorem State.modThread_lifePending (k x t : Nat) (f : Thread → Thread) : (s.modThread k x t f).lifePending = s.lifePending := rfl
@[simp] theorem State.modThread_identity (k x t : Nat) (f : Thread → Thread) : (s.modThread k x t f).identity = s.identity := rfl
@[simp] theorem State.modThread_boots (k x t : Nat) (f : Thread → Thread) : (s.modThread k x t f).boots = s.boots := rfl
@[simp] theorem State.modThread_fuses (k x t : Nat) (f : Thread → Thread) : (s.modThread k x t f).fuses = s.fuses := rfl
@[simp] theorem State.modThread_keys (k x t : Nat) (f : Thread → Thread) : (s.modThread k x t f).keys = s.keys := rfl
@[simp] theorem State.modThread_phys (k x t : Nat) (f : Thread → Thread) : (s.modThread k x t f).phys = s.phys := rfl
@[simp] theorem State.modThread_cores (k x t : Nat) (f : Thread → Thread) : (s.modThread k x t f).cores = tmod s.cores k {} fun c => c.modCtx x fun d => d.modThread t f := rfl
@[simp] theorem State.modThread_clusters (k x t : Nat) (f : Thread → Thread) : (s.modThread k x t f).clusters = s.clusters := rfl
@[simp] theorem State.modThread_parts (k x t : Nat) (f : Thread → Thread) : (s.modThread k x t f).parts = s.parts := rfl
@[simp] theorem State.modThread_objs (k x t : Nat) (f : Thread → Thread) : (s.modThread k x t f).objs = s.objs := rfl
@[simp] theorem State.modThread_nextObj (k x t : Nat) (f : Thread → Thread) : (s.modThread k x t f).nextObj = s.nextObj := rfl
@[simp] theorem State.modThread_scanShape (k x t : Nat) (f : Thread → Thread) : (s.modThread k x t f).scanShape = s.scanShape := rfl
@[simp] theorem State.modThread_launches (k x t : Nat) (f : Thread → Thread) : (s.modThread k x t f).launches = s.launches := rfl
@[simp] theorem State.modThread_nextLaunch (k x t : Nat) (f : Thread → Thread) : (s.modThread k x t f).nextLaunch = s.nextLaunch := rfl
@[simp] theorem State.modThread_cohorts (k x t : Nat) (f : Thread → Thread) : (s.modThread k x t f).cohorts = s.cohorts := rfl
@[simp] theorem State.modThread_nextCohort (k x t : Nat) (f : Thread → Thread) : (s.modThread k x t f).nextCohort = s.nextCohort := rfl
@[simp] theorem State.modThread_fes (k x t : Nat) (f : Thread → Thread) : (s.modThread k x t f).fes = s.fes := rfl
@[simp] theorem State.modThread_host (k x t : Nat) (f : Thread → Thread) : (s.modThread k x t f).host = s.host := rfl
@[simp] theorem State.modThread_fabric (k x t : Nat) (f : Thread → Thread) : (s.modThread k x t f).fabric = s.fabric := rfl
@[simp] theorem State.modThread_softErrors (k x t : Nat) (f : Thread → Thread) : (s.modThread k x t f).softErrors = s.softErrors := rfl

@[simp] theorem State.modMe_now (f : Ctx → Ctx) : (s.modMe f).now = s.now := rfl
@[simp] theorem State.modMe_agenda (f : Ctx → Ctx) : (s.modMe f).agenda = s.agenda := rfl
@[simp] theorem State.modMe_turn (f : Ctx → Ctx) : (s.modMe f).turn = s.turn := rfl
@[simp] theorem State.modMe_joined (f : Ctx → Ctx) : (s.modMe f).joined = s.joined := rfl
@[simp] theorem State.modMe_cur (f : Ctx → Ctx) : (s.modMe f).cur = s.cur := rfl
@[simp] theorem State.modMe_collect (f : Ctx → Ctx) : (s.modMe f).collect = s.collect := rfl
@[simp] theorem State.modMe_freeCtr (f : Ctx → Ctx) : (s.modMe f).freeCtr = s.freeCtr := rfl
@[simp] theorem State.modMe_nextWait (f : Ctx → Ctx) : (s.modMe f).nextWait = s.nextWait := rfl
@[simp] theorem State.modMe_phase (f : Ctx → Ctx) : (s.modMe f).phase = s.phase := rfl
@[simp] theorem State.modMe_life (f : Ctx → Ctx) : (s.modMe f).life = s.life := rfl
@[simp] theorem State.modMe_lifePending (f : Ctx → Ctx) : (s.modMe f).lifePending = s.lifePending := rfl
@[simp] theorem State.modMe_identity (f : Ctx → Ctx) : (s.modMe f).identity = s.identity := rfl
@[simp] theorem State.modMe_boots (f : Ctx → Ctx) : (s.modMe f).boots = s.boots := rfl
@[simp] theorem State.modMe_fuses (f : Ctx → Ctx) : (s.modMe f).fuses = s.fuses := rfl
@[simp] theorem State.modMe_keys (f : Ctx → Ctx) : (s.modMe f).keys = s.keys := rfl
@[simp] theorem State.modMe_phys (f : Ctx → Ctx) : (s.modMe f).phys = s.phys := rfl
@[simp] theorem State.modMe_cores (f : Ctx → Ctx) : (s.modMe f).cores = tmod s.cores s.cur.1 {} fun c => c.modCtx s.cur.2 f := rfl
@[simp] theorem State.modMe_clusters (f : Ctx → Ctx) : (s.modMe f).clusters = s.clusters := rfl
@[simp] theorem State.modMe_parts (f : Ctx → Ctx) : (s.modMe f).parts = s.parts := rfl
@[simp] theorem State.modMe_objs (f : Ctx → Ctx) : (s.modMe f).objs = s.objs := rfl
@[simp] theorem State.modMe_nextObj (f : Ctx → Ctx) : (s.modMe f).nextObj = s.nextObj := rfl
@[simp] theorem State.modMe_scanShape (f : Ctx → Ctx) : (s.modMe f).scanShape = s.scanShape := rfl
@[simp] theorem State.modMe_launches (f : Ctx → Ctx) : (s.modMe f).launches = s.launches := rfl
@[simp] theorem State.modMe_nextLaunch (f : Ctx → Ctx) : (s.modMe f).nextLaunch = s.nextLaunch := rfl
@[simp] theorem State.modMe_cohorts (f : Ctx → Ctx) : (s.modMe f).cohorts = s.cohorts := rfl
@[simp] theorem State.modMe_nextCohort (f : Ctx → Ctx) : (s.modMe f).nextCohort = s.nextCohort := rfl
@[simp] theorem State.modMe_fes (f : Ctx → Ctx) : (s.modMe f).fes = s.fes := rfl
@[simp] theorem State.modMe_host (f : Ctx → Ctx) : (s.modMe f).host = s.host := rfl
@[simp] theorem State.modMe_fabric (f : Ctx → Ctx) : (s.modMe f).fabric = s.fabric := rfl
@[simp] theorem State.modMe_softErrors (f : Ctx → Ctx) : (s.modMe f).softErrors = s.softErrors := rfl

@[simp] theorem State.modHome_now (f : Core → Core) : (s.modHome f).now = s.now := rfl
@[simp] theorem State.modHome_agenda (f : Core → Core) : (s.modHome f).agenda = s.agenda := rfl
@[simp] theorem State.modHome_turn (f : Core → Core) : (s.modHome f).turn = s.turn := rfl
@[simp] theorem State.modHome_joined (f : Core → Core) : (s.modHome f).joined = s.joined := rfl
@[simp] theorem State.modHome_cur (f : Core → Core) : (s.modHome f).cur = s.cur := rfl
@[simp] theorem State.modHome_collect (f : Core → Core) : (s.modHome f).collect = s.collect := rfl
@[simp] theorem State.modHome_freeCtr (f : Core → Core) : (s.modHome f).freeCtr = s.freeCtr := rfl
@[simp] theorem State.modHome_nextWait (f : Core → Core) : (s.modHome f).nextWait = s.nextWait := rfl
@[simp] theorem State.modHome_phase (f : Core → Core) : (s.modHome f).phase = s.phase := rfl
@[simp] theorem State.modHome_life (f : Core → Core) : (s.modHome f).life = s.life := rfl
@[simp] theorem State.modHome_lifePending (f : Core → Core) : (s.modHome f).lifePending = s.lifePending := rfl
@[simp] theorem State.modHome_identity (f : Core → Core) : (s.modHome f).identity = s.identity := rfl
@[simp] theorem State.modHome_boots (f : Core → Core) : (s.modHome f).boots = s.boots := rfl
@[simp] theorem State.modHome_fuses (f : Core → Core) : (s.modHome f).fuses = s.fuses := rfl
@[simp] theorem State.modHome_keys (f : Core → Core) : (s.modHome f).keys = s.keys := rfl
@[simp] theorem State.modHome_phys (f : Core → Core) : (s.modHome f).phys = s.phys := rfl
@[simp] theorem State.modHome_cores (f : Core → Core) : (s.modHome f).cores = tmod s.cores s.cur.1 {} f := rfl
@[simp] theorem State.modHome_clusters (f : Core → Core) : (s.modHome f).clusters = s.clusters := rfl
@[simp] theorem State.modHome_parts (f : Core → Core) : (s.modHome f).parts = s.parts := rfl
@[simp] theorem State.modHome_objs (f : Core → Core) : (s.modHome f).objs = s.objs := rfl
@[simp] theorem State.modHome_nextObj (f : Core → Core) : (s.modHome f).nextObj = s.nextObj := rfl
@[simp] theorem State.modHome_scanShape (f : Core → Core) : (s.modHome f).scanShape = s.scanShape := rfl
@[simp] theorem State.modHome_launches (f : Core → Core) : (s.modHome f).launches = s.launches := rfl
@[simp] theorem State.modHome_nextLaunch (f : Core → Core) : (s.modHome f).nextLaunch = s.nextLaunch := rfl
@[simp] theorem State.modHome_cohorts (f : Core → Core) : (s.modHome f).cohorts = s.cohorts := rfl
@[simp] theorem State.modHome_nextCohort (f : Core → Core) : (s.modHome f).nextCohort = s.nextCohort := rfl
@[simp] theorem State.modHome_fes (f : Core → Core) : (s.modHome f).fes = s.fes := rfl
@[simp] theorem State.modHome_host (f : Core → Core) : (s.modHome f).host = s.host := rfl
@[simp] theorem State.modHome_fabric (f : Core → Core) : (s.modHome f).fabric = s.fabric := rfl
@[simp] theorem State.modHome_softErrors (f : Core → Core) : (s.modHome f).softErrors = s.softErrors := rfl

@[simp] theorem State.modCluster_now (c : Nat) (f : Cluster → Cluster) : (s.modCluster c f).now = s.now := rfl
@[simp] theorem State.modCluster_agenda (c : Nat) (f : Cluster → Cluster) : (s.modCluster c f).agenda = s.agenda := rfl
@[simp] theorem State.modCluster_turn (c : Nat) (f : Cluster → Cluster) : (s.modCluster c f).turn = s.turn := rfl
@[simp] theorem State.modCluster_joined (c : Nat) (f : Cluster → Cluster) : (s.modCluster c f).joined = s.joined := rfl
@[simp] theorem State.modCluster_cur (c : Nat) (f : Cluster → Cluster) : (s.modCluster c f).cur = s.cur := rfl
@[simp] theorem State.modCluster_collect (c : Nat) (f : Cluster → Cluster) : (s.modCluster c f).collect = s.collect := rfl
@[simp] theorem State.modCluster_freeCtr (c : Nat) (f : Cluster → Cluster) : (s.modCluster c f).freeCtr = s.freeCtr := rfl
@[simp] theorem State.modCluster_nextWait (c : Nat) (f : Cluster → Cluster) : (s.modCluster c f).nextWait = s.nextWait := rfl
@[simp] theorem State.modCluster_phase (c : Nat) (f : Cluster → Cluster) : (s.modCluster c f).phase = s.phase := rfl
@[simp] theorem State.modCluster_life (c : Nat) (f : Cluster → Cluster) : (s.modCluster c f).life = s.life := rfl
@[simp] theorem State.modCluster_lifePending (c : Nat) (f : Cluster → Cluster) : (s.modCluster c f).lifePending = s.lifePending := rfl
@[simp] theorem State.modCluster_identity (c : Nat) (f : Cluster → Cluster) : (s.modCluster c f).identity = s.identity := rfl
@[simp] theorem State.modCluster_boots (c : Nat) (f : Cluster → Cluster) : (s.modCluster c f).boots = s.boots := rfl
@[simp] theorem State.modCluster_fuses (c : Nat) (f : Cluster → Cluster) : (s.modCluster c f).fuses = s.fuses := rfl
@[simp] theorem State.modCluster_keys (c : Nat) (f : Cluster → Cluster) : (s.modCluster c f).keys = s.keys := rfl
@[simp] theorem State.modCluster_phys (c : Nat) (f : Cluster → Cluster) : (s.modCluster c f).phys = s.phys := rfl
@[simp] theorem State.modCluster_cores (c : Nat) (f : Cluster → Cluster) : (s.modCluster c f).cores = s.cores := rfl
@[simp] theorem State.modCluster_clusters (c : Nat) (f : Cluster → Cluster) : (s.modCluster c f).clusters = tmod s.clusters c {} f := rfl
@[simp] theorem State.modCluster_parts (c : Nat) (f : Cluster → Cluster) : (s.modCluster c f).parts = s.parts := rfl
@[simp] theorem State.modCluster_objs (c : Nat) (f : Cluster → Cluster) : (s.modCluster c f).objs = s.objs := rfl
@[simp] theorem State.modCluster_nextObj (c : Nat) (f : Cluster → Cluster) : (s.modCluster c f).nextObj = s.nextObj := rfl
@[simp] theorem State.modCluster_scanShape (c : Nat) (f : Cluster → Cluster) : (s.modCluster c f).scanShape = s.scanShape := rfl
@[simp] theorem State.modCluster_launches (c : Nat) (f : Cluster → Cluster) : (s.modCluster c f).launches = s.launches := rfl
@[simp] theorem State.modCluster_nextLaunch (c : Nat) (f : Cluster → Cluster) : (s.modCluster c f).nextLaunch = s.nextLaunch := rfl
@[simp] theorem State.modCluster_cohorts (c : Nat) (f : Cluster → Cluster) : (s.modCluster c f).cohorts = s.cohorts := rfl
@[simp] theorem State.modCluster_nextCohort (c : Nat) (f : Cluster → Cluster) : (s.modCluster c f).nextCohort = s.nextCohort := rfl
@[simp] theorem State.modCluster_fes (c : Nat) (f : Cluster → Cluster) : (s.modCluster c f).fes = s.fes := rfl
@[simp] theorem State.modCluster_host (c : Nat) (f : Cluster → Cluster) : (s.modCluster c f).host = s.host := rfl
@[simp] theorem State.modCluster_fabric (c : Nat) (f : Cluster → Cluster) : (s.modCluster c f).fabric = s.fabric := rfl
@[simp] theorem State.modCluster_softErrors (c : Nat) (f : Cluster → Cluster) : (s.modCluster c f).softErrors = s.softErrors := rfl

@[simp] theorem State.modPhys_now (f : Phys → Phys) : (s.modPhys f).now = s.now := rfl
@[simp] theorem State.modPhys_agenda (f : Phys → Phys) : (s.modPhys f).agenda = s.agenda := rfl
@[simp] theorem State.modPhys_turn (f : Phys → Phys) : (s.modPhys f).turn = s.turn := rfl
@[simp] theorem State.modPhys_joined (f : Phys → Phys) : (s.modPhys f).joined = s.joined := rfl
@[simp] theorem State.modPhys_cur (f : Phys → Phys) : (s.modPhys f).cur = s.cur := rfl
@[simp] theorem State.modPhys_collect (f : Phys → Phys) : (s.modPhys f).collect = s.collect := rfl
@[simp] theorem State.modPhys_freeCtr (f : Phys → Phys) : (s.modPhys f).freeCtr = s.freeCtr := rfl
@[simp] theorem State.modPhys_nextWait (f : Phys → Phys) : (s.modPhys f).nextWait = s.nextWait := rfl
@[simp] theorem State.modPhys_phase (f : Phys → Phys) : (s.modPhys f).phase = s.phase := rfl
@[simp] theorem State.modPhys_life (f : Phys → Phys) : (s.modPhys f).life = s.life := rfl
@[simp] theorem State.modPhys_lifePending (f : Phys → Phys) : (s.modPhys f).lifePending = s.lifePending := rfl
@[simp] theorem State.modPhys_identity (f : Phys → Phys) : (s.modPhys f).identity = s.identity := rfl
@[simp] theorem State.modPhys_boots (f : Phys → Phys) : (s.modPhys f).boots = s.boots := rfl
@[simp] theorem State.modPhys_fuses (f : Phys → Phys) : (s.modPhys f).fuses = s.fuses := rfl
@[simp] theorem State.modPhys_keys (f : Phys → Phys) : (s.modPhys f).keys = s.keys := rfl
@[simp] theorem State.modPhys_phys (f : Phys → Phys) : (s.modPhys f).phys = f s.phys := rfl
@[simp] theorem State.modPhys_cores (f : Phys → Phys) : (s.modPhys f).cores = s.cores := rfl
@[simp] theorem State.modPhys_clusters (f : Phys → Phys) : (s.modPhys f).clusters = s.clusters := rfl
@[simp] theorem State.modPhys_parts (f : Phys → Phys) : (s.modPhys f).parts = s.parts := rfl
@[simp] theorem State.modPhys_objs (f : Phys → Phys) : (s.modPhys f).objs = s.objs := rfl
@[simp] theorem State.modPhys_nextObj (f : Phys → Phys) : (s.modPhys f).nextObj = s.nextObj := rfl
@[simp] theorem State.modPhys_scanShape (f : Phys → Phys) : (s.modPhys f).scanShape = s.scanShape := rfl
@[simp] theorem State.modPhys_launches (f : Phys → Phys) : (s.modPhys f).launches = s.launches := rfl
@[simp] theorem State.modPhys_nextLaunch (f : Phys → Phys) : (s.modPhys f).nextLaunch = s.nextLaunch := rfl
@[simp] theorem State.modPhys_cohorts (f : Phys → Phys) : (s.modPhys f).cohorts = s.cohorts := rfl
@[simp] theorem State.modPhys_nextCohort (f : Phys → Phys) : (s.modPhys f).nextCohort = s.nextCohort := rfl
@[simp] theorem State.modPhys_fes (f : Phys → Phys) : (s.modPhys f).fes = s.fes := rfl
@[simp] theorem State.modPhys_host (f : Phys → Phys) : (s.modPhys f).host = s.host := rfl
@[simp] theorem State.modPhys_fabric (f : Phys → Phys) : (s.modPhys f).fabric = s.fabric := rfl
@[simp] theorem State.modPhys_softErrors (f : Phys → Phys) : (s.modPhys f).softErrors = s.softErrors := rfl

@[simp] theorem State.modHost_now (f : HostLink → HostLink) : (s.modHost f).now = s.now := rfl
@[simp] theorem State.modHost_agenda (f : HostLink → HostLink) : (s.modHost f).agenda = s.agenda := rfl
@[simp] theorem State.modHost_turn (f : HostLink → HostLink) : (s.modHost f).turn = s.turn := rfl
@[simp] theorem State.modHost_joined (f : HostLink → HostLink) : (s.modHost f).joined = s.joined := rfl
@[simp] theorem State.modHost_cur (f : HostLink → HostLink) : (s.modHost f).cur = s.cur := rfl
@[simp] theorem State.modHost_collect (f : HostLink → HostLink) : (s.modHost f).collect = s.collect := rfl
@[simp] theorem State.modHost_freeCtr (f : HostLink → HostLink) : (s.modHost f).freeCtr = s.freeCtr := rfl
@[simp] theorem State.modHost_nextWait (f : HostLink → HostLink) : (s.modHost f).nextWait = s.nextWait := rfl
@[simp] theorem State.modHost_phase (f : HostLink → HostLink) : (s.modHost f).phase = s.phase := rfl
@[simp] theorem State.modHost_life (f : HostLink → HostLink) : (s.modHost f).life = s.life := rfl
@[simp] theorem State.modHost_lifePending (f : HostLink → HostLink) : (s.modHost f).lifePending = s.lifePending := rfl
@[simp] theorem State.modHost_identity (f : HostLink → HostLink) : (s.modHost f).identity = s.identity := rfl
@[simp] theorem State.modHost_boots (f : HostLink → HostLink) : (s.modHost f).boots = s.boots := rfl
@[simp] theorem State.modHost_fuses (f : HostLink → HostLink) : (s.modHost f).fuses = s.fuses := rfl
@[simp] theorem State.modHost_keys (f : HostLink → HostLink) : (s.modHost f).keys = s.keys := rfl
@[simp] theorem State.modHost_phys (f : HostLink → HostLink) : (s.modHost f).phys = s.phys := rfl
@[simp] theorem State.modHost_cores (f : HostLink → HostLink) : (s.modHost f).cores = s.cores := rfl
@[simp] theorem State.modHost_clusters (f : HostLink → HostLink) : (s.modHost f).clusters = s.clusters := rfl
@[simp] theorem State.modHost_parts (f : HostLink → HostLink) : (s.modHost f).parts = s.parts := rfl
@[simp] theorem State.modHost_objs (f : HostLink → HostLink) : (s.modHost f).objs = s.objs := rfl
@[simp] theorem State.modHost_nextObj (f : HostLink → HostLink) : (s.modHost f).nextObj = s.nextObj := rfl
@[simp] theorem State.modHost_scanShape (f : HostLink → HostLink) : (s.modHost f).scanShape = s.scanShape := rfl
@[simp] theorem State.modHost_launches (f : HostLink → HostLink) : (s.modHost f).launches = s.launches := rfl
@[simp] theorem State.modHost_nextLaunch (f : HostLink → HostLink) : (s.modHost f).nextLaunch = s.nextLaunch := rfl
@[simp] theorem State.modHost_cohorts (f : HostLink → HostLink) : (s.modHost f).cohorts = s.cohorts := rfl
@[simp] theorem State.modHost_nextCohort (f : HostLink → HostLink) : (s.modHost f).nextCohort = s.nextCohort := rfl
@[simp] theorem State.modHost_fes (f : HostLink → HostLink) : (s.modHost f).fes = s.fes := rfl
@[simp] theorem State.modHost_host (f : HostLink → HostLink) : (s.modHost f).host = f s.host := rfl
@[simp] theorem State.modHost_fabric (f : HostLink → HostLink) : (s.modHost f).fabric = s.fabric := rfl
@[simp] theorem State.modHost_softErrors (f : HostLink → HostLink) : (s.modHost f).softErrors = s.softErrors := rfl

@[simp] theorem State.modFe_now (d : Nat) (f : FrontEnd → FrontEnd) : (s.modFe d f).now = s.now := rfl
@[simp] theorem State.modFe_agenda (d : Nat) (f : FrontEnd → FrontEnd) : (s.modFe d f).agenda = s.agenda := rfl
@[simp] theorem State.modFe_turn (d : Nat) (f : FrontEnd → FrontEnd) : (s.modFe d f).turn = s.turn := rfl
@[simp] theorem State.modFe_joined (d : Nat) (f : FrontEnd → FrontEnd) : (s.modFe d f).joined = s.joined := rfl
@[simp] theorem State.modFe_cur (d : Nat) (f : FrontEnd → FrontEnd) : (s.modFe d f).cur = s.cur := rfl
@[simp] theorem State.modFe_collect (d : Nat) (f : FrontEnd → FrontEnd) : (s.modFe d f).collect = s.collect := rfl
@[simp] theorem State.modFe_freeCtr (d : Nat) (f : FrontEnd → FrontEnd) : (s.modFe d f).freeCtr = s.freeCtr := rfl
@[simp] theorem State.modFe_nextWait (d : Nat) (f : FrontEnd → FrontEnd) : (s.modFe d f).nextWait = s.nextWait := rfl
@[simp] theorem State.modFe_phase (d : Nat) (f : FrontEnd → FrontEnd) : (s.modFe d f).phase = s.phase := rfl
@[simp] theorem State.modFe_life (d : Nat) (f : FrontEnd → FrontEnd) : (s.modFe d f).life = s.life := rfl
@[simp] theorem State.modFe_lifePending (d : Nat) (f : FrontEnd → FrontEnd) : (s.modFe d f).lifePending = s.lifePending := rfl
@[simp] theorem State.modFe_identity (d : Nat) (f : FrontEnd → FrontEnd) : (s.modFe d f).identity = s.identity := rfl
@[simp] theorem State.modFe_boots (d : Nat) (f : FrontEnd → FrontEnd) : (s.modFe d f).boots = s.boots := rfl
@[simp] theorem State.modFe_fuses (d : Nat) (f : FrontEnd → FrontEnd) : (s.modFe d f).fuses = s.fuses := rfl
@[simp] theorem State.modFe_keys (d : Nat) (f : FrontEnd → FrontEnd) : (s.modFe d f).keys = s.keys := rfl
@[simp] theorem State.modFe_phys (d : Nat) (f : FrontEnd → FrontEnd) : (s.modFe d f).phys = s.phys := rfl
@[simp] theorem State.modFe_cores (d : Nat) (f : FrontEnd → FrontEnd) : (s.modFe d f).cores = s.cores := rfl
@[simp] theorem State.modFe_clusters (d : Nat) (f : FrontEnd → FrontEnd) : (s.modFe d f).clusters = s.clusters := rfl
@[simp] theorem State.modFe_parts (d : Nat) (f : FrontEnd → FrontEnd) : (s.modFe d f).parts = s.parts := rfl
@[simp] theorem State.modFe_objs (d : Nat) (f : FrontEnd → FrontEnd) : (s.modFe d f).objs = s.objs := rfl
@[simp] theorem State.modFe_nextObj (d : Nat) (f : FrontEnd → FrontEnd) : (s.modFe d f).nextObj = s.nextObj := rfl
@[simp] theorem State.modFe_scanShape (d : Nat) (f : FrontEnd → FrontEnd) : (s.modFe d f).scanShape = s.scanShape := rfl
@[simp] theorem State.modFe_launches (d : Nat) (f : FrontEnd → FrontEnd) : (s.modFe d f).launches = s.launches := rfl
@[simp] theorem State.modFe_nextLaunch (d : Nat) (f : FrontEnd → FrontEnd) : (s.modFe d f).nextLaunch = s.nextLaunch := rfl
@[simp] theorem State.modFe_cohorts (d : Nat) (f : FrontEnd → FrontEnd) : (s.modFe d f).cohorts = s.cohorts := rfl
@[simp] theorem State.modFe_nextCohort (d : Nat) (f : FrontEnd → FrontEnd) : (s.modFe d f).nextCohort = s.nextCohort := rfl
@[simp] theorem State.modFe_fes (d : Nat) (f : FrontEnd → FrontEnd) : (s.modFe d f).fes = tmod s.fes d {} f := rfl
@[simp] theorem State.modFe_host (d : Nat) (f : FrontEnd → FrontEnd) : (s.modFe d f).host = s.host := rfl
@[simp] theorem State.modFe_fabric (d : Nat) (f : FrontEnd → FrontEnd) : (s.modFe d f).fabric = s.fabric := rfl
@[simp] theorem State.modFe_softErrors (d : Nat) (f : FrontEnd → FrontEnd) : (s.modFe d f).softErrors = s.softErrors := rfl

@[simp] theorem State.modQueue_now (d q : Nat) (f : Queue → Queue) : (s.modQueue d q f).now = s.now := rfl
@[simp] theorem State.modQueue_agenda (d q : Nat) (f : Queue → Queue) : (s.modQueue d q f).agenda = s.agenda := rfl
@[simp] theorem State.modQueue_turn (d q : Nat) (f : Queue → Queue) : (s.modQueue d q f).turn = s.turn := rfl
@[simp] theorem State.modQueue_joined (d q : Nat) (f : Queue → Queue) : (s.modQueue d q f).joined = s.joined := rfl
@[simp] theorem State.modQueue_cur (d q : Nat) (f : Queue → Queue) : (s.modQueue d q f).cur = s.cur := rfl
@[simp] theorem State.modQueue_collect (d q : Nat) (f : Queue → Queue) : (s.modQueue d q f).collect = s.collect := rfl
@[simp] theorem State.modQueue_freeCtr (d q : Nat) (f : Queue → Queue) : (s.modQueue d q f).freeCtr = s.freeCtr := rfl
@[simp] theorem State.modQueue_nextWait (d q : Nat) (f : Queue → Queue) : (s.modQueue d q f).nextWait = s.nextWait := rfl
@[simp] theorem State.modQueue_phase (d q : Nat) (f : Queue → Queue) : (s.modQueue d q f).phase = s.phase := rfl
@[simp] theorem State.modQueue_life (d q : Nat) (f : Queue → Queue) : (s.modQueue d q f).life = s.life := rfl
@[simp] theorem State.modQueue_lifePending (d q : Nat) (f : Queue → Queue) : (s.modQueue d q f).lifePending = s.lifePending := rfl
@[simp] theorem State.modQueue_identity (d q : Nat) (f : Queue → Queue) : (s.modQueue d q f).identity = s.identity := rfl
@[simp] theorem State.modQueue_boots (d q : Nat) (f : Queue → Queue) : (s.modQueue d q f).boots = s.boots := rfl
@[simp] theorem State.modQueue_fuses (d q : Nat) (f : Queue → Queue) : (s.modQueue d q f).fuses = s.fuses := rfl
@[simp] theorem State.modQueue_keys (d q : Nat) (f : Queue → Queue) : (s.modQueue d q f).keys = s.keys := rfl
@[simp] theorem State.modQueue_phys (d q : Nat) (f : Queue → Queue) : (s.modQueue d q f).phys = s.phys := rfl
@[simp] theorem State.modQueue_cores (d q : Nat) (f : Queue → Queue) : (s.modQueue d q f).cores = s.cores := rfl
@[simp] theorem State.modQueue_clusters (d q : Nat) (f : Queue → Queue) : (s.modQueue d q f).clusters = s.clusters := rfl
@[simp] theorem State.modQueue_parts (d q : Nat) (f : Queue → Queue) : (s.modQueue d q f).parts = s.parts := rfl
@[simp] theorem State.modQueue_objs (d q : Nat) (f : Queue → Queue) : (s.modQueue d q f).objs = s.objs := rfl
@[simp] theorem State.modQueue_nextObj (d q : Nat) (f : Queue → Queue) : (s.modQueue d q f).nextObj = s.nextObj := rfl
@[simp] theorem State.modQueue_scanShape (d q : Nat) (f : Queue → Queue) : (s.modQueue d q f).scanShape = s.scanShape := rfl
@[simp] theorem State.modQueue_launches (d q : Nat) (f : Queue → Queue) : (s.modQueue d q f).launches = s.launches := rfl
@[simp] theorem State.modQueue_nextLaunch (d q : Nat) (f : Queue → Queue) : (s.modQueue d q f).nextLaunch = s.nextLaunch := rfl
@[simp] theorem State.modQueue_cohorts (d q : Nat) (f : Queue → Queue) : (s.modQueue d q f).cohorts = s.cohorts := rfl
@[simp] theorem State.modQueue_nextCohort (d q : Nat) (f : Queue → Queue) : (s.modQueue d q f).nextCohort = s.nextCohort := rfl
@[simp] theorem State.modQueue_fes (d q : Nat) (f : Queue → Queue) : (s.modQueue d q f).fes = tmod s.fes d {} fun e => { e with queues := tmod e.queues q {} f } := rfl
@[simp] theorem State.modQueue_host (d q : Nat) (f : Queue → Queue) : (s.modQueue d q f).host = s.host := rfl
@[simp] theorem State.modQueue_fabric (d q : Nat) (f : Queue → Queue) : (s.modQueue d q f).fabric = s.fabric := rfl
@[simp] theorem State.modQueue_softErrors (d q : Nat) (f : Queue → Queue) : (s.modQueue d q f).softErrors = s.softErrors := rfl

@[simp] theorem State.schedule_now (t : Nat) (i : Instr) : (s.schedule t i).now = s.now := rfl
@[simp] theorem State.schedule_agenda (t : Nat) (i : Instr) : (s.schedule t i).agenda = insertBy (·.1) (t, i) s.agenda := rfl
@[simp] theorem State.schedule_turn (t : Nat) (i : Instr) : (s.schedule t i).turn = s.turn := rfl
@[simp] theorem State.schedule_joined (t : Nat) (i : Instr) : (s.schedule t i).joined = s.joined := rfl
@[simp] theorem State.schedule_cur (t : Nat) (i : Instr) : (s.schedule t i).cur = s.cur := rfl
@[simp] theorem State.schedule_collect (t : Nat) (i : Instr) : (s.schedule t i).collect = s.collect := rfl
@[simp] theorem State.schedule_freeCtr (t : Nat) (i : Instr) : (s.schedule t i).freeCtr = s.freeCtr := rfl
@[simp] theorem State.schedule_nextWait (t : Nat) (i : Instr) : (s.schedule t i).nextWait = s.nextWait := rfl
@[simp] theorem State.schedule_phase (t : Nat) (i : Instr) : (s.schedule t i).phase = s.phase := rfl
@[simp] theorem State.schedule_life (t : Nat) (i : Instr) : (s.schedule t i).life = s.life := rfl
@[simp] theorem State.schedule_lifePending (t : Nat) (i : Instr) : (s.schedule t i).lifePending = s.lifePending := rfl
@[simp] theorem State.schedule_identity (t : Nat) (i : Instr) : (s.schedule t i).identity = s.identity := rfl
@[simp] theorem State.schedule_boots (t : Nat) (i : Instr) : (s.schedule t i).boots = s.boots := rfl
@[simp] theorem State.schedule_fuses (t : Nat) (i : Instr) : (s.schedule t i).fuses = s.fuses := rfl
@[simp] theorem State.schedule_keys (t : Nat) (i : Instr) : (s.schedule t i).keys = s.keys := rfl
@[simp] theorem State.schedule_phys (t : Nat) (i : Instr) : (s.schedule t i).phys = s.phys := rfl
@[simp] theorem State.schedule_cores (t : Nat) (i : Instr) : (s.schedule t i).cores = s.cores := rfl
@[simp] theorem State.schedule_clusters (t : Nat) (i : Instr) : (s.schedule t i).clusters = s.clusters := rfl
@[simp] theorem State.schedule_parts (t : Nat) (i : Instr) : (s.schedule t i).parts = s.parts := rfl
@[simp] theorem State.schedule_objs (t : Nat) (i : Instr) : (s.schedule t i).objs = s.objs := rfl
@[simp] theorem State.schedule_nextObj (t : Nat) (i : Instr) : (s.schedule t i).nextObj = s.nextObj := rfl
@[simp] theorem State.schedule_scanShape (t : Nat) (i : Instr) : (s.schedule t i).scanShape = s.scanShape := rfl
@[simp] theorem State.schedule_launches (t : Nat) (i : Instr) : (s.schedule t i).launches = s.launches := rfl
@[simp] theorem State.schedule_nextLaunch (t : Nat) (i : Instr) : (s.schedule t i).nextLaunch = s.nextLaunch := rfl
@[simp] theorem State.schedule_cohorts (t : Nat) (i : Instr) : (s.schedule t i).cohorts = s.cohorts := rfl
@[simp] theorem State.schedule_nextCohort (t : Nat) (i : Instr) : (s.schedule t i).nextCohort = s.nextCohort := rfl
@[simp] theorem State.schedule_fes (t : Nat) (i : Instr) : (s.schedule t i).fes = s.fes := rfl
@[simp] theorem State.schedule_host (t : Nat) (i : Instr) : (s.schedule t i).host = s.host := rfl
@[simp] theorem State.schedule_fabric (t : Nat) (i : Instr) : (s.schedule t i).fabric = s.fabric := rfl
@[simp] theorem State.schedule_softErrors (t : Nat) (i : Instr) : (s.schedule t i).softErrors = s.softErrors := rfl

@[simp] theorem State.draw1_val : s.draw1.1 = Config.free s.freeCtr := rfl
@[simp] theorem State.draw1_now : s.draw1.2.now = s.now := rfl
@[simp] theorem State.draw1_agenda : s.draw1.2.agenda = s.agenda := rfl
@[simp] theorem State.draw1_turn : s.draw1.2.turn = s.turn := rfl
@[simp] theorem State.draw1_joined : s.draw1.2.joined = s.joined := rfl
@[simp] theorem State.draw1_cur : s.draw1.2.cur = s.cur := rfl
@[simp] theorem State.draw1_collect : s.draw1.2.collect = s.collect := rfl
@[simp] theorem State.draw1_freeCtr : s.draw1.2.freeCtr = s.freeCtr + 1 := rfl
@[simp] theorem State.draw1_nextWait : s.draw1.2.nextWait = s.nextWait := rfl
@[simp] theorem State.draw1_phase : s.draw1.2.phase = s.phase := rfl
@[simp] theorem State.draw1_life : s.draw1.2.life = s.life := rfl
@[simp] theorem State.draw1_lifePending : s.draw1.2.lifePending = s.lifePending := rfl
@[simp] theorem State.draw1_identity : s.draw1.2.identity = s.identity := rfl
@[simp] theorem State.draw1_boots : s.draw1.2.boots = s.boots := rfl
@[simp] theorem State.draw1_fuses : s.draw1.2.fuses = s.fuses := rfl
@[simp] theorem State.draw1_keys : s.draw1.2.keys = s.keys := rfl
@[simp] theorem State.draw1_phys : s.draw1.2.phys = s.phys := rfl
@[simp] theorem State.draw1_cores : s.draw1.2.cores = s.cores := rfl
@[simp] theorem State.draw1_clusters : s.draw1.2.clusters = s.clusters := rfl
@[simp] theorem State.draw1_parts : s.draw1.2.parts = s.parts := rfl
@[simp] theorem State.draw1_objs : s.draw1.2.objs = s.objs := rfl
@[simp] theorem State.draw1_nextObj : s.draw1.2.nextObj = s.nextObj := rfl
@[simp] theorem State.draw1_scanShape : s.draw1.2.scanShape = s.scanShape := rfl
@[simp] theorem State.draw1_launches : s.draw1.2.launches = s.launches := rfl
@[simp] theorem State.draw1_nextLaunch : s.draw1.2.nextLaunch = s.nextLaunch := rfl
@[simp] theorem State.draw1_cohorts : s.draw1.2.cohorts = s.cohorts := rfl
@[simp] theorem State.draw1_nextCohort : s.draw1.2.nextCohort = s.nextCohort := rfl
@[simp] theorem State.draw1_fes : s.draw1.2.fes = s.fes := rfl
@[simp] theorem State.draw1_host : s.draw1.2.host = s.host := rfl
@[simp] theorem State.draw1_fabric : s.draw1.2.fabric = s.fabric := rfl
@[simp] theorem State.draw1_softErrors : s.draw1.2.softErrors = s.softErrors := rfl

@[simp] theorem State.newWait_val : s.newWait.1 = s.nextWait := rfl
@[simp] theorem State.newWait_now : s.newWait.2.now = s.now := rfl
@[simp] theorem State.newWait_agenda : s.newWait.2.agenda = s.agenda := rfl
@[simp] theorem State.newWait_turn : s.newWait.2.turn = s.turn := rfl
@[simp] theorem State.newWait_joined : s.newWait.2.joined = s.joined := rfl
@[simp] theorem State.newWait_cur : s.newWait.2.cur = s.cur := rfl
@[simp] theorem State.newWait_collect : s.newWait.2.collect = s.collect := rfl
@[simp] theorem State.newWait_freeCtr : s.newWait.2.freeCtr = s.freeCtr := rfl
@[simp] theorem State.newWait_nextWait : s.newWait.2.nextWait = s.nextWait + 1 := rfl
@[simp] theorem State.newWait_phase : s.newWait.2.phase = s.phase := rfl
@[simp] theorem State.newWait_life : s.newWait.2.life = s.life := rfl
@[simp] theorem State.newWait_lifePending : s.newWait.2.lifePending = s.lifePending := rfl
@[simp] theorem State.newWait_identity : s.newWait.2.identity = s.identity := rfl
@[simp] theorem State.newWait_boots : s.newWait.2.boots = s.boots := rfl
@[simp] theorem State.newWait_fuses : s.newWait.2.fuses = s.fuses := rfl
@[simp] theorem State.newWait_keys : s.newWait.2.keys = s.keys := rfl
@[simp] theorem State.newWait_phys : s.newWait.2.phys = s.phys := rfl
@[simp] theorem State.newWait_cores : s.newWait.2.cores = s.cores := rfl
@[simp] theorem State.newWait_clusters : s.newWait.2.clusters = s.clusters := rfl
@[simp] theorem State.newWait_parts : s.newWait.2.parts = s.parts := rfl
@[simp] theorem State.newWait_objs : s.newWait.2.objs = s.objs := rfl
@[simp] theorem State.newWait_nextObj : s.newWait.2.nextObj = s.nextObj := rfl
@[simp] theorem State.newWait_scanShape : s.newWait.2.scanShape = s.scanShape := rfl
@[simp] theorem State.newWait_launches : s.newWait.2.launches = s.launches := rfl
@[simp] theorem State.newWait_nextLaunch : s.newWait.2.nextLaunch = s.nextLaunch := rfl
@[simp] theorem State.newWait_cohorts : s.newWait.2.cohorts = s.cohorts := rfl
@[simp] theorem State.newWait_nextCohort : s.newWait.2.nextCohort = s.nextCohort := rfl
@[simp] theorem State.newWait_fes : s.newWait.2.fes = s.fes := rfl
@[simp] theorem State.newWait_host : s.newWait.2.host = s.host := rfl
@[simp] theorem State.newWait_fabric : s.newWait.2.fabric = s.fabric := rfl
@[simp] theorem State.newWait_softErrors : s.newWait.2.softErrors = s.softErrors := rfl

end Sys2Proof.Machine
end

