-- ==== Sys2Proof/Laws/Tables.lean ====
section
/-! SUPPORT. What reading a keyed list, a core, a context or a thread gives after a write, and the small list operations. -/

namespace Sys2Proof.Machine

/-! ### Keyed lists -/

@[simp] theorem tget_tset_self {α : Type} (t : Tab α) (k : Nat) (v : α) : tget (tset t k v) k = some v := by
  induction t with
  | nil => simp [tset, tget]
  | cons e r ih =>
    obtain ⟨j, w⟩ := e
    by_cases h1 : k < j
    · simp [tset, tget, h1]
    · by_cases h2 : k = j
      · simp [tset, tget, h2]
      · have h3 : j ≠ k := fun h => h2 h.symm
        simp [tset, tget, h1, h2, h3, ih]

theorem tget_tset_ne {α : Type} (t : Tab α) {k j : Nat} (v : α) (h : j ≠ k) : tget (tset t k v) j = tget t j := by
  induction t with
  | nil => simp [tset, tget, h.symm]
  | cons e r ih =>
    obtain ⟨i, w⟩ := e
    by_cases h1 : k < i
    · simp [tset, tget, h1, h.symm]
    · by_cases h2 : k = i
      · subst h2; simp [tset, tget, h.symm]
      · simp [tset, tget, h1, h2, ih]

@[simp] theorem tgetD_tset_self {α : Type} (t : Tab α) (k : Nat) (v d : α) : tgetD (tset t k v) k d = v := by
  simp [tgetD]

theorem tgetD_tset_ne {α : Type} (t : Tab α) {k j : Nat} (v d : α) (h : j ≠ k) : tgetD (tset t k v) j d = tgetD t j d := by
  simp [tgetD, tget_tset_ne t v h]

@[simp] theorem tgetD_tmod_self {α : Type} (t : Tab α) (k : Nat) (d : α) (f : α → α) :
    tgetD (tmod t k d f) k d = f (tgetD t k d) := by
  simp [tmod]

theorem tgetD_tmod_ne {α : Type} (t : Tab α) {k j : Nat} (d : α) (f : α → α) (h : j ≠ k) :
    tgetD (tmod t k d f) j d = tgetD t j d := by
  simp [tmod, tgetD_tset_ne t _ _ h]

theorem tset_tset {α : Type} (t : Tab α) (k : Nat) (v w : α) : tset (tset t k v) k w = tset t k w := by
  induction t with
  | nil => simp [tset]
  | cons e r ih =>
    obtain ⟨j, u⟩ := e
    by_cases h1 : k < j
    · simp [tset, h1]
    · by_cases h2 : k = j
      · simp [tset, h2]
      · simp [tset, h1, h2, ih]

theorem tmod_tmod {α : Type} (t : Tab α) (k : Nat) (d : α) (f g : α → α) :
    tmod (tmod t k d f) k d g = tmod t k d fun x => g (f x) := by
  simp [tmod, tset_tset]

/-! ### Cores, contexts, threads -/

@[simp] theorem State.core_modCore (s : State) (k : Nat) (f : Core → Core) : (s.modCore k f).core k = f (s.core k) := by
  simp [State.core]

theorem State.core_modCore_ne (s : State) {k j : Nat} (f : Core → Core) (h : j ≠ k) : (s.modCore k f).core j = s.core j := by
  simp [State.core, tgetD_tmod_ne _ _ _ h]

@[simp] theorem Core.ctx_modCtx (c : Core) (x : Nat) (f : Ctx → Ctx) : (c.modCtx x f).ctx x = f (c.ctx x) := by
  simp [Core.ctx, Core.modCtx]

theorem Core.ctx_modCtx_ne (c : Core) {x y : Nat} (f : Ctx → Ctx) (h : y ≠ x) : (c.modCtx x f).ctx y = c.ctx y := by
  simp [Core.ctx, Core.modCtx, tgetD_tmod_ne _ _ _ h]

@[simp] theorem State.ctx_modCtx (s : State) (k x : Nat) (f : Ctx → Ctx) : (s.modCtx k x f).ctx k x = f (s.ctx k x) := by
  simp [State.ctx, State.modCtx]

@[simp] theorem State.core_modCtx (s : State) (k x : Nat) (f : Ctx → Ctx) :
    (s.modCtx k x f).core k = (s.core k).modCtx x f := by
  simp [State.modCtx]

@[simp] theorem Ctx.thread_modThread (c : Ctx) (t : Nat) (f : Thread → Thread) : (c.modThread t f).thread t = f (c.thread t) := by
  simp [Ctx.thread, Ctx.modThread]

theorem Ctx.thread_modThread_ne (c : Ctx) {t u : Nat} (f : Thread → Thread) (h : u ≠ t) :
    (c.modThread t f).thread u = c.thread u := by
  simp [Ctx.thread, Ctx.modThread, tgetD_tmod_ne _ _ _ h]

@[simp] theorem State.myCore_eq (s : State) : s.myCore = s.cur.1 := rfl
@[simp] theorem State.myCtxNo_eq (s : State) : s.myCtxNo = s.cur.2 := rfl

@[simp] theorem State.me_modMe (s : State) (f : Ctx → Ctx) : (s.modMe f).me = f s.me := by
  simp [State.me, State.modMe]

@[simp] theorem State.home_modMe (s : State) (f : Ctx → Ctx) : (s.modMe f).home = s.home.modCtx s.cur.2 f := by
  simp [State.home, State.modMe]

@[simp] theorem State.home_modHome (s : State) (f : Core → Core) : (s.modHome f).home = f s.home := by
  simp [State.home, State.modHome]

/-! ### Front ends and queues -/

@[simp] theorem State.queue_modQueue (s : State) (d q : Nat) (f : Queue → Queue) : (s.modQueue d q f).queue d q = f (s.queue d q) := by
  simp [State.queue]

/-! ### Lists -/

theorem mem_insertBy {α : Type} (key : α → Nat) (x y : α) (l : List α) : y ∈ insertBy key x l ↔ y = x ∨ y ∈ l := by
  induction l with
  | nil => simp [insertBy]
  | cons z r ih =>
    by_cases h : key x < key z
    · simp [insertBy, h]
    · simp [insertBy, h, ih]; tauto

theorem mem_sortBy {α : Type} (key : α → Nat) (y : α) (l : List α) : y ∈ sortBy key l ↔ y ∈ l := by
  induction l with
  | nil => simp [sortBy]
  | cons z r ih =>
    have : sortBy key (z :: r) = insertBy key z (sortBy key r) := rfl
    rw [this, mem_insertBy, ih]; simp

/-- A scheduled entry is on the agenda, and the entries before it stay. -/
theorem State.mem_schedule (s : State) (t : Nat) (i : Instr) (e : Nat × Instr) :
    e ∈ (s.schedule t i).agenda ↔ e = (t, i) ∨ e ∈ s.agenda := by
  simp [mem_insertBy]

end Sys2Proof.Machine
end

