-- ==== Sys2Proof/Laws/Memory.lean ====
section
/-! SUPPORT. The canonical form of memory: every operation on cells keeps it, and a byte reads as it was last written. -/

namespace Sys2Proof.Machine

theorem Memory.wfFrom_mono {lo hi : Nat} (h : lo ≤ hi) {m : List Host.Cell} (w : Memory.wfFrom hi m) : Memory.wfFrom lo m := by
  cases m with
  | nil => rfl
  | cons e r =>
    obtain ⟨a, b⟩ := e
    simp only [Memory.wfFrom, Bool.and_eq_true, decide_eq_true_eq] at w ⊢
    exact ⟨⟨by omega, w.1.2⟩, w.2⟩

theorem Memory.wf_cellPut_from (m : List Host.Cell) (a : Nat) (b : Byte) (lo : Nat) (ha : lo ≤ a) (w : Memory.wfFrom lo m) :
    Memory.wfFrom lo (cellPut m a b) := by
  induction m generalizing lo with
  | nil => by_cases h : b = 0#8 <;> simp [cellPut, h, Memory.wfFrom, ha]
  | cons e r ih =>
    obtain ⟨j, v⟩ := e
    simp only [Memory.wfFrom, Bool.and_eq_true, decide_eq_true_eq] at w
    obtain ⟨⟨w1, w2⟩, w3⟩ := w
    by_cases h1 : a < j
    · by_cases h : b = 0#8
      · simp [cellPut, h1, h, Memory.wfFrom, w1, w2, w3]
      · simp [cellPut, h1, h, Memory.wfFrom, ha, w2, w3]
    · by_cases h2 : a = j
      · subst h2
        by_cases h : b = 0#8
        · simp only [cellPut, h, if_true, lt_irrefl, if_false]; exact Memory.wfFrom_mono (by omega) w3
        · simp [cellPut, h, Memory.wfFrom, ha, w3]
      · simp only [cellPut, h1, h2, if_false, Memory.wfFrom, Bool.and_eq_true, decide_eq_true_eq]
        exact ⟨⟨w1, w2⟩, ih (j + 1) (by omega) w3⟩

/-- A write of one byte keeps the canonical form. -/
theorem Memory.wf_cellPut {m : List Host.Cell} (a : Nat) (b : Byte) (w : Memory.wf m) : Memory.wf (cellPut m a b) :=
  Memory.wf_cellPut_from m a b 0 (Nat.zero_le a) w

/-- A write of many bytes keeps the canonical form. -/
theorem Memory.wf_cellPuts {m : List Host.Cell} (bs : List (Nat × Byte)) (w : Memory.wf m) : Memory.wf (cellPuts m bs) := by
  unfold cellPuts
  induction bs generalizing m with
  | nil => exact w
  | cons e r ih => exact ih (Memory.wf_cellPut e.1 e.2 w)

theorem Memory.wf_filter_from (p : Host.Cell → Bool) (m : List Host.Cell) (lo : Nat) (w : Memory.wfFrom lo m) :
    Memory.wfFrom lo (m.filter p) := by
  induction m generalizing lo with
  | nil => rfl
  | cons e r ih =>
    obtain ⟨j, v⟩ := e
    simp only [Memory.wfFrom, Bool.and_eq_true, decide_eq_true_eq] at w
    by_cases h : p (j, v)
    · simp only [List.filter_cons, h, if_true, Memory.wfFrom, Bool.and_eq_true, decide_eq_true_eq]
      exact ⟨w.1, ih (j + 1) w.2⟩
    · simp only [List.filter_cons, h]
      exact Memory.wfFrom_mono (by omega) (ih (j + 1) w.2)

/-- Dropping cells keeps the canonical form. -/
theorem Memory.wf_filter {m : List Host.Cell} (p : Host.Cell → Bool) (w : Memory.wf m) : Memory.wf (m.filter p) :=
  Memory.wf_filter_from p m 0 w

theorem Memory.wf_nil : Memory.wf [] := rfl

theorem Memory.cellAt_below {m : List Host.Cell} {lo a : Nat} (w : Memory.wfFrom lo m) (h : a < lo) : cellAt m a = 0#8 := by
  induction m generalizing lo with
  | nil => rfl
  | cons e r ih =>
    obtain ⟨j, v⟩ := e
    simp only [Memory.wfFrom, Bool.and_eq_true, decide_eq_true_eq] at w
    have : j ≠ a := by omega
    simp only [cellAt, this, if_false]
    exact ih w.2 (by omega)

/-- A byte reads as it was written. -/
theorem Memory.cellAt_cellPut_self {m : List Host.Cell} (a : Nat) (b : Byte) (w : Memory.wf m) : cellAt (cellPut m a b) a = b := by
  have key : ∀ lo, Memory.wfFrom lo m → cellAt (cellPut m a b) a = b := by
    clear w
    induction m with
    | nil => intro lo _; by_cases h : b = 0#8 <;> simp [cellPut, h, cellAt]
    | cons e r ih =>
      obtain ⟨j, v⟩ := e
      intro lo w
      simp only [Memory.wfFrom, Bool.and_eq_true, decide_eq_true_eq] at w
      by_cases h1 : a < j
      · by_cases h : b = 0#8
        · have hj : j ≠ a := by omega
          simp only [cellPut, h1, h, if_true, cellAt, hj, if_false]
          exact Memory.cellAt_below w.2 (by omega)
        · simp [cellPut, h1, h, cellAt]
      · by_cases h2 : a = j
        · subst h2
          by_cases h : b = 0#8
          · simp only [cellPut, h, lt_irrefl, if_true, if_false]
            exact Memory.cellAt_below w.2 (by omega)
          · simp [cellPut, h, cellAt]
        · have hj : j ≠ a := fun h => h2 h.symm
          simp only [cellPut, h1, h2, if_false, cellAt, hj]
          exact ih (j + 1) w.2
  exact key 0 w

/-- A write leaves every other byte alone. -/
theorem Memory.cellAt_cellPut_ne (m : List Host.Cell) {a c : Nat} (b : Byte) (h : c ≠ a) : cellAt (cellPut m a b) c = cellAt m c := by
  induction m with
  | nil => by_cases hb : b = 0#8 <;> simp [cellPut, hb, cellAt, h.symm]
  | cons e r ih =>
    obtain ⟨j, v⟩ := e
    by_cases h1 : a < j
    · by_cases hb : b = 0#8 <;> simp [cellPut, h1, hb, cellAt, h.symm]
    · by_cases h2 : a = j
      · subst h2; by_cases hb : b = 0#8 <;> simp [cellPut, hb, cellAt, h.symm]
      · simp [cellPut, h1, h2, cellAt, ih]

/-- Bytes outside the written ones stay. -/
theorem Memory.cellAt_cellPuts_ne (bs : List (Nat × Byte)) (m : List Host.Cell) {c : Nat} (h : ∀ e ∈ bs, e.1 ≠ c) :
    cellAt (cellPuts m bs) c = cellAt m c := by
  unfold cellPuts
  induction bs generalizing m with
  | nil => rfl
  | cons e r ih =>
    have := ih (cellPut m e.1 e.2) fun x hx => h x (List.mem_cons_of_mem _ hx)
    simp only [List.foldl_cons, this]
    exact Memory.cellAt_cellPut_ne m e.2 (h e List.mem_cons_self).symm

/-! ### The pillars, the stash and operand memory -/

theorem Phys.rekey_dram (p : Phys) (l : Nat) (key : Option Nat) : (p.rekey l key).dram = p.dram := by
  unfold Phys.rekey; repeat' (first | rfl | split)

theorem Phys.rekeys_dram (ls : List Nat) (p : Phys) (key : Option Nat) : (ls.foldl (fun p l => p.rekey l key) p).dram = p.dram := by
  induction ls generalizing p with
  | nil => rfl
  | cons l r ih => simp [ih, Phys.rekey_dram]

/-- A write at the home slice leaves the pillars as they are until a flush (R204). -/
theorem Phys.put_dram (p : Phys) (key : Option Nat) (bs : List (Nat × Byte)) : (p.put key bs).dram = p.dram := by
  simp [Phys.put, Phys.rekeys_dram]

theorem Phys.wf_flush {p : Phys} (ok : Nat → Bool) (w : Memory.wf p.dram) : Memory.wf (p.flush ok).dram :=
  Memory.wf_cellPuts _ w

/-- A pillar line that takes a new key keeps the form (R181). -/
theorem Phys.wf_rekeyDram {p : Phys} (l : Nat) (key : Option Nat) (w : Memory.wf p.dram) : Memory.wf (p.rekeyDram l key).dram := by
  unfold Phys.rekeyDram
  split
  · exact w
  · simp only
    split
    · exact w
    · split
      · exact w
      · dsimp only; exact Memory.wf_cellPuts _ w

theorem Phys.wf_putDram {p : Phys} (key : Option Nat) (bs : List (Nat × Byte)) (w : Memory.wf p.dram) :
    Memory.wf (p.putDram key bs).dram := by
  have all : ∀ (ls : List Nat) (q : Phys), Memory.wf q.dram → Memory.wf (ls.foldl (fun p l => p.rekeyDram l key) q).dram := by
    intro ls
    induction ls with
    | nil => exact fun _ h => h
    | cons l r ih => exact fun q h => ih _ (Phys.wf_rekeyDram l key h)
  unfold Phys.putDram
  refine Memory.wf_cellPuts bs ?_
  exact all _ _ (Phys.wf_flush _ w)

/-- New contents for parts of a pillar keep the form, whatever the cells are. -/
theorem Phys.wf_replace {p : Phys} (key : Nat) (inside : Nat → Bool) (cells : List Host.Cell) (w : Memory.wf p.dram) :
    Memory.wf (p.replace key inside cells).dram := by
  dsimp only [Phys.replace]; exact Memory.wf_cellPuts _ (Memory.wf_filter _ w)

/-- The cells of a record to be written are in canonical form (R266). -/
theorem State.wf_saveCells (s : State) (r : SaveRec) : Memory.wf (s.saveCells r) := Memory.wf_cellPuts _ Memory.wf_nil

/-- The record that the bytes of a slot give keeps its share and its operand memory in canonical form (R263). -/
theorem State.record_canonical {s : State} {k n : Nat} {r : SaveRec} (h : s.record k n = some r)
    (w : ∀ r0, tget (s.core k).saves n = some r0 → Memory.wf r0.share) : Memory.wf r.share ∧ Memory.wf r.opmem := by
  unfold State.record at h
  cases hr : tget (s.core k).saves n with
  | none => rw [hr] at h; cases h
  | some r0 =>
    rw [hr] at h
    simp only [Option.map_some, Option.some.injEq] at h
    subst h
    exact ⟨Memory.wf_cellPuts _ (Memory.wf_filter _ (w r0 hr)), Memory.wf_cellPuts _ Memory.wf_nil⟩

end Sys2Proof.Machine
end

