-- ==== Sys2Proof/Laws/Ops.lean ====
section
/-! SUPPORT. What each operation shared by the native ops can do: raise traps or have its effect, send a result on its way, wait. -/

namespace Sys2Proof.Machine

/-! ### Traps or effect (R9, R255) -/

@[simp] theorem runOp_nil (slot : Nat) (eff : State → State) (s : State) : runOp slot [] eff s = eff s := rfl

theorem runOp_trap (slot : Nat) {traps : List (Nat × Trap)} (h : traps ≠ []) (eff : State → State) (s : State) :
    runOp slot traps eff s = s.trapped slot traps := by
  cases traps with
  | nil => exact absurd rfl h
  | cons a r => rfl

/-- Outside a bundle of several ops the traps are taken at once. -/
theorem State.trapped_alone {s : State} (h : s.collect = none) (slot : Nat) (traps : List (Nat × Trap)) :
    s.trapped slot traps = s.takeTraps s.cur.1 s.cur.2 traps := by
  unfold State.trapped; rw [h]; rfl

/-- Inside one, they are gathered with the op's slot. -/
theorem State.trapped_in {s : State} {l : List (Nat × Nat × Trap)} (h : s.collect = some l) (slot : Nat) (traps : List (Nat × Trap)) :
    s.trapped slot traps = { s with collect := some (l ++ traps.map fun e => (slot, e.1, e.2)) } := by
  unfold State.trapped; rw [h]

/-! ### Checks -/

@[simp] theorem State.illegalUnless_true (s : State) (o : Op) : s.illegalUnless o true = [] := rfl

theorem State.rfTraps_nil {s : State} {o : Op} {srcs : List (Nat × Nat)}
    (h : ∀ e ∈ s.active o, ∀ r ∈ srcs, isReg r.1 = true → ∀ n ∈ (s.me.thread e.2).poisoned, ¬(r.1 ≤ n ∧ n < r.1 + r.2)) :
    s.rfTraps o srcs = [] := by
  unfold State.rfTraps
  rw [List.map_eq_nil_iff, List.filter_eq_nil_iff]
  intro e he
  simp only [List.any_eq_true, Bool.and_eq_true, decide_eq_true_eq, not_exists, not_and]
  intro r hr hreg n hn h1 h2
  exact h e he r hr hreg n hn ⟨h1, h2⟩

theorem Readable.srcTraps {s : State} {o : Op} {srcs : List (Nat × Nat)} (h : Readable s o srcs) : s.srcTraps o true srcs = [] := by
  have h1 : (srcs.all fun r => srcOk o r.1 r.2) = true := List.all_eq_true.2 h.runs
  simp [State.srcTraps, h1, State.rfTraps_nil h.clean]

theorem Sound.readable {s : State} {o : Op} {srcs : List (Nat × Nat)} {d n : Nat} (h : Sound s o srcs d n) : Readable s o srcs :=
  ⟨h.runs, h.clean⟩

theorem Sound.srcTraps {s : State} {o : Op} {srcs : List (Nat × Nat)} {d n : Nat} (h : Sound s o srcs d n) :
    s.srcTraps o true srcs = [] := h.readable.srcTraps

theorem Sound.copyTraps {s : State} {o : Op} {srcs : List (Nat × Nat)} {d n : Nat} (h : Sound s o srcs d n) :
    s.copyTraps o d n = [] := by
  unfold State.copyTraps
  split
  next hl =>
    rw [List.map_eq_nil_iff, List.filter_eq_nil_iff]
    intro e he
    simp [h.room hl e he]
  next => rfl

/-! ### Results on their way (R126-R129) -/

theorem State.perLane_threads (s : State) (o : Op) (v : Nat → Nat → List Word) : (s.perLane o v).map (·.1) = (s.active o).map (·.2) := by
  simp [State.perLane, Function.comp_def]

/-- The landings that `State.land` adds. -/
theorem State.land_lands (s : State) (o : Op) (kind : DestKind) (dest width lat : Nat) (v : Nat → Nat → List Word)
    (flags : Nat) (exc : List (Nat × Nat)) (traps : List (Nat × Trap)) :
    ∃ ls, Lands s (s.land o kind dest width lat (s.perLane o v) flags exc traps) o kind dest width lat 1 v ls ∧
      (∀ l ∈ ls, l.exc = exc ∧ (l.flags = flags ∨ l.flags = 0) ∧ ∀ x ∈ l.traps, x ∈ traps) ∧ ∃ l ∈ ls, l.flags = flags := by
  have act : ∀ e, e ∈ s.active o → e ∈ s.group.lanes := fun e h => (List.mem_filter.1 h).1
  have idl : ∀ e, e ∈ s.idle o → e ∈ s.group.lanes := fun e h => (List.mem_filter.1 h).1
  have mem : ∀ p, p ∈ s.perLane o v → ∃ e ∈ s.active o, p = (e.2, v e.1 e.2) := by
    intro p hp
    obtain ⟨e, he, rfl⟩ := List.mem_map.1 hp
    exact ⟨e, he, rfl⟩
  have giv : ∀ e, e ∈ s.active o → (e.2, v e.1 e.2) ∈ s.perLane o v := fun e he => List.mem_map.2 ⟨e, he, rfl⟩
  by_cases hh : s.halved o = true
  · unfold State.land
    simp only [hh, if_true, State.perLane_threads]
    refine ⟨_, ⟨by simp only [le_refl, if_true]; rfl, ?_, ?_, ?_, ?_, ?_⟩, ?_, ?_⟩
    · intro l hl
      simp only [List.mem_cons, List.not_mem_nil, or_false] at hl
      rcases hl with rfl | rfl <;> simp [interlocked]
    · intro l hl
      simp only [List.mem_cons, List.not_mem_nil, or_false] at hl
      rcases hl with rfl | rfl <;> exact ⟨rfl, rfl, rfl, rfl⟩
    · intro e he
      by_cases h16 : e.1 < 16
      · refine ⟨_, List.mem_cons_self, ?_, ?_⟩
        · simp only [List.mem_filter, List.contains_iff_mem, List.mem_map]
          exact ⟨giv e he, e, ⟨act e he, by simpa using h16⟩, rfl⟩
        · have : ¬ 16 ≤ e.1 := by omega
          simp [State.after, dueIn, this]
      · refine ⟨_, List.mem_cons_of_mem _ List.mem_cons_self, ?_, ?_⟩
        · simp only [List.mem_filter, List.contains_iff_mem, List.mem_map]
          exact ⟨giv e he, e, ⟨act e he, by simpa using (by omega : 16 ≤ e.1)⟩, rfl⟩
        · have : 16 ≤ e.1 := by omega
          simp [State.after, dueIn, this, hh]
    · intro l hl p hp
      simp only [List.mem_cons, List.not_mem_nil, or_false] at hl
      rcases hl with rfl | rfl <;> exact mem p (List.mem_filter.1 hp).1
    · intro hd e he
      have hz : (if (isReg dest || kind == DestKind.pred) = true then List.map (fun x => x.2) (s.idle o) else []) =
          (s.idle o).map (·.2) := by
        rcases hd with hd | hd <;> simp [hd]
      by_cases h16 : e.1 < 16
      · refine ⟨_, List.mem_cons_self, ?_, ?_⟩
        · simp only [hz, List.mem_filter, List.contains_iff_mem, List.mem_map]
          exact ⟨⟨e, he, rfl⟩, e, ⟨idl e he, by simpa using h16⟩, rfl⟩
        · have : ¬ 16 ≤ e.1 := by omega
          simp [State.after, dueIn, this]
      · refine ⟨_, List.mem_cons_of_mem _ List.mem_cons_self, ?_, ?_⟩
        · simp only [hz, List.mem_filter, List.contains_iff_mem, List.mem_map]
          exact ⟨⟨e, he, rfl⟩, e, ⟨idl e he, by simpa using (by omega : 16 ≤ e.1)⟩, rfl⟩
        · have : 16 ≤ e.1 := by omega
          simp [State.after, dueIn, this, hh]
    · intro l hl
      simp only [List.mem_cons, List.not_mem_nil, or_false] at hl
      rcases hl with rfl | rfl
      · exact ⟨rfl, .inr rfl, fun x hx => (List.mem_filter.1 hx).1⟩
      · exact ⟨rfl, .inl rfl, fun x hx => (List.mem_filter.1 hx).1⟩
    · exact ⟨_, List.mem_cons_of_mem _ List.mem_cons_self, rfl⟩
  · unfold State.land
    simp only [hh, if_false, Bool.false_eq_true, State.perLane_threads]
    refine ⟨_, ⟨by simp only [le_refl, if_true]; rfl, ?_, ?_, ?_, ?_, ?_⟩, ?_, ?_⟩
    · intro l hl
      simp only [List.mem_cons, List.not_mem_nil, or_false] at hl
      subst hl; simp [interlocked]
    · intro l hl
      simp only [List.mem_cons, List.not_mem_nil, or_false] at hl
      subst hl; exact ⟨rfl, rfl, rfl, rfl⟩
    · intro e he
      refine ⟨_, List.mem_cons_self, ?_, ?_⟩
      · simp only [List.mem_filter, List.contains_iff_mem, List.mem_map]
        exact ⟨giv e he, e, ⟨act e he, trivial⟩, rfl⟩
      · simp [State.after, dueIn, hh]
    · intro l hl p hp
      simp only [List.mem_cons, List.not_mem_nil, or_false] at hl
      subst hl; exact mem p (List.mem_filter.1 hp).1
    · intro hd e he
      have hz : (if (isReg dest || kind == DestKind.pred) = true then List.map (fun x => x.2) (s.idle o) else []) =
          (s.idle o).map (·.2) := by
        rcases hd with hd | hd <;> simp [hd]
      refine ⟨_, List.mem_cons_self, ?_, ?_⟩
      · simp only [hz, List.mem_filter, List.contains_iff_mem, List.mem_map]
        exact ⟨⟨e, he, rfl⟩, e, ⟨idl e he, trivial⟩, rfl⟩
      · simp [State.after, dueIn, hh]
    · intro l hl
      simp only [List.mem_cons, List.not_mem_nil, or_false] at hl
      subst hl
      exact ⟨rfl, .inl rfl, fun x hx => hx⟩
    · exact ⟨_, List.mem_cons_self, rfl⟩

theorem State.landUnit_lands (s : State) (o : Op) (kind : DestKind) (dest width lat interval : Nat) (v : Nat → Nat → List Word)
    (flags : Nat) (exc : List (Nat × Nat)) (traps : List (Nat × Trap)) :
    ∃ ls, Lands s ((s.land o kind dest width lat (s.perLane o v) flags exc traps).useUnit o interval) o kind dest width lat
        interval v ls ∧ (∀ l ∈ ls, l.exc = exc ∧ (l.flags = flags ∨ l.flags = 0) ∧ ∀ x ∈ l.traps, x ∈ traps) ∧ ∃ l ∈ ls, l.flags = flags := by
  obtain ⟨ls, ⟨h1, h2, h3, h4, h5, h6⟩, h7⟩ := s.land_lands o kind dest width lat v flags exc traps
  refine ⟨ls, ⟨?_, h2, h3, h4, h5, h6⟩, h7⟩
  simp only [le_refl, if_true] at h1
  rw [h1]
  unfold State.useUnit
  split
  · rfl
  · unfold State.claimLast; split <;> rfl

theorem State.landUnit_gives (s : State) (o : Op) (kind : DestKind) (dest width lat interval : Nat) (v : Nat → Nat → List Word) :
    Gives s ((s.land o kind dest width lat (s.perLane o v) 0 [] []).useUnit o interval) o kind dest width lat interval v := by
  obtain ⟨ls, h1, h2, -⟩ := s.landUnit_lands o kind dest width lat interval v 0 [] []
  refine ⟨ls, h1, fun l hl => ⟨?_, (h2 l hl).1, ?_⟩⟩
  · rcases (h2 l hl).2.1 with h | h <;> exact h
  · exact List.eq_nil_iff_forall_not_mem.2 fun x hx => by simpa using (h2 l hl).2.2 x hx

theorem State.land_gives (s : State) (o : Op) (kind : DestKind) (dest width lat : Nat) (v : Nat → Nat → List Word) :
    Gives s (s.land o kind dest width lat (s.perLane o v) 0 [] []) o kind dest width lat 1 v :=
  s.landUnit_gives o kind dest width lat 1 v

/-- An op of one plain result gives it when its checks pass. -/
theorem State.produce_gives {s : State} {o : Op} {srcs : List (Nat × Nat)} {ok : Bool} {ty lat interval : Nat}
    {f : Nat → Nat → List Nat} (hok : ok = true) (h : Sound s o srcs o.dest.toNat (o.regsOf ty)) :
    Gives s (s.produce o ok srcs [] ty lat interval f) o .reg o.dest.toNat (o.regsOf ty) lat interval
      fun l t => o.resultWords ty (f l t) := by
  unfold State.produce
  simp only [hok, h.target, Bool.and_true, h.srcTraps, h.copyTraps, List.append_nil, runOp_nil]
  exact s.landUnit_gives o _ _ _ _ _ _

/-! ### Stubs (R115) -/

theorem State.askStub_holds {s : State} {key : TKey} {e : Nat × Trans} (h : s.StubHolds key e) (asked : Nat) :
    s.askStub s.myCore s.myCtxNo key asked = (.present e.1 e.2, s) := by
  obtain ⟨hf, st, pa, h1, h2, h3⟩ := h
  have hn : (s.ctx s.myCore s.myCtxNo).failed.find? (fun f => f.1 == key) = none := by
    rw [List.find?_eq_none]
    intro f hm; simpa using hf f hm
  have h1' : s.stub (clusterOf s.myCore) key = some st := h1
  have h3' : tget (s.cluster (clusterOf s.myCore)).trans e.1 = some e.2 := h3
  unfold State.askStub
  simp only [hn, h1', h2, h3']

/-- Where every stub holds its translation, each thread gets its own and the state stays. -/
theorem State.askAll_holds (s : State) (ent : Nat → Nat × Trans) (asks : List (Nat × TKey))
    (h : ∀ a ∈ asks, s.StubHolds a.2 (ent a.1)) :
    s.askAll asks = ({ ready := asks.map fun a => ⟨a.1, (ent a.1).1, (ent a.1).2⟩ }, s) := by
  suffices H : ∀ (l : List (Nat × TKey)) (acc : Entries), (∀ a ∈ l, s.StubHolds a.2 (ent a.1)) →
      l.foldl (fun (acc : Entries × State) a =>
        match acc.2.askStub acc.2.myCore acc.2.myCtxNo a.2 (acc.2.me.thread a.1).budgetFrom with
        | (.present tr t, s') => ({ acc.1 with ready := acc.1.ready ++ [⟨a.1, tr, t⟩] }, s')
        | (.waits, s') => ({ acc.1 with waiting := true }, s')
        | (.failed r, s') => ({ acc.1 with failed := acc.1.failed ++ [(a.1, r, a.2)] }, s')) (acc, s) =
      ({ acc with ready := acc.ready ++ l.map fun a => ⟨a.1, (ent a.1).1, (ent a.1).2⟩ }, s) by
    exact (H asks {} h).trans (by simp)
  intro l
  induction l with
  | nil => intro acc _; simp
  | cons a r ih =>
    intro acc hl
    rw [List.foldl_cons]
    simp only [State.askStub_holds (hl a (by simp))]
    rw [ih _ fun b hb => hl b (by simp [hb])]
    simp

end Sys2Proof.Machine
end

