-- ==== Sys2Proof/Laws/PerInstr.lean ====
section
/-! SUPPORT. Every instruction that has a native op is read back by the opcode map of each slot that its class admits (R291, R297, R298):
the class and code that it is encoded under and the map that decoding uses are the same table. One lemma for each constructor. -/

namespace Sys2Proof.Laws.Coded

open Sys2Proof

/-- A well-formed instruction with a native op is what the opcode map gives for its slot and code; a TRET is read as its first row. -/
def Statement (i : Instr) : Prop :=
  i.wf = true → ∀ c n o, i.code = some (c, n, o) → decodeOp o.slot n o = .ok i.asDecoded

/-- The map of the slots of a class decides, given the bits of MOD that tell rows apart. -/
theorem of_slots {i : Instr} {c : Cls} {n : Nat} {o : Op} (hc : i.code = some (c, n, o)) (hw : i.wf = (o.wf c && i.modOk))
    (hd : i.modOk = true → ∀ s ∈ c.slots, decodeOp s n o = .ok i.asDecoded) : Statement i := by
  intro h c2 n2 o2 e
  rw [hc] at e
  simp only [Option.some.injEq, Prod.mk.injEq] at e
  obtain ⟨rfl, rfl, rfl⟩ := e
  rw [hw, Bool.and_eq_true] at h
  have hs : o.slot ∈ c.slots := by
    have := h.1
    simp only [Op.wf, Bool.and_eq_true] at this
    exact List.contains_iff_mem.mp this.1.1
  exact hd h.2 _ hs

/-- A step without a native op has nothing to read back. -/
theorem of_none {i : Instr} (hc : i.code = none) : Statement i := fun _ _ _ _ e => by rw [hc] at e; cases e

theorem in_one {P : Nat → Prop} {a : Nat} (ha : P a) : ∀ s ∈ [a], P s := by simpa using ha
theorem in_two {P : Nat → Prop} {a b : Nat} (ha : P a) (hb : P b) : ∀ s ∈ [a, b], P s := by simpa using ⟨ha, hb⟩
theorem in_three {P : Nat → Prop} {a b c : Nat} (ha : P a) (hb : P b) (hc : P c) : ∀ s ∈ [a, b, c], P s := by simpa using ⟨ha, hb, hc⟩

theorem deviceReset (kind : ResetKind) : Statement (.deviceReset kind) := of_none rfl
theorem wipeComplete : Statement (.wipeComplete) := of_none rfl
theorem thermalStop (die : Nat) : Statement (.thermalStop die) := of_none rfl
theorem lifeCycleChange (next : LifeCycle) : Statement (.lifeCycleChange next) := of_none rfl
theorem powerLossDuringWipe : Statement (.powerLossDuringWipe) := of_none rfl
theorem partitionCreate (req : PartReq) : Statement (.partitionCreate req) := of_none rfl
theorem partitionReset (part : Nat) : Statement (.partitionReset part) := of_none rfl
theorem loadObject (part : Nat) (image : CodeImage) : Statement (.loadObject part image) := of_none rfl
theorem unloadObject (obj : Nat) : Statement (.unloadObject obj) := of_none rfl
theorem workgroupStart (launch core : Nat) : Statement (.workgroupStart launch core) := of_none rfl
theorem binAged (core ctx bin : Nat) : Statement (.binAged core ctx bin) := of_none rfl
theorem draw (core ctx : Nat) : Statement (.draw core ctx) := of_none rfl
theorem quantumExpiry (core : Nat) : Statement (.quantumExpiry core) := of_none rfl
theorem priorityBoost (core ctx : Nat) : Statement (.priorityBoost core ctx) := of_none rfl
theorem firmwareCtlSteal (core : Nat) : Statement (.firmwareCtlSteal core) := of_none rfl
theorem preemption (core ctx : Nat) : Statement (.preemption core ctx) := of_none rfl
theorem contextResume (core slot toCore toCtx : Nat) : Statement (.contextResume core slot toCore toCtx) := of_none rfl
theorem resultLanding (core ctx : Nat) : Statement (.resultLanding core ctx) := of_none rfl
theorem granuleCopyComplete (core ctx : Nat) : Statement (.granuleCopyComplete core ctx) := of_none rfl
theorem translateRequest (cluster core ctx : Nat) (key : TKey) : Statement (.translateRequest cluster core ctx key) := of_none rfl
theorem translationComplete (cluster : Nat) (key : TKey) : Statement (.translationComplete cluster key) := of_none rfl
theorem regclmGrant (core : Nat) : Statement (.regclmGrant core) := of_none rfl
theorem pageWalkComplete (core ctx thread : Nat) : Statement (.pageWalkComplete core ctx thread) := of_none rfl
theorem stashFillComplete (core ctx granule : Nat) : Statement (.stashFillComplete core ctx granule) := of_none rfl
theorem homeWritePerform (line : Nat) : Statement (.homeWritePerform line) := of_none rfl
theorem renewalAnswer (core ctx line : Nat) : Statement (.renewalAnswer core ctx line) := of_none rfl
theorem collapseRequest (line : Nat) (node : CollapseNode) : Statement (.collapseRequest line node) := of_none rfl
theorem collapseAnswer (line : Nat) (node : CollapseNode) : Statement (.collapseAnswer line node) := of_none rfl
theorem promotionRequest (core ctx line : Nat) : Statement (.promotionRequest core ctx line) := of_none rfl
theorem wcbSend (cluster line : Nat) : Statement (.wcbSend cluster line) := of_none rfl
theorem rangeEntryExpiry (slice index : Nat) : Statement (.rangeEntryExpiry slice index) := of_none rfl
theorem circuitArrival (cohort src dst : Nat) : Statement (.circuitArrival cohort src dst) := of_none rfl
theorem queueWriteObserved (die queue : Nat) : Statement (.queueWriteObserved die queue) := of_none rfl
theorem doorbellWrite (die : Nat) (bytes : Nat) (value : W32) : Statement (.doorbellWrite die bytes value) := of_none rfl
theorem lookaheadRead (die queue : Nat) : Statement (.lookaheadRead die queue) := of_none rfl
theorem nopPacket (die queue : Nat) : Statement (.nopPacket die queue) := of_none rfl
theorem launch (die queue : Nat) : Statement (.launch die queue) := of_none rfl
theorem copy (die queue : Nat) : Statement (.copy die queue) := of_none rfl
theorem copyComplete (die job : Nat) : Statement (.copyComplete die job) := of_none rfl
theorem barrier (die queue : Nat) : Statement (.barrier die queue) := of_none rfl
theorem barrierReread (die queue packet : Nat) : Statement (.barrierReread die queue packet) := of_none rfl
theorem signal (die queue : Nat) : Statement (.signal die queue) := of_none rfl
theorem callPacket (die queue : Nat) : Statement (.callPacket die queue) := of_none rfl
theorem returnPacket (die queue : Nat) : Statement (.returnPacket die queue) := of_none rfl
theorem join (die queue : Nat) : Statement (.join die queue) := of_none rfl
theorem cond (die queue : Nat) : Statement (.cond die queue) := of_none rfl
theorem loop (die queue : Nat) : Statement (.loop die queue) := of_none rfl
theorem timestamp (die queue : Nat) : Statement (.timestamp die queue) := of_none rfl
theorem packetComplete (die queue packet : Nat) (value : Int) : Statement (.packetComplete die queue packet value) := of_none rfl
theorem priorityPreemption (die queue : Nat) : Statement (.priorityPreemption die queue) := of_none rfl
theorem enable (die queue : Nat) : Statement (.enable die queue) := of_none rfl
theorem disable (die queue : Nat) : Statement (.disable die queue) := of_none rfl
theorem reset (die queue : Nat) : Statement (.reset die queue) := of_none rfl
theorem suspend (die queue : Nat) : Statement (.suspend die queue) := of_none rfl
theorem resume (die queue : Nat) : Statement (.resume die queue) := of_none rfl
theorem segmentArrival (core ctx : Nat) : Statement (.segmentArrival core ctx) := of_none rfl
theorem bankAccessComplete (core slot : Nat) : Statement (.bankAccessComplete core slot) := of_none rfl
theorem rowOpen (core slot : Nat) : Statement (.rowOpen core slot) := of_none rfl
theorem refreshClose (core slot : Nat) : Statement (.refreshClose core slot) := of_none rfl
theorem rowClose (core slot : Nat) : Statement (.rowClose core slot) := of_none rfl
theorem prechargeEnd (core slot : Nat) : Statement (.prechargeEnd core slot) := of_none rfl
theorem engineWorkComplete (core : Nat) : Statement (.engineWorkComplete core) := of_none rfl
theorem slotClearComplete (core : Nat) : Statement (.slotClearComplete core) := of_none rfl
theorem osclaimGrant (core : Nat) : Statement (.osclaimGrant core) := of_none rfl
theorem transferStart (core : Nat) : Statement (.transferStart core) := of_none rfl
theorem transferComplete (core : Nat) : Statement (.transferComplete core) := of_none rfl
theorem transferFault (core : Nat) : Statement (.transferFault core) := of_none rfl
theorem loopGeneratorEntry (core ctx : Nat) : Statement (.loopGeneratorEntry core ctx) := of_none rfl
theorem mcastDelivery (cohort group target : Nat) : Statement (.mcastDelivery cohort group target) := of_none rfl
theorem redgrpResult (cohort group : Nat) : Statement (.redgrpResult cohort group) := of_none rfl
theorem stkcpyComplete (core : Nat) : Statement (.stkcpyComplete core) := of_none rfl
theorem pbrFetchComplete (core ctx b : Nat) : Statement (.pbrFetchComplete core ctx b) := of_none rfl
theorem fenceComplete (core ctx : Nat) : Statement (.fenceComplete core ctx) := of_none rfl
theorem trapRecordDelivery (core : Nat) : Statement (.trapRecordDelivery core) := of_none rfl
theorem firmwareRestart (core : Nat) : Statement (.firmwareRestart core) := of_none rfl
theorem migrationRequest (core ctx toCore : Nat) : Statement (.migrationRequest core ctx toCore) := of_none rfl
theorem migrationCapture (core ctx : Nat) : Statement (.migrationCapture core ctx) := of_none rfl
theorem partitionSwap (outgoing incoming : Nat) : Statement (.partitionSwap outgoing incoming) := of_none rfl
theorem checkpoint (part gen : Nat) : Statement (.checkpoint part gen) := of_none rfl
theorem dieLoss (lost : Loss) : Statement (.dieLoss lost) := of_none rfl
theorem hostCompletion (request : Nat) (ok : Bool) (data : List Byte) : Statement (.hostCompletion request ok data) := of_none rfl
theorem cxlMemRead (addr len : Nat) : Statement (.cxlMemRead addr len) := of_none rfl
theorem cxlMemWrite (addr : Nat) (data : List Byte) : Statement (.cxlMemWrite addr data) := of_none rfl
theorem flitReceive (port : Nat) (flit : List Byte) : Statement (.flitReceive port flit) := of_none rfl
theorem laneFailure (port : Nat) : Statement (.laneFailure port) := of_none rfl
theorem retrainComplete (port : Nat) : Statement (.retrainComplete port) := of_none rfl
theorem linkTraining (port switchPort : Nat) : Statement (.linkTraining port switchPort) := of_none rfl
theorem attestationRequest (nonce : List Byte) : Statement (.attestationRequest nonce) := of_none rfl
theorem keySlotLoad (slot : Nat) (key : BitVec 512) : Statement (.keySlotLoad slot key) := of_none rfl
theorem abs (o : Op) : Statement (.abs o) := of_slots rfl rfl fun _ => in_three rfl rfl rfl
theorem add (o : Op) : Statement (.add o) := of_slots rfl rfl fun _ => in_three rfl rfl rfl
theorem and (o : Op) : Statement (.and o) := of_slots rfl rfl fun _ => in_three rfl rfl rfl
theorem bfi (o : Op) : Statement (.bfi o) := of_slots rfl rfl fun _ => in_three rfl rfl rfl
theorem bfx (o : Op) : Statement (.bfx o) := of_slots rfl rfl fun _ => in_three rfl rfl rfl
theorem brev (o : Op) : Statement (.brev o) := of_slots rfl rfl fun _ => in_three rfl rfl rfl
theorem clz (o : Op) : Statement (.clz o) := of_slots rfl rfl fun _ => in_three rfl rfl rfl
theorem cmp (o : Op) : Statement (.cmp o) := of_slots rfl rfl fun _ => in_three rfl rfl rfl
theorem accld (o : Op) : Statement (.accld o) := of_slots rfl rfl fun _ => in_one rfl
theorem accst (o : Op) : Statement (.accst o) := of_slots rfl rfl fun _ => in_one rfl
theorem accz (o : Op) : Statement (.accz o) := of_slots rfl rfl fun _ => in_one rfl
theorem addc (o : Op) : Statement (.addc o) := of_slots rfl rfl fun _ => in_one rfl
theorem atom (o : Op) : Statement (.atom o) := of_slots rfl rfl fun _ => in_one rfl
theorem atomAcq (o : Op) : Statement (.atomAcq o) := of_slots rfl rfl fun _ => in_one rfl
theorem atomRel (o : Op) : Statement (.atomRel o) := of_slots rfl rfl fun _ => in_one rfl
theorem atomAr (o : Op) : Statement (.atomAr o) := of_slots rfl rfl fun _ => in_one rfl
theorem barAw (o : Op) : Statement (.barAw o) := of_slots rfl rfl fun h => in_one (by
  simp only [Instr.modOk, Bool.and_eq_true, beq_iff_eq, Bool.not_eq_true'] at h
  simp only [decodeOp, barCode, Instr.asDecoded, h.1, h.2]
  rfl)
theorem barArr (o : Op) : Statement (.barArr o) := of_slots rfl rfl fun h => in_one (by
  simp only [Instr.modOk, Bool.and_eq_true, beq_iff_eq, Bool.not_eq_true'] at h
  simp only [decodeOp, barCode, Instr.asDecoded, h.1, h.2]
  rfl)
theorem barWait (o : Op) : Statement (.barWait o) := of_slots rfl rfl fun h => in_one (by
  simp only [Instr.modOk, Bool.and_eq_true, beq_iff_eq, Bool.not_eq_true'] at h
  simp only [decodeOp, barCode, Instr.asDecoded, h.1, h.2]
  rfl)
theorem bartest (o : Op) : Statement (.bartest o) := of_slots rfl rfl fun h => in_one (by
  simp only [Instr.modOk, Bool.and_eq_true, beq_iff_eq, Bool.not_eq_true'] at h
  simp only [decodeOp, barCode, Instr.asDecoded, h.1, h.2]
  rfl)
theorem bartestCtr (o : Op) : Statement (.bartestCtr o) := of_slots rfl rfl fun h => in_one (by
  simp only [Instr.modOk, Bool.and_eq_true, beq_iff_eq] at h
  simp only [decodeOp, barCode, Instr.asDecoded, h.1, h.2]
  rfl)
theorem br (e : Edge) : Statement (.br e) := of_none rfl
theorem cbr (q : Loc) (t f : Edge) : Statement (.cbr q t f) := of_none rfl
theorem brn (o : Op) : Statement (.brn o) := of_slots rfl rfl fun _ => in_one rfl
theorem brk (o : Op) : Statement (.brk o) := of_slots rfl rfl fun _ => in_one rfl
theorem call (o : Op) : Statement (.call o) := of_slots rfl rfl fun _ => in_one rfl
theorem const (o : Op) : Statement (.const o) := of_slots rfl rfl fun _ => in_three rfl rfl rfl
theorem csrrd (o : Op) : Statement (.csrrd o) := of_slots rfl rfl fun _ => in_one rfl
theorem csrwr (o : Op) : Statement (.csrwr o) := of_slots rfl rfl fun _ => in_one rfl
theorem div (o : Op) : Statement (.div o) := of_slots rfl rfl fun _ => in_three rfl rfl rfl
theorem evqpop (o : Op) : Statement (.evqpop o) := of_slots rfl rfl fun _ => in_one rfl
theorem exit (o : Op) : Statement (.exit o) := of_slots rfl rfl fun _ => in_one rfl
theorem fadd (o : Op) : Statement (.fadd o) := of_slots rfl rfl fun _ => in_two rfl rfl
theorem fsub (o : Op) : Statement (.fsub o) := of_slots rfl rfl fun _ => in_two rfl rfl
theorem fmul (o : Op) : Statement (.fmul o) := of_slots rfl rfl fun _ => in_two rfl rfl
theorem ffma (o : Op) : Statement (.ffma o) := of_slots rfl rfl fun _ => in_two rfl rfl
theorem fdiv (o : Op) : Statement (.fdiv o) := of_slots rfl rfl fun _ => in_two rfl rfl
theorem fmin (o : Op) : Statement (.fmin o) := of_slots rfl rfl fun _ => in_two rfl rfl
theorem fmax (o : Op) : Statement (.fmax o) := of_slots rfl rfl fun _ => in_two rfl rfl
theorem fcmp (o : Op) : Statement (.fcmp o) := of_slots rfl rfl fun _ => in_two rfl rfl
theorem fcvt (o : Op) : Statement (.fcvt o) := of_slots rfl rfl fun _ => in_two rfl rfl
theorem fence (o : Op) : Statement (.fence o) := of_slots rfl rfl fun _ => in_one rfl
theorem fill (o : Op) : Statement (.fill o) := of_slots rfl rfl fun _ => in_one rfl
theorem freeze (o : Op) : Statement (.freeze o) := of_slots rfl rfl fun _ => in_one rfl
theorem frnd (o : Op) : Statement (.frnd o) := of_slots rfl rfl fun _ => in_two rfl rfl
theorem icvt (o : Op) : Statement (.icvt o) := of_slots rfl rfl fun _ => in_two rfl rfl
theorem idx (o : Op) : Statement (.idx o) := of_slots rfl rfl fun _ => in_three rfl rfl rfl
theorem lcvt (o : Op) : Statement (.lcvt o) := of_slots rfl rfl fun _ => in_two rfl rfl
theorem ld (o : Op) : Statement (.ld o) := of_slots rfl rfl fun _ => in_one rfl
theorem ldRng (o : Op) : Statement (.ldRng o) := of_slots rfl rfl fun _ => in_one rfl
theorem ldv (o : Op) : Statement (.ldv o) := of_slots rfl rfl fun _ => in_one rfl
theorem lpack (o : Op) : Statement (.lpack o) := of_slots rfl rfl fun _ => in_two rfl rfl
theorem lunpk (o : Op) : Statement (.lunpk o) := of_slots rfl rfl fun _ => in_two rfl rfl
theorem madc (o : Op) : Statement (.madc o) := of_slots rfl rfl fun _ => in_one rfl
theorem max (o : Op) : Statement (.max o) := of_slots rfl rfl fun _ => in_three rfl rfl rfl
theorem min (o : Op) : Statement (.min o) := of_slots rfl rfl fun _ => in_three rfl rfl rfl
theorem mul (o : Op) : Statement (.mul o) := of_slots rfl rfl fun _ => in_three rfl rfl rfl
theorem mulhi (o : Op) : Statement (.mulhi o) := of_slots rfl rfl fun _ => in_three rfl rfl rfl
theorem neg (o : Op) : Statement (.neg o) := of_slots rfl rfl fun _ => in_three rfl rfl rfl
theorem not (o : Op) : Statement (.not o) := of_slots rfl rfl fun _ => in_three rfl rfl rfl
theorem or (o : Op) : Statement (.or o) := of_slots rfl rfl fun _ => in_three rfl rfl rfl
theorem popc (o : Op) : Statement (.popc o) := of_slots rfl rfl fun _ => in_three rfl rfl rfl
theorem rem (o : Op) : Statement (.rem o) := of_slots rfl rfl fun _ => in_three rfl rfl rfl
theorem rot (o : Op) : Statement (.rot o) := of_slots rfl rfl fun _ => in_three rfl rfl rfl
theorem mcast (o : Op) : Statement (.mcast o) := of_slots rfl rfl fun _ => in_one rfl
theorem redgrp (o : Op) : Statement (.redgrp o) := of_slots rfl rfl fun _ => in_one rfl
theorem mma (o : Op) : Statement (.mma o) := of_slots rfl rfl fun _ => in_one rfl
theorem mov (o : Op) : Statement (.mov o) := of_slots rfl rfl fun _ => in_three rfl rfl rfl
theorem nop (o : Op) : Statement (.nop o) := fun _ c n o' e => by
  simp only [Instr.code, Option.some.injEq, Prod.mk.injEq] at e
  obtain ⟨-, rfl, rfl⟩ := e
  rfl
theorem osclaim (o : Op) : Statement (.osclaim o) := of_slots rfl rfl fun _ => in_one rfl
theorem osload (o : Op) : Statement (.osload o) := of_slots rfl rfl fun _ => in_one rfl
theorem osrel (o : Op) : Statement (.osrel o) := of_slots rfl rfl fun _ => in_one rfl
theorem pbr (o : Op) : Statement (.pbr o) := of_slots rfl rfl fun _ => in_one rfl
theorem pref (o : Op) : Statement (.pref o) := of_slots rfl rfl fun _ => in_one rfl
theorem publish (o : Op) : Statement (.publish o) := of_slots rfl rfl fun _ => in_one rfl
theorem recvc (o : Op) : Statement (.recvc o) := of_slots rfl rfl fun _ => in_one rfl
theorem reform (o : Op) : Statement (.reform o) := of_slots rfl rfl fun _ => in_one rfl
theorem regrel (o : Op) : Statement (.regrel o) := of_slots rfl rfl fun _ => in_one rfl
theorem regclm (o : Op) : Statement (.regclm o) := of_slots rfl rfl fun _ => in_one rfl
theorem ret (o : Op) : Statement (.ret o) := of_slots rfl rfl fun _ => in_one rfl
theorem rowact (o : Op) : Statement (.rowact o) := of_slots rfl rfl fun h => in_one (by
  have h7 : o.mod.getLsbD 7 = false := (Bool.not_eq_true' _).mp h
  show Except.ok (if o.mod.getLsbD 7 then Instr.rowactForce o else .rowact o) = _
  rw [h7]
  rfl)
theorem rowactForce (o : Op) : Statement (.rowactForce o) := of_slots rfl rfl fun h => in_one (by
  have h7 : o.mod.getLsbD 7 = true := h
  show Except.ok (if o.mod.getLsbD 7 then Instr.rowactForce o else .rowact o) = _
  rw [h7]
  rfl)
theorem rowcon (o : Op) : Statement (.rowcon o) := of_slots rfl rfl fun h => in_one (by
  have h7 : o.mod.getLsbD 7 = false := (Bool.not_eq_true' _).mp h
  show Except.ok (if o.mod.getLsbD 7 then Instr.rowconW o else .rowcon o) = _
  rw [h7]
  rfl)
theorem rowconW (o : Op) : Statement (.rowconW o) := of_slots rfl rfl fun h => in_one (by
  have h7 : o.mod.getLsbD 7 = true := h
  show Except.ok (if o.mod.getLsbD 7 then Instr.rowconW o else .rowcon o) = _
  rw [h7]
  rfl)
theorem rowcls (o : Op) : Statement (.rowcls o) := of_slots rfl rfl fun _ => in_one rfl
theorem segset (o : Op) : Statement (.segset o) := of_slots rfl rfl fun _ => in_one rfl
theorem sel (o : Op) : Statement (.sel o) := of_slots rfl rfl fun _ => in_three rfl rfl rfl
theorem sendc (o : Op) : Statement (.sendc o) := of_slots rfl rfl fun _ => in_one rfl
theorem sfn (o : Op) : Statement (.sfn o) := of_slots rfl rfl fun _ => in_two rfl rfl
theorem shape (rows cols : Nat) : Statement (.shape rows cols) := of_none rfl
theorem shfl (o : Op) : Statement (.shfl o) := of_slots rfl rfl fun _ => in_two rfl rfl
theorem shl (o : Op) : Statement (.shl o) := of_slots rfl rfl fun _ => in_three rfl rfl rfl
theorem shr (o : Op) : Statement (.shr o) := of_slots rfl rfl fun _ => in_three rfl rfl rfl
theorem shra (o : Op) : Statement (.shra o) := of_slots rfl rfl fun _ => in_three rfl rfl rfl
theorem sub (o : Op) : Statement (.sub o) := of_slots rfl rfl fun _ => in_three rfl rfl rfl
theorem xor (o : Op) : Statement (.xor o) := of_slots rfl rfl fun _ => in_three rfl rfl rfl
theorem spill (o : Op) : Statement (.spill o) := of_slots rfl rfl fun _ => in_one rfl
theorem st (o : Op) : Statement (.st o) := of_slots rfl rfl fun _ => in_one rfl
theorem stv (o : Op) : Statement (.stv o) := of_slots rfl rfl fun _ => in_one rfl
theorem stmap (o : Op) : Statement (.stmap o) := of_slots rfl rfl fun _ => in_one rfl
theorem stwb (o : Op) : Statement (.stwb o) := of_slots rfl rfl fun _ => in_one rfl
theorem stinv (o : Op) : Statement (.stinv o) := of_slots rfl rfl fun _ => in_one rfl
theorem stkcpy (o : Op) : Statement (.stkcpy o) := of_slots rfl rfl fun _ => in_one rfl
theorem subb (o : Op) : Statement (.subb o) := of_slots rfl rfl fun _ => in_one rfl
theorem switch (ty : Nat) (v : Loc) (dflt : Edge) (cases : List (Word × Edge)) : Statement (.switch ty v dflt cases) := of_none rfl
theorem ticket (o : Op) : Statement (.ticket o) := of_slots rfl rfl fun _ => in_one rfl
theorem tlbinv (o : Op) : Statement (.tlbinv o) := of_slots rfl rfl fun _ => in_one rfl
theorem tnest (o : Op) : Statement (.tnest o) := of_slots rfl rfl fun _ => in_one rfl
theorem trap (o : Op) : Statement (.trap o) := of_slots rfl rfl fun _ => in_one rfl
theorem retry (o : Op) : Statement (.retry o) := of_slots rfl rfl fun _ => in_one rfl
theorem cont (o : Op) : Statement (.cont o) := of_slots rfl rfl fun _ => in_one rfl
theorem replay (o : Op) : Statement (.replay o) := of_slots rfl rfl fun _ => in_one rfl
theorem fail (o : Op) : Statement (.fail o) := of_slots rfl rfl fun _ => in_one rfl
theorem endThread (o : Op) : Statement (.endThread o) := of_slots rfl rfl fun _ => in_one rfl
theorem endLaunch (o : Op) : Statement (.endLaunch o) := of_slots rfl rfl fun _ => in_one rfl
theorem vote (o : Op) : Statement (.vote o) := of_slots rfl rfl fun _ => in_two rfl rfl
theorem vred (o : Op) : Statement (.vred o) := of_slots rfl rfl fun _ => in_two rfl rfl
theorem vscan (inc : Bool) (o : Op) : Statement (.vscan inc o) := by
  cases inc <;> exact of_slots rfl rfl fun _ => in_two rfl rfl
theorem xfer (o : Op) : Statement (.xfer o) := of_slots rfl rfl fun _ => in_one rfl
theorem xloop (o : Op) : Statement (.xloop o) := of_slots rfl rfl fun _ => in_one rfl
theorem xstat (o : Op) : Statement (.xstat o) := of_slots rfl rfl fun _ => in_one rfl
theorem waitid (o : Op) : Statement (.waitid o) := of_slots rfl rfl fun _ => in_one rfl
theorem xcancel (o : Op) : Statement (.xcancel o) := of_slots rfl rfl fun _ => in_one rfl
theorem yield (o : Op) : Statement (.yield o) := of_slots rfl rfl fun _ => in_one rfl
theorem bankRefresh (core slot : Nat) : Statement (.bankRefresh core slot) := of_none rfl
theorem compaction (cluster : Nat) : Statement (.compaction cluster) := of_none rfl
theorem hdmWindowSet (req : HdmReq) : Statement (.hdmWindowSet req) := of_none rfl

end Sys2Proof.Laws.Coded
end

