-- ==== Sys2Proof/Tests/Base.lean ====
section
/-! SUPPORT. Small states for the tests and the witnesses, and decidable forms of the hypotheses of the statements. -/

-- One theorem after another: every test evaluates in the kernel, and tests in parallel cost a thread stack each.
set_option Elab.async false

namespace Sys2Proof.Tests

open Sys2Proof Sys2Proof.Machine Sys2Proof.Claims

/-- One context of core 0 with one thread, whose group stands at bundle 0 of translation 1. -/
def oneCtx : Ctx :=
  { state := .active, group := some { lanes := [(0, 0)], pc := ⟨1, 0⟩ }, threads := [(0, { place := .group, budget := 16 })] }

/-- The device runs, and core 0 holds the given context as context 0. -/
def running (c : Ctx) : State := { phase := .running, cores := [(0, { ctxs := [(0, c)] })] }

/-- One running thread on core 0. -/
def one : State := running oneCtx

/-- An op of layout D: slot, type and VAR. -/
def opD (slot ty : Nat) (var : Nat := 0) : Op := { slot := slot, mod := BitVec.ofNat 8 (ty * 8 + var), dest := 3, a := 1, b := 2, c := 4 }

/-- An op with a given MOD and no operands. -/
def opMod (slot mod : Nat) : Op := { slot := slot, mod := BitVec.ofNat 8 mod }

/-- An op of layout J with its field. -/
def opJ (slot j : Nat) : Op :=
  { slot := slot, a := BitVec.ofNat 10 (j / 2 ^ 20), b := BitVec.ofNat 10 (j / 2 ^ 10), c := BitVec.ofNat 10 j }

/-- The same context with words in registers of thread 0. -/
def withRegs (rs : Tab Word) : Ctx := { oneCtx with threads := [(0, { place := .group, budget := 16, regs := rs })] }

/-- Partition 0 on cluster 0, with address space 0 and key slot 0. -/
def part0 : Partition := { clusters := [0], spare := 0, nbv := 1, grant := 1, roots := [(0, 0)] }

/-- A page of 2 MiB at address 0, readable and writable, under key slot 0. -/
def page0 : TlbEntry := ⟨0, 0, 2 ^ 21, word64 (2 ^ 63 + 2 ^ 12 + 0xF00)⟩

/-- The segments of a context: each from address 0, or from the share, of 64 KiB, T of 4 KiB. -/
def segs : CtxRegs := { segBase := (List.range 6).map fun n => (n, 0), segLim := (List.range 6).map fun n => (n, if n = 4 then 4096 else 2 ^ 16) }

/-- A context of partition 0 with its segments, its stash share of 64 KiB, and words in registers of thread 0. -/
def segCtx (rs : Tab Word) : Ctx := { withRegs rs with regs := segs, mem := { shareLen := 2 ^ 16 } }

/-- The device runs partition 0 with page 0 in the TLB of core 0, and core 0 holds the given context as context 0. -/
def world (c : Ctx) : State :=
  { phase := .running, parts := [(0, part0)], cores := [(0, { ctxs := [(0, c)], tlb := [page0] })] }

/-- A ptr: segment code and offset (R74). -/
def ptr (seg off : Nat) : Word := word64 (seg * 2 ^ 61 + off)

/-! ### Decidable forms of the hypotheses of the statements -/

def readableB (s : State) (o : Op) (srcs : List (Nat × Nat)) : Bool :=
  srcs.all (fun r => srcOk o r.1 r.2) && (s.active o).all fun e => srcs.all fun r => !isReg r.1 ||
    (s.me.thread e.2).poisoned.all fun n => !decide (r.1 ≤ n ∧ n < r.1 + r.2)

theorem readable_iff {s : State} {o : Op} {srcs : List (Nat × Nat)} : Readable s o srcs ↔ readableB s o srcs = true := by
  simp only [readableB, Bool.and_eq_true, List.all_eq_true, Bool.or_eq_true, Bool.not_eq_true', decide_eq_false_iff_not]
  refine ⟨fun h => ⟨h.1, fun e he r hr => ?_⟩, fun h => ⟨h.1, fun e he r hr hreg => (h.2 e he r hr).resolve_left (by simp [hreg])⟩⟩
  cases hreg : isReg r.1
  · exact .inl rfl
  · exact .inr (h.2 e he r hr hreg)

def soundB (s : State) (o : Op) (srcs : List (Nat × Nat)) (d w : Nat) : Bool :=
  readableB s o srcs && destOk o.slot d w && (!isLast d || (s.active o).all fun e => (s.me.thread e.2).copyFits (d - 0x140) w)

theorem sound_iff {s : State} {o : Op} {srcs : List (Nat × Nat)} {d w : Nat} : Sound s o srcs d w ↔ soundB s o srcs d w = true := by
  simp only [soundB, Bool.and_eq_true, ← readable_iff, Bool.or_eq_true, Bool.not_eq_true', List.all_eq_true]
  refine ⟨fun h => ⟨⟨⟨h.1, h.2⟩, h.3⟩, ?_⟩, fun h => ⟨h.1.1.1, h.1.1.2, h.1.2, fun hl => h.2.resolve_left (by simp [hl])⟩⟩
  cases hl : isLast d
  · exact .inl rfl
  · exact .inr (h.4 hl)

def tidyB (c : Ctx) : Bool :=
  decide (c.bins.Pairwise fun a b => a.1 < b.1) && decide (c.threads.Pairwise fun a b => a.1 < b.1) &&
    decide (((c.group.map Group.threads).getD []).Nodup) && ((c.group.map Group.threads).getD []).all fun t => (c.thread t).place == .group

theorem tidy_iff {c : Ctx} : c.Tidy ↔ tidyB c = true := by
  simp only [tidyB, Bool.and_eq_true, decide_eq_true_eq, List.all_eq_true, beq_iff_eq]
  exact ⟨fun h => ⟨⟨⟨h.1, h.2⟩, h.3⟩, h.4⟩, fun h => ⟨h.1.1.1, h.1.1.2, h.1.2, h.2⟩⟩

/-- A translation succeeds. -/
def walkOk : Walk → Bool
  | .ok _ _ => true
  | _ => false

def acceptsB (s : State) (kind : AccessKind) (align : Nat) (accs : List Acc) : Bool :=
  (s.accTraps s.cur.1 s.cur.2 kind align accs).isEmpty && (s.accFaults s.cur.1 s.cur.2 kind accs).isEmpty &&
    (kind == .load || (s.copyFaults s.cur.1 s.cur.2 accs).isEmpty) && !s.streamHolds s.cur.1 s.cur.2 accs

theorem accepts_iff {s : State} {kind : AccessKind} {align : Nat} {accs : List Acc} :
    Accepts s kind align accs ↔ acceptsB s kind align accs = true := by
  simp only [Accepts, acceptsB, Bool.and_eq_true, List.isEmpty_iff, Bool.or_eq_true, beq_iff_eq, Bool.not_eq_true', and_assoc]
  by_cases h : kind = .load <;> simp [h]

/-- The stub of a key is PRESENT with the given translation. -/
def stubB (s : State) (key : TKey) (e : Nat × Trans) : Bool :=
  s.me.failed.all (fun f => f.1 != key) && tget (s.cluster (clusterOf s.cur.1)).trans e.1 == some e.2 &&
    (s.stub (clusterOf s.cur.1) key).any fun st => match st.state with
      | .present tr _ => tr == e.1
      | .translating => false

theorem stubHolds_of {s : State} {key : TKey} {e : Nat × Trans} (h : stubB s key e = true) : s.StubHolds key e := by
  simp only [stubB, Bool.and_eq_true, List.all_eq_true, bne_iff_ne, beq_iff_eq, Option.any_eq_true] at h
  obtain ⟨⟨h1, h2⟩, st, h3, h4⟩ := h
  refine ⟨h1, st, ?_⟩
  cases hs : st.state with
  | translating => rw [hs] at h4; cases h4
  | present tr pa => rw [hs] at h4; obtain rfl := eq_of_beq h4; exact ⟨pa, h3, rfl, h2⟩

/-! ### A workgroup of two threads in a cohort of one launch, with translated code -/

/-- The object of the tests: two functions, an arrive-wait barrier 0 with a count of 2, and a split barrier 15. -/
def freezeInst : Lpf.Inst := ⟨0x14A, 0, 0, false, false, [.ref 1 [5]]⟩

def func0 : LFunc :=
  { nparam := 0, restype := 0, entry := true, levels := 2, budget := 16, params := []
    blocks := [⟨[], (1, 1), [freezeInst.words]⟩, ⟨[8], (1, 1), []⟩], reserve := [1, 1] }

/-- Function 1 raises SOFTWARE 7 first. -/
def trapInst : Lpf.Inst := ⟨0x148, 0, 0, false, false, [.short 7]⟩
def func1 : LFunc := { func0 with entry := false, blocks := [⟨[], (1, 1), [trapInst.words, freezeInst.words]⟩, ⟨[8], (1, 1), []⟩] }

def obj1 : Obj :=
  { part := 0, words := [], fw := false, funcs := [func0, func1], bars := [(0, 0, 2), (15, 1, 2)], kwords := []
    ssize := 0, tsize := 0 }

/-- A CALL of function 1, and the bundle it stands in. -/
def callOp : Op := opJ 7 (2 ^ 14)

/-- The translation of function 0: the CALL and an empty bundle, at the continuation of the FREEZE, which is block 1; and that of function 1: two empty bundles. -/
def caller : Trans :=
  { key := ⟨1, 0, 0, 16⟩, words := (encode (.call callOp)).getD [] ++ [0x00008000], pmap := [⟨0, true, false, false, false, 0, 0, 0, []⟩, ⟨3, true, false, false, false, 1, 0, 0, []⟩]
    frame := 4, advance := 4, segs := [(0, 4)], attr := [(0, 0, 0), (3, 1, 0)] }

def callee : Trans :=
  { key := ⟨1, 1, 0, 16⟩, words := [0x00008000, 0x00008000], pmap := [⟨0, true, false, false, false, 0, 0, 0, []⟩], frame := 4, advance := 4
    segs := [(0, 2)], attr := [(0, 0, 0), (1, 0, 1)] }

def cluster0 : Cluster :=
  { stubs := [⟨⟨1, 0, 0, 16⟩, .present 1 sysBase, 1, 0, [], 0⟩, ⟨⟨1, 1, 0, 16⟩, .present 2 (sysBase + 4096), 1, 0, [], 0⟩]
    trans := [(1, caller), (2, callee)], nextTr := 3 }

def wg0 : Wg := ⟨0, 0, 0, 0, 2, 16, 1, 0, false, true⟩

def launch0 : Launch :=
  { die := 0, queue := 0, packet := 0, part := 0, obj := 1, func := 0, ncoh := 1, rows := 1, cols := 2, wgsize := 2, budget := 16, tmpl := true
    prio := 1, asid := 0, rec_ := 0, segBase := List.replicate 8 0, segLim := List.replicate 8 0, span := 0, table := [], lastPtr := 2 ^ 16
    params := List.replicate 32 0, frozen := none }

def cohort0 : Cohort := ⟨0, 0, 1, 2, [0, 1], [0, 0], 0, 1, [(0, 1, 0), (1, 0, 0)], [], [], []⟩

/-- The issue group of both threads at a PC. -/
def pair (pc : Pc) : Group := { lanes := [(0, 0), (1, 1)], pc := pc }

/-- Two threads with their issue group, running as context 0 of core 0. -/
def two (g : Group) (th0 th1 : Thread) : Ctx :=
  { state := .active, wg := some wg0, group := some g, threads := [(0, th0), (1, th1)], regs := segs, mem := { shareLen := 2 ^ 16 } }

def ready : Thread := { place := .group, budget := 16, regs := [(1, 1), (2, 2)] }

/-- The state around a context: partition, object, launch, cohort, translations. -/
def site (c : Ctx) : State :=
  { world c with
    clusters := [(0, cluster0)], objs := [(1, obj1)], launches := [(0, launch0)], nextLaunch := 1, cohorts := [(0, cohort0)], nextCohort := 1
    cores := [(0, { ctxs := [(0, c)], tlb := [page0], resident := [1, 2], taken := 32 })] }

end Sys2Proof.Tests
end

