-- ==== Sys2Proof/Tests/Slice0.lean ====
section
/-! SUPPORT. Tests of the decoder, of well-formedness and of single instructions. The expected values come from the encoding tables and
the rules of the spec, worked by hand. -/

-- One theorem after another: every test evaluates in the kernel, and tests in parallel cost a thread stack each.
set_option Elab.async false

namespace Sys2Proof.Tests

open Sys2Proof Sys2Proof.Machine Sys2Proof.Claims

/-! ### Ill-formed terms, one for each check -/

theorem test_ill_formed_edges :
    (Instr.br ⟨0, [(.reg 255, .reg 0)]⟩).wf = false ∧ (Instr.br ⟨0, [(.frame 16384, .reg 0)]⟩).wf = false ∧
    (Instr.br ⟨0, [(.reg 0, .last 64)]⟩).wf = false ∧ (Instr.br ⟨0, List.replicate 1025 (.reg 0, .reg 1)⟩).wf = false ∧
    (Instr.cbr (.last 64) ⟨0, []⟩ ⟨0, []⟩).wf = false ∧ (Instr.cbr (.reg 0) ⟨0, [(.reg 255, .reg 0)]⟩ ⟨0, []⟩).wf = false ∧
    (Instr.cbr (.reg 0) ⟨0, []⟩ ⟨0, [(.reg 255, .reg 0)]⟩).wf = false := by decide +kernel

theorem test_ill_formed_switch :
    (Instr.switch 0 (.reg 0) ⟨0, []⟩ []).wf = false ∧ (Instr.switch 9 (.reg 0) ⟨0, []⟩ []).wf = false ∧
    (Instr.switch 8 (.reg 255) ⟨0, []⟩ []).wf = false ∧ (Instr.switch 8 (.reg 0) ⟨0, [(.reg 255, .reg 0)]⟩ []).wf = false ∧
    (Instr.switch 8 (.reg 0) ⟨0, []⟩ (List.replicate 64 (0, ⟨0, []⟩))).wf = false ∧
    (Instr.switch 8 (.reg 0) ⟨0, []⟩ [(0, ⟨0, [(.reg 255, .reg 0)]⟩)]).wf = false := by decide +kernel

theorem test_ill_formed_shapes :
    (Instr.shape 0 1).wf = false ∧ (Instr.shape 1 0).wf = false ∧ (Instr.shape 3 6).wf = false ∧
    (Instr.fadd { slot := 4, rows := 2, cols := 5 }).wf = false := by decide +kernel

theorem test_ill_formed_ops :
    (Instr.add { slot := 4 }).wf = false ∧ (Instr.addc { slot := 6 }).wf = false ∧ (Instr.mma { slot := 0, ext := some 1 }).wf = false ∧
    (Instr.barAw { slot := 7, mod := 0x80 }).wf = false ∧ (Instr.barAw { slot := 7, mod := 0x60 }).wf = false ∧
    (Instr.barArr { slot := 7, mod := 0x40 }).wf = false ∧ (Instr.barWait { slot := 7, mod := 0x40 }).wf = false ∧
    (Instr.bartest { slot := 7, mod := 0x20 }).wf = false ∧ (Instr.bartestCtr { slot := 7, mod := 0 }).wf = false ∧
    (Instr.rowact { slot := 0, mod := 0x80 }).wf = false ∧ (Instr.rowactForce { slot := 0 }).wf = false ∧
    (Instr.rowcon { slot := 0, mod := 0x80 }).wf = false ∧ (Instr.rowconW { slot := 0 }).wf = false := by decide +kernel

theorem test_ill_formed_units :
    (Instr.binAged 576 0 0).wf = false ∧ (Instr.binAged 0 4 0).wf = false ∧ (Instr.binAged 0 0 16).wf = false ∧ (Instr.draw 576 0).wf = false ∧
    (Instr.draw 0 4).wf = false ∧ (Instr.preemption 576 0).wf = false ∧ (Instr.preemption 0 4).wf = false ∧ (Instr.resultLanding 576 0).wf = false ∧
    (Instr.resultLanding 0 5).wf = false ∧ (Instr.bankRefresh 576 0).wf = false ∧ (Instr.bankRefresh 0 128).wf = false := by decide +kernel

theorem test_ill_formed_device :
    (Instr.keySlotLoad 512 0).wf = false ∧ (Instr.partitionCreate ⟨0, [48], 0, 1, 0, []⟩).wf = false ∧
    (Instr.partitionCreate ⟨0, [0], 3, 1, 0, []⟩).wf = false ∧ (Instr.partitionCreate ⟨0, [0], 0, 3, 0, []⟩).wf = false ∧
    (Instr.flitReceive 48 (List.replicate 256 0)).wf = false ∧ (Instr.flitReceive 0 []).wf = false ∧ (Instr.linkTraining 48 0).wf = false ∧
    (Instr.linkTraining 0 512).wf = false ∧ (Instr.hdmWindowSet ⟨0, 0, [], 0⟩).wf = false ∧ (Instr.hdmWindowSet ⟨257, 0, [], 0⟩).wf = false ∧
    (Instr.attestationRequest []).wf = false := by decide +kernel

/-! ### Words written out from R291 and R293-R297 -/

/-- An op with LA 5, a negated guard q6, DEST 0x2AB and sources 0x155, 0x0F3 and 0x30C. -/
def field (slot mod : Nat) : Op :=
  { slot := slot, la := 5, gn := true, gq := 6, mod := BitVec.ofNat 8 mod, dest := 0x2AB, a := 0x155, b := 0x0F3, c := 0x30C }

def reads (e : List W32 × Instr) : Bool :=
  match decode e.1 with
  | .ok (i, []) => i == e.2
  | _ => false

theorem test_decodes_int : [
    ([0x40008000, 0xD553CF0C, 0x005E38AA], Instr.add (field 6 0x38)),
    ([0x40008000, 0xD553CF0C, 0x015E38AA], Instr.sub (field 6 0x38)),
    ([0x40008000, 0xD553CF0C, 0x025E38AA], Instr.mul (field 6 0x38)),
    ([0x40008000, 0xD553CF0C, 0x035E38AA], Instr.mulhi (field 6 0x38)),
    ([0x40008000, 0xD553CF0C, 0x075E18AA], Instr.div (field 6 0x18)),
    ([0x40008000, 0xD553CF0C, 0x085E18AA], Instr.rem (field 6 0x18)),
    ([0x40008000, 0xD553CF0C, 0x095E18AA], Instr.neg (field 6 0x18)),
    ([0x40008000, 0xD553CF0C, 0x0A5E18AA], Instr.abs (field 6 0x18)),
    ([0x40008000, 0xD553CF0C, 0x0B5E18AA], Instr.min (field 6 0x18)),
    ([0x40008000, 0xD553CF0C, 0x0C5E18AA], Instr.max (field 6 0x18)),
    ([0x40008000, 0xD553CF0C, 0x0D5E18AA], Instr.and (field 6 0x18)),
    ([0x40008000, 0xD553CF0C, 0x0E5E18AA], Instr.or (field 6 0x18)),
    ([0x40008000, 0xD553CF0C, 0x0F5E18AA], Instr.xor (field 6 0x18)),
    ([0x40008000, 0xD553CF0C, 0x105E18AA], Instr.not (field 6 0x18)),
    ([0x40008000, 0xD553CF0C, 0x115E40AA], Instr.shl (field 6 0x40)),
    ([0x40008000, 0xD553CF0C, 0x125E40AA], Instr.shr (field 6 0x40)),
    ([0x40008000, 0xD553CF0C, 0x135E40AA], Instr.shra (field 6 0x40)),
    ([0x40008000, 0xD553CF0C, 0x145E40AA], Instr.rot (field 6 0x40)),
    ([0x40008000, 0xD553CF0C, 0x155E40AA], Instr.bfi (field 6 0x40)),
    ([0x40008000, 0xD553CF0C, 0x165E40AA], Instr.bfx (field 6 0x40)),
    ([0x40008000, 0xD553CF0C, 0x175E40AA], Instr.clz (field 6 0x40)),
    ([0x40008000, 0xD553CF0C, 0x185E40AA], Instr.popc (field 6 0x40)),
    ([0x40008000, 0xD553CF0C, 0x195E40AA], Instr.brev (field 6 0x40)),
    ([0x40008000, 0xD553CF0C, 0x1A5E45AA], Instr.cmp (field 6 0x45)),
    ([0x40008000, 0xD553CF0C, 0x1B5E40AA], Instr.sel (field 6 0x40)),
    ([0x40008000, 0xD553CF0C, 0x1C5E40AA], Instr.const (field 6 0x40)),
    ([0x40008000, 0xD553CF0C, 0x3E5E41AA], Instr.mov (field 6 0x41)),
    ([0x40008000, 0xD553CF0C, 0x4C5E38AA], Instr.idx (field 6 0x38))].all reads = true := by decide +kernel

theorem test_decodes_ctl : [
    ([0xC0408000, 0xD553CF0C, 0x045E38AA, 0x00000123, 0x00000000], Instr.addc { field 7 0x38 with ext := some 0x123 }),
    ([0xC0408000, 0xD553CF0C, 0x055E38AA, 0x00000123, 0x00000000], Instr.subb { field 7 0x38 with ext := some 0x123 }),
    ([0xC0408000, 0xD553CF0C, 0x065E40AA, 0x000AA923, 0x00000000], Instr.madc { field 7 0x40 with ext := some 0xAA923 }),
    ([0x80008000, 0xD553CF0C, 0x205E49AA], Instr.barAw (field 7 0x49)),
    ([0x80008000, 0xD553CF0C, 0x205E89AA], Instr.barArr (field 7 0x89)),
    ([0x80008000, 0xD553CF0C, 0x205EC9AA], Instr.barWait (field 7 0xC9)),
    ([0x80008000, 0xD553CF0C, 0x215E09AA], Instr.bartest (field 7 0x09)),
    ([0x80008000, 0xD553CF0C, 0x215E29AA], Instr.bartestCtr (field 7 0x29)),
    ([0x80008000, 0xD553CF0C, 0x225E00AA], Instr.evqpop (field 7 0x00)),
    ([0x80008000, 0xD553CF0C, 0x235E00AA], Instr.xloop (field 7 0x00)),
    ([0x80008000, 0xD553CF0C, 0x245E05AA], Instr.xstat (field 7 0x05)),
    ([0x80008000, 0xD553CF0C, 0x255E05AA], Instr.waitid (field 7 0x05)),
    ([0x80008000, 0xD553CF0C, 0x405E82AA], Instr.brn (field 7 0x82)),
    ([0x80008000, 0xD553CF0C, 0x415E03AA], Instr.pbr (field 7 0x03)),
    ([0x80008000, 0xD553CF0C, 0x435E00AA], Instr.call (field 7 0x00)),
    ([0x80008000, 0xD553CF0C, 0x445E00AA], Instr.ret (field 7 0x00)),
    ([0x80008000, 0xD553CF0C, 0x455E00AA], Instr.exit (field 7 0x00)),
    ([0x80008000, 0xD553CF0C, 0x465E00AA], Instr.reform (field 7 0x00)),
    ([0x80008000, 0xD553CF0C, 0x475E00AA], Instr.yield (field 7 0x00)),
    ([0x80008000, 0xD553CF0C, 0x485E00AA], Instr.trap (field 7 0x00)),
    ([0x80008000, 0xD553CF0C, 0x495E00AA], Instr.brk (field 7 0x00)),
    ([0x80008000, 0xD553CF0C, 0x4A5E00AA], Instr.freeze (field 7 0x00)),
    ([0x80008000, 0xD553CF0C, 0x4B5E00AA], Instr.tnest (field 7 0x00)),
    ([0x80008000, 0xD553CF0C, 0x4D5E00AA], Instr.regrel (field 7 0x00)),
    ([0x80008000, 0xD553CF0C, 0x4E5E00AA], Instr.regclm (field 7 0x00)),
    ([0x80008000, 0xD553CF0C, 0x4F5E00AA], Instr.csrrd (field 7 0x00)),
    ([0x80008000, 0xD553CF0C, 0x505E00AA], Instr.csrwr (field 7 0x00)),
    ([0x80008000, 0xD553CF0C, 0x805E00AA], Instr.segset (field 7 0x00)),
    ([0x80008000, 0xD553CF0C, 0x815E00AA], Instr.tlbinv (field 7 0x00)),
    ([0x80008000, 0xD553CF0C, 0x825E38AA], Instr.retry (field 7 0x38)),
    ([0x80008000, 0xD553CF0C, 0x835E40AA], Instr.ticket (field 7 0x40)),
    ([0x80008000, 0xD553CF0C, 0x845E07AA], Instr.stkcpy (field 7 0x07))].all reads = true := by decide +kernel

theorem test_decodes_vec : [
    ([0x10008000, 0xD553CF0C, 0x405E58AA], Instr.fadd (field 4 0x58)),
    ([0x10008000, 0xD553CF0C, 0x415E58AA], Instr.fsub (field 4 0x58)),
    ([0x10008000, 0xD553CF0C, 0x425E58AA], Instr.fmul (field 4 0x58)),
    ([0x10008000, 0xD553CF0C, 0x435E58AA], Instr.ffma (field 4 0x58)),
    ([0x10008000, 0xD553CF0C, 0x445E58AA], Instr.fdiv (field 4 0x58)),
    ([0x10008000, 0xD553CF0C, 0x455E58AA], Instr.fmin (field 4 0x58)),
    ([0x10008000, 0xD553CF0C, 0x465E58AA], Instr.fmax (field 4 0x58)),
    ([0x10008000, 0xD553CF0C, 0x475E5EAA], Instr.fcmp (field 4 0x5E)),
    ([0x10008000, 0xD553CF0C, 0x485E5CAA], Instr.frnd (field 4 0x5C)),
    ([0x10008000, 0xD553CF0C, 0x4A5E3AAA], Instr.shfl (field 4 0x3A)),
    ([0x10008000, 0xD553CF0C, 0x4B5E3AAA], Instr.vote (field 4 0x3A)),
    ([0x10008000, 0xD553CF0C, 0x4C5E3AAA], Instr.vred (field 4 0x3A)),
    ([0x10008000, 0xD553CF0C, 0x4D5E3AAA], Instr.vscan false (field 4 0x3A)),
    ([0x10008000, 0xD553CF0C, 0x4E5E3AAA], Instr.vscan true (field 4 0x3A)),
    ([0x10008000, 0xD553CF0C, 0x805E58AA], Instr.fcvt (field 4 0x58)),
    ([0x10008000, 0xD553CF0C, 0x815E58AA], Instr.icvt (field 4 0x58)),
    ([0x10008000, 0xD553CF0C, 0x825E58AA], Instr.lcvt (field 4 0x58)),
    ([0x10008000, 0xD553CF0C, 0x835E58AA], Instr.lpack (field 4 0x58)),
    ([0x10008000, 0xD553CF0C, 0x845E58AA], Instr.lunpk (field 4 0x58))].all reads = true := by decide +kernel

theorem test_decodes_sfn : [
    ([0x04008000, 0xD553CF0C, 0x495E98AA], Instr.sfn (field 2 0x98))].all reads = true := by decide +kernel

theorem test_decodes_mem : [
    ([0x02008000, 0xD553CF0C, 0x005E76AA], Instr.fence (field 1 0x76)),
    ([0x02008000, 0xD553CF0C, 0x105E00AA], Instr.spill (field 1 0x00)),
    ([0x02008000, 0xD553CF0C, 0x115E00AA], Instr.fill (field 1 0x00)),
    ([0x02008000, 0xD553CF0C, 0x125E40AA], Instr.ldRng (field 1 0x40)),
    ([0x02008000, 0xD553CF0C, 0xC05E45AA], Instr.ld (field 1 0x45)),
    ([0x02008000, 0xD553CF0C, 0xC15E45AA], Instr.st (field 1 0x45)),
    ([0x02008000, 0xD553CF0C, 0xC25E45AA], Instr.ldv (field 1 0x45)),
    ([0x02008000, 0xD553CF0C, 0xC35E45AA], Instr.stv (field 1 0x45)),
    ([0x03018000, 0xD553CF0C, 0xC45E77AA, 0x00000008, 0x00000000], Instr.atom { field 1 0x77 with ext := some 0x8 }),
    ([0x03018000, 0xD553CF0C, 0xC55E77AA, 0x00000008, 0x00000000], Instr.atomAcq { field 1 0x77 with ext := some 0x8 }),
    ([0x03018000, 0xD553CF0C, 0xC65E77AA, 0x00000008, 0x00000000], Instr.atomRel { field 1 0x77 with ext := some 0x8 }),
    ([0x03018000, 0xD553CF0C, 0xC75E77AA, 0x00000008, 0x00000000], Instr.atomAr { field 1 0x77 with ext := some 0x8 }),
    ([0x02008000, 0xD553CF0C, 0xC85E00AA], Instr.pref (field 1 0x00)),
    ([0x02008000, 0xD553CF0C, 0xC95E00AA], Instr.stmap (field 1 0x00)),
    ([0x02008000, 0xD553CF0C, 0xCA5E00AA], Instr.stwb (field 1 0x00)),
    ([0x02008000, 0xD553CF0C, 0xCB5E00AA], Instr.stinv (field 1 0x00))].all reads = true := by decide +kernel

theorem test_decodes_mtx : [
    ([0x01008000, 0xD553CF0C, 0x015E27AA], Instr.xfer (field 0 0x27)),
    ([0x01008000, 0xD553CF0C, 0x025E27AA], Instr.xcancel (field 0 0x27)),
    ([0x01008000, 0xD553CF0C, 0x035E27AA], Instr.publish (field 0 0x27)),
    ([0x01008000, 0xD553CF0C, 0x045E27AA], Instr.mcast (field 0 0x27)),
    ([0x01008000, 0xD553CF0C, 0x055E27AA], Instr.redgrp (field 0 0x27)),
    ([0x01008000, 0xD553CF0C, 0x065E00AA], Instr.sendc (field 0 0x00)),
    ([0x01008000, 0xD553CF0C, 0x075E00AA], Instr.recvc (field 0 0x00)),
    ([0x01008000, 0xD553CF0C, 0xA05E00AA], Instr.mma (field 0 0x00)),
    ([0x01008000, 0xD553CF0C, 0xA15E00AA], Instr.accld (field 0 0x00)),
    ([0x01008000, 0xD553CF0C, 0xA25E00AA], Instr.accst (field 0 0x00)),
    ([0x01008000, 0xD553CF0C, 0xA35E00AA], Instr.accz (field 0 0x00)),
    ([0x01008000, 0xD553CF0C, 0xA45E00AA], Instr.osclaim (field 0 0x00)),
    ([0x01008000, 0xD553CF0C, 0xA55E00AA], Instr.osload (field 0 0x00)),
    ([0x01008000, 0xD553CF0C, 0xA65E00AA], Instr.osrel (field 0 0x00)),
    ([0x01008000, 0xD553CF0C, 0xA75E00AA], Instr.rowact (field 0 0x00)),
    ([0x01008000, 0xD553CF0C, 0xA75E80AA], Instr.rowactForce (field 0 0x80)),
    ([0x01008000, 0xD553CF0C, 0xA85E00AA], Instr.rowcon (field 0 0x00)),
    ([0x01008000, 0xD553CF0C, 0xA85E80AA], Instr.rowconW (field 0 0x80)),
    ([0x01008000, 0xD553CF0C, 0xA95E00AA], Instr.rowcls (field 0 0x00))].all reads = true := by decide +kernel

theorem test_decodes_nop : [
    ([0x80008000, 0xD553CF0C, 0xFF5E00AA], Instr.nop (field 7 0)),
    ([0x40008000, 0xD553CF0C, 0xFF5E00AA], Instr.nop (field 6 0)),
    ([0x20008000, 0xD553CF0C, 0xFF5E00AA], Instr.nop (field 5 0)),
    ([0x10008000, 0xD553CF0C, 0xFF5E00AA], Instr.nop (field 4 0)),
    ([0x08008000, 0xD553CF0C, 0xFF5E00AA], Instr.nop (field 3 0)),
    ([0x04008000, 0xD553CF0C, 0xFF5E00AA], Instr.nop (field 2 0)),
    ([0x02008000, 0xD553CF0C, 0xFF5E00AA], Instr.nop (field 1 0)),
    ([0x01008000, 0xD553CF0C, 0xFF5E00AA], Instr.nop (field 0 0))].all reads = true := by decide +kernel

/-- The LPF words of R315, R316, R335 and R401 that stand alone. -/
theorem test_decodes_table_words :
    decodeTableWord 32 0x90010000 = some (.barAw { slot := 7, mod := 0x40 }) ∧ decodeTableWord 32 0x90020000 = some (.barArr { slot := 7, mod := 0x80 }) ∧
    decodeTableWord 32 0x90030000 = some (.barWait { slot := 7, mod := 0xC0 }) ∧ decodeTableWord 32 0x80000000 = some (.fence { slot := 1 }) ∧
    (decodeTableWord 32 0x90B80000).isSome = true ∧ (decodeTableWord 32 0x909C8000).isSome = true ∧ (decodeTableWord 32 0x921C0000).isSome = true := by
  decide +kernel

/-- The native words of the spec's examples (R315, R340, R348, R357, R367, R391, R392 and the examples of the formats chapter). -/
theorem test_decodes_examples : [
    ([0x80008000, 0x00000000, 0x20004300], Instr.barAw { slot := 7, mod := 0x43 }),
    ([0x10008000, 0xC010000B, 0x81000800], Instr.icvt { slot := 4, mod := 0x08, dest := 3, a := 1, c := 0x0B }),
    ([0x01008000, 0x00C00000, 0xA0000000], Instr.mma { slot := 0, a := 12 }),
    ([0x40008000, 0x40600000, 0x3E007100], Instr.mov { slot := 6, mod := 0x71, dest := 1, a := 6 }),
    ([0x10008000, 0xC0100800, 0x47015A00], Instr.fcmp { slot := 4, gq := 1, mod := 0x5A, dest := 3, a := 1, b := 2 }),
    ([0x80008000, 0x03801400, 0x4D000000], Instr.regrel { slot := 7, a := 0x38, b := 5 }),
    ([0x80008000, 0x01000000, 0x4B000000], Instr.tnest { slot := 7, a := 0x10 }),
    ([0x80008000, 0x00000007, 0x48000000], Instr.trap { slot := 7, c := 7 }),
    ([0x03018000, 0x00260400, 0xC6F00701, 0x00000003, 0x00000000],
      Instr.atomRel { slot := 1, la := 15, mod := 0x07, dest := 4, a := 2, b := 0x181, ext := some 3 })].all reads = true := by decide +kernel

/-- The bundle of a CONST and an FFMA on each die class. -/
theorem test_decodes_bundles :
    (match decodeBundle [0x70208000, 0xC0000000, 0x1C004001, 0x89ABCDEF, 0x01234567, 0x40100803, 0x43005801] with
      | .ok (b, []) => b.ops == [(6, 0x1C004001C0000000), (5, 0x0123456789ABCDEF), (4, 0x4300580140100803)]
      | _ => false) = true ∧
    (match decodeBundle [0xD0408000, 0xC0000000, 0x1C004001, 0x89ABCDEF, 0x01234567, 0x40100803, 0x43005801] with
      | .ok (b, []) => b.ops == [(7, 0x1C004001C0000000), (6, 0x0123456789ABCDEF), (4, 0x4300580140100803)]
      | _ => false) = true := by decide +kernel

/-- The LPF headers of the spec's examples: opcode, type, MOD, guard and number of operand words. -/
theorem test_decodes_lpf : [
    (0x90010C00, 0x120, 0, 0x43, 0), (0x23AD00E0, 0x047, 0x0B, 0x40, 3), (0x40296040, 0x080, 0x0A, 0x58, 1), (0x40856040, 0x081, 1, 0x58, 1),
    (0xA61C0040, 0x14C, 7, 0, 1), (0x41356040, 0x082, 0x0D, 0x58, 1), (0x8181C840, 0x103, 0, 0x72, 1), (0xA6800080, 0x14D, 0, 0, 2),
    (0x24ACE040, 0x049, 0x0B, 0x38, 1), (0xA11C0180, 0x142, 7, 0, 6), (0xA5800040, 0x14B, 0, 0, 1), (0xA4000040, 0x148, 0, 0, 1),
    (0x630C1C80, 0x0C6, 3, 7, 2), (0xA3800000, 0x147, 0, 0, 0)].all (fun e => let w : W32 := BitVec.ofNat 32 e.1
      (w.extractLsb' 23 9).toNat == e.2.1 && (w.extractLsb' 18 5).toNat == e.2.2.1 && (w.extractLsb' 10 8).toNat == e.2.2.2.1 &&
        (w.extractLsb' 6 4).toNat == e.2.2.2.2) = true := by decide +kernel

/-! ### Results of single instructions -/

/-- One thread with words in p1, p2 and p4. -/
def withABC (x y z : Word) : State := running (withRegs [(1, x), (2, y), (4, z)])

/-- The results that an instruction sends on their way: destination and first word of thread 0, and the float exceptions. -/
def sends (i : Instr) (s : State) : List (Nat × Option Word) × Nat :=
  match exec i s with
  | .next t => (t.me.inflight.map fun l => (l.dest, (l.vals.head?).bind fun v => v.2.head?), (t.me.inflight.head?.map (·.flags)).getD 0)
  | _ => ([], 99)

/-- The result of an op of slot 6 or 4 into p3. -/
def value (i : Instr) (x y : Word) (z : Word := 0) : Option Word := ((sends i (withABC x y z)).1.head?).bind (·.2)

/-- The traps that the threads hold after an instruction. -/
def traps (i : Instr) (s : State) : List Trap :=
  match exec i s with
  | .next t => t.me.threads.filterMap fun e => e.2.trap.map (·.trap)
  | _ => []

theorem test_add_wraps : value (.add (opD 6 5)) 255 1 = some 0 ∧ value (.add (opD 6 3)) 0x7FFFFFFF 1 = some 0xFFFFFFFF80000000 := by decide +kernel
theorem test_sub_borrows : value (.sub (opD 6 7)) 0 1 = some 0xFFFFFFFF := by decide +kernel
theorem test_mul_low : value (.mul (opD 6 8)) (2 ^ 32) (2 ^ 32 + 1) = some (2 ^ 32) := by decide +kernel
/-- The example of R349: mulhi of −2 and 3. -/
theorem test_mulhi_signs : value (.mulhi (opD 6 3)) 0xFFFFFFFFFFFFFFFE 3 = some 0xFFFFFFFFFFFFFFFF ∧ value (.mulhi (opD 6 7)) 0xFFFFFFFE 3 = some 2 := by
  decide +kernel
theorem test_div_truncates : value (.div (opD 6 4)) (-7) 2 = some (-3) ∧ value (.rem (opD 6 4)) (-7) 2 = some (-1) := by decide +kernel
/-- R158: a zero divisor with IDZ clear, and with IDZ set. -/
theorem test_div_by_zero : value (.div (opD 6 7)) 5 0 = some 0xFFFFFFFF ∧ value (.rem (opD 6 7)) 5 0 = some 5 := by decide +kernel
theorem test_div_traps : traps (.div (opD 6 7)) ((withABC 5 0 0).modMe fun c => { c with regs := { c.regs with fpctl := 8 } }) = [⟨.divZero, 0, 0⟩] := by
  decide +kernel
theorem test_logic : value (.and (opD 6 8)) 12 10 = some 8 ∧ value (.or (opD 6 8)) 12 10 = some 14 ∧ value (.xor (opD 6 8)) 12 10 = some 6 ∧
    value (.not (opD 6 5)) 0x0F 0 = some 0xF0 := by decide +kernel
/-- The examples of R349 and R379: a rotation by 33, and shifts of bit 31. -/
theorem test_shifts : value (.rot (opD 6 7)) 0x80000001 33 = some 3 ∧ value (.shra (opD 6 7)) 0x80000000 4 = some 0xF8000000 ∧
    value (.shr (opD 6 7)) 0x80000000 4 = some 0x08000000 ∧ value (.shl (opD 6 5)) 0xC1 1 = some 0x82 := by decide +kernel
/-- The examples of R306. -/
theorem test_bfx : value (.bfx (opD 6 7)) 0x0F80 0x0507 = some 31 ∧ value (.bfx (opD 6 3)) 0x0F80 0x0507 = some 0xFFFFFFFFFFFFFFFF ∧
    value (.bfx (opD 6 7)) 0x0F80 0x1C1E = some 0 := by decide +kernel
theorem test_bfi : value (.bfi (opD 6 7)) 0xFFFFFFFF 0 0x0804 = some 0xFFFFF00F := by decide +kernel
theorem test_counts : value (.clz (opD 6 7)) 1 0 = some 31 ∧ value (.clz (opD 6 6)) 0 0 = some 16 ∧ value (.popc (opD 6 8)) 0xFF00 0 = some 8 ∧
    value (.brev (opD 6 5)) 1 0 = some 0x80 := by decide +kernel
theorem test_min_max : value (.min (opD 6 3)) (-1) 1 = some (-1) ∧ value (.min (opD 6 7)) 0xFFFFFFFF 1 = some 1 ∧ value (.max (opD 6 1)) (-128) 127 = some 127 := by
  decide +kernel
theorem test_neg_abs : value (.neg (opD 6 4)) 5 0 = some (-5) ∧ value (.abs (opD 6 2)) (-300) 0 = some 300 := by decide +kernel
/-- Relations 2 (lt) and 5 (ge), signed and unsigned (R307). -/
theorem test_cmp : value (.cmp (opD 6 4 2)) (-1) 0 = some 1 ∧ value (.cmp (opD 6 8 2)) (-1) 0 = some 0 ∧ value (.cmp (opD 6 4 5)) (-1) 0 = some 0 := by
  decide +kernel
/-- The examples of R159 and R348: a sum of 128 bits in two steps, and a product and two words to add. -/
theorem test_carries : (sends (.addc { opD 7 8 with ext := some 5 }) (withABC (2 ^ 64 - 1) 1 0)).1 = [(3, some 0), (5, some 1)] ∧
    (sends (.addc { opD 7 8 with ext := some 5 }) (withABC 1 0 1)).1 = [(3, some 2), (5, some 0)] ∧
    (sends (.subb { opD 7 8 with ext := some 5 }) (withABC 0 0 1)).1 = [(3, some (2 ^ 64 - 1)), (5, some 1)] ∧
    (sends (.madc { opD 7 7 with ext := some 0x405 }) (withABC 0xFFFFFFFF 0xFFFFFFFF 0xFFFFFFFF)).1 = [(3, some 0xFFFFFFFF), (5, some 0xFFFFFFFF)] := by
  decide +kernel
theorem test_mov_const : value (.mov (opD 6 8)) 77 0 = some 77 ∧ value (.const { opD 6 0xB with b := 0x1D2 }) 0 0 = some 0x3F800000 := by decide +kernel
theorem test_fadd_rounds : value (.fadd (opD 4 0xB)) 0x3F800000 0x40000000 = some 0x40400000 ∧ value (.fadd (opD 4 0xB)) 0x4B800000 0x3F800000 = some 0x4B800000 := by
  decide +kernel
theorem test_fma_div : value (.ffma (opD 4 0xB)) 0x40000000 0x40400000 0x3F800000 = some 0x40E00000 ∧
    value (.fdiv (opD 4 0xB)) 0x3F800000 0x40400000 = some 0x3EAAAAAB ∧ value (.fmul (opD 4 0xB)) 0x40400000 0x40400000 = some 0x41100000 := by decide +kernel
/-- The example of R335: a tie to even, and the same rounded up, both inexact (NX is bit 4 of the set by R146). -/
theorem test_fcvt_tie : sends (.fcvt { opD 4 0xA with c := 0xB }) (withABC 0x3F808000 0 0) = ([(3, some 0x3F80)], 1) := by decide +kernel
/-- The examples of R345. -/
theorem test_lcvt : [(0x40400000, 0x1A), (0xBC23D70A, 0), (0x42C80000, 0x1F), (0xFF800000, 0x3F)].all (fun e =>
    value (.lcvt { opD 4 0xD with c := 0xB }) (word64 e.1) 0 == some (word64 e.2)) = true := by decide +kernel
/-- The example of R347, under shape 1 × 4: the codes lie in the bytes of p1. -/
theorem test_lpack : value (.lpack { opD 4 7 with rows := 0, cols := 3 }) 0x0A132D16 0 = some 0x00293B56 := by decide +kernel
theorem test_icvt : value (.icvt { opD 4 0xB with c := 3 }) 16777217 0 = some 0x4B800000 := by decide +kernel
/-- The example of R392. -/
theorem test_trap_sub : traps (.trap (opJ 7 7)) one = [⟨.software, 7, 0⟩] := by decide +kernel
/-- The example of R143, R192: one L6 group adds to an accumulator of 1.0. -/
theorem test_mma_l6 : (Mtx.mmaElem { opmem := [(0, 0x56), (1, 0x0B), (16384, 0x13), (16480, 0x0A), (28672, 0xFD)] } 0 0 1 1 0 false 0x3F800000 0 0) = 0x3FD6827E := by
  decide +kernel

/-- Reserved codes and headers are refused (R293, R298). -/
theorem test_refuses :
    (decode [0x80008000, 0, 0x1D000000]).isOk = false ∧ (decode [0x40008000, 0, 0x04000000]).isOk = false ∧ (decode [0x10008000, 0, 0x49000000]).isOk = false ∧
    (decode [0x02008000, 0, 0x01000000]).isOk = false ∧ (decode [0x01008000, 0, 0xAA000000]).isOk = false ∧ (decode [0x80009000, 0, 0x44000000]).isOk = false ∧
    (decode [0x80008001, 0, 0x44000000]).isOk = false ∧ (decode [0x80008000, 0]).isOk = false := by decide +kernel

end Sys2Proof.Tests
end

