-- ==== Sys2Proof/Tests/WitnessControl.lean ====
section
/-! SUPPORT. States and operands that meet the hypotheses of the statements about control flow, barriers, templates, control
registers, engines and circuits. -/

-- One theorem after another: every test evaluates in the kernel, and tests in parallel cost a thread stack each.
set_option Elab.async false

namespace Sys2Proof.Tests

open Sys2Proof Sys2Proof.Machine Sys2Proof.Claims

/-- Both threads at the CALL, at the callee, and at the callee's code without a call. -/
def atCall : State := site (two (pair ⟨1, 0⟩) ready ready)
def called : Thread := { ready with calls := [⟨0, 0, 0⟩], frameBase := 4 }
def atCallee : State := site (two (pair ⟨2, 0⟩) called called)
def atEntry : State := site (two (pair ⟨2, 0⟩) ready ready)

/-- An edge that swaps p1 and p2 and one that spills p1 to frame word 0. -/
def swap : Edge := ⟨1, [(.reg 1, .reg 2), (.reg 2, .reg 1)]⟩
def toFrame : Edge := ⟨0, [(.reg 1, .frame 0)]⟩

theorem meets_LoweredBranches : EdgesSound atEntry (fun _ _ => swap) [] ∧
    EdgesSound atEntry (fun l th => if (atEntry.locRead l th (.reg 1)).getLsbD 0 then swap else toFrame) [.reg 1] ∧
    EdgesSound atEntry (fun l th => (([(1, swap)].find? fun c : Word × Edge =>
      c.1.setWidth (tyBits 7) == (atEntry.locRead l th (.reg 1)).setWidth _).map (·.2)).getD toFrame) [.reg 1] := by
  simp only [EdgesSound]; decide +kernel

theorem meets_LoweredBranches_copies : atEntry.me.Tidy ∧ atEntry.group.lanes ≠ [] ∧ (swap.moves.map (·.2)).Nodup ∧
    swap.moves.all (fun m => m.2 == .reg 1 || m.2 == .reg 2) = true := by
  simp only [tidy_iff]; decide +kernel

/-- A state of a core in the prepare form, with b register 3 fetched. -/
def prepared (g : Group) : State :=
  let s := site { two g ready { ready with qs := 2 } with regs := { segs with bregs := [(3, ⟨some ⟨2, 1⟩, some 0, true⟩)] } }
  s.modCore 0 fun c => { c with sel := { c.sel with brmode := 3 } }

def nearOp : Op := opJ 7 1
def prepOp : Op := opMod 7 0x83
def farOp : Op := { opMod 7 0x40 with ext := some 0 }

theorem meets_NativeBranches_near : NoSkip atEntry ∧ atEntry.prepForm 0 0 = false ∧ atEntry.target nearOp = some ⟨2, 1⟩ ∧
    atEntry.active nearOp ≠ [] := by
  simp only [NoSkip]; decide +kernel

theorem meets_NativeBranches_prepared : let s := prepared (pair ⟨2, 0⟩)
    NoSkip s ∧ s.prepForm 0 0 = true ∧ tget s.me.regs.bregs 3 = some ⟨some ⟨2, 1⟩, some 0, true⟩ ∧ s.me.Tidy ∧
      resting s prepOp = [] ∧ resting s { prepOp with gq := 1 } = [0] := by
  simp only [NoSkip, tidy_iff]; decide +kernel

theorem meets_NativeBranches_far : acting atCallee farOp = [0, 1] ∧ acting (prepared (pair ⟨2, 0⟩)) farOp = [0, 1] ∧
    (∀ th ∈ [0, 1], atCallee.StubHolds (regionKey atCallee 0 th) (2, callee)) ∧ (callee.entryAt 0 0).isSome = true := by
  refine ⟨by decide +kernel, by decide +kernel, fun th h => stubHolds_of ?_, by decide +kernel⟩
  revert th h; decide +kernel

/-- The callee's code has gone from the instruction memory. -/
def coldEntry : State := atEntry.modCore 0 fun c => { c with resident := [] }
def pbrOp : Op := { opJ 7 1 with mod := 3 }

theorem meets_PrepareAndRegroup :
    (atEntry.active pbrOp ≠ [] ∧ atEntry.target pbrOp = some ⟨2, 1⟩ ∧ atEntry.codeHere 0 0 ⟨2, 1⟩ = true) ∧
    coldEntry.codeHere 0 0 ⟨2, 1⟩ = false ∧ Bare (opMod 7 0) ∧ atEntry.me.Tidy ∧ atEntry.active { opMod 7 0 with gn := true } = [] := by
  simp only [Bare, tidy_iff]; decide +kernel

theorem meets_RaisingOps : atEntry.cur.2 < 4 ∧ atEntry.collect = none ∧ atEntry.me.Tidy ∧ atEntry.active (opJ 7 255) ≠ [] := by
  simp only [tidy_iff]; decide +kernel

theorem meets_CallsAndReturns_call : atCall.me.Tidy ∧ callOp.j.extractLsb' 0 14 = 0#14 ∧ (callOp.j.extractLsb' 14 16).toNat = 1 ∧
    1 < ((tget atCall.objs atCall.hereKey.obj).map (·.funcs.length)).getD 0 ∧ acting atCall callOp = [0, 1] ∧
    ∀ th ∈ [0, 1], atCall.StubHolds { atCall.hereKey with func := 1, region := 0, budget := (atCall.me.thread th).budget } (2, callee) ∧
      8 * ((atCall.me.thread th).frameBase + 4 + callee.frame) ≤ atCall.effLimit atCall.me 1 := by
  have h : ∀ th ∈ [0, 1], stubB atCall { atCall.hereKey with func := 1, region := 0, budget := (atCall.me.thread th).budget } (2, callee) = true ∧
      8 * ((atCall.me.thread th).frameBase + 4 + callee.frame) ≤ atCall.effLimit atCall.me 1 := by decide +kernel
  simp only [tidy_iff]
  refine ⟨?_, ?_, ?_, ?_, ?_, fun th ht => ⟨stubHolds_of (h th ht).1, (h th ht).2⟩⟩ <;> decide +kernel

theorem meets_CallsAndReturns_ret : atCallee.me.Tidy ∧ acting atCallee (opMod 7 0) = [0, 1] ∧
    ((atCallee.funcOf atCallee.hereKey).map (·.entry)).getD false = false ∧ (caller.returnAt 0 0).isSome = true ∧
    ∀ th ∈ [0, 1], (atCallee.me.thread th).calls = [⟨0, 0, 0⟩] ∧ atCallee.StubHolds (returnKey atCallee th ⟨0, 0, 0⟩) (1, caller) := by
  have h : ∀ th ∈ [0, 1], (atCallee.me.thread th).calls = [⟨0, 0, 0⟩] ∧ stubB atCallee (returnKey atCallee th ⟨0, 0, 0⟩) (1, caller) = true := by
    decide +kernel
  simp only [tidy_iff]
  refine ⟨?_, ?_, ?_, ?_, fun th ht => ⟨(h th ht).1, stubHolds_of (h th ht).2⟩⟩ <;> decide +kernel

/-- Threads that end: in an entry function, without a call, and all the threads of the workgroup. -/
theorem meets_CallsAndReturns_end : ((atCall.funcOf atCall.hereKey).map (·.entry)).getD false = true ∧
    (∀ th ∈ acting atEntry (opMod 7 0), (atEntry.me.thread th).calls = [] ∧ atEntry.me.isBuilder th = false) ∧ atEntry.cur.2 < 4 ∧
    atEntry.active (opMod 7 0) ≠ [] ∧ ∀ th ∈ atEntry.me.live, th ∈ acting atEntry (opMod 7 0) := by decide +kernel

/-! ### Barriers, registers, templates -/

/-- Both threads, of which thread 1 alone has q1, at a barrier. -/
def atBarrier (id : Nat) (b : Bar) : State := site { two (pair ⟨2, 0⟩) ready { ready with qs := 2 } with bars := [(id, b)] }

theorem meets_BarrierResults : ∀ f ∈ [(1, 0, 0), (2, 15, 1), (3, 15, 1)],
    BarSound (atBarrier f.2.1 {}) (opMod 7 (f.1 * 64 + f.2.1)) f.1 f.2.1 f.2.2 2 := by
  simp only [BarSound, tidy_iff]; decide +kernel

theorem meets_BarrierResults_arrivals :
    (acting (atBarrier 0 {}) { opMod 7 0x40 with gq := 1 } = [1] ∧ acting (atBarrier 0 {}) (opMod 7 0x40) = [0, 1] ∧
      (atBarrier 0 {}).me.expected 2 = 2 ∧ Enough (atBarrier 0 {}) 2 [1]) ∧
    (let s := atBarrier 15 { arrived := [0], owed := [0, 1], phase := 65535 };
      (∀ th ∈ acting s (opMod 7 0xCF), th ∈ (s.me.bar 15).owed) ∧ (s.me.bar 15).arrived.length < s.me.expected 2 ∧ Enough s 2 (s.me.bar 15).arrived) ∧
    Sound (atBarrier 15 {}) { opMod 7 0x2F with dest := 3 } [] 3 1 ∧ ((atBarrier 15 {}).barDecl (atBarrier 15 {}).me 15).isSome = true := by
  simp only [Enough, sound_iff]; decide +kernel

/-- REGREL of 8, and REGCLM of 239, the most that a budget of 16 can take, for sub-groups of both threads. -/
def regOp (n lg : Nat) : Op := opJ 7 (n * 2 ^ 20 + lg * 2 ^ 10)

theorem meets_RegisterBudget : RegSound atEntry (regOp 8 1) 8 1 ∧ RegSound atEntry (regOp 239 1) 239 1 := by
  simp only [RegSound, tidy_iff]; decide +kernel

theorem meets_RegisterBudget_room : NoSkip atEntry ∧ atEntry.cur.2 < 4 ∧ atEntry.active (regOp 8 1) ≠ [] ∧
    (∀ th ∈ atEntry.group.threads, 8 + 8 ≤ (atEntry.me.thread th).budget ∧ (atEntry.me.thread th).budget + 239 ≤ 255 ∧
      239 * ((subGroup th 1).filter atEntry.me.live.contains).length ≤ atEntry.poolFree atEntry.cur.1) ∧
    (∀ e ∈ atEntry.me.threads, e.2.place ≠ .regclm) ∧ atEntry.home.claims = [] := by
  simp only [NoSkip]; decide +kernel

/-- Two threads at a TNEST of g = 2; the founder of a nest at its FREEZE, with thread 1 parked; and the founder of the launch. -/
def nested : Thread := { ready with level := 1 }
def atTnest : State := site (two (pair ⟨1, 0⟩) nested nested)
def atFreeze : State := site
  { two { lanes := [(0, 0)], pc := ⟨1, 0⟩ } nested { nested with place := .tnest, claim := some (2, 0, ⟨1, 0⟩) } with
    tmpl := { opened := 1, sizes := [], tnest := some (0, 0, 2) } }
def atFounder : State := site
  { two { lanes := [(0, 0)], pc := ⟨1, 0⟩ } ready ready with threads := [(0, ready)], wg := some { wg0 with founder := true, size := 1 } }

def tnestOp : Op := opJ 7 (2 * 2 ^ 20)
def freezeOp : Op := opJ 7 (2 ^ 20)

theorem meets_TemplateSteps_nest : atTnest.me.Tidy ∧ NoSkip atTnest ∧ tnestOp.j = BitVec.ofNat 30 (2 * 2 ^ 20) ∧ atTnest.home.claims = [] ∧
    (∀ th ∈ atTnest.group.threads, tnestTrap atTnest.me (atTnest.templated atTnest.me)
        (((atTnest.funcOf atTnest.hereKey).map (·.levels)).getD 4) (atTnest.point 0 atTnest.me.pc) 2 th = none ∧
      atTnest.me.tmpl.nests[(atTnest.me.thread th).level - 1]? = none) ∧
    0 ∈ atTnest.group.threads ∧ ∀ e ∈ atTnest.me.threads, e.2.place ≠ .tnest := by
  simp only [tidy_iff, NoSkip]; decide +kernel

theorem meets_TemplateSteps_freeze : ∀ s ∈ [atFreeze, atFounder], s.me.Tidy ∧ (s.freezeCont.map fun c => (c.1, c.2.args)) = some (1, [8]) ∧
    s.top freezeOp = some (0, 0) ∧ (∀ e ∈ s.active freezeOp, s.mayFreeze e.2 = true) ∧
    s.accTraps s.cur.1 s.cur.2 .load 8 [frameAcc s.me 0 0 0] = [] ∧ s.accFaults s.cur.1 s.cur.2 .load [frameAcc s.me 0 0 0] = [] := by
  simp only [tidy_iff]; decide +kernel

theorem meets_TemplateSteps_founder : atFounder.me.isFounder = true ∧ atFounder.launchOf atFounder.me = some launch0 ∧
    atFounder.lastFault launch0 = none ∧ (atFounder.releaseStart 0 0 0 7).releaseReady 0 0 7 = true := by decide +kernel

theorem meets_TemplateSteps_level : atFreeze.me.isFounder = false ∧ atFreeze.me.tmpl.tnest = some (0, 0, 2) ∧ (func0.reserve[1]?).getD 0 = 1 ∧
    caller.entryAt 1 0 = some 3 ∧ ∀ u ∈ [0, 1], atFreeze.StubHolds (atFreeze.blockKey 1 u) (1, caller) := by
  refine ⟨by decide +kernel, by decide +kernel, by decide +kernel, by decide +kernel, fun u h => stubHolds_of ?_⟩
  revert u h; decide +kernel

/-! ### Control registers -/

/-- A CSRRD and a CSRWR of an address, the latter from p1. -/
def rdOp (a : Nat) : Op := { opJ 7 (a * 2 ^ 18) with dest := 3 }
def wrOp (a : Nat) : Op := opJ 7 (a * 2 ^ 18 + 1)

/-- The firmware slot of core 0 runs. -/
def fwCtx (rs : Tab Word) : Ctx := { withRegs rs with regs := segs }
def fw (rs : Tab Word) : State :=
  { phase := .running, parts := [(0, part0)], cur := (0, 4), cores := [(0, { ctxs := [(4, fwCtx rs)], tlb := [page0] })] }

/-- A context with a CSRWR of BINAGE to take effect, and the firmware slot with one of LEASECTL. -/
def lateWrite : State := world { segCtx [] with csrLate := [(0x010, 5)], group := none }
def lateFirmware : State := (fw []).modCtx 0 4 fun c => { c with csrLate := [(0x152, 5)] }

theorem meets_ControlRegisters :
    (∀ r ∈ userCsrs atEntry, r.1 < 2 ^ 12 ∧ (rdOp r.1).j = BitVec.ofNat 30 (r.1 * 2 ^ 18) ∧ (rdOp r.1).ext = none ∧ (rdOp r.1).mod = 0#8) ∧
    Sound atEntry (rdOp 0x0C5) [] 3 1 ∧ (fw []).partOfCore 0 = some (0, part0) ∧ (firmwareCsrs (fw []) part0).length = 11 ∧
    Sound (fw []) (rdOp 0x171) [] 3 1 := by
  simp only [sound_iff]; decide +kernel

/-- An address that a user context may not name, and one that no register has. -/
theorem meets_ControlRegisters_traps : atEntry.cur.2 < 4 ∧ atEntry.collect = none ∧ atEntry.me.Tidy ∧ atEntry.active (rdOp 0x100) ≠ [] ∧
    Sound atEntry (rdOp 0x100) [] 3 1 ∧ (∀ r ∈ userCsrs atEntry, r.1 ≠ 0x0FF) ∧ atEntry.top (wrOp 0x100) = some (1, 1) ∧
    Readable atEntry (wrOp 0x100) [(1, 1)] := by
  simp only [sound_iff, readable_iff, tidy_iff]; decide +kernel

theorem meets_ControlRegisters_write : (wrOp 0x016).j = BitVec.ofNat 30 (0x016 * 2 ^ 18 + 1) ∧ atEntry.top (wrOp 0x016) = some (1, 1) ∧
    Readable atEntry (wrOp 0x016) [(1, 1)] ∧ MayWrite atEntry 0x016 (atEntry.word (wrOp 0x016) 1 1 1) ∧
    (fw [(1, 4)]).top (wrOp 0x171) = some (0, 0) ∧ Readable (fw [(1, 4)]) (wrOp 0x171) [(1, 1)] ∧ MayWrite (fw [(1, 4)]) 0x171 4 := by
  simp only [readable_iff, MayWrite]; decide +kernel

theorem meets_ControlRegisters_late : (lateWrite.ctx 0 0).csrLate = [(0x010, 5)] ∧ (∃ w ∈ writtenCsrs 5 0 0, w.1 = 0x010) ∧
    (lateFirmware.ctx 0 4).csrLate = [(0x152, 5)] ∧ lateFirmware.partOfCore 0 = some (0, part0) ∧
    ∃ w ∈ writtenByFirmware lateFirmware 5 0 0, w.1 = 0x152 :=
  ⟨by decide +kernel, ⟨_, .head _, rfl⟩, by decide +kernel, by decide +kernel, ⟨_, .tail _ (.tail _ (.tail _ (.head _))), rfl⟩⟩

/-! ### Transfers, events and collectives -/

/-- The descriptor of two rows of 16 bytes from G into S, at p8; a loop's steps at p16; and the given word in p1. -/
def xferRegs (w : Word) : Tab Word :=
  [(1, w), (8, ptr 0 4096), (9, ptr 2 0), (10, word64 (15 * 2 ^ 24 + 1)), (11, 64), (12, 16), (16, 128), (17, 32), (18, 100)]

def xferAt (c : Chan) (arm : Option Arming) (evq : List Word) (buf : List Transfer) (w : Word) : State :=
  let s := world { segCtx (xferRegs w) with wg := some wg0, eng := { chans := [(1, c)], arming := arm, evq := evq } }
  s.modCore 0 fun n => { n with eng := { n.eng with buf := buf } }

/-- An engine op: scope dev, channel 1, a tile of 8 elements at p8; and XLOOP. -/
def engOp (mod : Nat) : Op := { opMod 0 mod with dest := 24, a := 8, rows := 1, cols := 3 }
def devOp : Op := engOp (7 * 16 + 1)
def loopOp : Op := { opMod 7 0 with a := 1, b := 16, rows := 1, cols := 3 }

def idle : State := xferAt {} none [] [] 0
def full : State := xferAt { next := 2 ^ 31 - 1 } none [] [] 0
def arm2 : Arming := ⟨2, 128, 32, 100⟩
def armed : State := xferAt {} (some arm2) [] [] 0
def armer : State := xferAt {} none [] [] 65535

theorem meets_TransfersIssue : idle.top devOp = some (0, 0) ∧ devOp.legalV 0x101 7 = true ∧ devOp.elems = 8 ∧
    Sound idle devOp [(devOp.selA, 8)] 24 1 ∧ xferDescOk idle (scopeOf devOp) (idle.run devOp 0 0 devOp.selA 8) = true ∧
    idle.loopOn 0 (idle.engEnv 0 0) = false ∧ XferSound idle (xferOf idle devOp (0, 0)) ∧ (idle.me.chan 1).full 1 = false ∧
    idle.home.eng.buf.length < 64 := by
  simp only [sound_iff, XferSound]; decide +kernel

theorem meets_TransfersIssue_full : (full.me.chan 1).full 1 = true ∧ XferSound full (xferOf full devOp (0, 0)) ∧
    (∀ u ∈ loopOf armed devOp (0, 0) arm2 ++ [xferOf armed devOp (0, 0)], XferSound armed u) ∧
    armed.me.eng.arming = some arm2 ∧ (armed.me.chan 1).full arm2.count = false := by
  simp only [XferSound]; decide +kernel

theorem meets_TransfersIssue_loop : loopOp.legalV 0x123 0 = true ∧ loopOp.elems = 8 ∧ armer.top loopOp = some (0, 0) ∧
    Readable armer loopOp [(loopOp.selA, 1), (loopOp.selB, 8)] ∧ armer.scalar loopOp 0 0 loopOp.selA 7 = 65535 ∧
    armer.run loopOp 0 0 loopOp.selB 8 = [128, 32, 100, 0, 0, 0, 0, 0] ∧ armer.loopOn 0 (armer.engEnv 0 0) = false := by
  simp only [readable_iff]; decide +kernel

/-- The transfer of identifier 1 in the buffer, and a channel whose identifier 1 has ended. -/
def buffered : State := xferAt { next := 1 } none [5] [xferOf (xferAt {} none [] [] 1) devOp (0, 0)] 1
def ended : State := xferAt { next := 1, done := 1 } none [] [] 1
def chanOp : Op := { opMod 7 1 with a := 1, dest := 24 }

theorem meets_ChannelStatus : buffered.top chanOp = some (0, 0) ∧ (opMod 7 0).legalV 0x122 8 = true ∧ chanOp.legalV 0x124 7 = true ∧
    Sound buffered chanOp [] 24 1 ∧ chanOp.legalV 0x125 0 = true ∧ chanOp.legalV 0x102 0 = true ∧ Readable buffered chanOp [(chanOp.selA, 1)] ∧
    (buffered.me.chan 1).notIssued 1 = false ∧ (buffered.me.chan 1).below 1 = false := by
  simp only [sound_iff, readable_iff]; decide +kernel

theorem meets_ChannelStatus_ended : ((ended.me.chan 1).below 1 = true ∧ (ended.me.chan 1).notIssued 1 = false ∧
    ∀ n ∈ ended.cores, n.2.eng.buf = [] ∧ n.2.eng.loops = [] ∧ n.2.eng.running = none) ∧
    ∃ core, buffered.cores = [] ++ (0, core) :: [] ∧ ∃ u ∈ core.eng.buf, u.is (buffered.engEnv 0 0) 1 1 = true :=
  ⟨by decide +kernel, _, rfl, _, .head _, by decide +kernel⟩

/-- A complete shadow of identifier 1 on channel 1, of two bytes in S. -/
def shadowDone : State := xferAt { next := 1, done := 1, ops := [(1, ⟨7, true, .done, [(none, (ptr 2 256).toNat, [1, 2])]⟩)] } none [] [] 1
def publishOp : Op := { opMod 0 (7 * 16 + 1) with a := 1 }

theorem meets_PublishAndCollectives : shadowDone.top publishOp = some (0, 0) ∧ publishOp.legalV 0x103 0 = true ∧
    Readable shadowDone publishOp [(publishOp.selA, 1)] ∧ shadowDone.scalar publishOp 0 0 publishOp.selA 7 = 1 ∧
    (shadowDone.me.chan 1).notIssued 1 = false ∧ shadowRun (tget (shadowDone.me.chan 1).ops 1) = [(none, (ptr 2 256).toNat, [1, 2])] ∧
    shadowDone.accFaults 0 0 .store (shadowAccs 0 (shadowRun (tget (shadowDone.me.chan 1).ops 1))) = [] ∧
    (shadowDone.releaseStart 0 0 0 7).releaseReady 0 0 7 = true := by
  simp only [readable_iff]; decide +kernel

/-- A collective of 16 bytes from S byte 64 to S byte 128, element type z32, group 1, targets `mask`. -/
def collRegs (mask n : Nat) : Thread := { ready with regs := [(8, ptr 2 64), (9, ptr 2 128), (10, word64 n), (11, word64 (2 ^ 24 + 2 ^ 16 + mask))] }
def collAt (mask n : Nat) (groups : Tab GroupUse) : State :=
  { site { two { lanes := [(0, 0)], pc := ⟨2, 0⟩ } ready ready with threads := [(0, collRegs mask n)] } with
    cohorts := [(0, { cohort0 with groups := groups })] }

def collOp : Op := { opMod 0 0x20 with a := 8, rows := 0, cols := 3 }
def reduceWord : Nat := 7 * 2 ^ 16 + 3

/-- MCAST and REDGRP with their opcodes, at a free group; an MCAST at one in use; and a REDGRP that joins one. -/
def collForms : List (State × Nat × Bool) := [(collAt 2 1 [], 0x104, false), (collAt 3 reduceWord [], 0x105, true)]
def collBusy : State := collAt 2 1 [(1, ⟨false, 2, 16, 0, 0, [], [], [1], none⟩)]
def collJoined : State := collAt 3 reduceWord [(1, ⟨true, 3, 16, 7, 0, [], [], [], none⟩)]

theorem meets_PublishAndCollectives_collectives : ∀ c ∈ collForms, collOp.legalV c.2.1 0 = true ∧ collOp.elems = 4 ∧ c.1.top collOp = some (0, 0) ∧
    collDescOk c.2.2 0 0 (c.1.run collOp 0 0 8 4) = true ∧ c.1.collTrap c.1.me 0 (collDesc c.2.2 (c.1.run collOp 0 0 8 4)) = none ∧
    c.1.groupUse 0 (collDesc c.2.2 (c.1.run collOp 0 0 8 4)).group = none ∧
    (c.1.me.chan (collDesc c.2.2 (c.1.run collOp 0 0 8 4)).chan).full 1 = false := by decide +kernel

theorem meets_PublishAndCollectives_joined : (collBusy.groupUse 0 1).isSome = true ∧ (collDesc false (collBusy.run collOp 0 0 8 4)).group = 1 ∧
    Readable collBusy collOp [(collOp.selA, 4)] ∧ collJoined.groupUse 0 1 = some ⟨true, 3, 16, 7, 0, [], [], [], none⟩ ∧
    (let d := collDesc true (collJoined.run collOp 0 0 8 4);
      d.group = 1 ∧ d.tmask = 3 ∧ d.len = 16 ∧ d.ety = 7) := by
  simp only [readable_iff]; decide +kernel

/-! ### Circuits -/

/-- Logical core 0 on core 0 and its peer on core 1, which has 8 words at p8 to send; `fl` messages fly, `rx` have arrived. -/
def circuit (fl : List (Nat × Nat × Nat × List Word)) (rx : Tab (List (List Word))) (credits : Tab (List Nat)) (inflight : List Landing) : State :=
  let c : Ctx := { segCtx [(1, 1)] with wg := some wg0, eng := { rx := rx, credits := credits }, inflight := inflight }
  let s := site c
  { s with
    cohorts := [(0, { cohort0 with flying := fl })]
    cores := s.cores ++ [(1, { ctxs := [(0, { segCtx [] with wg := some { wg0 with logical := 1 } })] })] }

def sendOp : Op := { opMod 0 0 with dest := 24, a := 1, b := 8, rows := 1, cols := 3 }
def eight : List Word := List.replicate 8 1
def quiet : State := circuit [] [] [] []
def spent : State := circuit [] [] [(1, [7, 7, 7, 7])] []
def got : State := circuit [(1, 0, 0, eight)] [(1, [eight])] [] []

theorem meets_CircuitMessages : quiet.top sendOp = some (0, 0) ∧ sendOp.elems = 8 ∧ quiet.me.wg = some wg0 ∧ tget quiet.cohorts 0 = some cohort0 ∧
    quiet.scalar sendOp 0 0 1 7 = 1 ∧ sendOp.legalV 0x106 24 = true ∧ Readable quiet sendOp [(1, 1), (8, 8)] ∧
    cohort0.phase quiet.now ∈ cohort0.slots 0 1 ∧ (spendCredit quiet.now (quiet.me.credits 1)).isSome = true ∧
    spendCredit spent.now (spent.me.credits 1) = none := by
  simp only [readable_iff]; decide +kernel

theorem meets_CircuitMessages_received : sendOp.legalV 0x107 24 = true ∧ Sound quiet sendOp [(1, 1)] 24 8 ∧ quiet.me.recvWaiting 1 = none ∧
    tgetD got.me.eng.rx 1 [] = [eight] ∧ got.peerSeat 0 1 = .live 1 0 ∧ tgetD quiet.me.eng.rx 1 [] = [] ∧ got.peerSeat 0 0 = .live 0 0 ∧
    got.cohorts.map (·.2.flying) = [[(1, 0, 0, eight)]] ∧ got.me.recvWaiting 1 = none := by
  simp only [sound_iff]; decide +kernel

/-- A RECVC of the peer's next message that waits in the context. -/
def recvLanding : Landing :=
  { due := 0, slot := 0, kind := .reg, dest := 24, width := 8, vals := [(0, [])], zeros := [], lanes := [(0, 0)], window := none, flags := 0, exc := []
    recv := some 1, at_ := ⟨2, 0⟩ }

theorem meets_CircuitMessages_waiting : let s := circuit [(1, 0, 0, eight)] [] [] [recvLanding]
    s.me.recvWaiting 1 = some 0 ∧ s.me.inflight[0]? = some recvLanding ∧ s.peerSeat 0 1 = .live 1 0 ∧ s.peerSeat 0 0 = .live 0 0 := by
  decide +kernel

end Sys2Proof.Tests
end

