-- ==== Sys2Proof/Tests/WitnessDevice.lean ====
section
/-! SUPPORT. Concrete states that meet the hypotheses of the statements about the device, its partitions and its contexts. -/

-- One theorem after another: every test evaluates in the kernel, and tests in parallel cost a thread stack each.
set_option Elab.async false

namespace Sys2Proof.Tests

open Sys2Proof Sys2Proof.Machine Sys2Proof.Claims

/-- The device runs with partition 0 on cluster 0, and partition 1, swapped out, on the same cluster. -/
def shared : State := { site (two (pair ⟨1, 0⟩) ready ready) with parts := [(0, { part0 with spare := 1 }), (1, { part0 with swapped := true })] }

/-- Requests for the clusters given: the first of the package and the last. -/
def reqOf (id : Nat) (cs : List Nat) (nbv : Nat := 1) : PartReq := ⟨id, cs, 2, nbv, 1, [(4095, 0)]⟩

/-- An object of one function that returns, and the same without its last two words. -/
def objWords : List W32 := [0x3046504C, 0x00010000, 1, 0, 0, 0, 2, 4, 12, 2, 0x00020000, 0, 0x0001000A, 0xA2000000, 0x61]

/-- After a thermal stop a reset and another entry may be due. -/
def stopped (i : List (Nat × Instr)) : State := { shared with phase := .thermalStop, agenda := i }

theorem meets_ResetAndWipe : State.reset.phase = .wiping ∧ shared.phase ≠ .wiping ∧ (3 : Nat) < 4 ∧ (stopped []).phase = .thermalStop ∧
    (stopped []).agenda = [] ∧ (stopped [(9, .draw 0 0)]).agenda = (9, .draw 0 0) :: [] ∧ resets (.draw 0 0) = false ∧ resets (.deviceReset .hot) = true := by
  decide +kernel

theorem meets_Partitions : shared.phase = .running ∧ shared.partReqOk (reqOf 2 [47]) = true ∧ shared.partReqOk (reqOf 2 [0]) = true ∧
    shared.partReqOk (reqOf 0 [47]) = false ∧ shared.partReqOk (reqOf 2 [48]) = false ∧ tget shared.parts 0 = some { part0 with spare := 1 } ∧
    tget shared.parts 1 = some { part0 with swapped := true } ∧ (shared.preempt (onClusters shared [0])).1 = true := by decide +kernel

/-- A context whose fence has not ended does not drain. -/
def undrained (s : State) : State := s.modCtx 0 0 fun c => { c with fence := some ⟨8, 0, []⟩ }

theorem meets_Partitions_undrained : ((undrained shared).preempt (onClusters (undrained shared) [0])).1 = false := by decide +kernel

theorem meets_CheckpointsAndLosses : tget shared.parts 0 = some { part0 with spare := 1 } ∧ (2 ^ 64 - 1) % 2 ^ 64 ≠ 0 ∧
    tget shared.parts 1 = some { part0 with swapped := true } ∧ part0.spare = 0 ∧ (∀ h ∈ shared.cohorts, ∀ k ∈ h.2.place, dieOf k ≠ 3) ∧
    (shared.fe 3).queues = [] ∧ ∃ h ∈ shared.cohorts, ∃ k ∈ h.2.place, dieOf k = 0 := by decide +kernel

/-- A machine at rest, with an error of a register element or of a line to come. -/
theorem meets_CheckpointsAndLosses_errors : (tget (shared.ctx 0 0).threads 0).isSome = true ∧ shared.presentPillar 5 = true ∧
    regionOf (128 * (5 * 2 ^ 23)) = .pillar 5 ∧
    (let s : State := { State.reset with phase := .running, softErrors := [(19, .line 7)] }
     s.agenda = [] ∧ s.agents = [] ∧ s.turn = [] ∧ 19 ≤ (s.now / cycleLen + 1) * cycleLen) ∧
    ¬21 ≤ (State.reset.now / cycleLen + 1) * cycleLen := by decide +kernel

theorem meets_ObjectsAndKeys : shared.phase = .running ∧ lifeOrder shared.life < lifeOrder .returned ∧ lifeOrder .deployed ≤ lifeOrder shared.life ∧
    (List.replicate 32 (0 : Byte)).length = 32 ∧ shared.life ≠ .returned ∧ ({ shared with life := .returned } : State).life = .returned := by decide +kernel

/-- What the loader finds: the words, or the offset of the word that it cannot fetch; and the identifiers that may be unloaded. -/
theorem meets_ObjectsAndKeys_objects : (tget shared.parts 0).isSome = true ∧ (verify 0 objWords).isOk = true ∧ tget shared.parts 2 = none ∧
    (shared.imageWords 0 (.words objWords)).1.toOption = some objWords ∧ (shared.imageWords 0 (.memory 0 (2 ^ 40) 1)).1.toOption = none ∧
    (tget ({ shared with launches := [] } : State).objs 1).isSome = true ∧ tget shared.objs 2 = none ∧ ∃ l ∈ shared.launches, l.2.obj = 1 := by
  decide +kernel

theorem meets_ObjectsAndKeys_bad : verify 0 (objWords.take 14) = .error 7 := rfl

/-- Both threads of a workgroup wait in bin 0 at a PC since time 0. -/
def binned (pc : Pc) (st : BinState) : Ctx :=
  { two (pair pc) { ready with place := .bin, resume := ⟨pc, none⟩ } { ready with place := .bin, resume := ⟨pc, none⟩ } with
    group := none, bins := [(0, ⟨⟨pc, none⟩, [0, 1], 0, st⟩)] }

/-- The selector of core 0 with its counts one below, or at, their limits. -/
def counted (d : Nat) : State :=
  (site (two (pair ⟨1, 0⟩) ready ready)).modCore 0 fun c => { c with
    sel := { c.sel with holder := some 0, held := 4096 - d, unserved := [(0, 65536 - d)], fwWait := 64 - d } }

def part (st : BinState) : Bin := ⟨⟨⟨1, 0⟩, none⟩, [0, 1], 0, st⟩

theorem meets_BinsAndSelector : tget ((site (binned ⟨1, 0⟩ .part)).ctx 0 0).bins 0 = some (part .part) ∧ (part .part).since + cycleLen * 48 = 960 ∧
    ((site (binned ⟨1, 0⟩ .part)).ctx 0 0).regs.binage = 48 ∧ ((site (binned ⟨1, 0⟩ .aged)).ctx 0 0).group = none ∧
    (site (binned ⟨1, 0⟩ .aged)).drawBin 0 0 = some (0, part .aged) ∧ drawn (part .aged) = [0, 1] ∧
    ((site (binned ⟨1, 0⟩ .aged)).ctx 0 0).overflow = [] := by decide +kernel

theorem meets_BinsAndSelector_counts : ((counted 0).core 0).sel.holder = some 0 ∧ 4096 ≤ ((counted 0).core 0).sel.held ∧
    ((counted 1).core 0).sel.held < 4096 ∧ 65536 ≤ tgetD ((counted 0).core 0).sel.unserved 0 0 ∧ tgetD ((counted 1).core 0).sel.unserved 0 0 < 65536 ∧
    64 ≤ ((counted 0).core 0).sel.fwWait ∧ ((counted 1).core 0).sel.fwWait < 64 := by decide +kernel

/-- A result of p3 that is due: 7 for thread 0, and zero for thread 1. -/
def due3 : Landing :=
  { due := 0, slot := 0, kind := .reg, dest := 3, width := 1, vals := [(0, [7])], zeros := [1], lanes := [(0, 0), (1, 1)], window := some 1
    flags := 3, exc := [], at_ := ⟨1, 0⟩ }

/-- The pair of threads with a result in flight, under an FPCTL. -/
def landing (l : Landing) (fpctl : Word) : State :=
  site { two (pair ⟨1, 0⟩) ready ready with inflight := [l], regs := { segs with fpctl := fpctl } }

/-- The same with an exception of each thread, which FPCTL enables. -/
def raised3 : Landing := { due3 with exc := [(0, 1), (1, 0)] }
def plainly : State := landing due3 4
def raising : State := landing raised3 20

theorem meets_ResultsLand : (plainly.ctx 0 0).late = [] ∧ (plainly.ctx 0 0).spec = none ∧ ((plainly.ctx 0 0).group.bind (·.delay)).isSome = false ∧
    ((plainly.ctx 0 0).inflight.filter fun l => l.ready plainly.now) = [due3] ∧ due3.exc = [] ∧ due3.traps = [] ∧ due3.kind = .reg ∧
    isReg due3.dest = true ∧ (due3.vals.map (·.1)).Nodup ∧ ∀ v ∈ due3.vals, v.2.length = due3.width ∧ v.1 ∉ due3.zeros := by decide +kernel

theorem meets_ResultsLand_raised : (raising.ctx 0 0).late = [] ∧ ((raising.ctx 0 0).inflight.filter fun l => l.ready raising.now) = [raised3] ∧
    raised3.enabled (raising.ctx 0 0).regs.fpctl = true ∧ (raised3.exc.map (·.1)).Nodup ∧
    ∀ x ∈ raised3.exc, x.1 ∈ (raising.ctx 0 0).live ∧ ((raising.ctx 0 0).thread x.1).trap = none := by decide +kernel

/-- The pair of threads with a copy, a filling granule and a fence of package scope. -/
def waiting (f : FenceHold) : State :=
  { site { two (pair ⟨1, 0⟩) ready ready with mem := { shareLen := 2 ^ 16, tready := 100, granules := [(255, .filling 100 3)] }, fence := some f } with now := 100 }

/-- A claim of four registers a thread by both threads, parked at their bundle. -/
def claiming (taken : Nat) : State :=
  let th : Thread := { ready with place := .regclm, resume := ⟨⟨1, 0⟩, none⟩ }
  (site { two (pair ⟨1, 0⟩) th th with group := none }).modCore 0 fun c => { c with claims := [⟨0, [0, 1], 4, 2⟩], taken := taken }

/-- A record of a trap, and the ring of partition 0 with room for it, or full. -/
def recorded (ctl : Word) : State :=
  let s := (site (two (pair ⟨1, 0⟩) ready ready)).modCore 0 fun c => { c with recs := [⟨List.replicate 8 0, 0, 0⟩], sel := { c.sel with fwEntry := some ⟨1, 0, 0, 16⟩ } }
  { s with parts := [(0, { part0 with trapCtl := ctl })] }

/-- A thread that waits for a repeated walk of a page. -/
def walk (va : Nat) : FaultHold := ⟨0, va, false, 0, true, false, false, ⟨1, 0⟩⟩
def walkingAt (va : Nat) : State :=
  site (two (pair ⟨1, 0⟩) ready { ready with place := .barrier 0, fault := some (walk va) })

def fenced : State := waiting ⟨8, 0, []⟩
def filling : Landing := { due3 with fills := [255] }
def combining : State := fenced.modCluster 0 fun c => { c with wcb := [(0, ⟨0, none, [(0, 1)], [(0, 0, 0)]⟩)] }

theorem meets_WaitsAndClaims : (fenced.ctx 0 0).mem.tready ≤ fenced.now ∧ ({ fenced with now := 99 } : State).now < (fenced.ctx 0 0).mem.tready ∧
    tget (fenced.ctx 0 0).mem.granules 255 = some (.filling 100 3) ∧ fenced.fillDeferred 0 0 255 = false ∧
    (fenced.ctx 0 0).fence = some ⟨8, 0, []⟩ ∧ fenced.fenceReady 0 0 ⟨8, 0, []⟩ = true ∧ combining.fenceReady 0 0 ⟨10, 1, []⟩ = false := by decide +kernel

/-- A claim that fits and one that does not. -/
def claim4 : RegClaim := ⟨0, [0, 1], 4, 2⟩

theorem meets_WaitsAndClaims_claims : ((claiming 32).core 0).claims = claim4 :: [] ∧ claim4.n * claim4.live ≤ (claiming 32).poolFree 0 ∧
    claim4.threads.Nodup ∧ ((claiming 32).ctx 0 0).bins.Pairwise (fun a b => a.1 < b.1) ∧
    (claiming (poolCap 0 - 7)).poolFree 0 < claim4.n * claim4.live := by decide +kernel

/-- A ring of 2^2 records: full at its wrap, full, and with room. -/
theorem meets_WaitsAndClaims_rings : (∀ c ∈ [(2 * 2 ^ 32 + 2 ^ 16 + 0xFFFF * 2 ^ 48, true), (2 * 2 ^ 32 + 1, true), (2 * 2 ^ 32, false)],
      let r := recorded (word64 c.1)
      (r.partOfCore 0).map (·.1) = some 0 ∧ (r.core 0).recs = [⟨List.replicate 8 0, 0, 0⟩] ∧
        (r.partOfCore 0).any (fun p => (ringPush p.2.trapCtl).isNone) = c.2) ∧
    ((recorded 0).core 0).sel.fwEntry = some ⟨1, 0, 0, 16⟩ := by decide +kernel

/-- What the repeated walk of a page comes to. -/
def rewalk (va : Nat) : Walk := ((walkingAt va).translate ((walkingAt va).spaceOf 0 0) va .load).1

theorem meets_WaitsAndClaims_walks : (∀ va ∈ [2 ^ 40, 4096], (((walkingAt va).ctx 0 0).thread 1).fault = some (walk va) ∧
      ((walkingAt va).ctx 0 0).fence = none) ∧ rewalk (2 ^ 40) = .fault 0 ∧ walkOk (rewalk 4096) = true := by
  decide +kernel

/-- Function 0 of the object with an argument of 64 bits in block 0, and its code: one Q bundle, at a Q entry or at none. -/
def calmObj : Obj := { obj1 with funcs := [{ func0 with blocks := [⟨[8], (1, 1), [freezeInst.words]⟩, ⟨[8], (1, 1), []⟩] }] }
def calm (q : Bool) : Trans :=
  { key := ⟨1, 0, 0, 16⟩, words := [0x0000A000], pmap := [⟨0, true, false, false, q, 0, 0, 0, [(0, 0, 1)]⟩], frame := 4, advance := 4
    segs := [(0, 1)], attr := [(0, 0, 0)] }

/-- A workgroup whose threads are stopped there, on its way to another core of its partition, which has clusters 0 and 1. -/
def crossing (q : Bool) (done : List Nat) (toCore : Nat) : State :=
  { site { binned ⟨1, 0⟩ .part with migrate := some (toCore, done) } with
    parts := [(0, { part0 with clusters := [0, 1] })], objs := [(1, calmObj)]
    clusters := [(0, { cluster0 with trans := [(1, calm q), (2, callee)] })] }

/-- What MIGRATION_CAPTURE finds: whether every thread is at a safe point, whether the members have drained, who moves, and of these the
number of threads that go, and whether a translation is awaited, a point is missing, or an element is poisoned. -/
structure Captured where
  safe : Bool
  drained : Bool
  movers : List Mover
  going : Nat := 0
  waits : Bool := false
  lost : Bool := false
  poisoned : Bool := false
deriving DecidableEq

def captured (s : State) (toCore : Nat) : Captured :=
  let ms := s.members 0
  let stopped := ms.foldl (fun s m => s.stopCtx m.1 m.2) s
  let recs := ms.map fun m => (m, (stopped.takeOut m.1 m.2).1)
  let hits := (stopped.tries cohort0 [clusterOf toCore] 0 toCore).filter fun e => 12 * e.1 + (e.2[0]?).getD 0 == toCore
  let found := hits.findSome? fun e => (stopped.recordSeats e.2 e.1 0 0 (recs.map (·.2)) fun _ _ => true).map fun ss => (e, ss)
  let movers : List Mover := match found with
    | some (_, ss) => (recs.zip ss).map fun p => ⟨p.1.1.1, p.1.1.2, p.2.2.1, p.2.2.2⟩
    | none => []
  let vs := movers.map fun m => (stopped.carried m).1
  { safe := ms.all fun m => (s.ctx m.1 m.2).live.all fun th => s.atSafePoint m.1 m.2 th
    drained := ms.all (fun m => stopped.drained m.1 m.2 && (stopped.ctx m.1 m.2).inflight.isEmpty) && stopped.quiet 0
    movers := movers
    going := sumNat (vs.map (·.vals.length))
    waits := vs.any (·.waits)
    lost := vs.any (·.lost)
    poisoned := vs.any (!·.poisoned.isEmpty) }

/-- The mover of the tests, and the same states with a thread that runs, and with a marked register that lives at the point. -/
def mover (toCore : Nat) : Mover := ⟨0, 0, toCore, 0⟩
def issuing : State := (crossing true [] 1).modCtx 0 0 fun c => { c with group := some ⟨[(0, 0)], ⟨1, 0⟩, 0, none, none⟩, threads := tset c.threads 0 ready }
def marked : State := (crossing true [1] 1).modThread 0 0 0 fun th => { th with poisoned := [1] }

theorem meets_PreemptionAndMigration : Hosts shared 0 0 wg0 ∧ shared.present 0 = true ∧ (shared.preempt (shared.members 0)).1 = true ∧
    ((undrained shared).preempt ((undrained shared).members 0)).1 = false ∧
    ({ shared with fuses := { cmask := [(0, 0xFFE)] } } : State).present 0 = false := by
  simp only [Hosts]; decide +kernel

theorem meets_PreemptionAndMigration_requests : Hosts (crossing true [] 1) 0 0 wg0 ∧ ((crossing true [] 1).partOfCore 0).map (·.1) = some 0 ∧
    (∀ m ∈ (crossing true [] 1).members 0, (crossing true [] 1).migrates m.1 m.2 1 = true) ∧ clusterOf 12 ∉ part0.clusters ∧
    (let s := site { binned ⟨1, 0⟩ .part with mem := { shareLen := 2 ^ 24 } };
      ∃ m ∈ s.members 0, s.migrates m.1 m.2 1 = false) := by
  simp only [Hosts]; decide +kernel

theorem meets_PreemptionAndMigration_capture : tget (crossing true [] 1).cohorts 0 = some cohort0 ∧
    ((crossing true [] 1).ctx 0 0).migrate = some (1, []) ∧ captured (crossing true [] 1) 1 = { safe := true, drained := true, movers := [mover 1], going := 2 } ∧
    captured (crossing true [1] 1) 1 = { safe := true, drained := true, movers := [mover 1], going := 2 } ∧
    captured (crossing false [1] 1) 1 = { safe := true, drained := true, movers := [mover 1], lost := true } := by decide +kernel

theorem meets_PreemptionAndMigration_waits : captured (crossing true [12] 12) 12 = { safe := true, drained := true, movers := [mover 12], waits := true } ∧
    (captured issuing 1).safe = false ∧ (captured (undrained (crossing true [] 1)) 1).drained = false ∧
    captured marked 1 = { safe := true, drained := true, movers := [mover 1], going := 1, poisoned := true } := by decide +kernel

/-- The state in which the contexts of the cohort are saved, their record, and what a resume of it finds. -/
def savedAll : State := (shared.preempt (shared.members 0)).2
def savedRec : Option SaveRec := savedAll.record 0 0
def seatsAt (toCore : Nat) : Bool :=
  savedRec.any fun r => savedAll.present toCore && r.ctx.wg == some wg0 && (savedAll.launchOf r.ctx).map (·.part) == some 0 &&
    !savedAll.startsFirst 0 r.ctx.regs.prio &&
    ((savedAll.tries cohort0 ([0].filter fun c => isWide (12 * c) == isWide 0) r.logical toCore).findSome? fun e =>
      (savedAll.recordSeats e.2 e.1 r.logical 0 ((savedAll.savedOf 0).map (·.2.2)) fun r k => r.mayStand k).map fun seats => (e, seats)).isSome

theorem meets_ResumeAndVictims : savedAll.partOfCore 0 = some (0, { part0 with spare := 1 }) ∧ tget savedAll.cohorts 0 = some cohort0 ∧
    seatsAt 1 = true := by decide +kernel

/-- Four contexts of priority 1 on core 0, and a launch of priority 0 of partition 0 that looks for a place. -/
def urgent : Launch := { launch0 with prio := 0, tmpl := false, queue := 5, rec_ := 4096, cols := 1 }
def crowd : Ctx := { two (pair ⟨1, 0⟩) ready ready with regs := { segs with prio := 1 } }
def crowdedCore : Core := { ctxs := (List.range 4).map fun x => (x, crowd), tlb := [page0], resident := [1, 2], taken := 128 }
def crowded : State :=
  { site crowd with
    fuses := { cmask := [(0, 1)] }, cores := [(0, crowdedCore)], launches := [(0, launch0), (1, urgent)], agenda := [(9, .workgroupStart 1 0)] }

theorem meets_ResumeAndVictims_victims : ((crowded.launches.filter fun e => e.2.die == 0 && e.2.queue == 5 && e.2.prio == 0 && !e.2.ending &&
        crowded.unclaimed e.2 && crowded.agenda.any fun a => match a.2 with
          | .workgroupStart ln _ => ln == e.1
          | _ => false).map (·.1) = [1] ∧
      tget crowded.parts 0 = some part0 ∧ part0.swapped = false ∧
      (∀ c ∈ crowded.cores, clusterOf c.1 ∈ part0.clusters → ∀ x ∈ c.2.ctxs, x.2.stopping = false) ∧
      (∀ c ∈ part0.runs 2, crowded.placeNext urgent c = none) ∧
      (dieOrder 0 (part0.runs 2)).findSome? (crowded.victims urgent) = some [(0, 0)]) := by decide +kernel

end Sys2Proof.Tests
end

