-- ==== Sys2Proof/Tests/WitnessMatrix.lean ====
section
/-! SUPPORT. States and operands that meet the hypotheses of the statements about the matrix engine, rows, privileged instructions and
returns from traps. -/

-- One theorem after another: every test evaluates in the kernel, and tests in parallel cost a thread stack each.
set_option Elab.async false

namespace Sys2Proof.Tests

open Sys2Proof Sys2Proof.Machine Sys2Proof.Claims

/-- A context with the given registers that holds slots 0, 1 and 31 and tiles 0 and 3 of core 0, with engine work in progress. -/
def matrix (rs : Tab Word) (m : Mtx) (c : Ctx) : State :=
  let s := world { c with threads := [(0, { place := .group, budget := 16, regs := rs })] }
  s.modCore 0 fun n => { n with mtx := { m with slotOwner := [(0, 0), (1, 0), (31, 0)], tileOwner := [(0, 0), (3, 0)] } }

/-- A share of 256 KiB, which holds a tile. -/
def wideShare : Ctx := { segCtx [] with regs := { segs with segLim := [(2, 2 ^ 18)] }, mem := { shareLen := 2 ^ 18 } }

/-- V of core 0's own pillar: 1 GiB less the tail, under key slot 0. -/
def vCtx : Ctx := { segCtx [] with regs := { segs with segBase := segs.segBase ++ [(6, 0)], segLim := segs.segLim ++ [(6, 2 ^ 29)] } }

def mtxOp : Op := { opMod 0 0 with a := 1, b := 2, dest := 3 }

def busyTile : Work := { ctx := 0, reads := noSet, writes := ⟨[], [3]⟩, until_ := 100 }

/-- An MMA word of format `fmt` on slots 0 and 31 and tile 3; the array in use; and a stream that writes the tile. -/
def mmaNum (fmt : Nat) : Nat := 3 * 2 ^ 24 + 31 * 2 ^ 16 + fmt
def mmaAt (fmt : Nat) (m : Mtx) : State := matrix [(1, word64 (mmaNum fmt))] m (segCtx [])

theorem meets_MatrixMultiply : ∀ fmt ∈ [0, 1, 2, 5], MtxSound (mmaAt fmt {}) mtxOp 0x0A0 [1] ∧
    mmaWord (mmaNum fmt) = some (fmt, 0, 31, 3, false) ∧ (mmaAt fmt {}).active mtxOp = [(0, 0)] ∧ Uniform (mmaAt fmt {}) mtxOp 1 (mmaNum fmt) ∧
    RealLanes (mmaAt fmt {}) mtxOp := by
  simp only [MtxSound, readable_iff, Uniform, RealLanes]; decide +kernel

theorem meets_MatrixMultiply_held : (mmaAt 1 {}).holdsSlot 0 0 0 = true ∧ (mmaAt 1 {}).holdsSlot 0 0 31 = true ∧ (mmaAt 1 {}).holdsTile 0 0 3 = true ∧
    ((mmaAt 1 {}).mtx 0).arrayFree ≤ (mmaAt 1 {}).now ∧ (mmaAt 1 {}).conflicts 0 ⟨[0, 31], []⟩ ⟨[], [3]⟩ = false ∧
    (mmaAt 1 { arrayFree := 100 }).now < ((mmaAt 1 { arrayFree := 100 }).mtx 0).arrayFree ∧
    (mmaAt 1 { work := [busyTile] }).conflicts 0 ⟨[0, 31], []⟩ ⟨[], [3]⟩ = true := by decide +kernel

def zeroing : State := matrix [(1, 3)] {} (segCtx [])
def moving : State := matrix [(1, ptr 2 0), (2, 3)] {} wideShare
def loading : State := matrix [(1, ptr 0 0), (2, word64 (127 * 2 ^ 8 + 31))] {} (segCtx [])

theorem meets_TileAndSlotMoves : MtxSound zeroing mtxOp 0x0A3 [1] ∧ Uniform zeroing mtxOp 1 3 ∧ RealLanes zeroing mtxOp ∧
    zeroing.holdsTile 0 0 3 = true ∧ zeroing.conflicts 0 noSet ⟨[], [3]⟩ = false ∧ MtxSound moving mtxOp 0x0A1 [1, 2] ∧
    MtxSound moving mtxOp 0x0A2 [1, 2] ∧ Uniform moving mtxOp 2 3 ∧ RowsSound true moving mtxOp ∧ RowsSound false moving mtxOp ∧
    (matrix [] { work := [busyTile] } (segCtx [])).conflicts 0 noSet ⟨[], [3]⟩ = true := by
  simp only [MtxSound, readable_iff, Uniform, RealLanes, RowsSound]; decide +kernel

theorem meets_TileAndSlotMoves_slot : loading.top mtxOp = some (0, 0) ∧ MtxSound loading mtxOp 0x0A5 [1, 2] ∧
    loading.scalar mtxOp 0 0 2 7 = 0 * 2 ^ 16 + 127 * 2 ^ 8 + 31 ∧ loading.holdsSlot 0 0 31 = true ∧ ptrSeg (loading.word mtxOp 0 0 1) ≠ 1 ∧
    loading.accTraps 0 0 .load 8 [Acc.ofPtr 0 0 (loading.word mtxOp 0 0 1) (128 * 1)] = [] ∧ loading.conflicts 0 noSet ⟨[31], []⟩ = false := by
  simp only [MtxSound, readable_iff]; decide +kernel

/-- A context that holds all that the set word names, and one that holds nothing. -/
def setOf (first n tiles : Nat) : Word := word64 (setWord first n tiles)
def holdsNone (w : Word) : State := world (segCtx [(1, w)])
def holdsSet (m : Mtx) : State :=
  (world (segCtx [(1, setOf 31 1 8)])).modCore 0 fun n => { n with mtx := { m with slotOwner := [(31, 0)], tileOwner := [(3, 0)] } }

def set31 : OsSet := claimed 31 1 8

theorem meets_SlotClaims : (∀ i ∈ set31.slots, i < slotCount 0) ∧ (∀ i ∈ set31.tiles, i < tileCount 0) ∧ set31 ≠ noSet ∧
    (holdsSet {}).scalar mtxOp 0 0 1 7 = setWord 31 1 8 ∧ ((holdsSet {}).heldSet 0 0).sorted = set31.sorted ∧ (holdsSet {}).top mtxOp = some (0, 0) ∧
    (∀ i ∈ set31.slots, (holdsSet {}).holdsSlot 0 0 i = true) ∧ (∀ i ∈ set31.tiles, (holdsSet {}).holdsTile 0 0 i = true) ∧
    (holdsSet {}).conflicts 0 noSet set31.sorted = false ∧ (holdsSet { work := [busyTile] }).conflicts 0 noSet set31.sorted = true ∧
    MtxSound (holdsSet {}) mtxOp 0x0A4 [1] ∧ MtxSound (holdsSet {}) mtxOp 0x0A6 [1] := by
  simp only [MtxSound, readable_iff]; decide +kernel

theorem meets_SlotClaims_none : (holdsNone (setOf 0 32 15)).scalar mtxOp 0 0 1 7 = setWord 0 32 15 ∧
    ((holdsNone (setOf 0 32 15)).heldSet 0 0).sorted = noSet ∧ ((holdsNone (setOf 0 32 15)).mtx 0).osClaims = [] ∧
    ∀ i ∈ (claimed 0 32 15).slots, i < slotCount 0 := by decide +kernel

/-- A ticket of context 0 for row 9 of bank slot 3, and a bank that is open for it. -/
def tick3 : Ticket := ⟨0, 0x42, 3, 9⟩
def opened : Bank := { state := .opened, row := 9, tix := some 0 }
def rows (rs : Tab Word) (banks : Tab Bank) (ts : Tab Ticket) : State := matrix rs { banks := banks, tickets := ts } vCtx
def rowPtr : Word := ptr 6 (3 * 2 ^ 23 + 9 * 2048)
def rowRegs : Tab Word := [(1, ticketWord 0 tick3), (2, word64 (31 * 2 ^ 16 + 15 * 2 ^ 4))]

/-- The bank idle, busy, open, open for a ROWCON, and still opening. -/
def rowIdle : State := rows [(1, rowPtr)] [] []
def rowBusy : State := rows [(1, rowPtr)] [(3, { state := .busy })] []
def rowHeld : State := rows [(1, rowPtr)] [(3, opened)] [(0, tick3)]
def rowRead : State := rows rowRegs [(3, opened)] [(0, tick3)]
def rowWait : State := rows rowRegs [(3, { opened with state := .opening })] [(0, tick3)]

theorem meets_RowOps : (∀ s ∈ [rowIdle, rowBusy, rowHeld], RowSound s rowPtr ∧ s.top mtxOp = some (0, 0) ∧ s.word mtxOp 0 0 1 = rowPtr) ∧
    mtxOp.legalV 0x0A7 8 = true ∧ Sound rowIdle mtxOp [(1, 1)] 3 1 ∧ (rowIdle.mtx 0).freeTix = some 0 ∧ (rowIdle.bank 0 3).state = .idle ∧
    (rowBusy.bank 0 3).state ≠ .idle ∧ (∀ s ∈ [rowIdle, rowBusy], (s.bank 0 3).holdsRow = false ∧ (s.bank 0 3).waiting = none ∧ (s.bank 0 3).stkWaits = false) := by
  simp only [RowSound, sound_iff]; decide +kernel

theorem meets_RowOps_force : (rowHeld.mtx 0).freeTix ≠ none ∧ (rowHeld.bank 0 3).holdsRow = true ∧ (rowHeld.bank 0 3).stk = false ∧
    (rowHeld.bank 0 3).waiting = none ∧ (rowHeld.bank 0 3).stkWaits = false ∧ (rowHeld.bank 0 3).tix = some 0 ∧
    tget (rowHeld.mtx 0).tickets 0 = some tick3 := by decide +kernel

theorem meets_RowOps_consume : MtxSound rowRead mtxOp 0x0A8 [1, 2] ∧ rowRead.scalar mtxOp 0 0 2 7 = 31 * 2 ^ 16 + 0 * 2 ^ 9 + 15 * 2 ^ 4 + 0 ∧
    rowRead.holdsSlot 0 0 31 = true ∧ rowRead.liveTicket 0 0 (rowRead.word mtxOp 0 0 1) = some (0, tick3) ∧ (rowRead.bank 0 3).state = .opened ∧
    (rowRead.bank 0 3).tix = some 0 ∧ (rowRead.mtx 0).busFree ≤ rowRead.now ∧ rowRead.conflicts 0 noSet ⟨[31], []⟩ = false ∧
    Memory.wf (rowRead.mtx 0).opmem = true := by
  simp only [MtxSound, readable_iff]; decide +kernel

theorem meets_RowOps_wait : (rowWait.bank 0 3).state ≠ .opened ∧ rowWait.liveTicket 0 0 (rowWait.word mtxOp 0 0 1) = some (0, tick3) ∧
    MtxSound rowRead mtxOp 0x0A9 [1] ∧ rowIdle.liveTicket 0 0 (rowIdle.word mtxOp 0 0 1) = none := by
  simp only [MtxSound, readable_iff]; decide +kernel

/-! ### Privileged instructions and returns from traps -/

theorem meets_PrivilegeTraps : atEntry.cur.2 < 4 ∧ atEntry.collect = none ∧ atEntry.me.Tidy ∧ ∀ r ∈ privileged (opD 7 7), atEntry.active (opD 7 7) ≠ [] := by
  simp only [tidy_iff]; decide +kernel

theorem meets_IllegalTraps : illegalInt (opD 6 9) (.mul (opD 6 9)) ∧ illegalInt (opD 6 7 1) (.neg (opD 6 7 1)) ∧ atEntry.active (opD 6 9) ≠ [] :=
  ⟨.inl ⟨_, .head _, rfl, by decide +kernel⟩, .inr ⟨_, .head _, rfl, by decide +kernel⟩, by decide +kernel⟩

/-- The firmware slot of core 0 beside a user context 0, which is resident or SAVED. -/
def withUser (rs : Tab Word) (c : Ctx) : State := (fw rs).modCore 0 fun n => { n with ctxs := (0, c) :: n.ctxs }
def segRegs : Tab Word := [(1, 16), (2, 256), (4, 4096)]
def resident : State := withUser segRegs (segCtx [])
def parkedRec : SaveRec := ⟨0, segCtx [], [], [], [], [], []⟩
def savedUser : State := (fw [(1, 32), (2, 256), (4, 4096)]).modCore 0 fun n => { n with saves := [(7, parkedRec)] }
def fwOp : Op := opD 7 0

theorem meets_FirmwareOps_segset : fwOp.legalD 0x180 = true ∧ fwOp.extOk true true true = true ∧ Readable resident fwOp [(1, 1), (2, 1), (4, 1)] ∧
    resident.top fwOp = some (0, 0) ∧ resident.scalar fwOp 0 0 1 7 = 1 * 16 + 0 ∧ (resident.ctx 0 0).state = .active ∧
    SegFits resident 0 1 256 4096 false := by
  simp only [readable_iff, SegFits]; decide +kernel

theorem meets_FirmwareOps_saved : savedUser.scalar fwOp 0 0 1 7 = 2 * 16 + 0 ∧ (savedUser.ctx 0 0).state ≠ .active ∧
    savedUser.home.saves = [] ++ (7, parkedRec) :: [] ∧ SegFits savedUser 0 2 256 4096 true := by
  simp only [SegFits]; decide +kernel

/-- TLBINV of every entry, TICKET of a word in pillar 0, and a STKCPY of 8 bytes, once with a full channel. -/
def invalidating : State := fw [(1, 0x3000), (2, 0)]
def ticketing : State := fw [(1, 4096)]
def ticketOp : Op := opD 7 8
def stkOp : Op := { opMod 7 0x81 with a := 8, dest := 3, rows := 1, cols := 3 }
def stkAt : State := fw [(8, 0), (9, 0), (10, 4096), (11, 8), (12, 0)]
def stkFull : State := stkAt.modCtx 0 4 fun c => { c with eng := { chans := [(1, { next := 2 ^ 31 - 1 })] } }

/-- A release of the firmware slot that waits for a write which its home has not performed. -/
def owing (s : State) : State :=
  { s with phys := { s.phys with lines := [(5, { waiting := [{ bytes := [(640, 1)], key := none, owners := [(0, 4, 0)] }], expiry := 100 })] } }

theorem meets_FirmwareOps_tlbinv : fwOp.legalD 0x181 = true ∧ Readable invalidating fwOp [(1, 1), (2, 1)] ∧
    invalidating.scalar fwOp 0 0 1 7 = 0x3000 ∧ (0x3000 : Nat).testBit 12 = true ∧ (invalidating.releaseStart 0 4 0 7).releaseReady 0 4 7 = true ∧
    ((owing invalidating).releaseStart 0 4 0 7).releaseReady 0 4 7 = false := by
  simp only [readable_iff]; decide +kernel

theorem meets_FirmwareOps_ticket : ticketOp.legalD 0x183 = true ∧ Sound ticketing ticketOp [(1, 1)] 3 1 ∧ ticketing.active ticketOp = [(0, 0)] ∧
    RefSound ticketing (ticketing.word ticketOp 0 0 1) ∧ (ticketing.releaseStart 0 4 0 9).releaseReady 0 4 9 = true ∧
    ((owing ticketing).releaseStart 0 4 0 9).releaseReady 0 4 9 = false := by
  simp only [sound_iff, RefSound]; decide +kernel

theorem meets_FirmwareOps_stkcpy : stkOp.ext = none ∧ stkOp.legalV 0x184 7 = true ∧ stkOp.elems = 8 ∧ Sound stkAt stkOp [(8, 8)] 3 1 ∧
    stkAt.run stkOp 0 0 8 8 = [0, 0, 4096, 8, 0, 0, 0, 0] ∧ (stkAt.me.chan 1).full 1 = false ∧
    (stkAt.releaseStart 0 4 0 8).releaseReady 0 4 8 = true ∧ ((owing stkAt).releaseStart 0 4 0 8).releaseReady 0 4 8 = false ∧
    (stkFull.me.chan 1).full 1 = true ∧ StkSound stkAt 0 4096 8 0 := by
  simp only [sound_iff, StkSound]; decide +kernel

/-- A precise and a late trap, and a page fault, of thread 1 of context 0, whose group is over. -/
def precise : TrapHold := ⟨⟨.software, 0, 0⟩, false, ⟨2, 0⟩, ⟨⟨2, 0⟩, none⟩, none, none, none, false, .bin⟩
def lateHold : TrapHold := ⟨⟨.fpException, 1, 0⟩, true, ⟨2, 0⟩, ⟨⟨2, 1⟩, none⟩, some (3, 1), none, none, false, .bin⟩
def faultHold : FaultHold := ⟨0, 2 ^ 40, false, 0, false, false, false, ⟨2, 0⟩⟩
def waits (th : Thread) (mode : Nat) : State :=
  let c : Ctx := { two (pair ⟨2, 0⟩) ready ready with group := none, threads := [(0, { ready with place := .barrier 0 }), (1, th)] }
  let s := site c
  { s with cur := (0, 4) }.modCore 0 fun n => { n with ctxs := n.ctxs ++ [(4, fwCtx [(1, word64 (mode * 2 ^ 16 + 1 * 2 ^ 8 + 0))])] }
def trapped (h : TrapHold) (mode : Nat) : State := waits { ready with place := .trap, trap := some h } mode
def faulted (f : FaultHold) (mode : Nat) : State := waits { ready with place := .barrier 0, fault := some f } mode

theorem tretSound_iff {s : State} {o : Op} {x th mode : Nat} : TretSound s o x th mode ↔ s.cur.2 = 4 ∧ o.legalD 0x182 = true ∧
    o.extOk true false false = true ∧ soundB s o [(o.selA, 1)] o.dest.toNat 1 = true ∧
    ((s.top o).any fun e => (s.word o e.1 e.2 o.selA).toNat == mode * 2 ^ 16 + th * 2 ^ 8 + x) = true ∧ x < 4 ∧ th < 256 ∧ mode < 8 := by
  simp only [TretSound, sound_iff, Option.any_eq_true, beq_iff_eq]

theorem meets_TrapAnswers : (∀ r ∈ answers (opD 7 7), TretSound (trapped precise r.2) (opD 7 7) 0 1 r.2) ∧
    Trapped (trapped precise 0) 0 1 precise ∧ (trapped precise 0).modeOk 0 precise 0 = true ∧ (trapped precise 0).modeOk 0 precise 2 = false := by
  simp only [tretSound_iff, Trapped]; decide +kernel

theorem meets_TrapAnswers_faults : Faulted (faulted faultHold 2) 0 1 faultHold ∧
    Faulted (faulted { faultHold with walking := true } 2) 0 1 { faultHold with walking := true } ∧
    ((fw [(1, 256)]).ctx 0 0).state = .empty ∧ (fw [(1, 256)]).streams 0 0 1 = [] ∧ (fw [(1, 256)]).savedTrap 0 0 1 = none := by
  simp only [Faulted]; decide +kernel

theorem meets_TrapReturns : ∀ e ∈ [(precise, 0), (precise, 1), (lateHold, 1), (precise, 4), (precise, 5)], let s := trapped e.1 e.2
    (s.ctx 0 0).bins.Pairwise (fun a b => a.1 < b.1) ∧ (s.ctx 0 0).threads.Pairwise (fun a b => a.1 < b.1) ∧ Trapped s 0 1 e.1 ∧
      TretSound s (opD 7 7) 0 1 e.2 ∧ s.modeOk 0 e.1 e.2 = true ∧ (e.1.late = false ∨ e.1.was = .bin) := by
  simp only [tretSound_iff, Trapped]; decide +kernel

theorem meets_TrapReturns_faults : ∀ m ∈ [2, 3], Faulted (faulted faultHold m) 0 1 faultHold ∧ TretSound (faulted faultHold m) (opD 7 7) 0 1 m ∧
    (((faulted faultHold m).ctx 0 0).thread 0).fault = none := by
  simp only [tretSound_iff, Faulted]; decide +kernel

end Sys2Proof.Tests
end

