-- ==== Sys2Proof/Tests/WitnessEvents.lean ====
section
/-! SUPPORT. Concrete states that meet the hypotheses of the statements about banks, engines, the host, the fabric and steps. -/

-- One theorem after another: every test evaluates in the kernel, and tests in parallel cost a thread stack each.
set_option Elab.async false

namespace Sys2Proof.Tests

open Sys2Proof Sys2Proof.Machine Sys2Proof.Claims

/-- Bank slot 127 of core 0 in a state, at a tick. -/
def banked (b : Bank) (tick : Nat) : State := { rows [] [(127, b)] [(0, ⟨0, 1, 127, 9⟩)] with now := 17 * tick }

theorem meets_BanksAndMatrix : ((banked { state := .busy } 0).bank 0 127).state = .busy ∧ ((banked {} 0).bank 0 127).state ≠ .busy ∧
    ((banked { state := .opening, since := 5 } 19).bank 0 127).since + 14 ≤ (banked {} 19).gtc ∧ (banked {} 18).gtc < 5 + 14 ∧
    ((banked { opened with since := 5 } 4005).bank 0 127).closeAt = none ∧ 5 + 4000 ≤ (banked {} 4005).gtc ∧ (banked {} 4004).gtc < 5 + 4000 ∧
    ((banked { opened with closeAt := some 17 } 1).bank 0 127).closeAt = some 17 ∧ 17 ≤ (banked {} 1).now := by decide +kernel

def pre (b : Bank) : State := banked { b with state := .precharge } 0
def deferring : State := (pre { waiting := some 0 }).modPhys fun p => { p with overlay := [(127 * 2 ^ 23, 1)] }

theorem meets_BanksAndMatrix_closing : (pre {}).deferredIn 0 127 = false ∧ ((pre {}).bank 0 127).deferred = [] ∧
    (deferring.bank 0 127).state = .precharge ∧ deferring.deferredIn 0 127 = true ∧ ((pre { deferred := [4] }).bank 0 127).deferred ≠ [] ∧
    ((banked {} 0).bank 575 127).state = .idle ∧ ((pre {}).bank 0 127).state ≠ .idle ∧ (banked {} 0).presentPillar 0 = true ∧
    (banked {} 0).bankRegion 0 127 ((banked {} 0).spareOf 0) ≠ .hole ∧ (banked {} 0).presentPillar 576 = false := by decide +kernel

def waitsFor : OsClaim := ⟨0, ⟨[31], [3]⟩⟩
def stkJob : StkJob := ⟨1, 1, 0, 4096, 16, 0, 0, ⟨1, 0⟩, some 7⟩
def copying (now : Nat) : State := { (banked {} 0).modCore 0 fun c => { c with eng := { c.eng with stk := [stkJob] } } with now := now }

theorem meets_BanksAndMatrix_claims : freeFor {} waitsFor = true ∧ freeFor { clearSlots := [(31, 5)] } waitsFor = false ∧
    ((copying 7).core 0).eng.stk = [stkJob] ∧ (stkCopy 0 ((copying 7).keyOf 0) ((copying 7).keyOf 0) 0 4096 (16 / 8 + 1) 16 (copying 7)).1 = none ∧
    (copying 6).now < 7 := by decide +kernel

/-- The transfer of the tests, with another source base and scope, runs in the copy engine of core 0. -/
def tr0 : Transfer := xferOf (xferAt {} none [] [] 1) devOp (0, 0)
def transferring (tr : Transfer) : State :=
  let s := xferAt { next := 1 } none [] [] 1
  s.modCore 0 fun n => { n with
    eng := { n.eng with running := some tr }, tlb := [page0, ⟨0, 2 ^ 21, 2 ^ 21, word64 (2 ^ 63 + 2 ^ 21 + 2 ^ 12 + 0x400)⟩] }
def based (va : Nat) (tr : Transfer) : Transfer := { tr with env := { tr.env with bases := tset tr.env.bases 0 (word64 va) } }

/-- What the copy of its rows finds. -/
structure CopyFacts where
  fault : Bool
  bad : Bool
  pending : Bool
deriving DecidableEq

def copyFacts (tr : Transfer) (s : State) : CopyFacts :=
  let c := copyRows (tr.height - tr.row) tr s
  ⟨c.1.fault.isSome, c.1.bad.isSome, (c.2.engFlush 0).engPending 0⟩

def leasedTarget : State := (transferring { tr0 with dst := ptr 0 8192 }).modLine 64 fun n => { n with expiry := 100 }
def looping : State := (transferring tr0).modCore 0 fun c => { c with eng := { c.eng with loops := [⟨tr0.env, [tr0, tr0]⟩] } }

theorem meets_EngineEvents : (buffered.core 0).eng.running = none ∧ nextTransfer buffered.gtc (buffered.core 0).eng.buf = some tr0 ∧
    ((transferring { tr0 with ends := 1 }).core 0).eng.running = some { tr0 with ends := 1 } ∧ tr0.bad = none ∧ tr0.rmt = none ∧ tr0.ends ≤ 0 ∧
    ((transferring { tr0 with bad := some 9 }).core 0).eng.running = some { tr0 with bad := some 9 } := by decide +kernel

theorem meets_EngineEvents_rows : copyFacts tr0 (transferring tr0) = ⟨false, false, false⟩ ∧
    copyFacts (based (2 ^ 40) tr0) (transferring (based (2 ^ 40) tr0)) = ⟨true, false, false⟩ ∧
    copyFacts (based (2 ^ 21) tr0) (transferring (based (2 ^ 21) tr0)) = ⟨false, true, false⟩ ∧
    copyFacts { tr0 with dst := ptr 0 8192 } leasedTarget = ⟨false, false, true⟩ := by decide +kernel

theorem meets_EngineEvents_loops :
    (looping.core 0).eng.loops.find? (fun l => l.env.ctx == 0 && !l.left.isEmpty) = some ⟨tr0.env, [tr0, tr0]⟩ ∧
    (looping.core 0).eng.buf.length < 64 ∧ 64 ≤ (List.replicate 64 tr0).length := by decide +kernel

/-- A cohort with a multicast of two bytes from logical core 0 to 1, and one with a complete reduction. -/
def sender : Issuer := ⟨0, { core := 0, ctx := 0, wg := some wg0, bases := [], root := 0, tmpl := {}, levels := [] }, 1, 1, 0, ⟨1, 0⟩, 7, false, 0, 128, some [1, 2], none⟩
def mcast : GroupUse := { redgrp := false, tmask := 2, len := 2, ety := 0, fn := 0, issuers := [sender], dropped := [], left := [1] }
def redgrp : GroupUse := { mcast with redgrp := true, tmask := 1, left := [] }
def collected (u : GroupUse) (other : Core) (done : List Nat) : State :=
  let s := circuit [] [] [] []
  { s with cohorts := [(0, { cohort0 with groups := [(15, u)], doneCores := done })], cores := [((s.cores.headD (0, {})).1, (s.cores.headD (0, {})).2), (1, other)] }
def peerCtx : Ctx := { segCtx [] with wg := some { wg0 with logical := 1 } }
def savedPeer : Core := { saves := [(3, ⟨0, peerCtx, [], [], [], [], []⟩)] }
def livePeer : State := collected mcast { ctxs := [(0, peerCtx)] } []

/-- The write of a multicast into a share is accepted. -/
def collOk (s : State) (i : Issuer) : Bool := match (s.collWrite i (.live 1 0) 1 [1, 2]).1 with
  | .ok _ => true
  | _ => false

theorem meets_EngineEvents_multicast : livePeer.groupUse 0 15 = some mcast ∧ mcast.redgrp = false ∧ 1 ∈ mcast.left ∧
    mcast.issuers.head? = some sender ∧ sender.bytes = some [1, 2] ∧ sender.fault = none ∧ livePeer.peerSeat 0 1 = .live 1 0 ∧
    collOk livePeer sender = true := by decide +kernel

theorem meets_EngineEvents_peers : (collected mcast savedPeer []).peerSeat 0 1 = .saved 1 3 ∧ ((collected mcast savedPeer []).core 1).inbox = [] ∧
    (collected mcast {} [1]).peerSeat 0 1 = .gone ∧ (tget (collected mcast {} [1]).cohorts 0).any (fun h => h.doneCores.contains 1) = true ∧
    (collected redgrp {} []).groupUse 0 15 = some redgrp ∧ redgrp.complete = true := by decide +kernel

/-! ### The host and the fabric -/

/-- A host read of 8 bytes of thread 1 that its result of type z64 awaits. -/
def read5 : HostRead := ⟨5, 2 ^ 20, 8, 0, 0, 1, 0, 4096, 0, 8, 100⟩
def hostLanding : Landing := { due3 with vals := [(1, [0])], zeros := [], host := [5] }
def hosted (w : Option HdmReq) : State :=
  let s := landing hostLanding 4
  { s with host := { reads := [read5], window := w } }

/-- A window of 256 MiB over the first 32 runs of pillar 0. -/
def window0 : HdmReq := ⟨1, 0, List.range 32, 0⟩

def withWindow : State := hosted (some window0)
def rowOpen31 : State := withWindow.modMtx 0 fun m => { m with banks := [(31, opened)] }

theorem meets_HostAccesses : withWindow.host.reads.find? (fun r => r.id == 5) = some read5 ∧ withWindow.host.reads.find? (fun r => r.id == 6) = none ∧
    hostLanding ∈ (withWindow.ctx 0 0).inflight ∧ read5.id ∈ hostLanding.host ∧ hostLanding.vals = [(read5.thread, [0])] ∧
    isTileTy read5.ty = false ∧ read5.len = tyBytes read5.ty ∧ read5.into = 0 := by decide +kernel

theorem meets_HostAccesses_window : withWindow.phase = .running ∧ tget withWindow.parts 0 = some part0 ∧ window0.part = 0 ∧ window0.size = 1 ∧
    window0.runs.length = 32 ∧ window0.runs.all (withWindow.runOk part0) = true ∧ withWindow.runOk part0 127 = false ∧ tget withWindow.parts 1 = none ∧
    (nodup window0.runs).length = window0.runs.length := by decide +kernel

theorem meets_HostAccesses_runs : withWindow.hdmRun (2 ^ 28 - 2) 2 = some (0, [2 ^ 28 - 2, 2 ^ 28 - 1]) ∧ withWindow.hdmRun (2 ^ 28 - 1) 2 = none ∧
    [2 ^ 28 - 2, 2 ^ 28 - 1].all withWindow.bankIdle = true ∧ rowOpen31.hdmRun (2 ^ 28 - 2) 2 = some (0, [2 ^ 28 - 2, 2 ^ 28 - 1]) ∧
    [2 ^ 28 - 2, 2 ^ 28 - 1].all rowOpen31.bankIdle = false ∧ withWindow.phys = {} := by decide +kernel

/-- The line checks that a CXL.mem write asks for hold where no slice holds anything. -/
theorem lines_at_rest (l : Nat) : (withWindow.line l).waiting = [] ∧ (withWindow.line l).collapsing = false ∧ withWindow.replicated l = false ∧
    (withWindow.line l).expiry ≤ withWindow.gtc ∧ (withWindow.line l).performed ≤ withWindow.gtc :=
  ⟨rfl, rfl, rfl, Nat.zero_le _, Nat.zero_le _⟩

/-- Port 47 in a state, and the lanes of port 46 fused off. -/
def ported (p : Port) (zero : Port) : State :=
  { shared with fuses := { lanes := [(46, 1)] }, fabric := { ports := [(0, zero), (47, p)] } }

theorem bytes_back (n v : Nat) : bytesToNat (natToBytes n v) = v % 256 ^ n := by
  induction n generalizing v with
  | zero => exact (Nat.mod_one v).symm
  | succ n ih =>
    show (BitVec.ofNat 8 v).toNat + 256 * bytesToNat (natToBytes n (v / 256)) = v % 256 ^ (n + 1)
    rw [ih, Nat.pow_succ', Nat.mod_mul]
    rfl

/-- A flit that carries its own check is delivered. -/
theorem flit_ok (body : List Byte) (h : body.length = 248) : flitOk (body ++ natToBytes 8 (Config.crc64 body).toNat) = true := by
  have ht : (body ++ natToBytes 8 (Config.crc64 body).toNat).take 248 = body := by rw [← h]; exact List.take_left
  have hd : (body ++ natToBytes 8 (Config.crc64 body).toNat).drop 248 = natToBytes 8 (Config.crc64 body).toNat := by rw [← h]; exact List.drop_left
  simp only [flitOk, ht, hd, bytes_back, Bool.and_eq_true, beq_iff_eq]
  exact ⟨by rw [List.length_append, h]; rfl, Nat.mod_eq_of_lt (Config.crc64 body).isLt⟩

def upPort : State := ported { up := true } {}
def trainsAgain : State := ported { retrain := some 17 } {}
def twoLanes : State := ported { lanes := 2 } {}
def downPort : State := ported {} { plane := some 511 }

theorem meets_FabricPorts : downPort.portPresent 46 = false ∧ downPort.portPresent 48 = false ∧ downPort.portPresent 47 = true ∧
    (upPort.port 47).up = true ∧ (upPort.port 47).retrain = none ∧ flitOk [] = false ∧ upPort.phase = .running ∧ (stopped []).phase ≠ .running ∧
    (trainsAgain.port 47).retrain = some 17 ∧ trainsAgain.now < 17 ∧ (downPort.port 47).up = false ∧ (downPort.port 47).retrain = none ∧
    tget downPort.fabric.ports 0 = some { plane := some 511 } ∧ 2 ≤ (downPort.port 47).lanes ∧ upPort.port (47 % portCount) = { up := true } := by
  decide +kernel

theorem meets_FabricPorts_lanes : (twoLanes.port 47).lanes < 3 ∧ 3 ≤ (upPort.port 47).lanes ∧
    ∀ j, j < portCount → j ≠ 47 → (twoLanes.port j).up = false ∧ (twoLanes.port j).retrain = none := by decide +kernel

/-! ### Steps -/

/-- Code that begins with an ADD of u32, p3 = p1 + p2. -/
def adder : Trans :=
  { key := ⟨1, 0, 0, 16⟩, words := [0x40008000, 0xC0100800, 0x00003800, 0x00008000], pmap := [⟨0, true, false, false, false, 0, 0, 0, []⟩], frame := 4, advance := 4
    segs := [(0, 4)], attr := [(0, 0, 0), (3, 0, 1)] }
def addOp : Op := { slot := 6, mod := 0x38, dest := 3, a := 1, b := 2 }
def addBundle : Bundle := ⟨⟨0x40, 0, true, false, false, 0, 0⟩, [(6, 0x00003800C0100800)]⟩

/-- Core 0 has the turn, and the group of both threads stands at the ADD. -/
def turned : State :=
  let s := site { two (pair ⟨1, 0⟩) ready ready with charged := true }
  { s with turn := [.core 0], clusters := [(0, { cluster0 with trans := [(1, adder), (2, callee)] })] }

/-- The contexts of core 0 after their look at the cycle, context 0 in its cycle, and as it tries to issue. -/
def looked : List Nat × State := lookAll exec 0 ((turned.core 0).users.filter fun y => !(turned.ctx 0 y).second) turned
def ready0 : List Nat := looked.1
def afterLook : State := looked.2
def serving : State := (afterLook.release 0 ready0).serve 0 0
def issuesNow : State := trying serving 0 0

theorem meets_StepRunsDecoded_turn : Turn turned afterLook 0 0 ready0 :=
  ⟨fun _ _ h => (nomatch h), by decide +kernel, ⟨[], by decide +kernel⟩, by decide +kernel, by decide +kernel, by decide +kernel, by decide +kernel, by decide +kernel⟩

theorem meets_StepRunsDecoded_issue : MayIssue serving issuesNow 0 0 (pair ⟨1, 0⟩) := by
  have h : (match (trying serving 0 0).writeParams 0 0 (pair ⟨1, 0⟩) with
    | .ready v => decide (v = issuesNow)
    | _ => false) = true := by decide +kernel
  refine ⟨by decide +kernel, by decide +kernel, by decide +kernel, by decide +kernel, by decide +kernel, by decide +kernel, by decide +kernel, ?_,
    by decide +kernel, by decide +kernel⟩
  revert h
  cases (trying serving 0 0).writeParams 0 0 (pair ⟨1, 0⟩) with
  | ready v => intro h; rw [of_decide_eq_true h]
  | _ => intro h; cases h

theorem meets_StepRunsDecoded_op : OneOp issuesNow 0 (pair ⟨1, 0⟩).pc adder addBundle addOp (.add addOp) :=
  ⟨by decide +kernel, ⟨[0x00008000], by decide +kernel⟩, rfl, by decide +kernel⟩

/-- The state in which the group begins, and the one that its last op leaves. -/
def startNow : State := issuesNow.modCtx 0 0 fun c => { (c.passWindows.enterShadows issuesNow.now) with second := twoCycle 0 (pair ⟨1, 0⟩) [.add addOp] }
def atNow : State := startNow.atBundle 0 (0 + addBundle.size)
def lastNow : State := Answer.stateOr (exec (answerRow (.add addOp) atNow) atNow) startNow

theorem meets_StepRunsDecoded : (State.reset.schedule 0 .wipeComplete).agenda = [(0, .wipeComplete)] ∧
    issuesNow.groupLegal 0 0 (pair ⟨1, 0⟩) [(0, addBundle)] = true ∧ addBundle.hdr.q = false ∧ issuesNow.unitsBusy 0 [.add addOp] = false ∧
    issuesNow.carryWait lastNow 0 0 (pair ⟨1, 0⟩) [0] [.add addOp] = false ∧ (lastNow.ctx 0 0).hold = none := by decide +kernel

theorem meets_StepKeepsMemories : State.reset.canonical = true ∧ (match step State.reset with
    | .next _ => true
    | _ => false) = true := by decide +kernel

theorem meets_LifeCycleForward : LifeInv State.reset ∧ LifeInv (State.reset.wiped (some .returned)) := by
  refine ⟨fun n h => ?_, fun n h => ?_⟩
  · exact absurd h (by simp [State.reset])
  · cases h; decide

/-- Instructions that are well-formed and have words: with a long immediate, with bits of MOD, and a TRET. -/
theorem meets_NativeRoundTrip : ∀ i ∈ [Instr.const { slot := 6, mod := 0x40, dest := 9, b := 0x1F3, ext := some 5 }, .barWait { slot := 7, mod := 0xC5 },
    .endLaunch { slot := 7, a := 1 }], i.wf = true ∧ (encode i).isSome = true := by decide +kernel

/-- LPF instructions with a guard, an extended immediate and a block reference. -/
theorem meets_LpfRoundTrip : ∀ i ∈ [(⟨0x000, 7, 0, true, false, [.val 0, .val 1, .ext 0x123456789]⟩ : Lpf.Inst), ⟨0x1FF, 31, 255, false, false, []⟩,
    ⟨0x140, 0, 0, false, false, [.ref 3 [1, 2, 3]]⟩], i.wf = true := by decide +kernel

end Sys2Proof.Tests
end

