-- ==== Sys2Proof/Tests/WitnessOps.lean ====
section
/-! SUPPORT. States and operands that meet the hypotheses of the statements about integer, float, lane and memory ops. -/

-- One theorem after another: every test evaluates in the kernel, and tests in parallel cost a thread stack each.
set_option Elab.async false

namespace Sys2Proof.Tests

open Sys2Proof Sys2Proof.Machine Sys2Proof.Claims

/-- Two-source ops of z32 and of s64 in the first and the last slot that takes them, and DIV under IDZ = 1 by a number that is not zero. -/
theorem meets_IntegerPairResults : ∀ e ∈ [(5, 7), (7, 4)], let o := opD e.1 e.2
    intSlot o ∧ o.extOk true true false = true ∧ Sound one o [(o.selA, 1), (o.selB, 1)] o.dest.toNat 1 ∧
      (∀ r ∈ int2 o, o.legalD r.opc = true ∧ one.divTraps o = []) := by
  simp only [intSlot, sound_iff]; decide +kernel

theorem meets_IntegerSingleResults : let o := opD 6 3
    intSlot o ∧ (∀ r ∈ int1 o, o.legalD r.2.1 = true) ∧ o.extOk true false false = true ∧ Sound one o [(o.selA, 1)] o.dest.toNat 1 := by
  simp only [intSlot, sound_iff]; decide +kernel

theorem meets_AddSubCompareResults : let o := opD 6 7
    let p := opD 6 15
    intSlot o ∧ o.extOk true true false = true ∧ Sound one o [(o.selA, 1), (o.selB, 1)] o.dest.toNat 1 ∧
      (o.legalD 0x000 = true ∧ o.ty ≠ 15 ∧ o.legalD 0x001 = true ∧ (opD 6 7 5).legalD 0x01A = true) ∧
      Sound one p [(p.selA, 1), (p.selB, 1)] p.dest.toNat 1 ∧ p.legalD 0x000 = true ∧ p.legalD 0x001 = true ∧ p.ty = 15 := by
  simp only [intSlot, sound_iff]; decide +kernel

theorem meets_BitFieldResults : let o := opD 6 8
    o.legalD 0x015 = true ∧ o.extOk true true true = true ∧ Sound one o [(o.selA, 1), (o.selB, 1), (o.selC, 1)] o.dest.toNat 1 ∧
      o.legalD 0x016 = true ∧ o.extOk true true false = true := by
  simp only [sound_iff]; decide +kernel

/-- ADDC of z64 with its carry in p6, and MADC with its fourth source in p7. -/
def carryOp (hs : Nat) : Op := { opD 7 8 with ext := some (word64 (6 + hs * 2 ^ 10)) }

theorem meets_CarryResults : let o := carryOp 0
    let m := carryOp 7
    intSlot o ∧ o.ext = some (word64 6) ∧ (word64 6).extractLsb' 20 44 = 0#44 ∧ o.var = 0 ∧ o.ty ∈ [3, 4, 7, 8] ∧ (0x1F3#10 ∉ [o.a, o.b, o.c]) ∧
      Sound one o [(o.selA, 1), (o.b.toNat, 1), (o.selC, 1)] o.dest.toNat 1 ∧
      Sound (one.claimLast .reg 3 1 [0]) o [(o.selA, 1), (o.b.toNat, 1), (o.selC, 1)] 6 1 ∧ m.ty ∈ [7, 8] ∧
      Sound one m [(m.selA, 1), (m.b.toNat, 1), (m.selC, 1), (7, 1)] m.dest.toNat 1 ∧
      Sound (one.claimLast .reg 3 1 [0]) m [(m.selA, 1), (m.b.toNat, 1), (m.selC, 1), (7, 1)] 6 1 := by
  simp only [intSlot, sound_iff]; decide +kernel

/-- SEL and MOV of a tile of f32, MOV into p7, IDX of selector 15. -/
def tileOp : Op := { opD 6 23 with rows := 1 }
def predOp : Op := { opD 6 7 1 with dest := 7 }
def idxOp : Op := { opJ 6 (15 * 2 ^ 20) with mod := 0x38, dest := 3 }

theorem meets_MoveResults : let o := opD 6 7
    let t := tileOp
    let q := predOp
    let x := idxOp
    (o.legalD 0x01C = true ∧ o.extOk false true false = true ∧ Sound one o [(o.selB, 1)] o.dest.toNat 1) ∧
    (t.legalD 0x01B = true ∧ Sound one t [(t.selA, 1), (t.selB, t.regsOf t.ty), (t.selC, t.regsOf t.ty)] t.dest.toNat (t.regsOf t.ty)) ∧
    (Lpf.tyA.contains (elemTy t.ty) = true ∧ t.var = 0 ∧ Sound one t [(t.selA, t.regsOf t.ty)] t.dest.toNat (t.regsOf t.ty)) ∧
    (Lpf.tyA.contains (elemTy q.ty) = true ∧ q.var = 1 ∧ q.dest.toNat < 8 ∧ Readable one q [(q.selA, 1)]) ∧
    x.ty = 7 ∧ x.var = 0 ∧ x.ext = none ∧ x.j = BitVec.ofNat 30 (15 * 2 ^ 20) ∧ Sound one x [] x.dest.toNat 1 := by
  simp only [sound_iff, readable_iff]; decide +kernel

theorem meets_FloatResults : ∀ ty ∈ [11, 12], let o := opD 4 ty
    vecSlot o ∧ (∀ r ∈ float2 one o, o.legalD r.2.1 = true) ∧ o.extOk true true true = true ∧
      Sound one o [(o.selA, o.regsOf o.ty), (o.selB, o.regsOf o.ty), (o.selC, o.regsOf o.ty)] o.dest.toNat (o.regsOf o.ty) ∧
      o.legalD 0x043 = true ∧ (opD 4 ty 6).legalD 0x047 = true ∧ (opD 4 ty 4).legalD 0x048 = true := by
  simp only [vecSlot, sound_iff]; decide +kernel

/-- FCVT to f32 from f64, ICVT to z32 from z64 with SAT, LCVT to l6 from f32, LPACK, LUNPK, and SFN in the slot of JXW-3. -/
theorem meets_ConversionResults : let f : Op := { opD 4 11 with c := 12 }
    let i : Op := { opD 4 7 1 with c := 8 }
    let l : Op := { opD 4 13 with c := 11 }
    let u : Op := { opD 4 29 1 with rows := 1, cols := 3 }
    let p : Op := { opD 4 7 with rows := 1, cols := 1 }
    let n : Op := { opD 2 0 with mod := 0x28 }
    ((f.legalK 0x080 && i.legalK 0x081 && l.legalK 0x082) = true ∧ Sound one f [(f.selA, f.regsOf (kSrcTy f))] f.dest.toNat (f.regsOf f.ty)) ∧
    (p.legalD 0x083 = true ∧ Sound one p [(p.selA, p.regsOf 29)] p.dest.toNat 1) ∧
    (u.ty = 29 ∧ u.var < 2 ∧ Sound one u [(u.selA, 1)] u.dest.toNat (u.regsOf 29)) ∧
    (n.slot = (if isWide one.cur.1 then 2 else 3) ∧ (sfnKind (n.mod.extractLsb' 4 4).toNat).isSome = true ∧ n.mod.extractLsb' 0 3 = 0#3 ∧
      Sound one n [(n.selA, 1)] n.dest.toNat 1) := by
  simp only [sound_iff]; decide +kernel

theorem meets_LaneResults : Sound one (opD 4 7) [((opD 4 7).selA, 1)] (opD 4 7).dest.toNat 1 ∧ Readable one (opD 4 7) [((opD 4 7).selB, 1)] ∧
    (∀ v, v < 4 → (opD 4 7 v).legalD 0x04A = true) ∧ ((opD 4 14 0).legalD 0x04B && (opD 4 14 1).legalD 0x04B && (opD 4 7 2).legalD 0x04B) = true ∧
    (∀ v, v < 6 → (opD 4 7 v).legalD 0x04C = true ∧ (opD 4 7 v).legalD 0x04D = true) := by
  simp only [sound_iff, readable_iff]; decide +kernel

/-! ### Memory ops -/

/-- A thread with a ptr to byte 64 of S in p1, words in p2 and p4, a range descriptor in p5, and a ptr into G in p6. -/
def inStash : State := world (segCtx [(1, ptr 2 64), (2, 5), (4, 7), (5, word64 (2 ^ 44 + 2 ^ 28)), (6, ptr 0 128)])

def memOp (ty : Nat) (mod : Nat := 0) : Op := { opD 1 ty with mod := BitVec.ofNat 8 (ty * 8 + mod) }

/-- A load of one element, the same with a range descriptor, a load of rows, and FILL. -/
theorem meets_LoadsComplete : let o := memOp 7
    let r : Op := { memOp 7 with c := 5 }
    let f : Op := { opJ 1 (2 ^ 16) with dest := 3 }
    let v := memOp 19
    (o.legalD 0x0C0 = true ∧ o.extOk true false false = true ∧ Sound inStash o [(o.selA, 1)] o.dest.toNat (o.regsOf o.ty) ∧
      Accepts inStash .load (tyBytes (elemTy o.ty)) (loadAccs o inStash)) ∧
    (Sound inStash r [(r.selA, 1), (r.selC, 1)] r.dest.toNat (r.regsOf r.ty) ∧ inStash.top r = some (0, 0) ∧
      rangeDescOk (inStash.word r 0 0 r.selC) = true) ∧
    (v.legalD 0x0C2 = true ∧ Sound inStash v [(v.selA, 1), (v.selB, 1)] v.dest.toNat (v.regsOf v.ty) ∧
      Accepts inStash .load (tyBytes (elemTy v.ty)) (rowLoadAccs v inStash)) ∧
    f.legalJ = true ∧ f.j.extractLsb' 0 16 = 0#16 ∧ Sound inStash f [] f.dest.toNat 1 ∧ Accepts inStash .load 8 (frameAccs f inStash) := by
  simp only [sound_iff, accepts_iff]; decide +kernel

theorem meets_StashLoadResults : let o := memOp 7
    o.legalD 0x0C0 = true ∧ isTileTy o.ty = false ∧ inStash.active o ≠ [] ∧ (inStash.active o).Pairwise (fun a b => a.2 ≠ b.2) ∧
      ∀ a ∈ loadAccs o inStash, Scratch inStash a := by
  simp only [Scratch]; decide +kernel

theorem meets_StoresComplete : let o := memOp 7
    let v := memOp 23
    let f : Op := opJ 1 (2 ^ 16 + 2)
    (o.legalD 0x0C1 = true ∧ o.extOk true true false = true ∧ Readable inStash o [(o.selA, 1), (o.selB, o.regsOf o.ty)] ∧
      Accepts inStash .store (tyBytes (elemTy o.ty)) ((stores o inStash).map (·.1))) ∧
    (v.legalD 0x0C3 = true ∧ v.extOk true true true = true ∧ Readable inStash v [(v.selA, 1), (v.selB, 1), (v.selC, v.regsOf v.ty)] ∧
      Accepts inStash .store (tyBytes (elemTy v.ty)) ((rowStores v inStash).map (·.1))) ∧
    (f.legalJ = true ∧ f.dest = 0#10 ∧ f.j.extractLsb' 10 6 = 0#6 ∧ (f.j.extractLsb' 0 10).toNat = 2 ∧
      (∀ t ∈ inStash.group.threads, (inStash.me.thread t).skip = none) ∧ Readable inStash f [(2, 1)] ∧
      Accepts inStash .store 8 (frameAccs f inStash)) := by
  simp only [readable_iff, accepts_iff]; decide +kernel

theorem meets_StashStoreFrame : Memory.wf inStash.home.stash = true ∧ (∀ w ∈ stores (memOp 7) inStash, Scratch inStash w.1) ∧
    ∃ t, exec (.st (memOp 7)) inStash = .next t :=
  ⟨by decide +kernel, by simp only [Scratch]; decide +kernel, _, rfl⟩

/-- ATOM add, and compare and swap, of z32 at scope wg. -/
def atomOp (fn : Nat) : Op := { opMod 1 (fn * 16) with dest := 3, a := 1, b := 2, c := 4, ext := some 7 }

theorem atomLegal_iff {opc : Nat} {o : Op} : AtomLegal opc o ↔ (o.ext.any fun w => w.extractLsb' 5 59 == 0#59) = true ∧
    o.a ≠ 0x1F3#10 ∧ o.b ≠ 0x1F3#10 ∧ (atomFn o = 7 → o.c ≠ 0x1F3#10) ∧ (Lpf.row opc).any (·.tyOk (atomTy o)) = true ∧
      Lpf.modOk opc (atomTy o) o.mod.toNat = true := by
  simp [AtomLegal, Option.any_eq_true]

theorem meets_AtomicsComplete : ∀ fn ∈ [0, 7], ∀ r ∈ atoms (atomOp fn), AtomLegal r.2.1 (atomOp fn) ∧
    Sound inStash (atomOp fn) (atomSrcs (atomOp fn)) 3 1 ∧
    Accepts inStash .atomic (tyBytes (atomTy (atomOp fn))) (atomAccs (atomOp fn) inStash) ∧ inStash.active (atomOp fn) = [(0, 0)] ∧
    Released inStash (atomOp fn) (atomScope (atomOp fn)) := by
  simp only [atomLegal_iff, sound_iff, accepts_iff, Released]; decide +kernel

theorem meets_StashAtomicResult : inStash.active (atomOp 7) = [(0, 0)] ∧
    Scratch inStash (Acc.ofPtr 0 0 (inStash.word (atomOp 7) 0 0 (atomOp 7).selA) (tyBytes (atomTy (atomOp 7)))) := by
  simp only [Scratch]; decide +kernel

def backsUpB (s : State) (keys : List Nat) : Bool :=
  keys.all fun g => (tget s.me.mem.granules g).all fun gr => gr.mask == 0#256 ||
    walkOk (s.probe (s.spaceOf s.cur.1 s.cur.2) (s.me.granVa (g / 2048) (g % 2048)) .store)

theorem backsUp_of {s : State} {keys : List Nat} (h : backsUpB s keys = true) : BacksUp s keys := by
  intro g hg gr hgr hm
  have h1 := List.all_eq_true.1 h g hg
  rw [hgr] at h1
  cases hp : s.probe (s.spaceOf s.cur.1 s.cur.2) (s.me.granVa (g / 2048) (g % 2048)) .store with
  | ok pa pte => exact ⟨pa, pte, rfl⟩
  | fault l => simp [hp, walkOk] at h1; exact absurd h1 hm
  | violation => simp [hp, walkOk] at h1; exact absurd h1 hm

/-- The operands of STMAP, STWB and STINV: entry 31 with two words, the same with CLR, and two granules from byte 256 of S, which map 2 KiB of
G; granule 1 of entry 0 has been written to. -/
def stashOps (p : Word) : State :=
  world { segCtx [(1, p), (2, word64 512), (3, word64 (2 ^ 20))] with
    mem := { shareLen := 2 ^ 16, stmap := [(0, 0, word64 (7 * 2 ^ 20))], granules := [(1, .dirty 255)] } }

def stashOp : Op := { opMod 1 0 with a := 1, b := 2 }
def mapOp : Op := { stashOp with cols := 1 }
def clearing : State := stashOps (word64 (2 ^ 8 + 31))
def mapping : State := stashOps (word64 31)
def covering : State := stashOps (ptr 2 256)

theorem meets_StashControlEffects :
    (inStash.top (memOp 0) = some (0, 0) ∧ (memOp 0).legalD 0x0C8 = true ∧ Readable inStash (memOp 0) [((memOp 0).selA, 1)]) ∧
    (clearing.top stashOp = some (0, 0) ∧ stashOp.legalD 0x0C9 = true ∧ stashOp.extOk true true false = true ∧
      Readable clearing stashOp [(stashOp.selA, 1)] ∧ (clearing.word stashOp 0 0 1).extractLsb' 8 24 = 1#24 ∧
      ((clearing.word stashOp 0 0 1).extractLsb' 0 8).toNat < 32) ∧
    (mapping.top mapOp = some (0, 0) ∧ Readable mapping mapOp [(mapOp.selA, 1), (mapOp.selB, 2)] ∧ mapOp.elems = 2 ∧
      (mapping.word mapOp 0 0 1).getLsbD 8 = false ∧ mapping.run mapOp 0 0 mapOp.selB 2 = [word64 512, word64 (2 ^ 20)] ∧
      mapTrap mapping.me (word64 512) (word64 (2 ^ 20)) = none) := by
  simp only [readable_iff]; decide +kernel

theorem meets_StashControlEffects_granules :
    (covering.top stashOp = some (0, 0) ∧ ptrSeg (covering.word stashOp 0 0 1) = 2 ∧ ptrBad (covering.word stashOp 0 0 1) = false ∧
      256 + covering.scalar stashOp 0 0 2 7 ≤ covering.me.limit 2 ∧ stashOp.legalD 0x0CA = true ∧ stashOp.legalD 0x0CB = true) ∧
    (covering.me.coveredGranules 256 512 = [1] ∧ covering.me.fillAwaited 1 = false ∧
      (tget covering.me.mem.granules 1).any GranState.isFilling = false) ∧
    ((opMod 1 (7 * 16 + 7)).mod = BitVec.ofNat 8 (7 * 16 + 3 * 2 + 1) ∧ (opMod 1 (11 * 16)).ext = none) := by decide +kernel

/-- The pages of G take what has been written of the granules. -/
theorem meets_StashControlEffects_backed : BacksUp clearing [1] ∧ BacksUp mapping [1] ∧ BacksUp covering [1] ∧
    (∀ s ∈ [clearing, mapping, covering], s.me.mem.granules.map (·.1) = [1]) :=
  ⟨backsUp_of (by decide +kernel), backsUp_of (by decide +kernel), backsUp_of (by decide +kernel), by decide +kernel⟩

end Sys2Proof.Tests
end

