-- ==== Sys2Proof/Tests/WitnessQueues.lean ====
section
/-! SUPPORT. Concrete states that meet the hypotheses of the statements about translations, slices, leases and front ends. -/

-- One theorem after another: every test evaluates in the kernel, and tests in parallel cost a thread stack each.
set_option Elab.async false

namespace Sys2Proof.Tests

open Sys2Proof Sys2Proof.Machine Sys2Proof.Claims

/-- The function that returns, and the same with a parameter. -/
def retFunc : LFunc :=
  { nparam := 0, restype := 0, entry := true, levels := 0, budget := 0, params := [], blocks := [⟨[], (0, 0), [[0xA2000000]]⟩], reserve := [] }
def retObj : Obj :=
  { obj1 with funcs := [retFunc, { retFunc with nparam := 1, params := [8], blocks := [⟨[8], (0, 0), [[0xA2000000]]⟩] }], bars := [] }

/-- A stub that is being translated, for a key and its waiters, on a cluster with a core mask. -/
def asking (key : TKey) (waiters : List (Nat × Nat)) (cmask : BitVec 12 := 0xFFF) : State :=
  { shared with
    objs := [(1, retObj)], fuses := { cmask := [(0, cmask)] }
    clusters := [(0, { stubs := [⟨key, .translating, 0, 0, waiters, 0⟩] })] }

/-- Context 0 awaits the block 0 of translation 1, which stands in the resident memory or is too large for it. -/
def fetches (n : Nat) : State :=
  let s := site { two (pair ⟨1, 0⟩) ready ready with fetching := some (1, 0), regs := { segs with bregs := [(0, ⟨some ⟨1, 3⟩, some 7, false⟩)] } }
  { s with clusters := [(0, { cluster0 with trans := [(1, { caller with words := List.replicate n 0x8000 })] })] }

/-- The translation of the function that returns. -/
def retTrans : Trans :=
  { key := ⟨1, 0, 0, 16⟩, words := [0x8000C000, 0, 0x44000000], pmap := [⟨0, true, false, true, false, 0, 0, 65535, []⟩], frame := 1, advance := 0
    segs := [(0, 3)], attr := [(0, 0, 0)] }

def goodKey : TKey := ⟨1, 0, 0, 16⟩
def failing : TKey := ⟨1, 1, 0, 0⟩
def fits : State := asking goodKey [(0, 0)]
def fails : State := asking failing [(0, 0)]
def noRoom : State := asking goodKey [(0, 0)] 0

/-- The stub of the key stands TRANSLATING with context 0 of core 0 in wait. -/
def stubAsks (s : State) (key : TKey) : Bool := s.stub 0 key == some ⟨key, .translating, 0, 0, [(0, 0)], 0⟩

theorem meets_Translations : stubAsks fits goodKey = true ∧ fits.partOfCluster 0 = some (0, { part0 with spare := 1 }) ∧
    fits.translationOf 0 goodKey = some (.done retTrans) ∧ (fits.cluster 0).heapUsed + retTrans.heapBytes ≤ fits.heapCap 0 := by decide +kernel

theorem meets_Translations_failed : stubAsks fails failing = true ∧ fails.translationOf 0 failing = some (.failed 2) ∧
    stubAsks noRoom goodKey = true ∧ noRoom.translationOf 0 goodKey = some (.done retTrans) ∧ noRoom.heapCap 0 < retTrans.heapBytes ∧
    (47 : Nat) < 48 := by decide +kernel

theorem meets_Translations_code : ((fetches 4).ctx 0 0).fetching = some (1, 0) ∧ (fetches 4).fitsResident 0 1 = true ∧
    tget ((fetches 4).ctx 0 0).regs.bregs 0 = some ⟨some ⟨1, 3⟩, some 7, false⟩ := by decide +kernel

theorem meets_Translations_window : ((fetches 40000).ctx 0 0).fetching = some (1, 0) ∧ (fetches 40000).fitsResident 0 1 = false := by
  have h : (fetches 40000).trWords 0 1 = 40000 := by
    show (List.replicate 40000 (0x8000 : W32)).length = 40000
    exact List.length_replicate
  exact ⟨rfl, by simp [State.fitsResident, h, residentWords]⟩

/-- Line 5 with two writes that wait until tick 100, at a tick. -/
def heldWrite : PWrite := { bytes := [(640, 7), (767, 9)], key := some 0, owners := [(0, 0, 1)], id := some 3 }
def held (tick : Nat) : State :=
  { shared with now := 17 * tick, phys := { lines := [(5, { waiting := [heldWrite, heldWrite], expiry := 100 })] } }

/-- Line 5 replicated to clusters 16 and 31 of die 1, with a lease at cluster 16 until tick 100. -/
def copied (tick : Nat) (collapse : List CollapseNode) : State :=
  { shared with
    now := 17 * tick
    phys := { lines := [(5, { waiting := [{ heldWrite with id := none }], collapsing := true, collapse := collapse })]
              pkgDir := [(5, [1])], dieDir := [(5, [16, 31])], replicas := [(5, [⟨16, 100, false⟩])] } }

/-- The writes of line 5 that a cluster has combined since tick 0. -/
def combined : WcbEntry := { since := 0, key := some 0, bytes := [(640, 7)], owners := [(0, 0, 1)] }

/-- Line 5 in the L1 of core 0. -/
def l1Line : L1Line := { data := [], key := 0, e := 0, version := 3, mask := BitVec.allOnes 128 }

/-- Line 5 in the L1 of core 0, written last by a context, with the writes of its cluster combined since tick 0, and leased at home until
a tick. -/
def cached (spec : Option Spec) (writer : Option (Nat × Nat)) (tick : Nat) (expiry : Nat := 0) : State :=
  let s := site { two (pair ⟨1, 0⟩) ready ready with spec := spec, fence := some ⟨9, 0, [5]⟩ }
  { s with
    now := 17 * tick, phys := { lines := [(5, { version := 3, writer := writer, expiry := expiry })] }
    clusters := [(0, { cluster0 with wcb := [(5, combined)] })] }.modCore 0 fun c => { c with l1 := [(5, l1Line)] }

/-- A load of line 5 of version v, and the window that it stands in. -/
def specLoad (v : Nat) : SpecLoad := { line := 5, bundle := 0, group := pair ⟨1, 0⟩, latches := [], version := v, answer := none, range := none }
def window (v : Nat) : Spec := { bundles := 1, written := [0], loads := [specLoad v], saves := [], taint := [] }

theorem meets_SlicesAndLeases : ((held 100).line 5).waiting = [heldWrite, heldWrite] ∧ ((held 100).line 5).collapsing = false ∧
    (held 100).writeReady 5 heldWrite ≤ (held 100).gtc ∧ (heldWrite.bytes.map (·.1)).Nodup ∧ (held 99).gtc < (held 99).writeReady 5 heldWrite ∧
    Memory.wf (held 100).phys.dram = true ∧ (held 100).phys.overlay.Pairwise fun a b => a.1 < b.1 := by decide +kernel

theorem meets_SlicesAndLeases_collapse : tgetD (copied 0 []).phys.pkgDir 5 [] = [1] ∧ tgetD (held 0).phys.pkgDir 5 [] = [] ∧
    (copied 0 []).clustersOn 5 1 = [16, 31] ∧ (held 0).clustersOn 5 1 = [] ∧ (copied 100 []).replicaOf 5 16 = some ⟨16, 100, false⟩ ∧
    100 ≤ (copied 100 []).gtc ∧ (copied 99 []).gtc < 100 ∧ ((copied 0 [.die 1]).line 5).collapse = [.die 1] ∧
    ((copied 0 [.replica 31]).line 5).collapse = [.replica 31] ∧ (copied 0 [.replica 31]).phys.dieDir.Pairwise (fun a b => a.1 < b.1) ∧
    ((copied 0 []).line 5).waiting ≠ [] := by decide +kernel

def unwritten : State := cached none none 0
def foreign : State := cached none (some (7, 0)) 0
def written : State := cached none (some (0, 0)) 0
def leased : State := cached none (some (0, 0)) 0 200

theorem meets_SlicesAndLeases_promotion : (unwritten.ctx 0 0).fence = some ⟨9, 0, [5]⟩ ∧ (unwritten.line 5).writer = none ∧
    (foreign.line 5).writer = some (7, 0) ∧ (foreign.ctx 7 0).state ≠ .active ∧ (written.line 5).writer = some (0, 0) ∧
    (written.ctx 0 0).state = .active ∧ (written.releaseStart 0 0 0 7).releaseReady 0 0 7 = true ∧ (leased.line 5).writer = some (0, 0) ∧
    (leased.releaseStart 0 0 0 7).releaseReady 0 0 7 = false := by decide +kernel

theorem meets_SlicesAndLeases_lines : (cached none none 64).wcbEntry 0 5 = some combined ∧ combined.since + 64 ≤ (cached none none 64).gtc ∧
    (cached none none 63).gtc < combined.since + 64 ∧ tget (unwritten.core 0).l1 5 = some l1Line ∧ (unwritten.ctx 0 0).spec = none ∧
    (unwritten.grantAgain 0 5 none).2.1 ≠ 0 := by decide +kernel

/-- A renewal that cannot be granted: a write of the line waits. -/
def refused : State := unwritten.modLine 5 fun n => { n with waiting := [heldWrite], collapsing := true }

theorem meets_SlicesAndLeases_windows : (refused.grantAgain 0 5 none).2.1 = 0 ∧ ((cached (some (window 2)) none 0).ctx 0 0).spec = some (window 2) ∧
    (specLoad 2).version ≠ ((cached (some (window 2)) none 0).line 5).version ∧ (window 2).loads = [specLoad 2] ∧
    (specLoad 3).version = ((cached (some (window 3)) none 0).line 5).version := by decide +kernel

/-- Words in memory under key slot 0. -/
def words (pa : Nat) (ws : List Word) : List (Nat × Byte) := bytesAt pa (ws.flatMap fun w => natToBytes 8 w.toNat)

/-- Queue 255 of die 0 in address space 0, with its ring of 16 packets at 1 MiB. -/
def queue (u : Queue) (ws : List (Nat × Byte)) (job : List CopyJob := []) : State :=
  let s := site (two (pair ⟨1, 0⟩) ready ready)
  { s with
    fes := [(0, { base := word64 (2 ^ 16), cmd := 0xFF00, queues := [(255, u)], jobs := job, nextJob := 4 })]
    phys := ({ dram := [] } : Phys).putDram (some 0) ws }

/-- The queue's descriptor at physical address 64 KiB + 64 · 255, kept below the keys. -/
def described (u : Queue) (ws : List Word) : State :=
  let s := queue u []
  { s with phys := ({ dram := [] } : Phys).putDram none (words (2 ^ 16 + 64 * 255) ws) }

/-- An active queue with packets to issue. -/
def active (ps : List Packet) : Queue := { state := .active, ring := 2 ^ 20, log2n := 4, seen := ps.length, ahead := ps.length, look := ps, nextId := 9 }

/-- A packet of a type with words 1 and up. -/
def packet (ty : Nat) (ws : List Word) : Packet :=
  { id := 5, words := word64 (ty * 2 ^ 56) :: ws ++ List.replicate (7 - ws.length) 0, parent := none, bad := none }

/-- A descriptor of a ring of 2^n packets with READ and WRITE. -/
def desc (read write : Nat) : List Word := [word64 (2 ^ 20 + 4), 0, word64 write, word64 read, 0, 0, 0, 0]

/-- A packet of queue 255 that has issued. -/
def atWork (p : Packet) (sig : Option Nat := none) (stage : Nat := 0) (waits : List (Nat × Nat) := []) : Issued := ⟨p, sig, waits, stage⟩

/-- The queue with descriptors: disabled and well-formed or not, active, aborted, suspended with a BARRIER, and active within a CALL, with
WRITE 2, 16 and 17. -/
def disabledQ : State := described {} (desc 1 2)
def badDescQ : State := described {} [word64 (2 ^ 20 + 3)]
def activeQ (write : Nat) : State := described (active []) (desc 0 write)
def abortedQ : State := described { active [] with state := .aborted } (desc 1 2)
def suspendedQ : State := described { active [] with state := .suspended, issued := [atWork (packet 3 [])] } (desc 1 2)
def callingQ : State := described { active [] with issued := [atWork (packet 5 [0, 8192, 1])] } (desc 1 2)

def descFacts (s : State) : Bool := descOk ((List.range 8).map fun i => s.descWord 0 255 i)

theorem meets_QueueCommands : (disabledQ.queue 0 255).state = .disabled ∧ descFacts disabledQ = true ∧ descFacts badDescQ = false ∧
    ((activeQ 16).queue 0 255).state = .active ∧ (abortedQ.queue 0 255).state = .aborted ∧ (suspendedQ.queue 0 255).state = .suspended ∧
    (packet 3 []).type = 3 ∧ (packet 3 []).bad = none ∧ packetCount ((activeQ 16).descWord 0 255 2).toNat ((activeQ 16).queue 0 255).read ≤ 2 ^ 4 ∧
    2 ^ 4 < packetCount ((activeQ 17).descWord 0 255 2).toNat ((activeQ 17).queue 0 255).read := by decide +kernel

theorem meets_QueueCommands_entered : (callingQ.queue 0 255).state ≠ .disabled ∧ (callingQ.queue 0 255).issued = [atWork (packet 5 [0, 8192, 1])] ∧
    (callingQ.queue 0 255).find 5 = some (atWork (packet 5 [0, 8192, 1])) ∧ (packet 5 [0, 8192, 1]).enters = true ∧
    (∀ x ∈ (callingQ.queue 0 255).issued, x.packet.parent ≠ some 5) ∧ (255 : W32).toNat < 256 ∧ (256 : Nat) ≤ (256 : W32).toNat ∧
    callingQ.phase = .running := by decide +kernel

/-- The packets of every kind, with pointers into page 0, where the words at 8 KiB and up are not zero. -/
def cells : List (Nat × Byte) := words 8192 [1, word64 (2 ^ 63 + 5), 0]
def issues (p : Packet) (stack : List Frame := []) : State := queue { active [p] with stack := stack, stopped := true } cells
def starts (s : State) (ptrs : Packet → List (Word × AccessKind)) (p : Packet) : Bool :=
  (s.queue 0 255).canIssue && p.bad.isNone && (s.issueHead 0 255).any fun e =>
    let a := e.2.reachAll (e.2.queueSpace 0 (e.2.queue 0 255)) ((((e.2.queue 0 255).find e.1.id).bind (·.sig)).toList.map fun va => (va, AccessKind.atomic))
    let b := a.2.reachAll (e.2.queueSpace 0 (e.2.queue 0 255)) ((ptrs e.1).map fun w => ((e.2.queue 0 255).va w.1, w.2))
    e.1 == p && a.1 && b.1

theorem starts_of {s : State} {ptrs : Packet → List (Word × AccessKind)} {p : Packet} (h : starts s ptrs p = true) :
    ∃ u, Starts s 0 255 ptrs p u := by
  simp only [starts, Bool.and_eq_true, Option.isNone_iff_eq_none, Option.any_eq_true, beq_iff_eq, Prod.exists] at h
  obtain ⟨⟨hc, hb⟩, q, v, hv, ⟨rfl, ha⟩, hr⟩ := h
  exact ⟨_, hc, hb, v, hv, ha, Prod.ext hr rfl⟩

def barrierPacket : Packet := { packet 3 [] with words := [word64 (3 * 2 ^ 56 + 5 * 2 ^ 40), 0, 8192, 8200, 8208, 0, 8] }

/-- Every kind of packet with its pointers and the stack of the look-ahead: COND taken, not taken, empty and on a full stack; LOOP first and with a body
that has run three times, of 4, 3 and any number of iterations, and with a predicate of zero. -/
def body3 : List Frame := [⟨5, 0, 1, 1, 3, true⟩]
def fullStack : List Frame := List.replicate 8 ⟨1, 0, 0, 1, 1, false⟩
def condPacket (at_ len : Nat) : Packet := packet 8 [0, word64 at_, 0, word64 len, 64, word64 len]
def loopPacket (at_ count : Nat) : Packet := packet 9 [0, word64 at_, 0, 1, word64 count]

def kinds : List ((Packet → List (Word × AccessKind)) × Packet) :=
  [(fun _ => [], packet 0 []), (fun _ => [], packet 6 []), (fun _ => [], packet 7 [8192]),
   (fun p => [(p.word 2, .load)], packet 5 [0, 8192, 1]), (signalPtrs, packet 4 [8192, 8192, 7]),
   (fun p => [(p.word 2, .store)], packet 10 [8192, 8192]), (waitPtrs, barrierPacket), (copyPtrs, packet 2 [0, 8192, 12288, 2 ^ 32 - 1])]

def branches : List ((Packet → List (Word × AccessKind)) × Packet × List Frame) :=
  [(condPtrs, condPacket 8192 0, []), (condPtrs, condPacket 8192 1, []), (condPtrs, condPacket 8208 0, []), (condPtrs, condPacket 8208 1, []),
   (condPtrs, condPacket 8192 1, fullStack), (loopPtrs, loopPacket 8192 0, []), (loopPtrs, loopPacket 8192 1, []), (loopPtrs, loopPacket 8208 1, []),
   (loopPtrs, loopPacket 8192 4, body3), (loopPtrs, loopPacket 8192 3, body3), (loopPtrs, loopPacket 8192 0, body3),
   (loopPtrs, loopPacket 8208 4, body3)]

theorem meets_PacketsIssue (e) (he : e ∈ kinds) : ∃ u, Starts (issues e.2) 0 255 e.1 e.2 u := by
  have h : kinds.all (fun e => starts (issues e.2) e.1 e.2) = true := by decide +kernel
  exact starts_of (List.all_eq_true.1 h e he)

theorem meets_PacketsIssue_stacks (e) (he : e ∈ branches) : ∃ u, Starts (issues e.2.1 e.2.2) 0 255 e.1 e.2.1 u := by
  have h : branches.all (fun e => starts (issues e.2.1 e.2.2) e.1 e.2.1) = true := by decide +kernel
  exact starts_of (List.all_eq_true.1 h e he)

/-- What the predicate of a COND or LOOP finds. -/
def predicateOf (p : Packet) (stack : List Frame) : Option Bool := ((issues p stack).predicate 0 255 p).1

theorem meets_PacketsIssue_predicates : predicateOf (condPacket 8192 0) [] = some true ∧ predicateOf (condPacket 8208 1) [] = some false ∧
    predicateOf (loopPacket 8192 4) body3 = some true ∧ predicateOf (loopPacket 8208 4) body3 = some false ∧ fullStack.length = 8 ∧
    atLoop (active []) (packet 9 []) = false ∧ atLoop { active [] with stack := body3 } (packet 9 []) = true := by decide +kernel

/-- A queue behind a COPY whose next packet has BAR, and a malformed packet at the head. -/
def barred : Packet := { packet 0 [] with words := [word64 (2 ^ 55)] }
def behind : State := queue { active [{ packet 8 [] with id := 6 }] with issued := [atWork (packet 2 [])] } []
def malformed : State := queue (active [{ packet 0 [] with bad := some (-2) }]) []

theorem meets_PacketsIssue_heads : ((issues barred []).queue 0 255).canIssue = true ∧ (behind.queue 0 255).canIssue = false ∧
    (malformed.queue 0 255).canIssue = true ∧ (malformed.queue 0 255).find 5 = none := by decide +kernel

/-- A launch of 2^20 cohorts of one core and 2 threads from the record at 4 KiB, with the record's words 2, 3, 12 and 14. -/
def launchPacket (grid size : Nat) : Packet := packet 1 [0, 4096, word64 (2 ^ 52 + 2 ^ 16 + grid * 2 ^ 10 + size)]
def launchRecord (w2 w3 w12 w14 : Word) : List Word :=
  [0, 0, w2, w3] ++ List.replicate 8 0 ++ [w12, 2 ^ 16, w14] ++ List.replicate 5 0 ++ [2 ^ 17] ++ List.replicate 11 0 ++ List.replicate 32 7

/-- The front end with a LAUNCH at its head and a record in memory; `tmpl` says that LASTPTR stands in the record. -/
def launching (p : Packet) (rec : List Word) : State := queue { active [p] with stopped := true } (words 4096 rec)

/-- What the front end finds in a record. -/
structure LaunchFacts where
  read : Bool
  ok : Bool
  table : Option Int
  never : Bool
deriving DecidableEq

def launchFacts (p : Packet) (rec : List Word) : LaunchFacts :=
  let s := launching p rec
  let r := readRecord s 0 255 p
  let ws := r.1.getD []
  let w := r.2.readTable 0 (s.queue 0 255) (gridOf p).1 (gridOf p).2 (wordOf ws 3)
  { read := r.1 == some rec, ok := r.2.recordOk 0 (p.word 3) ws
    table := match w.1 with
      | .error v => some v
      | .ok _ => none
    never := w.2.unplaceable part0 (gridOf p).1 (gridOf p).2 ((p.word 3).extractLsb' 0 9).toNat (wordOf ws 14).toNat }

def launchSmall : State := launching (launchPacket 0 2) (launchRecord 1 0 0 0)
def launchUnbound : State := { launchSmall with parts := [(0, { part0 with roots := [] })] }

theorem meets_LaunchesStart_packet (s : State) (h : s ∈ [launchSmall, launchUnbound]) : ∃ u, Starts s 0 255 launchPtrs (launchPacket 0 2) u := by
  have a : ([launchSmall, launchUnbound].all fun s => starts s launchPtrs (launchPacket 0 2)) = true := by decide +kernel
  exact starts_of (List.all_eq_true.1 a s h)

theorem meets_LaunchesStart_records : launchFacts (launchPacket 0 2) (launchRecord 1 0 0 0) = ⟨true, true, none, false⟩ ∧
    launchFacts (launchPacket 0 2) (launchRecord 2 0 0 0) = ⟨true, false, none, false⟩ ∧
    launchFacts (launchPacket 1 2) (launchRecord 1 (2 ^ 62) 0 0) = ⟨true, true, some (-2), false⟩ ∧
    launchFacts (launchPacket 1 2) (launchRecord 1 (2 ^ 40) 0 0) = ⟨true, true, some (-5), false⟩ ∧
    launchFacts (launchPacket 0 2) (launchRecord 1 0 0 (2 ^ 30)) = ⟨true, true, none, true⟩ := by decide +kernel

/-- The launch of the tests is offered to the agent of core 0: untemplated or its founder, with the next cohort in its record at 4 KiB. -/
def offered (l : Launch) (part : Partition) (ticket : Nat) : State :=
  let s := site {}
  { s with
    parts := [(0, part)], launches := [(0, { l with rec_ := 4096, cols := 1 })], cohorts := []
    phys := ({ dram := [] } : Phys).putDram (some 0) (words 4096 [word64 ticket]) }

def plain : Launch := { launch0 with tmpl := false }

/-- What the agent of core 0 finds. -/
structure OfferFacts where
  tries : Bool
  waits : Bool
  seats : Option (List (Nat × Nat × Nat))
  anywhere : Bool
  ticket : Option Nat
deriving DecidableEq

def offerFacts (s : State) : Option OfferFacts :=
  match tget s.launches 0, tget s.parts 0 with
  | some l, some p => some {
      tries := l.ending == false && (p.runs l.wgsize).contains 0 && (l.tmpl && l.frozen.isNone && l.founded) == false
      waits := p.swapped || s.fwStopped 0 || s.savedFirst l.part l.prio
      seats := s.agentSeats l 0
      anywhere := (p.runs l.wgsize).any fun c => (s.placeNext l c).isSome
      ticket := (s.rmw64 (s.launchSpace 0 l) l.rec_ (· + 1)).1.map (·.toNat) }
  | _, _ => none

def offered0 : State := offered plain part0 0
def swappedOffer : State := offered plain { part0 with swapped := true } 0
def tooLarge : State := offered { plain with segLim := List.replicate 8 (2 ^ 30), prio := 0 } part0 0

theorem meets_LaunchesStart : offerFacts (offered launch0 part0 0) = some ⟨true, false, some [(0, 0, 16)], true, some 0⟩ ∧
    offerFacts offered0 = some ⟨true, false, some [(0, 0, 16)], true, some 0⟩ ∧
    offerFacts (offered plain part0 1) = some ⟨true, false, some [(0, 0, 16)], true, some 1⟩ ∧ plain.ncoh = 1 ∧
    offerFacts swappedOffer = some ⟨true, true, some [(0, 0, 16)], true, some 0⟩ ∧
    offerFacts tooLarge = some ⟨true, false, none, false, some 0⟩ := by decide +kernel

/-- An issued packet with a SIG at 8 KiB and REL of a scope, for the last access of a queue. -/
def issued (p : Packet) (sig : Option Nat) (stage : Nat := 0) (waits : List (Nat × Nat) := []) (st : QueueState := .active) : State :=
  queue { active [] with state := st, issued := [atWork p sig stage waits] } cells

/-- What a barrier that waits for the words at 8 KiB finds: 1, a negative number, and 0. -/
structure BarrierFacts where
  failed : Bool
  neg : Option Int
  left : List (Nat × Nat)
deriving DecidableEq

def barrierFacts (aon : Bool) (va : Nat) : BarrierFacts :=
  let s := issued (packet 3 []) none 0 [(0, va)]
  let r := (s.readWaits (s.queueSpace 0 (s.queue 0 255)) aon [(0, va)]).1
  ⟨r.failed, r.neg, r.left⟩

theorem meets_PacketsComplete_barriers : barrierFacts false (2 ^ 40) = ⟨true, none, []⟩ ∧ barrierFacts false 8200 = ⟨false, none, []⟩ ∧
    barrierFacts true 8200 = ⟨false, some (-9223372036854775803), [(0, 8200)]⟩ ∧ barrierFacts false 8208 = ⟨false, none, []⟩ ∧
    barrierFacts false 8192 = ⟨false, none, [(0, 8192)]⟩ := by decide +kernel

def ringRead (s : State) : Option (List Word) := (s.peekPacket (s.queueSpace 0 (s.queue 0 255)) ((s.queue 0 255).slot 0)).1
def inRing (ring : Nat) : State := queue { active [] with seen := 1, ring := ring } []
def inBuffer (pos : Nat) : State := queue { active [] with stack := [⟨5, 8192, pos, 1, 1, false⟩] } []

theorem meets_PacketsComplete_looks : ((queue (active []) []).queue 0 255).lookReady = false ∧ ((inRing (2 ^ 20)).queue 0 255).lookReady = true ∧
    ringRead (inRing (2 ^ 20)) = some (List.replicate 8 0) ∧ ((inRing (2 ^ 40)).queue 0 255).lookReady = true ∧ ringRead (inRing (2 ^ 40)) = none ∧
    ((inBuffer 0).queue 0 255).lookReady = true ∧ ((inBuffer 1).queue 0 255).lookReady = true := by decide +kernel

def copyJob : CopyJob := { id := 3, queue := 255, packet := 5, src := 8192, dst := 12288, len := 9, asid := 0 }
def held3 (st : QueueState) : State := issued (packet 3 []) none 0 [] st

theorem meets_PacketsComplete_kinds : ((held3 .active).queue 0 255).find 5 = some (atWork (packet 3 [])) ∧ (packet 3 []).type = 3 ∧
    ((held3 .suspended).queue 0 255).find 5 = some (atWork (packet 3 [])) ∧ ((held3 .suspended).queue 0 255).state = .suspended ∧
    ((issued (packet 2 []) none).queue 0 255).find 5 = some (atWork (packet 2 [])) ∧ (packet 2 []).type ≠ 3 ∧
    ((queue (active []) [] [copyJob]).fe 0).jobs.find? (fun j => j.id == 3) = some copyJob := by decide +kernel

def ends (va : Nat) : State := issued (packet 0 []) (some va)
def signals : State := issued (packet 4 [0, 8192, 1]) none

/-- What the SIG of a packet holds, and whether it may be changed. -/
def sigFacts (va : Nat) : Option Nat × Bool :=
  let s := ends va
  ((s.peek64 (sigSpace s 0 255) va).1.map (·.toNat), ((s.peek64 (sigSpace s 0 255) va).2.physPiece (sigSpace s 0 255) va 8 .atomic).1.isSome)

theorem meets_PacketsComplete : ((ends 8192).queue 0 255).find 5 = some (atWork (packet 0 []) (some 8192)) ∧ (packet 0 []).type ≠ 4 ∧
    (packet 0 []).rel = 0 ∧ (packet 0 []).parent = none ∧ ((issued (packet 0 []) none).queue 0 255).find 5 = some (atWork (packet 0 [])) ∧
    sigFacts 8192 = (some 1, true) ∧ sigFacts 8200 = (some (2 ^ 63 + 5), true) := by decide +kernel

def aborting : Option State × State := (ends 8192).packetRelease 0 255 (atWork (packet 0 []) (some 8192)) 2 false
def heldBack : State := (ends 8192).modLine 5 fun n => { n with waiting := [{ heldWrite with id := none }], expiry := 100 }
def lostSig : State := ends (2 ^ 40)

/-- Whether the SIG takes the value −4. -/
def sigTakes (s : State) (va : Nat) : Bool := (s.updateSig (s.queueSpace 0 (s.queue 0 255)) (some va) (-4)).1

theorem meets_PacketsComplete_aborts : aborting.1.isSome = true ∧ sigTakes (ends 8192) 8192 = true ∧ sigTakes lostSig (2 ^ 40) = false ∧
    ((ends 8192).poke64 (sigSpace (ends 8192) 0 255) 8192 0).1 = true ∧
    (heldBack.packetRelease 0 255 (atWork (packet 0 []) (some 8192)) 2 false).1.isNone = true ∧
    (signals.queue 0 255).find 5 = some (atWork (packet 4 [0, 8192, 1])) ∧ (signals.signalWrite 0 255 (packet 4 [0, 8192, 1])).1 = true := by
  decide +kernel

end Sys2Proof.Tests
end

section
-- One proof after another: in one text with the model, proofs elaborated side by side take a thread and its stack each, and
-- so many stacks do not fit in the check's memory.
set_option Elab.async false

namespace Sys2Proof.Machine

/-! ### The canonical form as a property of states and answers (R6, R21)

For each operation `f` on states a lemma `State.Canon.f` says that it keeps the canonical form; the lemma of an operation follows its
definition and cites the lemmas of the operations it uses, up to `exec` and `step`. Only the stash, operand memory, the pillars and saved
records need an argument of their own. -/

/-- Every memory of the core is in canonical form. -/
def Core.Canon (c : Core) : Prop := c.canonical = true

/-- Every memory of the machine is in canonical form. -/
def State.Canon (s : State) : Prop := s.canonical = true

/-- The state that an answer goes on with is in canonical form. -/
def Answer.Canon (r : Answer) : Prop :=
  match r with
  | .next t => t.Canon
  | .fault _ | .refused _ => True

/-- Every record in the save slots of a core keeps its share and its operand memory in canonical form. -/
def SavesCanon (t : Tab SaveRec) : Prop := ∀ e ∈ t, e.2.canonical = true

theorem SaveRec.canonical_iff {r : SaveRec} : r.canonical = true ↔ Memory.wf r.share = true ∧ Memory.wf r.opmem = true := by
  simp [SaveRec.canonical]

theorem Core.canon_iff {c : Core} :
    c.Canon ↔ Memory.wf c.stash = true ∧ Memory.wf c.mtx.opmem = true ∧ SavesCanon c.saves := by
  simp only [Core.Canon, Core.canonical, SavesCanon, Bool.and_eq_true, List.all_eq_true, and_assoc]

theorem State.canon_iff {s : State} : s.Canon ↔ Memory.wf s.phys.dram = true ∧ ∀ c ∈ s.cores, c.2.Canon := by
  simp only [State.Canon, State.canonical, Core.Canon, Bool.and_eq_true, List.all_eq_true]

theorem mem_tset {α : Type} {t : Tab α} {k : Nat} {v : α} {e : Nat × α} (h : e ∈ tset t k v) : e = (k, v) ∨ e ∈ t := by
  induction t with
  | nil => simpa [tset] using h
  | cons a r ih =>
    unfold tset at h
    split at h
    · simpa using h
    · split at h
      · rcases List.mem_cons.1 h with h | h
        · exact .inl h
        · exact .inr (List.mem_cons_of_mem _ h)
      · rcases List.mem_cons.1 h with h | h
        · exact .inr (h ▸ List.mem_cons_self)
        · exact (ih h).imp_right (List.mem_cons_of_mem _)

theorem mem_of_tget {α : Type} {t : Tab α} {k : Nat} {v : α} (h : tget t k = some v) : (k, v) ∈ t := by
  induction t with
  | nil => cases h
  | cons a r ih =>
    obtain ⟨j, w⟩ := a
    unfold tget at h
    split at h
    next e => cases h; subst e; exact List.mem_cons_self
    next => exact List.mem_cons_of_mem _ (ih h)

theorem Core.canon_default : ({} : Core).Canon := rfl

section
variable {s : State}

theorem State.Canon.core (h : s.Canon) (k : Nat) : (s.core k).Canon := by
  unfold State.core tgetD
  cases hk : tget s.cores k with
  | none => exact Core.canon_default
  | some _ => exact (State.canon_iff.1 h).2 _ (mem_of_tget hk)

theorem State.Canon.stash (h : s.Canon) (k : Nat) : Memory.wf (s.core k).stash = true := (Core.canon_iff.1 (h.core k)).1

theorem State.Canon.opmem (h : s.Canon) (k : Nat) : Memory.wf (s.core k).mtx.opmem = true := (Core.canon_iff.1 (h.core k)).2.1

theorem State.Canon.saves (h : s.Canon) (k : Nat) : SavesCanon (s.core k).saves := (Core.canon_iff.1 (h.core k)).2.2

/-! ### Changes of one field -/

/-- A change of cores that keeps their canonical form. -/
theorem State.Canon.setCores (h : s.Canon) {cs : Tab Core} (hc : ∀ c ∈ cs, c.2.Canon) : ({ s with cores := cs } : State).Canon :=
  State.canon_iff.2 ⟨(State.canon_iff.1 h).1, hc⟩

theorem State.Canon.mapCores (h : s.Canon) {f : Core → Core} (hf : ∀ c, c.Canon → (f c).Canon := by exact fun _ hc => hc) :
    ({ s with cores := s.cores.map fun c => (c.1, f c.2) } : State).Canon := by
  refine h.setCores fun c hc => ?_
  obtain ⟨c0, h0, rfl⟩ := List.mem_map.1 hc
  exact hf _ ((State.canon_iff.1 h).2 _ h0)

/-- A change of a core that keeps its canonical form, as one does that leaves its memories alone. -/
theorem State.Canon.modCore (h : s.Canon) {k : Nat} {f : Core → Core}
    (hf : ∀ c, c.Canon → (f c).Canon := by exact fun _ hc => hc) : (s.modCore k f).Canon := by
  refine h.setCores fun e he => ?_
  rcases mem_tset he with rfl | he
  · exact hf _ (h.core k)
  · exact (State.canon_iff.1 h).2 _ he

theorem State.Canon.modMtx (h : s.Canon) {k : Nat} {f : Mtx → Mtx}
    (hf : ∀ m, Memory.wf m.opmem = true → Memory.wf (f m).opmem = true := by exact fun _ hm => hm) : (s.modMtx k f).Canon :=
  h.modCore fun _ hc =>
    have ⟨hs, hm, hr⟩ := Core.canon_iff.1 hc
    Core.canon_iff.2 ⟨hs, hf _ hm, hr⟩

theorem State.Canon.modPhys (h : s.Canon) {f : Phys → Phys}
    (hf : Memory.wf s.phys.dram = true → Memory.wf (f s.phys).dram = true := by exact fun hp => hp) : (s.modPhys f).Canon :=
  have ⟨hp, hc⟩ := State.canon_iff.1 h
  State.canon_iff.2 ⟨hf hp, hc⟩

variable {k x t d q n : Nat}

theorem State.Canon.modCtx (h : s.Canon) {f : Ctx → Ctx} : (s.modCtx k x f).Canon := h.modCore
theorem State.Canon.modThread (h : s.Canon) {f : Thread → Thread} : (s.modThread k x t f).Canon := h.modCtx
theorem State.Canon.modMe (h : s.Canon) {f : Ctx → Ctx} : (s.modMe f).Canon := h.modCtx
theorem State.Canon.modHome (h : s.Canon) {f : Core → Core}
    (hf : ∀ c, c.Canon → (f c).Canon := by exact fun _ hc => hc) : (s.modHome f).Canon := h.modCore hf
theorem State.Canon.modCluster (h : s.Canon) {f : Cluster → Cluster} : (s.modCluster k f).Canon := h
theorem State.Canon.modFe (h : s.Canon) {f : FrontEnd → FrontEnd} : (s.modFe d f).Canon := h
theorem State.Canon.modQueue (h : s.Canon) {f : Queue → Queue} : (s.modQueue d q f).Canon := h
theorem State.Canon.modHost (h : s.Canon) {f : HostLink → HostLink} : (s.modHost f).Canon := h
theorem State.Canon.schedule (h : s.Canon) {i : Instr} : (s.schedule t i).Canon := h
theorem State.Canon.draw1 (h : s.Canon) : s.draw1.2.Canon := h
theorem State.Canon.newWait (h : s.Canon) : s.newWait.2.Canon := h
theorem State.Canon.modLine (h : s.Canon) {f : Line → Line} : (s.modLine n f).Canon := h
theorem State.Canon.modBank (h : s.Canon) {f : Bank → Bank} : (s.modBank k n f).Canon := h.modMtx
theorem State.Canon.message (h : s.Canon) {i : Instr} : (s.message i).Canon := h.draw1.schedule

end

/-! ### Branches, folds and pairs -/

theorem State.Canon.ite {a b : State} {c : Prop} {dec : Decidable c} (ha : a.Canon) (hb : b.Canon) : (if c then a else b).Canon := by
  split
  · exact ha
  · exact hb

theorem State.Canon.ite_snd {α : Type} {a b : α × State} {c : Prop} {dec : Decidable c} (ha : a.2.Canon) (hb : b.2.Canon) :
    (if c then a else b).2.Canon := by
  split
  · exact ha
  · exact hb

/-- The state of a pair that is written out. -/
theorem State.Canon.of_eq {α : Type} {p : α × State} {a : α} {t : State} (h : p.2.Canon) (e : p = (a, t)) : t.Canon := by
  subst e; exact h

theorem State.Canon.foldl {s : State} {α : Type} {l : List α} {f : State → α → State} (h : s.Canon)
    (hf : ∀ s a, s.Canon → (f s a).Canon) : (l.foldl f s).Canon :=
  List.foldlRecOn l f h fun s hs a _ => hf s a hs

/-- A fold that carries a state beside other data. -/
theorem State.Canon.foldl_snd {σ α : Type} {p : σ × State} {l : List α} {f : σ × State → α → σ × State} (h : p.2.Canon)
    (hf : ∀ p a, p.2.Canon → (f p a).2.Canon) : (l.foldl f p).2.Canon :=
  List.foldlRecOn (motive := fun p => p.2.Canon) l f h fun p hp a _ => hf p a hp

theorem State.Canon.next {s : State} (h : s.Canon) : Answer.Canon (.next s) := h

theorem Answer.Canon.fault {x : Fault} : Answer.Canon (.fault x) := trivial

theorem Answer.Canon.ite {a b : Answer} {c : Prop} {dec : Decidable c} (ha : a.Canon) (hb : b.Canon) : Answer.Canon (if c then a else b) := by
  split
  · exact ha
  · exact hb

theorem Answer.Canon.andThen {r : Answer} {f : State → Answer} (h : r.Canon) (hf : ∀ s, s.Canon → Answer.Canon (f s)) :
    Answer.Canon (r.andThen f) := by
  cases r with
  | next s => exact hf s h
  | fault | refused => trivial

theorem Answer.Canon.stateOr {r : Answer} {s : State} (h : r.Canon) (hs : s.Canon) : (r.stateOr s).Canon := by
  cases r with
  | next t => exact h
  | fault | refused => exact hs

end Sys2Proof.Machine

namespace Sys2Proof.Machine

section
variable {s : State} {k x t n l c : Nat}

/-! ### Records and traps -/

theorem State.Canon.addRecord (h : s.Canon) {tr : Trap} {late eng : Bool} {at_ stop : Pc} {point : Option (Nat × Nat)} {tick : Option Nat} :
    (s.addRecord k x t tr late eng at_ stop point tick).Canon :=
  h.modCore.schedule

theorem State.Canon.stopFirmware (h : s.Canon) : (s.stopFirmware k).Canon := h.modCtx.schedule

theorem State.Canon.leavePark (h : s.Canon) : (s.leavePark k x t).Canon := h.modCtx.modCore

theorem State.Canon.park (h : s.Canon) {p : TrapHold} {eng : Bool} {tick : Option Nat} : (s.park k x t p eng tick).Canon :=
  h.addRecord.leavePark.modCtx

theorem State.Canon.takeTrapsAt (h : s.Canon) {traps : List (Nat × Trap × Pc)} {point : Option (Nat × Nat)} :
    (s.takeTrapsAt k x traps point).Canon := by
  refine .ite (.stopFirmware ?_) ?_ <;> exact h.modCtx.foldl fun s t hs => by
    split
    · exact hs.park
    · exact hs

theorem State.Canon.takeTraps (h : s.Canon) {traps : List (Nat × Trap)} : (s.takeTraps k x traps).Canon := h.takeTrapsAt

theorem State.Canon.trapped (h : s.Canon) {traps : List (Nat × Trap)} : (s.trapped n traps).Canon := by
  unfold State.trapped
  split
  · exact h
  · exact h.takeTraps

theorem State.Canon.runOp (h : s.Canon) {traps : List (Nat × Trap)} {eff : State → State} (he : ∀ s, s.Canon → (eff s).Canon) :
    (runOp n traps eff s).Canon := by
  unfold Machine.runOp
  split
  · exact he s h
  · exact h.trapped

theorem State.Canon.holdFor (h : s.Canon) {e : Stall} : (s.holdFor e).Canon := h.modMe

theorem State.Canon.parkLate (h : s.Canon) {p : TrapHold} {eng : Bool} {tick : Option Nat} : (s.parkLate k x t p eng tick).Canon :=
  .ite h.addRecord h.park

theorem State.Canon.takeLateHolds (h : s.Canon) {holds : List (Nat × TrapHold)} {eng : Bool} {tick : Option Nat} :
    (s.takeLateHolds k x holds eng tick).Canon := by
  refine .ite (.stopFirmware ?_) ?_ <;> exact h.modCtx.foldl fun _ _ hs => hs.foldl fun _ _ hs => hs.parkLate

theorem State.Canon.takeLate (h : s.Canon) {traps : List (Nat × Trap)} {at_ : Pc} {dest : Option (Nat × Nat)} {eng : Bool} {tick : Option Nat} :
    (s.takeLate k x traps at_ dest eng tick).Canon := h.takeLateHolds

end
end Sys2Proof.Machine

namespace Sys2Proof.Machine

section
variable {s : State} {k x t n l c pa : Nat}

/-! ### Banks, slices and home slices -/

theorem State.Canon.busyBank (h : s.Canon) : (s.busyBank k n).Canon := h.draw1.modBank.schedule

theorem State.Canon.bankAccess (h : s.Canon) : (s.bankAccess pa).Canon := .ite h.busyBank h

theorem State.Canon.flushWhere (h : s.Canon) {ok : Nat → Bool} : (s.flushWhere ok).Canon :=
  (h.modPhys (Phys.wf_flush ok)).foldl fun _ _ hs => hs.bankAccess

theorem State.Canon.flushIdle (h : s.Canon) : s.flushIdle.Canon := h.flushWhere

theorem State.Canon.answered (h : s.Canon) {at_ : Nat} : (s.answered n at_).Canon := by
  refine h.setCores fun c hc => ?_
  obtain ⟨c0, h0, rfl⟩ := List.mem_map.1 hc
  exact (State.canon_iff.1 h).2 c0 h0

theorem State.Canon.spill (h : s.Canon) : (s.spill l).Canon := by
  refine .ite h (.ite h ?_)
  dsimp only
  split
  · exact h.draw1.flushWhere
  · exact h.draw1

theorem Phys.wf_put {p : Phys} (key : Option Nat) (bs : List (Nat × Byte)) (w : Memory.wf p.dram) : Memory.wf (p.put key bs).dram := by
  rw [Phys.put_dram]; exact w

theorem State.Canon.performWrite (h : s.Canon) {w : PWrite} : (s.performWrite l w).Canon := by
  unfold State.performWrite
  cases w.id with
  | some id => exact .answered (.spill (.modLine (h.modPhys (Phys.wf_put _ _))))
  | none => exact .spill (.modLine (h.modPhys (Phys.wf_put _ _)))

theorem State.Canon.homeArrive (h : s.Canon) {w : PWrite} : (s.homeArrive l w).Canon :=
  .ite h.performWrite (.ite h.modLine.message (.ite h.modLine.schedule h.modLine))

theorem State.Canon.sendWcb (h : s.Canon) : (s.sendWcb c l).Canon := by
  unfold State.sendWcb
  split
  · exact h
  · exact h.modCluster.homeArrive

theorem State.Canon.combine (h : s.Canon) {w : PWrite} : (s.combine c l w).Canon := by
  have h1 : (if (s.wcbEntry c l).any (fun e => e.key != w.key) then s.sendWcb c l else s).Canon := .ite h.sendWcb h
  have tail : ∀ {s : State} {f : Cluster → Cluster} {p q : Prop} [Decidable p] [Decidable q] {i : Instr} {a : Nat}, s.Canon →
      (if p then (s.modCluster c f).sendWcb c l else if q then (s.modCluster c f).schedule a i else s.modCluster c f).Canon :=
    fun hs => .ite hs.modCluster.sendWcb (.ite hs.modCluster.schedule hs.modCluster)
  refine tail ?_
  split
  · exact h1
  · refine .ite h1 ?_
    split
    · exact h1.sendWcb
    · exact h1

/-! ### The L1, leases and translations -/

theorem State.Canon.l1Store (h : s.Canon) {key : Option Nat} {bs : List (Nat × Byte)} : (s.l1Store k l key bs).Canon := by
  unfold State.l1Store
  split
  · exact h
  · exact h.modCore

theorem State.Canon.l1Fill (h : s.Canon) {e : L1Line} : (s.l1Fill k l e).Canon := by
  unfold State.l1Fill
  dsimp only
  refine State.Canon.modCore (.ite_snd ?_ ?_)
  · exact h
  · exact h.draw1

theorem State.Canon.storeLine (h : s.Canon) {key : Option Nat} {rm : Bool} {bs : List (Nat × Byte)} :
    (s.storeLine k x t key rm l bs).Canon := by
  unfold State.storeLine
  split
  · exact h.modHost
  · exact h
  · exact .ite (.combine (.ite h.l1Store.modCtx h.l1Store)) (.homeArrive (.ite h.l1Store.modCtx h.l1Store))

theorem State.Canon.evictReplica (h : s.Canon) : (s.evictReplica l c).Canon := h.modPhys

theorem State.Canon.replicaRoom (h : s.Canon) : ∀ t ∈ s.replicaRoom l c, t.Canon := by
  unfold State.replicaRoom
  intro t ht
  dsimp only at ht
  split at ht
  · cases ht; exact h
  · simp only [Option.mem_def, Option.map_eq_some_iff] at ht
    obtain ⟨e, -, rfl⟩ := ht
    exact h.draw1.evictReplica

theorem State.Canon.addReplica (h : s.Canon) : ∀ t ∈ s.addReplica l c, t.Canon := by
  unfold State.addReplica
  intro t ht
  dsimp only at ht
  split at ht
  · cases ht
  · cases ht; exact h.modPhys

theorem State.Canon.leaseReplica (h : s.Canon) : (s.leaseReplica l c n).Canon := h.modPhys

/-- Some lease of the home slice. -/
theorem State.Canon.homeGrant (h : s.Canon) {p : Prop} [Decidable p] {f : Line → Line} :
    (if p then (0, s) else (n, s.modLine l f)).2.Canon := by
  split
  · exact h
  · exact h.modLine

theorem State.Canon.grant (h : s.Canon) {rm : Bool} : (s.grant k l rm).2.Canon := by
  unfold State.grant
  refine .ite_snd ?_ h.homeGrant
  split
  · exact .ite_snd h h.leaseReplica
  · refine .ite_snd h ?_
    split
    next e =>
      obtain ⟨r, hr, ht⟩ := Option.bind_eq_some_iff.1 e
      exact ((h.replicaRoom r hr).addReplica _ ht).leaseReplica
    next => exact h.homeGrant

theorem State.Canon.grantRange (h : s.Canon) {d : Word} : ∀ g ∈ s.grantRange k l n d, g.2.Canon := by
  unfold State.grantRange
  intro g hg
  dsimp only at hg
  split at hg
  · cases hg
  · split at hg
    · cases hg; exact h.modPhys
    · split at hg
      · cases hg; exact h.modPhys.schedule
      · cases hg

theorem State.Canon.servedBy (h : s.Canon) : (s.servedBy l).2.Canon :=
  .ite_snd h (.ite_snd h.draw1 (.ite_snd h.draw1.bankAccess h.draw1))

theorem State.Canon.touchLine (h : s.Canon) {off n : Nat} {key : Option Nat} {rm : Bool} {range : Option (Nat × Word)} :
    (s.touchLine k l off n key rm range).2.Canon := by
  unfold State.touchLine
  split
  · exact h
  · exact h
  · dsimp only
    split
    · exact .ite_snd h h
    · split
      next e =>
        obtain ⟨r, -, hr⟩ := Option.bind_eq_some_iff.1 e
        obtain ⟨g, hg, hp⟩ := Option.map_eq_some_iff.1 hr
        cases hp
        have h2 := h.servedBy.grantRange _ hg
        exact .ite_snd h2.modCore h2.l1Fill
      next => exact .ite_snd h.servedBy.grant.modCore h.servedBy.grant.l1Fill

theorem State.Canon.loadLatency (h : s.Canon) {v : Served} : (s.loadLatency v).2.Canon := by
  cases v with
  | stash | l1 | expired | host => exact h
  | slice | pillar | deferred => exact h.draw1

theorem State.Canon.startWalker (h : s.Canon) : (s.startWalker c).Canon := h.draw1.modCluster

theorem State.Canon.translate (h : s.Canon) {sp : Space} {va : Nat} {kind : AccessKind} : (s.translate sp va kind).2.Canon := by
  unfold State.translate
  dsimp only
  split
  · exact .ite_snd h h
  · split
    · exact (State.Canon.ite h h.homeArrive).startWalker.modCore.modCluster
    · exact h

end
end Sys2Proof.Machine

namespace Sys2Proof.Machine

section
variable {s : State} {k x t n l c pa a e g : Nat}

/-- A fold that carries a state beside two other data. -/
theorem State.Canon.foldl_snd_snd {σ τ α : Type} {p : σ × τ × State} {l : List α} {f : σ × τ × State → α → σ × τ × State}
    (h : p.2.2.Canon) (hf : ∀ p a, p.2.2.Canon → (f p a).2.2.Canon) : (l.foldl f p).2.2.Canon :=
  List.foldlRecOn (motive := fun p => p.2.2.Canon) l f h fun p hp a _ => hf p a hp

/-! ### Landings, units and results -/

theorem State.Canon.asServing {f : State → State} (h : s.Canon) (hf : ∀ s, s.Canon → (f s).Canon) : (s.asServing f).Canon :=
  .ite (hf s h) (.foldl (hf _ (h.foldl fun _ _ hs => hs.modThread)) fun _ _ hs => hs.modThread)

theorem State.Canon.claimLast (h : s.Canon) {kind : DestKind} {dest width : Nat} {ts : List Nat} :
    (s.claimLast kind dest width ts).Canon := .ite h.modMe h

theorem State.Canon.land (h : s.Canon) {o : Op} {kind : DestKind} {dest width lat flags : Nat} {vals : List (Nat × List Word)}
    {exc : List (Nat × Nat)} {traps : List (Nat × Trap)} : (s.land o kind dest width lat vals flags exc traps).Canon :=
  .ite h.claimLast.modMe h.claimLast.modMe

theorem State.Canon.landZero (h : s.Canon) {o : Op} {width lat : Nat} : (s.landZero o width lat).Canon := .ite h.land h

theorem State.Canon.useUnit (h : s.Canon) {o : Op} : (s.useUnit o n).Canon := .ite h h.modHome

theorem State.Canon.produce (h : s.Canon) {o : Op} {ok : Bool} {srcs : List (Nat × Nat)} {traps : List (Nat × Trap)}
    {ty lat interval : Nat} {f : Nat → Nat → List Nat} : (s.produce o ok srcs traps ty lat interval f).Canon :=
  h.runOp fun _ hs => hs.land.useUnit

theorem State.Canon.pageFaults (h : s.Canon) {fs : List PFault} {precise : Bool} : (s.pageFaults k x fs precise).Canon :=
  State.Canon.modCtx (h.foldl fun _ _ hs => .ite hs hs.addRecord.modThread)

/-! ### Loads -/

theorem State.Canon.physPiece (h : s.Canon) {sp : Space} {va len : Nat} {kind : AccessKind} : (s.physPiece sp va len kind).2.Canon := by
  unfold State.physPiece
  split <;> exact h.translate.of_eq ‹_›

theorem State.Canon.gotLatency (h : s.Canon) {g : Got} : (s.gotLatency g).2.Canon :=
  h.foldl_snd (p := ((0 : Nat), s)) fun _ _ hp => hp.loadLatency

theorem State.Canon.noHost (h : s.Canon) {g : Got} : (s.noHost g).2.Canon := .ite_snd h h.draw1

theorem State.Canon.loadPiece (h : s.Canon) {p : PPiece} {range : Option (Nat × Word)} : (s.loadPiece k x p range).2.Canon :=
  .ite h.touchLine.modCtx h.touchLine

theorem State.Canon.putStash (h : s.Canon) {bs : List Byte} : (s.putStash k a bs).Canon :=
  h.modCore fun _ hc =>
    have ⟨hs, hm, hr⟩ := Core.canon_iff.1 hc
    Core.canon_iff.2 ⟨Memory.wf_cellPuts _ hs, hm, hr⟩

theorem State.Canon.readGranule (h : s.Canon) : (s.readGranule k x e g).2.2.Canon := by
  unfold State.readGranule
  generalize List.range 32 = is
  dsimp only
  generalize hr : List.foldl _ _ is = r
  have h1 : r.2.2.Canon := by
    rw [← hr]
    refine State.Canon.foldl_snd_snd h fun p i hp => ?_
    split
    · dsimp only
      exact (hp.physPiece.of_eq ‹_›).loadPiece
    · exact hp.physPiece.of_eq ‹_›
  split <;>
  · dsimp only
    exact h1.noHost

theorem State.Canon.putCells (h : s.Canon) {cells : List (Nat × Byte)} :
    (s.modCore k fun c => { c with stash := cellPuts c.stash cells }).Canon :=
  h.modCore fun _ hc =>
    have ⟨hs, hm, hr⟩ := Core.canon_iff.1 hc
    Core.canon_iff.2 ⟨Memory.wf_cellPuts _ hs, hm, hr⟩

theorem State.Canon.refreshGranule (h : s.Canon) {bs : List Byte} : (s.refreshGranule k x e g l bs).Canon := h.putCells.modCtx

theorem State.Canon.fillGranule (h : s.Canon) : (s.fillGranule k x e g).2.Canon := by
  unfold State.fillGranule
  split
  · exact h
  · have h1 := h.readGranule (k := k) (x := x) (e := e) (g := g)
    generalize s.readGranule k x e g = r at h1 ⊢
    exact h1.gotLatency.refreshGranule.modCtx.schedule

theorem State.Canon.loadWindow (h : s.Canon) {inner : Nat} : (s.loadWindow k x e g inner a n).2.Canon := by
  unfold State.loadWindow
  dsimp only
  split
  · exact h.fillGranule
  · split
    · exact h.fillGranule
    · have h1 := (h.fillGranule (k := k) (x := x) (e := e) (g := g)).readGranule (k := k) (x := x) (e := e) (g := g)
      generalize State.readGranule _ k x e g = r at h1 ⊢
      exact h1.refreshGranule

theorem State.Canon.freshen (h : s.Canon) {va : Nat} : (s.freshen k x va n).Canon :=
  h.foldl fun _ _ hs => by
    split
    · exact .ite hs.modCore hs
    · exact hs

theorem State.Canon.freshAcc (h : s.Canon) {a : Acc} : (s.freshAcc k x a).Canon :=
  h.foldl fun _ _ hs => by
    dsimp only
    split
    · exact hs.freshen
    · exact hs.freshen
    · exact hs

theorem State.Canon.fillFor (h : s.Canon) : (s.fillFor k x e g).Canon := .ite h h.freshen.fillGranule

theorem State.Canon.loadAcc (h : s.Canon) {a : Acc} {range : Option (Nat × Word)} : (s.loadAcc k x a range).2.Canon :=
  h.foldl_snd (p := (({} : Got), s)) fun p pc hp => by
    dsimp only
    split
    · exact hp
    · exact hp.loadWindow
    · split
      · exact (hp.physPiece.of_eq ‹_›).loadPiece
      · exact hp.physPiece.of_eq ‹_›

/-! ### Stores and copies -/

theorem State.Canon.storeVirt (h : s.Canon) {va : Nat} {bs : List Byte} : (s.storeVirt k x t va bs).Canon :=
  h.foldl fun _ _ hs => by
    split
    · exact (hs.physPiece.of_eq ‹_›).storeLine
    · exact hs.physPiece.of_eq ‹_›

theorem State.Canon.copyGranule (h : s.Canon) : (s.copyGranule k x g).Canon := by
  unfold State.copyGranule
  dsimp only
  refine State.Canon.schedule (.modCtx ?_)
  split
  · exact h.freshen.loadAcc.noHost.gotLatency.putStash
  · exact h.freshen.loadAcc.noHost.gotLatency.foldl fun _ _ hs => hs.storeVirt

theorem State.Canon.copyFirst (h : s.Canon) {as : List Acc} : (s.copyFirst k x as).Canon := h.foldl fun _ _ hs => hs.copyGranule

theorem State.Canon.storeAcc (h : s.Canon) {a : Acc} {bs : List Byte} : (s.storeAcc k x a bs).Canon :=
  h.foldl fun _ _ hs => by
    dsimp only
    split
    · exact hs.putStash
    · exact hs.fillFor.putStash.modCtx
    · exact hs.storeVirt

theorem State.Canon.writeBack (h : s.Canon) {key : Nat} : (s.writeBack k x t key).Canon := by
  unfold State.writeBack
  dsimp only
  split
  · exact h
  · refine .ite h ?_
    split
    · exact h.physPiece.of_eq ‹_›
    next p s1 e =>
      have h1 : s1.Canon := h.physPiece.of_eq e
      refine State.Canon.modCtx (.ite ?_ (.storeLine ?_)) <;> exact .ite h1 h1.storeLine

theorem State.Canon.writeBackAll (h : s.Canon) : (s.writeBackAll k x t).Canon := h.foldl fun _ _ hs => hs.writeBack

theorem State.Canon.writeBackFault (h : s.Canon) : (s.writeBackFault k x t).Canon := by
  unfold State.writeBackFault
  dsimp only
  split
  · split
    · exact h
    · exact .ite h h.pageFaults
    · exact h.modCtx.takeLate
  · exact h

theorem State.Canon.speculate (h : s.Canon) {lines : List (Nat × Option (Nat × Word))} : (s.speculate k x lines).Canon := by
  unfold State.speculate
  split
  · exact h
  · exact h.modCtx.foldl fun _ _ hs => hs.draw1.schedule

end
end Sys2Proof.Machine

namespace Sys2Proof.Machine

section
variable {s : State} {k x t n l c pa a e g opc : Nat} {o : Op}

/-! ### Arithmetic -/

theorem State.Canon.intOp2 (h : s.Canon) {lat interval rty : Nat} {f : Nat → Nat → Nat} : (intOp2 opc o lat interval rty f s).Canon := h.produce

theorem State.Canon.intOp1 (h : s.Canon) {f : Nat → Nat} : (intOp1 opc o f s).Canon := h.produce

theorem State.Canon.divOp (h : s.Canon) {f : Nat → Nat → Nat → Nat} : (divOp opc f o s).Canon := h.produce

theorem State.Canon.wideOp (h : s.Canon) {four : Bool} {cty rty2 lat : Nat} {f : Nat → Nat → Nat → Nat → Nat × Nat} :
    (wideOp opc four cty rty2 lat o f s).Canon := h.runOp fun _ hs => hs.land.land

theorem State.Canon.floatOp (h : s.Canon) {ok : Bool} {srcs : List (Nat × Nat)} {rty lat interval : Nat}
    {f : State → Nat → Nat → List (Nat × Nat)} : (floatOp ok o srcs rty lat interval f s).Canon := h.runOp fun _ hs => hs.land.useUnit

theorem State.Canon.floatOp2 (h : s.Canon) {lat interval : Nat} {f : Fmt → Nat → Nat → Nat → Nat × Nat} :
    (floatOp2 opc lat interval f o s).Canon := by
  unfold Machine.floatOp2
  exact h.floatOp

theorem State.Canon.convOp (h : s.Canon) {f : State → Nat → Nat × Nat} : (convOp opc f o s).Canon := by
  unfold Machine.convOp
  exact h.floatOp

theorem State.Canon.laneOp (h : s.Canon) {f : List (Nat × Nat) → Nat → Nat × Nat} {nv : List (Nat × Nat) → Bool} :
    (laneOp opc o f nv s).Canon := h.runOp fun _ hs => hs.land.useUnit

theorem State.Canon.execMov (h : s.Canon) : Answer.Canon (execMov o s) := by
  unfold Machine.execMov
  dsimp only
  split
  · exact h.runOp fun _ hs => hs.land
  · exact h.runOp fun _ hs => hs.land

/-! ### Releases, host reads and loads -/

theorem State.Canon.sendCore (h : s.Canon) : (s.sendCore k).Canon := h.foldl fun _ _ hs => hs.sendWcb

theorem State.Canon.releaseStart (h : s.Canon) {scope : Nat} : (s.releaseStart k x t scope).Canon :=
  .ite h (.foldl (.ite h.writeBackAll.writeBackFault h) fun _ _ hs => hs.sendCore)

theorem State.Canon.releaseDone (h : s.Canon) {scope : Nat} : (s.releaseDone k x scope).Canon :=
  State.Canon.modCtx (.ite h.flushIdle h)

theorem State.Canon.hostReads (h : s.Canon) {ty : Nat} {reqs : List HostPiece} : (s.hostReads k x t ty reqs).2.Canon :=
  h.foldl_snd (p := (([] : List Nat), s)) fun _ _ hp => hp.modHost.schedule

theorem State.Canon.awaitBanks (h : s.Canon) {bs : List (Nat × Nat)} : (s.awaitBanks bs).2.Canon :=
  h.foldl_snd (p := (([] : List Nat), s)) fun _ _ hp => hp.newWait.modBank

theorem State.Canon.lastAwaits (h : s.Canon) {f : Landing → Landing} : (s.lastAwaits f).Canon := h.modMe

theorem State.Canon.loadOp (h : s.Canon) {ok : Bool} {srcs : List (Nat × Nat)} {extra : List (Nat × Trap)} {ty align : Nat}
    {range : Option (Nat × Word)} {accs : List Acc} : (loadOp o ok srcs extra ty align range accs s).Canon := by
  unfold Machine.loadOp
  extract_lets n d k x first traps faults size elems
  refine .ite h.pageFaults (.ite h.holdFor (h.runOp fun s hs => ?_))
  split
  next gots s1 e1 =>
  have h1 : s1.Canon := by
    refine State.Canon.of_eq (State.Canon.foldl_snd hs fun p _ hp => ?_) e1
    exact hp.foldl_snd (p := (({} : Got), p.2)) fun _ _ hp => hp.loadAcc
  extract_lets all late
  split
  next lat s2 e2 =>
  have h2 : s2.Canon := h1.gotLatency.of_eq e2
  extract_lets s3 s4
  have h4 : s4.Canon := h2.land.foldl fun _ _ hs => hs.modThread
  split
  next ids s5 e5 =>
  have h5 : s5.Canon := State.Canon.of_eq (.foldl_snd h4 fun p g (hp : p.2.Canon) => by exact hp.hostReads) e5
  split
  next waits s6 e6 => exact (h5.awaitBanks.of_eq e6).lastAwaits.speculate

theorem State.Canon.storeOp (h : s.Canon) {ok : Bool} {srcs : List (Nat × Nat)} {align : Nat} {writes : List (Acc × List Byte)} :
    (storeOp o ok srcs align writes s).Canon :=
  .ite h.pageFaults (.ite h.holdFor (h.runOp fun _ hs => hs.copyFirst.foldl fun _ _ hs => hs.storeAcc))

/-! ### Atomics -/

theorem State.Canon.atomArrive (h : s.Canon) {w : PWrite} : (s.atomArrive k l w).2.Canon := by
  have h1 : (if w.bytes.isEmpty then s else s.l1Store k l w.key w.bytes).Canon := .ite h h.l1Store
  exact .ite_snd h1.homeArrive h1.newWait.homeArrive

theorem State.Canon.atomLane (h : s.Canon) {a : Acc} {f : Nat → Nat} {writes : Nat → Bool} : (s.atomLane k x a f writes).2.Canon := by
  unfold State.atomLane
  dsimp only
  split
  · have h1 : (if a.seg = 4 then s.draw1 else (0, s)).2.Canon := .ite_snd h.draw1 h
    exact .ite h1.putStash h1
  · exact .ite h.fillFor.storeAcc h.fillFor
  · split
    next p s0 e0 =>
      have h1 := (h.physPiece.of_eq e0).sendWcb (c := clusterOf k) (l := p.pa / 128)
      exact .ite h1.draw1.atomArrive.modCtx h1.draw1.atomArrive
    next => exact h.physPiece.of_eq ‹_›

theorem State.Canon.atomOp (h : s.Canon) {acq rel : Bool} : (atomOp opc acq rel o s).Canon := by
  unfold Machine.atomOp
  dsimp only
  refine .ite h.pageFaults (.ite h.holdFor ?_)
  refine .ite (.holdFor ?_) (.runOp ?_ fun s hs => ?_)
  · exact .ite h.releaseStart h
  · exact .ite h.releaseStart h
  · refine .ite (.modMe ?_) ?_ <;>
    · refine .ite (.releaseDone ?_) ?_ <;>
      · refine State.Canon.foldl (.lastAwaits (.land (.foldl_snd hs.copyFirst fun p e hp => ?_))) fun _ _ hs => hs.modThread
        split
        · exact hp.atomLane
        · exact hp

/-! ### Prefetches, the stash map and fences -/

theorem State.Canon.prefLane (h : s.Canon) {p : Word} : (s.prefLane k x l t p).Canon := by
  unfold State.prefLane
  dsimp only
  refine .ite h ?_
  split
  · split
    · split
      · exact (h.physPiece.of_eq ‹_›).touchLine
      · exact h
    · exact h.fillGranule
    · exact h
  · exact h

theorem State.Canon.evictEntry (h : s.Canon) : (s.evictEntry k x t e).Canon := State.Canon.modCtx (h.foldl fun _ _ hs => hs.writeBack)

theorem State.Canon.execStmap (h : s.Canon) : Answer.Canon (execStmap o s) := by
  unfold Machine.execStmap
  dsimp only
  split
  · exact h
  · refine State.Canon.next (.ite h.pageFaults (h.runOp fun s hs => ?_))
    exact .ite (hs.foldl fun _ _ hs => hs.evictEntry) (State.Canon.modMe (hs.foldl fun _ _ hs => hs.evictEntry))

theorem State.Canon.stashOp (h : s.Canon) {back : Bool} {act : List Nat → Nat → State → State}
    (ha : ∀ gs t s, s.Canon → (act gs t s).Canon) : (stashOp opc back o act s).Canon := by
  unfold Machine.stashOp
  split
  · exact h
  · exact .ite h.holdFor (.ite h.pageFaults (h.runOp (ha _ _)))

theorem State.Canon.execStwb (h : s.Canon) : Answer.Canon (execStwb o s) :=
  State.Canon.next (h.stashOp fun _ _ _ hs => hs.foldl fun _ _ hs => hs.writeBack)

theorem State.Canon.refill (h : s.Canon) {key : Nat} : (s.refill k x key).Canon := by
  have h1 := h.readGranule (k := k) (x := x) (e := key / 2048) (g := key % 2048)
  unfold State.refill
  generalize s.readGranule k x (key / 2048) (key % 2048) = r at h1 ⊢
  exact h1.gotLatency.refreshGranule.modCtx.schedule

theorem State.Canon.execStinv (h : s.Canon) : Answer.Canon (execStinv o s) :=
  State.Canon.next (h.stashOp fun _ _ _ hs => hs.modMe.foldl fun _ _ hs => hs.refill)

theorem State.Canon.execFence (h : s.Canon) : Answer.Canon (execFence o s) := by
  refine State.Canon.next (h.runOp fun s hs => ?_)
  split
  · exact hs
  · refine .ite (State.Canon.foldl (.ite hs hs.releaseDone) fun _ _ hs => hs.modThread) ?_
    refine State.Canon.foldl (State.Canon.modMe (State.Canon.foldl (.ite hs.releaseStart hs) fun _ _ hs => hs.message)) fun _ _ hs => hs.modThread

end
end Sys2Proof.Machine

namespace Sys2Proof.Machine

section
variable {s : State} {k x t n l c pa a e g b tr : Nat} {o : Op}

/-! ### Control registers -/

theorem State.Canon.modPartOf (h : s.Canon) {f : Partition → Partition} : (s.modPartOf k f).Canon := by
  unfold State.modPartOf
  split <;> exact h

theorem State.Canon.writeFeqCmd (h : s.Canon) {v : Word} : (s.writeFeqCmd n v).Canon := by
  refine .ite h ?_
  split <;> exact h

theorem State.Canon.csrStore (h : s.Canon) {v : Word} : (s.csrStore k x a v).Canon :=
  .ite h.modCtx <| .ite h.modCtx <| .ite h.modPartOf <| .ite h.modPartOf <| .ite h.modPartOf <|
  .ite (h.modPartOf.foldl fun _ _ hs => hs.schedule) <| .ite h.modCtx <| .ite h.modPartOf <| .ite h.modFe <|
  .ite h.writeFeqCmd <| .ite h.modCore <| .ite h.modCore h

theorem State.Canon.execCsrwr (h : s.Canon) : Answer.Canon (execCsrwr o s) := by
  unfold Machine.execCsrwr
  dsimp only
  split
  · exact h
  · exact h.runOp fun _ hs => hs.modMe

theorem State.Canon.applyLate (h : s.Canon) : (s.applyLate k x).Canon := h.modCtx.foldl fun _ _ hs => hs.csrStore

/-! ### Stubs and translations -/

theorem State.Canon.setStub (h : s.Canon) {st : Stub} : (s.setStub c st).Canon := h
theorem State.Canon.dropStub (h : s.Canon) {key : TKey} : (s.dropStub c key).Canon := h
theorem State.Canon.modStub (h : s.Canon) {f : Stub → Stub} : (s.modStub c tr f).Canon := h
theorem State.Canon.enterTr (h : s.Canon) : (s.enterTr c tr).Canon := h
theorem State.Canon.leaveTr (h : s.Canon) : (s.leaveTr c tr).Canon := h

theorem State.Canon.goToTr (h : s.Canon) : (s.goToTr k x t tr).Canon := .ite h h.leaveTr.enterTr.modThread

theorem State.Canon.follow (h : s.Canon) {ts : List Nat} : (s.follow k x ts).Canon := h.foldl fun _ _ hs => .ite hs hs.goToTr

theorem State.Canon.askStub (h : s.Canon) {key : TKey} {asked : Nat} : (s.askStub k x key asked).2.Canon := by
  unfold State.askStub
  dsimp only
  split
  · exact h
  · split
    · split
      · split <;> exact h
      · exact .ite h h.setStub
    · exact h.setStub.schedule

theorem State.Canon.takeFailure (h : s.Canon) {key : TKey} : (s.takeFailure k x key).Canon := h.modCtx

theorem State.Canon.forgetWaits (h : s.Canon) : (s.forgetWaits k x).Canon := h

theorem State.Canon.enterEntry (h : s.Canon) {t : Trans} : (s.enterEntry k x tr t).Canon := h.modCtx.follow

theorem State.Canon.passEntry (h : s.Canon) : (s.passEntry k x tr).Canon := by
  unfold State.passEntry
  split
  · exact h
  · split
    next e =>
      have h1 := h.askStub.of_eq e
      exact .ite h1.enterEntry h1.modCtx.follow
    next e => exact h.askStub.of_eq e

theorem State.Canon.putCellsAt (h : s.Canon) {bs : List (Nat × Byte)} : (s.putCells bs).Canon := h.foldl fun _ _ hs => hs.homeArrive

theorem State.Canon.putWords (h : s.Canon) {ws : List Word} : (s.putWords pa ws).Canon := h.putCellsAt

theorem State.Canon.putTrans (h : s.Canon) {t : Trans} : (s.putTrans c n t).Canon := h.putCellsAt

theorem State.Canon.compact (h : s.Canon) : (s.compact c).Canon := by
  refine State.Canon.foldl_snd (p := ((0 : Nat), s)) h fun p e hp => ?_
  split
  · split
    · exact hp.putTrans.modStub
    · exact hp
  · exact hp

theorem State.Canon.logTr (h : s.Canon) {event reason size : Nat} {key : TKey} : (s.logTr c k x event reason key size).Canon := by
  unfold State.logTr
  split
  · exact h
  next i p _ =>
    dsimp only
    split
    next ctl _ =>
      have h1 : ∀ p', ({ s with parts := tset s.parts i p' } : State).Canon := fun _ => h
      exact (h1 _).putWords
    next => exact h

/-! ### The code on its way to a core -/

theorem State.Canon.startFetch (h : s.Canon) {blk : Nat} : (s.startFetch k x tr blk).Canon := h.modCtx.modCluster.schedule

theorem State.Canon.fetchCode (h : s.Canon) {pc : Pc} : (s.fetchCode k x pc).Canon := by
  unfold State.fetchCode
  split
  · exact h
  · exact .ite h h.modCtx.startFetch

theorem State.Canon.pumpCode (h : s.Canon) {pc : Pc} {b : Bool} : (s.pumpCode k x pc b).Canon := by
  have h1 : ∀ {p : Prop} [Decidable p] {f : Ctx → Ctx}, (if p then s else s.modCtx k x f).Canon := .ite h h.modCtx
  unfold State.pumpCode
  dsimp only
  split
  · split
    · exact .ite h1.modCtx.startFetch h1
    · exact h1
  · exact h1

theorem State.Canon.execSegmentArrival (h : s.Canon) : Answer.Canon (execSegmentArrival k x s) := by
  unfold Machine.execSegmentArrival
  split
  · exact h
  · refine State.Canon.next (.pumpCode (.foldl (.modCtx (.modCtx (.ite h.modCore h.modCtx))) fun _ _ hs => hs.schedule))

/-! ### Banks and tickets -/

theorem State.Canon.activate (h : s.Canon) {row : Nat} {tix : Option Nat} {stk : Bool} : (s.activate k b row tix stk).Canon :=
  h.modBank.schedule.schedule

theorem State.Canon.serveDeferred (h : s.Canon) : (s.serveDeferred k b).Canon :=
  State.Canon.busyBank (.foldl (.modBank (h.modPhys (Phys.wf_flush _))) fun _ _ hs => hs.draw1.answered)

theorem State.Canon.settleBank (h : s.Canon) : (s.settleBank k b).Canon := by
  unfold State.settleBank
  dsimp only
  split
  · split
    · exact h.activate
    · exact h.modBank
  · exact .ite h.activate (.ite h.modBank h.modBank.serveDeferred)

theorem State.Canon.closeRow (h : s.Canon) : (s.closeRow k b).Canon := .ite h.modBank.schedule h

theorem State.Canon.killTicket (h : s.Canon) : (s.killTicket k t).Canon := by
  unfold State.killTicket
  split
  · exact h
  · exact .ite h.modMtx.modBank (.ite h.modMtx.closeRow h.modMtx)

theorem State.Canon.killTickets (h : s.Canon) : (s.killTickets k x).Canon := h.foldl fun _ _ hs => hs.killTicket

theorem State.Canon.addWork (h : s.Canon) {w : Work} : (s.addWork k w).Canon := h.modMtx.schedule

theorem State.Canon.freeSet (h : s.Canon) {set : OsSet} : (s.freeSet k set).Canon := by
  unfold State.freeSet
  dsimp only
  have h2 := h.modMtx (k := k) (f := fun m => { m with
    slotOwner := m.slotOwner.filter fun e => !set.slots.contains e.1
    tileOwner := m.tileOwner.filter fun e => !set.tiles.contains e.1
    clearSlots := set.slots.foldl (fun t n => tset t n (s.after 128)) m.clearSlots
    clearTiles := set.tiles.foldl (fun t n => tset t n (s.after 1024)) m.clearTiles
    opmem := m.opmem.filter fun e => !set.slots.contains (e.1 / 16384)
    acc := m.acc.filter fun e => !set.tiles.contains (e.1 / 32768) }) fun _ hm => Memory.wf_filter _ hm
  exact .ite (.ite h2 h2.schedule) (State.Canon.schedule (.ite h2 h2.schedule))

theorem State.Canon.execOsclaim (h : s.Canon) : Answer.Canon (execOsclaim o s) := by
  unfold Machine.execOsclaim
  dsimp only
  split
  · exact h
  · exact Answer.Canon.ite (.holdFor (.ite h h.modMtx)) (h.runOp fun _ hs => hs)

theorem State.Canon.execOsclaimGrant (h : s.Canon) : Answer.Canon (execOsclaimGrant k s) := by
  unfold Machine.execOsclaimGrant
  dsimp only
  split
  · split
    · exact h.modMtx
    · exact h
  · exact h

theorem State.Canon.execOsrel (h : s.Canon) : Answer.Canon (execOsrel o s) := by
  unfold Machine.execOsrel
  dsimp only
  split
  · exact h
  · exact Answer.Canon.ite h.holdFor (h.runOp fun _ hs => hs.freeSet)

theorem State.Canon.rowactOp (h : s.Canon) {force : Bool} : (rowactOp force o s).Canon := by
  unfold Machine.rowactOp
  extract_lets k x d
  split
  · exact h.landZero
  · refine h.runOp fun s hs => ?_
    extract_lets off b n0 s1
    have h1 : s1.Canon := by
      unfold s1
      split
      · exact hs.killTicket
      · exact hs
    clear_value s1
    split
    · exact h1
    · exact State.Canon.land (.ite h1.modMtx.activate h1.modMtx.modBank)

/-- Bytes that enter an operand memory. -/
theorem State.Canon.putOpmem (h : s.Canon) {f : Mtx → Mtx} {cells : List (Nat × Byte)}
    (hf : ∀ m, (f m).opmem = cellPuts m.opmem cells := by exact fun _ => rfl) : (s.modMtx k f).Canon :=
  h.modMtx fun m hm => by rw [hf]; exact Memory.wf_cellPuts _ hm

theorem State.Canon.rowconOp (h : s.Canon) {wait : Bool} : (rowconOp wait o s).Canon := by
  unfold Machine.rowconOp
  dsimp only
  split
  · exact h
  · refine .ite h.holdFor (.ite h.holdFor (.ite h.holdFor (h.runOp fun s hs => ?_)))
    split
    · refine State.Canon.modMe (.addWork ?_)
      split
      · exact .modBank hs.putOpmem
      · exact hs.putOpmem
    · refine State.Canon.addWork ?_
      split
      · exact .modBank hs.putOpmem
      · exact hs.putOpmem

theorem State.Canon.execRowcls (h : s.Canon) : Answer.Canon (execRowcls o s) := by
  unfold Machine.execRowcls
  split
  · exact h
  · refine State.Canon.next (h.runOp fun s hs => ?_)
    split
    · exact hs.killTicket
    · exact hs

theorem State.Canon.stkBegin (h : s.Canon) : (s.stkBegin k).Canon := by
  unfold State.stkBegin
  split
  · exact h.foldl fun _ _ hs => .ite hs (.ite hs.activate hs.modBank)
  · exact h

theorem State.Canon.stkReady (h : s.Canon) : (s.stkReady k).Canon := by
  unfold State.stkReady
  split
  · exact .ite (State.Canon.schedule (.modMtx (h.modCore))) h
  · exact h

theorem State.Canon.execBankAccessComplete (h : s.Canon) : Answer.Canon (execBankAccessComplete k b s) := by
  unfold Machine.execBankAccessComplete
  split
  · exact h.settleBank
  · exact h

theorem State.Canon.execRowOpen (h : s.Canon) : Answer.Canon (execRowOpen k b s) := by
  unfold Machine.execRowOpen
  dsimp only
  split
  · exact h.modBank.stkReady
  · exact h

theorem State.Canon.execRefreshClose (h : s.Canon) : Answer.Canon (execRefreshClose k b s) := by
  unfold Machine.execRefreshClose
  dsimp only
  split
  · split
    · exact h.modMtx.modBank.schedule
    · exact h.modBank.schedule
  · exact h

theorem State.Canon.execRowClose (h : s.Canon) : Answer.Canon (execRowClose k b s) := by
  unfold Machine.execRowClose
  split
  · split
    · exact h.modBank.schedule
    · exact h
  · exact h

theorem State.Canon.execPrechargeEnd (h : s.Canon) : Answer.Canon (execPrechargeEnd k b s) := by
  unfold Machine.execPrechargeEnd
  split
  · split
    · exact h.serveDeferred
    · exact h.settleBank
  · exact h

theorem State.Canon.execBankRefresh (h : s.Canon) : Answer.Canon (execBankRefresh k b s) := by
  unfold Machine.execBankRefresh
  split
  · exact Answer.Canon.fault
  · split
    · exact h.busyBank
    · exact h

/-! ### Words of agents -/

theorem State.Canon.peek64 (h : s.Canon) {sp : Space} {va : Nat} : (s.peek64 sp va).2.Canon := by
  unfold State.peek64
  split
  next e =>
    have h1 := h.physPiece.of_eq e
    exact .ite_snd h1.draw1 h1
  next e => exact h.physPiece.of_eq e

theorem State.Canon.poke64 (h : s.Canon) {sp : Space} {va : Nat} {w : Word} : (s.poke64 sp va w).2.Canon := by
  unfold State.poke64
  split
  next e =>
    have h1 := h.physPiece.of_eq e
    split
    · exact h1.modHost
    · exact h1.homeArrive
  next e => exact h.physPiece.of_eq e

theorem State.Canon.rmw64 (h : s.Canon) {sp : Space} {va : Nat} {f : Word → Word} : (s.rmw64 sp va f).2.Canon := by
  unfold State.rmw64
  split
  next e => exact (h.peek64.of_eq e).poke64
  next e => exact h.peek64.of_eq e

end
end Sys2Proof.Machine

namespace Sys2Proof.Machine

section
variable {s : State} {k x t n l c pa a e g b tr : Nat} {o : Op}

/-! ### Parked threads, barriers and claims -/

theorem State.Canon.releaseThreads (h : s.Canon) {ts : List Nat} : (s.releaseThreads k x ts).Canon := h.modCtx

theorem State.Canon.trapParked (h : s.Canon) {tr : Trap} {at_ : BinKey} : (s.trapParked k x t tr at_).Canon := h.park

theorem State.Canon.barCheck (h : s.Canon) {id : Nat} : (s.barCheck k x id n).Canon :=
  .ite (.ite (h.foldl fun _ _ hs => hs.trapParked) h) h.modCtx.releaseThreads

theorem State.Canon.formClaims (h : s.Canon) : (s.formClaims k x).Canon := h.foldl fun _ _ hs => .ite hs.modCore hs

theorem State.Canon.deadlockCheck (h : s.Canon) : (s.deadlockCheck k).Canon := by
  unfold State.deadlockCheck
  dsimp only
  split
  · exact .ite (h.modCore.foldl fun _ _ hs => hs.trapParked) h
  · exact h

theorem State.Canon.execRegclmGrant (h : s.Canon) : Answer.Canon (execRegclmGrant k s) := by
  unfold Machine.execRegclmGrant
  split
  · exact Answer.Canon.ite (State.Canon.releaseThreads (h.modCore.foldl fun _ _ hs => hs.modThread)) h
  · exact h

/-! ### The end of threads and workgroups -/

theorem State.Canon.report (h : s.Canon) {l : Launch} {v : Int} : (s.report l v).Canon := h.message

theorem State.Canon.countFinish (h : s.Canon) {founder : Bool} : (s.countFinish k n founder).Canon := by
  unfold State.countFinish
  split
  · exact h
  next l _ =>
    have h1 : ∀ l', ({ s with launches := tset s.launches n l' } : State).Canon := fun _ => h
    exact .ite (.ite (h1 _).report (h1 _)) (.ite (h1 _) (.ite (h1 _).rmw64.report (h1 _).rmw64))

theorem State.Canon.leaveGroups (h : s.Canon) : (s.leaveGroups c l).Canon := by
  unfold State.leaveGroups
  split
  · exact h
  · refine h.foldl fun s _ hs => .ite (.ite (State.Canon.message ?_) ?_) hs <;> exact hs

theorem State.Canon.finishWg (h : s.Canon) : (s.finishWg k x).Canon := by
  unfold State.finishWg
  extract_lets c
  split
  · exact h
  next w _ =>
    have h1 : ∀ {s : State} {cs : Tab Cohort}, s.Canon → ({ s with cohorts := cs } : State).Canon := fun h => h
    exact (h1 h.writeBackAll.killTickets.freeSet.modMtx.modCore.modCtx.forgetWaits).leaveGroups.countFinish

theorem State.Canon.dropThread (h : s.Canon) : (s.dropThread k x t).Canon := h.leaveTr.modCore.modCtx

theorem State.Canon.endThreads (h : s.Canon) {ts : List Nat} : (s.endThreads k x ts).Canon := by
  cases ts with
  | nil => exact h
  | cons u us =>
    have h1 : ((u :: us).foldl (fun s t => s.dropThread k x t) s).Canon := h.foldl fun _ _ hs => hs.dropThread
    unfold State.endThreads
    refine .ite h1 (.ite h1.modCtx (.deadlockCheck (.formClaims (.ite (.foldl ?_ fun _ _ hs => hs.trapParked) ?_)))) <;>
      exact h1.foldl fun _ _ hs => hs.modCtx.barCheck

theorem State.Canon.exitOp (h : s.Canon) {ok : Bool} : (Machine.endOp ok o s).Canon := h.runOp fun _ hs => hs.endThreads

/-! ### Branches, calls and returns -/

theorem State.Canon.sendTo (h : s.Canon) {keys : List (Nat × BinKey)} : (s.sendTo keys).Canon := by
  cases keys with
  | nil => exact h
  | cons => exact .ite h.modMe h.modMe

theorem State.Canon.branch (h : s.Canon) {taken : List (Nat × Pc)} {delayed : Bool} : (s.branch taken delayed).Canon :=
  .ite h (.ite h.modMe h.sendTo)

theorem State.Canon.askAll (h : s.Canon) {asks : List (Nat × TKey)} : (s.askAll asks).2.Canon := by
  refine State.Canon.foldl_snd (p := (({} : Entries), s)) h fun p a hp => ?_
  split <;> exact hp.askStub.of_eq ‹_›

theorem State.Canon.takeFailures (h : s.Canon) {e : Entries} : (s.takeFailures e).Canon := h.foldl fun _ _ hs => hs.takeFailure

theorem State.Canon.farJump (h : s.Canon) {keys : List (Nat × BinKey)} : (s.farJump keys).Canon := by
  refine .ite h ?_
  split
  · exact .ite h.sendTo.modMe h.sendTo
  · exact h.sendTo

theorem State.Canon.brnFar (h : s.Canon) : (brnFar o s).Canon := by
  refine .ite (h.runOp fun _ hs => hs) (.ite h.askAll.holdFor (h.askAll.takeFailures.runOp fun s hs => ?_))
  exact .ite hs.farJump hs.branch

theorem State.Canon.brnNear (h : s.Canon) : (brnNear o s).Canon := by
  have h1 : ∀ v : Option Pc, ((v.map fun pc => s.fetchCode s.myCore s.myCtxNo pc).getD s).Canon := fun v => by
    cases v with
    | none => exact h
    | some _ => exact h.fetchCode
  refine .ite (State.Canon.holdFor (h1 _)) (h.runOp fun s hs => ?_)
  split
  · exact hs.branch
  · exact hs

theorem State.Canon.execBrn (h : s.Canon) : Answer.Canon (execBrn o s) :=
  State.Canon.next (h.asServing fun _ hs => .ite hs.brnFar hs.brnNear)

theorem State.Canon.execPbr (h : s.Canon) : Answer.Canon (execPbr o s) := by
  refine State.Canon.next (h.runOp fun s hs => .ite hs (.ite hs.modMe.schedule ?_))
  split
  · exact .ite hs.modMe.fetchCode hs.modMe
  · exact hs.modMe

theorem State.Canon.execCall (h : s.Canon) : Answer.Canon (execCall o s) := by
  refine Answer.Canon.ite (h.runOp fun _ hs => hs) (Answer.Canon.ite h.askAll.holdFor ?_)
  exact h.askAll.takeFailures.runOp fun _ hs => .ite hs hs.modMe.farJump

theorem State.Canon.execRet (h : s.Canon) : Answer.Canon (execRet o s) := by
  refine Answer.Canon.ite (h.runOp fun _ hs => hs) (Answer.Canon.ite h.askAll.holdFor ?_)
  exact h.askAll.takeFailures.runOp fun _ hs => .ite hs.endThreads hs.endThreads.modMe.farJump

theorem State.Canon.locWrite (h : s.Canon) {v : Loc} {w : Word} : (s.locWrite l t v w).Canon := by
  cases v with
  | reg | last => exact h.modMe
  | frame => exact h.storeAcc

theorem State.Canon.takeEdges (h : s.Canon) {pick : Nat → Nat → Edge} {srcs : List Loc} : (takeEdges pick srcs s).Canon := by
  refine .ite h.pageFaults (.ite h.pageFaults (h.runOp fun s hs => ?_))
  exact State.Canon.sendTo (hs.foldl fun _ _ hs => hs.foldl fun _ _ hs => hs.locWrite)

/-! ### Barrier ops, budgets and nests -/

theorem State.Canon.parkGroup (h : s.Canon) {place : Place} {ts : List Nat} : (s.parkGroup place n l ts).Canon := h.modMe.modMe

theorem State.Canon.barOp (h : s.Canon) {mode : Nat} {bad : Bar → Nat → Bool} {eff : Nat → List Nat → State → State}
    (he : ∀ id ts s, s.Canon → (eff id ts s).Canon) : (barOp mode bad eff o s).Canon :=
  h.runOp fun _ hs => .ite hs (he _ _ _ hs).barCheck.deadlockCheck

theorem State.Canon.bartestOp (h : s.Canon) {ctr : Bool} : (bartestOp ctr o s).Canon := h.runOp fun _ hs => hs.land

theorem State.Canon.raiseOp (h : s.Canon) {code : TrapCode} : (raiseOp code o s).Canon := h.runOp fun _ hs => hs

theorem State.Canon.breakNest (h : s.Canon) {ts : List Nat} : (s.breakNest ts).Canon := h.foldl fun _ _ hs => hs.trapParked

theorem State.Canon.lateNest (h : s.Canon) {late : List (Nat × Nest)} {traps : List (Nat × Trap)} {park : List Nat → State → State}
    {ts : List Nat} (hp : ∀ ts s, s.Canon → (park ts s).Canon) : (lateNest o late traps park ts s).Canon := by
  unfold Machine.lateNest
  split
  · exact h.runOp (hp ts)
  next a as =>
    generalize a :: as = l
    refine .ite (h.runOp fun _ hs => hs) (.ite h.askAll.holdFor (h.askAll.takeFailures.runOp fun s hs => ?_))
    exact (hp _ _ hs).modMe.sendTo

theorem State.Canon.execTnest (h : s.Canon) : Answer.Canon (execTnest o s) := by
  refine State.Canon.next (State.Canon.lateNest ?_ fun ts s hs => ?_)
  · exact .ite (State.Canon.modMe (.ite h.breakNest h)) (.ite h.breakNest h)
  · exact .ite (.ite hs.modMe hs) (State.Canon.deadlockCheck (State.Canon.parkGroup (.ite hs.modMe hs)))

theorem State.Canon.offerStarts (h : s.Canon) : (s.offerStarts n).Canon := by
  unfold State.offerStarts
  split
  · split
    · exact h.foldl fun _ _ hs => hs.message
    · exact h
  · exact h

theorem State.Canon.writeLasts (h : s.Canon) {l : Launch} {entries : List (List Word)} : (s.writeLasts l entries).Canon :=
  h.foldl fun _ _ hs => hs.foldl fun _ _ hs => hs.poke64

theorem State.Canon.freezeLaunch (h : s.Canon) {cont region reserve ln : Nat} {vals : List (List Word)} {l : Launch} :
    (freezeLaunch cont region reserve vals l ln t s).Canon := by
  have h1 : ∀ {s : State} {ls : Tab Launch}, s.Canon → ({ s with launches := ls } : State).Canon := fun h => h
  exact State.Canon.offerStarts (.endThreads (h1 h.writeLasts))

theorem State.Canon.freezeNest (h : s.Canon) {cont start reserve : Nat} {vals : List (List Word)} {e : Entries} :
    (freezeNest cont start reserve vals e s).Canon :=
  h.modMe.modMe.follow.foldl fun _ _ hs => .ite hs hs.trapParked

theorem State.Canon.execFreeze (h : s.Canon) : Answer.Canon (execFreeze o s) := by
  have none : ∀ {traps : List (Nat × Trap)}, (Machine.runOp o.slot traps id s).Canon := h.runOp fun _ hs => hs
  unfold Machine.execFreeze
  extract_lets n k x cont good strays f lv
  split
  · exact h
  · dsimp only
    refine Answer.Canon.ite h.pageFaults (Answer.Canon.ite none (Answer.Canon.ite ?_ ?_))
    · split
      · split
        · exact h.pageFaults
        · exact none
        · generalize hg : s.releaseStart k x _ 7 = s1
          have h1 : s1.Canon := hg ▸ h.releaseStart
          exact Answer.Canon.ite h1.holdFor.next (h1.runOp fun _ hs => hs.freezeLaunch).next
      · exact none
    · generalize List.map (fun u => (u, s.blockKey _ u)) _ = asks
      exact Answer.Canon.ite h.askAll.holdFor.next (h.askAll.takeFailures.runOp fun _ hs => hs.freezeNest).next
  · exact none
  · exact none

end
end Sys2Proof.Machine

namespace Sys2Proof.Machine

section
variable {s : State} {k x t n l c pa a e g b tr d q id : Nat} {o : Op}

/-! ### The loader, firmware and translations -/

theorem State.Canon.fetchWord (h : s.Canon) {sp : Space} {va : Nat} : (s.fetchWord sp va).2.Canon := by
  unfold State.fetchWord
  split
  next e =>
    have h1 := h.physPiece.of_eq e
    exact .ite_snd h1.draw1 h1
  next e => exact h.physPiece.of_eq e

theorem State.Canon.imageWords (h : s.Canon) {image : CodeImage} : (s.imageWords n image).2.Canon := by
  cases image with
  | words => exact h
  | memory asid va n =>
    unfold State.imageWords
    dsimp only
    refine State.Canon.foldl_snd h fun p i hp => ?_
    split
    · exact hp
    · split
      next e =>
        have h1 := hp.fetchWord.of_eq e
        exact h1
      next e =>
        have h1 := hp.fetchWord.of_eq e
        exact h1

theorem State.Canon.startFirmware (h : s.Canon) {entry : TKey} : (s.startFirmware k entry).Canon := h.leaveTr.modCtx.modCore

theorem State.Canon.installFirmware (h : s.Canon) {p : Partition} {o : Obj} : (s.installFirmware p o id).Canon := by
  unfold State.installFirmware
  split
  · exact h.foldl fun _ _ hs => hs.modCore.startFirmware
  · exact h

theorem State.Canon.execLoadObject (h : s.Canon) {image : CodeImage} : Answer.Canon (execLoadObject n image s) := by
  have h1 : ∀ {s : State} {os : Tab Obj} {m : Nat}, s.Canon → ({ s with objs := os, nextObj := m } : State).Canon := fun h => h
  unfold Machine.execLoadObject
  refine Answer.Canon.ite h ?_
  split
  next ws s1 e =>
  have hs := h.imageWords.of_eq e
  refine State.Canon.next ?_
  split
  · exact h.modHost
  · exact (h1 hs.modHost).installFirmware
  · exact hs.modHost

theorem State.Canon.execUnloadObject (h : s.Canon) : Answer.Canon (execUnloadObject n s) :=
  Answer.Canon.ite h (State.Canon.next (.ite h h))

theorem State.Canon.execTranslateRequest (h : s.Canon) {key : TKey} : Answer.Canon (execTranslateRequest c k x key s) := by
  refine State.Canon.next ?_
  split
  · exact .ite h h.logTr.draw1.schedule
  · exact h

theorem State.Canon.makeRoom (h : s.Canon) : (State.makeRoom c n l s).Canon := by
  induction l generalizing s with
  | zero => exact h
  | succ l ih =>
    unfold State.makeRoom
    refine .ite h ?_
    split
    · exact h
    · exact ih h.modCluster.logTr

theorem State.Canon.failTranslation (h : s.Canon) {key : TKey} {st : Stub} : (s.failTranslation c key st n).Canon :=
  h.logTr.dropStub.foldl fun _ _ hs => hs.modCtx

theorem State.Canon.placeTrans (h : s.Canon) {key : TKey} {st : Stub} {t : Trans} : (s.placeTrans c key st t).Canon := by
  refine State.Canon.foldl (.putTrans (.setStub (.modCluster (.ite h h.compact)))) fun _ _ hs => .ite hs.enterEntry hs

theorem State.Canon.execTranslationComplete (h : s.Canon) {key : TKey} : Answer.Canon (execTranslationComplete c key s) := by
  refine State.Canon.next ?_
  split
  · exact .ite h (.ite h.makeRoom.placeTrans h.makeRoom.failTranslation)
  · exact .ite h h.failTranslation
  · exact h.dropStub
  · exact h

theorem State.Canon.execCompaction (h : s.Canon) : Answer.Canon (execCompaction c s) :=
  Answer.Canon.ite Answer.Canon.fault h.compact.next

/-! ### The end of a group's issue -/

theorem State.Canon.atBundle (h : s.Canon) : (s.atBundle n l).Canon := h.modMe

theorem State.Canon.clearSkips (h : s.Canon) {offs ts : List Nat} : (s.clearSkips k x tr offs ts).Canon := h.foldl fun _ _ hs => hs.modThread

theorem State.Canon.finishGroup (h : s.Canon) {b : Bool} {offs : List Nat} {ops : List Instr} {before : Ctx} :
    (finishGroup k x b offs ops before s).Canon := by
  unfold Machine.finishGroup
  exact .pumpCode (.applyLate (.applyLate (.follow (.modCtx h.clearSkips))))

theorem State.Canon.entryFailed (h : s.Canon) {g : Group} : ∀ t ∈ s.entryFailed k x g, t.Canon := by
  intro t ht
  obtain ⟨f, -, rfl⟩ := Option.map_eq_some_iff.1 ht
  exact h.takeTraps.takeFailure

/-! ### Packets -/

theorem State.Canon.putDesc (h : s.Canon) : (s.putDesc d q).Canon := h.putWords

theorem State.Canon.peekPacket (h : s.Canon) {sp : Space} {va : Nat} : (s.peekPacket sp va).2.Canon := by
  unfold State.peekPacket
  generalize List.range 8 = is
  refine State.Canon.foldl_snd h fun p i hp => ?_
  split
  · exact hp
  · split <;> exact hp.peek64.of_eq ‹_›

theorem State.Canon.setIssued (h : s.Canon) {f : Issued → Issued} : (s.setIssued d q id f).Canon := h
theorem State.Canon.finishPacket (h : s.Canon) {v : Int} : (s.finishPacket d q id v).Canon := h

theorem State.Canon.checkEntering (h : s.Canon) {i : Option Nat} : (s.checkEntering d q i).Canon := by
  unfold State.checkEntering
  split
  · exact h
  · dsimp only
    split
    · exact .ite h.setIssued.finishPacket h
    · exact h

theorem State.Canon.storeSig (h : s.Canon) {u : Queue} {ws : List Word} {v : Int} : (s.storeSig d u ws v).Canon := .ite h h.poke64

theorem State.Canon.sweep (h : s.Canon) {u : Queue} {v : Int} : (State.sweep d u v n k s).Canon := by
  induction n generalizing s k with
  | zero => exact h
  | succ n ih =>
    unfold State.sweep
    split
    next ws s1 e =>
    have h1 := h.peekPacket.of_eq e
    cases ws with
    | none => exact ih h1
    | some ws => exact ih h1.storeSig

theorem State.Canon.abortQueue (h : s.Canon) {v : Int} : (s.abortQueue d q v).Canon := by
  refine .ite h (.sweep (.foldl (.foldl ?_ fun _ _ hs => hs.storeSig) fun _ _ hs => hs.storeSig))
  exact h.modQueue.putDesc

theorem State.Canon.sendAll (h : s.Canon) : s.sendAll.Canon := h.foldl fun _ _ hs => hs.foldl fun _ _ hs => hs.sendWcb

theorem State.Canon.releaseFlush (h : s.Canon) : s.releaseFlush.Canon := h.flushIdle

/-- The release of an issued packet: both the state in which it has ended and the one in which it waits. -/
theorem State.Canon.packetRelease (h : s.Canon) {e : Issued} {started : Bool} :
    (∀ t ∈ (s.packetRelease d q e n started).1, t.Canon) ∧ (s.packetRelease d q e n started).2.Canon := by
  unfold State.packetRelease
  extract_lets s' s1 ls
  have h1 : s1.Canon := .ite h h.sendAll.setIssued
  clear_value s1
  split
  · exact ⟨fun t ht => by cases ht; exact h1.releaseFlush, h1⟩
  · exact ⟨fun t ht => by simp at ht, h1⟩

theorem State.Canon.updateSig (h : s.Canon) {sp : Space} {sig : Option Nat} {v : Int} : (s.updateSig sp sig v).2.Canon := by
  cases sig with
  | none => exact h
  | some va =>
    refine .ite_snd h.poke64 ?_
    split
    next w s1 e =>
      have h1 := h.peek64.of_eq e
      exact .ite_snd h1 (.ite_snd h1.poke64 h1)
    next e => exact h.peek64.of_eq e

theorem State.Canon.endPacket (h : s.Canon) {e : Issued} {v : Int} : (s.endPacket d q e v).Canon := by
  have h1 : ∀ {s : State} {ls : Tab Launch}, s.Canon → ({ s with launches := ls } : State).Canon := fun h => h
  exact .ite (h1 h.updateSig.modQueue).abortQueue (h1 h.updateSig.modQueue).checkEntering

theorem State.Canon.signalWrite (h : s.Canon) {p : Packet} : (s.signalWrite d q p).2.Canon := by
  refine .ite_snd h.poke64 ?_
  split
  next e => exact (h.peek64.of_eq e).poke64
  next e => exact h.peek64.of_eq e

theorem State.Canon.laterPacket (h : s.Canon) {v : Int} : (s.laterPacket d q id v).Canon := h

theorem State.Canon.releasePacket (h : s.Canon) {e : Issued} {v : Int} : (s.releasePacket d q e v).Canon := by
  refine .ite h.endPacket ?_
  have h1 := h.packetRelease (d := d) (q := q) (e := e) (n := 2) (started := e.stage == 2)
  split
  next eq => rw [eq] at h1; exact (h1.1 _ rfl).endPacket
  next eq => rw [eq] at h1; exact h1.2.laterPacket

theorem State.Canon.execPacketComplete (h : s.Canon) {v : Int} : Answer.Canon (execPacketComplete d q id v s) := by
  unfold Machine.execPacketComplete
  split
  · exact h
  next e _ =>
    refine Answer.Canon.ite ?_ h.releasePacket
    have h1 : (∀ t ∈ (if e.packet.rel = 0 then (some s, s) else s.packetRelease d q e 1 (e.stage == 1)).1, t.Canon) ∧
        (if e.packet.rel = 0 then (some s, s) else s.packetRelease d q e 1 (e.stage == 1)).2.Canon := by
      split
      · exact ⟨fun t ht => by cases ht; exact h, h⟩
      · exact h.packetRelease
    split
    next go s1 eq =>
    rw [eq] at h1
    split
    · exact h1.2.laterPacket
    next s2 =>
      have h2 : s2.Canon := h1.1 _ rfl
      exact h2.signalWrite.releasePacket

theorem State.Canon.execLookaheadRead (h : s.Canon) : Answer.Canon (execLookaheadRead d q s) := by
  have read : ∀ {sp : Space} {va : Nat} {f : Queue → Queue}, ((s.peekPacket sp va).2.modQueue d q f).Canon := h.peekPacket.modQueue
  unfold Machine.execLookaheadRead
  dsimp only
  refine Answer.Canon.ite h ?_
  split
  · exact read
  · exact Answer.Canon.ite read (Answer.Canon.ite h.modQueue h.modQueue.checkEntering)

theorem State.Canon.issueHead (h : s.Canon) : ∀ r ∈ s.issueHead d q, r.2.Canon := by
  unfold State.issueHead
  dsimp only
  split
  · intro r hr; cases hr
  · intro r hr
    cases hr
    exact .ite h.modQueue.modFe h.modQueue.modFe.putDesc

theorem State.Canon.reaches (h : s.Canon) {sp : Space} {va : Nat} {kind : AccessKind} : (s.reaches sp va kind).2.Canon := h.physPiece

theorem State.Canon.reachAll (h : s.Canon) {sp : Space} {l : List (Nat × AccessKind)} : (s.reachAll sp l).2.Canon :=
  h.foldl_snd (p := (true, s)) fun _ _ hp => hp.reaches

theorem State.Canon.issuePacket (h : s.Canon) {ptrs : Packet → List (Word × AccessKind)} {work : Packet → State → State}
    (hw : ∀ p s, s.Canon → (work p s).Canon) : Answer.Canon (issuePacket d q ptrs work s) := by
  unfold Machine.issuePacket
  refine Answer.Canon.ite h ?_
  split
  · exact h
  next p s1 e =>
    have h1 : s1.Canon := h.issueHead _ e
    extract_lets u sp sig
    split
    next sigOk s2 e2 =>
    have h2 : s2.Canon := h1.reachAll.of_eq e2
    extract_lets s3
    have h3 : s3.Canon := .ite h2 h2.setIssued
    clear_value s3
    split
    · exact h3.finishPacket
    · exact State.Canon.next (.ite (hw _ _ h3.reachAll) h3.reachAll.finishPacket)

theorem State.Canon.enterBuffer (h : s.Canon) {p : Packet} {buf : Word} {loop : Bool} : (s.enterBuffer d q p buf n loop).Canon :=
  .ite h.finishPacket h.modQueue

theorem State.Canon.predicate (h : s.Canon) {p : Packet} : (s.predicate d q p).2.Canon := h.peek64

theorem State.Canon.execTimestamp (h : s.Canon) : Answer.Canon (execTimestamp d q s) :=
  h.issuePacket fun _ _ hs => hs.poke64.finishPacket

theorem State.Canon.execCond (h : s.Canon) : Answer.Canon (execCond d q s) := by
  refine h.issuePacket fun p s hs => ?_
  split
  next e => exact (hs.predicate.of_eq e).finishPacket
  next e =>
    have h1 := hs.predicate.of_eq e
    exact .ite h1.modQueue.finishPacket h1.enterBuffer

theorem State.Canon.execLoop (h : s.Canon) : Answer.Canon (execLoop d q s) := by
  refine h.issuePacket fun p s hs => ?_
  split
  next e => exact (hs.predicate.of_eq e).finishPacket
  next e =>
    have h1 := hs.predicate.of_eq e
    split
    · exact .ite (.ite h1.modQueue h1.modQueue.finishPacket) (.ite h1.enterBuffer h1.modQueue.finishPacket)
    · exact .ite h1.enterBuffer h1.modQueue.finishPacket

theorem State.Canon.readWaits (h : s.Canon) {sp : Space} {aon : Bool} {l : List (Nat × Nat)} : (s.readWaits sp aon l).2.Canon := by
  refine State.Canon.foldl_snd (p := (({} : WaitRead), s)) h fun p e hp => ?_
  split
  next e => exact hp.peek64.of_eq e
  next e =>
    have h1 := hp.peek64.of_eq e
    exact .ite_snd h1 (.ite_snd h1 h1)

theorem State.Canon.execBarrierReread (h : s.Canon) : Answer.Canon (execBarrierReread d q id s) := by
  unfold Machine.execBarrierReread
  dsimp only
  split
  · exact h
  · refine Answer.Canon.ite h (Answer.Canon.ite h.message (State.Canon.next ?_))
    split
    · exact h.readWaits.finishPacket
    · exact h.readWaits.finishPacket
    · exact h.readWaits.finishPacket
    · exact h.readWaits.setIssued.message

theorem State.Canon.execCopy (h : s.Canon) : Answer.Canon (execCopy d q s) := h.issuePacket fun _ _ hs => hs.draw1.modFe.schedule

theorem State.Canon.readRun (h : s.Canon) {p : PPiece} : (s.readRun p n).2.Canon := .ite_snd h.draw1 h

theorem State.Canon.writeRun (h : s.Canon) {p : PPiece} {bs : List Byte} {owner : Nat × Nat × Nat} : (s.writeRun p bs owner).Canon := by
  unfold State.writeRun
  split
  · exact h.modHost
  · exact h.homeArrive

theorem State.Canon.copyBytes (h : s.Canon) {sp : Space} {owner : Nat × Nat × Nat} {fuel src dst len : Nat} :
    (copyBytes sp owner fuel src dst len s).2.Canon := by
  induction fuel generalizing s src dst len with
  | zero => exact h
  | succ fuel ih =>
    unfold Machine.copyBytes
    refine .ite_snd h ?_
    split
    next e => exact h.physPiece.of_eq e
    next e1 =>
      have h1 := h.physPiece.of_eq e1
      split
      next e => exact h1.physPiece.of_eq e
      next e => exact ih (h1.physPiece.of_eq e).readRun.writeRun

theorem State.Canon.execCopyComplete (h : s.Canon) : Answer.Canon (execCopyComplete d n s) := by
  unfold Machine.execCopyComplete
  split
  · exact h
  · extract_lets sp
    split
    next e =>
    have h1 := State.Canon.of_eq h.copyBytes e
    exact h1.modFe.finishPacket.next

/-! ### Queues -/

theorem State.Canon.pollWrite (h : s.Canon) : (s.pollWrite d q).Canon := .ite h h.draw1.schedule

theorem State.Canon.execQueueWriteObserved (h : s.Canon) : Answer.Canon (execQueueWriteObserved d q s) := by
  unfold Machine.execQueueWriteObserved
  dsimp only
  split
  · exact h
  · refine State.Canon.next (.pollWrite ?_)
    exact h
  · refine State.Canon.next (.pollWrite (.sweep ?_))
    exact h
  · generalize packetCount _ _ = m
    refine Answer.Canon.ite (.next (.pollWrite (.putDesc ?_))) (.next (.pollWrite ?_))
    · exact h
    · exact h

theorem State.Canon.execDoorbellWrite (h : s.Canon) {v : W32} : Answer.Canon (execDoorbellWrite d n v s) :=
  Answer.Canon.ite h.draw1.schedule h

theorem State.Canon.endCommand (h : s.Canon) : (s.endCommand d).Canon := h

theorem State.Canon.execEnable (h : s.Canon) : Answer.Canon (execEnable d q s) :=
  Answer.Canon.ite h.endCommand.modQueue.putDesc.schedule h.endCommand

theorem State.Canon.execDisable (h : s.Canon) : Answer.Canon (execDisable d q s) :=
  Answer.Canon.ite h.endCommand (State.Canon.next (h.endCommand.modQueue.putDesc.foldl fun _ _ hs => hs.checkEntering))

theorem State.Canon.execReset (h : s.Canon) : Answer.Canon (execReset d q s) :=
  Answer.Canon.ite h.endCommand.sweep.modQueue.putDesc.pollWrite h.endCommand

theorem State.Canon.suspendQueue (h : s.Canon) : (s.suspendQueue d q).Canon := .ite h.modQueue.putDesc h

theorem State.Canon.resumeQueue (h : s.Canon) : (s.resumeQueue d q).Canon :=
  .ite (h.modQueue.putDesc.schedule.foldl fun _ _ hs => .ite hs hs.schedule) h

end
end Sys2Proof.Machine

namespace Sys2Proof.Machine

/-- Every state that an attempt to issue goes on with is in canonical form. -/
def Attempt.Canon (a : Attempt) : Prop :=
  match a with
  | .waits _ h | .delayed _ h | .filed h => h.Canon
  | .issues r => Answer.Canon r

/-- The state that the writing of parameters leaves is in canonical form. -/
def ParamWrite.Canon (w : ParamWrite) : Prop :=
  match w with
  | .ready s | .faulted s | .trapped s => s.Canon

theorem Attempt.Canon.ite {a b : Attempt} {c : Prop} {dec : Decidable c} (ha : a.Canon) (hb : b.Canon) : (if c then a else b).Canon := by
  split
  · exact ha
  · exact hb

section
variable {s : State} {k x t n l c pa a e g b tr d q id : Nat} {o : Op}

theorem State.Canon.writeParams (h : s.Canon) {g : Group} : (s.writeParams k x g).Canon := by
  unfold State.writeParams
  dsimp only
  split
  · exact h.pageFaults
  · exact h.takeTrapsAt
  · have h1 : ∀ {need : List (Nat × Nat)} {ws : List (Nat × Word)} {c : Ctx}, (need.foldl (fun s e => ws.foldl (fun s w =>
        s.storeAcc k x (frameAcc c e.1 e.2 w.1) (natToBytes 8 w.2.toNat)) s) s).Canon :=
      h.foldl fun _ _ hs => hs.foldl fun _ _ hs => hs.storeAcc
    exact h1.modCtx

/-! ### Running the ops of a group -/

/-- A state that collects traps, or has collected them. -/
theorem State.Canon.collecting (h : s.Canon) {ts : Option (List (Nat × Nat × Trap))} : ({ s with collect := ts } : State).Canon := h

variable {ex : Instr → State → Answer} (hex : ∀ i s, s.Canon → Answer.Canon (ex i s))
include hex

theorem State.Canon.runOne (h : s.Canon) {e : Op × Except DecodeError Instr} : Answer.Canon (runOne ex e s) := by
  unfold Machine.runOne
  split
  · exact hex _ _ h
  · exact State.Canon.next (h.runOp fun _ hs => hs)

theorem State.Canon.runEach (h : s.Canon) {es : List (Op × Except DecodeError Instr)} : Answer.Canon (runEach ex es s) := by
  induction es generalizing s with
  | nil => exact h
  | cons e r ih => exact (h.runOne hex).andThen fun _ hs => ih hs

theorem State.Canon.runBundles (h : s.Canon) {ctl : List (Nat × Op × Except DecodeError Instr)} {bs : List (Nat × Bundle)} :
    Answer.Canon (runBundles ex n ctl bs s) := by
  induction bs generalizing s ctl with
  | nil =>
    unfold Machine.runBundles
    split
    · exact h
    · exact State.Canon.runOne hex (.atBundle (.collecting h))
  | cons b r ih =>
    unfold Machine.runBundles
    dsimp only
    refine Answer.Canon.andThen (State.Canon.runEach hex (.collecting h.atBundle)) fun s1 h1 => ?_
    refine Answer.Canon.andThen (State.Canon.runEach hex (.collecting h1)) fun dry hd => ?_
    split
    · refine Answer.Canon.ite (State.Canon.next ?_) (ih (.collecting h1))
      exact .collecting (.ite (.collecting hd) (.collecting h1))
    · split
      · exact State.Canon.next (.takeTrapsAt (.collecting h.atBundle))
      · refine Answer.Canon.andThen (State.Canon.runOne hex (.atBundle (.collecting h.atBundle))) fun s3 h3 => ?_
        exact h3.atBundle.takeTrapsAt.next

theorem State.Canon.runGroup (h : s.Canon) {bs : List (Nat × Bundle)} : Answer.Canon (runGroup ex bs n s) := by
  unfold Machine.runGroup
  split
  · split
    · exact h.atBundle
    · exact h.atBundle.runOne hex
    · exact h.runBundles hex
  · exact h.runBundles hex

theorem State.Canon.heldOnly (h : s.Canon) {bs : List (Nat × Bundle)} : (heldOnly ex bs n s).Canon := by
  refine State.Canon.atBundle (h.foldl fun _ _ hs => hs.foldl fun s e hs => .ite hs (.ite (.collecting ?_) hs))
  exact Answer.Canon.stateOr (State.Canon.runOne hex (.collecting hs.atBundle)) hs

theorem State.Canon.tryGroup (h : s.Canon) {g : Group} {bs : List (Nat × Bundle)} : (tryGroup ex k x g bs n s).Canon := by
  unfold Machine.tryGroup
  extract_lets c ops offs start trial t charge
  have hs : start.Canon := h.modCtx
  have ht : Answer.Canon trial := hs.runGroup hex
  refine Attempt.Canon.ite h.modCtx (Attempt.Canon.ite h ?_)
  split
  · exact Answer.Canon.andThen ht fun s' hs' => hs'.finishGroup.next
  · exact Attempt.Canon.ite (h.heldOnly hex).modCtx (h.heldOnly hex).modCtx
  · exact Attempt.Canon.ite h.modCtx (h.heldOnly hex).modCtx

theorem State.Canon.attempt (h : s.Canon) : (attempt ex k x s).Canon := by
  unfold Machine.attempt
  extract_lets s1 sa
  have ha : sa.Canon := h.modCtx
  clear_value sa
  split
  · exact ha
  · split
    · exact ha
    next ga _ _ _ =>
      extract_lets sb g c
      have hb : sb.Canon := ha.passEntry
      clear_value sb
      split
      next e => exact hb.entryFailed _ e
      · refine Attempt.Canon.ite hb (Attempt.Canon.ite hb (Attempt.Canon.ite hb ?_))
        split
        · exact hb.modCtx
        · refine Attempt.Canon.ite hb ?_
          have hw := hb.writeParams (k := k) (x := x) (g := g)
          split
          next e => rw [e] at hw; exact hw
          next e => rw [e] at hw; exact hw
          next s1 e =>
            rw [e] at hw
            have h1 : s1.Canon := hw
            extract_lets c1
            split
            · exact h1.takeTraps
            · exact Attempt.Canon.ite h1.takeTraps (Attempt.Canon.ite h1.modCtx (Attempt.Canon.ite h1
                (Attempt.Canon.ite h1.modCtx (Attempt.Canon.ite h1 (h1.tryGroup hex)))))

/-! ### Turns -/

theorem State.Canon.look (h : s.Canon) : (look ex k x s).2.Canon := by
  unfold Machine.look
  dsimp only
  split
  · exact h
  · refine .ite_snd h ?_
    split
    · exact h
    · have ha := h.attempt hex (k := k) (x := x)
      split
      next e => rw [e] at ha; exact State.Canon.modCtx ha
      · exact h

theorem State.Canon.lookAll (h : s.Canon) {xs : List Nat} : (lookAll ex k xs s).2.Canon := by
  induction xs generalizing s with
  | nil => exact h
  | cons x r ih =>
    unfold Machine.lookAll
    split
    next e => exact ih ((h.look hex).of_eq e)
    next e => exact ih ((h.look hex).of_eq e)

omit hex

theorem State.Canon.release (h : s.Canon) {ready : List Nat} : (s.release k ready).Canon := by
  unfold State.release
  split
  · exact .ite h h.modCore
  · exact h

theorem State.Canon.serve (h : s.Canon) : (s.serve k x).Canon := .ite h.modCtx h.modCtx.modCore

theorem State.Canon.askCode (h : s.Canon) : (s.askCode k x).Canon := by
  unfold State.askCode
  split
  · exact .ite h h.fetchCode
  · exact h

theorem State.Canon.countCycle (h : s.Canon) {ready : List Nat} {own : Option (Nat × Stall)} : (countCycle k ready own s).Canon :=
  State.Canon.modCore (.modCtx (.askCode (h.foldl fun _ _ hs => hs.askCode.modCtx)))

theorem State.Canon.passTurn (h : s.Canon) {user : Option (BitVec 8)} : (s.passTurn k user).Canon := by
  have ht : ∀ {s : State} {a : List Agent}, s.Canon → ({ s with turn := a } : State).Canon := fun h => h
  exact .ite (.ite (ht h) (ht h.modCore)) (ht h)

include hex

theorem State.Canon.coreTurn (h : s.Canon) : Answer.Canon (coreTurn ex k s) := by
  unfold Machine.coreTurn
  split
  · exact h.finishWg.deadlockCheck.next
  · split
    · exact hex _ _ h
    · split
      next ready s1 e =>
      have h1 : s1.Canon := (h.lookAll hex).of_eq e
      split
      · exact State.Canon.next (.passTurn (.countCycle h1.modCtx))
      · extract_lets s2
        have h2 : s2.Canon := h1.release
        clear_value s2
        split
        · exact h2.countCycle.passTurn.next
        next y _ =>
          extract_lets s3 user
          have h3 : s3.Canon := h2.serve
          clear_value s3
          refine Answer.Canon.ite h3.countCycle.passTurn.next ?_
          have ha := h3.attempt hex (k := k) (x := y)
          split
          next e => rw [e] at ha; exact State.Canon.next ha
          next e => rw [e] at ha; exact State.Canon.next ha
          next e => rw [e] at ha; exact State.Canon.next (.passTurn (.countCycle ha))
          next e => rw [e] at ha; exact Answer.Canon.andThen ha fun _ hs => hs.countCycle.passTurn.next

theorem State.Canon.firmwareTurn (h : s.Canon) : Answer.Canon (firmwareTurn ex k s) := by
  have pop : ∀ {s : State} {f : Core → Core} {a : List Agent}, s.Canon → (∀ c, c.Canon → (f c).Canon) →
      ({ s.modCore k f with turn := a } : State).Canon := fun h hf => h.modCore hf
  have ha := h.attempt hex (k := k) (x := 4)
  unfold Machine.firmwareTurn
  dsimp only
  split
  next e => rw [e] at ha; exact pop ha fun _ hc => hc
  next e => rw [e] at ha; exact pop ha fun _ hc => hc
  next e => rw [e] at ha; exact pop ha fun _ hc => hc
  next e => rw [e] at ha; exact Answer.Canon.andThen ha fun _ hs => pop hs fun _ hc => hc

omit hex

theorem State.Canon.strike (h : s.Canon) {e : SoftError} : (s.strike e).Canon := by
  unfold State.strike
  split
  · exact .ite h.modThread h
  · split
    · exact .ite h.modPhys h
    · exact h

theorem State.Canon.strikes (h : s.Canon) : s.strikes.Canon := State.Canon.foldl h fun _ _ hs => hs.strike

theorem State.Canon.passTime (h : s.Canon) : s.passTime.Canon := by
  have ht : ∀ {s : State} {a b : List Agent}, s.Canon → ({ s with turn := a, joined := b } : State).Canon := fun h => h
  have h1 : ∀ t, ({ s with now := t, joined := [] } : State).strikes.Canon := fun t => State.Canon.strikes h
  exact .ite (ht (h1 _)) (h1 _)

theorem State.Canon.endTurns (h : s.Canon) : s.endTurns.Canon := by
  unfold State.endTurns
  dsimp only
  split
  · exact h
  · exact h.passTime

include hex

theorem State.Canon.machineStep (h : s.Canon) : Answer.Canon (machineStep ex s) := by
  unfold Machine.machineStep
  split
  · unfold State.stoppedStep
    split
    · dsimp only
      split
      · exact hex _ _ h
      · exact h
    · exact h.passTime.next
  · split
    · exact hex _ _ h
    · split
      · exact hex _ _ h
      · unfold Machine.turnStep
        split
        · exact h.coreTurn hex
        · exact h.firmwareTurn hex
        · split
          · exact hex _ _ h
          · exact h
        · exact h.endTurns.next

end

section
variable {s : State} {k x t n l c pa a e g b tr d q id : Nat} {o : Op}

/-! ### Home slices: writes, collapses, promotions and renewals -/

theorem State.Canon.nextWrite (h : s.Canon) : (s.nextWrite l).Canon := by
  unfold State.nextWrite
  split
  · exact .ite h h.schedule
  · exact h

theorem State.Canon.execHomeWritePerform (h : s.Canon) : Answer.Canon (execHomeWritePerform l s) := by
  unfold Machine.execHomeWritePerform
  dsimp only
  split
  · exact Answer.Canon.ite h (Answer.Canon.ite (State.Canon.next (.nextWrite (.performWrite h.modLine))) h.nextWrite.next)
  · exact h

theorem State.Canon.answerUp (h : s.Canon) {node : CollapseNode} : (s.answerUp l node).Canon := h.message

theorem State.Canon.execCollapseRequest (h : s.Canon) {node : CollapseNode} : Answer.Canon (execCollapseRequest l node s) := by
  cases node with
  | package => exact Answer.Canon.ite h.answerUp.next (State.Canon.next (h.modLine.foldl fun _ _ hs => hs.message))
  | die d => exact Answer.Canon.ite h.answerUp.next (State.Canon.next (h.modLine.foldl fun _ _ hs => hs.message))
  | replica c =>
    unfold Machine.execCollapseRequest
    dsimp only
    split
    · exact Answer.Canon.ite (State.Canon.next (.answerUp h.modPhys)) (State.Canon.next (.schedule h.modPhys))
    · exact h.answerUp.next

theorem State.Canon.execCollapseAnswer (h : s.Canon) {node : CollapseNode} : Answer.Canon (execCollapseAnswer l node s) := by
  cases node with
  | package => exact State.Canon.next (.nextWrite (.modLine h.modLine))
  | die d => exact Answer.Canon.ite h.modLine.next (State.Canon.next (.answerUp (.modPhys h.modLine)))
  | replica c => exact Answer.Canon.ite h.modLine.next (State.Canon.next (.answerUp (.modPhys h.modLine)))

theorem State.Canon.execPromotionRequest (h : s.Canon) : Answer.Canon (execPromotionRequest k x l s) := by
  unfold Machine.execPromotionRequest
  dsimp only
  split
  · exact h.modCtx.next
  · generalize hr : State.releaseStart s _ _ 0 7 = s1
    have h1 : s1.Canon := hr ▸ h.releaseStart
    exact Answer.Canon.ite h.modCtx.next (Answer.Canon.ite h1.modCtx.next h1.schedule.next)

theorem State.Canon.execWcbSend (h : s.Canon) : Answer.Canon (execWcbSend c l s) := by
  unfold Machine.execWcbSend
  split
  · exact State.Canon.next (.ite h.sendWcb h)
  · exact h

theorem State.Canon.grantAgain (h : s.Canon) {range : Option (Nat × Word)} : (s.grantAgain k l range).2.2.Canon := by
  unfold State.grantAgain
  split
  next e =>
    obtain ⟨r, -, hr⟩ := Option.bind_eq_some_iff.1 e
    obtain ⟨g, hg, rfl⟩ := Option.map_eq_some_iff.1 hr
    exact h.grantRange g hg
  next => exact h.grant

theorem State.Canon.renewLine (h : s.Canon) {range : Option (Nat × Word)} : (s.renewLine k l range).Canon := by
  unfold State.renewLine
  split
  · exact h
  · exact .ite h.grantAgain.modCore h.grantAgain.modCore

theorem State.Canon.execRenewalAnswer (h : s.Canon) : Answer.Canon (execRenewalAnswer k x l s) := by
  unfold Machine.execRenewalAnswer
  dsimp only
  split
  · exact h.renewLine.next
  · split
    · exact h.renewLine.modCtx.next
    · exact h.renewLine.modCtx.next

end
end Sys2Proof.Machine

namespace Sys2Proof.Machine

/-! ### The share of a workgroup in a stash -/

theorem Memory.wf_shift_from {base : Nat} (m : List Host.Cell) (lo : Nat) (w : Memory.wfFrom (base + lo) m) :
    Memory.wfFrom lo (m.map fun e => (e.1 - base, e.2)) := by
  induction m generalizing lo with
  | nil => rfl
  | cons e r ih =>
    simp only [Memory.wfFrom, List.map_cons, Bool.and_eq_true, decide_eq_true_eq] at w ⊢
    obtain ⟨⟨hlo, hb⟩, hr⟩ := w
    exact ⟨⟨by omega, hb⟩, ih _ (Memory.wfFrom_mono (by omega) hr)⟩

/-- Cells from an address on are in canonical form from it. -/
theorem Memory.wfFrom_filter {base : Nat} {p : Host.Cell → Bool} (hp : ∀ e, p e = true → base ≤ e.1) (m : List Host.Cell) (lo : Nat)
    (w : Memory.wfFrom lo m) : Memory.wfFrom base (m.filter p) := by
  induction m generalizing lo with
  | nil => rfl
  | cons e r ih =>
    simp only [Memory.wfFrom, Bool.and_eq_true, decide_eq_true_eq] at w
    obtain ⟨⟨hlo, hb⟩, hr⟩ := w
    by_cases he : p e
    · have hbase := hp e he
      simp only [List.filter_cons, he, if_true, Memory.wfFrom, Bool.and_eq_true, decide_eq_true_eq]
      exact ⟨⟨hbase, hb⟩, Memory.wf_filter_from p r _ hr⟩
    · simp only [List.filter_cons, he]
      exact ih _ hr

theorem Memory.wf_shareOf {stash : List Host.Cell} (base len : Nat) (w : Memory.wf stash) : Memory.wf (shareOf stash base len) := by
  refine Memory.wf_shift_from _ 0 (Memory.wfFrom_filter (fun e he => ?_) _ 0 w)
  simp only [Bool.and_eq_true, decide_eq_true_eq] at he
  exact he.1

theorem Memory.wf_shareOver {stash share : List Host.Cell} (base len : Nat) (w : Memory.wf stash) :
    Memory.wf (shareOver stash share base len) := Memory.wf_cellPuts _ (Memory.wf_filter _ w)

/-- Induction over the recursion by which a structurally recursive function is compiled. -/
theorem Nat.brecOn_induction {α : Type} {F : (n : Nat) → Nat.below (motive := fun _ => α) n → α} {P : α → Prop} (zero : ∀ b, P (F 0 b))
    (succ : ∀ n b, P b.1 → P (F (n + 1) b)) (n : Nat) : P (Nat.brecOn n F) := by
  induction n with
  | zero => exact zero _
  | succ n ih => exact succ n _ ih

section
variable {s : State} {k x t n l c pa a e g b tr d q id : Nat} {o : Op}

/-! ### Records in save slots -/

/-- The records that the bytes of the save slots give are in canonical form. -/
theorem State.Canon.record (h : s.Canon) {r : SaveRec} (hr : s.record k n = some r) : r.canonical = true :=
  SaveRec.canonical_iff.2 (State.record_canonical hr fun _ h0 => (SaveRec.canonical_iff.1 (h.saves k _ (mem_of_tget h0))).1)

/-- A stash that is in canonical form takes the place of a core's. -/
theorem State.Canon.setStash (h : s.Canon) {f : Core → List Host.Cell} (hw : ∀ c, c.Canon → Memory.wf (f c)) :
    (s.modCore k fun c => { c with stash := f c }).Canon :=
  h.modCore fun c hc =>
    have ⟨_, hm, hr⟩ := Core.canon_iff.1 hc
    Core.canon_iff.2 ⟨hw c hc, hm, hr⟩

theorem State.Canon.setRecord (h : s.Canon) {r : SaveRec} (hr : r.canonical = true) : (s.setRecord k n r).Canon := by
  have h1 : (s.modPhys fun p => p.replace (s.keyOf 0) (fun pa => r.parts.any fun e => slotBase k n + e.1 ≤ pa && pa < slotBase k n + e.1 + e.2)
      ((s.saveCells r).map fun e => (slotBase k n + e.1, e.2))).Canon := h.modPhys fun hp => Phys.wf_replace _ _ _ hp
  unfold State.setRecord
  extract_lets b inside s1 keep s2
  have h2 : s2.Canon := h1.mapCores (f := keep)
  clear_value s2
  refine h2.modCore fun c hc => ?_
  obtain ⟨hs, hm, hv⟩ := Core.canon_iff.1 hc
  refine Core.canon_iff.2 ⟨hs, hm, fun e he => ?_⟩
  rcases mem_tset he with rfl | he
  · exact hr
  · exact hv e he

theorem State.Canon.atSaved (h : s.Canon) {α : Type} {slot : Nat} {d : α} {f : Nat → Nat → State → α × State}
    (hf : ∀ k x s, s.Canon → (f k x s).2.Canon) : (s.atSaved k slot d f).2.Canon := by
  unfold State.atSaved
  split
  · exact h
  next r hr =>
    extract_lets here stash base len s1
    have h1 : s1.Canon := h.modCtx.setStash fun _ _ => Memory.wf_shareOver _ _ (h.stash k)
    clear_value s1
    split
    next a s2 e =>
    have h2 : s2.Canon := (hf _ _ _ h1).of_eq e
    refine State.Canon.setRecord (h2.modCtx.setStash fun _ _ => h.stash k) ?_
    exact SaveRec.canonical_iff.2 ⟨Memory.wf_shareOf _ _ (h2.stash k), (SaveRec.canonical_iff.1 (h.record hr)).2⟩

theorem State.Canon.atSeat (h : s.Canon) {α : Type} {seat : Seat} {d : α} {f : Nat → Nat → State → α × State}
    (hf : ∀ k x s, s.Canon → (f k x s).2.Canon) : (s.atSeat seat d f).2.Canon := by
  cases seat with
  | live => exact hf _ _ _ h
  | saved => exact h.atSaved hf
  | gone => exact h

theorem State.Canon.onSeat (h : s.Canon) {v : EngEnv} {f : Nat → Nat → State → State} (hf : ∀ k x s, s.Canon → (f k x s).Canon) :
    (s.onSeat v f).Canon := h.atSeat hf

/-! ### Engines -/

theorem State.Canon.execEvqpop (h : s.Canon) : Answer.Canon (execEvqpop o s) :=
  State.Canon.next (h.runOp fun _ hs => .ite hs.landZero hs.modMe.land)

theorem State.Canon.endOp (h : s.Canon) {v : EngEnv} {ok : Bool} {rec_ : Option (Nat × Nat)} : (s.endOp v n id ok rec_).Canon :=
  h.onSeat fun _ _ _ hs => hs.modCtx

theorem State.Canon.ghostRecord (h : s.Canon) {v : EngEnv} {tr : Trap} {late : Bool} {at_ : Pc} : (s.ghostRecord v t tr late at_).Canon :=
  h.modCtx.addRecord.modCtx

theorem State.Canon.engineTrap (h : s.Canon) {v : EngEnv} {tr : Trap} {at_ : Pc} : (s.engineTrap v t tr at_).Canon := by
  unfold State.engineTrap
  split
  · exact h.ghostRecord
  · exact h.onSeat fun _ _ _ hs => .ite hs.addRecord (.ite hs.modCtx hs.takeLate)

theorem State.Canon.engineFault (h : s.Canon) {v : EngEnv} {f : FaultHold} {at_ : Pc} : (s.engineFault v t f at_).Canon := by
  unfold State.engineFault
  split
  · exact h.ghostRecord
  · exact h.onSeat fun _ _ _ hs => hs.addRecord

theorem State.Canon.freeBytes (h : s.Canon) : (s.freeBytes n).2.Canon := h.draw1

theorem State.Canon.engLoad (h : s.Canon) {v : EngEnv} {va : Nat} : (s.engLoad v va n).2.Canon := by
  refine State.Canon.foldl_snd (p := (EngGot.ok [], s)) h fun p pc hp => ?_
  split
  · split
    next e =>
      have h1 := hp.translate.of_eq e
      exact .ite_snd h1.draw1 (.ite_snd h1 h1)
    next e =>
      have h1 := hp.translate.of_eq e
      exact h1
    next e =>
      have h1 := hp.translate.of_eq e
      exact h1
  · exact hp

theorem State.Canon.engStore (h : s.Canon) {v : EngEnv} {va : Nat} {bs : List Byte} : (s.engStore v va bs).2.Canon := by
  unfold State.engStore
  dsimp only
  split
  · refine State.Canon.foldl h fun s _ hs => ?_
    split
    · exact (hs.physPiece.of_eq ‹_›).storeLine
    · exact hs.physPiece.of_eq ‹_›
  · exact h

theorem State.Canon.engOwn (h : s.Canon) {seat : Seat} {bs : Option (List Byte)} : (s.engOwn seat n a l bs).2.Canon := by
  unfold State.engOwn
  split
  · exact h.draw1
  · refine h.atSeat fun k x s hs => ?_
    extract_lets a
    generalize (if bs.isSome = true then AccessKind.store else AccessKind.load) = kind
    split
    · exact hs
    · exact hs
    · split
      · exact hs.storeAcc
      · dsimp only
        split
        · exact hs.freshAcc.loadAcc.noHost
        · exact hs.freshAcc.loadAcc.noHost

theorem State.Canon.engRead (h : s.Canon) {v : EngEnv} {p : Word} : (s.engRead v p n).2.Canon :=
  .ite_snd h.engOwn (.ite_snd h.engOwn h.engLoad)

theorem State.Canon.engWrite (h : s.Canon) {v : EngEnv} {p : Word} {bs : List Byte} : (s.engWrite v p bs).2.Canon :=
  .ite_snd h.engOwn h.engStore

/-! ### Transfers -/

theorem State.Canon.enterTransfer (h : s.Canon) {t : Transfer} : (s.enterTransfer k t).Canon := h.modCore.schedule

theorem State.Canon.execXfer (h : s.Canon) : Answer.Canon (execXfer o s) := by
  unfold Machine.execXfer
  dsimp only
  split
  · exact h.landZero.next
  · refine Answer.Canon.ite h.pageFaults.next (Answer.Canon.ite h.holdFor.next (State.Canon.next (h.runOp fun s hs => .land ?_)))
    split
    · exact State.Canon.enterTransfer (.modMe hs.releaseStart)
    · exact State.Canon.schedule (.modHome (.modMe hs.releaseStart))

theorem State.Canon.execLoopGeneratorEntry (h : s.Canon) : Answer.Canon (execLoopGeneratorEntry k x s) := by
  unfold Machine.execLoopGeneratorEntry
  dsimp only
  split
  · exact h
  · split
    · exact h
    · exact Answer.Canon.ite h.schedule.next (State.Canon.next (.ite (.enterTransfer h.modCore) (.schedule (.enterTransfer h.modCore))))

theorem State.Canon.execXloop (h : s.Canon) : Answer.Canon (execXloop o s) := by
  unfold Machine.execXloop
  dsimp only
  split
  · exact h
  · exact Answer.Canon.ite h.holdFor.next (State.Canon.next (h.runOp fun _ hs => hs.modMe))

theorem State.Canon.execXstat (h : s.Canon) : Answer.Canon (execXstat o s) := State.Canon.next (h.runOp fun _ hs => hs.land)

theorem State.Canon.execWaitid (h : s.Canon) : Answer.Canon (execWaitid o s) := by
  unfold Machine.execWaitid
  dsimp only
  split
  · exact h
  · exact Answer.Canon.ite h.holdFor.next (State.Canon.next (h.runOp fun _ hs => hs))

theorem State.Canon.execTransferStart (h : s.Canon) : Answer.Canon (execTransferStart k s) := by
  refine Answer.Canon.ite h ?_
  split
  · exact h
  · exact State.Canon.next (.schedule (.modCore h.draw1))

theorem State.Canon.sendRemote (h : s.Canon) {bs : List Byte} : (s.sendRemote k d a bs).Canon := h

/-- The rows of a transfer. The recursion is taken through its functional, which names no call of itself. -/
theorem State.Canon.copyTransferRows (h : s.Canon) {t : Transfer} : (Machine.copyRows n t s).2.Canon := by
  delta Machine.copyRows
  refine Nat.brecOn_induction (F := Machine.copyRows._f) (P := fun g => ∀ (t : Transfer) (s : State), s.Canon → (g t s).2.Canon)
    (fun _ _ _ h => h) (fun n below ih t s h => ?_) n t s h
  dsimp only [Machine.copyRows._f]
  refine State.Canon.ite_snd h ?_
  have h1 := h.engRead (v := t.env) (p := rowPtr t.src t.spitch t.row) (n := t.width)
  generalize s.engRead t.env (rowPtr t.src t.spitch t.row) t.width = r at h1 ⊢
  obtain ⟨g, s1⟩ := r
  cases g with
  | fault | bad => exact h1
  | ok bs =>
    refine .ite_snd (ih _ _ (State.Canon.onSeat h1 fun _ _ _ hs => hs.modCtx)) ?_
    generalize t.rmt = dev
    cases dev with
    | some dev => exact ih _ _ (State.Canon.sendRemote h1)
    | none =>
      have h2 := State.Canon.engWrite h1 (v := t.env) (p := rowPtr t.dst t.dpitch t.row) (bs := bs)
      generalize State.engWrite s1 t.env (rowPtr t.dst t.dpitch t.row) bs = w at h2 ⊢
      obtain ⟨g2, s2⟩ := w
      cases g2 with
      | ok => exact ih _ _ h2
      | fault | bad => exact h2

theorem State.Canon.engFlush (h : s.Canon) : (s.engFlush k).Canon := h.foldl fun _ _ hs => hs.sendWcb

theorem State.Canon.freeEngine (h : s.Canon) : (s.freeEngine k).Canon := h.modCore.schedule

theorem State.Canon.setRunning (h : s.Canon) {t : Transfer} : (s.setRunning k t).Canon := h.modCore

theorem State.Canon.podTakes (h : s.Canon) : (s.podTakes d).2.Canon := h.draw1

theorem State.Canon.execTransferComplete (h : s.Canon) : Answer.Canon (execTransferComplete k s) := by
  unfold Machine.execTransferComplete
  split
  · exact h
  next t _ =>
    refine Answer.Canon.ite h ?_
    split
    next takes s0 e0 =>
    have h0 : s0.Canon := by
      revert e0
      split
      · exact fun e0 => h.podTakes.of_eq e0
      · exact fun e0 => by cases e0; exact h
    refine Answer.Canon.ite h0.setRunning.schedule.next ?_
    split
    next u s1 e1 =>
    have h2 := (h0.copyTransferRows.of_eq e1).engFlush (k := k)
    extract_lets s2
    split
    · exact State.Canon.next (.schedule (.engineFault h2.modCore))
    · exact h2.setRunning.schedule.next
    · exact Answer.Canon.ite h2.setRunning.schedule.next h2.endOp.freeEngine.next

theorem State.Canon.execTransferFault (h : s.Canon) : Answer.Canon (execTransferFault k s) := by
  unfold Machine.execTransferFault
  dsimp only
  split
  · refine Answer.Canon.ite h.endOp.engineTrap.freeEngine.next ?_
    split
    · exact State.Canon.next (.engineTrap (.endOp h.modCore))
    · exact h
  · exact State.Canon.next (.engineTrap (.endOp h.modCore))
  · exact h

theorem State.Canon.stopRunning (h : s.Canon) {t : Transfer} : (s.stopRunning k t).Canon := by
  unfold State.stopRunning
  extract_lets total ran moved rows
  refine .ite h ?_
  split
  next u s1 e =>
  have h1 := h.copyTransferRows.of_eq e
  exact State.Canon.engFlush (.ite h1 h1.copyTransferRows)

theorem State.Canon.execXcancel (h : s.Canon) : Answer.Canon (execXcancel o s) := by
  unfold Machine.execXcancel
  dsimp only
  split
  · exact h
  · refine State.Canon.next (h.runOp fun s hs => ?_)
    split
    · exact State.Canon.endOp hs.modCore
    · split
      · split
        · exact State.Canon.freeEngine (.endOp hs.stopRunning)
        · exact hs
      · exact hs

end
end Sys2Proof.Machine

namespace Sys2Proof.Machine

theorem mem_of_mem_tdel {α : Type} {t : Tab α} {k : Nat} {e : Nat × α} (h : e ∈ tdel t k) : e ∈ t := by
  unfold tdel at h
  exact (List.mem_filter.1 h).1

section
variable {s : State} {k x t n l c pa a e g b tr d q id : Nat} {o : Op}

/-- A change of the save slots that keeps their records' canonical form. -/
theorem State.Canon.modSaves (h : s.Canon) {f : Core → Tab SaveRec} (hf : ∀ c, SavesCanon c.saves → SavesCanon (f c)) :
    (s.modCore k fun c => { c with saves := f c }).Canon :=
  h.modCore fun c hc =>
    have ⟨hs, hm, hr⟩ := Core.canon_iff.1 hc
    Core.canon_iff.2 ⟨hs, hm, hf c hr⟩

/-! ### Publication and copies by the fathom bus -/

theorem State.Canon.dropLines (h : s.Canon) {ls : List Nat} : (s.dropLines ls).Canon := by
  refine h.setCores fun c hc => ?_
  obtain ⟨c0, h0, rfl⟩ := List.mem_map.1 hc
  exact (State.canon_iff.1 h).2 c0 h0

theorem State.Canon.publishLine (h : s.Canon) {p : PPiece} {bs : List Byte} : (s.publishLine k x t p bs).Canon := h.performWrite.dropLines

theorem State.Canon.publishAcc (h : s.Canon) {a : Acc} {bs : List Byte} : (s.publishAcc k x a bs).Canon :=
  h.foldl fun _ _ hs => by
    dsimp only
    split
    · split
      next e =>
        have h1 := hs.physPiece.of_eq e
        split
        · exact h1.publishLine
        · exact h1.storeLine
      next e => exact hs.physPiece.of_eq e
    · exact hs.storeAcc

theorem State.Canon.publishWrites (h : s.Canon) {ws : List (Option Nat × Nat × List Byte)} : (s.publishWrites k x t ws).Canon :=
  h.foldl fun _ _ hs => by
    split
    · exact hs.publishAcc
    · exact hs.engOwn

theorem State.Canon.execPublish (h : s.Canon) : Answer.Canon (execPublish o s) := by
  unfold Machine.execPublish
  dsimp only
  split
  · exact h
  · exact Answer.Canon.ite h.holdFor.next (Answer.Canon.ite h.pageFaults.next (Answer.Canon.ite
      (.next (.holdFor (.ite h.releaseStart h)))
      (.next (.runOp (.ite h.releaseStart h) fun _ hs => State.Canon.modMe (.releaseDone hs.publishWrites)))))

theorem State.Canon.execStkcpy (h : s.Canon) : Answer.Canon (execStkcpy o s) := by
  unfold Machine.execStkcpy
  dsimp only
  split
  · exact h.landZero.next
  · exact Answer.Canon.ite h.holdFor.next (Answer.Canon.ite (.next (.holdFor (.ite h.releaseStart h)))
      (.next (.runOp (.ite h.releaseStart h) fun _ hs => .land (.stkReady (.stkBegin (.modHome (.modMe hs.flushIdle)))))))

theorem State.Canon.putPillar (h : s.Canon) {bs : List (Nat × Byte)} : (s.putPillar n bs).Canon :=
  .dropLines (.foldl (h.modPhys fun hp => Phys.wf_putDram _ _ hp) fun _ _ hs => hs.modLine)

theorem State.Canon.stkCopy (h : s.Canon) {fuel src dst left : Nat} : (stkCopy k a b src dst fuel left s).2.Canon := by
  induction fuel generalizing s src dst left with
  | zero => exact h
  | succ fuel ih => exact .ite_snd h (.ite_snd h (ih h.putPillar))

theorem State.Canon.execStkcpyComplete (h : s.Canon) : Answer.Canon (execStkcpyComplete k s) := by
  unfold Machine.execStkcpyComplete
  split
  · exact h
  · refine Answer.Canon.ite h ?_
    extract_lets v
    split
    next bad s1 e =>
    have h1 : s1.Canon := h.stkCopy.of_eq e
    extract_lets s2 s3
    have h3 : s3.Canon := .stkBegin (.modCore (h1.foldl fun _ _ hs => .ite (.closeRow hs.modBank) hs.modBank))
    clear_value s3
    split
    · exact h3.endOp.engineTrap.next
    · exact h3.endOp.next

/-! ### Collectives -/

theorem State.Canon.modCohort (h : s.Canon) {f : Cohort → Cohort} : (s.modCohort n f).Canon := by
  unfold State.modCohort
  split <;> exact h

theorem State.Canon.setUse (h : s.Canon) {u : GroupUse} : (s.setUse c g u).Canon := h.modCohort

theorem State.Canon.dropUse (h : s.Canon) : (s.dropUse c g).Canon := h.modCohort

theorem State.Canon.redgrpCheck (h : s.Canon) : (s.redgrpCheck c g).Canon := by
  unfold State.redgrpCheck
  split
  · exact .ite h.message h
  · exact h

theorem State.Canon.mcastSend (h : s.Canon) {u : GroupUse} : (s.mcastSend c g u).Canon := h.foldl fun _ _ hs => hs.message

theorem State.Canon.collLost (h : s.Canon) {i : Issuer} : (s.collLost c g i a).Canon := by
  unfold State.collLost
  extract_lets s1
  have h1 : s1.Canon := h.endOp.engineTrap
  clear_value s1
  split
  · exact .ite h1 (.ite h1.setUse.redgrpCheck h1.dropUse)
  · exact h1

theorem State.Canon.collRead (h : s.Canon) : (s.collRead c g l).Canon := by
  unfold State.collRead
  split
  · exact h
  · split
    · exact h
    · dsimp only
      split
      next e =>
        have h1 := h.engRead.of_eq e
        exact .ite h1.setUse.redgrpCheck h1.setUse.mcastSend
      next e => exact (h.engRead.of_eq e).setUse.engineFault
      next e => exact (h.engRead.of_eq e).collLost

theorem State.Canon.collOp (h : s.Canon) {redgrp : Bool} : (collOp redgrp o s).Canon := by
  unfold Machine.collOp
  extract_lets k x scope shadow fn opc lg cohort
  split
  · exact h
  · refine .ite (h.runOp fun _ hs => hs) (.ite h.holdFor (.ite (.runOp ?_ fun _ hs => hs) (h.runOp fun s hs => ?_)))
    · split
      · exact h.setUse.redgrpCheck
      · exact h
    · exact .collRead (.setUse (.modMe hs.releaseStart))

theorem State.Canon.delivered (h : s.Canon) {dropped : Bool} : (s.delivered c g n dropped).Canon := by
  unfold State.delivered
  split
  · exact h
  · dsimp only
    split
    · exact h.dropUse.endOp
    · exact h.setUse

theorem State.Canon.collWrite (h : s.Canon) {i : Issuer} {seat : Seat} {bs : List Byte} : (s.collWrite i seat n bs).2.Canon :=
  .ite_snd (h.onSeat fun _ _ _ hs => hs.modCtx) h.engOwn

theorem State.Canon.collStall (h : s.Canon) {i : Issuer} {write : Bool} : (s.collStall c g i a l write).Canon := by
  unfold State.collStall
  dsimp only
  split
  · exact h.setUse.engineFault
  · exact h

theorem State.Canon.collResume (h : s.Canon) : (s.collResume c g l).Canon := by
  unfold State.collResume
  split
  · exact h
  · exact .ite (.ite h.setUse.message h.setUse.mcastSend) h.collRead

theorem State.Canon.execMcastDelivery (h : s.Canon) : Answer.Canon (execMcastDelivery c g t s) := by
  unfold Machine.execMcastDelivery
  split
  · exact h
  · split
    · refine Answer.Canon.ite h ?_
      dsimp only
      split
      · split
        next e => exact (h.collWrite.of_eq e).delivered.next
        next e => exact (h.collWrite.of_eq e).collStall.next
        next e => exact (h.collWrite.of_eq e).collLost.next
      · exact State.Canon.next h.modCore
      · exact Answer.Canon.ite h.delivered.next (State.Canon.next h.modCore)
    · exact h

theorem State.Canon.openInbox (h : s.Canon) : (s.openInbox k c l).Canon := h.modCore.foldl fun _ _ hs => hs.schedule

theorem State.Canon.leaveUse (h : s.Canon) : (s.leaveUse c g l).Canon := by
  unfold State.leaveUse
  split
  · exact .ite h.dropUse h.setUse
  · exact h

theorem State.Canon.execRedgrpResult (h : s.Canon) : Answer.Canon (execRedgrpResult c g s) := by
  unfold Machine.execRedgrpResult
  split
  · exact h
  · refine Answer.Canon.ite h (State.Canon.next (h.setUse.foldl fun s i hs => ?_))
    split
    next e => exact (hs.collWrite.of_eq e).endOp.leaveUse
    next e => exact (hs.collWrite.of_eq e).collStall
    next e => exact (hs.collWrite.of_eq e).collLost.leaveUse

/-! ### Circuits -/

theorem State.Canon.execSendc (h : s.Canon) : Answer.Canon (execSendc o s) := by
  unfold Machine.execSendc
  dsimp only
  split
  · exact h
  · exact Answer.Canon.ite h.holdFor.next (State.Canon.next (h.runOp fun _ hs => .schedule (.modCohort hs.modMe)))

theorem State.Canon.giveCredit (h : s.Canon) : (s.giveCredit c a b n).Canon := h.atSeat fun _ _ _ hs => hs.modCtx

theorem State.Canon.execCircuitArrival (h : s.Canon) : Answer.Canon (execCircuitArrival c a b s) := by
  unfold Machine.execCircuitArrival
  split
  · exact h
  · split
    · exact h
    · extract_lets ws s1
      have h1 : s1.Canon := h.modCohort
      clear_value s1
      split
      · exact h1.giveCredit.next
      · split
        next waited s2 e2 =>
        have h2 : s2.Canon := by
          refine State.Canon.of_eq (h1.atSeat fun k x s hs => ?_) e2
          split
          · exact hs.modCtx
          · exact hs.modCtx
        split
        · exact h2.giveCredit.next
        · exact h2

theorem State.Canon.execRecvc (h : s.Canon) : Answer.Canon (execRecvc o s) := by
  unfold Machine.execRecvc
  dsimp only
  split
  · exact h.landZero.next
  · refine State.Canon.next (h.runOp fun s hs => ?_)
    split
    · exact .giveCredit (.modMe hs.land)
    · exact .modMe hs.land

/-! ### The matrix unit -/

theorem Mtx.accPut_opmem {m : Mtx} {tile i j : Nat} {v : BitVec 32} : (m.accPut tile i j v).opmem = m.opmem := rfl

theorem Mtx.foldl_opmem {α : Type} {as : List α} {f : Mtx → α → Mtx} (hf : ∀ m a, (f m a).opmem = m.opmem) (m : Mtx) :
    (as.foldl f m).opmem = m.opmem :=
  List.foldlRecOn (motive := fun n => n.opmem = m.opmem) as f rfl fun n hn a _ => (hf n a).trans hn

theorem Mtx.wf_takeBytes {m : Mtx} {kind : MoveKind} {bs : List Byte} (w : Memory.wf m.opmem = true) :
    Memory.wf (m.takeBytes kind a bs).opmem = true := by
  cases kind with
  | toSlot => exact Memory.wf_cellPuts _ w
  | toTile =>
    have h1 : (m.takeBytes .toTile a bs).opmem = m.opmem := by
      refine Mtx.foldl_opmem ?_ m
      exact fun _ _ => rfl
    rw [h1]; exact w
  | toMem => exact w

theorem State.Canon.execMma (h : s.Canon) : Answer.Canon (execMma o s) := by
  unfold Machine.execMma
  dsimp only
  split
  · exact h
  · refine Answer.Canon.ite h.holdFor.next (Answer.Canon.ite h.holdFor.next (State.Canon.next (h.runOp fun s hs => .addWork ?_)))
    refine hs.modMtx fun m hm => ?_
    have h1 : ∀ {as : List (Nat × Nat × Nat)} {tile : Nat},
        (as.foldl (fun m v => m.accPut tile v.1 v.2.1 (BitVec.ofNat 32 v.2.2)) m).opmem = m.opmem := by
      refine Mtx.foldl_opmem ?_ m
      exact fun _ _ => rfl
    exact h1 ▸ hm

theorem State.Canon.runMoves (h : s.Canon) {ms : List EngMove} : (runMoves k x ms s).2.Canon := by
  induction ms generalizing s with
  | nil => exact h
  | cons m r ih =>
    unfold Machine.runMoves
    extract_lets write
    split
    · exact h
    · exact h
    · exact h
    · refine .ite_snd (ih h.copyFirst.storeAcc) ?_
      split
      next got s1 e =>
      have h1 : s1.Canon := (h.freshAcc.loadAcc (a := m.acc)).of_eq e
      split
      · exact h1
      · split
        next bs s2 e2 =>
        have h2 : s2.Canon := by
          refine State.Canon.of_eq (.ite_snd h1 ?_) e2
          exact h1.draw1
        exact ih (h2.modMtx fun _ hm => Mtx.wf_takeBytes hm)

theorem State.Canon.runStream (h : s.Canon) {w : Work} {ms : List EngMove} : (s.runStream k x w n ms).Canon := by
  unfold State.runStream
  split
  next e => exact (h.runMoves.of_eq e).addWork
  next e => exact .engineFault (.modMtx (h.runMoves.of_eq e))
  next e => exact (h.runMoves.of_eq e).engineTrap

theorem State.Canon.underSegs (h : s.Canon) {segs : Tab Word × Tab Word} {f : State → State} (hf : ∀ s, s.Canon → (f s).Canon) :
    (s.underSegs k x segs f).Canon := .modCtx (hf _ h.modCtx)

theorem State.Canon.resumeWork (h : s.Canon) {w : Work} : (s.resumeWork k w).Canon :=
  .underSegs h.modMtx fun _ hs => hs.runStream

theorem State.Canon.failWork (h : s.Canon) {w : Work} {f : FaultHold} : (s.failWork k t w f).Canon := .engineTrap h.modMtx

theorem State.Canon.accMoveOp (h : s.Canon) {store : Bool} : (accMoveOp store o s).Canon := by
  unfold Machine.accMoveOp
  dsimp only
  split
  · exact h
  · exact .ite h.holdFor (h.runOp fun _ hs => hs.runStream)

theorem State.Canon.execAccz (h : s.Canon) : Answer.Canon (execAccz o s) := by
  unfold Machine.execAccz
  dsimp only
  split
  · exact h
  · exact Answer.Canon.ite h.holdFor.next (State.Canon.next (h.runOp fun _ hs => .addWork hs.modMtx))

theorem State.Canon.execOsload (h : s.Canon) : Answer.Canon (execOsload o s) := by
  unfold Machine.execOsload
  dsimp only
  split
  · exact h
  · exact Answer.Canon.ite h.holdFor.next (State.Canon.next (h.runOp fun _ hs => .runStream hs.draw1))

/-! ### Firmware ops -/

theorem State.Canon.execSegset (h : s.Canon) : Answer.Canon (execSegset o s) := by
  have setCtx : ∀ {s : State} {k n : Nat} {r : SaveRec} {c : Ctx}, s.Canon → s.record k n = some r →
      (s.setRecord k n { r with ctx := c }).Canon := fun h hr => h.setRecord (h.record hr :)
  unfold Machine.execSegset
  extract_lets k priv
  split
  · exact h
  · refine State.Canon.next (h.runOp fun s hs => .ite hs.modCtx ?_)
    split
    · split
      next hr => exact setCtx hs hr
      · exact hs
    · exact hs

theorem State.Canon.execTlbinv (h : s.Canon) : Answer.Canon (execTlbinv o s) := by
  unfold Machine.execTlbinv
  dsimp only
  split
  · exact h
  · refine Answer.Canon.ite (.next (.holdFor (.ite h.releaseStart h))) (.next (.runOp (.ite h.releaseStart h) fun s hs => ?_))
    refine State.canon_iff.2 ⟨(State.canon_iff.1 hs).1, fun c hc => ?_⟩
    obtain ⟨c0, h0, rfl⟩ := List.mem_map.1 hc
    exact (State.canon_iff.1 hs).2 c0 h0

theorem State.Canon.ticketAdd (h : s.Canon) {w : Word} : (s.ticketAdd k x t w).2.Canon := by
  unfold State.ticketAdd
  dsimp only
  exact State.Canon.atomArrive (.draw1 h.sendWcb)

theorem State.Canon.execTicket (h : s.Canon) : Answer.Canon (execTicket o s) := by
  unfold Machine.execTicket
  extract_lets k x d priv
  refine Answer.Canon.ite h.landZero.next (Answer.Canon.ite (.next (.holdFor (.ite h.releaseStart h)))
    (.next (.runOp (.ite h.releaseStart h) fun s hs => ?_)))
  split
  next gots s1 e =>
  have h2 : s1.Canon := State.Canon.of_eq (.foldl_snd hs fun p g (hp : p.2.Canon) => by exact hp.ticketAdd) e
  exact .modMe (.releaseDone (.lastAwaits h2.land))

/-! ### Answers to traps and page faults -/

theorem State.Canon.setStreamHold (h : s.Canon) {st : Stream} {f : FaultHold} : (s.setStreamHold k st f).Canon := by
  cases st with
  | work => exact h.modMtx
  | xfer => exact h.modCore
  | coll =>
    unfold State.setStreamHold
    dsimp only
    split
    · exact h.setUse
    · exact h

theorem State.Canon.resumeStream (h : s.Canon) {st : Stream} : (s.resumeStream k st).Canon := by
  cases st with
  | work => exact h.resumeWork
  | xfer => exact .schedule h.modCore
  | coll => exact h.collResume

theorem State.Canon.failStream (h : s.Canon) {st : Stream} : (s.failStream k st).Canon := by
  cases st with
  | work => exact h.failWork
  | xfer => exact .schedule h.modCore
  | coll => exact h.collLost

theorem State.Canon.streamWalked (h : s.Canon) {st : Stream} : (s.streamWalked k st).Canon := by
  unfold State.streamWalked
  dsimp only
  split
  next e => exact (h.translate.of_eq e).setStreamHold.engineFault
  next e => exact (h.translate.of_eq e).resumeStream

theorem State.Canon.startWalk (h : s.Canon) : (s.startWalk k x t).Canon := h.startWalker.schedule

theorem State.Canon.loseBytes (h : s.Canon) : (s.loseBytes k x a).Canon := h.modCtx

theorem State.Canon.settleFaults (h : s.Canon) : (s.settleFaults k x).Canon := by
  unfold State.settleFaults
  dsimp only
  split
  · exact h
  · have h1 : ∀ (l : List (Nat × FaultHold)), ((l.foldl (fun s e => s.loseBytes k x e.2.addr)
        (l.foldl (fun s e => s.modThread k x e.1 fun th => { th with fault := none }) s)) : State).Canon := fun l =>
      (h.foldl fun _ _ hs => hs.modThread).foldl fun _ _ hs => hs.loseBytes
    generalize List.filter (fun e : Nat × FaultHold => e.2.failed) _ = l
    exact .ite (.ite (h1 _) (h1 _).takeTrapsAt) (.takeLateHolds (.ite (h1 _) (h1 _).takeTrapsAt))

theorem State.Canon.refile (h : s.Canon) {key : BinKey} : (s.refile k x t key).Canon := h.modCtx

theorem State.Canon.repark (h : s.Canon) {p : TrapHold} : (s.repark k x t p).Canon := by
  unfold State.repark
  extract_lets stay
  have h1 : stay.Canon := h.modThread
  clear_value stay
  split
  · exact h1.modCtx.barCheck
  · exact h1.formClaims.deadlockCheck
  · exact .ite h.refile h1
  · exact h.refile

theorem State.Canon.resumeThread (h : s.Canon) {p : TrapHold} {skip : Bool} : (s.resumeThread k x t p skip).Canon :=
  .ite (.repark (.ite h.modThread h)) (.refile (.ite h.modThread h))

theorem State.Canon.endCtx (h : s.Canon) : (s.endCtx k x).Canon := .endThreads h.modCtx

theorem SavesCanon.tdel {t : Tab SaveRec} (h : SavesCanon t) : SavesCanon (tdel t k) := fun e he => h e (mem_of_mem_tdel he)

theorem State.Canon.endLaunch (h : s.Canon) : (s.endLaunch n).Canon := by
  refine State.Canon.foldl (.foldl ?_ fun _ _ hs => .countFinish (hs.modSaves fun _ hc => hc.tdel)) fun _ _ hs => hs.endCtx
  exact h

theorem State.Canon.endLaunchOf (h : s.Canon) : (s.endLaunchOf k x).Canon := by
  unfold State.endLaunchOf
  split
  · exact h.endLaunch
  · exact h

theorem State.Canon.endByAnswer (h : s.Canon) : (s.endByAnswer k x t).Canon :=
  .ite h.endLaunchOf (.settleFaults (.endThreads h.modThread))

theorem State.Canon.answerTrap (h : s.Canon) {p : TrapHold} : (s.answerTrap k x t p n).Canon := by
  unfold State.answerTrap
  split
  · exact h.resumeThread
  · exact .ite (.resumeThread h.modCtx) h.resumeThread
  · exact h.endByAnswer
  · exact h.endLaunchOf

theorem State.Canon.answerFault (h : s.Canon) {f : FaultHold} : (s.answerFault k x t f n).Canon := by
  unfold State.answerFault
  split
  · exact .startWalk h.modThread
  · exact .settleFaults h.modThread
  · exact h.endByAnswer
  · exact h.endLaunchOf

theorem State.Canon.answerStream (h : s.Canon) {st : Stream} : (s.answerStream k x t st n).Canon := by
  unfold State.answerStream
  split
  · exact h.setStreamHold.startWalk
  · exact h.failStream
  · exact h.endByAnswer.failStream
  · exact h.endLaunchOf.failStream

theorem State.Canon.answer (h : s.Canon) : (s.answer k x t n).2.Canon := by
  unfold State.answer
  extract_lets c th held
  split
  · exact .ite_snd h.answerTrap h
  · exact .ite_snd h (.ite_snd h.answerFault h)
  · exact .ite_snd h (.ite_snd h.answerStream h)
  · refine .ite_snd h (.ite_snd ?_ ?_)
    · dsimp only
      split
      · exact h.endLaunch
      · exact h
    · refine h.modSaves fun c hc e he => ?_
      obtain ⟨r, hr, rfl⟩ := List.mem_map.1 he
      split <;> exact hc r hr
  · exact h

theorem State.Canon.tretOp (h : s.Canon) {mode : Nat → Nat} : (tretOp mode o s).Canon := by
  unfold Machine.tretOp
  dsimp only
  split
  · exact h.landZero
  · exact h.runOp fun _ hs => hs.answer.land

theorem State.Canon.refault (h : s.Canon) {f : FaultHold} : (s.refault k x t f n).Canon := .modThread h.addRecord

theorem State.Canon.replayed (h : s.Canon) : (s.replayed k x t).Canon := by
  have h1 : (s.modThread k x t fun th => { th with fault := none }).Canon := h.modThread
  exact .settleFaults (.ite (.foldl h1.writeBackAll.writeBackFault fun _ _ hs => hs.sendCore) h1)

theorem State.Canon.execPageWalkComplete (h : s.Canon) : Answer.Canon (execPageWalkComplete k x t s) := by
  unfold Machine.execPageWalkComplete
  split
  · refine Answer.Canon.ite h ?_
    split
    next e => exact (h.translate.of_eq e).refault.next
    next e => exact (h.translate.of_eq e).replayed.next
  · split
    · exact h.streamWalked.next
    · exact h

end
end Sys2Proof.Machine

namespace Sys2Proof.Machine

section
variable {s : State} {k x t n l c a d q id : Nat}

/-! ### Launches and starts of workgroups (R249, R250) -/

theorem State.Canon.peek32 (h : s.Canon) {sp : Space} {va : Nat} : (s.peek32 sp va).2.Canon := by
  unfold State.peek32
  split
  next e =>
    have h1 := h.physPiece.of_eq e
    exact .ite_snd h1.draw1 h1
  next e => exact h.physPiece.of_eq e

theorem State.Canon.peekWords (h : s.Canon) {sp : Space} {va : Nat} : (s.peekWords sp va n).2.Canon := by
  refine State.Canon.foldl_snd (p := (some [], s)) h fun p i hp => ?_
  split
  · exact hp
  · split
    next e => exact hp.peek32.of_eq e
    next e => exact hp.peek32.of_eq e

theorem State.Canon.readTable (h : s.Canon) {u : Queue} {rows cols : Nat} {circ : Word} : (s.readTable d u rows cols circ).2.Canon := by
  unfold State.readTable
  refine .ite_snd h (.ite_snd h (.ite_snd h ?_))
  dsimp only
  split
  next e => exact h.peek32.of_eq e
  next e =>
    have h1 := h.peek32.of_eq e
    refine .ite_snd h1 ?_
    split
    next e => exact h1.peekWords.of_eq e
    next e =>
      have h2 := h1.peekWords.of_eq e
      exact .ite_snd h2 h2

/-- The record of a launch as `launchWork` reads it: its 64 words. -/
theorem State.Canon.readRecord (h : s.Canon) {sp : Space} {va : Nat} {is : List Nat} {ws : Option (List Word)} :
    (is.foldl (fun (acc : Option (List Word) × State) i => match acc.1 with
      | none => acc
      | some ws => match acc.2.peek64 sp (va + 8 * i) with
        | (some w, s') => (some (ws ++ [w]), s')
        | (none, s') => (none, s')) (ws, s)).2.Canon := by
  refine State.Canon.foldl_snd (p := (ws, s)) h fun p i hp => ?_
  split
  · exact hp
  · split
    next e => exact hp.peek64.of_eq e
    next e => exact hp.peek64.of_eq e

theorem State.Canon.launchWork (h : s.Canon) {p : Packet} : (launchWork d q p s).Canon := by
  unfold Machine.launchWork
  dsimp only
  split
  · exact h.finishPacket
  · have h1 := h.readRecord (sp := s.queueSpace d (s.queue d q)) (va := (s.queue d q).va (p.word 2)) (is := List.range 64) (ws := some [])
    revert h1
    generalize List.foldl _ (some ([] : List Word), s) (List.range 64) = r
    intro h1
    split
    · refine .ite h1.finishPacket ?_
      split
      next e => exact (h1.readTable.of_eq e).finishPacket
      next e =>
        have h2 := h1.readTable.of_eq e
        refine .ite h2.finishPacket (.offerStarts ?_)
        exact h2
    · exact h1.finishPacket

theorem State.Canon.readLasts (h : s.Canon) {l : Launch} {b : LBlock} : (s.readLasts k l b).2.Canon := by
  refine State.Canon.foldl_snd h fun p e hp => ?_
  refine State.Canon.foldl_snd (p := (([] : List Word), p.2)) hp fun r i hr => ?_
  split
  next e => exact hr.peek64.of_eq e
  next e => exact (hr.peek64.of_eq e).draw1

theorem State.Canon.startMember (h : s.Canon) {ln cohort index logical budget : Nat} {l : Launch} {founder : Bool} :
    (s.startMember ln l cohort index logical founder k x budget).Canon := by
  unfold State.startMember
  dsimp only
  have h1 : (if (l.tmpl && !founder) = true then s.readLasts k l (s.startEntry l budget founder).2.2 else ([], s)).2.Canon :=
    .ite_snd h.readLasts h
  generalize (if (l.tmpl && !founder) = true then s.readLasts k l (s.startEntry l budget founder).2.2 else ([], s)) = p at h1 ⊢
  refine .openInbox (.passEntry (.modCtx (.modCtx (h1.modCore fun c hc => ?_))))
  obtain ⟨hs, hm, hr⟩ := Core.canon_iff.1 hc
  exact Core.canon_iff.2 ⟨Memory.wf_filter _ hs, hm, hr⟩

theorem State.Canon.startCohort (h : s.Canon) {ln index rows cols : Nat} {l : Launch} {founder : Bool} {seats : List (Nat × Nat × Nat)} :
    (s.startCohort ln l index founder rows cols seats).Canon := by
  refine State.Canon.foldl ?_ fun _ _ hs => hs.startMember
  exact h

theorem State.Canon.waitPlace (h : s.Canon) {ln : Nat} {l : Launch} {p : Partition} : (s.waitPlace ln k l p).Canon :=
  .message (.ite h.schedule h)

theorem State.Canon.execWorkgroupStart (h : s.Canon) {ln : Nat} : Answer.Canon (execWorkgroupStart ln k s) := by
  unfold Machine.execWorkgroupStart
  split
  · exact h.next
  · split
    · exact h.next
    · refine Answer.Canon.ite h.next (Answer.Canon.ite h.message.next ?_)
      split
      · exact h.waitPlace.next
      · refine Answer.Canon.ite h.startCohort.next ?_
        split
        next e =>
          have h1 := h.rmw64.of_eq e
          exact Answer.Canon.ite h1.startCohort.message.next h1.next
        next e => exact (h.rmw64.of_eq e).next

/-! ### Pre-emption: a context drains and leaves its core with its record (R44) -/

theorem State.Canon.moveCopies (h : s.Canon) : (s.moveCopies k x).Canon := by
  refine h.foldl fun s e hs => ?_
  split
  · exact hs
  · exact .ite hs (.modCtx (hs.foldl fun _ _ hs => hs.storeVirt))

theorem State.Canon.sendOwn (h : s.Canon) : (s.sendOwn k x).Canon := h.foldl fun _ _ hs => hs.sendWcb

theorem State.Canon.stopCtx (h : s.Canon) : (s.stopCtx k x).Canon :=
  .ite h.modCtx h.modCtx.modCtx.moveCopies.writeBackAll.writeBackFault.sendOwn

theorem State.Canon.takeOut (h : s.Canon) : (s.takeOut k x).2.Canon := by
  unfold State.takeOut
  refine .forgetWaits (.modCore (.modMtx h.killTickets.freeSet) fun c hc => ?_)
  obtain ⟨hs, hm, hr⟩ := Core.canon_iff.1 hc
  exact Core.canon_iff.2 ⟨Memory.wf_filter _ hs, hm, hr⟩

theorem State.Canon.takeOut_record (h : s.Canon) : (s.takeOut k x).1.canonical = true :=
  SaveRec.canonical_iff.2 ⟨Memory.wf_filter _ (Memory.wf_shareOf _ _ (h.stash k)), Memory.wf_filter _ (h.opmem k)⟩

theorem State.Canon.saveCtx (h : s.Canon) : (s.saveCtx k x).Canon := by
  unfold State.saveCtx
  split
  · exact h
  · exact h.takeOut.setRecord h.takeOut_record

theorem State.Canon.preempt (h : s.Canon) {ms : List (Nat × Nat)} : (s.preempt ms).2.Canon :=
  have h1 := h.foldl (l := ms) fun _ _ hs => hs.stopCtx
  .ite_snd (h1.foldl fun _ _ hs => hs.saveCtx) h1

theorem State.Canon.execPreemption (h : s.Canon) : Answer.Canon (execPreemption k x s) := by
  unfold Machine.execPreemption
  refine Answer.Canon.ite Answer.Canon.fault ?_
  split
  · exact h.next
  · refine Answer.Canon.ite h.next ?_
    split
    next e =>
      have h1 := h.preempt.of_eq e
      split
      · exact h1.message.next
      · exact h1.next
    next e => exact (h.preempt.of_eq e).schedule.next

/-! ### A saved context goes on (R46) -/

theorem State.Canon.movePinsTo (h : s.Canon) {to_ : Nat} {new_ : Ctx} : (s.movePinsTo a to_ new_).2.Canon :=
  .ite_snd h (.foldl_snd h fun _ _ hp => hp.leaveTr.enterTr)

theorem State.Canon.storedAnswers (h : s.Canon) : (s.storedAnswers k x).Canon := by
  refine h.foldl fun s e hs => ?_
  split
  · split
    · exact hs.answerTrap
    · exact hs
  · exact hs

theorem State.Canon.putIn (h : s.Canon) {r : SaveRec} {c : Ctx} : (s.putIn k x r c).Canon := by
  refine .modMtx (h.modCore fun c hc => ?_) fun m hm => Memory.wf_cellPuts _ hm
  obtain ⟨hs, hm, hr⟩ := Core.canon_iff.1 hc
  exact Core.canon_iff.2 ⟨Memory.wf_cellPuts _ (Memory.wf_filter _ hs), hm, hr⟩

theorem State.Canon.wake (h : s.Canon) : (s.wake k x).Canon :=
  .storedAnswers (h.formClaims.openInbox.foldl fun _ _ hs => .ite hs.startWalk hs)

theorem State.Canon.seatCohort (h : s.Canon) {g : Cohort} {ps : List Nat} {seats : List (SaveRec × Nat × Nat)} :
    (s.seatCohort n g c ps seats).Canon := h

theorem State.Canon.resumeAt (h : s.Canon) {g : Cohort} {recs : List (Nat × Nat × SaveRec)} {ps : List Nat}
    {seats : List (SaveRec × Nat × Nat)} : (s.resumeAt n g recs c ps seats).Canon := by
  have h1 : (recs.foldl (fun s r => s.modCore r.1 fun c => { c with saves := tdel c.saves r.2.1 }) s).Canon :=
    h.foldl fun _ _ hs => hs.modSaves fun _ hc => hc.tdel
  have h2 : (seats.foldl (fun s e =>
      let (r, k, x) := e
      let from_ := ((recs.find? fun q => q.2.2 == r).map fun q => clusterOf q.1).getD c
      let (c, s') := s.movePinsTo from_ (clusterOf k) (s.onCluster from_ (clusterOf k) r.ctx)
      s'.putIn k x r c)
      ((recs.foldl (fun s r => s.modCore r.1 fun c => { c with saves := tdel c.saves r.2.1 }) s).seatCohort n g c ps seats)).Canon :=
    (h1.seatCohort (g := g)).foldl fun _ _ hs => hs.movePinsTo.putIn
  exact h2.foldl fun _ _ hs => hs.wake

theorem State.Canon.execContextResume (h : s.Canon) {slot toCore toCtx : Nat} : Answer.Canon (execContextResume k slot toCore toCtx s) := by
  unfold Machine.execContextResume
  refine Answer.Canon.ite Answer.Canon.fault ?_
  split
  · exact h.next
  · dsimp only
    split
    · split
      · exact h.next
      · refine Answer.Canon.ite h.next ?_
        split
        · exact h.message.next
        · exact h.resumeAt.next
    · exact h.next

theorem State.Canon.execPriorityPreemption (h : s.Canon) : Answer.Canon (execPriorityPreemption d q s) :=
  State.Canon.next (h.foldl fun _ _ hs => hs.schedule)

end

end Sys2Proof.Machine

namespace Sys2Proof.Machine

section
variable {s : State} {k x t n l c a d q id : Nat}

/-! ### Migration (R271, R272) -/

theorem State.Canon.execMigrationRequest (h : s.Canon) {toCore : Nat} : Answer.Canon (execMigrationRequest k x toCore s) := by
  unfold Machine.execMigrationRequest
  refine Answer.Canon.ite Answer.Canon.fault ?_
  split
  · exact Answer.Canon.ite h.next (State.Canon.schedule (h.foldl fun _ _ hs => hs.modCtx)).next
  · exact h.next

theorem State.Canon.frameWord (h : s.Canon) {w : Nat} : (s.frameWord k x t w).2.Canon := by
  unfold State.frameWord
  dsimp only
  split
  next e => exact h.peek64.of_eq e
  next e => exact (h.peek64.of_eq e).draw1

theorem State.Canon.liveValues (h : s.Canon) {f : LFunc} {e : PEntry} : (s.liveValues k x t f e).2.Canon := by
  refine State.Canon.foldl_snd h fun p l hp => ?_
  dsimp only
  split
  · exact hp
  · exact State.Canon.foldl_snd (p := (([] : List Word), p.2)) hp fun _ _ hr => hr.frameWord
  · exact hp

theorem State.Canon.copyVRows (h : s.Canon) {toCore : Nat} : (s.copyRows k x toCore).Canon :=
  .ite h (h.foldl fun _ _ hs => hs.homeArrive)

theorem State.Canon.carried (h : s.Canon) {m : Mover} : (s.carried m).2.Canon := by
  refine State.Canon.foldl_snd h fun p t hp => ?_
  dsimp only
  split
  · exact hp
  · split
    next e =>
      have h1 := hp.askStub.of_eq e
      split
      · refine .ite_snd h1 ?_
        split
        · exact h1.liveValues
        · exact h1
      · exact h1
    next e => exact hp.askStub.of_eq e
    next e => exact hp.askStub.of_eq e

theorem State.Canon.captureTraps (h : s.Canon) {m : Mover} {v : Carried} : (s.captureTraps m v).Canon :=
  have h2 := (h.foldl fun _ _ hs => hs.trapParked).foldl fun _ _ hs => hs.trapParked
  .ite h2 h2.modCtx

/-- The members of a cohort are captured one after another. -/
theorem State.Canon.carryAll (h : s.Canon) {ms : List Mover} {vs : List (Mover × Carried)} :
    (ms.foldl (fun (acc : List (Mover × Carried) × State) m => (acc.1 ++ [(m, (acc.2.carried m).1)], (acc.2.carried m).2)) (vs, s)).2.Canon :=
  State.Canon.foldl_snd (p := (vs, s)) h fun p _ (hp : p.2.Canon) => by exact hp.carried

theorem State.Canon.trapAll (h : s.Canon) {vs : List (Mover × Carried)} : (vs.foldl (fun s e => s.captureTraps e.1 e.2) s).Canon :=
  h.foldl fun _ _ hs => hs.captureTraps

theorem State.Canon.migrateNow (h : s.Canon) {g : Cohort} {ps : List Nat} {ms : List (Mover × List (Nat × Pc × PEntry × List LiveVal))} :
    (s.migrateNow n g c ps ms).Canon := by
  unfold State.migrateNow
  refine State.Canon.foldl (.foldl (.seatCohort (.foldl (.foldl_snd h.flushIdle ?_) ?_)) ?_) ?_
  · exact fun _ _ hp => hp.takeOut.movePinsTo
  · exact fun _ _ hs => hs.putIn
  · exact fun _ _ hs => hs.foldl fun _ _ hs => hs.foldl fun _ _ hs => hs.storeAcc
  · exact fun _ _ hs => hs.wake

theorem State.Canon.giveUp (h : s.Canon) {ms : List (Nat × Nat)} : (s.giveUp ms).Canon := h.foldl fun _ _ hs => hs.modCtx

theorem State.Canon.execMigrationCapture (h : s.Canon) : Answer.Canon (execMigrationCapture k x s) := by
  unfold Machine.execMigrationCapture
  dsimp only
  split
  · split
    · exact h.next
    · refine Answer.Canon.ite (State.Canon.schedule (h.foldl fun _ _ hs => hs.modCtx)).next ?_
      next w _ _ _ _ _ =>
      have h1 := h.foldl (l := s.members w.cohort) fun _ m hs => hs.stopCtx (k := m.1) (x := m.2)
      refine Answer.Canon.ite h1.schedule.next ?_
      split
      · exact h1.schedule.next
      · refine Answer.Canon.ite (State.Canon.schedule (h1.foldl fun _ _ hs => hs.copyVRows.modCtx)).next ?_
        exact Answer.Canon.ite h1.carryAll.trapAll.giveUp.next
          (Answer.Canon.ite h1.carryAll.trapAll.schedule.next h1.carryAll.trapAll.migrateNow.next)
  · exact h.next

/-! ### Resets, wipes and life cycle (R21 to R23, R282 to R285) -/

theorem State.Canon.wiped {pend : Option LifeCycle} : (s.wiped pend).Canon := rfl

theorem State.Canon.execDeviceReset {kind : ResetKind} : Answer.Canon (execDeviceReset kind s) := State.Canon.wiped.next

theorem State.Canon.aer (h : s.Canon) {cause : Nat} : (s.aer cause).Canon := h

theorem State.Canon.reply (h : s.Canon) {ok : Bool} : (s.reply ok).Canon := h

theorem State.Canon.execWipeComplete (h : s.Canon) : Answer.Canon (execWipeComplete s) := by
  refine Answer.Canon.ite h.next (State.Canon.next (.ite ?_ (.aer ?_)))
  · exact h
  · exact h

theorem State.Canon.execThermalStop (h : s.Canon) : Answer.Canon (execThermalStop d s) :=
  Answer.Canon.ite Answer.Canon.fault (State.Canon.next h)

theorem State.Canon.execLifeCycleChange (h : s.Canon) {next : LifeCycle} : Answer.Canon (execLifeCycleChange next s) :=
  Answer.Canon.ite h.next (Answer.Canon.ite h.reply.next State.Canon.wiped.next)

theorem State.Canon.execPowerLossDuringWipe (h : s.Canon) : Answer.Canon (execPowerLossDuringWipe s) :=
  State.Canon.next (.ite .wiped h)

/-! ### Partitions (R268) -/

theorem State.Canon.execPartitionCreate (h : s.Canon) {req : PartReq} : Answer.Canon (execPartitionCreate req s) := by
  refine Answer.Canon.ite h.next (Answer.Canon.ite h.reply.next ?_)
  exact h

theorem Core.canon_wiped {c : Core} : c.wiped.Canon := rfl

theorem State.Canon.execPartitionReset (h : s.Canon) : Answer.Canon (execPartitionReset n s) := by
  unfold Machine.execPartitionReset
  split
  · exact h.next
  · next p _ =>
    have h1 : ({ s with
        cores := s.cores.map fun c => if p.clusters.contains (clusterOf c.1) then (c.1, c.2.wiped) else c
        phys := s.phys.without fun k => p.clusters.contains (clusterOf k) } : State).Canon := by
      obtain ⟨hp, hc⟩ := State.canon_iff.1 h
      refine State.canon_iff.2 ⟨Memory.wf_filter _ hp, fun c hm => ?_⟩
      obtain ⟨c0, h0, rfl⟩ := List.mem_map.1 hm
      split
      · exact Core.canon_wiped
      · exact hc _ h0
    refine State.Canon.next (.foldl (.foldl ?_ fun _ _ hs => hs.modQueue) fun _ _ hs => hs.schedule)
    exact h1

theorem State.Canon.execPartitionSwap (h : s.Canon) : Answer.Canon (execPartitionSwap n l s) := by
  unfold Machine.execPartitionSwap
  split
  · refine Answer.Canon.ite h.next ?_
    next o _ _ _ =>
    have h1 := h.foldl (l := s.queuesOf o) fun _ q hs => hs.suspendQueue (d := q.1) (q := q.2)
    dsimp only
    split
    next e => exact (h1.preempt.of_eq e).schedule.next
    next e =>
      have h2 := h1.preempt.of_eq e
      refine State.Canon.next (.foldl (.foldl ?_ fun _ _ hs => hs.message) fun _ _ hs => hs.resumeQueue)
      exact h2
  · exact h.next

/-! ### Checkpoint and loss of a die (R273, R274) -/

theorem State.Canon.putStk (h : s.Canon) {key v : Nat} : (s.putStk key a v).Canon := h.putPillar

theorem State.Canon.localCopy (h : s.Canon) {half gen key : Nat} : (s.localCopy k half gen key).Canon := by
  unfold State.localCopy
  dsimp only
  split
  next e => exact (h.putStk.stkCopy.of_eq e).putStk
  next e => exact h.putStk.stkCopy.of_eq e

theorem State.Canon.buddyCopy (h : s.Canon) {half key dev : Nat} : (s.buddyCopy k half key dev).Canon := h

theorem State.Canon.execCheckpoint (h : s.Canon) {gen : Nat} : Answer.Canon (execCheckpoint n gen s) := by
  unfold Machine.execCheckpoint
  split
  · exact h.next
  · refine Answer.Canon.ite h.reply.next ?_
    dsimp only
    refine State.Canon.next (.ite (.reply (.foldl ?_ fun _ _ hs => hs.buddyCopy)) (.reply ?_))
    · exact State.Canon.podTakes (.draw1 (h.foldl fun _ _ hs => hs.localCopy))
    · exact State.Canon.podTakes (.draw1 (h.foldl fun _ _ hs => hs.localCopy))

theorem State.Canon.endLost (h : s.Canon) : (s.endLost n).Canon := by
  unfold State.endLost
  dsimp only
  split
  · exact h.endLaunch.report
  · exact h.endLaunch

theorem State.Canon.execDieLoss (h : s.Canon) {lost : Loss} : Answer.Canon (execDieLoss lost s) := by
  unfold Machine.execDieLoss
  split
  · exact Answer.Canon.ite Answer.Canon.fault (State.Canon.next h)
  · refine Answer.Canon.ite Answer.Canon.fault (State.Canon.next (.modFe (.foldl ?_ fun _ _ hs => hs.abortQueue)))
    next d =>
    have h1 {lns : List Nat} {f : Fabric} {ps : Tab Partition} :
        (lns.foldl (fun (s : State) n => s.endLost n) (({ s with fabric := f, parts := ps } : State).aer aerDie)).Canon := by
      refine State.Canon.foldl ?_ fun _ _ hs => hs.endLost
      exact h
    have h2 {s : State} (h : s.Canon) : ({ s with cores := s.cores.filter fun c => !(dieOf c.1 == d) } : State).Canon :=
      h.setCores fun c hc => (State.canon_iff.1 h).2 c (List.mem_filter.1 hc).1
    exact h2 h1

/-! ### Keys and attestation, scheduling events -/

theorem State.Canon.execKeySlotLoad (h : s.Canon) {key : BitVec 512} : Answer.Canon (execKeySlotLoad n key s) :=
  Answer.Canon.ite Answer.Canon.fault (Answer.Canon.ite h.next (State.Canon.next h))

theorem State.Canon.execAttestationRequest (h : s.Canon) {nonce : List Byte} : Answer.Canon (execAttestationRequest nonce s) :=
  Answer.Canon.ite h.next h.modHost.next

theorem State.Canon.execBinAged (h : s.Canon) : Answer.Canon (execBinAged k x n s) := by
  unfold Machine.execBinAged
  dsimp only
  split
  · exact Answer.Canon.ite h.modCtx.next h.next
  · exact h.next

theorem State.Canon.execDraw (h : s.Canon) : Answer.Canon (execDraw k x s) := by
  unfold Machine.execDraw
  refine Answer.Canon.ite h.next ?_
  split
  · exact h.modCtx.next
  · exact h.next

theorem State.Canon.execQuantumExpiry (h : s.Canon) : Answer.Canon (execQuantumExpiry k s) := by
  unfold Machine.execQuantumExpiry
  dsimp only
  split
  · exact Answer.Canon.ite h.modCtx.modCore.next h.next
  · exact h.modCore.next

theorem State.Canon.execPriorityBoost (h : s.Canon) : Answer.Canon (execPriorityBoost k x s) :=
  Answer.Canon.ite h.modCore.next h.next

theorem State.Canon.execFirmwareCtlSteal (h : s.Canon) : Answer.Canon (execFirmwareCtlSteal k s) :=
  Answer.Canon.ite h.modCore.next h.next

/-! ### Completions -/

theorem State.Canon.takeLates (h : s.Canon) {all : List LateTrap} : (s.takeLates k x all).Canon := h.foldl fun _ _ hs => hs.takeLate

theorem State.Canon.execResultLanding (h : s.Canon) : Answer.Canon (execResultLanding k x s) :=
  Answer.Canon.ite h.modCtx.modCtx.next h.modCtx.takeLates.next

theorem State.Canon.execGranuleCopyComplete (h : s.Canon) : Answer.Canon (execGranuleCopyComplete k x s) := h.modCtx.next

theorem State.Canon.execStashFillComplete (h : s.Canon) : Answer.Canon (execStashFillComplete k x n s) := by
  unfold Machine.execStashFillComplete
  split
  · exact Answer.Canon.ite h.next (Answer.Canon.ite h.schedule.next h.modCtx.next)
  · exact h.next

theorem State.Canon.execFenceComplete (h : s.Canon) : Answer.Canon (execFenceComplete k x s) := by
  unfold Machine.execFenceComplete
  split
  · exact Answer.Canon.ite (State.Canon.next (.ite h.modCtx h.modCtx.releaseDone)) h.next
  · exact h.next

theorem State.Canon.deliverRecords (h : s.Canon) : (deliverRecords k n s).Canon := by
  induction n generalizing s with
  | zero => exact h
  | succ n ih =>
    unfold Machine.deliverRecords
    split
    · split
      · refine ih (.putWords (.modCore ?_))
        exact h
      · exact h
    · exact h

theorem State.Canon.execTrapRecordDelivery (h : s.Canon) : Answer.Canon (execTrapRecordDelivery k s) := h.deliverRecords.next

theorem State.Canon.execFirmwareRestart (h : s.Canon) : Answer.Canon (execFirmwareRestart k s) := by
  unfold Machine.execFirmwareRestart
  split
  · exact h.startFirmware.next
  · exact h.next

/-! ### The host and the links -/

theorem State.Canon.execHostCompletion (h : s.Canon) {ok : Bool} {data : List Byte} : Answer.Canon (execHostCompletion n ok data s) := by
  unfold Machine.execHostCompletion
  split
  · exact h.next
  · exact h.modHost.modCtx.next

theorem State.Canon.execHdmWindowSet (h : s.Canon) {req : HdmReq} : Answer.Canon (execHdmWindowSet req s) := by
  unfold Machine.execHdmWindowSet
  refine Answer.Canon.ite h.next ?_
  split
  · exact h.reply.next
  · exact State.Canon.next (.ite h.reply.modHost h.reply)

theorem State.Canon.execCxlMemRead (h : s.Canon) : Answer.Canon (execCxlMemRead a n s) := by
  unfold Machine.execCxlMemRead
  refine Answer.Canon.ite h.next ?_
  split
  · exact h.next
  · exact Answer.Canon.ite h.message.next h.modHost.next

theorem State.Canon.execCxlMemWrite (h : s.Canon) {data : List Byte} : Answer.Canon (execCxlMemWrite a data s) := by
  unfold Machine.execCxlMemWrite
  refine Answer.Canon.ite h.next ?_
  split
  · exact h.next
  · exact Answer.Canon.ite h.message.next (State.Canon.next (h.foldl fun _ _ hs => hs.homeArrive))

theorem State.Canon.setPort (h : s.Canon) {v : Port} : (s.setPort n v).Canon := h

theorem State.Canon.execFlitReceive (h : s.Canon) {flit : List Byte} : Answer.Canon (execFlitReceive n flit s) := by
  refine Answer.Canon.ite Answer.Canon.fault (Answer.Canon.ite h.next (Answer.Canon.ite h.next (Answer.Canon.ite ?_ ?_)))
  · exact h
  · exact h

theorem State.Canon.checkPorts (h : s.Canon) : s.checkPorts.Canon := by
  unfold State.checkPorts
  generalize (List.range 512).filter _ = ns
  exact .ite h h

theorem State.Canon.execLaneFailure (h : s.Canon) : Answer.Canon (execLaneFailure n s) := by
  unfold Machine.execLaneFailure
  dsimp only
  exact Answer.Canon.ite Answer.Canon.fault (Answer.Canon.ite h.setPort.checkPorts.next (Answer.Canon.ite h.setPort.next h.draw1.setPort.schedule.next))

theorem State.Canon.execRetrainComplete (h : s.Canon) : Answer.Canon (execRetrainComplete n s) := by
  refine Answer.Canon.ite Answer.Canon.fault ?_
  dsimp only
  split
  · exact Answer.Canon.ite h.setPort.next h.next
  · exact h.next

theorem State.Canon.execLinkTraining (h : s.Canon) : Answer.Canon (execLinkTraining n l s) := by
  refine Answer.Canon.ite Answer.Canon.fault (Answer.Canon.ite h.next ?_)
  have h2 {v : Port} {f : Fuses} : (if n = 0 then { s.setPort n v with fuses := f } else s.setPort n v).Canon := .ite h h.setPort
  exact h2

end

end Sys2Proof.Machine

namespace Sys2Proof.Machine

/-! ### Every instruction and every step keeps the canonical form -/

section
variable {s : State} {d q : Nat}

theorem State.Canon.execNopPacket (h : s.Canon) : Answer.Canon (execNopPacket d q s) := h.issuePacket fun _ _ hs => hs.finishPacket

theorem State.Canon.execReturnPacket (h : s.Canon) : Answer.Canon (execReturnPacket d q s) := h.issuePacket fun _ _ hs => hs.finishPacket

theorem State.Canon.execJoin (h : s.Canon) : Answer.Canon (execJoin d q s) := h.issuePacket fun _ _ hs => hs.modQueue.finishPacket

theorem State.Canon.execCallPacket (h : s.Canon) : Answer.Canon (execCallPacket d q s) := h.issuePacket fun _ _ hs => hs.checkEntering

theorem State.Canon.execSignal (h : s.Canon) : Answer.Canon (execSignal d q s) := h.issuePacket fun _ _ hs => hs.finishPacket

theorem State.Canon.execBarrier (h : s.Canon) : Answer.Canon (execBarrier d q s) := by
  unfold Machine.execBarrier
  refine h.issuePacket fun _ _ hs => ?_
  dsimp only
  exact State.Canon.schedule hs.setIssued

theorem State.Canon.execLaunch (h : s.Canon) : Answer.Canon (execLaunch d q s) := h.issuePacket fun _ _ hs => hs.launchWork

end

theorem State.Canon.exec {s : State} (i : Instr) (h : s.Canon) : Answer.Canon (Machine.exec i s) := by
  cases i with
  | deviceReset kind => exact State.Canon.execDeviceReset (s := s) (kind := kind)
  | wipeComplete => exact h.execWipeComplete
  | thermalStop _ => exact h.execThermalStop
  | lifeCycleChange _ => exact h.execLifeCycleChange
  | powerLossDuringWipe => exact h.execPowerLossDuringWipe
  | partitionCreate _ => exact h.execPartitionCreate
  | partitionReset _ => exact h.execPartitionReset
  | loadObject _ _ => exact h.execLoadObject
  | unloadObject _ => exact h.execUnloadObject
  | workgroupStart _ _ => exact h.execWorkgroupStart
  | binAged _ _ _ => exact h.execBinAged
  | draw _ _ => exact h.execDraw
  | quantumExpiry _ => exact h.execQuantumExpiry
  | priorityBoost _ _ => exact h.execPriorityBoost
  | firmwareCtlSteal _ => exact h.execFirmwareCtlSteal
  | preemption _ _ => exact h.execPreemption
  | contextResume _ _ _ _ => exact h.execContextResume
  | resultLanding _ _ => exact h.execResultLanding
  | granuleCopyComplete _ _ => exact h.execGranuleCopyComplete
  | translateRequest _ _ _ _ => exact h.execTranslateRequest
  | translationComplete _ _ => exact h.execTranslationComplete
  | regclmGrant _ => exact h.execRegclmGrant
  | pageWalkComplete _ _ _ => exact h.execPageWalkComplete
  | stashFillComplete _ _ _ => exact h.execStashFillComplete
  | homeWritePerform _ => exact h.execHomeWritePerform
  | renewalAnswer _ _ _ => exact h.execRenewalAnswer
  | collapseRequest _ _ => exact h.execCollapseRequest
  | collapseAnswer _ _ => exact h.execCollapseAnswer
  | promotionRequest _ _ _ => exact h.execPromotionRequest
  | wcbSend _ _ => exact h.execWcbSend
  | rangeEntryExpiry _ _ => exact h.modPhys.next
  | circuitArrival _ _ _ => exact h.execCircuitArrival
  | queueWriteObserved _ _ => exact h.execQueueWriteObserved
  | doorbellWrite _ _ _ => exact h.execDoorbellWrite
  | lookaheadRead _ _ => exact h.execLookaheadRead
  | nopPacket _ _ => exact h.execNopPacket
  | launch _ _ => exact h.execLaunch
  | copy _ _ => exact h.execCopy
  | copyComplete _ _ => exact h.execCopyComplete
  | barrier _ _ => exact h.execBarrier
  | barrierReread _ _ _ => exact h.execBarrierReread
  | signal _ _ => exact h.execSignal
  | callPacket _ _ => exact h.execCallPacket
  | returnPacket _ _ => exact h.execReturnPacket
  | join _ _ => exact h.execJoin
  | cond _ _ => exact h.execCond
  | loop _ _ => exact h.execLoop
  | timestamp _ _ => exact h.execTimestamp
  | packetComplete _ _ _ _ => exact h.execPacketComplete
  | priorityPreemption _ _ => exact h.execPriorityPreemption
  | enable _ _ => exact h.execEnable
  | disable _ _ => exact h.execDisable
  | reset _ _ => exact h.execReset
  | suspend _ _ => exact h.endCommand.suspendQueue.next
  | resume _ _ => exact h.endCommand.resumeQueue.next
  | segmentArrival _ _ => exact h.execSegmentArrival
  | bankAccessComplete _ _ => exact h.execBankAccessComplete
  | rowOpen _ _ => exact h.execRowOpen
  | refreshClose _ _ => exact h.execRefreshClose
  | rowClose _ _ => exact h.execRowClose
  | prechargeEnd _ _ => exact h.execPrechargeEnd
  | engineWorkComplete _ => exact h.modMtx.next
  | slotClearComplete _ => exact h.modMtx.next
  | osclaimGrant _ => exact h.execOsclaimGrant
  | transferStart _ => exact h.execTransferStart
  | transferComplete _ => exact h.execTransferComplete
  | transferFault _ => exact h.execTransferFault
  | loopGeneratorEntry _ _ => exact h.execLoopGeneratorEntry
  | mcastDelivery _ _ _ => exact h.execMcastDelivery
  | redgrpResult _ _ => exact h.execRedgrpResult
  | stkcpyComplete _ => exact h.execStkcpyComplete
  | pbrFetchComplete _ _ _ => exact h.modCtx.next
  | fenceComplete _ _ => exact h.execFenceComplete
  | trapRecordDelivery _ => exact h.execTrapRecordDelivery
  | firmwareRestart _ => exact h.execFirmwareRestart
  | migrationRequest _ _ _ => exact h.execMigrationRequest
  | migrationCapture _ _ => exact h.execMigrationCapture
  | partitionSwap _ _ => exact h.execPartitionSwap
  | checkpoint _ _ => exact h.execCheckpoint
  | dieLoss _ => exact h.execDieLoss
  | hostCompletion _ _ _ => exact h.execHostCompletion
  | cxlMemRead _ _ => exact h.execCxlMemRead
  | cxlMemWrite _ _ => exact h.execCxlMemWrite
  | flitReceive _ _ => exact h.execFlitReceive
  | laneFailure _ => exact h.execLaneFailure
  | retrainComplete _ => exact h.execRetrainComplete
  | linkTraining _ _ => exact h.execLinkTraining
  | attestationRequest _ => exact h.execAttestationRequest
  | keySlotLoad _ _ => exact h.execKeySlotLoad
  | abs _ => exact h.intOp1.next
  | add _ => exact h.intOp2.next
  | and _ => exact h.intOp2.next
  | bfi _ => exact h.produce.next
  | bfx _ => exact h.intOp2.next
  | brev _ => exact h.intOp1.next
  | clz _ => exact h.intOp1.next
  | cmp _ => exact h.intOp2.next
  | accld _ => exact h.accMoveOp.next
  | accst _ => exact h.accMoveOp.next
  | accz _ => exact h.execAccz
  | addc _ => exact h.wideOp.next
  | atom _ => exact h.atomOp.next
  | atomAcq _ => exact h.atomOp.next
  | atomRel _ => exact h.atomOp.next
  | atomAr _ => exact h.atomOp.next
  | barAw _ => exact State.Canon.next (h.barOp fun _ _ _ hs => hs.modMe.parkGroup)
  | barArr _ => exact State.Canon.next (h.barOp fun _ _ _ hs => hs.modMe)
  | barWait _ => exact State.Canon.next (h.barOp fun _ _ _ hs => hs.modMe.parkGroup)
  | bartest _ => exact h.bartestOp.next
  | bartestCtr _ => exact h.bartestOp.next
  | br _ => exact h.takeEdges.next
  | cbr _ _ _ => exact h.takeEdges.next
  | brn _ => exact h.execBrn
  | brk _ => exact h.raiseOp.next
  | call _ => exact h.execCall
  | const _ => exact h.produce.next
  | csrrd _ => exact State.Canon.next (h.runOp fun _ hs => hs.land)
  | csrwr _ => exact h.execCsrwr
  | div _ => exact h.divOp.next
  | evqpop _ => exact h.execEvqpop
  | exit _ => exact h.exitOp.next
  | fadd _ => exact h.floatOp2.next
  | fsub _ => exact h.floatOp2.next
  | fmul _ => exact h.floatOp2.next
  | ffma _ => exact h.floatOp.next
  | fdiv _ => exact h.floatOp.next
  | fmin _ => exact h.floatOp2.next
  | fmax _ => exact h.floatOp2.next
  | fcmp _ => exact h.floatOp.next
  | fcvt _ => exact h.convOp.next
  | fence _ => exact h.execFence
  | fill _ => exact h.loadOp.next
  | freeze _ => exact h.execFreeze
  | frnd _ => exact h.floatOp.next
  | icvt _ => exact h.convOp.next
  | idx _ => exact h.produce.next
  | lcvt _ => exact h.convOp.next
  | ld _ => exact h.loadOp.next
  | ldRng _ => exact h.loadOp.next
  | ldv _ => exact h.loadOp.next
  | lpack _ => exact h.produce.next
  | lunpk _ => exact h.produce.next
  | madc _ => exact h.wideOp.next
  | max _ => exact h.intOp2.next
  | min _ => exact h.intOp2.next
  | mul _ => exact h.intOp2.next
  | mulhi _ => exact h.intOp2.next
  | neg _ => exact h.intOp1.next
  | not _ => exact h.intOp1.next
  | or _ => exact h.intOp2.next
  | popc _ => exact h.intOp1.next
  | rem _ => exact h.divOp.next
  | rot _ => exact h.intOp2.next
  | mcast _ => exact h.collOp.next
  | redgrp _ => exact h.collOp.next
  | mma _ => exact h.execMma
  | mov _ => exact h.execMov
  | nop _ => exact h.next
  | osclaim _ => exact h.execOsclaim
  | osload _ => exact h.execOsload
  | osrel _ => exact h.execOsrel
  | pbr _ => exact h.execPbr
  | pref _ => exact State.Canon.next (h.runOp fun _ hs => hs.foldl fun _ _ hs => hs.prefLane)
  | publish _ => exact h.execPublish
  | recvc _ => exact h.execRecvc
  | reform _ => exact State.Canon.next (h.runOp fun _ hs => .ite hs hs.modMe)
  | regrel _ => exact State.Canon.next (h.runOp fun _ hs => .ite hs.modMe hs.modMe.modHome)
  | regclm _ => exact State.Canon.next (h.runOp fun _ hs => .ite hs hs.parkGroup.formClaims.deadlockCheck)
  | ret _ => exact h.execRet
  | rowact _ => exact h.rowactOp.next
  | rowactForce _ => exact h.rowactOp.next
  | rowcon _ => exact h.rowconOp.next
  | rowconW _ => exact h.rowconOp.next
  | rowcls _ => exact h.execRowcls
  | segset _ => exact h.execSegset
  | sel _ => exact h.produce.next
  | sendc _ => exact h.execSendc
  | sfn _ => exact h.floatOp.next
  | shape _ _ => exact h
  | shfl _ => exact h.produce.next
  | shl _ => exact h.intOp2.next
  | shr _ => exact h.intOp2.next
  | shra _ => exact h.intOp2.next
  | sub _ => exact h.intOp2.next
  | xor _ => exact h.intOp2.next
  | spill _ => exact State.Canon.next (h.asServing fun _ hs => hs.storeOp)
  | st _ => exact h.storeOp.next
  | stv _ => exact h.storeOp.next
  | stmap _ => exact h.execStmap
  | stwb _ => exact h.execStwb
  | stinv _ => exact h.execStinv
  | stkcpy _ => exact h.execStkcpy
  | subb _ => exact h.wideOp.next
  | switch _ _ _ _ => exact h.takeEdges.next
  | ticket _ => exact h.execTicket
  | tlbinv _ => exact h.execTlbinv
  | tnest _ => exact h.execTnest
  | trap _ => exact h.raiseOp.next
  | retry _ => exact h.tretOp.next
  | cont _ => exact h.tretOp.next
  | replay _ => exact h.tretOp.next
  | fail _ => exact h.tretOp.next
  | endThread _ => exact h.tretOp.next
  | endLaunch _ => exact h.tretOp.next
  | vote _ => exact h.produce.next
  | vred _ => exact h.laneOp.next
  | vscan _ _ => exact h.laneOp.next
  | xfer _ => exact h.execXfer
  | xloop _ => exact h.execXloop
  | xstat _ => exact h.execXstat
  | waitid _ => exact h.execWaitid
  | xcancel _ => exact h.execXcancel
  | yield _ => exact State.Canon.next (h.runOp fun _ hs => .ite hs hs.modMe)
  | bankRefresh _ _ => exact h.execBankRefresh
  | compaction _ => exact h.execCompaction
  | hdmWindowSet _ => exact h.execHdmWindowSet

/-- Settles O58: every event of a step, by its own lemma, keeps the memories that it changes in canonical form. -/
theorem stepKeepsMemories : Obligations.StepKeepsMemories := by
  unfold Obligations.StepKeepsMemories
  intro s t h e
  have hstep : Answer.Canon (step s) := State.Canon.machineStep (fun i _ => State.Canon.exec i) h
  rw [e] at hstep
  exact hstep

end Sys2Proof.Machine

namespace Sys2Proof.Machine

section
open Sys2Proof.Claims

/-! ### Stores into the plain scratch of S (R6, R380) -/

@[simp] theorem length_natToBytes (n v : Nat) : (natToBytes n v).length = n := by
  induction n generalizing v with
  | zero => rfl
  | succ n ih => simp [natToBytes, ih]

theorem length_elemBytes (ty : Nat) (es : List Nat) : (elemBytes ty es).length = es.length * tyBytes (elemTy ty) := by
  simp [elemBytes, List.length_flatMap]

theorem State.length_operand (s : State) (o : Op) (l t sel ty : Nat) : (s.operand o l t sel ty).length = o.count ty := by
  unfold State.operand
  dsimp only
  split
  next h => simp_all [Op.count]
  next => simp

/-- Each lane of ST stores as many bytes as its access has. -/
theorem length_of_mem_stores {s : State} {o : Op} {w : Acc × List Byte} (h : w ∈ stores o s) : w.2.length = w.1.n := by
  obtain ⟨e, _, rfl⟩ := List.mem_map.1 h
  exact (length_elemBytes _ _).trans (congrArg (· * _) (s.length_operand ..))

/-! #### Bytes from an address upward -/

theorem bytesAt_append (a : Nat) (bs cs : List Byte) : bytesAt a (bs ++ cs) = bytesAt a bs ++ bytesAt (a + bs.length) cs := by
  simp only [bytesAt, List.zipIdx_append, List.map_append, List.zipIdx_eq_map_add (i := 0 + bs.length), List.map_map]
  congr 1
  refine List.map_congr_left fun p _ => ?_
  refine Prod.ext ?_ rfl
  change a + (0 + bs.length + p.2) = a + bs.length + p.2
  omega

theorem bytesAt_cons (a : Nat) (b : Byte) (bs : List Byte) : bytesAt a (b :: bs) = (a, b) :: bytesAt (a + 1) bs :=
  bytesAt_append a [b] bs

theorem mem_bytesAt {a : Nat} {bs : List Byte} {e : Nat × Byte} (h : e ∈ bytesAt a bs) : a ≤ e.1 ∧ e.1 < a + bs.length := by
  obtain ⟨p, hp, rfl⟩ := List.mem_map.1 h
  have hlt := List.snd_lt_of_mem_zipIdx hp
  dsimp only
  omega

theorem cellPuts_append (m : List Host.Cell) (xs ys : List (Nat × Byte)) : cellPuts m (xs ++ ys) = cellPuts (cellPuts m xs) ys :=
  List.foldl_append

/-- A byte of a run that is written reads as it was written. -/
theorem Memory.cellAt_cellPuts_bytesAt {m : List Host.Cell} {a i : Nat} {bs : List Byte} (w : Memory.wf m) (h : i < bs.length) :
    cellAt (cellPuts m (bytesAt a bs)) (a + i) = bs[i] := by
  induction bs generalizing m a i with
  | nil => cases h
  | cons b bs ih =>
    rw [bytesAt_cons]
    change cellAt (cellPuts (cellPut m a b) (bytesAt (a + 1) bs)) (a + i) = _
    cases i with
    | zero =>
      rw [Memory.cellAt_cellPuts_ne _ _ fun e he => by have := (mem_bytesAt he).1; omega]
      exact Memory.cellAt_cellPut_self a b w
    | succ i =>
      rw [show a + (i + 1) = a + 1 + i by omega]
      exact ih (Memory.wf_cellPut a b w) (Nat.lt_of_succ_lt_succ h)

/-- What the pieces of an access of n bytes write, one after another, is what the access writes. -/
theorem flatMap_pieces (base off : Nat) (bs : List Byte) (f p n : Nat) (hn : bs.length = p - off + n) (hoff : off ≤ p)
    (hf : n ≤ 8 * f - p % 8) :
    (pieces f p n).flatMap (fun pc => bytesAt (base + pc.1) ((bs.drop (pc.1 - off)).take pc.2)) = bytesAt (base + p) (bs.drop (p - off)) := by
  induction f generalizing p n with
  | zero =>
    have : bs.length ≤ p - off := by omega
    simp [pieces, List.drop_of_length_le this, bytesAt]
  | succ f ih =>
    cases n with
    | zero =>
      have : bs.length ≤ p - off := by omega
      simp [pieces, List.drop_of_length_le this, bytesAt]
    | succ n =>
      simp only [pieces, List.flatMap_cons]
      generalize hlen : Nat.min (n + 1) (8 - p % 8) = len
      have hmin : len = min (n + 1) (8 - p % 8) := hlen.symm
      rw [ih (p + len) (n + 1 - len) (by omega) (by omega) (by omega)]
      have hsplit : bs.drop (p - off) = (bs.drop (p - off)).take len ++ bs.drop (p + len - off) := by
        rw [show p + len - off = p - off + len by omega, ← List.drop_drop, List.take_append_drop]
      have htake : ((bs.drop (p - off)).take len).length = len := by
        rw [List.length_take, List.length_drop]
        omega
      rw [hsplit, bytesAt_append, htake, List.take_append_of_le_length (by omega), List.take_of_length_le (by omega), Nat.add_assoc]

/-! #### The stash of a core under stores -/

/-- State t is state s but for the stash of core k, which holds m. -/
def StashIs (s : State) (k : Nat) (m : List Host.Cell) (t : State) : Prop :=
  t = s ∧ m = (s.core k).stash ∨ t = s.modCore k fun c => { c with stash := m }

section
variable {s t : State} {k x : Nat} {m : List Host.Cell}

theorem StashIs.refl (s : State) (k : Nat) : StashIs s k (s.core k).stash s := .inl ⟨rfl, rfl⟩

theorem StashIs.stash (h : StashIs s k m t) : (t.core k).stash = m := by
  obtain ⟨rfl, rfl⟩ | rfl := h
  · rfl
  · rw [State.core_modCore]

theorem StashIs.ctx (h : StashIs s k m t) : t.ctx k x = s.ctx k x := by
  obtain ⟨rfl, rfl⟩ | rfl := h
  · rfl
  · simp [State.ctx, Core.ctx]

theorem StashIs.putStash (h : StashIs s k m t) (a : Nat) (bs : List Byte) :
    StashIs s k (cellPuts m (bytesAt a bs)) (t.putStash k a bs) := by
  refine .inr ?_
  obtain ⟨rfl, rfl⟩ | rfl := h
  · rfl
  · simp only [State.putStash, State.modCore, tmod_tmod]

theorem State.spotOf_scratch {a : Acc} (h : Scratch s a) {p : Nat × Nat} (hp : p ∈ a.pieces) : t.spotOf s.me a p.1 = .stash (s.me.base 2 + p.1) := by
  simp only [State.spotOf, h.1, if_true, h.2 p hp]

/-- An access to the plain scratch changes its own bytes of the stash and nothing else. -/
theorem StashIs.storeAcc {a : Acc} {bs : List Byte} (h : StashIs s s.cur.1 m t) (ha : Scratch s a) (hn : bs.length = a.n) :
    StashIs s s.cur.1 (cellPuts m (bytesAt (stashAt s a) bs)) (t.storeAcc s.cur.1 s.cur.2 a bs) := by
  have hflat := flatMap_pieces (s.me.base 2) a.off bs (a.n / 8 + 2) a.off a.n (by omega) le_rfl (by omega)
  rw [Nat.sub_self, List.drop_zero] at hflat
  rw [stashAt, ← hflat]
  have hsub : ∀ p ∈ pieces (a.n / 8 + 2) a.off a.n, p ∈ a.pieces := fun _ hp => hp
  unfold State.storeAcc
  rw [Acc.pieces]
  generalize pieces (a.n / 8 + 2) a.off a.n = ps at hsub ⊢
  induction ps generalizing m t with
  | nil => exact h
  | cons p ps ih =>
    rw [List.flatMap_cons, cellPuts_append, List.foldl_cons]
    dsimp only
    rw [h.ctx, show s.ctx s.cur.1 s.cur.2 = s.me from rfl, State.spotOf_scratch ha (hsub p List.mem_cons_self)]
    exact ih (h.putStash _ _) fun q hq => hsub q (List.mem_cons_of_mem _ hq)

end

/-- What the lanes of a store into the plain scratch write, byte by byte, in lane order. -/
def stashWrites (s : State) (ws : List (Acc × List Byte)) : List (Nat × Byte) := ws.flatMap fun w => bytesAt (stashAt s w.1) w.2

section
variable {s t : State} {m : List Host.Cell} {ws : List (Acc × List Byte)}

theorem StashIs.storeAccs (h : StashIs s s.cur.1 m t) (hs : ∀ w ∈ ws, Scratch s w.1) (hn : ∀ w ∈ ws, w.2.length = w.1.n) :
    StashIs s s.cur.1 (cellPuts m (stashWrites s ws)) (ws.foldl (fun t w => t.storeAcc s.cur.1 s.cur.2 w.1 w.2) t) := by
  induction ws generalizing m t with
  | nil => exact h
  | cons w ws ih =>
    rw [stashWrites, List.flatMap_cons, cellPuts_append]
    exact ih (h.storeAcc (hs w List.mem_cons_self) (hn w List.mem_cons_self)) (fun v hv => hs v (List.mem_cons_of_mem _ hv))
      fun v hv => hn v (List.mem_cons_of_mem _ hv)

/-- Stores outside of T make no template copy (R60). -/
theorem State.copyFirst_of_scratch {as : List Acc} (hs : ∀ a ∈ as, Scratch s a) : s.copyFirst s.cur.1 s.cur.2 as = s := by
  have hnone : (as.flatMap fun a => if a.seg = 4 then a.pieces.map (·.1 / 256) else []) = [] :=
    List.flatMap_eq_nil_iff.2 fun a ha => by simp [(hs a ha).1]
  unfold State.copyFirst State.newCopies
  simp only [hnone]
  split <;> rfl

theorem stored_of_scratch (hs : ∀ w ∈ ws, Scratch s w.1) (hn : ∀ w ∈ ws, w.2.length = w.1.n) :
    StashIs s s.cur.1 (cellPuts s.home.stash (stashWrites s ws)) (stored s ws) := by
  rw [stored, State.copyFirst_of_scratch (List.forall_mem_map.2 hs)]
  exact (StashIs.refl s s.cur.1).storeAccs hs hn

/-- A store whose sources are readable and whose accesses pass every check writes, lane by lane. -/
theorem storeOp_eq_stored {o : Op} {srcs : List (Nat × Nat)} {align : Nat} (hr : Readable s o srcs)
    (ha : Accepts s .store align (ws.map (·.1))) : storeOp o true srcs align ws s = stored s ws := by
  obtain ⟨htraps, hfaults, hcopies, hholds⟩ := ha
  simp [storeOp, hr.srcTraps, htraps, hfaults, hcopies (by decide), hholds, stored]

/-! #### Reads after the stores -/

theorem stashByte_of_stashIs (h : StashIs s s.cur.1 m t) (a : Nat) : stashByte t a = cellAt m a := by
  have hcur : t.cur = s.cur := by
    obtain ⟨rfl, _⟩ | rfl := h
    · rfl
    · rfl
  rw [stashByte, State.home, State.myCore_eq, hcur, h.stash]

/-- A byte that no lane stores to reads as before. -/
theorem cellAt_stashWrites_ne {a : Nat} (h : ∀ w ∈ ws, a < stashAt s w.1 ∨ stashAt s w.1 + w.2.length ≤ a) :
    cellAt (cellPuts m (stashWrites s ws)) a = cellAt m a := by
  refine Memory.cellAt_cellPuts_ne _ _ fun e he => ?_
  obtain ⟨w, hw, he⟩ := List.mem_flatMap.1 he
  have hin := mem_bytesAt he
  have hout := h w hw
  omega

/-- A byte reads as the last lane that stores to it stored it. -/
theorem cellAt_stashWrites_last {pre post : List (Acc × List Byte)} {w : Acc × List Byte} {i : Nat} (wf : Memory.wf m)
    (hi : i < w.2.length) (h : ∀ v ∈ post, stashAt s w.1 + i < stashAt s v.1 ∨ stashAt s v.1 + v.2.length ≤ stashAt s w.1 + i) :
    cellAt (cellPuts m (stashWrites s (pre ++ w :: post))) (stashAt s w.1 + i) = w.2[i] := by
  have hw : stashWrites s (pre ++ w :: post) = stashWrites s pre ++ (bytesAt (stashAt s w.1) w.2 ++ stashWrites s post) := by
    simp only [stashWrites, List.flatMap_append, List.flatMap_cons]
  rw [hw, cellPuts_append, cellPuts_append, cellAt_stashWrites_ne h]
  exact Memory.cellAt_cellPuts_bytesAt (Memory.wf_cellPuts _ wf) hi

end

/-- Settles O11: the stores come to one write of the stash, byte by byte in lane order. -/
theorem stashStoreFrame : Obligations.StashStoreFrame := by
  unfold Obligations.StashStoreFrame
  intro s t o _ hwf hlegal hext hread hacc hscratch hexec
  have ht : t = stored s (stores o s) := by
    rw [show exec (.st o) s = .next (storeOp o (o.legalD 0x0C1 && o.extOk true true false) [(o.selA, 1), (o.selB, o.regsOf o.ty)]
      (tyBytes (elemTy o.ty)) (stores o s) s) from rfl, hlegal, hext, Bool.and_self, storeOp_eq_stored hread hacc] at hexec
    exact (Host.Outcome.next.inj hexec).symm
  have hstash : StashIs s s.cur.1 (cellPuts s.home.stash (stashWrites s (stores o s))) t :=
    ht ▸ stored_of_scratch hscratch fun _ => length_of_mem_stores
  refine ⟨hstash.imp And.left fun h => ⟨_, h⟩, fun a ha => ?_, fun pre w post hw i hi hpost => ?_, fun key a => ?_⟩
  · rw [stashByte_of_stashIs hstash, cellAt_stashWrites_ne ha, stashByte]
  · rw [stashByte_of_stashIs hstash, hw, cellAt_stashWrites_last hwf hi hpost, List.getElem?_eq_getElem hi]
  · obtain ⟨rfl, _⟩ | rfl := hstash
    · rfl
    · rfl

end

end Sys2Proof.Machine

end

section
-- One proof after another, as in the sections before this one.
set_option Elab.async false

namespace Sys2Proof.Machine

section
open Sys2Proof.Claims

/-! ### Reset and thermal stop (R15, R21) -/

theorem State.keyOf_of_no_keys {s : State} (h : s.keys = []) (i : Nat) : s.keyOf i = 0 := by
  rw [State.keyOf, h]
  exact BitVec.toNat_zero

/-- Settles O57: every field of the reset state stands at its default. -/
theorem resetState : Obligations.ResetState := by
  unfold Obligations.ResetState
  refine ⟨fun _ => rfl, fun _ _ => ⟨rfl, rfl⟩, fun _ _ => rfl, rfl, State.keyOf_of_no_keys rfl, fun _ _ => ⟨rfl, rfl⟩, rfl, rfl,
    fun n h => ?_⟩
  cases h

/-- A device after a thermal stop with no entry due, at whose first pillar line a soft error is to strike. -/
def stoppedStruck : State := { phase := .thermalStop, softErrors := [(0, .line 0)] }

/-- Time passes after a thermal stop too, and a soft error whose time has come marks its line (R135, R254). -/
theorem step_stoppedStruck :
    step stoppedStruck = .next { stoppedStruck with now := cycleLen, softErrors := [], phys := { stoppedStruck.phys with poison := [0] } } := rfl

/-- Refutes O35: after a thermal stop the passage of time still lets soft errors strike, so the clock is not all that moves. -/
theorem not_resetAndWipe : ¬ Obligations.ResetAndWipe := by
  unfold Obligations.ResetAndWipe
  intro h
  obtain ⟨-, -, -, -, -, hstop⟩ := h stoppedStruck
  obtain ⟨-, -, hidle, -⟩ := hstop 0
  have hstep := step_stoppedStruck.symm.trans (hidle rfl rfl)
  exact absurd (congrArg State.softErrors (Host.Outcome.next.inj hstep)) (by decide)

/-! ### Keyed lists under `map` and `filter` -/

theorem tget_filter_key {α : Type} (p : Nat → Bool) (t : Tab α) (k : Nat) :
    tget (t.filter fun e => p e.1) k = if p k then tget t k else none := by
  induction t with
  | nil => simp [tget]
  | cons e r ih =>
    obtain ⟨j, v⟩ := e
    by_cases hj : j = k
    · subst hj
      cases hp : p j <;> simp [tget, hp, ih]
    · cases hp : p j <;> simp [tget, hp, ih, hj]

theorem tget_map_key {α : Type} (f : Nat → α → α) (t : Tab α) (k : Nat) :
    tget (t.map fun e => (e.1, f e.1 e.2)) k = (tget t k).map (f k) := by
  induction t with
  | nil => rfl
  | cons e r ih =>
    obtain ⟨j, v⟩ := e
    by_cases hj : j = k
    · subst hj; simp [tget]
    · simp [tget, hj, ih]

theorem cellAt_eq_tgetD (m : List Host.Cell) (a : Nat) : cellAt m a = tgetD m a 0#8 := by
  induction m with
  | nil => rfl
  | cons e r ih =>
    obtain ⟨j, v⟩ := e
    by_cases hj : j = a
    · simp [cellAt, tgetD, tget, hj]
    · simpa [cellAt, tgetD, tget, hj] using ih

/-! ### Folds of operations on states -/

/-- What each step of a fold leaves unchanged, the fold leaves unchanged. -/
theorem foldl_keeps {σ α β : Type} {f : σ → α → σ} (g : σ → β) (h : ∀ s a, g (f s a) = g s) (l : List α) (s : σ) :
    g (l.foldl f s) = g s :=
  List.foldlRecOn (motive := fun t => g t = g s) l f rfl fun t ht a _ => (h t a).trans ht

/-- A fold that schedules an entry for the present time for each element changes the agenda only, and the entries stand on it. -/
theorem State.foldl_schedule_now (f : Nat → Instr) (ks : List Nat) (s : State) :
    ∃ ag, ks.foldl (fun s k => s.schedule s.now (f k)) s = { s with agenda := ag } ∧ (∀ e ∈ s.agenda, e ∈ ag) ∧
      ∀ k ∈ ks, (s.now, f k) ∈ ag := by
  induction ks generalizing s with
  | nil => exact ⟨s.agenda, rfl, fun _ h => h, fun _ h => nomatch h⟩
  | cons k ks ih =>
    obtain ⟨ag, hag, hold, hnew⟩ := ih (s.schedule s.now (f k))
    refine ⟨ag, hag, fun e he => hold e ((s.mem_schedule _ _ e).2 (.inr he)), fun j hj => ?_⟩
    obtain rfl | hj := List.mem_cons.1 hj
    · exact hold _ ((s.mem_schedule _ _ _).2 (.inl rfl))
    · exact hnew j hj

theorem State.queue_modQueue_ne (s : State) {d q e r : Nat} (f : Queue → Queue) (h : (e, r) ≠ (d, q)) :
    (s.modQueue d q f).queue e r = s.queue e r := by
  simp only [State.queue, State.modQueue_fes]
  by_cases he : e = d
  · subst he
    have hr : r ≠ q := fun hr => h (hr ▸ rfl)
    rw [tgetD_tmod_self, tgetD_tmod_ne _ _ _ hr]
  · rw [tgetD_tmod_ne _ _ _ he]

/-- A fold over queues changes the front ends only, and a field of a queue that every change sets stands in each queue of the fold. -/
theorem State.foldl_modQueue {β : Type} (f : Queue → Queue) (g : Queue → β) (v : β) (hf : ∀ u, g (f u) = v) (qs : List (Nat × Nat))
    (s : State) :
    ∃ fes, qs.foldl (fun s q => s.modQueue q.1 q.2 f) s = { s with fes := fes } ∧
      ∀ q, (q ∈ qs ∨ g (s.queue q.1 q.2) = v) → g (({ s with fes := fes } : State).queue q.1 q.2) = v := by
  induction qs generalizing s with
  | nil => exact ⟨s.fes, rfl, fun q h => h.resolve_left (fun h => nomatch h)⟩
  | cons q qs ih =>
    obtain ⟨fes, hfes, hset⟩ := ih (s.modQueue q.1 q.2 f)
    refine ⟨fes, hfes, fun r hr => hset r ?_⟩
    by_cases hq : r = q
    · subst hq
      exact .inr (by rw [State.queue_modQueue, hf])
    · rw [State.queue_modQueue_ne _ _ (by exact hq)]
      exact hr.imp_left fun hr => (List.mem_cons.1 hr).resolve_left hq

/-! ### What a partition reset leaves (R21) -/

theorem State.core_mapWiped {s t : State} {mine : Nat → Bool}
    (h : t.cores = s.cores.map fun c => if mine c.1 then (c.1, c.2.wiped) else c) (k : Nat) :
    t.core k = if mine k then (s.core k).wiped else s.core k := by
  have hmap : (fun c : Nat × Core => if mine c.1 then (c.1, c.2.wiped) else c) = fun c => (c.1, if mine c.1 then c.2.wiped else c.2) := by
    funext c
    split <;> rfl
  rw [State.core, h, hmap, tgetD, tget_map_key (fun k (c : Core) => if mine k then c.wiped else c), State.core, tgetD]
  cases tget s.cores k with
  | some c => rfl
  | none => split <;> rfl

theorem Phys.raw_without (p : Phys) (gone : Nat → Bool) (pa : Nat) :
    (p.without gone).raw pa = if decide (pa < pillarEnd) && gone (pa / 2 ^ 30) then 0 else p.raw pa := by
  have hget {α : Type} (t : Tab α) : tget (t.filter fun e => !(decide (e.1 < pillarEnd) && gone (e.1 / 2 ^ 30))) pa =
      if !(decide (pa < pillarEnd) && gone (pa / 2 ^ 30)) then tget t pa else none :=
    tget_filter_key (fun a => !(decide (a < pillarEnd) && gone (a / 2 ^ 30))) t pa
  simp only [Phys.raw, Phys.without, cellAt_eq_tgetD, tgetD]
  rw [hget, hget]
  cases decide (pa < pillarEnd) && gone (pa / 2 ^ 30) <;> rfl

/-- The tables, memories and queues of `t` are those that a reset of partition `p`, number `part`, leaves of `s`, and the firmware slots that
ran there start again. -/
structure PartitionGone (s : State) (part : Nat) (p : Partition) (t : State) : Prop where
  cores : t.cores = s.cores.map fun c => if p.clusters.contains (clusterOf c.1) then (c.1, c.2.wiped) else c
  clusters : t.clusters = s.clusters.filter fun c => !p.clusters.contains c.1
  phys : t.phys = s.phys.without fun k => p.clusters.contains (clusterOf k)
  parts : t.parts = tset s.parts part
    { clusters := p.clusters, spare := p.spare, nbv := p.nbv, grant := p.grant, roots := p.roots, swapped := p.swapped }
  objs : t.objs = s.objs.filter fun o => o.2.part != part || o.2.fw
  launches : t.launches = s.launches.filter fun l => l.2.part != part
  disabled : ∀ q ∈ s.queuesOf p, (t.queue q.1 q.2).state = .disabled
  restarts : ∀ c ∈ s.cores, p.clusters.contains (clusterOf c.1) = true → c.2.sel.fwEntry.isSome = true → (c.2.ctx 4).state = .active →
    (s.now, Instr.firmwareRestart c.1) ∈ t.agenda

theorem partitionReset_completes {s : State} {part : Nat} {p : Partition} (hrun : s.phase = .running) (hp : tget s.parts part = some p) :
    Completes (.partitionReset part) s (PartitionGone s part p) := by
  show ∃ t, execPartitionReset part s = .next t ∧ _
  have hfilter : (tget s.parts part).filter (fun _ => s.phase == .running) = some p := by rw [hp, hrun]; rfl
  unfold execPartitionReset
  rw [hfilter]
  dsimp -zeta only
  extract_lets mine ran qs fresh lns s1 s2
  obtain ⟨fes, hfes, hdis⟩ := State.foldl_modQueue
    (fun u => { u with state := .disabled, look := [], stack := [], stopped := false, issued := [] }) Queue.state .disabled (fun _ => rfl) qs s1
  obtain ⟨ag, hag, -, hran⟩ := State.foldl_schedule_now Instr.firmwareRestart ran { s1 with fes := fes }
  refine ⟨_, rfl, ?_⟩
  rw [show s2 = { s1 with fes := fes } from hfes, hag]
  refine ⟨rfl, rfl, rfl, rfl, rfl, rfl, fun q hq => hdis q (.inl hq), fun c hc hk hfw hact => ?_⟩
  refine hran c.1 (List.mem_map_of_mem (List.mem_filter.2 ⟨hc, ?_⟩))
  simp only [mine, hk, hfw, hact, Bool.and_self, beq_self_eq_true]

section
variable {s t : State} {part : Nat} {p : Partition} (h : PartitionGone s part p t)
include h

theorem PartitionGone.core (k : Nat) : t.core k = if clusterOf k ∈ p.clusters then (s.core k).wiped else s.core k := by
  rw [State.core_mapWiped (mine := fun k => p.clusters.contains (clusterOf k)) h.cores]
  simp only [List.contains_iff_mem]

theorem PartitionGone.cluster {c : Nat} (hc : c ∈ p.clusters) : t.cluster c = {} := by
  rw [State.cluster, h.clusters, tgetD, tget_filter_key fun c => !p.clusters.contains c]
  simp [hc]

theorem PartitionGone.raw (pa : Nat) :
    t.phys.raw pa = if pa < pillarEnd ∧ clusterOf (pa / 2 ^ 30) ∈ p.clusters then 0 else s.phys.raw pa := by
  rw [h.phys, Phys.raw_without]
  simp only [Bool.and_eq_true, decide_eq_true_eq, List.contains_iff_mem]

theorem PartitionGone.tget_part : tget t.parts part = some
    { clusters := p.clusters, spare := p.spare, nbv := p.nbv, grant := p.grant, roots := p.roots, swapped := p.swapped } := by
  rw [h.parts, tget_tset_self]

theorem PartitionGone.mem_objs (o : Nat × Obj) : o ∈ t.objs ↔ o ∈ s.objs ∧ (o.2.part ≠ part ∨ o.2.fw = true) := by
  rw [h.objs, List.mem_filter, Bool.or_eq_true, bne_iff_ne]

theorem PartitionGone.mem_launches {l : Nat × Launch} (hl : l ∈ t.launches) : l.2.part ≠ part := by
  rw [h.launches, List.mem_filter, bne_iff_ne] at hl
  exact hl.2

end

/-! ### A swap of partitions (R268) -/

@[simp] theorem State.message_parts (s : State) (i : Instr) : (s.message i).parts = s.parts := rfl
@[simp] theorem State.modLine_parts (s : State) (l : Nat) (f : Line → Line) : (s.modLine l f).parts = s.parts := rfl
@[simp] theorem State.answered_parts (s : State) (id a : Nat) : (s.answered id a).parts = s.parts := rfl

@[simp] theorem State.flushWhere_parts (s : State) (ok : Nat → Bool) : (s.flushWhere ok).parts = s.parts := by
  refine foldl_keeps State.parts (fun s pa => ?_) _ _
  unfold State.bankAccess
  split <;> rfl

@[simp] theorem State.spill_parts (s : State) (l : Nat) : (s.spill l).parts = s.parts := by
  unfold State.spill
  split
  · rfl
  · dsimp only
    split
    · rfl
    · split
      · rw [State.flushWhere_parts, State.draw1_parts]
      · rfl

@[simp] theorem State.performWrite_parts (s : State) (l : Nat) (w : PWrite) : (s.performWrite l w).parts = s.parts := by
  unfold State.performWrite
  cases w.id <;> simp [State.modPhys]

@[simp] theorem State.homeArrive_parts (s : State) (l : Nat) (w : PWrite) : (s.homeArrive l w).parts = s.parts := by
  unfold State.homeArrive
  dsimp only
  split_ifs <;> simp

@[simp] theorem State.putDesc_parts (s : State) (d q : Nat) : (s.putDesc d q).parts = s.parts :=
  foldl_keeps State.parts (fun s l => s.homeArrive_parts l _) _ _

theorem State.resumeQueue_parts (s : State) (d q : Nat) : (s.resumeQueue d q).parts = s.parts := by
  unfold State.resumeQueue
  dsimp only
  split
  · refine (foldl_keeps State.parts (fun s e => ?_) _ _).trans ?_
    · split <;> rfl
    · simp
  · rfl

/-! ### The partition events -/

/-- What a swap begins with: the queues of the outgoing partition stop, and the contexts that run on its clusters are pre-empted. -/
def State.swapOut (s : State) (p : Partition) : Bool × State :=
  let s1 := (s.queuesOf p).foldl (fun s q => s.suspendQueue q.1 q.2) s
  s1.preempt (onClusters s1 p.clusters)

section
variable {s : State}

theorem partitionCreate_of_ok {req : PartReq} (hrun : s.phase = .running) (hok : s.partReqOk req = true) :
    exec (.partitionCreate req) s = .next ({ s.reply true with
      parts := tset s.parts req.id ({
        clusters := req.clusters, spare := req.spare, nbv := req.nbv, grant := req.grant, roots := req.roots
        swapped := req.clusters.any fun c => (s.partOfCluster c).isSome } : Partition) } : State) := by
  show execPartitionCreate req s = _
  simp [execPartitionCreate, hrun, hok]

theorem partitionCreate_of_not_ok {req : PartReq} (hrun : s.phase = .running) (hbad : s.partReqOk req = false) :
    exec (.partitionCreate req) s = .next (s.reply false) := by
  show execPartitionCreate req s = _
  simp [execPartitionCreate, hrun, hbad]

variable {a b : Nat} {p q : Partition} (hp : tget s.parts a = some p) (hq : tget s.parts b = some q) (hout : p.swapped = false)
  (hin : q.swapped = true) (hqp : q.clusters.all p.clusters.contains = true) (hpq : p.clusters.all q.clusters.contains = true)
include hp hq hout hin hqp hpq

/-- A swap of partitions with the same clusters goes on with what its pre-emption has come to. -/
theorem partitionSwap_completes {post : State → Prop}
    (hwait : (s.swapOut p).1 = false → post ((s.swapOut p).2.schedule ((s.swapOut p).2.after 1) (.partitionSwap a b)))
    (hdone : (s.swapOut p).1 = true → ∀ t : State, t.parts =
      tset (tset (s.swapOut p).2.parts a { p with swapped := true }) b { q with swapped := false } → post t) :
    Completes (.partitionSwap a b) s post := by
  show ∃ t, execPartitionSwap a b s = .next t ∧ post t
  unfold execPartitionSwap
  rw [hp, hq]
  simp only [hout, hin, hqp, hpq, Bool.not_true, Bool.and_self, Bool.or_self, Bool.false_eq_true, if_false]
  generalize hr : State.preempt _ _ = r
  have hu : s.swapOut p = r := hr
  rw [hu] at hwait hdone
  obtain ⟨done, u⟩ := r
  cases done with
  | false => exact ⟨_, rfl, hwait rfl⟩
  | true =>
    refine ⟨_, rfl, hdone rfl _ ?_⟩
    exact (foldl_keeps State.parts (fun s (q : Nat × Nat) => s.resumeQueue_parts q.1 q.2) _ _).trans
      (foldl_keeps State.parts (fun s r => s.message_parts _) _ _)

end

/-- Settles O36, event by event: the tables that each writes, and what its folds over cores, queues and contexts leave alone. -/
theorem partitions : Obligations.Partitions := by
  unfold Obligations.Partitions
  intro s
  refine ⟨fun req hrun hok => ?create, fun req hrun hbad => ?refuse, fun part p hrun hp => ?reset, ?swap⟩
  case create =>
    refine ⟨_, partitionCreate_of_ok hrun hok, ⟨_, tget_tset_self _ _ _, rfl, rfl, rfl, rfl, rfl, rfl, ?_⟩,
      fun i hi => tget_tset_ne _ _ hi, rfl⟩
    exact List.any_eq_true
  case refuse =>
    exact ⟨_, partitionCreate_of_not_ok hrun hbad, rfl⟩
  case reset =>
    obtain ⟨t, hexec, h⟩ := partitionReset_completes hrun hp
    refine ⟨t, hexec, fun k hk => ⟨?_, h.cluster hk, fun pa hpa hk' => ?_⟩, fun k hk => ?_, fun pa hpa => ?_,
      ⟨_, h.tget_part, rfl, rfl, rfl, rfl, rfl, rfl⟩,
      h.mem_objs, fun _ => h.mem_launches, h.disabled, fun c hc hk => h.restarts c hc (List.contains_iff_mem.2 hk)⟩
    · rw [h.core, if_pos hk]
    · subst hk'
      rw [h.raw, if_pos ⟨hpa, hk⟩]
    · rw [h.core, if_neg hk]
    · rw [h.raw, if_neg]
      rintro ⟨hlt, hin⟩
      exact hpa.elim (fun hle => absurd hlt (Nat.not_lt.2 hle)) fun hout => hout hin
  case swap =>
    intro a b p q hp hq hout hin hqp hpq
    have hab : a ≠ b := by
      rintro rfl
      cases hp.symm.trans hq
      exact absurd (hout.symm.trans hin) (by decide)
    refine ⟨fun hr => partitionSwap_completes hp hq hout hin hqp hpq (fun _ => rfl) fun h => absurd (hr.symm.trans h) (by decide),
      fun hr => partitionSwap_completes hp hq hout hin hqp hpq (fun h => absurd (hr.symm.trans h) (by decide)) fun _ t ht => ⟨?_, ?_⟩⟩
    · rw [ht, tget_tset_ne _ _ hab, tget_tset_self]
      rfl
    · rw [ht, tget_tset_self]
      rfl

/-! ### Messages -/

@[simp] theorem State.message_launches (s : State) (i : Instr) : (s.message i).launches = s.launches := rfl
@[simp] theorem State.message_nextLaunch (s : State) (i : Instr) : (s.message i).nextLaunch = s.nextLaunch := rfl

/-- A message is on the agenda at a later time. -/
theorem State.message_later (s : State) (i : Instr) : ∃ at_, s.now < at_ ∧ (at_, i) ∈ (s.message i).agenda := by
  refine ⟨s.now + tickTime (1 + Config.free s.freeCtr % 100), ?_, (State.mem_schedule _ _ _ _).2 (.inl rfl)⟩
  simp only [tickTime, tickLen]
  omega

theorem State.mem_message (s : State) (i : Instr) {e : Nat × Instr} (h : e ∈ s.agenda) : e ∈ (s.message i).agenda :=
  (State.mem_schedule _ _ _ _).2 (.inr h)

/-- Of messages sent one after another each is on the agenda at a later time. -/
theorem State.foldl_message_later (f : Nat → Instr) {ks : List Nat} {k : Nat} (hk : k ∈ ks) (s : State) :
    ∃ at_, s.now < at_ ∧ (at_, f k) ∈ (ks.foldl (fun s k => s.message (f k)) s).agenda := by
  induction ks generalizing s with
  | nil => cases hk
  | cons j ks ih =>
    obtain rfl | hk := List.mem_cons.1 hk
    · obtain ⟨at_, hlt, hmem⟩ := s.message_later (f k)
      exact ⟨at_, hlt, List.foldlRecOn (motive := fun t : State => (at_, f k) ∈ t.agenda) ks _ hmem fun t ht j _ => t.mem_message (f j) ht⟩
    · exact ih hk (s.message (f j))

/-! ### The issue of a packet and the work of a LAUNCH (R241, R243, R249) -/

/-- A well-formed head packet whose SIG and pointers translate starts its work. -/
theorem issuePacket_of_starts {s u : State} {d q : Nat} {ptrs : Packet → List (Word × AccessKind)} {p : Packet}
    (work : Packet → State → State) (h : Starts s d q ptrs p u) : issuePacket d q ptrs work s = .next (work p u) := by
  obtain ⟨hcan, hbad, v, hhead, hsig, hptrs⟩ := h
  unfold issuePacket
  simp only [hcan, hhead, hbad, hsig, hptrs, Bool.not_true, Bool.false_eq_true, if_false, if_true, Bool.and_self]

/-- A LAUNCH whose record's ends translate does its work. -/
theorem launch_completes {s u : State} {d q : Nat} {p : Packet} {post : State → Prop} (h : Starts s d q launchPtrs p u)
    (hpost : post (launchWork d q p u)) : Completes (.launch d q) s post := by
  refine ⟨launchWork d q p u, ?_, hpost⟩
  show issuePacket d q launchPtrs (launchWork d q) s = _
  exact issuePacket_of_starts _ h

/-- A launch is numbered and offered to the agents of its partition. -/
def State.postLaunch (s : State) (l : Launch) : State :=
  State.offerStarts { s with launches := tset s.launches s.nextLaunch l, nextLaunch := s.nextLaunch + 1 } s.nextLaunch

theorem State.offerStarts_keeps {β : Type} (g : State → β) (hg : ∀ s i, g (s.message i) = g s) (s : State) (n : Nat) :
    g (s.offerStarts n) = g s := by
  unfold State.offerStarts
  split
  · split
    · exact foldl_keeps g (fun s k => hg s _) _ _
    · rfl
  · rfl

/-- Every agent that may claim a cohort of a launch hears of the offer at a later time. -/
theorem State.offerStarts_later {s : State} {n : Nat} {l : Launch} {p : Partition} (hl : tget s.launches n = some l)
    (hp : tget s.parts l.part = some p) {c k : Nat} (hc : c ∈ p.clusters) (hk : k ∈ s.claimers l c) :
    ∃ at_, s.now < at_ ∧ (at_, Instr.workgroupStart n k) ∈ (s.offerStarts n).agenda := by
  unfold State.offerStarts
  rw [hl]
  dsimp only
  rw [hp]
  exact State.foldl_message_later (Instr.workgroupStart n) (List.mem_flatMap.2 ⟨c, hc, hk⟩) s

theorem State.postLaunch_launch (s : State) (l : Launch) : tget (s.postLaunch l).launches s.nextLaunch = some l := by
  rw [State.postLaunch, State.offerStarts_keeps State.launches State.message_launches, tget_tset_self]

theorem State.postLaunch_nextLaunch (s : State) (l : Launch) : (s.postLaunch l).nextLaunch = s.nextLaunch + 1 :=
  State.offerStarts_keeps State.nextLaunch State.message_nextLaunch _ _

theorem State.postLaunch_later {s : State} {l : Launch} {p : Partition} (hp : tget s.parts l.part = some p) {c k : Nat}
    (hc : c ∈ p.clusters) (hk : k ∈ s.claimers l c) :
    ∃ at_, s.now < at_ ∧ (at_, Instr.workgroupStart s.nextLaunch k) ∈ (s.postLaunch l).agenda :=
  State.offerStarts_later (s := { s with launches := tset s.launches s.nextLaunch l, nextLaunch := s.nextLaunch + 1 })
    (tget_tset_self ..) hp hc hk

section
variable {s s1 : State} {d q part : Nat} {p : Packet} {ws : List Word} {pt : Partition}

theorem launchWork_of_unbound (h : s.partOfAsid (s.queue d q).asid = none) : launchWork d q p s = s.finishPacket d q p.id (-5) := by
  rw [launchWork, h]

/-- What a LAUNCH whose record has been read comes to: malformed, with a table that is refused, never placed, or offered. -/
theorem launchWork_of_read (hpart : s.partOfAsid (s.queue d q).asid = some part) (hread : readRecord s d q p = (some ws, s1))
    (hpt : tget s1.parts part = some pt) :
    (s1.recordOk part (p.word 3) ws = false → launchWork d q p s = s1.finishPacket d q p.id (-2)) ∧
    (s1.recordOk part (p.word 3) ws = true →
      let w := s1.readTable d (s.queue d q) (gridOf p).1 (gridOf p).2 (wordOf ws 3)
      let never := w.2.unplaceable pt (gridOf p).1 (gridOf p).2 ((p.word 3).extractLsb' 0 9).toNat (wordOf ws 14).toNat
      (∀ v, w.1 = .error v → launchWork d q p s = w.2.finishPacket d q p.id v) ∧
      ∀ table, w.1 = .ok table →
        (never = true → launchWork d q p s = w.2.finishPacket d q p.id (-3)) ∧
        (never = false → launchWork d q p s = w.2.postLaunch (launchOfWords d q part (s.queue d q) p ws table))) := by
  generalize hwork : launchWork d q p s = t
  unfold launchWork at hwork
  dsimp only at hwork
  rw [hpart] at hwork
  dsimp only at hwork
  generalize hr : List.foldl _ (some ([] : List Word), s) (List.range 64) = r at hwork
  obtain rfl : r = (some ws, s1) := hr.symm.trans hread
  dsimp only at hwork
  rw [hpt] at hwork
  dsimp only at hwork
  refine ⟨fun hbad => ?_, fun hok => ?_⟩
  · rw [hbad] at hwork
    exact hwork.symm
  · rw [hok] at hwork
    dsimp only [gridOf]
    generalize State.readTable _ _ _ _ _ _ = w at hwork ⊢
    obtain ⟨_ | table, s2⟩ := w
    · refine ⟨fun v hv => ?_, fun table ht => (nomatch ht)⟩
      cases hv
      exact hwork.symm
    · refine ⟨fun v hv => (nomatch hv), fun t ht => ?_⟩
      cases ht
      exact ⟨fun hn => hwork.symm.trans (if_pos hn), fun hn => hwork.symm.trans (if_neg (ne_true_of_eq_false hn))⟩

theorem State.donePacket_finishPacket (s : State) (d q id : Nat) (v : Int) : DonePacket s (s.finishPacket d q id v) d q id v :=
  (State.mem_schedule _ _ _ _).2 (.inl rfl)

end

/-! ### A context with one thread (R49, R250) -/

/-- The context runs, and its one thread is thread 0, which has not ended and stands at level 0. -/
structure Ctx.Lone (prio budget : Nat) (c : Ctx) : Prop where
  active : c.state = .active
  prio : c.regs.prio = prio
  thread : ∃ th, c.threads = [(0, th)] ∧ th.place ≠ .ended ∧ th.budget = budget ∧ th.level = 0

section
variable {prio budget : Nat} {c : Ctx} (h : c.Lone prio budget)
include h

theorem Ctx.Lone.live : c.live = [0] := by
  obtain ⟨-, -, th, hth, hplace, -, -⟩ := h
  simp [Ctx.live, hth, hplace]

theorem Ctx.Lone.thread_zero : (c.thread 0).budget = budget ∧ (c.thread 0).level = 0 := by
  obtain ⟨-, -, th, hth, -, hbudget, hlevel⟩ := h
  rw [show c.thread 0 = th by rw [Ctx.thread, hth]; rfl]
  exact ⟨hbudget, hlevel⟩

theorem Ctx.Lone.setSeg (n : Nat) (b l : Word) : (c.setSeg n b l).Lone prio budget := ⟨h.active, h.prio, h.thread⟩

theorem Ctx.Lone.segStart (l : Launch) (k share index size : Nat) : (segStart l k share index size c).Lone prio budget :=
  List.foldlRecOn (motive := Ctx.Lone prio budget) _ _ h fun _ hc _ _ => hc.setSeg ..

theorem Ctx.Lone.modThread {f : Thread → Thread} (hplace : ∀ th : Thread, th.place ≠ .ended → (f th).place ≠ .ended)
    (hbudget : ∀ th, (f th).budget = th.budget) (hlevel : ∀ th, (f th).level = th.level) : (c.modThread 0 f).Lone prio budget := by
  obtain ⟨hact, hprio, th, hth, hp, hb, hl⟩ := h
  refine ⟨hact, hprio, f th, ?_, hplace th hp, (hbudget th).trans hb, (hlevel th).trans hl⟩
  rw [Ctx.modThread, hth]
  rfl

theorem Ctx.Lone.file1 (at_ : Nat) (key : BinKey) (t : Nat) : (c.file1 at_ key t).Lone prio budget := by
  unfold Ctx.file1
  split
  · exact ⟨h.active, h.prio, h.thread⟩
  · split <;> exact ⟨h.active, h.prio, h.thread⟩

theorem Ctx.Lone.file (at_ : Nat) (key : BinKey) : (c.file at_ key [0]).Lone prio budget := by
  refine (h.file1 at_ key 0).modThread (fun th _ => ?_) (fun _ => rfl) fun _ => rfl
  show (c.file1 at_ key 0).placeOf 0 ≠ .ended
  unfold Ctx.placeOf
  split <;> decide

theorem Ctx.Lone.mapPc (f : Pc → Pc) : (c.mapPc f).Lone prio budget := by
  obtain ⟨hact, hprio, th, hth, hp, hb, hl⟩ := h
  refine ⟨hact, hprio, th.mapPc f, ?_, hp, hb, hl⟩
  rw [Ctx.mapPc, hth]
  rfl

end

/-- Context x of core k is such a context, and the core has given out so many registers. -/
structure State.Lone (k x prio budget taken : Nat) (s : State) : Prop where
  ctx : (s.ctx k x).Lone prio budget
  taken : (s.core k).taken = taken

/-! ### The entry of a start -/

/-- An entry's question to its stub changes nothing but stubs and the agenda. -/
theorem State.askStub_frame (s : State) (k x : Nat) (key : TKey) (asked : Nat) :
    ∃ cls ag, (s.askStub k x key asked).2 = { s with clusters := cls, agenda := ag } := by
  unfold State.askStub
  dsimp only
  split
  · exact ⟨_, _, rfl⟩
  · split
    · split
      · split <;> exact ⟨_, _, rfl⟩
      · dsimp only
        split <;> exact ⟨_, _, rfl⟩
    · exact ⟨_, _, rfl⟩

@[simp] theorem State.goToTr_cohorts (s : State) (k x t tr : Nat) : (s.goToTr k x t tr).cohorts = s.cohorts := by
  unfold State.goToTr
  dsimp only
  split <;> rfl

theorem State.follow_cohorts (s : State) (k x : Nat) (ts : List Nat) : (s.follow k x ts).cohorts = s.cohorts := by
  refine foldl_keeps State.cohorts (fun s t => ?_) ts s
  dsimp only
  split <;> simp

theorem State.passEntry_cohorts (s : State) (k x tr : Nat) : (s.passEntry k x tr).cohorts = s.cohorts := by
  unfold State.passEntry
  split
  · rfl
  next key _ =>
    obtain ⟨cls, ag, hask⟩ := s.askStub_frame k x key 0
    generalize s.askStub k x key 0 = r at hask
    obtain ⟨ans, s1⟩ := r
    subst hask
    dsimp only
    split
    next e =>
      cases e
      split
      · exact State.follow_cohorts ..
      · exact State.follow_cohorts ..
    next e => cases e; rfl

theorem State.openInbox_cohorts (s : State) (k cohort logical : Nat) : (s.openInbox k cohort logical).cohorts = s.cohorts := by
  refine (foldl_keeps State.cohorts (fun _ _ => ?_) _ _).trans rfl
  rfl

section
variable {s t : State} {k x prio budget taken : Nat} (h : s.Lone k x prio budget taken)
include h

theorem State.Lone.of_cores (e : t.cores = s.cores) : t.Lone k x prio budget taken := by
  have hcore : t.core k = s.core k := by rw [State.core, e, State.core]
  exact ⟨by rw [State.ctx, hcore]; exact h.ctx, by rw [hcore]; exact h.taken⟩

theorem State.Lone.modCtx {f : Ctx → Ctx} (hf : (f (s.ctx k x)).Lone prio budget) : (s.modCtx k x f).Lone k x prio budget taken :=
  ⟨by rw [State.ctx_modCtx]; exact hf, by rw [State.core_modCtx]; exact h.taken⟩

theorem State.Lone.goToTr (tr : Nat) : (s.goToTr k x 0 tr).Lone k x prio budget taken := by
  unfold State.goToTr
  dsimp only
  split
  · exact h
  · exact State.Lone.modCtx (f := fun c => c.modThread 0 fun th => { th with inTr := tr }) (h.of_cores (by rfl))
      (h.ctx.modThread (fun _ hp => hp) (fun _ => rfl) fun _ => rfl)

theorem State.Lone.follow {ts : List Nat} (hts : ∀ t ∈ ts, t = 0) : (s.follow k x ts).Lone k x prio budget taken := by
  refine List.foldlRecOn (motive := State.Lone k x prio budget taken) ts _ h fun s hs t ht => ?_
  obtain rfl := hts t ht
  dsimp only
  split
  · exact hs
  · exact hs.goToTr _

theorem State.Lone.enterEntry (tr : Nat) (t : Trans) : (s.enterEntry k x tr t).Lone k x prio budget taken := by
  refine (h.modCtx (h.ctx.mapPc _)).follow fun u hu => ?_
  have hlive : u ∈ (s.ctx k x).live := List.mem_of_mem_filter hu
  rw [h.ctx.live] at hlive
  exact List.mem_singleton.1 hlive

theorem State.Lone.passEntry : (s.passEntry k x 0).Lone k x prio budget taken := by
  unfold State.passEntry
  split
  · exact h
  next key _ =>
    obtain ⟨cls, ag, hask⟩ := s.askStub_frame k x key 0
    generalize s.askStub k x key 0 = r at hask
    obtain ⟨ans, s1⟩ := r
    subst hask
    dsimp only
    split
    next e =>
      cases e
      rw [if_pos rfl]
      exact State.Lone.enterEntry (h.of_cores (by rfl)) _ _
    next e => cases e; exact h.of_cores rfl

theorem State.Lone.openInbox (cohort logical : Nat) : (s.openInbox k cohort logical).Lone k x prio budget taken := by
  refine List.foldlRecOn (motive := State.Lone k x prio budget taken) _ _ ⟨?_, ?_⟩ fun _ hs _ _ => hs.of_cores rfl
  · rw [State.ctx, State.core_modCore]; exact h.ctx
  · rw [State.core_modCore]; exact h.taken

end

/-! ### The start of a founder (R49, R250) -/

section
variable {s : State} {ln : Nat} {l : Launch}

theorem State.startMember_founder_cohorts (cohort index logical k x budget : Nat) :
    (s.startMember ln l cohort index logical true k x budget).cohorts = s.cohorts := by
  unfold State.startMember
  simp only [Bool.not_true, Bool.and_false, Bool.false_eq_true, if_false, State.openInbox_cohorts, State.passEntry_cohorts]
  rfl

/-- A founder is one thread at level 0, with the registers of its budget. -/
theorem State.startMember_founder_lone {k taken : Nat} (ht : (s.core k).taken = taken) (cohort index logical x budget : Nat) :
    (s.startMember ln l cohort index logical true k x budget).Lone k x l.prio budget (taken + budget) := by
  unfold State.startMember
  simp only [Bool.not_true, Bool.and_false, Bool.false_eq_true, if_false, if_true, Nat.one_mul]
  refine .openInbox (.passEntry ?_) _ _
  refine ⟨?_, ?_⟩
  · rw [State.ctx_modCtx, State.ctx_modCtx]
    refine Ctx.Lone.file (Ctx.Lone.segStart ?_ ..) ..
    exact ⟨rfl, rfl, { budget := budget }, rfl, nofun, rfl, rfl⟩
  · rw [State.core_modCtx, State.core_modCtx, State.core_modCore]
    exact congrArg (· + budget) ht

/-- A cohort of founders stands in the table under the next number, at its seats. -/
theorem State.startCohort_founder_cohort (index rows cols : Nat) (seats : List (Nat × Nat × Nat)) :
    ∃ h, tget (s.startCohort ln l index true rows cols seats).cohorts s.nextCohort = some h ∧ h.launch = ln ∧ h.place = seats.map (·.1) ∧
      h.ctxOf = seats.map (·.2.1) := by
  unfold State.startCohort
  dsimp only
  rw [foldl_keeps State.cohorts fun s e => State.startMember_founder_cohorts ..]
  exact ⟨_, tget_tset_self _ _ _, rfl, rfl, rfl⟩

theorem State.startCohort_founder_lone (index rows cols : Nat) (e : Nat × Nat × Nat) :
    (s.startCohort ln l index true rows cols [e]).Lone e.1 e.2.1 l.prio e.2.2 ((s.core e.1).taken + e.2.2) := by
  unfold State.startCohort
  simp only [List.zipIdx_cons, List.zipIdx_nil, List.foldl_cons, List.foldl_nil]
  exact State.startMember_founder_lone (by rfl) ..

end

/-! ### WORKGROUP_START (R249, R250, R251) -/

section
variable {s : State} {ln k : Nat} {l : Launch} {p : Partition} (hl : tget s.launches ln = some l) (hp : tget s.parts l.part = some p)
  (hend : l.ending = false) (hruns : (p.runs l.wgsize).contains (clusterOf k) = true)
  (hnew : (l.tmpl && l.frozen.isNone && l.founded) = false)
include hl hp hend hruns hnew

theorem workgroupStart_of_waits (hwaits : (p.swapped || s.fwStopped k || s.savedFirst l.part l.prio) = true) :
    exec (.workgroupStart ln k) s = .next (s.message (.workgroupStart ln k)) := by
  show execWorkgroupStart ln k s = _
  simp only [execWorkgroupStart, hl, hp, hend, hruns, hnew, hwaits, Bool.not_true, Bool.or_self, Bool.false_eq_true, if_false, if_true]

variable (hwaits : (p.swapped || s.fwStopped k || s.savedFirst l.part l.prio) = false)
include hwaits

theorem workgroupStart_of_unseated (hseats : s.agentSeats l k = none) :
    exec (.workgroupStart ln k) s = .next (s.waitPlace ln k l p) := by
  show execWorkgroupStart ln k s = _
  simp only [execWorkgroupStart, hl, hp, hend, hruns, hnew, hwaits, hseats, Bool.not_true, Bool.or_self, Bool.false_eq_true, if_false]

variable {seats : List (Nat × Nat × Nat)} (hseats : s.agentSeats l k = some seats)
include hseats

theorem workgroupStart_of_founder (hfounder : (l.tmpl && l.frozen.isNone) = true) :
    exec (.workgroupStart ln k) s = .next (s.startCohort ln l 0 true 1 1 seats) := by
  have hfounded : l.founded = false := by rwa [hfounder, Bool.true_and] at hnew
  show execWorkgroupStart ln k s = _
  simp only [execWorkgroupStart, hl, hp, hend, hruns, hwaits, hseats, hfounder, hfounded, Bool.not_true, Bool.and_false, Bool.or_self,
    Bool.false_eq_true, if_false, if_true]

omit hnew in
/-- The agent takes a ticket from the launch record: it starts the cohort of that number when there is one. -/
theorem workgroupStart_of_ticket (hfounder : (l.tmpl && l.frozen.isNone) = false) {r : Option Word × State}
    (hr : s.rmw64 (s.launchSpace k l) l.rec_ (· + 1) = r) :
    (∀ n : Word, r.1 = some n → n.toNat < l.ncoh → exec (.workgroupStart ln k) s =
      .next ((r.2.startCohort ln l n.toNat false l.rows l.cols seats).message (.workgroupStart ln k))) ∧
    (∀ n : Word, r.1 = some n → l.ncoh ≤ n.toNat → exec (.workgroupStart ln k) s = .next r.2) ∧
    (r.1 = none → exec (.workgroupStart ln k) s = .next r.2) := by
  generalize hexec : exec (.workgroupStart ln k) s = t
  change execWorkgroupStart ln k s = t at hexec
  simp only [execWorkgroupStart, hl, hp, hend, hruns, hwaits, hseats, hfounder, hr, Bool.false_and, Bool.not_true, Bool.or_self, Bool.false_eq_true,
    if_false] at hexec
  obtain ⟨_ | n, s1⟩ := r
  · exact ⟨fun _ h => (nomatch h), fun _ h => (nomatch h), fun _ => hexec.symm⟩
  · refine ⟨fun m hm hlt => ?_, fun m hm hle => ?_, fun h => (nomatch h)⟩
    · cases hm
      exact hexec.symm.trans (if_pos hlt)
    · cases hm
      exact hexec.symm.trans (if_neg (Nat.not_lt.2 hle))

end

theorem State.waitPlace_cores (s : State) (ln k : Nat) (l : Launch) (p : Partition) : (s.waitPlace ln k l p).cores = s.cores := by
  unfold State.waitPlace
  dsimp only
  split <;> rfl

theorem State.waitPlace_later (s : State) (ln k : Nat) (l : Launch) (p : Partition) :
    ∃ at_, s.now < at_ ∧ (at_, Instr.workgroupStart ln k) ∈ (s.waitPlace ln k l p).agenda := by
  unfold State.waitPlace
  dsimp only
  split
  · exact State.message_later (s.schedule _ _) _
  · exact s.message_later _

/-- A priority-0 launch without a placement on any cluster has its request for pre-emption on the agenda (R251). -/
theorem State.waitPlace_preempts {s : State} (ln k : Nat) {l : Launch} {p : Partition} (hprio : l.prio = 0)
    (hnone : ∀ c ∈ p.runs l.wgsize, s.placeNext l c = none) :
    ∃ at_, (at_, Instr.priorityPreemption l.die l.queue) ∈ (s.waitPlace ln k l p).agenda := by
  have hall : ((p.runs l.wgsize).all fun c => (s.placeNext l c).isNone) = true :=
    List.all_eq_true.2 fun c hc => by rw [hnone c hc]; rfl
  unfold State.waitPlace
  simp only [hprio, hall, decide_true, Bool.true_and]
  cases hasked : s.agenda.any fun e => e.2 == .priorityPreemption l.die l.queue with
  | false => exact ⟨s.now, State.mem_message _ _ ((s.mem_schedule _ _ _).2 (.inl rfl))⟩
  | true =>
    obtain ⟨⟨at_, i⟩, he, hi⟩ := List.any_eq_true.1 hasked
    cases eq_of_beq hi
    exact ⟨at_, State.mem_message _ _ he⟩

/-- Settles O48: LAUNCH by what its record, its table and its partition say, WORKGROUP_START by what its agent finds. -/
theorem launchesStart : Obligations.LaunchesStart := by
  unfold Obligations.LaunchesStart
  intro s
  refine ⟨fun d q p u hstarts => ?launch, fun ln l k p hl hp hend hruns => ?start⟩
  case launch =>
    refine ⟨fun hfree => launch_completes hstarts ?_, ?_⟩
    · rw [launchWork_of_unbound hfree]
      exact State.donePacket_finishPacket ..
    · intro part hpart r ws pt hws hpt
      obtain ⟨hmalformed, hwell⟩ := launchWork_of_read hpart (Prod.ext hws rfl : readRecord u d q p = (some ws, r.2)) hpt
      refine ⟨fun hbad => launch_completes hstarts ?_, fun hok => ?_⟩
      · rw [hmalformed hbad]
        exact State.donePacket_finishPacket ..
      · obtain ⟨herror, htable⟩ := hwell hok
        refine ⟨fun v hv => launch_completes hstarts ?_, fun table ht => ?_⟩
        · rw [herror v hv]
          exact State.donePacket_finishPacket ..
        · obtain ⟨hnever, hoffer⟩ := htable table ht
          refine ⟨fun h => launch_completes hstarts ?_, fun h => launch_completes hstarts ?_⟩
          · rw [hnever h]
            exact State.donePacket_finishPacket ..
          · rw [hoffer h]
            exact ⟨_, State.postLaunch_launch .., rfl, rfl, rfl, rfl, rfl, rfl, rfl, rfl, rfl, rfl, State.postLaunch_nextLaunch ..,
              fun hparts c hc k hk => State.postLaunch_later hparts hc hk⟩
  case start =>
    intro founder waits hnew
    refine ⟨fun hwaits => ?_, fun hwaits hseats => ?_, fun seats hwaits hseats => ⟨fun hfounder => ?_, fun hfounder => ?_⟩⟩
    · exact ⟨_, workgroupStart_of_waits hl hp hend hruns hnew hwaits, s.message_later _, rfl⟩
    · exact ⟨_, workgroupStart_of_unseated hl hp hend hruns hnew hwaits hseats, s.waitPlace_later .., s.waitPlace_cores ..,
        State.waitPlace_preempts ln k⟩
    · refine ⟨_, workgroupStart_of_founder hl hp hend hruns hnew hwaits hseats hfounder, rfl, State.startCohort_founder_cohort .., ?_⟩
      rintro e rfl
      obtain ⟨hlone, htaken⟩ := State.startCohort_founder_lone (s := s) (ln := ln) (l := l) 0 1 1 e
      obtain ⟨hbudget, hlevel⟩ := hlone.thread_zero
      exact ⟨hlone.active, hlone.prio, hlone.live, hbudget, hlevel, htaken⟩
    · obtain ⟨htakes, hlast, hfails⟩ := workgroupStart_of_ticket hl hp hend hruns hwaits hseats hfounder rfl
      exact ⟨fun n hn hlt => ⟨_, htakes n hn hlt, rfl⟩, fun n hn hle => ⟨_, hlast n hn hle, rfl⟩, fun hn => ⟨_, hfails hn, rfl⟩⟩

end

end Sys2Proof.Machine

end

section
-- One proof after another, as in the sections before this one.
set_option Elab.async false

namespace Sys2Proof.Machine

section
open Sys2Proof.Claims

/-! ### Folds that establish a fact for each element -/

/-- What a step of a fold establishes for its element, and every step keeps, holds at the end for each element. -/
theorem foldl_establishes {σ α : Type} {f : σ → α → σ} (P : α → σ → Prop) (hset : ∀ s a, P a (f s a))
    (hkeep : ∀ s a b, P a s → P a (f s b)) {l : List α} {a : α} (ha : a ∈ l) (s : σ) : P a (l.foldl f s) := by
  induction l generalizing s with
  | nil => cases ha
  | cons b l ih =>
    obtain rfl | ha := List.mem_cons.1 ha
    · exact List.foldlRecOn (motive := P a) l f (hset s a) fun t ht b _ => hkeep t a b ht
    · exact ih ha (f s b)

theorem mem_nodup (l : List Nat) (y : Nat) : y ∈ nodup l ↔ y ∈ l := by
  suffices H : ∀ acc : List Nat, y ∈ l.foldl (fun acc x => if acc.contains x then acc else acc ++ [x]) acc ↔ y ∈ acc ∨ y ∈ l by
    simpa [nodup] using H []
  induction l with
  | nil => simp
  | cons x l ih =>
    intro acc
    rw [List.foldl_cons, ih, List.mem_cons]
    split
    next hx =>
      have hx : x ∈ acc := List.contains_iff_mem.1 hx
      exact ⟨fun h => h.imp_right .inr, fun h => h.elim .inl fun h => h.elim (fun e => .inl (e ▸ hx)) .inr⟩
    next => rw [List.mem_append, List.mem_singleton, or_assoc]

theorem State.ctx_modCtx_ne (s : State) {k x j y : Nat} (f : Ctx → Ctx) (h : (j, y) ≠ (k, x)) : (s.modCtx k x f).ctx j y = s.ctx j y := by
  simp only [State.ctx]
  by_cases hj : j = k
  · subst hj
    have hy : y ≠ x := fun hy => h (hy ▸ rfl)
    rw [State.core_modCtx, Core.ctx_modCtx_ne _ _ hy]
  · rw [State.modCtx, State.core_modCore_ne _ _ hj]

theorem State.ctx_modCore_of_ctxs (s : State) (k x : Nat) {f : Core → Core} (h : ∀ c, (f c).ctxs = c.ctxs) :
    (s.modCore k f).ctx k x = s.ctx k x := by
  simp only [State.ctx, Core.ctx, State.core_modCore, h]

/-! ### A draw (R33) -/

theorem toLanes_threads (ts : List Nat) : (toLanes ts).map (·.2) = ts := by
  simp [toLanes, Function.comp_def]

theorem tget_toLanes (ts : List Nat) (n : Nat) : tget (toLanes ts) n = ts[n]? := by
  suffices H : ∀ i, tget ((ts.zipIdx i).map fun p => (p.2, p.1)) (i + n) = ts[n]? by
    simpa [toLanes] using H 0
  induction ts generalizing n with
  | nil => simp [tget]
  | cons t ts ih =>
    intro i
    cases n with
    | zero => simp [tget]
    | succ n =>
      have hi : i + (n + 1) = i + 1 + n := by omega
      have hne : i ≠ i + 1 + n := by omega
      simp [tget, hi, hne, ih n (i + 1)]

theorem tget_map_const {α : Type} {ts : List Nat} {t : Nat} (ht : t ∈ ts) (v : α) : tget (ts.map fun t => (t, v)) t = some v := by
  induction ts with
  | nil => cases ht
  | cons u ts ih =>
    by_cases hu : u = t
    · simp [tget, hu]
    · simpa [tget, hu] using ih ((List.mem_cons.1 ht).resolve_left fun e => hu e.symm)

section
variable {f : Thread → Thread} {β : Type} {g : Thread → β} {v : β} {t : Nat}

theorem Ctx.foldl_modThread_sets (hf : ∀ th, g (f th) = v) {ts : List Nat} (ht : t ∈ ts) (c : Ctx) :
    g ((ts.foldl (fun c t => c.modThread t f) c).thread t) = v := by
  refine foldl_establishes (fun t (c : Ctx) => g (c.thread t) = v) (fun c t => ?_) (fun c t u h => ?_) ht c
  · rw [Ctx.thread_modThread, hf]
  · by_cases hu : t = u
    · rw [hu, Ctx.thread_modThread, hf]
    · rw [Ctx.thread_modThread_ne _ _ hu, h]

theorem Ctx.foldl_modThread_keeps (hf : ∀ th, g (f th) = g th) (ts : List Nat) (c : Ctx) :
    g ((ts.foldl (fun c t => c.modThread t f) c).thread t) = g (c.thread t) := by
  refine foldl_keeps (fun c : Ctx => g (c.thread t)) (fun c u => ?_) ts c
  by_cases hu : t = u
  · rw [hu, Ctx.thread_modThread, hf]
  · rw [Ctx.thread_modThread_ne _ _ hu]

theorem Ctx.foldl_modThread_ne {ts : List Nat} (ht : t ∉ ts) (c : Ctx) : (ts.foldl (fun c t => c.modThread t f) c).thread t = c.thread t :=
  List.foldlRecOn (motive := fun d : Ctx => d.thread t = c.thread t) ts _ rfl fun d hd u hu => by
    have hne : t ≠ u := fun e => ht (e ▸ hu)
    rw [Ctx.thread_modThread_ne _ _ hne, hd]

end

section
variable (c : Ctx) (now : Nat)

/-- A claim of an emptied bin moves no thread but those of the overflow list. -/
theorem Ctx.claimOverflow_frame : (c.claimOverflow now).group = c.group ∧ (c.claimOverflow now).latches = c.latches ∧
    ∀ t, (∀ e ∈ c.overflow, e.2 ≠ t) → (c.claimOverflow now).thread t = c.thread t := by
  unfold Ctx.claimOverflow
  split
  next key _ _ _ b _ _ =>
    dsimp only
    refine ⟨foldl_keeps Ctx.group (by intros; rfl) _ _, foldl_keeps Ctx.latches (by intros; rfl) _ _, fun t ht => ?_⟩
    rw [Ctx.foldl_modThread_ne]
    · rfl
    · intro hmem
      obtain ⟨e, he, het⟩ := List.mem_map.1 hmem
      exact ht e (List.mem_filter.1 he).1 het
  next => exact ⟨rfl, rfl, fun _ _ => rfl⟩

variable (binage next b : Nat) (bin : Bin)

/-- The issue group that a draw forms. -/
def drawnGroup (next : Nat) (bin : Bin) : Group :=
  ⟨toLanes (drawn bin), bin.key.pc, next, bin.key.pend.map fun p => ⟨(drawn bin).map fun t => (t, p.target), p.left⟩, none⟩

theorem drawnGroup_pendOf {t : Nat} (ht : t ∈ drawn bin) : (drawnGroup next bin).pendOf t = bin.key.pend := by
  unfold Group.pendOf drawnGroup
  cases bin.key.pend with
  | none => rfl
  | some p => simp [tget_map_const ht]

/-- A draw forms the group of the threads that it takes, which stand there with their registers, and clears the latches. -/
theorem Ctx.drawFrom_group : (c.drawFrom now binage next b bin).group = some (drawnGroup next bin) ∧
    (c.drawFrom now binage next b bin).latches = [] ∧
    ((∀ e ∈ c.overflow, e.2 ∉ drawn bin) → ∀ t ∈ drawn bin, ((c.drawFrom now binage next b bin).thread t).place = .group ∧
      ((c.drawFrom now binage next b bin).thread t).regs = (c.thread t).regs) := by
  unfold Ctx.drawFrom
  extract_lets take left bins delay c1 c2
  have hgroup : c2.group = some (drawnGroup next bin) := foldl_keeps Ctx.group (by intros; rfl) _ _
  have hlatches : c2.latches = [] := foldl_keeps Ctx.latches (by intros; rfl) _ _
  have hover : c2.overflow = c.overflow := foldl_keeps Ctx.overflow (by intros; rfl) _ _
  have hthread : ∀ t ∈ drawn bin, (c2.thread t).place = .group ∧ (c2.thread t).regs = (c.thread t).regs := fun t ht =>
    ⟨Ctx.foldl_modThread_sets (g := Thread.place) (by intros; rfl) ht c1,
      Ctx.foldl_modThread_keeps (g := Thread.regs) (by intros; rfl) take c1⟩
  split
  · obtain ⟨hg, hl, ht⟩ := c2.claimOverflow_frame now
    refine ⟨hg.trans hgroup, hl.trans hlatches, fun hout t hmem => ?_⟩
    rw [ht t fun e he hte => hout e (hover ▸ he) (hte ▸ hmem)]
    exact hthread t hmem
  · exact ⟨hgroup, hlatches, fun _ => hthread⟩

end

/-! ### Bins and the selector (R31-R33, R38-R40) -/

section
variable {s : State} {k x : Nat}

theorem binAged_eq {b : Nat} {bin : Bin} (hb : tget (s.ctx k x).bins b = some bin) : exec (.binAged k x b) s = .next
    (if bin.state = .part ∧ bin.since + cycleLen * (s.ctx k x).regs.binage ≤ s.now then
      s.modCtx k x fun c => { c with bins := tset c.bins b { bin with state := .aged } } else s) := by
  show execBinAged k x b s = _
  simp only [execBinAged, hb, Bool.and_eq_true, beq_iff_eq, decide_eq_true_eq]
  split <;> rfl

theorem draw_eq {b : Nat} {bin : Bin} (hg : (s.ctx k x).group = none) (hb : s.drawBin k x = some (b, bin)) :
    exec (.draw k x) s = .next (s.modCtx k x (·.drawFrom s.now (s.ctx k x).regs.binage 0 b bin)) := by
  show execDraw k x s = _
  simp [execDraw, hg, hb]

theorem quantumExpiry_eq {h : Nat} (hh : (s.core k).sel.holder = some h) : exec (.quantumExpiry k) s = .next
    (if 4096 ≤ (s.core k).sel.held then
      (s.modCtx k h fun c => { c with yields := true }).modCore k fun c => { c with sel := { c.sel with held := 0 } } else s) := by
  show execQuantumExpiry k s = _
  simp only [execQuantumExpiry, hh]
  split <;> rfl

theorem priorityBoost_eq : exec (.priorityBoost k x) s = .next
    (if 65536 ≤ tgetD (s.core k).sel.unserved x 0 then
      s.modCore k fun c => { c with sel := { c.sel with boosted := nodup (c.sel.boosted ++ [x]) } } else s) := by
  show execPriorityBoost k x s = _
  unfold execPriorityBoost
  split <;> rfl

theorem firmwareCtlSteal_eq : exec (.firmwareCtlSteal k) s = .next
    (if 64 ≤ (s.core k).sel.fwWait then s.modCore k fun c => { c with sel := { c.sel with fwSteal := true } } else s) := by
  show execFirmwareCtlSteal k s = _
  unfold execFirmwareCtlSteal
  split <;> rfl

end

/-- Settles O39, event by event: each makes one update of its core, or none before its time. -/
theorem binsAndSelector : Obligations.BinsAndSelector := by
  unfold Obligations.BinsAndSelector
  intro s k x
  refine ⟨fun b bin hb hpart hage => ⟨_, binAged_eq hb, ?aged⟩, fun b bin hb hnot => ⟨_, binAged_eq hb, if_neg ?young⟩,
    fun b bin hg hb hover => ⟨_, draw_eq hg hb, ?draw⟩, fun h hh hheld => ⟨_, quantumExpiry_eq hh, ?expires⟩,
    fun h hh hheld => ⟨_, quantumExpiry_eq hh, if_neg (Nat.not_le.2 hheld)⟩, fun hun => ⟨_, priorityBoost_eq, ?boost⟩,
    fun hun => ⟨_, priorityBoost_eq, if_neg (Nat.not_le.2 hun)⟩, fun hw => ⟨_, firmwareCtlSteal_eq, ?steal⟩,
    fun hw => ⟨_, firmwareCtlSteal_eq, if_neg (Nat.not_le.2 hw)⟩⟩
  case aged =>
    rw [if_pos ⟨hpart, hage⟩]
    beta_reduce
    rw [State.ctx_modCtx]
    exact ⟨⟨_, rfl⟩, tget_tset_self _ _ _, fun j hj => tget_tset_ne _ _ hj, rfl⟩
  case young =>
    exact fun ⟨hpart, hage⟩ => hnot.elim (fun h => h hpart) fun h => Nat.not_le.2 h hage
  case draw =>
    beta_reduce
    rw [State.ctx_modCtx]
    obtain ⟨hgroup, hlatches, hthreads⟩ := (s.ctx k x).drawFrom_group s.now (s.ctx k x).regs.binage 0 b bin
    exact ⟨⟨_, rfl⟩, ⟨_, hgroup, toLanes_threads _, fun n _ => tget_toLanes _ n, rfl, fun _ => drawnGroup_pendOf 0 bin⟩,
      hthreads hover, hlatches⟩
  case expires =>
    rw [if_pos hheld]
    beta_reduce
    rw [State.ctx_modCore_of_ctxs, State.ctx_modCtx, State.core_modCore, State.core_modCtx]
    · exact ⟨rfl, rfl, hh⟩
    · exact fun _ => rfl
  case boost =>
    rw [if_pos hun]
    beta_reduce
    rw [State.core_modCore]
    refine ⟨fun y => ?_, rfl⟩
    rw [mem_nodup, List.mem_append, List.mem_singleton, or_comm]
  case steal =>
    rw [if_pos hw]
    beta_reduce
    rw [State.core_modCore]
    exact ⟨rfl, rfl⟩

/-! ### Pre-emption and migration (R43, R44, R236, R270-R272) -/

section
variable {s : State} {k x : Nat} {w : Wg}

theorem preemption_absent (hk : s.present k = false) : exec (.preemption k x) s = .fault .absentUnit := by
  show execPreemption k x s = _
  simp [execPreemption, hk]

/-- A cohort that has not drained is asked again after a cycle. -/
theorem preemption_waits {u : State} (hk : s.present k = true) (hosts : Hosts s k x w) (hp : s.preempt (s.members w.cohort) = (false, u)) :
    exec (.preemption k x) s = .next (u.schedule (u.after 1) (.preemption k x)) := by
  obtain ⟨hx, hw, hstate⟩ := hosts
  show execPreemption k x s = _
  simp [execPreemption, hk, hw, hstate, Nat.not_le.2 hx, hp]

/-- A cohort that has drained is SAVED, and its resume is asked for. -/
theorem preemption_saves {u : State} (hk : s.present k = true) (hosts : Hosts s k x w) (hp : s.preempt (s.members w.cohort) = (true, u)) :
    Completes (.preemption k x) s fun t => t.cores = u.cores ∧ t.phys = u.phys ∧
      ∀ j n, u.seatOf k (some w) = .saved j n → ∃ at_, u.now < at_ ∧ (at_, Instr.contextResume j n k x) ∈ t.agenda := by
  obtain ⟨hx, hw, hstate⟩ := hosts
  show ∃ t, execPreemption k x s = .next t ∧ _
  simp only [execPreemption, hk, hw, hstate, Nat.not_le.2 hx, hp, Bool.not_true, Bool.false_eq_true, if_false, decide_false, bne_self_eq_false,
    Bool.or_self]
  cases hseat : u.seatOf k (some w) with
  | saved j n =>
    refine ⟨_, rfl, rfl, rfl, fun j' n' e => ?_⟩
    cases e
    exact u.message_later _
  | live j y => exact ⟨_, rfl, rfl, rfl, fun _ _ e => nomatch e⟩
  | gone => exact ⟨_, rfl, rfl, rfl, fun _ _ e => nomatch e⟩

variable {toCore : Nat}

theorem migrationRequest_absent (h : s.present k = false ∨ s.present toCore = false) :
    exec (.migrationRequest k x toCore) s = .fault .absentUnit := by
  show execMigrationRequest k x toCore s = _
  rcases h with h | h <;> simp [execMigrationRequest, h]

theorem migrationRequest_eq {i : Nat} {q : Partition} (hk : s.present k = true) (hto : s.present toCore = true) (hosts : Hosts s k x w)
    (hpart : s.partOfCore k = some (i, q)) : exec (.migrationRequest k x toCore) s = .next
    (if clusterOf toCore ∈ q.clusters ∧ ∀ m ∈ s.members w.cohort, s.migrates m.1 m.2 toCore = true then
      ((s.members w.cohort).foldl (fun s m => s.modCtx m.1 m.2 fun c => { c with migrate := some (toCore, []) }) s).schedule s.now
        (.migrationCapture k x) else s) := by
  obtain ⟨hx, hw, hstate⟩ := hosts
  have hrefused : (!q.clusters.contains (clusterOf toCore) || !(s.members w.cohort).all fun m => s.migrates m.1 m.2 toCore) = true ↔
      ¬(clusterOf toCore ∈ q.clusters ∧ ∀ m ∈ s.members w.cohort, s.migrates m.1 m.2 toCore = true) := by
    rw [Bool.or_eq_true, Bool.not_eq_true', Bool.not_eq_true', ← Bool.not_eq_true, ← Bool.not_eq_true, List.contains_iff_mem, List.all_eq_true,
      not_and_or]
  show execMigrationRequest k x toCore s = _
  simp only [execMigrationRequest, hk, hto, hw, hpart, hstate, Nat.not_le.2 hx, Bool.not_true, Bool.false_eq_true, Bool.or_self, if_false,
    decide_false, bne_self_eq_false, Bool.false_or, hrefused, ite_not]
  split <;> rfl

/-- Every context of a list is told where it migrates to. -/
theorem State.ctx_foldl_migrate {ms : List (Nat × Nat)} {m : Nat × Nat} (hm : m ∈ ms) (s : State) (to_ : Nat × List Nat) :
    ((ms.foldl (fun s m => s.modCtx m.1 m.2 fun c => { c with migrate := some to_ }) s).ctx m.1 m.2).migrate = some to_ := by
  refine foldl_establishes (fun m (s : State) => (s.ctx m.1 m.2).migrate = some to_) (fun s m => ?_) (fun s m n h => ?_) hm s
  · rw [State.ctx_modCtx]
  · by_cases hn : m = n
    · rw [hn, State.ctx_modCtx]
    · rw [State.ctx_modCtx_ne _ _ hn, h]

end

/-! ### The capture of a migrating cohort (R270-R272) -/

/-- The records that the members of a cohort leave with. -/
def State.captureRecs (u : State) (ms : List (Nat × Nat)) : List ((Nat × Nat) × SaveRec) := ms.map fun m => (m, (u.takeOut m.1 m.2).1)

/-- The placement with the wanted core that a capture finds, and the seats of the members under it. -/
def State.captureSeats (u : State) (w : Wg) (h : Cohort) (x toCore : Nat) (ms : List (Nat × Nat)) :
    Option ((Nat × List Nat) × List (SaveRec × Nat × Nat)) :=
  ((u.tries h [clusterOf toCore] w.logical toCore).filter fun e => 12 * e.1 + (e.2[w.logical]?).getD 0 == toCore).findSome? fun e =>
    (u.recordSeats e.2 e.1 w.logical x ((u.captureRecs ms).map (·.2)) fun _ _ => true).map fun ss => (e, ss)

/-- The members with the places that they move to. -/
def State.captureMovers (u : State) (ms : List (Nat × Nat)) (ss : List (SaveRec × Nat × Nat)) : List Mover :=
  (u.captureRecs ms).zip ss |>.map fun p => ⟨p.1.1.1, p.1.1.2, p.2.2.1, p.2.2.2⟩

/-- Every thread of the members is stopped at a safe point. -/
def State.captureSafe (s : State) (ms : List (Nat × Nat)) : Bool :=
  ms.all fun m => (s.ctx m.1 m.2).live.all fun th => s.atSafePoint m.1 m.2 th

/-- The members have drained, and no message of the cohort is on its way. -/
def State.captureClear (u : State) (ms : List (Nat × Nat)) (cohort : Nat) : Bool :=
  ms.all (fun m => u.drained m.1 m.2 && (u.ctx m.1 m.2).inflight.isEmpty) && u.quiet cohort

/-- The members stop at their next bundle boundary. -/
def State.stopAll (s : State) (ms : List (Nat × Nat)) : State := ms.foldl (fun s m => s.stopCtx m.1 m.2) s

/-- The capture is tried again after a cycle. -/
def State.captureAgain (u : State) (k x : Nat) : State := u.schedule (u.after 1) (.migrationCapture k x)

section
variable {s : State} {k x toCore : Nat} {done : List Nat} {w : Wg} {h : Cohort} (hmig : (s.ctx k x).migrate = some (toCore, done))
  (hw : (s.ctx k x).wg = some w) (hcoh : tget s.cohorts w.cohort = some h)
include hmig hw hcoh

/-- Threads on their way to a safe point go on, and the capture is tried again. -/
theorem migrationCapture_of_not_safe (hsafe : s.captureSafe (s.members w.cohort) = false) : exec (.migrationCapture k x) s =
    .next (((s.members w.cohort).foldl (fun s m => s.modCtx m.1 m.2 fun c => { c with stopping := false }) s).captureAgain k x) := by
  unfold State.captureSafe at hsafe
  show execMigrationCapture k x s = _
  simp only [execMigrationCapture, hmig, hw, hcoh, hsafe]
  rfl

variable {u : State} (hsafe : s.captureSafe (s.members w.cohort) = true) (hstop : s.stopAll (s.members w.cohort) = u)
include hsafe hstop

/-- A cohort that has stopped, but has not drained or has no place to go to, is tried again. -/
theorem migrationCapture_waits
    (hwait : u.captureClear (s.members w.cohort) w.cohort = false ∨ u.captureSeats w h x toCore (s.members w.cohort) = none) :
    exec (.migrationCapture k x) s = .next (u.captureAgain k x) := by
  simp only [State.captureSafe, State.stopAll, State.captureClear, State.captureSeats, State.captureRecs] at hsafe hstop hwait
  show execMigrationCapture k x s = _
  simp only [execMigrationCapture, hmig, hw, hcoh, hsafe, hstop, ← Bool.not_and]
  obtain hclear | hnone := hwait
  · simp only [hclear]
    rfl
  · simp only [hnone]
    exact ite_self _

variable {c : Nat} {ps : List Nat} {ss : List (SaveRec × Nat × Nat)} (hclear : u.captureClear (s.members w.cohort) w.cohort = true)
  (hseats : u.captureSeats w h x toCore (s.members w.cohort) = some ((c, ps), ss))
include hclear hseats

/-- The rows of V are copied to the cores where the members go, and the capture is tried again. -/
theorem migrationCapture_copies (hdone : done ≠ (u.captureMovers (s.members w.cohort) ss).map (·.toCore)) :
    exec (.migrationCapture k x) s = .next (((u.captureMovers (s.members w.cohort) ss).foldl (fun t m =>
      (t.copyRows m.core m.ctx m.toCore).modCtx m.core m.ctx fun c =>
        { c with migrate := some (toCore, (u.captureMovers (s.members w.cohort) ss).map (·.toCore)) }) u).captureAgain k x) := by
  simp only [State.captureSafe, State.stopAll, State.captureClear, State.captureSeats, State.captureRecs] at hsafe hstop hclear hseats
  unfold State.captureMovers State.captureRecs at hdone ⊢
  show execMigrationCapture k x s = _
  simp only [execMigrationCapture, hmig, hw, hcoh, hsafe, hstop, ← Bool.not_and, hclear, hseats, bne_iff_ne.2 hdone,
    Bool.not_true, Bool.false_eq_true, if_false, if_true]
  rfl

/-- The capture of a cohort of one member, once the rows of V are copied: it is given up, its threads trap or wait, or it moves. -/
theorem migrationCapture_of_single {m : Mover} (hm : u.captureMovers (s.members w.cohort) ss = [m]) (hdone : done = [m.toCore]) :
    let v := u.carried m
    let t := v.2.captureTraps m v.1
    exec (.migrationCapture k x) s = .next
      (if v.1.lost || !v.1.failed.isEmpty then t.giveUp (s.members w.cohort)
      else if v.1.waits || !v.1.poisoned.isEmpty then t.captureAgain k x
      else t.migrateNow w.cohort h c ps [(m, v.1.vals)]) := by
  intro v t
  simp only [State.captureSafe, State.stopAll, State.captureClear, State.captureSeats, State.captureRecs] at hsafe hstop hclear hseats
  unfold State.captureMovers State.captureRecs at hm
  show execMigrationCapture k x s = _
  simp only [execMigrationCapture, hmig, hw, hcoh, hsafe, hstop, ← Bool.not_and, hclear, hseats, hm, hdone, List.map_cons, List.map_nil,
    bne_self_eq_false, Bool.not_true, Bool.false_eq_true, if_false, List.foldl_cons, List.foldl_nil, List.nil_append, List.any_cons,
    List.any_nil, Bool.or_false]
  split
  next => rfl
  next => split <;> rfl

end

theorem or_not_isEmpty_iff {α : Type} {a : Bool} {l : List α} : (a || !l.isEmpty) = true ↔ a = true ∨ l ≠ [] := by
  rw [Bool.or_eq_true, Bool.not_eq_true', ← Bool.not_eq_true, List.isEmpty_iff]

theorem not_or_not_isEmpty {α : Type} {a : Bool} {l : List α} (ha : a = false) (hl : l = []) : ¬(a || !l.isEmpty) = true := by
  subst ha hl
  exact Bool.false_ne_true

/-- Settles O42: a pre-emption by what its cohort comes to, a request by what its members allow, a capture by what it finds. -/
theorem preemptionAndMigration : Obligations.PreemptionAndMigration := by
  unfold Obligations.PreemptionAndMigration
  intro s k x w hosts ms p
  refine ⟨preemption_absent, fun hk => ⟨fun hp => ⟨_, preemption_waits hk hosts (Prod.ext hp rfl), rfl⟩,
    fun hp => preemption_saves hk hosts (Prod.ext hp rfl)⟩,
    fun toCore hk hto => ⟨fun i q hpart hin hall => ?asked, fun i q hpart hnot => ?refused⟩,
    fun toCore habsent => migrationRequest_absent habsent, ?capture⟩
  case asked =>
    refine ⟨_, (migrationRequest_eq hk hto hosts hpart).trans (congrArg _ (if_pos ⟨hin, hall⟩)), fun m hm => State.ctx_foldl_migrate hm s _,
      (State.mem_schedule _ _ _ _).2 (.inl rfl), ?_⟩
    exact foldl_keeps State.phys (by intros; rfl) ms s
  case refused =>
    refine ⟨_, (migrationRequest_eq hk hto hosts hpart).trans (congrArg _ (if_neg ?_)), rfl⟩
    rintro ⟨hin, hall⟩
    obtain hout | ⟨m, hm, hbad⟩ := hnot
    · exact hout hin
    · exact Bool.false_ne_true (hbad.symm.trans (hall m hm))
  case capture =>
    intro toCore done h hmig hcoh stopped recs hits found safe clear again
    obtain ⟨-, hw, -⟩ := hosts
    refine ⟨fun hsafe => ⟨_, migrationCapture_of_not_safe hmig hw hcoh hsafe, rfl⟩,
      fun hsafe hwait => ⟨_, migrationCapture_waits hmig hw hcoh hsafe rfl hwait, rfl⟩, fun c ps ss hsafe hclear hfound => ?_⟩
    intro movers
    refine ⟨fun hdone => ⟨_, migrationCapture_copies hmig hw hcoh hsafe rfl hclear hfound hdone, rfl⟩, fun m hm hdone => ?_⟩
    intro v u
    have hexec := migrationCapture_of_single hmig hw hcoh hsafe rfl hclear hfound hm hdone
    refine ⟨fun hfails => ⟨_, hexec, if_pos (or_not_isEmpty_iff.2 hfails)⟩, fun hlost hfailed hwaits => ⟨_, hexec, ?_⟩,
      fun hlost hfailed hwaits hpoisoned => ⟨_, hexec, ?_⟩⟩
    · exact (if_neg (not_or_not_isEmpty hlost hfailed)).trans (if_pos (or_not_isEmpty_iff.2 hwaits))
    · exact (if_neg (not_or_not_isEmpty hlost hfailed)).trans (if_neg (not_or_not_isEmpty hwaits hpoisoned))

/-! ### Resume and the victims of a priority-0 launch (R46, R251) -/

section
variable {s : State} {core slot toCore toCtx : Nat}

theorem contextResume_absent (h : s.present toCore = false) : exec (.contextResume core slot toCore toCtx) s = .fault .absentUnit := by
  show execContextResume core slot toCore toCtx s = _
  simp [execContextResume, h]

/-- The placement that a resume finds for a cohort, and the seats of its records under it. -/
def State.resumeSeats (s : State) (core toCore toCtx : Nat) (r : SaveRec) (p : Partition) (n : Nat) (h : Cohort) :
    Option ((Nat × List Nat) × List (SaveRec × Nat × Nat)) :=
  (s.tries h (p.clusters.filter fun c => isWide (12 * c) == isWide core) r.logical toCore).findSome? fun e =>
    (s.recordSeats e.2 e.1 r.logical toCtx ((s.savedOf n).map (·.2.2)) fun r k => r.mayStand k).map fun seats => (e, seats)

variable {r : SaveRec} {w : Wg} {i : Nat} {p : Partition} {h : Cohort}

theorem contextResume_eq (hto : s.present toCore = true) (hr : s.record core slot = some r) (hw : r.ctx.wg = some w)
    (hpart : s.partOfCore core = some (i, p)) (hcoh : tget s.cohorts w.cohort = some h)
    (hlaunch : (s.launchOf r.ctx).map (·.part) = some i) :
    exec (.contextResume core slot toCore toCtx) s = .next
      (if s.startsFirst i r.ctx.regs.prio then s.message (.contextResume core slot toCore toCtx)
      else (s.resumeSeats core toCore toCtx r p w.cohort h).elim (s.message (.contextResume core slot toCore toCtx)) fun e =>
        s.resumeAt w.cohort h (s.savedOf w.cohort) e.1.1 e.1.2 e.2) := by
  obtain ⟨old, hold, -⟩ := Option.map_eq_some_iff.1 hr
  show execContextResume core slot toCore toCtx s = _
  simp only [execContextResume, hto, hold, hr, Option.getD_some, hw, hpart, hcoh, hlaunch, bne_self_eq_false, Bool.not_true,
    Bool.false_eq_true, if_false]
  cases s.startsFirst i r.ctx.regs.prio with
  | true => rfl
  | false =>
    simp only [Bool.false_eq_true, if_false]
    unfold State.resumeSeats
    split
    next he => rw [he]; rfl
    next he => rw [he]; rfl

end

/-- The pre-emption of each context of a list is asked for. -/
def State.askPreemptions (s : State) (vs : List (Nat × Nat)) : State := vs.foldl (fun s v => s.schedule s.now (.preemption v.1 v.2)) s

theorem State.askPreemptions_cores (s : State) (vs : List (Nat × Nat)) : (s.askPreemptions vs).cores = s.cores :=
  foldl_keeps State.cores (by intros; rfl) _ _

theorem State.mem_askPreemptions {vs : List (Nat × Nat)} {v : Nat × Nat} (hv : v ∈ vs) (s : State) :
    (s.now, Instr.preemption v.1 v.2) ∈ (s.askPreemptions vs).agenda := by
  have hnow : (s.askPreemptions vs).now = s.now := foldl_keeps State.now (by intros; rfl) _ _
  rw [← hnow]
  exact foldl_establishes (fun v (s : State) => (s.now, Instr.preemption v.1 v.2) ∈ s.agenda)
    (fun s v => (s.mem_schedule _ _ _).2 (.inl rfl)) (fun s v _ h => (s.mem_schedule _ _ (s.now, .preemption v.1 v.2)).2 (.inr h)) hv s

/-- The victims that a launch asks for when it has no placement and no drain is on in its partition (R251). -/
def State.victimsFor (s : State) (die : Nat) (e : Nat × Launch) : Option (List (Nat × Nat)) :=
  (tget s.parts e.2.part).bind fun p =>
    let draining := s.cores.any fun c => p.clusters.contains (clusterOf c.1) && c.2.ctxs.any (·.2.stopping)
    let seated := (p.runs e.2.wgsize).any fun c => (s.placeNext e.2 c).isSome
    if draining || p.swapped || seated then none else (dieOrder die (p.runs e.2.wgsize)).findSome? (s.victims e.2)

theorem State.victimsFor_of_unplaced {s : State} {die : Nat} {e : Nat × Launch} {p : Partition} (hp : tget s.parts e.2.part = some p)
    (hswap : p.swapped = false) (hdrain : ∀ c ∈ s.cores, clusterOf c.1 ∈ p.clusters → ∀ x ∈ c.2.ctxs, x.2.stopping = false)
    (hplace : ∀ c ∈ p.runs e.2.wgsize, s.placeNext e.2 c = none) :
    s.victimsFor die e = (dieOrder die (p.runs e.2.wgsize)).findSome? (s.victims e.2) := by
  have hdraining : (s.cores.any fun c => p.clusters.contains (clusterOf c.1) && c.2.ctxs.any (·.2.stopping)) = false := by
    refine List.any_eq_false.2 fun c hc => ?_
    rw [Bool.and_eq_true, List.contains_iff_mem, List.any_eq_true]
    rintro ⟨hin, x, hx, hstop⟩
    exact Bool.false_ne_true ((hdrain c hc hin x hx).symm.trans hstop)
  have hseated : ((p.runs e.2.wgsize).any fun c => (s.placeNext e.2 c).isSome) = false :=
    List.any_eq_false.2 fun c hc => by rw [hplace c hc]; decide
  simp only [State.victimsFor, hp, Option.bind_some, hdraining, hswap, hseated, Bool.or_self, Bool.false_eq_true, if_false]

/-- Settles O43: a resume by the placement it finds, a priority-0 launch by the victims of the first one that looks for a place. -/
theorem resumeAndVictims : Obligations.ResumeAndVictims := by
  unfold Obligations.ResumeAndVictims
  intro s
  refine ⟨fun core slot toCore toCtx hto => contextResume_absent hto, fun core slot toCore toCtx r w i p h hto hr hw hpart hcoh hlaunch => ?resume,
    fun die queue e rest p vs htry hp hswap hdrain hplace hvictims => ?victims⟩
  case resume =>
    intro recs found
    have heq := contextResume_eq (toCtx := toCtx) hto hr hw hpart hcoh hlaunch
    have hfound : s.resumeSeats core toCore toCtx r p w.cohort h = found := rfl
    rw [hfound] at heq
    refine ⟨fun hwait => ?_, fun c ps seats hfirst hseats => ⟨_, heq, ?_⟩⟩
    · obtain ⟨at_, hlater, hmem⟩ := s.message_later (.contextResume core slot toCore toCtx)
      refine ⟨_, heq.trans (congrArg _ ?_), at_, hlater, hmem, rfl⟩
      obtain hfirst | hnone := hwait
      · rw [if_pos hfirst]
      · rw [hnone]
        exact ite_self _
    · rw [hfirst, hseats]
      rfl
  case victims =>
    show ∃ t, execPriorityPreemption die queue s = .next t ∧ _
    unfold execPriorityPreemption
    extract_lets trying needy
    have htrying : trying = e :: rest := htry
    have hneedy : needy = vs :: rest.filterMap (s.victimsFor die) := by
      rw [show needy = trying.filterMap (s.victimsFor die) from rfl, htrying,
        List.filterMap_cons_some ((State.victimsFor_of_unplaced hp hswap hdrain hplace).trans hvictims)]
    rw [hneedy]
    exact ⟨_, rfl, fun v hv => s.mem_askPreemptions hv, s.askPreemptions_cores vs⟩

/-! ### The step that issues one op (R37, R123-R131) -/

theorem Answer.andThen_assoc (r : Answer) (f g : State → Answer) : (r.andThen f).andThen g = r.andThen fun t => (f t).andThen g := by
  cases r <;> rfl

/-- An entry of the agenda that is due runs. -/
theorem step_of_due {s : State} {e : Nat × Instr} {r : List (Nat × Instr)} (hphase : s.phase ≠ .thermalStop) (hagenda : s.agenda = e :: r)
    (hdue : e.1 ≤ s.now) : step s = exec e.2 { s with agenda := r } := by
  simp [step, machineStep, hphase, hagenda, hdue, Option.filter]

section
variable {s u : State} {k x : Nat} {ready : List Nat} (h : Turn s u k x ready)
include h

theorem step_of_turn : step s = coreTurn exec k s := by
  obtain ⟨rest, hturn⟩ := h.first
  have hnone : (s.agenda.head?.filter fun e => e.1 ≤ s.now) = none := by
    cases hagenda : s.agenda with
    | nil => rfl
    | cons e r => simp [Option.filter, h.quiet e r hagenda]
  have hrunning := h.running
  simp [step, machineStep, hnone, hrunning, turnStep, hturn]

/-- The chosen context issues, unless the firmware slot has stolen the cycle. -/
theorem coreTurn_of_issues {r : Answer}
    (hsteal : let v := (u.release k ready).serve k x; ((v.core k).sel.fwSteal && v.fwWork k && !v.fwBeside k (v.slotsOf k x)) = false)
    (hattempt : attempt exec k x ((u.release k ready).serve k x) = .issues r) :
    coreTurn exec k s = r.andThen fun w => .next ((countCycle k ready (some (x, .issued)) w).passTurn k
      (some (((u.release k ready).serve k x).slotsOf k x))) := by
  simp only [coreTurn, h.finishing, h.event, h.looked, h.second, h.chosen, hsteal, hattempt, Bool.false_eq_true, if_false]

end

section
variable {s : State} {k x : Nat} {g : Group} {tr : Trans} {b : Bundle} {o : Op} {i : Instr}

theorem groupAt_of_oneOp {pc : Pc} (h : OneOp s k pc tr b o i) : s.groupAt k pc = some ([(pc.off, b)], pc.off + b.size) := by
  obtain ⟨rest, hwords⟩ := h.words
  simp [State.groupAt, h.trans, Trans.groupAt, fetchGroup, hwords, h.stop]

theorem groupOps_single (hb : b.instrs = [(o, .ok i)]) (off : Nat) : groupOps [(off, b)] = [i] := by
  simp [groupOps, hb, Except.toOption]

theorem runGroup_single (ex : Instr → State → Answer) (hb : b.instrs = [(o, .ok i)]) (off next : Nat) (s : State) :
    runGroup ex [(off, b)] next s = ex (answerRow i (s.atBundle off next)) (s.atBundle off next) := by
  simp only [runGroup, hb, runOne]

theorem State.passEntry_of_entered {tr : Nat} (h : s.wantedKey k x tr = none) : s.passEntry k x tr = s := by
  simp only [State.passEntry, h]

theorem State.entryFailed_of_entered (h : s.wantedKey k x g.pc.tr = none) : s.entryFailed k x g = none := by
  simp [State.entryFailed, State.entryFailure, h]

theorem Ctx.answersDue_of_no_spec {c : Ctx} (h : c.spec = none) : c.answersDue = false := by
  simp [Ctx.answersDue, h]

/-- A context before which no wait and no delay stands tries the ops of its one-bundle group. -/
theorem attempt_of_mayIssue {v : State} (h : MayIssue s v k x g) (hop : OneOp v k g.pc tr b o i)
    (hlegal : v.groupLegal k x g [(g.pc.off, b)] = true) (hq : b.hdr.q = false) (hunits : v.unitsBusy k [i] = false) :
    attempt exec k x s = tryGroup exec k x g [(g.pc.off, b)] (g.pc.off + b.size) v := by
  unfold attempt
  extract_lets held sa
  have hctx : sa.ctx k x = { s.ctx k x with hold := none } := s.ctx_modCtx k x _
  have hgroup : (sa.ctx k x).group = some g := by rw [hctx, ← h.group]
  have hspec : (sa.ctx k x).answersDue = false := by rw [hctx]; exact Ctx.answersDue_of_no_spec h.renewals.1
  have hdelays : (sa.ctx k x).delays = [] := by rw [hctx, ← h.delays]
  have hcopied : ¬ sa.now < (sa.ctx k x).mem.tready := by rw [hctx]; exact Nat.not_lt.2 h.copied
  have hwait : sa.waitCause k x g = none := h.wait
  have hentered : sa.wantedKey k x g.pc.tr = none := h.entered
  have hcode : sa.codeHere k x g.pc = true := h.code
  have hparams : sa.writeParams k x g = .ready v := h.params
  simp only [hgroup, hwait, State.passEntry_of_entered hentered, Option.getD_some, State.entryFailed_of_entered hentered, hentered, hcode,
    hspec, hdelays, hcopied, hparams, groupAt_of_oneOp hop, hlegal, hq, groupOps_single hop.only, hunits, Option.isSome_none, Bool.not_true,
    Bool.and_false, Bool.false_and, Bool.false_eq_true, if_false, List.any_cons, List.any_nil, Bool.or_self]

/-- A group of one op that neither waits for a carried result nor holds its bundle issues, and goes on behind it. -/
theorem tryGroup_of_oneOp (hb : b.instrs = [(o, .ok i)]) (hcharged : (s.ctx k x).charged = true) (hspec : (s.ctx k x).spec = none)
    (off next : Nat) :
    let start := s.modCtx k x fun c => { (c.passWindows.enterShadows s.now) with second := twoCycle k g [i] }
    let at_ := start.atBundle off next
    let r := exec (answerRow i at_) at_
    let last := Answer.stateOr r start
    s.carryWait last k x g [off] [i] = false → (last.ctx k x).hold = none →
    tryGroup exec k x g [(off, b)] next s =
      .issues (Answer.andThen r fun w => .next (finishGroup k x b.hdr.b [off] [i] (start.ctx k x) w)) := by
  dsimp only
  intro hcarry hhold
  unfold tryGroup
  simp only [groupOps_single hb, runGroup_single exec hb, hcharged, Ctx.answersDue_of_no_spec hspec, List.map_cons, List.map_nil, if_true,
    Bool.false_and, Bool.false_eq_true, if_false, List.any_cons, List.any_nil, Bool.or_false, hcarry, hhold]

end

/-- Settles O56: a due entry runs as it stands, and in a turn the chosen context's attempt comes to the issue of its op. -/
theorem stepRunsDecoded : Obligations.StepRunsDecoded := by
  unfold Obligations.StepRunsDecoded
  intro s
  refine ⟨fun e r => step_of_due, fun k x ready u g tr b o i v hturn hmay hop hlegal hq hunits => ?_⟩
  intro start at_ r last hcarry hhold
  have hattempt := (attempt_of_mayIssue hmay hop hlegal hq hunits).trans
    (tryGroup_of_oneOp hop.only hmay.charged hmay.renewals.2 g.pc.off (g.pc.off + b.size) hcarry hhold)
  rw [step_of_turn hturn, coreTurn_of_issues hturn hmay.steal hattempt, Answer.andThen_assoc]
  rfl

end
end Sys2Proof.Machine
end

section
-- One proof after another, as in the sections before this one.
set_option Elab.async false

namespace Sys2Proof.Machine

section
open Sys2Proof.Claims

/-! ### Filing (R29, R30) -/

/-- What a step of a fold establishes for one element, and every step keeps, holds at the end, all under an invariant. -/
theorem foldl_establishes_under {σ α : Type} {f : σ → α → σ} {I P : σ → Prop} {a : α} (hset : ∀ s, I s → P (f s a))
    (hkeep : ∀ s b, I s → P s → P (f s b)) (hinv : ∀ s b, I s → I (f s b)) {l : List α} (ha : a ∈ l) {s : σ} (hs : I s) :
    P (l.foldl f s) := by
  induction l generalizing s with
  | nil => cases ha
  | cons b l ih =>
    obtain rfl | ha := List.mem_cons.1 ha
    · exact (List.foldlRecOn (motive := fun t => I t ∧ P t) l f ⟨hinv s a hs, hset s hs⟩
        fun t ⟨hi, hp⟩ b _ => ⟨hinv t b hi, hkeep t b hi hp⟩).2
    · exact ih ha (hinv s b hs)

theorem mem_tset_of_ne {α : Type} {t : Tab α} {k : Nat} {e : Nat × α} (v : α) (he : e ∈ t) (hk : e.1 ≠ k) : e ∈ tset t k v := by
  induction t with
  | nil => cases he
  | cons d r ih =>
    obtain ⟨j, w⟩ := d
    unfold tset
    split
    · exact List.mem_cons_of_mem _ he
    · split
      next hj => exact List.mem_cons_of_mem _ ((List.mem_cons.1 he).resolve_left fun h => hk (h ▸ hj.symm))
      next => exact List.mem_cons.2 ((List.mem_cons.1 he).imp_right ih)

theorem mem_tset_self {α : Type} (t : Tab α) (k : Nat) (v : α) : (k, v) ∈ tset t k v := mem_of_tget (tget_tset_self t k v)

/-- The keys of a list rise, as those of `tset` do. -/
def Rises {α : Type} (t : Tab α) : Prop := t.Pairwise fun a b => a.1 < b.1

theorem Rises.tset {α : Type} {t : Tab α} (h : Rises t) (k : Nat) (v : α) : Rises (tset t k v) := by
  induction t with
  | nil => exact List.pairwise_singleton _ _
  | cons d r ih =>
    obtain ⟨j, w⟩ := d
    obtain ⟨hj, hr⟩ := List.pairwise_cons.1 h
    unfold Machine.tset
    split
    next hk => exact List.pairwise_cons.2 ⟨fun e he => (List.mem_cons.1 he).elim (fun h => h ▸ hk) fun he => hk.trans (hj e he), h⟩
    next hk =>
      split
      next hkj => exact List.pairwise_cons.2 ⟨fun e he => hkj ▸ hj e he, hr⟩
      next hkj =>
        refine List.pairwise_cons.2 ⟨fun e he => ?_, ih hr⟩
        obtain rfl | he := mem_tset he
        · show j < k
          omega
        · exact hj e he

theorem Rises.tget_of_mem {α : Type} {t : Tab α} (h : Rises t) {e : Nat × α} (he : e ∈ t) : tget t e.1 = some e.2 := by
  induction t with
  | nil => cases he
  | cons d r ih =>
    obtain ⟨hd, hr⟩ := List.pairwise_cons.1 h
    obtain rfl | he := List.mem_cons.1 he
    · exact if_pos rfl
    · exact (if_neg (hd e he).ne).trans (ih hr he)

theorem firstNat_some {p : Nat → Bool} {n k j : Nat} (h : firstNat p n k = some j) : p j = true := by
  induction n generalizing k with
  | zero => cases h
  | succ n ih =>
    unfold firstNat at h
    split at h
    next hk => exact Option.some.inj h ▸ hk
    next => exact ih h

theorem Ctx.tget_emptyBin {c : Ctx} {b : Nat} (h : c.emptyBin = some b) : tget c.bins b = none :=
  Option.isNone_iff_eq_none.1 (firstNat_some h)

theorem Ctx.binKeyed_some {c : Ctx} {key : BinKey} {e : Nat × Bin} (h : c.binKeyed key = some e) :
    e ∈ c.bins ∧ e.2.key = key := by
  unfold Ctx.binKeyed at h
  exact ⟨List.mem_of_find?_eq_some h, by simpa using List.find?_some h⟩

theorem Filed.of_eq {c d : Ctx} {key : BinKey} {t : Nat} (h : Filed c key t) (hb : d.bins = c.bins) (ho : d.overflow = c.overflow) :
    Filed d key t := by
  unfold Filed
  rw [hb, ho]
  exact h

/-- A thread that is filed stands at its key: in the bin of that key, in an empty bin, or on the overflow list. -/
theorem Ctx.file1_filed (at_ : Nat) (key : BinKey) (c : Ctx) (t : Nat) : Filed (c.file1 at_ key t) key t := by
  unfold Ctx.file1
  split
  next b bin hbin =>
    exact .inl ⟨_, mem_tset_self _ _ _, (Ctx.binKeyed_some hbin).2, (mem_insertBy _ _ _ _).2 (.inl rfl)⟩
  next =>
    split
    · exact .inl ⟨_, mem_tset_self _ _ _, rfl, List.mem_singleton.2 rfl⟩
    · exact .inr (List.mem_append_right _ (List.mem_singleton.2 rfl))

section
variable (at_ : Nat) (key : BinKey) {c : Ctx} (h : Rises c.bins)
include h

theorem Ctx.file1_rises (t : Nat) : Rises (c.file1 at_ key t).bins := by
  unfold Ctx.file1
  split
  · exact h.tset _ _
  · split
    · exact h.tset _ _
    · exact h

/-- The filing of a thread leaves the threads that are already filed where they stand. -/
theorem Filed.file1 {k : BinKey} {u : Nat} (hu : Filed c k u) (t : Nat) : Filed (c.file1 at_ key t) k u := by
  unfold Ctx.file1
  obtain ⟨e, he, hk, hmem⟩ | hu := hu
  · split
    next b bin hbin =>
      by_cases hb : e.1 = b
      · have hsame : e.2 = bin := by
          have := (h.tget_of_mem he).symm.trans (hb ▸ h.tget_of_mem (Ctx.binKeyed_some hbin).1)
          exact Option.some.inj this
        subst hsame
        exact .inl ⟨_, mem_tset_self _ _ _, hk, (mem_insertBy _ _ _ _).2 (.inr hmem)⟩
      · exact .inl ⟨e, mem_tset_of_ne _ he hb, hk, hmem⟩
    next =>
      split
      next b hb =>
        have hne : e.1 ≠ b := by
          rintro rfl
          exact Option.some_ne_none _ ((h.tget_of_mem he).symm.trans (Ctx.tget_emptyBin hb))
        exact .inl ⟨e, mem_tset_of_ne _ he hne, hk, hmem⟩
      next => exact .inl ⟨e, he, hk, hmem⟩
  · split
    · exact .inr hu
    · split
      · exact .inr hu
      · exact .inr (List.mem_append_left _ hu)

theorem Ctx.foldl_file1_rises (ts : List Nat) : Rises (ts.foldl (Ctx.file1 at_ key) c).bins :=
  List.foldlRecOn (motive := fun d : Ctx => Rises d.bins) ts _ h fun _ hd t _ => Ctx.file1_rises at_ key hd t

theorem Ctx.foldl_file1_filed {ts : List Nat} {t : Nat} (ht : t ∈ ts) : Filed (ts.foldl (Ctx.file1 at_ key) c) key t :=
  foldl_establishes_under (I := fun d : Ctx => Rises d.bins) (P := fun d => Filed d key t) (fun d _ => Ctx.file1_filed at_ key d t)
    (fun _ u hd hf => hf.file1 at_ key hd u) (fun _ u hd => Ctx.file1_rises at_ key hd u) ht h

theorem Filed.foldl_file1 {k : BinKey} {u : Nat} (hu : Filed c k u) (ts : List Nat) : Filed (ts.foldl (Ctx.file1 at_ key) c) k u :=
  (List.foldlRecOn (motive := fun d : Ctx => Rises d.bins ∧ Filed d k u) ts _ ⟨h, hu⟩
    fun _ hd t _ => ⟨Ctx.file1_rises at_ key hd.1 t, hd.2.file1 at_ key hd.1 t⟩).2

end

/-- What filing leaves unchanged: all of a context but its bins, its overflow list and its threads. -/
theorem Ctx.file1_keeps {β : Type} {g : Ctx → β} (hg : ∀ c bins ov, g { c with bins := bins, overflow := ov } = g c)
    (at_ : Nat) (key : BinKey) (c : Ctx) (t : Nat) : g (c.file1 at_ key t) = g c := by
  unfold Ctx.file1
  split
  · exact hg c _ c.overflow
  · split
    · exact hg c _ c.overflow
    · exact hg c c.bins _

theorem Ctx.foldl_place_keeps {β : Type} {g : Ctx → β} (hg : ∀ c ths, g { c with threads := ths } = g c) (pend : Option Pending)
    (ts : List Nat) (c : Ctx) :
    g (ts.foldl (fun c t => c.modThread t fun th => { th with place := c.placeOf t, pend := pend }) c) = g c :=
  foldl_keeps g (fun c _ => hg c _) ts c

theorem Ctx.file_bins (at_ : Nat) (key : BinKey) (ts : List Nat) (c : Ctx) :
    (c.file at_ key ts).bins = (ts.foldl (Ctx.file1 at_ key) c).bins ∧
      (c.file at_ key ts).overflow = (ts.foldl (Ctx.file1 at_ key) c).overflow :=
  ⟨Ctx.foldl_place_keeps (g := Ctx.bins) (fun _ _ => rfl) _ _ _, Ctx.foldl_place_keeps (g := Ctx.overflow) (fun _ _ => rfl) _ _ _⟩

theorem Ctx.file_keeps {β : Type} {g : Ctx → β} (hg : ∀ c bins ov ths, g { c with bins := bins, overflow := ov, threads := ths } = g c)
    (at_ : Nat) (key : BinKey) (ts : List Nat) (c : Ctx) : g (c.file at_ key ts) = g c :=
  (Ctx.foldl_place_keeps (fun c ths => hg c c.bins c.overflow ths) _ _ _).trans
    (foldl_keeps g (Ctx.file1_keeps (fun c bins ov => hg c bins ov c.threads) at_ key) ts c)

/-- Filing changes of a thread only where it stands and the branch that it carries. -/
theorem Ctx.thread_file {β : Type} {g : Thread → β} (hg : ∀ th p q, g { th with place := p, pend := q } = g th)
    (at_ : Nat) (key : BinKey) (ts : List Nat) (c : Ctx) (u : Nat) : g ((c.file at_ key ts).thread u) = g (c.thread u) := by
  refine (foldl_keeps (fun d : Ctx => g (d.thread u)) (fun d t => ?_) ts _).trans
    (foldl_keeps (fun d : Ctx => g (d.thread u)) (Ctx.file1_keeps (g := fun d : Ctx => g (d.thread u)) (fun _ _ _ => rfl) at_ key) ts c)
  by_cases hu : u = t
  · rw [hu, Ctx.thread_modThread, hg]
  · rw [Ctx.thread_modThread_ne _ _ hu]

theorem mem_distinctKeys {l : List BinKey} {k : BinKey} (h : k ∈ l) : k ∈ distinctKeys l :=
  foldl_establishes (fun k acc => k ∈ acc)
    (fun acc k => by
      split
      next hk => exact List.contains_iff_mem.1 hk
      next => exact List.mem_append_right _ (List.mem_singleton.2 rfl))
    (fun acc a b ha => by
      split
      · exact ha
      · exact List.mem_append_left _ ha) h []

theorem Ctx.fileKeys_keeps {β : Type} {g : Ctx → β}
    (hg : ∀ c bins ov ths, g { c with bins := bins, overflow := ov, threads := ths } = g c)
    (at_ : Nat) (keys : List (Nat × BinKey)) (c : Ctx) : g (c.fileKeys at_ keys) = g c :=
  foldl_keeps g (fun c _ => Ctx.file_keeps hg at_ _ _ c) _ c

theorem Ctx.thread_fileKeys {β : Type} {g : Thread → β} (hg : ∀ th p q, g { th with place := p, pend := q } = g th)
    (at_ : Nat) (keys : List (Nat × BinKey)) (c : Ctx) (u : Nat) : g ((c.fileKeys at_ keys).thread u) = g (c.thread u) :=
  foldl_keeps (fun d : Ctx => g (d.thread u)) (fun d _ => Ctx.thread_file hg at_ _ _ d u) _ c

theorem Ctx.file_rises {c : Ctx} (h : Rises c.bins) (at_ : Nat) (key : BinKey) (ts : List Nat) : Rises (c.file at_ key ts).bins := by
  rw [(Ctx.file_bins at_ key ts c).1]
  exact Ctx.foldl_file1_rises at_ key h ts

theorem Ctx.file_filed {c : Ctx} (h : Rises c.bins) (at_ : Nat) (key : BinKey) {ts : List Nat} {t : Nat} (ht : t ∈ ts) :
    Filed (c.file at_ key ts) key t :=
  (Ctx.foldl_file1_filed at_ key h ht).of_eq (Ctx.file_bins at_ key ts c).1 (Ctx.file_bins at_ key ts c).2

theorem Filed.file {c : Ctx} {k : BinKey} {u : Nat} (hu : Filed c k u) (h : Rises c.bins) (at_ : Nat) (key : BinKey) (ts : List Nat) :
    Filed (c.file at_ key ts) k u :=
  (hu.foldl_file1 at_ key h ts).of_eq (Ctx.file_bins at_ key ts c).1 (Ctx.file_bins at_ key ts c).2

/-- Each thread with a key of its own is filed at it. -/
theorem Ctx.fileKeys_filed {c : Ctx} (h : Rises c.bins) (at_ : Nat) {keys : List (Nat × BinKey)} {e : Nat × BinKey} (he : e ∈ keys) :
    Filed (c.fileKeys at_ keys) e.2 e.1 := by
  have hsorted : e ∈ (keys.filter fun e => e.2.pend.isSome) ++ keys.filter fun e => e.2.pend.isNone := by
    cases hp : e.2.pend <;> simp [he, hp]
  refine foldl_establishes_under (I := fun d : Ctx => Rises d.bins) (P := fun d => Filed d e.2 e.1) (fun d hd => ?_)
    (fun d k hd hf => ?_) (fun d k hd => ?_) (mem_distinctKeys (List.mem_map_of_mem hsorted)) h
  · exact Ctx.file_filed hd at_ e.2 (List.mem_map_of_mem (List.mem_filter.2 ⟨hsorted, beq_self_eq_true _⟩))
  · exact hf.file hd at_ k _
  · exact Ctx.file_rises hd at_ k _

/-! ### TNEST (R52, R391) -/

/-- A field of the operand word of a layout J that holds a number from bit 20 up. -/
theorem toNat_field_of_shifted (n off len : Nat) :
    ((BitVec.ofNat 30 (n * 2 ^ 20)).extractLsb' off len).toNat = n * 2 ^ 20 % 2 ^ 30 / 2 ^ off % 2 ^ len := by
  rw [BitVec.extractLsb'_toNat, BitVec.toNat_ofNat, Nat.shiftRight_eq_div_pow]

section
variable {s : State} {o : Op}

/-- An unguarded op acts in every lane of a group none of whose threads passes over an instruction. -/
theorem State.active_of_unguarded (hq : o.gq = 0#3) (hn : o.gn = false) (hskip : NoSkip s) : s.active o = s.group.lanes := by
  refine List.filter_eq_self.2 fun e he => ?_
  have hs : s.skipping e.2 = false := by
    unfold State.skipping
    rw [hskip e.2 (List.mem_map_of_mem he)]
  simp [State.guard, hq, hn, hs, Thread.q]

end

/-- A thread as it parks: where it stands, and where it goes on. -/
def Group.parks (g : Group) (place : Place) (n lg t : Nat) (th : Thread) : Thread :=
  { th with place := place, pend := (g.keyAfter t).pend, resume := g.keyAfter t, claim := some (n, lg, g.pc) }

theorem Ctx.dropLanes_keeps {β : Type} {g : Ctx → β} (hg : ∀ c gr ch ds, g { c with group := gr, charged := ch, delays := ds } = g c)
    (ts : List Nat) (c : Ctx) : g (c.dropLanes ts) = g c := by
  unfold Ctx.dropLanes
  split
  · rfl
  · dsimp only
    split
    · exact hg c _ _ _
    · exact hg c _ c.charged c.delays

section
variable {f : Nat → Thread → Thread} {ts : List Nat} {t : Nat}

theorem Ctx.thread_foldl_modThread_of_not_mem (ht : t ∉ ts) (c : Ctx) :
    (ts.foldl (fun c t => c.modThread t (f t)) c).thread t = c.thread t :=
  List.foldlRecOn (motive := fun d : Ctx => d.thread t = c.thread t) ts _ rfl fun d hd u hu => by
    have hne : t ≠ u := fun e => ht (e ▸ hu)
    rw [Ctx.thread_modThread_ne _ _ hne, hd]

/-- What the change of each thread establishes, whatever the thread was, holds of it in the end. -/
theorem Ctx.thread_foldl_modThread_sets {P : Thread → Prop} (hf : ∀ th, P (f t th)) (ht : t ∈ ts) (c : Ctx) :
    P ((ts.foldl (fun c t => c.modThread t (f t)) c).thread t) := by
  refine foldl_establishes_under (I := fun _ => True) (P := fun c : Ctx => P (c.thread t)) (fun c _ => ?_) (fun c u _ h => ?_)
    (fun _ _ _ => trivial) ht trivial
  · rw [Ctx.thread_modThread]
    exact hf _
  · by_cases hu : t = u
    · subst hu
      rw [Ctx.thread_modThread]
      exact hf _
    · rw [Ctx.thread_modThread_ne _ _ hu]
      exact h

end

section
variable (s : State) (place : Place) (n lg : Nat) (ts : List Nat)

theorem State.me_parkGroup : (s.parkGroup place n lg ts).me =
    (ts.foldl (fun c t => c.modThread t (s.group.parks place n lg t)) s.me).dropLanes ts := by
  simp only [State.parkGroup, State.me_modMe]
  rfl

theorem State.parkGroup_tmpl : (s.parkGroup place n lg ts).me.tmpl = s.me.tmpl := by
  rw [State.me_parkGroup]
  refine (Ctx.dropLanes_keeps (g := Ctx.tmpl) (fun _ _ _ _ => rfl) _ _).trans (foldl_keeps Ctx.tmpl (fun _ _ => ?_) _ _)
  rfl

theorem State.thread_parkGroup (t : Nat) : (s.parkGroup place n lg ts).me.thread t =
    (ts.foldl (fun c t => c.modThread t (s.group.parks place n lg t)) s.me).thread t := by
  rw [State.me_parkGroup]
  exact Ctx.dropLanes_keeps (g := fun c => c.thread t) (fun _ _ _ _ => rfl) _ _

theorem State.parkGroup_cur : (s.parkGroup place n lg ts).cur = s.cur := rfl

theorem State.parkGroup_claims : (s.parkGroup place n lg ts).home.claims = s.home.claims := by
  simp only [State.parkGroup, State.home_modMe]
  rfl

end

theorem State.deadlockCheck_of_no_claims {s : State} {k : Nat} (h : (s.core k).claims = []) : s.deadlockCheck k = s := by
  simp only [State.deadlockCheck, h]

/-- Thread 0 of the issue group goes into the nest that it opens at a point, with its group size. -/
def State.openNest (s : State) (point : Nat × Nat) (g : Nat) : State :=
  if s.group.threads.contains 0 then s.modMe fun c => { c with tmpl := { c.tmpl with tnest := some (point.1, point.2, g) } } else s

/-- What a TNEST that traps nowhere does: thread 0 enters the nest and the others park. -/
def State.parkNest (s : State) (point : Nat × Nat) (g : Nat) : State :=
  let rest := s.group.threads.filter (· != 0)
  if rest.isEmpty then s.openNest point g
  else ((s.openNest point g).parkGroup .tnest g (point.1 * 2 ^ 16 + point.2) rest).deadlockCheck s.cur.1

section
variable (s : State) (point : Nat × Nat) (g : Nat)

theorem State.openNest_keeps {β : Type} {f : State → β}
    (hf : ∀ t : State, f (t.modMe fun c => { c with tmpl := { c.tmpl with tnest := some (point.1, point.2, g) } }) = f t) :
    f (s.openNest point g) = f s := by
  unfold State.openNest
  split
  · exact hf s
  · rfl

theorem State.openNest_group : (s.openNest point g).group = s.group :=
  s.openNest_keeps point g (f := State.group) fun t => by simp only [State.group, State.me_modMe]

theorem State.openNest_thread (th : Nat) : (s.openNest point g).me.thread th = s.me.thread th :=
  s.openNest_keeps point g (f := fun t => t.me.thread th) fun t => by
    rw [State.me_modMe]
    rfl

theorem State.openNest_claims : (s.openNest point g).home.claims = s.home.claims :=
  s.openNest_keeps point g (f := fun t => t.home.claims) fun t => by
    rw [State.home_modMe]
    rfl

theorem State.openNest_cur : (s.openNest point g).cur = s.cur := s.openNest_keeps point g (f := State.cur) fun _ => rfl

theorem State.openNest_tnest {s : State} (h : 0 ∈ s.group.threads) : (s.openNest point g).me.tmpl.tnest = some (point.1, point.2, g) := by
  rw [State.openNest, if_pos (List.contains_iff_mem.2 h), State.me_modMe]

/-- Without a claim that waits, the parking of a TNEST ends with the parking. -/
theorem State.parkNest_of_no_claims {s : State} (h : s.home.claims = []) : s.parkNest point g =
    if (s.group.threads.filter (· != 0)).isEmpty then s.openNest point g
    else (s.openNest point g).parkGroup .tnest g (point.1 * 2 ^ 16 + point.2) (s.group.threads.filter (· != 0)) := by
  unfold State.parkNest
  dsimp only
  split
  · rfl
  · refine State.deadlockCheck_of_no_claims ?_
    have hpark := (State.parkGroup_claims (s.openNest point g) .tnest g (point.1 * 2 ^ 16 + point.2)
      (s.group.threads.filter (· != 0))).trans ((s.openNest_claims point g).trans h)
    rwa [State.home, State.myCore_eq, State.parkGroup_cur, State.openNest_cur] at hpark

end

section
variable {s : State} {o : Op} {g : Nat}

/-- A TNEST that traps no thread, at a point where no FREEZE has executed, and with no thread parked at another TNEST. -/
theorem tnest_eq (hext : o.ext = none) (hmod : o.mod = 0#8) (hdest : o.dest = 0#10) (hg1 : 1 ≤ g) (hg2 : g ≤ 256) (hq : o.gq = 0#3)
    (hn : o.gn = false) (hskip : NoSkip s) (hj : o.j = BitVec.ofNat 30 (g * 2 ^ 20))
    (htraps : ∀ th ∈ s.group.threads, tnestTrap s.me (s.templated s.me) (((s.funcOf s.hereKey).map (·.levels)).getD 4)
        (s.point s.cur.1 s.me.pc) g th = none)
    (hopen : ∀ th ∈ s.group.threads, s.me.tmpl.nests[(s.me.thread th).level - 1]? = none)
    (hnest : 0 ∈ s.group.threads → s.me.tmpl.tnest = none)
    (hparked : 0 ∈ s.group.threads → ∀ e ∈ s.me.threads, e.2.place ≠ .tnest) :
    exec (.tnest o) s = .next (s.parkNest (s.point s.cur.1 s.me.pc) g) := by
  have hsize : (o.j.extractLsb' 20 9).toNat = g := by
    rw [hj, toNat_field_of_shifted]
    omega
  have hlow : o.j.extractLsb' 0 20 = 0#20 := BitVec.eq_of_toNat_eq (by
    rw [hj, toNat_field_of_shifted]
    simp)
  have htop : o.j.getLsbD 29 = false := by
    rw [hj, BitVec.getLsbD_ofNat, Nat.testBit_eq_decide_div_mod_eq]
    simp
    omega
  show execTnest o s = _
  unfold execTnest
  extract_lets g' ok k point code ts templ levels traps strangers s1 s0 late park
  have hg : g' = g := hsize
  have hok : ok = true := by
    simp only [ok, hg, htop]
    simp [Op.legalJ, hext, hmod, hdest, hq, hn, hlow, hg1, hg2]
  have hts : ts = s.group.threads := congrArg (List.map (·.2)) (State.active_of_unguarded hq hn hskip)
  have hnone : traps = [] := by
    simp only [traps, hok, if_true]
    rw [hts, hg]
    exact List.filterMap_eq_nil_iff.2 fun t ht => congrArg (Option.map _) (htraps t ht)
  have hlate : late = [] := by
    simp only [late, hts]
    exact List.filterMap_eq_nil_iff.2 fun t ht => congrArg (Option.map _) (hopen t ht)
  have hstrangers : strangers = [] := by
    simp only [strangers, hts]
    split
    next h0 =>
      rw [List.map_eq_nil_iff, List.filter_eq_nil_iff]
      intro e he
      simp [hparked (List.contains_iff_mem.1 h0) e he]
    next => rfl
  have hs1 : s1 = s := by simp [s1, hstrangers]
  have hs0 : s0 = s := by
    refine (if_neg ?_).trans hs1
    simp only [Bool.and_eq_true, hts, List.contains_iff_mem]
    rintro ⟨⟨⟨-, h0⟩, hsome⟩, -⟩
    rw [hnest h0] at hsome
    cases hsome
  rw [hlate, hnone, hs0, hts]
  simp only [lateNest, runOp_nil, park, hg]
  rfl

/-- What a TNEST leaves: the open nest that thread 0 goes into, and the others parked. -/
theorem State.parkNest_opens (htidy : s.me.Tidy) (hclaims : s.home.claims = []) (point : Nat × Nat) :
    (0 ∈ s.group.threads → (s.parkNest point g).me.tmpl.tnest = some (point.1, point.2, g) ∧
      ((s.parkNest point g).me.thread 0).place = .group) ∧
    ∀ th ∈ s.group.threads, th ≠ 0 → ((s.parkNest point g).me.thread th).place = .tnest ∧
      ((s.parkNest point g).me.thread th).resume = s.group.keyAfter th := by
  have hzero (h0 : 0 ∈ s.group.threads) : ((s.openNest point g).me.thread 0).place = .group := by
    rw [State.openNest_thread]
    refine htidy.standing 0 ?_
    cases hgroup : s.me.group with
    | none => simp [State.group, hgroup, Group.threads] at h0
    | some gr => simpa [State.group, hgroup] using h0
  rw [State.parkNest_of_no_claims point g hclaims]
  split
  next hrest =>
    have hrest : ∀ th ∈ s.group.threads, th = 0 := by simpa using hrest
    exact ⟨fun h0 => ⟨State.openNest_tnest point g h0, hzero h0⟩, fun th hth hne => absurd (hrest th hth) hne⟩
  next =>
    refine ⟨fun h0 => ⟨?_, ?_⟩, fun th hth hne => ?_⟩
    · rw [State.parkGroup_tmpl, State.openNest_tnest point g h0]
    · rw [State.thread_parkGroup, Ctx.thread_foldl_modThread_of_not_mem (by simp)]
      exact hzero h0
    · rw [State.thread_parkGroup]
      exact Ctx.thread_foldl_modThread_sets (P := fun t : Thread => t.place = .tnest ∧ t.resume = s.group.keyAfter th)
        (fun _ => ⟨rfl, by rw [State.openNest_group]; rfl⟩) (List.mem_filter.2 ⟨hth, by simpa using hne⟩) _

end

/-! ### FREEZE (R50-R52, R339) -/

/-- The function whose code the group runs, or an empty one. -/
def State.funcHere (s : State) : LFunc := (s.funcOf s.hereKey).getD ⟨0, 0, false, 0, 0, [], [], []⟩

/-- The accesses by which a FREEZE reads the values of its continuation's arguments. -/
def State.freezeReads (s : State) (lane th : Nat) (blk : LBlock) : List Acc :=
  (List.range (sumNat (blk.args.map (valueRegs blk.shape)))).map fun i => frameAcc s.me lane th i

/-- The threads that are parked at the TNEST of an LPF point. -/
def Ctx.nested (c : Ctx) (tb ti : Nat) : List Nat :=
  (c.threads.filter fun e => e.2.place == .tnest && (e.2.claim.map (·.2.1)) == some (tb * 2 ^ 16 + ti)).map (·.1)

section
variable {s : State} {o : Op} {n b : Nat} {blk : LBlock} {lane th : Nat}

/-- A well-formed FREEZE that is open to each thread of ACTIVE, and whose values can be read. -/
structure Freezes (s : State) (o : Op) (n b : Nat) (blk : LBlock) (lane th : Nat) : Prop where
  ext : o.ext = none
  mod : o.mod = 0#8
  dest : o.dest = 0#10
  small : n < 128
  count : o.j = BitVec.ofNat 30 (n * 2 ^ 20)
  cont : s.freezeCont = some (b, blk)
  args : blk.args.length = n
  top : s.top o = some (lane, th)
  may : ∀ e ∈ s.active o, s.mayFreeze e.2 = true
  sound : s.accTraps s.cur.1 s.cur.2 .load 8 (s.freezeReads lane th blk) = []
  present : s.accFaults s.cur.1 s.cur.2 .load (s.freezeReads lane th blk) = []

section
variable (h : Freezes s o n b blk lane th)
include h

theorem Freezes.good : (o.legalJ && o.dest == 0#10 && o.j.extractLsb' 27 3 == 0#3 && o.j.extractLsb' 0 20 == 0#20 &&
    (s.freezeCont.map (·.2.args.length)) == some (o.j.extractLsb' 20 7).toNat) = true := by
  have hn := h.small
  have hcount : (o.j.extractLsb' 20 7).toNat = n := by
    rw [h.count, toNat_field_of_shifted]
    omega
  have hhigh : o.j.extractLsb' 27 3 = 0#3 := BitVec.eq_of_toNat_eq (by
    rw [h.count, toNat_field_of_shifted, BitVec.toNat_ofNat]
    omega)
  have hlow : o.j.extractLsb' 0 20 = 0#20 := BitVec.eq_of_toNat_eq (by
    rw [h.count, toNat_field_of_shifted, BitVec.toNat_ofNat]
    omega)
  rw [hcount, hhigh, hlow, h.cont]
  simp [Op.legalJ, h.ext, h.mod, h.dest, h.args]

theorem Freezes.strays : ((s.active o).filter fun e => !s.mayFreeze e.2) = [] :=
  List.filter_eq_nil_iff.2 fun e he => by simp [h.may e he]

/-- The FREEZE of a launch's founder, once the release that it starts is ready. -/
theorem Freezes.of_founder {l : Launch} {w : Wg} (hfounder : s.me.isFounder = true) (hl : s.launchOf s.me = some l)
    (hw : s.me.wg = some w) (hlast : s.lastFault l = none)
    (hready : (s.releaseStart s.cur.1 s.cur.2 th 7).releaseReady s.cur.1 s.cur.2 7 = true) :
    exec (.freeze o) s = .next (freezeLaunch b (s.funcHere.regionAt b 0) ((s.funcHere.reserve[0]?).getD 0) (s.freezeValues lane th blk)
      l w.launch th (s.releaseStart s.cur.1 s.cur.2 th 7)) := by
  have hsound := h.sound
  have hpresent := h.present
  unfold State.freezeReads at hsound hpresent
  show execFreeze o s = _
  simp only [execFreeze, h.top, h.cont, h.cont ▸ h.good, h.strays, State.myCore_eq, State.myCtxNo_eq, hsound, hpresent, hfounder, hl, hw, hlast,
    hready, List.isEmpty_nil, Bool.not_true, Bool.false_eq_true, if_false, if_true, runOp_nil]
  rfl

/-- The FREEZE of a nested prologue, where every stub holds its translation. -/
theorem Freezes.of_nest {tb ti g : Nat} {ent : Nat → Nat × Trans} (hfounder : s.me.isFounder = false)
    (hnest : s.me.tmpl.tnest = some (tb, ti, g)) (hent : ∀ u ∈ th :: s.me.nested tb ti, s.StubHolds (s.blockKey b u) (ent u)) :
    exec (.freeze o) s = .next (freezeNest b (sumNat (s.funcHere.reserve.take s.me.tmpl.opened))
      ((s.funcHere.reserve[s.me.tmpl.opened]?).getD 0) (s.freezeValues lane th blk)
      { ready := (th :: s.me.nested tb ti).map fun u => ⟨u, (ent u).1, (ent u).2⟩ } s) := by
  have hsound := h.sound
  have hpresent := h.present
  unfold State.freezeReads at hsound hpresent
  have hasked := s.askAll_holds ent ((th :: s.me.nested tb ti).map fun u => (u, s.blockKey b u)) fun a ha => by
    obtain ⟨u, hu, rfl⟩ := List.mem_map.1 ha
    exact hent u hu
  rw [List.map_map] at hasked
  unfold Ctx.nested at hasked
  show execFreeze o s = _
  simp only [execFreeze, h.top, h.cont, h.cont ▸ h.good, h.strays, State.myCore_eq, State.myCtxNo_eq, hsound, hpresent, hfounder, hnest,
    Option.getD_some, hasked, List.isEmpty_nil, Bool.not_true, Bool.false_eq_true, if_false, if_true]
  rfl

end
end

/-! ### The level that a nested FREEZE opens (R52) -/

section
variable {β : Type} {g : Ctx → β} (hg : ∀ c ths, g { c with threads := ths } = g c) (s : State) (k x : Nat)
include hg

theorem State.goToTr_keeps (t tr : Nat) : g ((s.goToTr k x t tr).ctx k x) = g (s.ctx k x) := by
  unfold State.goToTr
  dsimp only
  split
  · rfl
  · rw [State.modThread, State.ctx_modCtx]
    exact hg _ _

theorem State.follow_keeps (ts : List Nat) : g ((s.follow k x ts).ctx k x) = g (s.ctx k x) := by
  refine foldl_keeps (fun s : State => g (s.ctx k x)) (fun s t => ?_) ts s
  dsimp only
  split
  · rfl
  · exact s.goToTr_keeps hg k x t _

end

theorem State.goToTr_cur (s : State) (k x t tr : Nat) : (s.goToTr k x t tr).cur = s.cur := by
  unfold State.goToTr
  dsimp only
  split <;> rfl

theorem State.follow_cur (s : State) (k x : Nat) (ts : List Nat) : (s.follow k x ts).cur = s.cur := by
  refine foldl_keeps State.cur (fun s t => ?_) ts s
  dsimp only
  split
  · rfl
  · exact s.goToTr_cur k x t _

theorem State.follow_me_keeps {β : Type} {g : Ctx → β} (hg : ∀ c ths, g { c with threads := ths } = g c) (s : State) (ts : List Nat) :
    g (s.follow s.cur.1 s.cur.2 ts).me = g s.me := by
  rw [State.me, State.myCore_eq, State.myCtxNo_eq, State.follow_cur]
  exact s.follow_keeps hg _ _ ts

/-- The last-store entries of a level: the values, and nothing in what the level reserves beyond them (R56). -/
def levelArea (start reserve : Nat) (vals : List (List Word)) (m : Tab (List Word)) : Tab (List Word) :=
  (List.range reserve).foldl (fun m n => match vals[n]? with
    | some ws => tset m (start + n) ws
    | none => tdel m (start + n)) m

theorem tget_levelArea {start reserve i : Nat} {vals : List (List Word)} {ws : List Word} (hi : vals[i]? = some ws)
    (hfits : vals.length ≤ reserve) (m : Tab (List Word)) : tget (levelArea start reserve vals m) (start + i) = some ws := by
  have hlt : i < vals.length := (List.getElem?_eq_some_iff.1 hi).1
  refine foldl_establishes_under (I := fun _ => True) (P := fun m => tget m (start + i) = some ws) (fun m _ => ?_) (fun m n _ hm => ?_)
    (fun _ _ _ => trivial) (List.mem_range.2 (hlt.trans_le hfits)) trivial
  · simp only [hi, tget_tset_self]
  · by_cases hn : n = i
    · subst hn
      simp only [hi, tget_tset_self]
    · have hne : start + i ≠ start + n := by omega
      split
      · rw [tget_tset_ne _ _ hne, hm]
      · rw [tdel, tget_filter_key (· != start + n), if_pos (by simpa using hne), hm]

/-- A context with one more level open, its values in the last store. -/
def Ctx.openLevel (c : Ctx) (start reserve : Nat) (vals : List (List Word)) (nest : Nest) : Ctx :=
  { c with
    mem := { c.mem with last := levelArea start reserve vals c.mem.last }
    tmpl := { c.tmpl with
      opened := c.tmpl.opened + 1, sizes := c.tmpl.sizes ++ [nest.g], entries := c.tmpl.entries ++ [(start, vals.length)]
      nests := c.tmpl.nests ++ [nest], tnest := none } }

/-- The key of a block's entry for a thread with its translation. -/
def Entry.keyOf (cont : Nat) (x : Entry) : Nat × BinKey := (x.t, ⟨⟨x.tr, (x.trans.entryAt cont 0).getD 0⟩, none⟩)

/-- The threads of a nest stand one level deeper and are filed at the continuation, the founder out of its lane. -/
def Ctx.fileNest (c : Ctx) (at_ cont : Nat) (r : List Entry) : Ctx :=
  ((r.foldl (fun c x => c.modThread x.t fun th => { th with level := th.level + 1 }) c).dropLanes [0]).fileKeys at_
    (r.map (Entry.keyOf cont))

theorem Ctx.fileNest_keeps {β : Type} {g : Ctx → β} (hg : ∀ c bins ov ths gr ch ds, g { c with
      bins := bins, overflow := ov, threads := ths, group := gr, charged := ch, delays := ds } = g c)
    (c : Ctx) (at_ cont : Nat) (r : List Entry) : g (c.fileNest at_ cont r) = g c := by
  refine (Ctx.fileKeys_keeps (fun c bins ov ths => hg c bins ov ths c.group c.charged c.delays) _ _ _).trans
    ((Ctx.dropLanes_keeps (fun c gr ch ds => hg c c.bins c.overflow c.threads gr ch ds) _ _).trans (foldl_keeps g (fun c _ => ?_) _ _))
  exact hg c c.bins c.overflow _ c.group c.charged c.delays

theorem Ctx.fileNest_filed {c : Ctx} (h : Rises c.bins) (at_ cont : Nat) {r : List Entry} {x : Entry} (hx : x ∈ r) :
    Filed (c.fileNest at_ cont r) (Entry.keyOf cont x).2 x.t := by
  refine Ctx.fileKeys_filed ?_ at_ (List.mem_map_of_mem (f := Entry.keyOf cont) hx)
  rw [Ctx.dropLanes_keeps (g := Ctx.bins) fun _ _ _ _ => rfl, foldl_keeps Ctx.bins fun _ _ => ?_]
  · exact h
  · rfl

section
variable {s : State} {tb ti gs : Nat} (hnest : s.me.tmpl.tnest = some (tb, ti, gs)) (cont start reserve : Nat)
  (vals : List (List Word)) (r : List Entry)
include hnest

/-- A nested FREEZE none of whose threads lacks its translation. -/
theorem freezeNest_of_ready : freezeNest cont start reserve vals { ready := r } s =
    ((s.modMe fun c => c.openLevel start reserve vals ⟨tb, ti, gs, cont⟩).modMe fun c => c.fileNest s.now cont r).follow s.cur.1 s.cur.2
      (r.map (·.t)) := by
  simp only [freezeNest, hnest, Option.getD_some]
  rfl

/-- What a nested FREEZE leaves in the executing context, but for the threads. -/
theorem freezeNest_me {β : Type} {g : Ctx → β} (hg : ∀ c ths, g { c with threads := ths } = g c) :
    g (freezeNest cont start reserve vals { ready := r } s).me =
      g ((s.me.openLevel start reserve vals ⟨tb, ti, gs, cont⟩).fileNest s.now cont r) := by
  rw [freezeNest_of_ready hnest]
  refine (State.follow_me_keeps hg (State.modMe _ _) _).trans ?_
  rw [State.me_modMe, State.me_modMe]

end

/-- A nested FREEZE opens the level with its values, and files each thread of the nest at the continuation. -/
theorem freezeNest_opens {s : State} {tb ti gs : Nat} (hnest : s.me.tmpl.tnest = some (tb, ti, gs)) (hbins : Rises s.me.bins)
    {vals : List (List Word)} {reserve : Nat} (hfits : vals.length ≤ reserve) (cont start : Nat) (r : List Entry) :
    (freezeNest cont start reserve vals { ready := r } s).me.tmpl =
      (s.me.openLevel start reserve vals ⟨tb, ti, gs, cont⟩).tmpl ∧
    (∀ i ws, vals[i]? = some ws → tget (freezeNest cont start reserve vals { ready := r } s).me.mem.last (start + i) = some ws) ∧
    ∀ x ∈ r, Filed (freezeNest cont start reserve vals { ready := r } s).me (Entry.keyOf cont x).2 x.t := by
  have hme {β : Type} {g : Ctx → β} (hg : ∀ c ths, g { c with threads := ths } = g c) := freezeNest_me hnest cont start reserve vals r hg
  have htmpl := (hme (g := Ctx.tmpl) fun _ _ => rfl).trans (Ctx.fileNest_keeps (fun _ _ _ _ _ _ _ => rfl) _ _ _ _)
  have hlast := (hme (g := fun c => c.mem.last) fun _ _ => rfl).trans
    (Ctx.fileNest_keeps (g := fun c => c.mem.last) (fun _ _ _ _ _ _ _ => rfl) _ _ _ _)
  refine ⟨htmpl, fun i ws hi => (congrArg (tget · (start + i)) hlast).trans (tget_levelArea hi hfits _), fun x hx => ?_⟩
  exact (Ctx.fileNest_filed (c := s.me.openLevel start reserve vals ⟨tb, ti, gs, cont⟩) hbins s.now cont hx).of_eq
    (hme (g := Ctx.bins) fun _ _ => rfl) (hme (g := Ctx.overflow) fun _ _ => rfl)

/-- Thread 0 traps at no TNEST that opens a level only when it is inside none. -/
theorem tnest_none_of_tnestTrap {c : Ctx} {templ : Bool} {levels g : Nat} {point : Nat × Nat}
    (h : tnestTrap c templ levels point g 0 = none) (hopen : c.tmpl.nests[(c.thread 0).level - 1]? = none) : c.tmpl.tnest = none := by
  by_contra hne
  have hsome : c.tmpl.tnest.isSome = true := Option.isSome_iff_ne_none.2 hne
  simp only [tnestTrap, hopen, hsome, beq_self_eq_true, Bool.and_self, if_true, ite_self, reduceCtorEq] at h

/-- Settles O22: TNEST by what it parks and opens, FREEZE by what its founder's release and the stubs of its continuation find. -/
theorem templateSteps : Obligations.TemplateSteps := by
  unfold Obligations.TemplateSteps
  intro s o hext hmod hdest htidy
  refine ⟨fun g hg1 hg2 hq hn hskip hj hclaims htraps hparked => ?_, fun n b blk lane th w l hsmall hj hcont hargs htop hmay => ?_⟩
  · have hnone (h0 : 0 ∈ s.group.threads) : s.me.tmpl.tnest = none :=
      tnest_none_of_tnestTrap (htraps 0 h0).1 (htraps 0 h0).2
    exact ⟨_, tnest_eq hext hmod hdest hg1 hg2 hq hn hskip hj (fun th hth => (htraps th hth).1) (fun th hth => (htraps th hth).2) hnone
      hparked, State.parkNest_opens htidy hclaims _⟩
  · intro accs f vals hsound hpresent
    have h : Freezes s o n b blk lane th := ⟨hext, hmod, hdest, hsmall, hj, hcont, hargs, htop, hmay, hsound, hpresent⟩
    refine ⟨fun hfounder hl hw hlast hready => ⟨_, h.of_founder hfounder hl hw hlast hready, rfl⟩, fun tb ti g ent hfounder hnest => ?_⟩
    intro parked lv start hent hfits
    obtain ⟨htmpl, hlast, hfiled⟩ := freezeNest_opens hnest htidy.bins hfits b start
      ((th :: parked).map fun u => ⟨u, (ent u).1, (ent u).2⟩)
    exact ⟨_, h.of_nest hfounder hnest hent, congrArg Tmpl.opened htmpl, congrArg Tmpl.sizes htmpl, congrArg Tmpl.tnest htmpl,
      congrArg Tmpl.nests htmpl, hlast, fun u hu => hfiled _ (List.mem_map_of_mem hu)⟩

/-! ### Copies, fills and fences (R62, R170, R337) -/

/-- A change of cores that leaves their contexts alone leaves every context alone. -/
theorem State.ctx_modCore_keeps {f : Core → Core} (h : ∀ c, (f c).ctxs = c.ctxs) (s : State) (j k x : Nat) :
    (s.modCore j f).ctx k x = s.ctx k x := by
  by_cases hk : k = j
  · subst hk
    exact s.ctx_modCore_of_ctxs k x h
  · rw [State.ctx, State.core_modCore_ne _ _ hk, State.ctx]

section
variable (s : State) (k x : Nat)

theorem State.modBank_ctx (j b : Nat) (f : Bank → Bank) : (s.modBank j b f).ctx k x = s.ctx k x :=
  State.ctx_modCore_keeps (f := fun c => { c with mtx := { c.mtx with banks := tmod c.mtx.banks b {} f } }) (fun _ => rfl) s j k x

theorem State.bankAccess_ctx (pa : Nat) : (s.bankAccess pa).ctx k x = s.ctx k x := by
  unfold State.bankAccess
  split
  · exact s.draw1.2.modBank_ctx k x _ _ _
  · rfl

theorem State.flushWhere_ctx (ok : Nat → Bool) : (s.flushWhere ok).ctx k x = s.ctx k x :=
  foldl_keeps (fun s : State => s.ctx k x) (fun s pa => s.bankAccess_ctx k x pa) _ _

theorem State.spill_ctx (l : Nat) : (s.spill l).ctx k x = s.ctx k x := by
  unfold State.spill
  dsimp only
  split
  · rfl
  · split
    · rfl
    · split
      · exact State.flushWhere_ctx _ k x _
      · rfl

/-- A write that no result awaits changes no context. -/
theorem State.performWrite_ctx (l : Nat) {w : PWrite} (hw : w.id = none) : (s.performWrite l w).ctx k x = s.ctx k x := by
  simp only [State.performWrite, hw]
  exact State.spill_ctx _ k x l

theorem State.homeArrive_ctx (l : Nat) {w : PWrite} (hw : w.id = none) : (s.homeArrive l w).ctx k x = s.ctx k x := by
  unfold State.homeArrive
  dsimp only
  split
  · exact s.performWrite_ctx k x l hw
  · split
    · rfl
    · split <;> rfl

theorem State.releaseDone_ctx (scope : Nat) : (s.releaseDone k x scope).ctx k x =
    { s.ctx k x with frontier := [], mem := { (s.ctx k x).mem with rmWrites := (s.ctx k x).mem.rmWrites && s.relScope k x scope < 7 } } := by
  unfold State.releaseDone
  dsimp only
  rw [State.ctx_modCtx]
  split
  · rw [State.flushIdle, State.flushWhere_ctx]
  · rfl

/-- A release below mem scope writes nothing back into the pillars. -/
theorem State.releaseDone_phys {scope : Nat} (h : scope < 8) : (s.releaseDone k x scope).phys = s.phys := by
  have hscope : ¬8 ≤ s.relScope k x scope := by
    unfold State.relScope
    split <;> omega
  simp only [State.releaseDone, if_neg hscope, State.modCtx_phys]

end

theorem GranState.filled_of_ended {now u : Nat} {m : BitVec 256} (h : u ≤ now) :
    (GranState.filling u m).filled now = if m = 0 then .clean else .dirty m := if_pos h

theorem Landing.fillsDone_of_only {l : Landing} {g at_ : Nat} (h : l.fills = [g]) :
    l.fillsDone [g] at_ = { l with fills := [], due := Nat.max l.due at_ } := by
  simp [Landing.fillsDone, h]

section
variable {s : State} {k x g u : Nat} {m : BitVec 256}

/-- A fill whose time has come: an open row makes it wait for the next tick, else the granule takes the state that its mask gives. -/
theorem stashFillComplete_eq (hg : tget (s.ctx k x).mem.granules g = some (.filling u m)) (hu : u ≤ s.now) :
    exec (.stashFillComplete k x g) s =
      if s.fillDeferred k x g then .next (s.schedule (tickTime (s.gtc + 1)) (.stashFillComplete k x g))
      else .next (s.modCtx k x fun c => { c with
        inflight := c.inflight.map fun l => l.fillsDone [g] (s.after 14)
        mem := { c.mem with granules := tset c.mem.granules g (if m = 0 then .clean else .dirty m) } }) := by
  have hdone : (if m = 0 then GranState.clean else .dirty m).isFilling = false := by split <;> rfl
  have hwas : (GranState.filling u m).isFilling = true := rfl
  show execStashFillComplete k x g s = _
  simp only [execStashFillComplete, hg, hdone, hwas, GranState.filled_of_ended hu, Bool.not_true, Bool.or_self, Bool.false_eq_true, if_false]

theorem fenceComplete_eq {f : FenceHold} (hf : (s.ctx k x).fence = some f) : exec (.fenceComplete k x) s = .next
    (if s.fenceReady k x f then
      if f.order == 0 then s.modCtx k x fun c => { c with fence := none }
      else (s.modCtx k x fun c => { c with fence := none }).releaseDone k x f.scope
    else s) := by
  show execFenceComplete k x s = _
  simp only [execFenceComplete, hf]
  split <;> rfl

end

/-- The ends of copies, fills and fences, event by event. -/
theorem waitsEnd : WaitsEnd := by
  intro s k x
  refine ⟨fun hready => ?_, fun hwaits => ?_, fun g u m hg hu hdeferred => ?_, fun g u m hg hu hdeferred => ?_, fun f hf hready => ?_,
    fun f hf hready => ?_⟩
  · refine ⟨_, rfl, ⟨_, rfl⟩, ?_, ?_⟩ <;> rw [State.ctx_modCtx, if_pos hready]
  · refine ⟨_, rfl, ?_⟩
    dsimp only
    rw [State.ctx_modCtx, if_neg (Nat.not_le.2 hwaits)]
  · refine ⟨_, (stashFillComplete_eq hg hu).trans (if_neg (by simp [hdeferred])), ⟨_, rfl⟩, ?_⟩
    rw [State.ctx_modCtx]
    refine ⟨tget_tset_self _ _ _, fun j hj => tget_tset_ne _ _ hj, fun l hl hfills => ⟨_, List.mem_map_of_mem hl, ?_⟩⟩
    rw [Landing.fillsDone_of_only hfills]
    exact ⟨rfl, rfl, Nat.le_max_right _ _⟩
  · exact ⟨_, (stashFillComplete_eq hg hu).trans (if_pos hdeferred), rfl⟩
  · rw [Completes, fenceComplete_eq hf, if_pos hready]
    refine ⟨_, rfl, ?_⟩
    split
    next horder =>
      rw [State.ctx_modCtx]
      exact ⟨rfl, rfl, rfl, fun h => absurd (eq_of_beq horder) h, fun _ => rfl⟩
    next horder =>
      rw [State.releaseDone_ctx, State.ctx_modCtx]
      refine ⟨rfl, rfl, rfl, fun _ => rfl, fun h => ?_⟩
      exact State.releaseDone_phys _ _ _ (h.resolve_left fun h0 => horder (by simp [h0]))
  · rw [Completes, fenceComplete_eq hf, if_neg (by simp [hready])]
    exact ⟨_, rfl, rfl⟩

/-! ### Claims that are granted (R137) -/

/-- Each of some different threads takes its change once. -/
theorem Ctx.thread_foldl_modThread_nodup {f : Thread → Thread} {ts : List Nat} (hnodup : ts.Nodup) {t : Nat} (ht : t ∈ ts) (c : Ctx) :
    (ts.foldl (fun c t => c.modThread t f) c).thread t = f (c.thread t) := by
  induction ts generalizing c with
  | nil => cases ht
  | cons u ts ih =>
    obtain ⟨hu, hts⟩ := List.nodup_cons.1 hnodup
    rw [List.foldl_cons]
    obtain rfl | ht := List.mem_cons.1 ht
    · rw [Ctx.foldl_modThread_ne hu, Ctx.thread_modThread]
    · have hne : t ≠ u := fun e => hu (e ▸ ht)
      rw [ih hts ht, Ctx.thread_modThread_ne _ _ hne]

theorem State.ctx_foldl_modThread (f : Thread → Thread) (k x : Nat) (ts : List Nat) (s : State) :
    (ts.foldl (fun s t => s.modThread k x t f) s).ctx k x = ts.foldl (fun c t => c.modThread t f) (s.ctx k x) :=
  (List.foldl_hom (fun s : State => s.ctx k x) fun s t => (s.ctx_modCtx k x fun c => c.modThread t f).symm).symm

theorem State.core_modCtx_keeps {β : Type} {g : Core → β} (hg : ∀ c ctxs, g { c with ctxs := ctxs } = g c) (s : State) (k x : Nat)
    (f : Ctx → Ctx) :
    g ((s.modCtx k x f).core k) = g (s.core k) := by
  rw [State.core_modCtx]
  exact hg _ _

/-- A thread whose claim is granted. -/
def Thread.granted (n : Nat) (th : Thread) : Thread := { th with budget := th.budget + n, budgetFrom := 2, claim := none }

/-- A context whose threads of a claim are granted theirs. -/
def Ctx.grant (d : Ctx) (c : RegClaim) : Ctx := c.threads.foldl (fun d t => d.modThread t (Thread.granted c.n)) d

section
variable {s : State} {k : Nat} {c : RegClaim} {r : List RegClaim}

/-- The oldest claim takes its registers from the pool, and its threads are granted theirs and released. -/
def State.grantClaim (s : State) (k : Nat) (c : RegClaim) (r : List RegClaim) : State :=
  (c.threads.foldl (fun s t => s.modThread k c.ctx t (Thread.granted c.n))
    (s.modCore k fun co => { co with claims := r, taken := co.taken + c.n * c.live })).releaseThreads k c.ctx c.threads

theorem regclmGrant_eq (h : (s.core k).claims = c :: r) : exec (.regclmGrant k) s =
    .next (if c.n * c.live ≤ s.poolFree k then s.grantClaim k c r else s) := by
  show execRegclmGrant k s = _
  simp only [execRegclmGrant, h]
  split <;> rfl

theorem State.grantClaim_core : ((s.grantClaim k c r).core k).claims = r ∧
    ((s.grantClaim k c r).core k).taken = (s.core k).taken + c.n * c.live := by
  have hkeeps {β : Type} {g : Core → β} (hg : ∀ c ctxs, g { c with ctxs := ctxs } = g c) :
      g ((s.grantClaim k c r).core k) = g { s.core k with claims := r, taken := (s.core k).taken + c.n * c.live } := by
    refine (State.core_modCtx_keeps hg _ k c.ctx _).trans
      ((foldl_keeps (fun s : State => g (s.core k)) (fun s t => s.core_modCtx_keeps hg k c.ctx _) _ _).trans ?_)
    rw [State.core_modCore]
  exact ⟨hkeeps (g := Core.claims) fun _ _ => rfl, hkeeps (g := Core.taken) fun _ _ => rfl⟩

/-- A granted thread has the claimed registers in its budget, keeps their words, and is filed where it goes on. -/
theorem State.grantClaim_thread (hnodup : c.threads.Nodup) (hbins : Rises (s.ctx k c.ctx).bins) {th : Nat} (hth : th ∈ c.threads) :
    (((s.grantClaim k c r).ctx k c.ctx).thread th).budget = ((s.ctx k c.ctx).thread th).budget + c.n ∧
    (((s.grantClaim k c r).ctx k c.ctx).thread th).claim = none ∧
    (((s.grantClaim k c r).ctx k c.ctx).thread th).regs = ((s.ctx k c.ctx).thread th).regs ∧
    Filed ((s.grantClaim k c r).ctx k c.ctx) ((s.ctx k c.ctx).thread th).resume th := by
  have hctx : (s.grantClaim k c r).ctx k c.ctx =
      ((s.ctx k c.ctx).grant c).fileKeys s.now (c.threads.map fun t => (t, (((s.ctx k c.ctx).grant c).thread t).resume)) := by
    have hnow : (c.threads.foldl (fun s t => s.modThread k c.ctx t (Thread.granted c.n))
        (s.modCore k fun co => { co with claims := r, taken := co.taken + c.n * c.live })).now = s.now :=
      foldl_keeps State.now (fun _ _ => by rfl) _ _
    rw [State.grantClaim, State.releaseThreads, State.ctx_modCtx, hnow, State.ctx_foldl_modThread,
      State.ctx_modCore_keeps (f := fun co => { co with claims := r, taken := co.taken + c.n * c.live }) fun _ => rfl]
    rfl
  have hthread : ((s.ctx k c.ctx).grant c).thread th = Thread.granted c.n ((s.ctx k c.ctx).thread th) :=
    Ctx.thread_foldl_modThread_nodup hnodup hth _
  have hrises : Rises ((s.ctx k c.ctx).grant c).bins := by
    rw [Ctx.grant, foldl_keeps Ctx.bins fun _ _ => by rfl]
    exact hbins
  rw [hctx]
  refine ⟨?_, ?_, ?_, ?_⟩
  · exact (Ctx.thread_fileKeys (g := Thread.budget) (fun _ _ _ => rfl) _ _ _ th).trans (by rw [hthread]; rfl)
  · exact (Ctx.thread_fileKeys (g := Thread.claim) (fun _ _ _ => rfl) _ _ _ th).trans (by rw [hthread]; rfl)
  · exact (Ctx.thread_fileKeys (g := Thread.regs) (fun _ _ _ => rfl) _ _ _ th).trans (by rw [hthread]; rfl)
  · have hfiled := Ctx.fileKeys_filed hrises s.now (List.mem_map_of_mem (f := fun t => (t, (((s.ctx k c.ctx).grant c).thread t).resume)) hth)
    rw [hthread] at hfiled
    exact hfiled

end

/-! ### Trap records (R259, R260) -/

section
variable {s : State} {k i h : Nat} {p : Partition} {ctl : Word} {r : TrapRec}

theorem deliverRecords_of_room (hp : s.partOfCore k = some (i, p)) (hr : (s.core k).recs = [r]) (hring : ringPush p.trapCtl = some (h, ctl)) :
    deliverRecords k 1 s =
      ({ s with parts := tset s.parts i { p with trapCtl := ctl, seq := (p.seq + 1) % 2 ^ 16 } }.modCore k fun c =>
        { c with recs := [] }).putWords (p.trapBase.toNat + 64 * h) (seqWords p.seq r.words) := by
  simp only [deliverRecords, hp, hr, hring]

theorem deliverRecords_of_full (hp : s.partOfCore k = some (i, p)) (hring : ringPush p.trapCtl = none) (n : Nat) :
    deliverRecords k n s = s := by
  cases n with
  | zero => rfl
  | succ n => cases hr : (s.core k).recs <;> simp only [deliverRecords, hp, hr, hring]

end

theorem seqWords_eq (seq : Nat) (ws : List Word) :
    seqWords seq ws = ws.zipIdx.map fun w => if w.2 = 1 then w.1 ||| word64 (seq % 2 ^ 16) else w.1 := by
  simp only [seqWords, beq_iff_eq]

/-! ### The restart of a firmware slot (R261) -/

section
variable (s : State) (k : Nat) (entry : TKey)

/-- The context of a firmware slot as it starts at an entry. -/
def Ctx.firmwareAt (c : Ctx) (entry : TKey) : Ctx :=
  ({ c with
      state := .active, bins := [], overflow := [], inflight := [], latches := [], late := [], delays := [], fence := none, spec := none
      entry := some (entry, 0), group := some ⟨[(0, 0)], {}, 0, none, none⟩ } : Ctx).modThread 0 fun th => { th with
    place := .group, trap := none, fault := none, pend := none, skip := none, inTr := 0, calls := [], budget := entry.budget }

theorem State.startFirmware_ctx : (s.startFirmware k entry).ctx k 4 = (s.ctx k 4).firmwareAt entry := by
  unfold State.startFirmware
  dsimp only
  rw [State.ctx_modCore_of_ctxs _ _ _ fun _ => by rfl, State.ctx_modCtx]
  rfl

theorem State.startFirmware_ctx_ne {x : Nat} (hx : x ≠ 4) : (s.startFirmware k entry).ctx k x = s.ctx k x := by
  unfold State.startFirmware
  dsimp only
  rw [State.ctx_modCore_of_ctxs _ _ _ fun _ => by rfl, State.ctx_modCtx_ne _ _ fun e => hx (Prod.ext_iff.1 e).2]
  rfl

theorem State.startFirmware_brmode : ((s.startFirmware k entry).core k).sel.brmode.getLsbD 0 = true := by
  unfold State.startFirmware
  dsimp only
  rw [State.core_modCore]
  simp

end

/-! ### Repeated page walks (R183) -/

theorem State.ctx_modCluster (s : State) (c k x : Nat) (f : Cluster → Cluster) : (s.modCluster c f).ctx k x = s.ctx k x := rfl
theorem State.ctx_startWalker (s : State) (c k x : Nat) : (s.startWalker c).ctx k x = s.ctx k x := rfl
theorem State.core_schedule (s : State) (t : Nat) (i : Instr) (k : Nat) : (s.schedule t i).core k = s.core k := rfl
theorem State.ctx_schedule (s : State) (t : Nat) (i : Instr) (k x : Nat) : (s.schedule t i).ctx k x = s.ctx k x := rfl

section
variable {s : State} {sp : Space} {va : Nat} {kind : AccessKind}

theorem State.translate_of_fault {lv : Nat} (h : (s.translate sp va kind).1 = .fault lv) : (s.translate sp va kind).2 = s := by
  revert h
  unfold State.translate
  dsimp only
  split
  · split <;> exact fun h => nomatch h
  · split
    · exact fun h => nomatch h
    · exact fun _ => rfl

/-- A translation changes no context: it fills TLBs, starts a walker, and may set A in the leaf (R180, R182). -/
theorem State.translate_ctx (k x : Nat) : (s.translate sp va kind).2.ctx k x = s.ctx k x := by
  unfold State.translate
  dsimp only
  split
  · split <;> rfl
  · split
    next pa e addr _ =>
      dsimp only
      rw [State.ctx_modCluster, State.ctx_modCore_keeps fun _ => by rfl, State.ctx_startWalker]
      split
      · rfl
      · exact s.homeArrive_ctx k x _ rfl
    · rfl

end

section
variable {β : Type} {g : Thread → β} (hg : ∀ th p q, g { th with place := p, pend := q } = g th)
include hg

theorem Ctx.thread_claimOverflow (now : Nat) (c : Ctx) (u : Nat) : g ((c.claimOverflow now).thread u) = g (c.thread u) := by
  unfold Ctx.claimOverflow
  split
  · exact Ctx.foldl_modThread_keeps (fun th => hg th .bin th.pend) _ _
  · rfl

theorem Ctx.thread_unfile (now t : Nat) (c : Ctx) (u : Nat) : g ((c.unfile now t).thread u) = g (c.thread u) := by
  unfold Ctx.unfile
  dsimp only
  split
  · exact Ctx.thread_claimOverflow hg now _ u
  · rfl

end

/-- The page fault that a thread of a context waits for. -/
def State.faultOf (s : State) (k x u : Nat) : Option FaultHold := ((s.ctx k x).thread u).fault

section
variable (s : State) (k x u : Nat)

theorem State.faultOf_modCtx {f : Ctx → Ctx} (hf : ((f (s.ctx k x)).thread u).fault = ((s.ctx k x).thread u).fault) :
    (s.modCtx k x f).faultOf k x u = s.faultOf k x u := by
  rw [State.faultOf, State.ctx_modCtx, hf, State.faultOf]

theorem State.faultOf_addRecord (t : Nat) (tr : Trap) (late eng : Bool) (at_ stop : Pc) (point : Option (Nat × Nat)) (tick : Option Nat) :
    (s.addRecord k x t tr late eng at_ stop point tick).faultOf k x u = s.faultOf k x u := by
  unfold State.addRecord State.faultOf
  dsimp only
  rw [State.ctx_schedule, State.ctx_modCore_of_ctxs _ _ _ fun _ => by rfl]

theorem State.faultOf_leavePark (t : Nat) : (s.leavePark k x t).faultOf k x u = s.faultOf k x u := by
  unfold State.leavePark State.faultOf
  dsimp only
  rw [State.ctx_modCore_of_ctxs _ _ _ fun _ => by rfl, State.ctx_modCtx]
  rfl

theorem State.faultOf_park (t : Nat) (h : TrapHold) (eng : Bool) (tick : Option Nat) :
    (s.park k x t h eng tick).faultOf k x u = s.faultOf k x u := by
  unfold State.park
  dsimp only
  rw [State.faultOf_modCtx]
  · rw [State.faultOf_leavePark, State.faultOf_addRecord]
  · by_cases hu : u = t
    · rw [hu, Ctx.thread_modThread]
      dsimp only
      exact Ctx.thread_unfile (g := Thread.fault) (fun _ _ _ => rfl) _ _ _ _
    · rw [Ctx.thread_modThread_ne _ _ hu]
      exact Ctx.thread_unfile (g := Thread.fault) (fun _ _ _ => rfl) _ _ _ _

theorem State.faultOf_parkLate (t : Nat) (h : TrapHold) (eng : Bool) (tick : Option Nat) :
    (s.parkLate k x t h eng tick).faultOf k x u = s.faultOf k x u := by
  unfold State.parkLate
  split
  · exact s.faultOf_addRecord k x u ..
  · exact s.faultOf_park k x u ..

theorem State.faultOf_stopFirmware : (if x == 4 then s.stopFirmware k else s).faultOf k x u = s.faultOf k x u := by
  split
  next hx =>
    obtain rfl := eq_of_beq hx
    exact s.faultOf_modCtx k 4 u (f := fun c => c.noGroup) rfl
  next => rfl

theorem Ctx.thread_noGroup (c : Ctx) : c.noGroup.thread u = c.thread u := rfl

theorem Ctx.thread_setSecond (c : Ctx) (b : Bool) : Ctx.thread { c with second := b } u = c.thread u := rfl

/-- Filing the rest of the issue group changes no thread's page fault. -/
theorem Ctx.fault_fileGroup (c : Ctx) (at_ : Nat) (gr : Group) (pc : Pc) (ts : List Nat) :
    ((c.fileGroup at_ gr pc ts).thread u).fault = (c.thread u).fault :=
  Ctx.thread_fileKeys (g := Thread.fault) (fun _ _ _ => rfl) _ _ _ _

theorem State.faultOf_takeTrapsAt (traps : List (Nat × Trap × Pc)) (point : Option (Nat × Nat)) :
    (s.takeTrapsAt k x traps point).faultOf k x u = s.faultOf k x u := by
  unfold State.takeTrapsAt
  dsimp only
  rw [State.faultOf_stopFirmware, foldl_keeps (fun s : State => s.faultOf k x u) fun s t => ?_]
  · refine s.faultOf_modCtx k x u ?_
    rw [Ctx.thread_setSecond, Ctx.thread_noGroup, Ctx.fault_fileGroup]
  · split
    · exact s.faultOf_park k x u ..
    · rfl

theorem State.faultOf_takeLateHolds (holds : List (Nat × TrapHold)) (eng : Bool) (tick : Option Nat) :
    (s.takeLateHolds k x holds eng tick).faultOf k x u = s.faultOf k x u := by
  unfold State.takeLateHolds
  dsimp only
  rw [State.faultOf_stopFirmware, foldl_keeps (fun s : State => s.faultOf k x u) fun s e => ?_]
  · refine s.faultOf_modCtx k x u ?_
    split
    · split
      · rw [Ctx.thread_noGroup, Ctx.fault_fileGroup]
      · rfl
    · rfl
  · exact foldl_keeps (fun s : State => s.faultOf k x u) (fun s h => s.faultOf_parkLate k x u ..) _ _

theorem State.faultOf_loseBytes (addr : Nat) : (s.loseBytes k x addr).faultOf k x u = s.faultOf k x u := by
  refine s.faultOf_modCtx k x u ?_
  split <;> rfl

/-- A thread that waits for no page fault waits for none once the faults of its group have been settled (R183). -/
theorem State.faultOf_settleFaults {s : State} (h : s.faultOf k x u = none) : (s.settleFaults k x).faultOf k x u = none := by
  unfold State.settleFaults
  extract_lets c gr held ripe
  split
  · exact h
  next =>
    extract_lets cleared lost precise taken late
    have hcleared : cleared.faultOf k x u = none := by
      refine List.foldlRecOn (motive := fun s : State => s.faultOf k x u = none) _ _ h fun s hs e _ => ?_
      by_cases hu : u = e.1
      · simp only [State.faultOf, State.modThread, State.ctx_modCtx, hu, Ctx.thread_modThread]
      · simp only [State.faultOf, State.modThread, State.ctx_modCtx, Ctx.thread_modThread_ne _ _ hu]
        exact hs
    have hlost : lost.faultOf k x u = none :=
      (foldl_keeps (f := fun (s : State) (e : Nat × FaultHold) => s.loseBytes k x e.2.addr) (fun s : State => s.faultOf k x u)
        (fun s e => s.faultOf_loseBytes k x u e.2.addr) _ _).trans hcleared
    have htaken : taken.faultOf k x u = none := by
      unfold taken
      split
      · exact hlost
      · exact (lost.faultOf_takeTrapsAt k x u ..).trans hlost
    split
    · exact htaken
    · exact (taken.faultOf_takeLateHolds k x u ..).trans htaken

end

section
variable {s : State} {k x t : Nat} {f : FaultHold}

/-- A repeated walk of a thread: a new fault of its own, or the end of its wait. -/
theorem pageWalkComplete_of_fault {lv : Nat} (hf : ((s.ctx k x).thread t).fault = some f) (hwalk : f.walking = true)
    (hw : (s.translate (s.spaceOf k x) f.addr (if f.write then .store else .load)).1 = .fault lv) :
    exec (.pageWalkComplete k x t) s = .next (s.refault k x t f lv) := by
  have hsame := State.translate_of_fault hw
  show execPageWalkComplete k x t s = _
  simp only [execPageWalkComplete, hf, hwalk, Bool.not_true, Bool.false_eq_true, if_false]
  generalize s.translate (s.spaceOf k x) f.addr (if f.write then .store else .load) = w at hw hsame
  obtain ⟨walk, s1⟩ := w
  subst hw hsame
  rfl

theorem pageWalkComplete_of_no_fault (hf : ((s.ctx k x).thread t).fault = some f) (hwalk : f.walking = true)
    (hw : ∀ lv, (s.translate (s.spaceOf k x) f.addr (if f.write then .store else .load)).1 ≠ .fault lv) :
    exec (.pageWalkComplete k x t) s =
      .next ((s.translate (s.spaceOf k x) f.addr (if f.write then .store else .load)).2.replayed k x t) := by
  revert hw
  show _ → execPageWalkComplete k x t s = _
  simp only [execPageWalkComplete, hf, hwalk, Bool.not_true, Bool.false_eq_true, if_false]
  generalize s.translate (s.spaceOf k x) f.addr (if f.write then .store else .load) = w
  obtain ⟨walk, s1⟩ := w
  intro hw
  cases walk with
  | ok pa pte => rfl
  | fault lv => exact absurd rfl (hw lv)
  | violation => rfl

/-- A thread that faults again waits for its new fault, and a record of it joins those of the core (R183, R260). -/
theorem State.refault_record (s : State) (k x t : Nat) (f : FaultHold) (lv : Nat) :
    ((s.refault k x t f lv).ctx k x).thread t =
      { (s.ctx k x).thread t with fault := some { f with level := lv, walking := false } } ∧
    ∃ r, ((s.refault k x t f lv).core k).recs = (s.core k).recs ++ [r] ∧ r.ctx = x ∧ r.thread = t := by
  unfold State.refault State.addRecord
  extract_lets h ws
  constructor
  · rw [State.modThread, State.ctx_modCtx, Ctx.thread_modThread, State.ctx_schedule, State.ctx_modCore_of_ctxs _ _ _ fun _ => by rfl]
  · refine ⟨⟨ws, x, t⟩, (State.core_modCtx_keeps (g := Core.recs) (fun _ _ => rfl) _ _ _ _).trans ?_, rfl, rfl⟩
    rw [State.core_schedule, State.core_modCore]

/-- Outside a fence an answered access ends its thread's wait (R183). -/
theorem State.replayed_fault (hfence : (s.ctx k x).fence = none) : (s.replayed k x t).faultOf k x t = none := by
  have hcleared : (s.modThread k x t fun th => { th with fault := none }).faultOf k x t = none := by
    simp only [State.faultOf, State.modThread, State.ctx_modCtx, Ctx.thread_modThread]
  have hopen : ((s.modThread k x t fun th => { th with fault := none }).ctx k x).fence = none := by
    rw [State.modThread, State.ctx_modCtx]
    exact hfence
  simp only [State.replayed, hopen, Option.any_none, Bool.false_eq_true, if_false]
  exact State.faultOf_settleFaults k x t hcleared

end

/-- The grants of claims, the delivery of records, the restart of a firmware slot and the ends of walks, event by event. -/
theorem claimsRecordsWalks : ClaimsRecordsWalks := by
  intro s k
  refine ⟨fun c r hclaims hfits hnodup hbins => ?_, fun c r hclaims hshort => ?_, fun i p r h ctl hp hr hring => ?_,
    fun i p hp hring => ?_, fun entry hentry => ?_, fun x th f hf hwalk hfence => ?_⟩
  · exact ⟨_, (regclmGrant_eq hclaims).trans (congrArg _ (if_pos hfits)), State.grantClaim_core.1, State.grantClaim_core.2,
      fun th hth => State.grantClaim_thread hnodup hbins hth⟩
  · exact ⟨_, (regclmGrant_eq hclaims).trans (congrArg _ (if_neg (Nat.not_le.2 hshort))), rfl⟩
  · refine ⟨_, rfl, ?_⟩
    rw [hr]
    exact (deliverRecords_of_room hp hr hring).trans (by rw [seqWords_eq])
  · exact ⟨_, rfl, deliverRecords_of_full hp hring _⟩
  · have hexec : exec (.firmwareRestart k) s = .next (s.startFirmware k entry) := by
      show execFirmwareRestart k s = _
      simp only [execFirmwareRestart, hentry]
    refine ⟨_, hexec, ?_⟩
    dsimp only
    rw [State.startFirmware_ctx]
    refine ⟨rfl, rfl, rfl, s.startFirmware_brmode k entry, ?_, ?_, fun x hx => s.startFirmware_ctx_ne k entry hx⟩ <;>
      rw [Ctx.firmwareAt, Ctx.thread_modThread]
    rfl
  · refine ⟨fun lv hw => ⟨_, pageWalkComplete_of_fault hf hwalk hw, ?_⟩, fun hw => ⟨_, pageWalkComplete_of_no_fault hf hwalk hw, ?_⟩⟩
    · rw [State.translate_of_fault hw]
      obtain ⟨hthread, hrec⟩ := s.refault_record k x th f lv
      exact ⟨by rw [hthread], hrec⟩
    · exact State.replayed_fault (by rw [State.translate_ctx, hfence])

/-- Settles O41: the ends of what threads wait for, and the claims, records and walks that they wait on. -/
theorem waitsAndClaims : Obligations.WaitsAndClaims := ⟨waitsEnd, claimsRecordsWalks⟩

end
end Sys2Proof.Machine
end

section
-- One proof after another, as in the sections before this one.
set_option Elab.async false

namespace Sys2Proof.Lpf

section
open BitVec

/-! ### The fields of the words (R286, R287) -/

@[simp] theorem joinW_halves (v : Word) : joinW (v.extractLsb' 0 32) (v.extractLsb' 32 32) = v :=
  extractLsb'_append_extractLsb' (w := 32) (len := 32)

section
variable (i : Inst) (nopw : BitVec 4)

@[simp] theorem Inst.header_opc : (i.header nopw).extractLsb' 23 9 = i.opc := extractLsb'_append_eq_left

@[simp] theorem Inst.header_ty : (i.header nopw).extractLsb' 18 5 = i.ty := by
  refine (extractLsb'_append_eq_of_add_le (by decide)).trans ?_
  exact extractLsb'_append_eq_left

@[simp] theorem Inst.header_mod : (i.header nopw).extractLsb' 10 8 = i.mod := by
  iterate 2 refine (extractLsb'_append_eq_of_add_le (by decide)).trans ?_
  exact extractLsb'_append_eq_left

@[simp] theorem Inst.header_nopw : (i.header nopw).extractLsb' 6 4 = nopw := by
  iterate 3 refine (extractLsb'_append_eq_of_add_le (by decide)).trans ?_
  exact extractLsb'_append_eq_left

@[simp] theorem Inst.header_zero : (i.header nopw).extractLsb' 0 4 = 0#4 := by
  iterate 5 refine (extractLsb'_append_eq_of_add_le (by decide)).trans ?_
  exact extractLsb'_append_eq_right

@[simp] theorem Inst.header_g : (i.header nopw)[5] = i.g := by
  iterate 4 refine (getLsbD_append.trans (if_pos (by decide))).trans ?_
  exact (getLsbD_append.trans (if_neg (by decide))).trans (getLsbD_ofBool ..)

@[simp] theorem Inst.header_gn : (i.header nopw)[4] = i.gn := by
  iterate 5 refine (getLsbD_append.trans (if_pos (by decide))).trans ?_
  exact (getLsbD_append.trans (if_neg (by decide))).trans (getLsbD_ofBool ..)
end

@[simp] theorem takeVals_words (vs : List (BitVec 16)) (ws : List W32) :
    takeVals vs.length (vs.map (fun n => 0#16 ++ n) ++ ws) = .ok (vs, ws) := by
  induction vs with
  | nil => rfl
  | cons v vs ih =>
    have hhigh : (0#16 ++ v : W32).extractLsb' 16 16 = 0#16 := extractLsb'_append_eq_left
    have hlow : (0#16 ++ v : W32).extractLsb' 0 16 = v := extractLsb'_append_eq_right
    simp [takeVals, hhigh, hlow, ih, bind, Except.bind]

/-! ### Operands are read back (R70, R287) -/

theorem takeArg_val (n : BitVec 16) (ws : List W32) : takeArg ((0#16 ++ n) :: ws) = .ok (.val n, ws) := by
  have hkind : (0#16 ++ n : W32).extractLsb' 30 2 = 0#2 := extractLsb'_append_eq_of_le (xhi := 0#16) (by decide)
  have hzero : (0#16 ++ n : W32).extractLsb' 16 14 = 0#14 := extractLsb'_append_eq_of_le (xhi := 0#16) (by decide)
  have hlow : (0#16 ++ n : W32).extractLsb' 0 16 = n := extractLsb'_append_eq_right
  simp [takeArg, hkind, hzero, hlow]

theorem takeArg_short (v : BitVec 30) (ws : List W32) : takeArg ((1#2 ++ v) :: ws) = .ok (.short v, ws) := by
  have hkind : (1#2 ++ v : W32).extractLsb' 30 2 = 1#2 := extractLsb'_append_eq_left
  have hlow : (1#2 ++ v : W32).extractLsb' 0 30 = v := extractLsb'_append_eq_right
  simp [takeArg, hkind, hlow]

theorem takeArg_ext (v : Word) (ws : List W32) : takeArg ((3#2 ++ 0#30) :: (splitW v ++ ws)) = .ok (.ext v, ws) := by
  simp [takeArg, splitW]

/-- The first word of a reference to block `b` whose count field is `n` (R70). -/
def refWord (b : BitVec 16) (n : BitVec 6) : W32 := 2#2 ++ (b ++ (n ++ 0#8))

section
variable (b : BitVec 16) (n : BitVec 6)

@[simp] theorem refWord_kind : (refWord b n).extractLsb' 30 2 = 2#2 := extractLsb'_append_eq_left

@[simp] theorem refWord_block : (refWord b n).extractLsb' 14 16 = b := by
  refine (extractLsb'_append_eq_of_add_le (by decide)).trans ?_
  exact extractLsb'_append_eq_left

@[simp] theorem refWord_count : (refWord b n).extractLsb' 8 6 = n := by
  iterate 2 refine (extractLsb'_append_eq_of_add_le (by decide)).trans ?_
  exact extractLsb'_append_eq_left

@[simp] theorem refWord_zero : (refWord b n).extractLsb' 0 8 = 0#8 := by
  iterate 2 refine (extractLsb'_append_eq_of_add_le (by decide)).trans ?_
  exact extractLsb'_append_eq_right

end

section
variable (b : BitVec 16) {as : List (BitVec 16)} (ws : List W32)

/-- A count below 63 stands in the reference's own word. -/
theorem takeArg_ref (h : as.length < 63) :
    takeArg (refWord b (BitVec.ofNat 6 as.length) :: (as.map (fun n => 0#16 ++ n) ++ ws)) = .ok (.ref b as, ws) := by
  have hn : (BitVec.ofNat 6 as.length).toNat = as.length := Nat.mod_eq_of_lt (by omega)
  simp [takeArg, hn, h, bind, Except.bind]

/-- A count of 63 or 64 stands in an immediate word of its own. -/
theorem takeArg_ref_counted (h : as.length = 63 ∨ as.length = 64) :
    takeArg (refWord b 63#6 :: (1#2 ++ BitVec.ofNat 30 as.length) :: (as.map (fun n => 0#16 ++ n) ++ ws)) = .ok (.ref b as, ws) := by
  have hkind : (1#2 ++ BitVec.ofNat 30 as.length : W32).extractLsb' 30 2 = 1#2 := extractLsb'_append_eq_left
  have hlow : (1#2 ++ BitVec.ofNat 30 as.length : W32).extractLsb' 0 30 = BitVec.ofNat 30 as.length := extractLsb'_append_eq_right
  have hn : (BitVec.ofNat 30 as.length).toNat = as.length := Nat.mod_eq_of_lt (by omega)
  have hcount : (BitVec.ofNat 30 as.length == 63#30 || BitVec.ofNat 30 as.length == 64#30) = true := by
    rcases h with h | h <;> rw [h] <;> rfl
  simp [takeArg, hkind, hlow, hcount, hn, bind, Except.bind]

end

/-- A well-formed operand is read back from its words. -/
theorem takeArg_words {a : Arg} (h : a.wf = true) (ws : List W32) : takeArg (a.words ++ ws) = .ok (a, ws) := by
  cases a with
  | val n => exact takeArg_val n ws
  | short v => exact takeArg_short v ws
  | ext v => exact takeArg_ext v ws
  | ref b as =>
    have hlen : as.length ≤ 64 := by simpa [Arg.wf] using h
    by_cases hshort : as.length < 63
    · rw [Arg.words, if_pos hshort]
      exact takeArg_ref b ws hshort
    · rw [Arg.words, if_neg hshort]
      exact takeArg_ref_counted b ws (by omega)

theorem Arg.words_length_pos (a : Arg) : 0 < a.words.length := by
  cases a with
  | ref => rw [Arg.words]; split <;> exact Nat.succ_pos _
  | val | short | ext => exact Nat.succ_pos _

theorem takeArgs_cons {f : Nat} {ws r : List W32} {a : Arg} {as : List Arg} (ha : takeArg ws = .ok (a, r)) (has : takeArgs f r = .ok as) :
    takeArgs (f + 1) ws = .ok (a :: as) := by
  cases ws with
  | nil => cases ha
  | cons => simp [takeArgs, ha, has, bind, Except.bind]

/-- Well-formed operands are read back from their words, with fuel for each word. -/
theorem takeArgs_words {as : List Arg} (h : as.all Arg.wf = true) {f : Nat} (hf : (as.map Arg.words).flatten.length ≤ f) :
    takeArgs f (as.map Arg.words).flatten = .ok as := by
  induction as generalizing f with
  | nil => cases f <;> rfl
  | cons a as ih =>
    obtain ⟨ha, has⟩ := Bool.and_eq_true_iff.1 (List.all_cons ▸ h)
    have hpos := a.words_length_pos
    rw [List.map_cons, List.flatten_cons, List.length_append] at hf
    obtain ⟨f, rfl⟩ : ∃ g, f = g + 1 := ⟨f - 1, by omega⟩
    exact takeArgs_cons (takeArg_words ha _) (ih has (by omega))

/-! ### Instructions are read back (R286, R288) -/

theorem takeArgs_operandWords {i : Inst} (h : i.args.all Arg.wf = true) : takeArgs i.operandWords.length i.operandWords = .ok i.args :=
  takeArgs_words h le_rfl

theorem Inst.guard_of_gn {i : Inst} (hg : (i.g || !i.gn) = true) : ¬(i.gn = true ∧ i.g = false) := by
  rintro ⟨hgn, hno⟩
  simp [hgn, hno] at hg

section
variable {i : Inst} (hg : (i.g || !i.gn) = true) (hargs : i.args.all Arg.wf = true) (rest : List W32)
include hg hargs

/-- Fewer than 15 operand words are counted in the header. -/
theorem decode_of_short (h : i.operandWords.length < 15) :
    decode (i.header (BitVec.ofNat 4 i.operandWords.length) :: (i.operandWords ++ rest)) = .ok (i, rest) := by
  have hn : (BitVec.ofNat 4 i.operandWords.length).toNat = i.operandWords.length := Nat.mod_eq_of_lt (by omega)
  simp [decode, Inst.guard_of_gn hg, hn, h, takeArgs_operandWords hargs, bind, Except.bind]

/-- From 15 operand words on, a word after the header counts them. -/
theorem decode_of_long (h : 15 ≤ i.operandWords.length) (hmax : i.operandWords.length ≤ 255) :
    decode (i.header 15#4 :: BitVec.ofNat 32 i.operandWords.length :: (i.operandWords ++ rest)) = .ok (i, rest) := by
  have hn : (BitVec.ofNat 32 i.operandWords.length).toNat = i.operandWords.length := Nat.mod_eq_of_lt (by omega)
  simp [decode, Inst.guard_of_gn hg, hn, h, hmax, takeArgs_operandWords hargs, bind, Except.bind]

end

end
end Sys2Proof.Lpf

namespace Sys2Proof.Machine

/-- Settles O55: the operands are read back one after another, and the header and the count give the rest. -/
theorem lpfRoundTrip : Obligations.LpfRoundTrip := by
  unfold Obligations.LpfRoundTrip
  intro i rest h
  obtain ⟨h, hg⟩ := Bool.and_eq_true_iff.1 h
  obtain ⟨hargs, hmax⟩ := Bool.and_eq_true_iff.1 h
  unfold Lpf.Inst.words
  by_cases hlen : i.operandWords.length < 15
  · rw [if_pos hlen]
    exact Lpf.decode_of_short hg hargs rest hlen
  · rw [if_neg hlen]
    exact Lpf.decode_of_long hg hargs rest (Nat.not_lt.1 hlen) (of_decide_eq_true hmax)

end Sys2Proof.Machine
end

section
-- One proof after another, as in the sections before this one.
set_option Elab.async false

namespace Sys2Proof.Machine

section
open Sys2Proof.Claims

/-! ### Objects (R84, R85, R178) -/

theorem exists_of_bind_eq_ok {ε α β : Type} {x : Except ε α} {f : α → Except ε β} {b : β} (h : x.bind f = .ok b) :
    ∃ a, x = .ok a ∧ f a = .ok b := by
  cases x with
  | error => cases h
  | ok a => exact ⟨a, rfl, h⟩

/-- The verified copy of an object holds its words and its partition. -/
theorem verify_words {part : Nat} {ws : List W32} {o : Obj} (h : verify part ws = .ok o) : o.words = ws ∧ o.part = part := by
  unfold verify at h
  -- The five checks of the header and the three passes that come before the copy.
  iterate 8 obtain ⟨_, -, h⟩ := exists_of_bind_eq_ok h
  cases h
  exact ⟨rfl, rfl⟩

/-- Installing firmware changes cores and the pins of their clusters' translations, and nothing else. -/
theorem State.installFirmware_keeps {β : Type} (g : State → β) (hcore : ∀ s k f, g (s.modCore k f) = g s)
    (hcluster : ∀ s c f, g (s.modCluster c f) = g s) (s : State) (p : Partition) (o : Obj) (id : Nat) :
    g (s.installFirmware p o id) = g s := by
  have hstart (s : State) (k : Nat) (entry : TKey) : g (s.startFirmware k entry) = g s :=
    (hcore ..).trans ((hcore ..).trans (hcluster ..))
  unfold State.installFirmware
  split
  · exact foldl_keeps g (fun s k => (hstart ..).trans (hcore ..)) _ _
  · rfl

@[simp] theorem State.installFirmware_objs (s : State) (p : Partition) (o : Obj) (id : Nat) : (s.installFirmware p o id).objs = s.objs :=
  s.installFirmware_keeps State.objs (fun _ _ _ => rfl) (fun _ _ _ => rfl) p o id

@[simp] theorem State.installFirmware_nextObj (s : State) (p : Partition) (o : Obj) (id : Nat) :
    (s.installFirmware p o id).nextObj = s.nextObj :=
  s.installFirmware_keeps State.nextObj (fun _ _ _ => rfl) (fun _ _ _ => rfl) p o id

@[simp] theorem State.installFirmware_host (s : State) (p : Partition) (o : Obj) (id : Nat) : (s.installFirmware p o id).host = s.host :=
  s.installFirmware_keeps State.host (fun _ _ _ => rfl) (fun _ _ _ => rfl) p o id

/-- Firmware tells the host what came of a load: the identifier of the object, or the offset of the failing word. -/
def State.loadReply (s : State) (ok : Bool) (n : Nat) : State := s.modHost fun h => { h with loads := h.loads ++ [⟨ok, n⟩] }

theorem tget_tdel {α : Type} (t : Tab α) (k j : Nat) : tget (tdel t k) j = if j = k then none else tget t j := by
  rw [tdel, tget_filter_key (· != k)]
  by_cases h : j = k <;> simp [h]

section
variable {s u : State} {part : Nat} {image : CodeImage} (hrun : s.phase = .running)
include hrun

theorem loadObject_of_no_part {ws : List W32} (hp : tget s.parts part = none) :
    exec (.loadObject part (.words ws)) s = .next (s.reply false) := by
  show execLoadObject part (.words ws) s = _
  simp [execLoadObject, hrun, hp, State.imageWords, State.reply]

section
variable {p : Partition} (hp : tget s.parts part = some p)
include hp

theorem loadObject_of_fetch_error {off : Nat} (hws : s.imageWords part image = (.error off, u)) :
    exec (.loadObject part image) s = .next (u.loadReply false off) := by
  show execLoadObject part image s = _
  simp [execLoadObject, hrun, hp, hws, Except.bind, State.loadReply]

variable {ws : List W32} (hws : s.imageWords part image = (.ok ws, u))
include hws

theorem loadObject_of_verify_error {off : Nat} (hv : verify part ws = .error off) :
    exec (.loadObject part image) s = .next (u.loadReply false off) := by
  show execLoadObject part image s = _
  simp [execLoadObject, hrun, hp, hws, hv, Except.bind, State.loadReply]

theorem loadObject_of_verified {o : Obj} (hv : verify part ws = .ok o) :
    exec (.loadObject part image) s = .next
      (({ u.loadReply true s.nextObj with objs := tset u.objs s.nextObj o, nextObj := s.nextObj + 1 } : State).installFirmware p o s.nextObj) := by
  show execLoadObject part image s = _
  simp [execLoadObject, hrun, hp, hws, hv, Except.bind, State.loadReply]

end

theorem unloadObject_of_unused {obj : Nat} {o : Obj} (ho : tget s.objs obj = some o) (hl : ∀ l ∈ s.launches, l.2.obj ≠ obj) :
    exec (.unloadObject obj) s = .next { s.reply true with objs := tdel s.objs obj } := by
  have hused : (s.launches.any fun l => l.2.obj == obj) = false := by simpa using hl
  show execUnloadObject obj s = _
  simp [execUnloadObject, hrun, ho, hused, State.reply]

theorem unloadObject_of_refused {obj : Nat} (h : tget s.objs obj = none ∨ ∃ l ∈ s.launches, l.2.obj = obj) :
    exec (.unloadObject obj) s = .next (s.reply false) := by
  have hok : ((tget s.objs obj).isSome && !s.launches.any fun l => l.2.obj == obj) = false := by
    rcases h with h | ⟨l, hl, rfl⟩
    · simp [h]
    · have hused : (s.launches.any fun k => k.2.obj == l.2.obj) = true := List.any_eq_true.2 ⟨l, hl, beq_self_eq_true _⟩
      rw [hused, Bool.not_true, Bool.and_false]
  show execUnloadObject obj s = _
  simp only [execUnloadObject, hrun, hok, State.reply]
  rfl

end

theorem objects : Objects := by
  intro s hrun
  refine ⟨fun _ _ => rfl, fun part image p ws u hp hws => ⟨fun o hv => ?_, fun off hv => ?_⟩, fun part image p off u hp hws => ?_,
    fun part ws hp => ?_, fun obj o ho hl => ?_, fun obj h => ?_⟩
  · obtain ⟨hwords, hpart⟩ := verify_words hv
    refine ⟨_, loadObject_of_verified hrun hp hws hv, ?_, hwords, hpart, fun i hi => ?_, ?_, ?_⟩
    · rw [State.installFirmware_objs, tget_tset_self]
    · rw [State.installFirmware_objs, tget_tset_ne _ _ hi]
    · rw [State.installFirmware_nextObj]
    · rw [State.installFirmware_host]; rfl
  · exact ⟨_, loadObject_of_verify_error hrun hp hws hv, rfl, rfl⟩
  · exact ⟨_, loadObject_of_fetch_error hrun hp hws, rfl, rfl⟩
  · exact ⟨_, loadObject_of_no_part hrun hp, rfl⟩
  · refine ⟨_, unloadObject_of_unused hrun ho hl, ?_, fun i hi => ?_, rfl⟩
    · exact (tget_tdel ..).trans (if_pos rfl)
    · exact (tget_tdel ..).trans (if_neg hi)
  · exact ⟨_, unloadObject_of_refused hrun h, rfl⟩

/-! ### The life cycle, key slots and reports (R14, R23, R283, R285) -/

/-- Every table and memory of a wiped device is empty. -/
theorem State.wiped_blank (s : State) (pend : Option LifeCycle) : Blank (s.wiped pend) :=
  ⟨rfl, fun _ => rfl, fun _ => rfl, fun _ => rfl, State.keyOf_of_no_keys rfl, rfl, rfl, rfl, rfl, rfl, rfl, rfl⟩

/-- What a report of a device that is not RETURNED holds before its hash: the nonce, the state, the firmware and the partitions. -/
def State.reportBody (s : State) (nonce : List Byte) : List Nat :=
  nonce.map (·.toNat) ++ [lifeOrder s.life] ++ [0xB1, Config.firmwareHash s.boots] ++
    (s.objs.filter (·.2.fw)).map (fun o => Config.shake256 (o.2.words.map (·.toNat))) ++ s.parts.flatMap fun p => p.2.report p.1

section
variable {s : State}

theorem lifeCycleChange_of_forward {next : LifeCycle} (hrun : s.phase = .running) (h : lifeOrder s.life < lifeOrder next) :
    exec (.lifeCycleChange next) s = .next ((s.reply true).wiped (some next)) := by
  show execLifeCycleChange next s = _
  simp [execLifeCycleChange, hrun, h]

theorem lifeCycleChange_of_not_forward {next : LifeCycle} (hrun : s.phase = .running) (h : lifeOrder next ≤ lifeOrder s.life) :
    exec (.lifeCycleChange next) s = .next (s.reply false) := by
  show execLifeCycleChange next s = _
  simp [execLifeCycleChange, hrun, h]

theorem keySlotLoad_of_lt {slot : Nat} {key : BitVec 512} (hrun : s.phase = .running) (h : slot < 512) :
    exec (.keySlotLoad slot key) s = .next { s with keys := tset s.keys slot key } := by
  show execKeySlotLoad slot key s = _
  simp [execKeySlotLoad, hrun, Nat.not_le.2 h]

theorem keySlotLoad_of_le {slot : Nat} {key : BitVec 512} (h : 512 ≤ slot) : exec (.keySlotLoad slot key) s = .fault .absentUnit :=
  if_pos h

theorem attestationRequest_eq {nonce : List Byte} (hrun : s.phase = .running) (h : nonce.length = 32) :
    exec (.attestationRequest nonce) s = .next (s.modHost fun m => { m with mailbox := m.mailbox ++ [s.attest nonce] }) := by
  show execAttestationRequest nonce s = _
  simp [execAttestationRequest, hrun, h]

theorem State.attest_of_returned {nonce : List Byte} (h : s.life = .returned) : s.attest nonce = [3] := by
  simp [State.attest, h, lifeOrder]

theorem State.attest_of_not_returned {nonce : List Byte} (h : s.life ≠ .returned) :
    s.attest nonce = s.reportBody nonce ++ [Config.shake256 (s.reportBody nonce)] ++
      if s.identity then [Config.reportSignature (Config.shake256 (s.reportBody nonce))] else [] :=
  if_neg (beq_iff_eq.not.2 h)

/-- The report names the firmware that is loaded by its hashes. -/
theorem State.hash_mem_reportBody {nonce : List Byte} {o : Nat × Obj} (ho : o ∈ s.objs) (hfw : o.2.fw = true) :
    Config.shake256 (o.2.words.map (·.toNat)) ∈ s.reportBody nonce :=
  List.mem_append_left _ (List.mem_append_right _ (List.mem_map_of_mem (f := fun o : Nat × Obj => Config.shake256 (o.2.words.map (·.toNat)))
    (List.mem_filter.2 ⟨ho, hfw⟩)))

/-- The report of each partition stands in the report of the device as a piece. -/
theorem State.exists_reportBody_eq {nonce : List Byte} {p : Nat × Partition} (hp : p ∈ s.parts) :
    ∃ a b, s.reportBody nonce = a ++ p.2.report p.1 ++ b := by
  obtain ⟨before, after, hparts⟩ := List.append_of_mem hp
  rw [State.reportBody, hparts, List.flatMap_append, List.flatMap_cons, ← List.append_assoc, ← List.append_assoc]
  exact ⟨_, _, rfl⟩

end

theorem lifeCycleAndKeys : LifeCycleAndKeys := by
  intro s hrun
  refine ⟨fun next h => ?_, fun next h => ?_, fun slot key h => ?_, fun slot key h => keySlotLoad_of_le h,
    fun nonce hn => ⟨fun h => ?_, fun h => ?_⟩⟩
  · exact ⟨_, lifeCycleChange_of_forward hrun h, State.wiped_blank _ _, rfl, rfl, rfl⟩
  · exact ⟨_, lifeCycleChange_of_not_forward hrun h, rfl⟩
  · refine ⟨_, keySlotLoad_of_lt hrun h, ?_, fun i hi => ?_, rfl, rfl⟩
    · rw [State.keyOf, tgetD_tset_self]
    · rw [State.keyOf, tgetD_tset_ne _ _ _ hi, State.keyOf]
  · exact ⟨_, attestationRequest_eq hrun hn, by rw [State.attest_of_returned h]; rfl⟩
  · refine ⟨_, attestationRequest_eq hrun hn, s.reportBody nonce, ?_, ?_, fun o ho hfw => ?_, fun p hp => ?_⟩
    · rw [State.attest_of_not_returned h]; rfl
    · simp [State.reportBody, List.append_assoc]
    · exact State.hash_mem_reportBody ho hfw
    · exact State.exists_reportBody_eq hp

/-- Settles O38: the loader by what it finds, the other requests by whether firmware accepts them. -/
theorem objectsAndKeys : Obligations.ObjectsAndKeys := ⟨objects, lifeCycleAndKeys⟩

end
end Sys2Proof.Machine
end

section
-- One proof after another, as in the sections before this one.
set_option Elab.async false

namespace Sys2Proof.Machine

/-! ### Clusters and their stubs (R114, R115) -/

section
variable (s : State)

@[simp] theorem State.cluster_modCluster (c : Nat) (f : Cluster → Cluster) : (s.modCluster c f).cluster c = f (s.cluster c) := by
  simp [State.cluster, State.modCluster]

theorem State.cluster_modCluster_ne {c i : Nat} (f : Cluster → Cluster) (h : i ≠ c) :
    (s.modCluster c f).cluster i = s.cluster i := by
  simp [State.cluster, State.modCluster, tgetD_tmod_ne _ _ _ h]

theorem State.cluster_modCluster_keeps {β : Type} {g : Cluster → β} {f : Cluster → Cluster} (h : ∀ cl, g (f cl) = g cl) (c i : Nat) :
    g ((s.modCluster c f).cluster i) = g (s.cluster i) := by
  by_cases hi : i = c
  · rw [hi, State.cluster_modCluster, h]
  · rw [State.cluster_modCluster_ne _ _ hi]

theorem State.trans_modStub (c tr i : Nat) (f : Stub → Stub) :
    ((s.modStub c tr f).cluster i).trans = (s.cluster i).trans :=
  s.cluster_modCluster_keeps (g := Cluster.trans) (fun _ => by rfl) c i

theorem State.nextTr_modStub (c tr i : Nat) (f : Stub → Stub) :
    ((s.modStub c tr f).cluster i).nextTr = (s.cluster i).nextTr :=
  s.cluster_modCluster_keeps (g := Cluster.nextTr) (fun _ => by rfl) c i

theorem State.key_of_stub {c : Nat} {key : TKey} {st : Stub} (h : s.stub c key = some st) : st.key = key := by
  simpa using List.find?_some h

@[simp] theorem State.stub_dropStub (c : Nat) (key : TKey) : (s.dropStub c key).stub c key = none := by
  simp [State.stub, Cluster.stub, State.dropStub, List.find?_eq_none]

@[simp] theorem State.stub_setStub (c : Nat) (st : Stub) : (s.setStub c st).stub c st.key = some st := by
  rw [State.stub, State.setStub, State.cluster_modCluster]
  by_cases h : ((s.cluster c).stub st.key).isSome = true
  · obtain ⟨e, he⟩ := Option.isSome_iff_exists.1 h
    have hkey : ((fun e : Stub => e.key == st.key) ∘ fun e => if e.key == st.key then st else e) = fun e => e.key == st.key := by
      funext e
      by_cases hk : e.key = st.key <;> simp [hk]
    have hfind : (s.cluster c).stubs.find? (fun e => e.key == st.key) = some e := he
    have hek := List.find?_some hfind
    rw [if_pos h, Cluster.stub, List.find?_map, hkey, hfind, Option.map_some, if_pos hek]
  · have hfind : (s.cluster c).stubs.find? (fun e => e.key == st.key) = none := Option.not_isSome_iff_eq_none.1 h
    rw [if_neg h, Cluster.stub, List.find?_append, hfind]
    simp

/-- A change of stubs that leaves their keys is seen by whoever looks one up. -/
theorem State.stub_modStub {f : Stub → Stub} (hf : ∀ e, (f e).key = e.key) (c tr i : Nat) (key : TKey) :
    (s.modStub c tr f).stub i key = (s.stub i key).map fun e => if i = c ∧ e.leadsTo tr then f e else e := by
  by_cases hi : i = c
  · have hkey : ((fun e : Stub => e.key == key) ∘ fun e => if e.leadsTo tr then f e else e) = fun e => e.key == key := by
      funext e
      simp only [Function.comp_apply]
      split <;> simp [hf]
    subst hi
    simp only [State.stub, State.modStub, State.cluster_modCluster, Cluster.stub, List.find?_map, hkey, true_and]
  · simp [State.stub, State.modStub, State.cluster_modCluster_ne _ _ hi, hi]

theorem State.stub_modStub_keeps {β : Type} {g : Stub → β} {f : Stub → Stub} (hf : ∀ e, (f e).key = e.key) (hg : ∀ e, g (f e) = g e)
    (c tr i : Nat) (key : TKey) : ((s.modStub c tr f).stub i key).map g = (s.stub i key).map g := by
  rw [s.stub_modStub hf, Option.map_map]
  congr 1
  funext e
  simp only [Function.comp_apply]
  split
  · exact hg e
  · rfl

end

/-! ### Writes of the hardware to memory (R284)

A log record and a translation on its way into the heap are writes of the hardware. They change memory, the banks, the agenda and the
count of free values drawn; whatever does not depend on these is as it was. -/

/-- A reading of states that no access to memory changes. -/
structure BesideMemory {β : Type} (g : State → β) : Prop where
  phys : ∀ s f, g (s.modPhys f) = g s
  bank : ∀ s k b f, g (s.modBank k b f) = g s
  agenda : ∀ s t i, g (s.schedule t i) = g s
  free : ∀ s, g s.draw1.2 = g s

section
variable {β : Type} {g : State → β} (hg : BesideMemory g) (s : State)
include hg

theorem BesideMemory.flushWhere (ok : Nat → Bool) : g (s.flushWhere ok) = g s := by
  refine (foldl_keeps g (fun s pa => ?_) _ _).trans (hg.phys s _)
  unfold State.bankAccess
  split
  · exact (hg.agenda ..).trans ((hg.bank ..).trans (hg.free _))
  · rfl

theorem BesideMemory.spill (l : Nat) : g (s.spill l) = g s := by
  unfold State.spill
  dsimp only
  split
  · rfl
  · split
    · rfl
    · split
      · exact (hg.flushWhere ..).trans (hg.free s)
      · exact hg.free s

theorem BesideMemory.homeArrive (l : Nat) {w : PWrite} (hw : w.id = none) : g (s.homeArrive l w) = g s := by
  unfold State.homeArrive
  dsimp only
  split
  · simp only [State.performWrite, hw]
    exact (hg.spill ..).trans ((hg.phys ..).trans (hg.phys ..))
  · split
    · exact (hg.agenda ..).trans ((hg.free _).trans (hg.phys ..))
    · split
      · exact (hg.agenda ..).trans (hg.phys ..)
      · exact hg.phys ..

theorem BesideMemory.putCells (bs : List (Nat × Byte)) : g (s.putCells bs) = g s :=
  foldl_keeps g (fun s l => hg.homeArrive s l rfl) _ _

theorem BesideMemory.putTrans (c h : Nat) (t : Trans) : g (s.putTrans c h t) = g s := hg.putCells s _

/-- A record of the translation log changes memory and the partition that owns the log (R117, R118). -/
theorem BesideMemory.logTr (hparts : ∀ (s : State) ps, g { s with parts := ps } = g s) (c k x event reason : Nat) (key : TKey)
    (size : Nat) : g (s.logTr c k x event reason key size) = g s := by
  unfold State.logTr
  split
  · rfl
  · dsimp only
    split
    · exact (hg.putCells ..).trans (hparts s _)
    · exact hparts s _

/-- Compaction changes memory and the addresses in stubs (R121). -/
theorem BesideMemory.compact {c : Nat}
    (hmove : ∀ (s : State) n tr pa, g (s.modStub c n fun e => { e with state := .present tr pa }) = g s) :
    g (s.compact c) = g s := by
  unfold State.compact
  refine foldl_keeps (fun acc : Nat × State => g acc.2) (fun acc e => ?_) _ _
  split
  · split
    · exact (hmove ..).trans (hg.putTrans ..)
    · rfl
  · rfl

end

theorem besideMemory_now : BesideMemory State.now := ⟨fun _ _ => rfl, fun _ _ _ _ => rfl, fun _ _ _ => rfl, fun _ => rfl⟩

theorem besideMemory_parts : BesideMemory State.parts := ⟨fun _ _ => rfl, fun _ _ _ _ => rfl, fun _ _ _ => rfl, fun _ => rfl⟩

theorem besideMemory_clusters : BesideMemory State.clusters := ⟨fun _ _ => rfl, fun _ _ _ _ => rfl, fun _ _ _ => rfl, fun _ => rfl⟩

theorem besideMemory_fuses : BesideMemory State.fuses := ⟨fun _ _ => rfl, fun _ _ _ _ => rfl, fun _ _ _ => rfl, fun _ => rfl⟩

theorem besideMemory_ctx (k x : Nat) : BesideMemory fun s => s.ctx k x :=
  ⟨fun _ _ => rfl, fun s j b f => s.modBank_ctx k x j b f, fun _ _ _ => rfl, fun _ => rfl⟩

theorem BesideMemory.of_clusters {β : Type} (g : Tab Cluster → β) : BesideMemory fun s => g s.clusters :=
  ⟨fun _ _ => rfl, fun _ _ _ _ => rfl, fun _ _ _ => rfl, fun _ => rfl⟩

theorem State.fuses_logTr (s : State) (c k x event reason : Nat) (key : TKey) (size : Nat) :
    (s.logTr c k x event reason key size).fuses = s.fuses :=
  besideMemory_fuses.logTr s (fun _ _ => rfl) ..

theorem State.clusters_logTr (s : State) (c k x event reason : Nat) (key : TKey) (size : Nat) :
    (s.logTr c k x event reason key size).clusters = s.clusters :=
  besideMemory_clusters.logTr s (fun _ _ => rfl) ..

/-- A logged event counts one more in the partition of its cluster, modulo 2^48 (R117). -/
theorem State.logTr_counts {s : State} {c i : Nat} {p : Partition} (hp : s.partOfCluster c = some (i, p)) (k x event reason : Nat)
    (key : TKey) (size : Nat) :
    ∃ q, tget (s.logTr c k x event reason key size).parts i = some q ∧
      tgetD q.trcnt (event - 1) 0 = (tgetD p.trcnt (event - 1) 0 + 1) % 2 ^ 48 := by
  unfold State.logTr
  rw [hp]
  dsimp only
  split
  · rw [State.putWords, besideMemory_parts.putCells]
    exact ⟨_, tget_tset_self .., tgetD_tmod_self p.trcnt (event - 1) 0 fun n => (n + 1) % 2 ^ 48⟩
  · exact ⟨_, tget_tset_self .., tgetD_tmod_self p.trcnt (event - 1) 0 fun n => (n + 1) % 2 ^ 48⟩

/-! ### Requests and completions (R117, R119, R120) -/

section
variable {s : State} {c : Nat} {key : TKey} {st : Stub} (hst : s.stub c key = some st) (hstate : st.state = .translating)
include hst hstate

theorem translateRequest_eq (k x : Nat) :
    ∃ size, let u := s.logTr c k x (s.requestEvent c key st.asked).1 (s.requestEvent c key st.asked).2 key size
      exec (.translateRequest c k x key) s =
        .next (u.draw1.2.schedule (u.after (1 + u.draw1.1)) (.translationComplete c key)) := by
  refine ⟨match s.translationOf c key with
    | some (.done t) => t.words.length
    | _ => 0, ?_⟩
  show execTranslateRequest c k x key s = _
  rw [execTranslateRequest, hst]
  dsimp only
  rw [if_neg (by simp [hstate])]
  rfl

/-- A request of a TRANSLATING stub is logged, and is answered later (R117). -/
theorem translateRequest_completes (k x : Nat) :
    Completes (.translateRequest c k x key) s fun t =>
      (∃ at_, s.now < at_ ∧ (at_, Instr.translationComplete c key) ∈ t.agenda) ∧ t.clusters = s.clusters ∧ (∀ j y, t.ctx j y = s.ctx j y) ∧
        ∀ i p, s.partOfCluster c = some (i, p) → let e := (s.requestEvent c key st.asked).1 - 1
          ∃ q, tget t.parts i = some q ∧ tgetD q.trcnt e 0 = (tgetD p.trcnt e 0 + 1) % 2 ^ 48 := by
  obtain ⟨size, h⟩ := translateRequest_eq hst hstate k x
  refine ⟨_, h, ⟨_, ?_, (State.mem_schedule ..).2 (.inl rfl)⟩, s.clusters_logTr .., fun j y => ?_, fun i p hp => State.logTr_counts hp ..⟩
  · rw [State.after, besideMemory_now.logTr _ fun _ _ => rfl]
    exact Nat.lt_add_of_pos_right (Nat.mul_pos (by decide) (Nat.add_pos_left Nat.one_pos _))
  · exact (besideMemory_ctx j y).logTr s (fun _ _ => rfl) ..

end

/-! #### Room in the heap (R114, R119) -/

theorem State.heapCap_of_fuses {s t : State} (h : t.fuses = s.fuses) (c : Nat) : t.heapCap c = s.heapCap c := by
  have hpillar : t.presentPillar = s.presentPillar := by
    funext k
    rw [State.presentPillar, h, State.presentPillar]
  rw [State.heapCap, State.heapPillars, hpillar, State.heapCap, State.heapPillars]

theorem State.makeRoom_of_fits {s : State} {c need : Nat} (h : (s.cluster c).heapUsed + need ≤ s.heapCap c) (n : Nat) :
    State.makeRoom c need (n + 1) s = s := by
  rw [State.makeRoom, if_pos h]

theorem State.fuses_makeRoom (c need n : Nat) (s : State) : (State.makeRoom c need n s).fuses = s.fuses := by
  induction n generalizing s with
  | zero => rfl
  | succ n ih =>
    rw [State.makeRoom]
    split
    · rfl
    · split
      · rfl
      · exact (ih _).trans (State.fuses_logTr ..)

/-! #### A failure (R120) -/

/-- Contexts that have waited have a failure to take. -/
def State.tellWaiters (s : State) (e : TKey × Nat) (ws : List (Nat × Nat)) : State :=
  ws.foldl (fun s w => s.modCtx w.1 w.2 fun x => { x with failed := x.failed ++ [e] }) s

theorem State.failTranslation_eq (s : State) (c : Nat) (key : TKey) (st : Stub) (r : Nat) : s.failTranslation c key st r =
    ((s.logTr c (st.waiters.headD (12 * c, 0)).1 (st.waiters.headD (12 * c, 0)).2 5 r key 0).dropStub c key).tellWaiters (key, r)
      st.waiters := rfl

theorem State.clusters_tellWaiters (s : State) (e : TKey × Nat) (ws : List (Nat × Nat)) : (s.tellWaiters e ws).clusters = s.clusters :=
  foldl_keeps State.clusters (fun _ _ => by rfl) ws s

theorem State.mem_failed_tellWaiters {ws : List (Nat × Nat)} {w : Nat × Nat} (hw : w ∈ ws) (e : TKey × Nat) (s : State) :
    e ∈ ((s.tellWaiters e ws).ctx w.1 w.2).failed := by
  refine foldl_establishes (fun (w : Nat × Nat) (s : State) => e ∈ (s.ctx w.1 w.2).failed) (fun s w => ?_) (fun s w v h => ?_) hw s
  · rw [State.ctx_modCtx]
    exact List.mem_append_right _ (List.mem_singleton_self e)
  · by_cases hv : w = v
    · rw [hv, State.ctx_modCtx]
      exact List.mem_append_left _ (hv ▸ h)
    · rw [State.ctx_modCtx_ne _ _ hv]
      exact h

/-- After a failure the stub is ABSENT, every context that waits has it to take, and the heap stays (R120). -/
theorem State.failTranslation_post (s : State) (c : Nat) (key : TKey) (st : Stub) (r : Nat) :
    let t := s.failTranslation c key st r
    (t.cluster c).trans = (s.cluster c).trans ∧ t.stub c key = none ∧ ∀ w ∈ st.waiters, (key, r) ∈ (t.ctx w.1 w.2).failed := by
  intro t
  have hclusters : t.clusters = _ := (congrArg State.clusters (s.failTranslation_eq c key st r)).trans (State.clusters_tellWaiters ..)
  refine ⟨?_, ?_, fun w hw => State.mem_failed_tellWaiters hw (key, r) _⟩
  · rw [State.cluster, hclusters, ← State.cluster, State.dropStub, State.cluster_modCluster, State.cluster, State.clusters_logTr,
      State.cluster]
  · rw [State.stub, State.cluster, hclusters]
    exact State.stub_dropStub ..

section
variable {s : State} {c : Nat} {key : TKey} {st : Stub} (hst : s.stub c key = some st) (hstate : st.state = .translating)
include hst hstate

theorem translationComplete_of_failed {r : Nat} (hr : s.translationOf c key = some (.failed r)) :
    exec (.translationComplete c key) s = .next (s.failTranslation c key st r) := by
  show execTranslationComplete c key s = _
  simp [execTranslationComplete, hst, hr, hstate]

theorem translationComplete_of_done {w : Trans} (hw : s.translationOf c key = some (.done w)) :
    let u := State.makeRoom c w.heapBytes ((s.cluster c).stubs.length + 1) s
    exec (.translationComplete c key) s = .next
      (if (u.cluster c).heapUsed + w.heapBytes ≤ u.heapCap c then u.placeTrans c key st w else u.failTranslation c key st 1) := by
  intro u
  show execTranslationComplete c key s = _
  simp only [execTranslationComplete, hst, hw, hstate, bne_self_eq_false, Bool.false_eq_true, if_false]
  rfl

theorem translationComplete_of_fits {w : Trans} (hw : s.translationOf c key = some (.done w))
    (hfits : (s.cluster c).heapUsed + w.heapBytes ≤ s.heapCap c) :
    exec (.translationComplete c key) s = .next (s.placeTrans c key st w) := by
  rw [translationComplete_of_done hst hstate hw, State.makeRoom_of_fits hfits, if_pos hfits]

/-- No eviction makes room for a translation larger than the heap. -/
theorem translationComplete_of_too_large {w : Trans} (hw : s.translationOf c key = some (.done w)) (hcap : s.heapCap c < w.heapBytes) :
    ∃ u : State, exec (.translationComplete c key) s = .next (u.failTranslation c key st 1) := by
  refine ⟨_, (translationComplete_of_done hst hstate hw).trans (congrArg _ (if_neg ?_))⟩
  rw [State.heapCap_of_fuses (State.fuses_makeRoom ..)]
  omega

end

/-! #### A translation that enters the heap (R114, R119) -/

/-- A start that enters its translation changes contexts and the pins and ticks of stubs, and nothing else (R115). -/
theorem State.enterEntry_keeps {β : Type} {g : State → β} (hctx : ∀ s k x f, g (s.modCtx k x f) = g s)
    (hpin : ∀ s c tr (p n : Stub → Nat), g (s.modStub c tr fun e => { e with pins := p e, last := n e }) = g s) (s : State)
    (k x tr : Nat) (t : Trans) : g (s.enterEntry k x tr t) = g s := by
  refine (foldl_keeps g (fun s u => ?_) _ _).trans (hctx ..)
  dsimp only
  split
  · rfl
  · unfold State.goToTr
    dsimp only
    split
    · rfl
    · exact (hctx ..).trans ((hpin _ _ _ (fun e => e.pins + 1) fun _ => _).trans (hpin _ _ _ (fun e => e.pins - 1) Stub.last))

/-- What the heap of a cluster holds, and what the stub of a key says of it. -/
def State.heapView (s : State) (c : Nat) (key : TKey) : Tab Trans × Option (StubState × List (Nat × Nat)) :=
  ((s.cluster c).trans, (s.stub c key).map fun e => (e.state, e.waiters))

theorem besideMemory_heapView (c : Nat) (key : TKey) : BesideMemory fun s => s.heapView c key :=
  .of_clusters fun cs => ((tgetD cs c {}).trans, ((tgetD cs c {}).stub key).map fun e => (e.state, e.waiters))

theorem State.heapView_modStub (s : State) (c d tr : Nat) (key : TKey) (p n : Stub → Nat) :
    (s.modStub d tr fun e : Stub => { e with pins := p e, last := n e }).heapView c key = s.heapView c key := by
  simp only [State.heapView, State.trans_modStub]
  rw [State.stub_modStub_keeps s (f := fun e : Stub => { e with pins := p e, last := n e }) (fun _ => rfl) fun _ => rfl]

/-- A translation and the stub of its key come to stand in a cluster. -/
theorem State.heapView_setStub (s : State) (c n : Nat) (w : Trans) (st : Stub) :
    ((s.modCluster c fun cl => { cl with trans := tset cl.trans n w, nextTr := n + 1 }).setStub c st).heapView c st.key =
      (tset (s.cluster c).trans n w, some (st.state, st.waiters)) := by
  rw [State.heapView, State.stub_setStub, Option.map_some, State.setStub, State.cluster_modCluster, State.cluster_modCluster]

/-- Translations keep their numbers while the heap moves (R121). -/
theorem State.compact_trans (s : State) (c i : Nat) : ((s.compact c).cluster i).trans = (s.cluster i).trans :=
  (BesideMemory.of_clusters fun cs => (tgetD cs i {}).trans).compact s fun s n _ _ => s.trans_modStub c n i _

theorem State.compact_nextTr (s : State) (c i : Nat) : ((s.compact c).cluster i).nextTr = (s.cluster i).nextTr :=
  (BesideMemory.of_clusters fun cs => (tgetD cs i {}).nextTr).compact s fun s n _ _ => s.nextTr_modStub c n i _

/-- The compaction that makes one hole of several changes neither the translations nor the number of the next, and the contexts that enter
change only pins: the heap gains the translation and the stub leads to it (R119). -/
theorem State.placeTrans_heapView (s : State) (c : Nat) {key : TKey} {st : Stub} (hkey : st.key = key) (w : Trans) :
    ∃ pa, (s.placeTrans c key st w).heapView c key =
      (tset (s.cluster c).trans (s.cluster c).nextTr w, some (.present (s.cluster c).nextTr pa, [])) := by
  subst hkey
  obtain ⟨u, hu, htrans, hnext⟩ : ∃ u : State,
      (if (heapFit ((s.cluster c).heapSpans (s.heapPillars c)) (s.heapCap c) w.heapBytes).isSome then s else s.compact c) = u ∧
        (u.cluster c).trans = (s.cluster c).trans ∧ (u.cluster c).nextTr = (s.cluster c).nextTr := by
    refine ⟨_, rfl, ?_⟩
    split
    · exact ⟨rfl, rfl⟩
    · exact ⟨s.compact_trans c c, s.compact_nextTr c c⟩
  refine ⟨heapAddr (s.heapPillars c) ((heapFit ((u.cluster c).heapSpans (u.heapPillars c)) (u.heapCap c) w.heapBytes).getD 0), ?_⟩
  unfold State.placeTrans
  dsimp only
  rw [hu]
  refine (foldl_keeps (fun s : State => s.heapView c st.key) (fun s v => ?_) _ _).trans ?_
  · split
    · exact State.enterEntry_keeps (g := fun s : State => s.heapView c st.key) (fun _ _ _ _ => rfl)
        (fun s d tr p n => s.heapView_modStub c d tr st.key p n) s ..
    · rfl
  · rw [(besideMemory_heapView c st.key).putTrans, ← htrans, ← hnext]
    exact u.heapView_setStub c (u.cluster c).nextTr w { st with state := _, pins := 0, last := _, waiters := [] }

/-- A translation that fits is in the heap under the next number, and its stub is PRESENT (R119). -/
theorem State.placeTrans_post (s : State) (c : Nat) {key : TKey} {st : Stub} (hkey : st.key = key) (w : Trans) :
    let t := s.placeTrans c key st w
    tget (t.cluster c).trans (s.cluster c).nextTr = some w ∧
      (∃ st' pa, t.stub c key = some st' ∧ st'.state = .present (s.cluster c).nextTr pa ∧ st'.waiters = []) ∧
      ∀ n, n ≠ (s.cluster c).nextTr → tget (t.cluster c).trans n = tget (s.cluster c).trans n := by
  obtain ⟨pa, hview⟩ := s.placeTrans_heapView c hkey w
  obtain ⟨htrans, hstub⟩ := Prod.mk.inj hview
  obtain ⟨st', hst', he⟩ := Option.map_eq_some_iff.1 hstub
  obtain ⟨hpresent, hwaiters⟩ := Prod.mk.inj he
  refine ⟨?_, ⟨st', pa, hst', hpresent, hwaiters⟩, fun n hn => ?_⟩
  · rw [htrans, tget_tset_self]
  · rw [htrans, tget_tset_ne _ _ hn]

/-! ### Compaction (R121) -/

theorem State.compact_ctx (s : State) (c k x : Nat) : (s.compact c).ctx k x = s.ctx k x :=
  (besideMemory_ctx k x).compact s fun _ _ _ _ => rfl

theorem State.compact_pins (s : State) (c i : Nat) (key : TKey) :
    ((s.compact c).stub i key).map (·.pins) = (s.stub i key).map (·.pins) :=
  (BesideMemory.of_clusters fun cs => ((tgetD cs i {}).stub key).map (·.pins)).compact s fun s n tr pa =>
    s.stub_modStub_keeps (f := fun e => { e with state := .present tr pa }) (fun _ => rfl) (fun _ => rfl) c n i key

theorem State.compact_cluster_ne (s : State) {c i : Nat} (hi : i ≠ c) : (s.compact c).cluster i = s.cluster i :=
  (BesideMemory.of_clusters fun cs => tgetD cs i {}).compact s fun s _ _ _ => s.cluster_modCluster_ne _ hi

theorem compaction_eq {c : Nat} (hc : c < 48) (s : State) : exec (.compaction c) s = .next (s.compact c) := by
  show execCompaction c s = _
  rw [execCompaction, if_neg (by simp only [clusterCount]; omega)]

theorem compaction_of_absent {c : Nat} (hc : 48 ≤ c) (s : State) : exec (.compaction c) s = .fault .absentUnit := by
  show execCompaction c s = _
  rw [execCompaction, if_pos (by simpa only [clusterCount] using hc)]

/-- The heap moves together, and nothing that a thread can see of it does (R121). -/
theorem compaction_completes {c : Nat} (hc : c < 48) (s : State) :
    Completes (.compaction c) s fun t => (∀ j pc, t.trans j pc = s.trans j pc) ∧ (∀ j y, t.ctx j y = s.ctx j y) ∧
      (∀ key, (t.stub c key).map (·.pins) = (s.stub c key).map (·.pins)) ∧ ∀ i, i ≠ c → t.cluster i = s.cluster i := by
  refine ⟨_, compaction_eq hc s, fun j pc => ?_, s.compact_ctx c, s.compact_pins c c, fun i hi => s.compact_cluster_ne hi⟩
  rw [State.trans, State.compact_trans, State.trans]

/-! ### Code that arrives (R252, R362) -/

/-- The code of an arrival in instruction memory: the whole translation resident, or a block at the end of the window (R252). -/
def State.arrive (s : State) (k x tr blk : Nat) : State :=
  if s.fitsResident k tr then
    s.modCore k fun c => { c with
      resident := Machine.makeRoom (s.trWords k) (s.pinnedOn k) (s.trWords k tr) (c.resident.filter (· != tr)) ++ [tr] }
  else s.modCtx k x fun c => { c with window := (c.window ++ [(tr, blk)]).drop ((c.window ++ [(tr, blk)]).length - windowBlocks k) }

/-- A reading of states that does not depend on the copies under way for a context: on its b registers, on what it copies and whether it
is to go on, on the on-die cache or on the agenda. -/
structure BesideCopies (k x : Nat) {β : Type} (g : State → β) : Prop where
  ctx : ∀ (s : State) (r : Ctx → CtxRegs) (b : Ctx → Bool) (f : Ctx → Option (Nat × Nat)),
    g (s.modCtx k x fun c => { c with regs := r c, copyNext := b c, fetching := f c }) = g s
  cluster : ∀ s c f, g (s.modCluster c f) = g s
  agenda : ∀ s t i, g (s.schedule t i) = g s

section
variable {k x : Nat} {β : Type} {g : State → β} (hg : BesideCopies k x g) (s : State)
include hg

theorem BesideCopies.startFetch (tr blk : Nat) : g (s.startFetch k x tr blk) = g s :=
  (hg.agenda ..).trans ((hg.cluster ..).trans (hg.ctx s Ctx.regs Ctx.copyNext fun _ => some (tr, blk)))

theorem BesideCopies.setCopyNext (b : Bool) : g (s.modCtx k x fun c => { c with copyNext := b }) = g s :=
  hg.ctx s Ctx.regs (fun _ => b) Ctx.fetching

theorem BesideCopies.pumpCode (pc : Pc) (b : Bool) : g (s.pumpCode k x pc b) = g s := by
  have howed (q : Prop) [Decidable q] (o : Bool) : g (if q then s else s.modCtx k x fun c => { c with copyNext := o }) = g s := by
    split
    · rfl
    · exact hg.setCopyNext s o
  unfold State.pumpCode
  dsimp only
  split
  · split
    · split
      · exact (hg.startFetch ..).trans ((hg.setCopyNext ..).trans (howed ..))
      · exact howed ..
    · exact howed ..
  · exact howed ..

end

/-- After the arrival the copies go on, and nothing else happens. -/
theorem segmentArrival_next {s : State} {k x tr blk : Nat} (h : (s.ctx k x).fetching = some (tr, blk)) :
    ∃ t, exec (.segmentArrival k x) s = .next t ∧
      ∀ {β : Type} {g : State → β}, BesideCopies k x g → g t = g (s.arrive k x tr blk) := by
  show ∃ t, execSegmentArrival k x s = .next t ∧ _
  rw [execSegmentArrival, h]
  refine ⟨_, rfl, fun {β g} hg => ?_⟩
  refine (hg.pumpCode ..).trans ((foldl_keeps g (fun _ _ => hg.agenda ..) _ _).trans ?_)
  exact (hg.ctx _ _ Ctx.copyNext Ctx.fetching).trans (hg.ctx _ Ctx.regs Ctx.copyNext fun _ => none)

theorem besideCopies_resident (k x : Nat) : BesideCopies k x fun s => (s.core k).resident :=
  ⟨fun s _ _ _ => s.core_modCtx_keeps (g := Core.resident) (fun _ _ => rfl) k x _, fun _ _ _ => rfl, fun _ _ _ => rfl⟩

theorem besideCopies_ctx (k x : Nat) {β : Type} {g : Ctx → β}
    (hg : ∀ c r b f, g { c with regs := r, copyNext := b, fetching := f } = g c) : BesideCopies k x fun s => g (s.ctx k x) := by
  refine ⟨fun s r b f => ?_, fun _ _ _ => rfl, fun _ _ _ => rfl⟩
  rw [State.ctx_modCtx]
  exact hg ..

theorem windowBlocks_pos (k : Nat) : 0 < windowBlocks k := by
  unfold windowBlocks windowWords
  split <;> decide

section
variable {s : State} {k tr : Nat} (x blk : Nat)

theorem State.arrive_of_fits (h : s.fitsResident k tr = true) : tr ∈ ((s.arrive k x tr blk).core k).resident := by
  rw [State.arrive, if_pos h, State.core_modCore]
  exact List.mem_append_right _ (List.mem_singleton_self tr)

theorem State.arrive_of_not_fits (h : s.fitsResident k tr = false) :
    (tr, blk) ∈ ((s.arrive k x tr blk).ctx k x).window ∧ ((s.arrive k x tr blk).ctx k x).window.length ≤ windowBlocks k := by
  have hpos := windowBlocks_pos k
  rw [State.arrive, if_neg (by simp [h]), State.ctx_modCtx]
  refine ⟨?_, ?_⟩
  · rw [List.drop_append_of_le_length (by simp; omega)]
    exact List.mem_append_right _ (List.mem_singleton_self _)
  · rw [List.length_drop]
    omega

/-- Code that arrives changes nothing of a context but its window. -/
theorem State.arrive_ctx_keeps {β : Type} {g : Ctx → β} (hg : ∀ c w, g { c with window := w } = g c) :
    g ((s.arrive k x tr blk).ctx k x) = g (s.ctx k x) := by
  unfold State.arrive
  split
  · rw [State.ctx_modCore_of_ctxs]
    exact fun _ => rfl
  · rw [State.ctx_modCtx]
    exact hg ..

end

/-- Code that arrives is in instruction memory, and the threads of the context stand where they stood (R252). -/
theorem segmentArrival_completes {s : State} {k x tr blk : Nat} (h : (s.ctx k x).fetching = some (tr, blk)) :
    Completes (.segmentArrival k x) s fun t =>
      (s.fitsResident k tr = true → tr ∈ (t.core k).resident) ∧
      (s.fitsResident k tr = false → (tr, blk) ∈ (t.ctx k x).window ∧ (t.ctx k x).window.length ≤ windowBlocks k) ∧
      (t.ctx k x).threads = (s.ctx k x).threads ∧ (t.ctx k x).group = (s.ctx k x).group := by
  obtain ⟨t, hexec, hkeep⟩ := segmentArrival_next h
  refine ⟨t, hexec, fun hfits => ?_, fun hfits => ?_, ?_, ?_⟩
  · rw [hkeep (besideCopies_resident k x)]
    exact State.arrive_of_fits x blk hfits
  · rw [hkeep (besideCopies_ctx k x (g := Ctx.window) fun _ _ _ _ => rfl)]
    exact State.arrive_of_not_fits x blk hfits
  · rw [hkeep (besideCopies_ctx k x (g := Ctx.threads) fun _ _ _ _ => rfl)]
    exact State.arrive_ctx_keeps x blk (g := Ctx.threads) fun _ _ => rfl
  · rw [hkeep (besideCopies_ctx k x (g := Ctx.group) fun _ _ _ _ => rfl)]
    exact State.arrive_ctx_keeps x blk (g := Ctx.group) fun _ _ => rfl

/-- What a fetch that completes makes of the b registers (R362). -/
theorem tget_map_fetched (m : Tab Breg) (now b j : Nat) :
    tget (m.map fun e => if e.1 == b then (e.1, e.2.fetched now) else e) j =
      (tget m j).map fun r => if j = b then r.fetched now else r := by
  have hmap : (fun e : Nat × Breg => if e.1 == b then (e.1, e.2.fetched now) else e) =
      fun e => (e.1, if e.1 = b then e.2.fetched now else e.2) := by
    funext e
    by_cases he : e.1 = b <;> simp [he]
  rw [hmap, tget_map_key fun i (r : Breg) => if i = b then r.fetched now else r]

theorem pbrFetchComplete_eq (s : State) (k x b : Nat) : exec (.pbrFetchComplete k x b) s =
    .next (s.modCtx k x fun c => { c with regs := { c.regs with
      bregs := c.regs.bregs.map fun e => if e.1 == b then (e.1, e.2.fetched s.now) else e } }) := rfl

/-- A b register whose target has come is ready, and the others stay (R362). -/
theorem pbrFetchComplete_completes {s : State} {k x b : Nat} {r : Breg} (h : tget (s.ctx k x).regs.bregs b = some r) :
    Completes (.pbrFetchComplete k x b) s fun t =>
      tget (t.ctx k x).regs.bregs b = some { r with ready := r.ready || r.readyAt.any fun n => n ≤ s.now } ∧
        ∀ j, j ≠ b → tget (t.ctx k x).regs.bregs j = tget (s.ctx k x).regs.bregs j := by
  refine ⟨_, pbrFetchComplete_eq s k x b, ?_, fun j hj => ?_⟩
  · rw [State.ctx_modCtx, tget_map_fetched, h, Option.map_some, if_pos rfl, Breg.fetched]
  · rw [State.ctx_modCtx, tget_map_fetched]
    simp [hj]

/-- Settles O44, event by event: log records and moves of the heap are writes to memory, which leave stubs, translations and threads as
they are, so that only the event's own change of them is seen. -/
theorem translations : Obligations.Translations := by
  intro s c key
  refine ⟨fun st k x hst hstate => translateRequest_completes hst hstate k x, fun st w hst hstate hw hfits => ?_,
    fun st r hst hstate hr => ?_, fun st w hst hstate hw hcap => ?_, fun hc => compaction_completes hc s,
    fun hc => compaction_of_absent hc s, fun k x tr blk h => segmentArrival_completes h, fun k x b r h => pbrFetchComplete_completes h⟩
  · exact ⟨_, translationComplete_of_fits hst hstate hw hfits, s.placeTrans_post c (s.key_of_stub hst) w⟩
  · exact ⟨_, translationComplete_of_failed hst hstate hr, s.failTranslation_post c key st r⟩
  · obtain ⟨u, hexec⟩ := translationComplete_of_too_large hst hstate hw hcap
    obtain ⟨-, hstub, hfailed⟩ := u.failTranslation_post c key st 1
    exact ⟨_, hexec, hstub, hfailed⟩

end Sys2Proof.Machine
end

section
-- One proof after another, as in the sections before this one.
set_option Elab.async false

namespace Sys2Proof.Machine

section
open Sys2Proof.Claims

/-! ### The issue group and its threads (R9, R29) -/

theorem State.group_threads (s : State) : (s.me.group.map Group.threads).getD [] = s.group.threads := by
  unfold State.group
  cases s.me.group <;> rfl

theorem State.group_pc (s : State) : s.group.pc = s.me.pc := by
  unfold State.group Ctx.pc
  cases s.me.group <;> rfl

theorem Ctx.mem_live {c : Ctx} {t : Nat} : t ∈ c.live ↔ ∃ th, (t, th) ∈ c.threads ∧ th.place ≠ .ended := by
  simp [Ctx.live]

/-- A thread that stands anywhere but where an unlisted thread would is listed. -/
theorem Ctx.mem_threads_of_place {c : Ctx} {t : Nat} (h : (c.thread t).place ≠ .bin) : (t, c.thread t) ∈ c.threads := by
  unfold Ctx.thread tgetD at h ⊢
  cases hget : tget c.threads t with
  | none => simp [hget] at h
  | some th => exact mem_of_tget hget

/-- A change after which a thread is live adds it to the live threads and takes none from them. -/
theorem Ctx.mem_live_modThread {c : Ctx} {t : Nat} {f : Thread → Thread} (hf : (f (c.thread t)).place ≠ .ended) (u : Nat) :
    u ∈ (c.modThread t f).live ↔ u = t ∨ u ∈ c.live := by
  simp only [Ctx.mem_live]
  constructor
  · rintro ⟨th, hmem, hth⟩
    exact (mem_tset hmem).imp (fun h => congrArg Prod.fst h) fun h => ⟨th, h, hth⟩
  · intro h
    by_cases hu : u = t
    · subst hu
      exact ⟨_, mem_tset_self _ _ _, hf⟩
    · obtain ⟨th, hmem, hth⟩ := h.resolve_left hu
      exact ⟨th, mem_tset_of_ne _ hmem hu, hth⟩

section
variable {f : Nat → Thread → Thread}

theorem Ctx.mem_live_foldl_modThread (hf : ∀ t th, (f t th).place ≠ .ended) (ts : List Nat) (c : Ctx) (u : Nat) :
    u ∈ (ts.foldl (fun c t => c.modThread t (f t)) c).live ↔ u ∈ ts ∨ u ∈ c.live := by
  induction ts generalizing c with
  | nil => simp
  | cons t ts ih =>
    rw [List.foldl_cons, ih, Ctx.mem_live_modThread (hf t _), List.mem_cons]
    tauto

/-- An entry of the thread table after a change of some threads: one of theirs, or one from before. -/
theorem Ctx.mem_threads_foldl_modThread {ts : List Nat} {c : Ctx} {e : Nat × Thread}
    (he : e ∈ (ts.foldl (fun c t => c.modThread t (f t)) c).threads) : e ∈ c.threads ∨ e.1 ∈ ts ∧ ∃ th, e.2 = f e.1 th := by
  induction ts generalizing c with
  | nil => exact .inl he
  | cons t ts ih =>
    obtain he | ⟨hts, hth⟩ := ih he
    · obtain rfl | he := mem_tset he
      · exact .inr ⟨List.mem_cons_self, _, rfl⟩
      · exact .inl he
    · exact .inr ⟨List.mem_cons_of_mem _ hts, hth⟩

end

/-- What the change of each thread keeps is as it was in the end. -/
theorem Ctx.thread_foldl_modThread_keeps {f : Nat → Thread → Thread} {β : Type} {g : Thread → β} (hf : ∀ t th, g (f t th) = g th)
    (ts : List Nat) (c : Ctx) {u : Nat} : g ((ts.foldl (fun c t => c.modThread t (f t)) c).thread u) = g (c.thread u) := by
  refine foldl_keeps (fun c : Ctx => g (c.thread u)) (fun c t => ?_) ts c
  by_cases hu : u = t
  · rw [hu, Ctx.thread_modThread, hf]
  · rw [Ctx.thread_modThread_ne _ _ hu]

/-! ### The encoding of REGREL and REGCLM (R296, R367) -/

theorem toNat_field (v off len : Nat) : ((BitVec.ofNat 30 v).extractLsb' off len).toNat = v % 2 ^ 30 / 2 ^ off % 2 ^ len := by
  rw [BitVec.extractLsb'_toNat, BitVec.toNat_ofNat, Nat.shiftRight_eq_div_pow]

section
variable {s : State} {o : Op} {n lg : Nat} (h : RegSound s o n lg)
include h

theorem regN_of_sound : regN o = n := by
  obtain ⟨-, -, -, -, -, -, hn, hlg, hj, -⟩ := h
  rw [regN, hj, toNat_field]
  omega

theorem regLg_of_sound : regLg o = lg := by
  obtain ⟨-, -, -, -, -, -, hn, hlg, hj, -⟩ := h
  rw [regLg, hj, toNat_field]
  omega

theorem regOk_of_sound : regOk o s = true := by
  have hN := regN_of_sound h
  have hLg := regLg_of_sound h
  obtain ⟨hext, hmod, hdest, hq, hgn, hpos, hn, hlg, hj, hsize, -⟩ := h
  have hzero (off len : Nat) (hz : (n * 2 ^ 20 + lg * 2 ^ 10) % 2 ^ 30 / 2 ^ off % 2 ^ len = 0) : o.j.extractLsb' off len = 0#len :=
    BitVec.eq_of_toNat_eq (by rw [hj, toNat_field, hz, BitVec.toNat_ofNat, Nat.zero_mod])
  have htop : o.j.extractLsb' 28 2 = 0#2 := hzero 28 2 (by omega)
  have hmid : o.j.extractLsb' 14 6 = 0#6 := hzero 14 6 (by omega)
  have hlow : o.j.extractLsb' 0 10 = 0#10 := hzero 0 10 (by omega)
  have hne : n ≠ 0 := hpos.ne'
  simp [regOk, Op.legalJ, hext, hmod, hdest, hq, hgn, hN, hLg, htop, hmid, hlow, hlg, hsize, hne]

theorem tidy_of_regSound : s.me.Tidy := by
  obtain ⟨-, -, -, -, -, -, -, -, -, -, htidy⟩ := h
  exact htidy

theorem acting_of_regSound (hskip : NoSkip s) : (s.active o).map (·.2) = s.group.threads := by
  obtain ⟨-, -, -, hq, hgn, -⟩ := h
  rw [State.active_of_unguarded hq hgn hskip]
  rfl

end

/-! ### REGREL (R137) -/

/-- A thread with n registers less in its budget. -/
def Thread.lowered (n : Nat) (th : Thread) : Thread := { th with budget := th.budget - n, budgetFrom := 1 }

/-- The threads of the issue group give n registers each back to the pool. -/
def State.giveBack (s : State) (n : Nat) : State :=
  (s.modMe fun c => s.group.threads.foldl (fun c t => c.modThread t (Thread.lowered n)) c).modHome fun co =>
    { co with taken := co.taken - n * s.group.threads.length }

section
variable (s : State) (n : Nat)

theorem State.giveBack_me : (s.giveBack n).me = s.group.threads.foldl (fun c t => c.modThread t (Thread.lowered n)) s.me := by
  refine (State.ctx_modCore_of_ctxs _ _ _ fun _ => ?_).trans (s.me_modMe _)
  rfl

theorem State.giveBack_taken : (s.giveBack n).home.taken = s.home.taken - n * s.group.threads.length := by
  rw [State.giveBack, State.home_modHome, State.home_modMe]
  rfl

end

section
variable {s : State} {o : Op} {n lg : Nat}

theorem regrel_eq (h : RegSound s o n lg) (hskip : NoSkip s) (huser : s.cur.2 < 4)
    (hroom : ∀ th ∈ s.group.threads, 8 + n ≤ (s.me.thread th).budget) : exec (.regrel o) s = .next (s.giveBack n) := by
  have hlow : s.group.threads.filter (fun t => decide ((s.me.thread t).budget < 8 + n)) = [] :=
    List.filter_eq_nil_iff.2 fun t ht => by simpa using hroom t ht
  have hfw : s.isFw = false := by simp [State.isFw, huser.ne]
  show execRegrel o s = _
  simp only [execRegrel, regOk_of_sound h, regN_of_sound h, acting_of_regSound h hskip, hlow, hfw, if_true, List.map_nil, runOp_nil]
  rfl

/-! ### Sub-groups and their claims (R137) -/

theorem mem_subGroup {t lg m : Nat} : m ∈ subGroup t lg ↔ m / 2 ^ lg = t / 2 ^ lg := by
  have hpos : 0 < 2 ^ lg := Nat.two_pow_pos lg
  simp only [subGroup, List.mem_map, List.mem_range]
  constructor
  · rintro ⟨i, hi, rfl⟩
    rw [Nat.mul_comm, Nat.mul_add_div hpos, Nat.div_eq_of_lt hi, Nat.add_zero]
  · intro h
    exact ⟨m % 2 ^ lg, Nat.mod_lt _ hpos, h ▸ Nat.div_add_mod' m (2 ^ lg)⟩

theorem subGroup_of_mem {t lg m : Nat} (h : m ∈ subGroup t lg) : subGroup m lg = subGroup t lg := by
  rw [subGroup, mem_subGroup.1 h, subGroup]

/-- The live threads of the sub-group of a thread. -/
def Ctx.members (c : Ctx) (lg t : Nat) : List Nat := (subGroup t lg).filter c.live.contains

theorem Ctx.members_of_mem {c : Ctx} {lg t m : Nat} (h : m ∈ c.members lg t) : c.members lg m = c.members lg t := by
  rw [Ctx.members, subGroup_of_mem (List.mem_filter.1 h).1, Ctx.members]

theorem Ctx.mem_members_self {c : Ctx} {lg t : Nat} (h : t ∈ c.live) : t ∈ c.members lg t :=
  List.mem_filter.2 ⟨mem_subGroup.2 rfl, List.contains_iff_mem.2 h⟩

theorem Ctx.members_congr {c d : Ctx} (h : ∀ t, t ∈ d.live ↔ t ∈ c.live) (lg t : Nat) : d.members lg t = c.members lg t :=
  List.filter_congr fun m _ => by simp only [List.contains_eq_mem, h m]

/-- The threads that are parked at a REGCLM, each with the n and log2 g of its claim. -/
def Ctx.claimants (c : Ctx) : List (Nat × Nat × Nat) :=
  c.threads.filterMap fun e => if e.2.place == .regclm then e.2.claim.map fun r => (e.1, r.1, r.2.1) else none

/-- The claims of a core after a look at one thread of context x: a sub-group of which it is the first live thread, and whose live threads
have all parked, joins them. -/
def Ctx.addClaim (c : Ctx) (x : Nat) (cs : List RegClaim) (w : Nat × Nat × Nat) : List RegClaim :=
  let members := c.members w.2.2 w.1
  if !(cs.any fun r => r.ctx == x && r.threads.contains w.1) && members.head? == some w.1 &&
      members.all (fun m => (c.thread m).place == .regclm) then
    cs ++ [⟨x, members, w.2.1, members.length⟩]
  else cs

theorem State.formClaims_claims (s : State) (k x : Nat) :
    ((s.formClaims k x).core k).claims = (s.ctx k x).claimants.foldl ((s.ctx k x).addClaim x) (s.core k).claims := by
  refine (List.foldl_hom (fun s : State => (s.core k).claims) fun s w => ?_).symm
  dsimp only [Ctx.addClaim, Ctx.members]
  split
  next hif => exact (if_pos hif).trans (by rw [State.core_modCore])
  next hif => exact if_neg hif

/-- The forming of claims changes a core in its claims only. -/
theorem State.formClaims_keeps {β : Type} {g : State → β}
    (hg : ∀ (s : State) k cs, g (s.modCore k fun co => { co with claims := co.claims ++ cs }) = g s) (s : State) (k x : Nat) :
    g (s.formClaims k x) = g s :=
  foldl_keeps g (fun s w => by
    dsimp only
    split
    · exact hg s k _
    · rfl) _ s

/-- Where the pool has room for every claim that waits, there is no deadlock. -/
theorem State.deadlockCheck_of_room {s : State} {k : Nat} (h : ∀ r ∈ (s.core k).claims, r.n * r.live ≤ s.poolFree k) :
    s.deadlockCheck k = s := by
  unfold State.deadlockCheck
  dsimp only
  split
  next c r hc =>
    have hfits : ¬ s.poolFree k < c.n * c.live := Nat.not_lt.2 (h c (hc ▸ List.mem_cons_self))
    simp [hfits]
  next => rfl

/-- A claim of context x that the threads ts make, n registers a thread: the live threads of one sub-group, and every one of them. -/
def Ctx.ClaimBy (c : Ctx) (ts : List Nat) (x n lg : Nat) (r : RegClaim) : Prop :=
  ∃ t ∈ ts, r = ⟨x, c.members lg t, n, (c.members lg t).length⟩ ∧ ∀ m ∈ c.members lg t, m ∈ ts

section
variable {c : Ctx} {ts : List Nat} {x n lg : Nat} {cs : List RegClaim}

/-- A sub-group that a claim names one thread of is that claim's. -/
theorem Ctx.ClaimBy.threads_eq {r : RegClaim} (hr : c.ClaimBy ts x n lg r) {t : Nat} (ht : t ∈ r.threads) :
    r.threads = c.members lg t ∧ ∀ m ∈ c.members lg t, m ∈ ts := by
  obtain ⟨u, -, rfl, hall⟩ := hr
  have ht : t ∈ c.members lg u := ht
  rw [Ctx.members_of_mem ht]
  exact ⟨rfl, hall⟩

theorem Ctx.addClaim_claimBy (hparked : ∀ m, (c.thread m).place = .regclm → m ∈ ts) {t : Nat} (ht : t ∈ ts)
    (hcs : ∀ r ∈ cs, c.ClaimBy ts x n lg r) : ∀ r ∈ c.addClaim x cs (t, n, lg), c.ClaimBy ts x n lg r := by
  intro r hr
  dsimp only [Ctx.addClaim] at hr
  split at hr
  next hif =>
    simp only [Bool.and_eq_true, List.all_eq_true, beq_iff_eq] at hif
    obtain hr | hr := List.mem_append.1 hr
    · exact hcs r hr
    · exact ⟨t, ht, List.mem_singleton.1 hr, fun m hm => hparked m (hif.2 m hm)⟩
  next => exact hcs r hr

theorem Ctx.subset_addClaim {r : RegClaim} (hr : r ∈ cs) (w : Nat × Nat × Nat) : r ∈ c.addClaim x cs w := by
  unfold Ctx.addClaim
  dsimp only
  split
  · exact List.mem_append_left _ hr
  · exact hr

/-- The first live thread of a sub-group that has parked as a whole brings its claim, unless it waits already. -/
theorem Ctx.addClaim_of_head {t : Nat} (hhead : (c.members lg t).head? = some t)
    (hall : ∀ m ∈ c.members lg t, (c.thread m).place = .regclm) (hcs : ∀ r ∈ cs, c.ClaimBy ts x n lg r) :
    ∃ r ∈ c.addClaim x cs (t, n, lg), r.ctx = x ∧ r.n = n ∧ r.threads = c.members lg t := by
  have hpark : (c.members lg t).all (fun m => (c.thread m).place == .regclm) = true :=
    List.all_eq_true.2 fun m hm => beq_iff_eq.2 (hall m hm)
  by_cases hany : (cs.any fun r => r.ctx == x && r.threads.contains t) = true
  · obtain ⟨r, hr, hmatch⟩ := List.any_eq_true.1 hany
    have hmem : t ∈ r.threads := List.contains_iff_mem.1 (Bool.and_eq_true_iff.1 hmatch).2
    have hthreads := ((hcs r hr).threads_eq hmem).1
    obtain ⟨u, -, rfl, -⟩ := hcs r hr
    exact ⟨_, Ctx.subset_addClaim hr _, rfl, rfl, hthreads⟩
  · refine ⟨⟨x, c.members lg t, n, (c.members lg t).length⟩, ?_, rfl, rfl, rfl⟩
    rw [Ctx.addClaim, if_pos (by simp only [Bool.not_eq_true _ ▸ hany, hhead, hpark, beq_self_eq_true, Bool.not_false, Bool.and_self])]
    exact List.mem_append_right _ (List.mem_singleton.2 rfl)

/-- A context in which the threads ts, and no others, stand at a REGCLM of n registers for sub-groups of 2^lg. -/
structure Ctx.Claiming (c : Ctx) (ts : List Nat) (n lg : Nat) : Prop where
  live : ∀ t ∈ ts, t ∈ c.live
  parked : ∀ m, (c.thread m).place = .regclm ↔ m ∈ ts
  claimants : ∀ w, w ∈ c.claimants ↔ ∃ t ∈ ts, w = (t, n, lg)

/-- The claims that such threads bring are theirs. -/
theorem Ctx.foldl_addClaim_claimBy (hparked : ∀ m, (c.thread m).place = .regclm → m ∈ ts) {ws : List (Nat × Nat × Nat)}
    (hws : ∀ w ∈ ws, ∃ t ∈ ts, w = (t, n, lg)) : ∀ r ∈ ws.foldl (c.addClaim x) [], c.ClaimBy ts x n lg r := by
  refine List.foldlRecOn (motive := fun cs : List RegClaim => ∀ r ∈ cs, c.ClaimBy ts x n lg r) _ _ (by simp) fun cs hcs w hw => ?_
  obtain ⟨t, ht, rfl⟩ := hws w hw
  exact Ctx.addClaim_claimBy hparked ht hcs

section
variable (h : c.Claiming ts n lg)
include h

theorem Ctx.Claiming.claimBy : ∀ r ∈ c.claimants.foldl (c.addClaim x) [], c.ClaimBy ts x n lg r :=
  Ctx.foldl_addClaim_claimBy (fun m => (h.parked m).1) fun w => (h.claimants w).1

/-- Each sub-group whose live threads have all parked has its claim. -/
theorem Ctx.Claiming.exists_claim {t : Nat} (ht : t ∈ ts) (hall : ∀ m ∈ c.members lg t, m ∈ ts) :
    ∃ r ∈ c.claimants.foldl (c.addClaim x) [], r.ctx = x ∧ r.n = n ∧ r.threads = c.members lg t := by
  obtain ⟨u, rest, hcons⟩ := List.exists_cons_of_ne_nil (List.ne_nil_of_mem (Ctx.mem_members_self (lg := lg) (h.live t ht)))
  have hu : u ∈ c.members lg t := hcons ▸ List.mem_cons_self
  have hsame := Ctx.members_of_mem hu
  have hhead : (c.members lg u).head? = some u := by rw [hsame, hcons, List.head?_cons]
  rw [← hsame]
  obtain ⟨before, after, hsplit⟩ := List.append_of_mem ((h.claimants _).2 ⟨u, hall u hu, rfl⟩)
  have hbefore := Ctx.foldl_addClaim_claimBy (x := x) (fun m => (h.parked m).1) (ws := before)
    fun w hw => (h.claimants w).1 (hsplit ▸ List.mem_append_left _ hw)
  rw [hsplit, List.foldl_append, List.foldl_cons]
  refine List.foldlRecOn (motive := fun cs : List RegClaim => ∃ r ∈ cs, r.ctx = x ∧ r.n = n ∧ r.threads = c.members lg u) _ _
    (Ctx.addClaim_of_head hhead (fun m hm => (h.parked m).2 (hall m (hsame ▸ hm))) hbefore) fun cs hcs w _ => ?_
  obtain ⟨r, hr, hfields⟩ := hcs
  exact ⟨r, Ctx.subset_addClaim hr w, hfields⟩

end
end
end

/-! ### REGCLM (R137, R367) -/

/-- The threads of the issue group park at a REGCLM. -/
def State.parkClaim (s : State) (n lg : Nat) : State := s.parkGroup .regclm n lg s.group.threads

theorem Ctx.dropLanes_all {c : Ctx} {g : Group} (h : c.group = some g) : (c.dropLanes g.threads).group = none := by
  have hnone : g.lanes.filter (fun e => !g.threads.contains e.2) = [] :=
    List.filter_eq_nil_iff.2 fun e he => by
      have hmem : e.2 ∈ g.threads := List.mem_map_of_mem he
      simp [hmem]
  simp only [Ctx.dropLanes, h, hnone, List.isEmpty_nil, if_true]
  rfl

theorem State.live_of_group {s : State} (htidy : s.me.Tidy) {t : Nat} (ht : t ∈ s.group.threads) : t ∈ s.me.live := by
  have hplace : (s.me.thread t).place = .group := htidy.standing t (s.group_threads ▸ ht)
  exact Ctx.mem_live.2 ⟨_, Ctx.mem_threads_of_place (by rw [hplace]; decide), by rw [hplace]; decide⟩

section
variable (s : State) (n lg : Nat)

theorem State.parkClaim_taken : (s.parkClaim n lg).home.taken = s.home.taken := by
  simp only [State.parkClaim, State.parkGroup, State.home_modMe]
  rfl

theorem State.parkClaim_threads : (s.parkClaim n lg).me.threads =
    (s.group.threads.foldl (fun c t => c.modThread t (s.group.parks .regclm n lg t)) s.me).threads := by
  rw [State.parkClaim, State.me_parkGroup]
  exact Ctx.dropLanes_keeps (g := Ctx.threads) (fun _ _ _ _ => rfl) _ _

theorem State.parkClaim_group : (s.parkClaim n lg).me.group = none := by
  have hgroup : (s.group.threads.foldl (fun c t => c.modThread t (s.group.parks .regclm n lg t)) s.me).group = s.me.group :=
    foldl_keeps Ctx.group (fun _ _ => by rfl) _ _
  rw [State.parkClaim, State.me_parkGroup]
  cases hg : s.me.group with
  | none => rw [Ctx.dropLanes, hgroup.trans hg]; exact hgroup.trans hg
  | some g =>
    have hsame : s.group = g := by rw [State.group, hg, Option.getD_some]
    rw [hsame] at hgroup ⊢
    exact Ctx.dropLanes_all (hgroup.trans hg)

/-- A thread of the issue group stands parked with its claim, and goes on after the bundle. -/
theorem State.parkClaim_thread {t : Nat} (ht : t ∈ s.group.threads) :
    ((s.parkClaim n lg).me.thread t).place = .regclm ∧ ((s.parkClaim n lg).me.thread t).claim = some (n, lg, s.group.pc) ∧
      ((s.parkClaim n lg).me.thread t).resume = s.group.keyAfter t := by
  rw [State.parkClaim, State.thread_parkGroup]
  exact Ctx.thread_foldl_modThread_sets
    (P := fun th : Thread => th.place = .regclm ∧ th.claim = some (n, lg, s.group.pc) ∧ th.resume = s.group.keyAfter t)
    (fun _ => ⟨rfl, rfl, rfl⟩) ht _

theorem State.parkClaim_thread_of_not_mem {t : Nat} (ht : t ∉ s.group.threads) : (s.parkClaim n lg).me.thread t = s.me.thread t := by
  rw [State.parkClaim, State.thread_parkGroup, Ctx.thread_foldl_modThread_of_not_mem ht]

theorem State.parkClaim_budget (t : Nat) : ((s.parkClaim n lg).me.thread t).budget = (s.me.thread t).budget := by
  rw [State.parkClaim, State.thread_parkGroup]
  exact Ctx.thread_foldl_modThread_keeps (f := s.group.parks .regclm n lg) (g := Thread.budget) (fun _ _ => rfl) _ _

theorem State.parkClaim_live {s : State} (htidy : s.me.Tidy) (t : Nat) : t ∈ (s.parkClaim n lg).me.live ↔ t ∈ s.me.live := by
  rw [Ctx.live, State.parkClaim_threads, ← Ctx.live, Ctx.mem_live_foldl_modThread (fun _ _ => by simp [Group.parks])]
  exact ⟨fun h => h.elim (State.live_of_group htidy) id, .inr⟩

/-- Where no other thread stands at a REGCLM, the parked ones are the claimants. -/
theorem State.parkClaim_claiming {s : State} (htidy : s.me.Tidy) (hnone : ∀ e ∈ s.me.threads, e.2.place ≠ .regclm) :
    (s.parkClaim n lg).me.Claiming s.group.threads n lg where
  live t ht := (State.parkClaim_live n lg htidy t).2 (State.live_of_group htidy ht)
  parked m := by
    refine ⟨fun hm => by_contra fun hout => ?_, fun hm => (s.parkClaim_thread n lg hm).1⟩
    rw [s.parkClaim_thread_of_not_mem n lg hout] at hm
    exact hnone _ (Ctx.mem_threads_of_place (by rw [hm]; decide)) hm
  claimants w := by
    simp only [Ctx.claimants, List.mem_filterMap]
    constructor
    · rintro ⟨e, he, hw⟩
      rw [State.parkClaim_threads] at he
      obtain he | ⟨ht, th, hth⟩ := Ctx.mem_threads_foldl_modThread he
      · simp [hnone e he] at hw
      · exact ⟨e.1, ht, by simpa [hth, Group.parks] using hw.symm⟩
    · rintro ⟨t, ht, rfl⟩
      obtain ⟨hplace, hclaim, -⟩ := s.parkClaim_thread n lg ht
      exact ⟨_, Ctx.mem_threads_of_place (by rw [hplace]; decide), by simp [hplace, hclaim]⟩

end

theorem State.formClaims_me (s : State) (k x : Nat) : (s.formClaims k x).me = s.me :=
  State.formClaims_keeps (g := State.me) (fun s k cs =>
    State.ctx_modCore_keeps (f := fun co => { co with claims := co.claims ++ cs }) (fun _ => rfl) s k _ _) s k x

theorem State.formClaims_cur (s : State) (k x : Nat) : (s.formClaims k x).cur = s.cur :=
  State.formClaims_keeps (g := State.cur) (fun _ _ _ => rfl) s k x

theorem State.formClaims_taken (s : State) (k x j : Nat) : ((s.formClaims k x).core j).taken = (s.core j).taken :=
  State.formClaims_keeps (g := fun s => (s.core j).taken) (fun s k cs => by
    by_cases hj : j = k
    · rw [hj, State.core_modCore]
    · rw [State.core_modCore_ne _ _ hj]) s k x

section
variable {s : State} {n lg : Nat}

/-- The threads of the issue group park at a REGCLM, and each sub-group that has parked as a whole becomes one claim. -/
def State.bringClaims (s : State) (n lg : Nat) : State := (s.parkClaim n lg).formClaims s.cur.1 s.cur.2

theorem State.bringClaims_me : (s.bringClaims n lg).me = (s.parkClaim n lg).me := State.formClaims_me _ _ _

theorem State.bringClaims_poolFree : (s.bringClaims n lg).poolFree s.cur.1 = s.poolFree s.cur.1 := by
  rw [State.poolFree, State.bringClaims, State.formClaims_taken]
  exact congrArg (poolCap s.cur.1 - ·) (s.parkClaim_taken n lg)

section
variable (hclaims : s.home.claims = [])
include hclaims

theorem State.bringClaims_claims : (s.bringClaims n lg).home.claims =
    (s.parkClaim n lg).me.claimants.foldl ((s.parkClaim n lg).me.addClaim s.cur.2) [] := by
  have hnone : ((s.parkClaim n lg).core s.cur.1).claims = [] := (s.parkGroup_claims .regclm n lg s.group.threads).trans hclaims
  rw [State.home, State.myCore_eq, State.bringClaims, State.formClaims_cur]
  exact (State.formClaims_claims _ _ _).trans (by rw [hnone]; rfl)

variable (htidy : s.me.Tidy) (hnone : ∀ e ∈ s.me.threads, e.2.place ≠ .regclm)
  (hpool : ∀ th ∈ s.group.threads, n * (s.me.members lg th).length ≤ s.poolFree s.cur.1)
include htidy hnone hpool

/-- The pool has room for each of the claims, so that there is no deadlock. -/
theorem State.bringClaims_deadlockCheck : (s.bringClaims n lg).deadlockCheck s.cur.1 = s.bringClaims n lg := by
  have hcore : (s.bringClaims n lg).core s.cur.1 = (s.bringClaims n lg).home := by
    rw [State.home, State.myCore_eq, State.bringClaims, State.formClaims_cur]
    rfl
  refine State.deadlockCheck_of_room fun r hr => ?_
  rw [hcore, State.bringClaims_claims hclaims] at hr
  obtain ⟨t, ht, rfl, -⟩ := (State.parkClaim_claiming n lg htidy hnone).claimBy r hr
  rw [State.bringClaims_poolFree, Ctx.members_congr (State.parkClaim_live n lg htidy)]
  exact hpool t ht

theorem regclm_eq {o : Op} (h : RegSound s o n lg) (hskip : NoSkip s) (hact : s.active o ≠ [])
    (hroom : ∀ th ∈ s.group.threads, (s.me.thread th).budget + n ≤ 255) :
    exec (.regclm o) s = .next (s.bringClaims n lg) := by
  show execRegclm o s = _
  unfold execRegclm
  extract_lets n' lg' k x ts high differs members traps
  have hn : n' = n := regN_of_sound h
  have hlg : lg' = lg := regLg_of_sound h
  have hts : ts = s.group.threads := acting_of_regSound h hskip
  have hhigh : high = [] := by
    simp only [high, hts, hn]
    exact List.filter_eq_nil_iff.2 fun t ht => by simpa using hroom t ht
  have hdiffers (t : Nat) : differs t = false := List.any_eq_false.2 fun e he => by simp [hnone e he]
  have hpoor : ts.filter (fun t => decide (poolCap k < n' * members t)) = [] := by
    simp only [hts, hn, members, hlg]
    exact List.filter_eq_nil_iff.2 fun t ht => by
      rw [decide_eq_true_eq, Nat.not_lt]
      exact (hpool t ht).trans (Nat.sub_le _ _)
  have htraps : traps = [] := by
    simp [traps, regOk_of_sound h, hhigh, hdiffers, hpoor]
  have hsome : ts.isEmpty = false := by simpa [ts] using hact
  rw [htraps, runOp_nil, hsome, if_neg Bool.false_ne_true, hts, hn, hlg]
  exact congrArg _ (State.bringClaims_deadlockCheck hclaims htidy hnone hpool)

end
end

/-- Settles O21: REGREL by what it gives back; REGCLM by the claims that its parked threads bring, for each of which the pool has room. -/
theorem registerBudget : Obligations.RegisterBudget := by
  unfold Obligations.RegisterBudget
  intro s o n lg h huser hskip hact ts
  have htidy := tidy_of_regSound h
  have hlanes : s.group.threads.Nodup := s.group_threads ▸ htidy.lanes
  refine ⟨fun hroom => ⟨_, regrel_eq h hskip huser hroom, s.giveBack_taken n, fun th hth => ?_, fun th hth => ?_, fun th => ?_⟩,
    fun hroom hnone hclaims hpool => ⟨_, regclm_eq hclaims htidy hnone hpool h hskip hact hroom, ?_⟩⟩
  · rw [State.giveBack_me, Ctx.thread_foldl_modThread_nodup hlanes hth, Thread.lowered]
  · rw [State.giveBack_me, Ctx.foldl_modThread_ne hth]
  · rw [State.giveBack_me]
    exact Ctx.foldl_modThread_keeps (f := Thread.lowered n) (g := Thread.regs) (fun _ => rfl) _ _
  · have hpost := State.parkClaim_claiming n lg htidy hnone
    have hmembers := Ctx.members_congr (State.parkClaim_live n lg htidy) lg
    dsimp only
    rw [State.bringClaims_me, State.bringClaims_claims hclaims]
    refine ⟨fun th hth => ?_, s.parkClaim_group n lg, fun th hth => ⟨fun hall => ?_, fun ⟨m, hm, hout⟩ r hr hmem => ?_⟩⟩
    · obtain ⟨hplace, hclaim, hresume⟩ := s.parkClaim_thread n lg hth
      exact ⟨hplace, s.group_pc ▸ hclaim, s.parkClaim_budget n lg th, hresume⟩
    · have hclaim := hpost.exists_claim (x := s.cur.2) hth (hmembers th ▸ hall)
      rwa [hmembers] at hclaim
    · exact hout (((hpost.claimBy r hr).threads_eq hmem).2 m (hmembers th ▸ hm))

end
end Sys2Proof.Machine
end

section
-- One proof after another, as in the sections before this one.
set_option Elab.async false

namespace Sys2Proof.Machine

section
open Sys2Proof.Claims

/-! ### Results that land past the registers (R129) -/

/-- A result that is due, of two registers from p255 on: its second word has no register to enter. -/
def pastRegisters : Landing :=
  { due := 0, slot := 0, kind := .reg, dest := 255, width := 2, vals := [(0, [5, 7])], zeros := [], lanes := [(0, 0)], window := none
    flags := 0, exc := [], at_ := {} }

/-- A core whose context 0 has that result in flight. -/
def pastLanding : State := { cores := [(0, { ctxs := [(0, { inflight := [pastRegisters] })] })] }

/-- The value enters p255 alone: a word of a value goes to a selector of its own, and 256 names no register (R125). -/
theorem resultLanding_pastLanding : exec (.resultLanding 0 0) pastLanding =
    .next { pastLanding with cores := [(0, { ctxs := [(0, { threads := [(0, { regs := [(255, 5)] })] })] })] } := rfl

/-- Refutes O40: nothing keeps the run of a result that begins in the registers from ending past them, where its words are not written. -/
theorem not_resultsLand : ¬ Obligations.ResultsLand := by
  unfold Obligations.ResultsLand
  intro h
  obtain ⟨-, hlands, -⟩ := h pastLanding 0 0 rfl rfl rfl
  obtain ⟨t, hexec, -, hvals, -⟩ := hlands pastRegisters rfl rfl rfl rfl rfl (by decide) (by decide)
  obtain rfl := Host.Outcome.next.inj (resultLanding_pastLanding.symm.trans hexec)
  exact absurd (hvals (0, [5, 7]) (by decide) 1 (by decide)) (by decide)

end
end Sys2Proof.Machine
end

section
-- One proof after another, as in the sections before this one.
set_option Elab.async false

namespace Sys2Proof.Machine

section
open Sys2Proof.Claims

/-! ### Patterns as machine words (R303) -/

/-- A pattern is the low bits of its integer. -/
theorem ofNat_wrap (w : Nat) (i : Int) : BitVec.ofNat w (wrap w i) = BitVec.ofInt w i := by
  refine BitVec.eq_of_toNat_eq ?_
  rw [BitVec.toNat_ofNat, BitVec.toNat_ofInt, wrap, Nat.mod_eq_of_lt]
  have hlt := Int.emod_lt_of_pos i (b := ((2 ^ w : Nat) : Int)) (by positivity)
  omega

theorem wrap_natCast (w n : Nat) : wrap w n = n % 2 ^ w := by
  rw [wrap, ← Int.natCast_emod, Int.toNat_natCast]

/-! ### The elements of a tile (R187, R192) -/

/-- An element reads as it was last written, and every other element of the tiles as before. -/
theorem Mtx.accAt_accPut (m : Mtx) (v : BitVec 32) {tile i j tl r q : Nat} (hi : i < 256) (hj : j < 128) (hr : r < 256) (hq : q < 128) :
    (m.accPut tile i j v).accAt tl r q = if tl = tile ∧ r = i ∧ q = j then v else m.accAt tl r q := by
  have hindex : tl * 32768 + 128 * r + q = tile * 32768 + 128 * i + j ↔ tl = tile ∧ r = i ∧ q = j := by omega
  simp only [← hindex, Mtx.accAt, Mtx.accPut, tgetD]
  split
  next hv => rw [tget_tdel, hv]; split <;> rfl
  next =>
    split
    next he => rw [he, tget_tset_self]; rfl
    next hne => rw [tget_tset_ne _ _ hne]

/-- Elements of a tile, each by its row and column, take numbers. -/
def Mtx.writeTile (m : Mtx) (tile : Nat) (es : List (Nat × Nat × Nat)) : Mtx :=
  es.foldl (fun m e => m.accPut tile e.1 e.2.1 (BitVec.ofNat 32 e.2.2)) m

/-- The elements of whole rows, with a number for each row and column. -/
def rowElems (rows : List Nat) (f : Nat → Nat → Nat) : List (Nat × Nat × Nat) :=
  rows.flatMap fun i => (List.range 128).map fun j => (i, j, f i j)

theorem mem_rowElems {rows : List Nat} {f : Nat → Nat → Nat} {e : Nat × Nat × Nat} :
    e ∈ rowElems rows f ↔ e.1 ∈ rows ∧ e.2.1 < 128 ∧ e.2.2 = f e.1 e.2.1 := by
  obtain ⟨i, j, v⟩ := e
  simp only [rowElems, List.mem_flatMap, List.mem_map, List.mem_range, Prod.mk.injEq]
  constructor
  · rintro ⟨i, hi, j, hj, rfl, rfl, rfl⟩
    exact ⟨hi, hj, rfl⟩
  · rintro ⟨hi, hj, rfl⟩
    exact ⟨i, hi, j, hj, rfl, rfl, rfl⟩

theorem Mtx.writeTile_opmem (m : Mtx) (tile : Nat) (es : List (Nat × Nat × Nat)) : (m.writeTile tile es).opmem = m.opmem :=
  Mtx.foldl_opmem (fun _ _ => Mtx.accPut_opmem) m

section
variable {rows : List Nat} {f : Nat → Nat → Nat} (hrows : ∀ i ∈ rows, i < 256)
include hrows

/-- After one element of the rows is written, an element is that one or reads as before. -/
theorem Mtx.accAt_accPut_rowElems {e : Nat × Nat × Nat} (he : e ∈ rowElems rows f) (m : Mtx) {tile tl r q : Nat} (hr : r < 256) (hq : q < 128) :
    (m.accPut tile e.1 e.2.1 (BitVec.ofNat 32 e.2.2)).accAt tl r q =
      if tl = tile ∧ r = e.1 ∧ q = e.2.1 then BitVec.ofNat 32 (f r q) else m.accAt tl r q := by
  obtain ⟨hi, hj, hv⟩ := mem_rowElems.1 he
  rw [m.accAt_accPut _ (hrows _ hi) hj hr hq, hv]
  refine if_ctx_congr Iff.rfl (fun ⟨_, hri, hqj⟩ => ?_) fun _ => rfl
  rw [hri, hqj]

/-- A written row holds its numbers. -/
theorem Mtx.accAt_writeTile_of_mem (m : Mtx) (tile : Nat) {i j : Nat} (hi : i ∈ rows) (hj : j < 128) :
    (m.writeTile tile (rowElems rows f)).accAt tile i j = BitVec.ofNat 32 (f i j) := by
  suffices H : ∀ (es : List (Nat × Nat × Nat)) (m : Mtx), (∀ e ∈ es, e ∈ rowElems rows f) →
      (i, j, f i j) ∈ es ∨ m.accAt tile i j = BitVec.ofNat 32 (f i j) → (m.writeTile tile es).accAt tile i j = BitVec.ofNat 32 (f i j) from
    H _ m (fun _ he => he) (.inl (mem_rowElems.2 ⟨hi, hj, rfl⟩))
  intro es
  induction es with
  | nil => exact fun m _ h => h.resolve_left List.not_mem_nil
  | cons e es ih =>
    intro m hes h
    refine ih _ (fun d hd => hes d (List.mem_cons_of_mem _ hd)) ?_
    rw [Mtx.accAt_accPut_rowElems hrows (hes e List.mem_cons_self) m (hrows i hi) hj]
    by_cases he : i = e.1 ∧ j = e.2.1
    · exact .inr (if_pos ⟨rfl, he⟩)
    · rw [if_neg fun h => he h.2]
      exact h.imp_left fun h => (List.mem_cons.1 h).resolve_left fun h => he ⟨congrArg (·.1) h, congrArg (·.2.1) h⟩

/-- An element outside the written rows stays. -/
theorem Mtx.accAt_writeTile_of_not_mem (m : Mtx) (tile : Nat) {tl i j : Nat} (hi : i < 256) (hj : j < 128) (hout : tl ≠ tile ∨ i ∉ rows) :
    (m.writeTile tile (rowElems rows f)).accAt tl i j = m.accAt tl i j := by
  refine List.foldlRecOn (motive := fun n : Mtx => n.accAt tl i j = m.accAt tl i j) _ _ rfl fun n hn e he => ?_
  rw [Mtx.accAt_accPut_rowElems hrows he n hi hj, if_neg, hn]
  rintro ⟨htl, rfl, -⟩
  exact hout.elim (fun h => h htl) fun h => h (mem_rowElems.1 he).1

end

/-! ### The integer formats of MMA (R190, R191) -/

section
variable (m : Mtx) (slot : Nat)

/-- An element of eight bits is the byte where it stands. -/
theorem Mtx.slotBits_byte (n : Nat) : m.slotBits slot (8 * n) 8 = (cellAt m.opmem (slot * 16384 + n)).toNat := by
  have hdiv : 8 * n / 8 = n := by omega
  have hmod : 8 * n % 8 = 0 := by omega
  have hlow : ∀ (b : Byte) (bs : List Byte), bytesToNat (b :: bs) % 2 ^ 8 = b.toNat := fun b bs => by
    have hb := b.isLt
    rw [bytesToNat]
    omega
  rw [Mtx.slotBits, Mtx.slotNat, hdiv, hmod, pow_zero, Nat.div_one, List.range_succ_eq_map, List.map_cons, hlow, Nat.add_zero]

variable {fmt : Nat} (h : mmaFormat fmt = (8, 64, 256))
include h

theorem Mtx.rowA_bytes (i : Nat) :
    m.rowA fmt slot i = (List.range 64).map fun n => (cellAt m.opmem (slot * 16384 + (64 * i + n))).toNat := by
  simp only [Mtx.rowA, h, Mtx.slotBits_byte]

theorem Mtx.colB_bytes (j : Nat) :
    m.colB fmt slot j = (List.range 64).map fun n => (cellAt m.opmem (slot * 16384 + (128 * n + j))).toNat := by
  simp only [Mtx.colB, h, Mtx.slotBits_byte]

end

/-- The products of a row of A with a column of B add up to the dot product of bytes. -/
theorem sum_products_eq_byteDot (s : State) (g : Nat → Int) {fmt : Nat} (h : mmaFormat fmt = (8, 64, 256)) (aslot bslot i j : Nat) :
    ((((s.mtx s.cur.1).rowA fmt aslot i).zip ((s.mtx s.cur.1).colB fmt bslot j)).map fun p => g p.1 * g p.2).sum =
      byteDot s g aslot bslot i j := by
  rw [Mtx.rowA_bytes _ _ h, Mtx.colB_bytes _ _ h, List.zip_map', List.map_map]
  rfl

section
variable (s : State) (aslot bslot nbv rm : Nat) (ftz : Bool) (c i j : Nat)

theorem mmaElem_signed : BitVec.ofNat 32 ((s.mtx s.cur.1).mmaElem 1 aslot bslot nbv rm ftz c i j) =
    BitVec.ofInt 32 (c + byteDot s (signed 8) aslot bslot i j) := by
  rw [← sum_products_eq_byteDot s (signed 8) (fmt := 1) rfl, ← ofNat_wrap]
  rfl

theorem mmaElem_unsigned : BitVec.ofNat 32 ((s.mtx s.cur.1).mmaElem 2 aslot bslot nbv rm ftz c i j) =
    BitVec.ofInt 32 (c + byteDot s (fun n => n) aslot bslot i j) := by
  rw [← sum_products_eq_byteDot s (fun n => n) (fmt := 2) rfl, ← ofNat_wrap]
  simp only [← Nat.cast_mul]
  rw [← Function.comp_def (Nat.cast : Nat → Int), ← List.map_map, ← Nat.cast_list_sum, ← Nat.cast_add, wrap_natCast]
  rfl

end

/-! ### MMA (R192, R357) -/

/-- The element that MMA gives row i and column j. -/
def State.product (s : State) (fmt aslot bslot tile : Nat) (z : Bool) (i j : Nat) : Nat :=
  (s.mtx s.cur.1).mmaElem fmt aslot bslot (nbvOf s) (fpRM s.me.regs.fpctl) (fpFTZ s.me.regs.fpctl)
    (if z then 0 else (tileAt s tile i j).toNat) i j

/-- When the array is free again after a multiplication that begins now (R192). -/
def State.mmaEnd (s : State) (fmt : Nat) : Nat := s.now + cycleLen * ((mmaFormat fmt).2.2 * if isWide s.cur.1 then 1 else 2)

/-- The state after MMA has its effect: the owned rows hold the product, and the array and the order of work know of it. -/
def State.multiplied (s : State) (o : Op) (fmt aslot bslot tile : Nat) (z : Bool) : State :=
  (s.modMtx s.cur.1 fun m => { m.writeTile tile (rowElems (ownedRows s o) (s.product fmt aslot bslot tile z)) with
    arrayFree := s.mmaEnd fmt }).addWork s.cur.1
      { ctx := s.cur.2, reads := ⟨[aslot, bslot], []⟩, writes := ⟨[], [tile]⟩, until_ := s.mmaEnd fmt }

theorem mtxTraps_of_sound {s : State} {o : Op} {opc : Nat} {srcs : List Nat} (h : MtxSound s o opc srcs) : mtxTraps opc o s srcs = [] := by
  obtain ⟨hext, hlegal, hread⟩ := h
  have hok : (o.legalV opc 0 && o.extOk false false false && o.ext.isNone) = true := by simp [hlegal, hext, Op.extOk]
  rw [mtxTraps, hok, hread.srcTraps]

/-- Where all lanes of ACTIVE agree on a word, the highest one reads it and none disagrees. -/
theorem top_of_uniform {s : State} {o : Op} {sel w : Nat} (h : Uniform s o sel w) (hact : s.active o ≠ []) :
    (∃ e, s.top o = some e ∧ s.scalar o e.1 e.2 sel 7 = w) ∧ s.diverges o sel w = false := by
  refine ⟨⟨_, List.getLast?_eq_some_getLast hact, h _ (List.getLast_mem hact)⟩, ?_⟩
  simp only [State.diverges, List.any_eq_false, bne_iff_ne, not_not]
  exact h

theorem ownedRows_lt {s : State} {o : Op} (h : RealLanes s o) : ∀ i ∈ ownedRows s o, i < 256 := by
  simp only [ownedRows, laneRows, List.mem_flatMap, List.mem_map, List.mem_range]
  rintro _ ⟨a, ha, n, hn, rfl⟩
  have hlane := h a ha
  omega

theorem State.mtx_modMtx (s : State) (k : Nat) (f : Mtx → Mtx) : (s.modMtx k f).mtx k = f (s.mtx k) := by
  simp [State.mtx, State.modMtx]

theorem State.mtx_addWork (s : State) (k : Nat) (w : Work) : (s.addWork k w).mtx k = { s.mtx k with work := (s.mtx k).work ++ [w] } :=
  s.mtx_modMtx k fun m => { m with work := m.work ++ [w] }

section
variable {s : State} {o : Op} {w fmt aslot bslot tile : Nat} {z : Bool}

/-- A sound MMA waits for the array, then for conflicting work, and then has its effect. -/
theorem mma_eq (hsound : MtxSound s o 0x0A0 [o.selA]) (hact : s.active o ≠ []) (hw : Uniform s o o.selA w)
    (hword : mmaWord w = some (fmt, aslot, bslot, tile, z)) (ha : s.holdsSlot s.cur.1 s.cur.2 aslot = true)
    (hb : s.holdsSlot s.cur.1 s.cur.2 bslot = true) (ht : s.holdsTile s.cur.1 s.cur.2 tile = true) :
    exec (.mma o) s =
      if s.now < (s.mtx s.cur.1).arrayFree then .next (s.holdFor .lookahead)
      else if s.conflicts s.cur.1 ⟨[aslot, bslot], []⟩ ⟨[], [tile]⟩ then .next (s.holdFor .opslotWait)
      else .next (s.multiplied o fmt aslot bslot tile z) := by
  obtain ⟨⟨e, htop, hscalar⟩, hagree⟩ := top_of_uniform hw hact
  show execMma o s = _
  simp only [execMma, htop, hscalar, hword, mtxTraps_of_sound hsound, hagree, ha, hb, ht, State.myCore_eq, State.myCtxNo_eq,
    Option.getD_some, Option.isNone_some, List.isEmpty_nil, Bool.and_true, Bool.true_and, Bool.not_true, Bool.false_eq_true, if_false,
    runOp_nil, State.multiplied, rowElems, ownedRows, List.flatMap_assoc]
  exact if_congr decide_eq_true_iff rfl rfl

/-- The matrix unit then: the written tile, the slots as they were, and the array in use. -/
theorem State.multiplied_mtx : ((s.multiplied o fmt aslot bslot tile z).mtx s.cur.1).acc =
      ((s.mtx s.cur.1).writeTile tile (rowElems (ownedRows s o) (s.product fmt aslot bslot tile z))).acc ∧
    ((s.multiplied o fmt aslot bslot tile z).mtx s.cur.1).opmem = (s.mtx s.cur.1).opmem ∧
    ((s.multiplied o fmt aslot bslot tile z).mtx s.cur.1).arrayFree = s.mmaEnd fmt := by
  rw [State.multiplied, State.mtx_addWork, State.mtx_modMtx]
  exact ⟨rfl, Mtx.writeTile_opmem _ _ _, rfl⟩

/-- The owned rows take the product and nothing else of tiles and slots changes. -/
theorem State.multiplied_tileRows (hreal : RealLanes s o) :
    TileRows s (s.multiplied o fmt aslot bslot tile z) tile (ownedRows s o) fun i j =>
      BitVec.ofNat 32 (s.product fmt aslot bslot tile z i j) := by
  obtain ⟨hacc, hopmem, -⟩ := s.multiplied_mtx (o := o) (fmt := fmt) (aslot := aslot) (bslot := bslot) (tile := tile) (z := z)
  have htile : ∀ tl i j, tileAt (s.multiplied o fmt aslot bslot tile z) tl i j =
      ((s.mtx s.cur.1).writeTile tile (rowElems (ownedRows s o) (s.product fmt aslot bslot tile z))).accAt tl i j :=
    fun tl i j => congrArg (tgetD · _ 0) hacc
  refine ⟨fun i hi j hj => ?_, fun tl i j hi hj hout => ?_, hopmem⟩
  · rw [htile, Mtx.accAt_writeTile_of_mem (ownedRows_lt hreal) _ _ hi hj]
  · exact (htile tl i j).trans (Mtx.accAt_writeTile_of_not_mem (ownedRows_lt hreal) _ _ hi hj hout)

end

/-- Settles O28: a sound MMA waits or multiplies (`mma_eq`); what it writes is a fold over the elements of the owned rows, and in the
integer formats each is the old element and the dot product of bytes, modulo 2^32. -/
theorem matrixMultiply : Obligations.MatrixMultiply := by
  unfold Obligations.MatrixMultiply
  intro s o w fmt aslot bslot tile z hsound hact hw hword hreal ha hb ht c
  have heq := mma_eq hsound hact hw hword ha hb ht
  have hrows := s.multiplied_tileRows (fmt := fmt) (aslot := aslot) (bslot := bslot) (tile := tile) (z := z) hreal
  refine ⟨fun hbusy => ?_, fun hfree hmeets => ?_, fun hfree hclear => ?_⟩
  · exact ⟨_, heq.trans (if_pos hbusy), rfl⟩
  · rw [if_neg hfree.not_gt, if_pos hmeets] at heq
    exact ⟨_, heq, rfl⟩
  · rw [if_neg hfree.not_gt, if_neg (by simp [hclear])] at heq
    obtain ⟨-, -, hend⟩ := s.multiplied_mtx (o := o) (fmt := fmt) (aslot := aslot) (bslot := bslot) (tile := tile) (z := z)
    refine ⟨_, heq, hrows, ?_, ?_, hend⟩
    · rintro rfl
      simpa only [State.product, mmaElem_signed] using hrows
    · rintro rfl
      simpa only [State.product, mmaElem_unsigned] using hrows

end
end Sys2Proof.Machine
end

section
-- One proof after another, as in the sections before this one.
set_option Elab.async false

namespace Sys2Proof.Machine

section
open Sys2Proof.Claims

/-! ### Scalars and their images (R303) -/

theorem signed_eq_toInt (w v : Nat) : signed w v = (BitVec.ofNat w v).toInt := by
  rw [BitVec.toInt_eq_toNat_cond, BitVec.toNat_ofNat, signed]
  have hlt : v % 2 ^ w < 2 ^ w := Nat.mod_lt _ (by positivity)
  cases w with
  | zero => simp [Nat.mod_one]
  | succ n =>
    have htop : (0 < n + 1 ∧ 2 ^ (n + 1 - 1) ≤ v % 2 ^ (n + 1)) ↔ ¬2 * (v % 2 ^ (n + 1)) < 2 ^ (n + 1) := by
      rw [Nat.add_sub_cancel, pow_succ]
      omega
    simp only [htop, ite_not, Nat.cast_pow, Nat.cast_ofNat]

/-- A register holds the image of the low bits of a result. -/
theorem regImage_eq_image (ty v : Nat) : regImage ty v = image ty (BitVec.ofNat (tyBits ty) v) := by
  unfold regImage image
  split
  · rw [signed_eq_toInt]
    rfl
  · refine BitVec.eq_of_toNat_eq ?_
    rw [BitVec.toNat_setWidth, BitVec.toNat_ofNat, BitVec.toNat_ofNat]

theorem regImage_toPat (ty : Nat) (i : Int) : regImage ty (toPat ty i) = image ty (BitVec.ofInt (tyBits ty) i) := by
  rw [regImage_eq_image, toPat, ofNat_wrap]

theorem regImage_of_unsigned {ty : Nat} (h : isSigned ty = false) (v : Nat) : regImage ty v = word64 (v % 2 ^ tyBits ty) := by
  rw [regImage, h]
  rfl

/-- A scalar source is the low bits of its word. -/
theorem State.scalar_eq_src {ty : Nat} (h : isTileTy ty = false) (s : State) (o : Op) (lane t sel : Nat) :
    s.scalar o lane t sel ty = (src (tyBits ty) s o sel lane t).toNat := by
  simp [State.scalar, State.operand, Op.count, Op.regsOf, elemTy, h, src, State.word, BitVec.toNat_setWidth]

/-! ### ACTIVE after a result is on its way (R9, R295) -/

theorem not_halved_of_intSlot {o : Op} (h : intSlot o) (s : State) : s.halved o = false := by
  obtain h | h | h := h <;> simp [State.halved, h]

/-- The lanes of ACTIVE follow from the issue group, the translations, and the predicates and skips of the threads. -/
theorem State.active_congr {s t : State} {o : Op} (hslot : intSlot o) (hcur : t.cur = s.cur) (hclusters : t.clusters = s.clusters)
    (hgroup : t.me.group = s.me.group) (hqs : ∀ th, (t.me.thread th).qs = (s.me.thread th).qs)
    (hskip : ∀ th, (t.me.thread th).skip = (s.me.thread th).skip) : t.active o = s.active o := by
  have hg : t.group = s.group := by rw [State.group, hgroup]; rfl
  have hpc : t.me.pc = s.me.pc := by rw [← State.group_pc, ← State.group_pc, hg]
  have hpoint : ∀ k pc, t.point k pc = s.point k pc := fun k pc => by
    rw [State.point, State.trans, State.cluster, hclusters]
    rfl
  have hguard : ∀ lane th, t.guard o lane th = s.guard o lane th := fun lane th => by
    simp [State.guard, State.skipping, State.view, not_halved_of_intSlot hslot, Thread.q, hqs, hskip, hpc, hpoint, hcur]
  simp [State.active, hg, hguard]

theorem State.claimLast_thread {β : Type} {g : Thread → β} (hg : ∀ (th : Thread) n words, g (th.allocate n words) = g th) (s : State)
    (kind : DestKind) (dest width : Nat) (ts : List Nat) (t : Nat) :
    g ((s.claimLast kind dest width ts).me.thread t) = g (s.me.thread t) := by
  unfold State.claimLast
  split
  · rw [State.me_modMe]
    exact Ctx.thread_foldl_modThread_keeps (f := fun _ th => th.allocate (dest - 0x140) width) (fun _ th => hg th _ _) ts s.me
  · rfl

theorem State.claimLast_fields (s : State) (kind : DestKind) (dest width : Nat) (ts : List Nat) :
    (s.claimLast kind dest width ts).cur = s.cur ∧ (s.claimLast kind dest width ts).clusters = s.clusters ∧
      (s.claimLast kind dest width ts).me.group = s.me.group := by
  unfold State.claimLast
  split
  · refine ⟨rfl, rfl, ?_⟩
    rw [State.me_modMe]
    exact foldl_keeps (f := fun c t => c.modThread t fun th => th.allocate (dest - 0x140) width) Ctx.group (fun _ _ => rfl) ts s.me
  · exact ⟨rfl, rfl, rfl⟩

/-- Results of an integer op on their way leave ACTIVE as it was. -/
theorem Gives.active {s t : State} {o : Op} {kind : DestKind} {dest width lat interval : Nat} {v : Nat → Nat → List Word}
    (h : Gives s t o kind dest width lat interval v) (hslot : intSlot o) (hone : interval ≤ 1) : t.active o = s.active o := by
  obtain ⟨ls, hlands, -⟩ := h
  have ht := hlands.frame
  simp only [hone, if_true] at ht
  obtain ⟨hcur, hclusters, hgroup⟩ := s.claimLast_fields kind dest width ((s.active o).map (·.2))
  rw [ht]
  refine State.active_congr hslot hcur hclusters ?_ (fun th => ?_) fun th => ?_ <;> rw [State.me_modMe]
  · exact hgroup
  · exact s.claimLast_thread (g := Thread.qs) (fun _ _ _ => rfl) _ _ _ _ th
  · exact s.claimLast_thread (g := Thread.skip) (fun _ _ _ => rfl) _ _ _ _ th

/-! ### Ops of two results (R294, R311, R348, R386) -/

/-- The extension word names the second destination and the fourth source. -/
theorem extPair_eq {o : Op} {x : Word} {four : Bool} (hext : o.ext = some x) (hzero : x.extractLsb' 20 44 = 0#44) (hvar : o.var = 0)
    (ha : o.a ≠ 0x1F3#10) (hb : o.b ≠ 0x1F3#10) (hc : o.c ≠ 0x1F3#10) (hfour : four = true ∨ (x.extractLsb' 10 10).toNat = 0)
    (hs : (x.extractLsb' 10 10).toNat ≠ 0x1F3) : extPair o four = some ((x.extractLsb' 0 10).toNat, (x.extractLsb' 10 10).toNat) := by
  have hfour : (four || (x.extractLsb' 10 10).toNat == 0) = true := by simpa using hfour
  simp only [extPair, hext, Option.bind_some, hzero, hvar, hfour, bne_iff_ne.2 ha, bne_iff_ne.2 hb, bne_iff_ne.2 hc, bne_iff_ne.2 hs,
    beq_self_eq_true, Bool.and_self, if_true]

/-- The source runs of an op of two results, with the fourth source `h` where the op has one. -/
def wideSrcs (o : Op) (four : Bool) (h : Nat) : List (Nat × Nat) :=
  [(o.selA, 1), (o.b.toNat, 1), (o.selC, 1)] ++ if four then [(h, 1)] else []

/-- Both results of such an op in a lane and thread. -/
def wideValue (s : State) (o : Op) (four : Bool) (cty h : Nat) (f : Nat → Nat → Nat → Nat → Nat × Nat) (l t : Nat) : Nat × Nat :=
  f (s.scalar o l t o.selA o.ty) (s.scalar o l t o.b.toNat o.ty) (s.scalar o l t o.selC cty) (if four then s.scalar o l t h o.ty else 0)

section
variable {s : State} {o : Op} {opc : Nat} {four : Bool} {cty rty2 lat d2 h : Nat} {f : Nat → Nat → Nat → Nat → Nat × Nat}
  (hty : (Lpf.row opc).any (·.tyOk o.ty) = true) (hpair : extPair o four = some (d2, h))
  (hsound1 : Sound s o (wideSrcs o four h) o.dest.toNat 1)
  (hsound2 : Sound (s.claimLast .reg o.dest.toNat 1 ((s.active o).map (·.2))) o (wideSrcs o four h) d2 1)
include hty hpair hsound1 hsound2

/-- A sound op of two results raises no trap and sends the one, then the other. -/
theorem wideOp_eq : wideOp opc four cty rty2 lat o f s =
    (s.land o .reg o.dest.toNat 1 lat (s.perLane o fun l t => [regImage o.ty (wideValue s o four cty h f l t).1]) 0 [] []).land
      o .reg d2 1 lat (s.perLane o fun l t => [regImage rty2 (wideValue s o four cty h f l t).2]) 0 [] [] := by
  have hsrc : s.srcTraps o true ([(o.selA, 1), (o.b.toNat, 1), (o.selC, 1)] ++ if four then [(h, 1)] else []) = [] := hsound1.srcTraps
  simp only [wideOp, hty, hpair, Option.isSome_some, Option.getD_some, hsound1.target, hsound2.target, Bool.and_self, hsrc,
    hsound1.copyTraps, hsound2.copyTraps, List.append_nil, runOp_nil]
  rfl

/-- Both results are on their way, and each lane's come from what it read before either. -/
theorem wideOp_gives (hslot : intSlot o) {v1 v2 : Nat → Nat → Word} (hv1 : ∀ l t, regImage o.ty (wideValue s o four cty h f l t).1 = v1 l t)
    (hv2 : ∀ l t, regImage rty2 (wideValue s o four cty h f l t).2 = v2 l t) :
    ∃ s1, Gives s s1 o .reg o.dest.toNat 1 lat 1 (fun l t => [v1 l t]) ∧
      Gives s1 (wideOp opc four cty rty2 lat o f s) o .reg d2 1 lat 1 (fun l t => [v2 l t]) := by
  simp only [wideOp_eq hty hpair hsound1 hsound2, hv1, hv2]
  have hfirst := s.land_gives o .reg o.dest.toNat 1 lat fun l t => [v1 l t]
  refine ⟨_, hfirst, ?_⟩
  have hlanes : s.perLane o (fun l t => [v2 l t]) = State.perLane _ o fun l t => [v2 l t] :=
    congrArg (List.map _) (hfirst.active hslot le_rfl).symm
  rw [hlanes]
  exact State.land_gives _ o _ _ _ _ _

end

/-! ### Carries and upper words (R159) -/

/-- The carry of a sum of two numbers of w bits and a bit is bit w of it. -/
theorem regImage_carry {w a b c : Nat} (ha : a < 2 ^ w) (hb : b < 2 ^ w) (hc : c < 2 ^ 1) :
    regImage 14 ((a + b + c) / 2 ^ w) = if 2 ^ w ≤ a + b + c then 1 else 0 := by
  split
  next hle =>
    rw [Nat.div_eq_of_lt_le (k := 1) (by omega) (by omega)]
    rfl
  next hlt =>
    rw [Nat.div_eq_of_lt (by omega)]
    rfl

theorem regImage_pr (p : Prop) [Decidable p] : regImage 14 (if p then 1 else 0) = if p then 1 else 0 := by
  split <;> rfl

/-- The upper word of a product of two numbers of w bits and two more of them has w bits. -/
theorem muladd_div_lt {w a b c h : Nat} (ha : a < 2 ^ w) (hb : b < 2 ^ w) (hc : c < 2 ^ w) (hh : h < 2 ^ w) :
    (a * b + c + h) / 2 ^ w < 2 ^ w := by
  refine Nat.div_lt_of_lt_mul ?_
  obtain ⟨n, hn⟩ := Nat.exists_eq_succ_of_ne_zero (pow_ne_zero w two_ne_zero)
  rw [hn] at ha hb hc hh ⊢
  have hprod : a * b ≤ n * n := Nat.mul_le_mul (by omega) (by omega)
  calc a * b + c + h ≤ n * n + n + n := by omega
    _ < n.succ * n.succ := by rw [Nat.succ_mul_succ]; omega

/-- ADDC, SUBB and MADC take the integer types of their rows, which are scalar (R291). -/
theorem addc_types : ∀ ty ∈ [3, 4, 7, 8], (Lpf.row 0x004).any (·.tyOk ty) = true ∧ (Lpf.row 0x005).any (·.tyOk ty) = true ∧
    isTileTy ty = false := by decide

theorem madc_types : ∀ ty ∈ [7, 8], (Lpf.row 0x006).any (·.tyOk ty) = true ∧ isTileTy ty = false ∧ isSigned ty = false := by decide

/-- Settles O3: both results come from what the lanes read before either is on its way (`wideOp_gives`), and as words they are those
of the exact sum, difference or product. -/
theorem carryResults : Obligations.CarryResults := by
  unfold Obligations.CarryResults
  intro s o x hslot hext hzero hvar ha hb hc d d2 hs w a b cin c h first both
  refine ⟨fun hty hnone h1 h2 => ?_, fun hty hsel h1 h2 => ?_⟩
  · obtain ⟨hrow, hrowSub, hscalar⟩ := addc_types _ hty
    have hpair := extPair_eq (four := false) hext hzero hvar ha hb hc (.inr hnone) (by omega)
    have hsrc := fun l t sel => s.scalar_eq_src hscalar o l t sel
    have hbit := fun l t sel => s.scalar_eq_src (ty := 14) rfl o l t sel
    refine ⟨⟨_, rfl, wideOp_gives hrow hpair h1 h2 hslot (fun l t => ?_) fun l t => ?_⟩,
      ⟨_, rfl, wideOp_gives hrowSub hpair h1 h2 hslot (fun l t => ?_) fun l t => ?_⟩⟩ <;> rw [wideValue, hsrc, hsrc, hbit]
    · exact regImage_eq_image _ _
    · exact regImage_carry (BitVec.isLt _) (BitVec.isLt _) (BitVec.isLt _)
    · exact regImage_toPat _ _
    · exact regImage_pr _
  · obtain ⟨hrow, hscalar, hunsigned⟩ := madc_types _ hty
    have hpair := extPair_eq (four := true) hext hzero hvar ha hb hc (.inl rfl) hsel
    have hsrc := fun l t sel => s.scalar_eq_src hscalar o l t sel
    refine ⟨_, rfl, wideOp_gives hrow hpair h1 h2 hslot (fun l t => ?_) fun l t => ?_⟩ <;>
      rw [wideValue, hsrc, hsrc, hsrc, if_pos rfl, hsrc]
    · exact regImage_of_unsigned hunsigned _
    · refine (regImage_of_unsigned hunsigned _).trans ?_
      exact congrArg word64 (Nat.mod_eq_of_lt (muladd_div_lt (BitVec.isLt _) (BitVec.isLt _) (BitVec.isLt _) (BitVec.isLt _)))

end
end Sys2Proof.Machine
end

section
-- One proof after another, as in the sections before this one.
set_option Elab.async false

namespace Sys2Proof.Machine

section
open Sys2Proof.Claims

/-! ### What the accesses of a context leave alone (R170, R173, R182, R220) -/

/-- A reading of states that no translation, load or store of a context changes: beside memory these reach the L1s, TLBs and stashes of
cores, the walkers and write-combining buffers of clusters, the host link, and the context's mark of read-mostly writes. -/
structure BesideAccesses (k x : Nat) {β : Type} (g : State → β) : Prop extends BesideMemory g where
  core : ∀ s j f, (∀ c, (f c).ctxs = c.ctxs) → g (s.modCore j f) = g s
  cluster : ∀ s c f, g (s.modCluster c f) = g s
  host : ∀ s f, g (s.modHost f) = g s
  rmWrites : ∀ s, g (s.modCtx k x fun c => { c with mem := { c.mem with rmWrites := true } }) = g s

/-- The context in execution, and a part of a context that the mark of read-mostly writes does not touch. -/
theorem besideAccesses_of {k x : Nat} {β : Type} {part : Ctx → β}
    (hpart : ∀ c, part { c with mem := { c.mem with rmWrites := true } } = part c) : BesideAccesses k x fun s => (s.cur, part (s.ctx k x)) where
  phys _ _ := rfl
  bank s j b f := by rw [State.modBank_ctx]; rfl
  agenda _ _ _ := rfl
  free _ := rfl
  core s j f h := by rw [State.ctx_modCore_keeps h, State.modCore_cur]
  cluster _ _ _ := rfl
  host _ _ := rfl
  rmWrites s := by rw [State.ctx_modCtx, hpart, State.modCtx_cur]

section
variable {β : Type} {g : State → β} {v : β}

theorem reading_ite {a b : State} {c : Prop} {dec : Decidable c} (ha : g a = v) (hb : g b = v) : g (if c then a else b) = v := by
  split
  · exact ha
  · exact hb

theorem reading_ite_snd {α : Type} {a b : α × State} {c : Prop} {dec : Decidable c} (ha : g a.2 = v) (hb : g b.2 = v) :
    g (if c then a else b).2 = v := by
  split
  · exact ha
  · exact hb

end

section
variable {k x : Nat} {β : Type} {g : State → β} {v : β} {s : State}

theorem BesideAccesses.modCore (hg : BesideAccesses k x g) (h : g s = v) {j : Nat} {f : Core → Core}
    (hf : ∀ c, (f c).ctxs = c.ctxs := by exact fun _ => rfl) : g (s.modCore j f) = v := (hg.core s j f hf).trans h

theorem BesideAccesses.modCluster (hg : BesideAccesses k x g) (h : g s = v) {c : Nat} {f : Cluster → Cluster} :
    g (s.modCluster c f) = v := (hg.cluster s c f).trans h

theorem BesideAccesses.modPhys (hg : BesideAccesses k x g) (h : g s = v) {f : Phys → Phys} : g (s.modPhys f) = v := (hg.phys s f).trans h

theorem BesideAccesses.modLine (hg : BesideAccesses k x g) (h : g s = v) {l : Nat} {f : Line → Line} : g (s.modLine l f) = v := hg.modPhys h

theorem BesideAccesses.schedule (hg : BesideAccesses k x g) (h : g s = v) {t : Nat} {i : Instr} : g (s.schedule t i) = v :=
  (hg.agenda s t i).trans h

theorem BesideAccesses.draw1 (hg : BesideAccesses k x g) (h : g s = v) : g s.draw1.2 = v := (hg.free s).trans h

theorem BesideAccesses.arrive (hg : BesideAccesses k x g) (h : g s = v) {l : Nat} {w : PWrite} (hw : w.id = none := by rfl) :
    g (s.homeArrive l w) = v := (hg.homeArrive s l hw).trans h

theorem BesideAccesses.bankAccess (hg : BesideAccesses k x g) (h : g s = v) {pa : Nat} : g (s.bankAccess pa) = v :=
  reading_ite (hg.schedule ((hg.bank ..).trans (hg.draw1 h))) h

variable (hg : BesideAccesses k x g) (h : g s = v)
include hg h

theorem BesideAccesses.translate {sp : Space} {va : Nat} {kind : AccessKind} : g (s.translate sp va kind).2 = v := by
  unfold State.translate
  dsimp only
  split
  · exact reading_ite_snd h h
  · split
    · exact hg.modCluster (hg.modCore (hg.modCluster (hg.draw1 (reading_ite h (hg.arrive h)))))
    · exact h

theorem BesideAccesses.physPiece {sp : Space} {va len : Nat} {kind : AccessKind} : g (s.physPiece sp va len kind).2 = v := by
  refine Eq.trans (congrArg g ?_) (hg.translate h (sp := sp) (va := va) (kind := kind))
  unfold State.physPiece
  split <;> simp only [*]

/-! #### Stores -/

theorem BesideAccesses.sendWcb {c l : Nat} : g (s.sendWcb c l) = v := by
  unfold State.sendWcb
  split
  · exact h
  · exact hg.arrive (hg.modCluster h)

theorem BesideAccesses.combine {c l : Nat} {w : PWrite} : g (s.combine c l w) = v := by
  have hsent : g (if (s.wcbEntry c l).any (fun e => e.key != w.key) then s.sendWcb c l else s) = v := reading_ite (hg.sendWcb h) h
  have hstored : ∀ {s : State} {f : Cluster → Cluster} {p q : Prop} [Decidable p] [Decidable q] {i : Instr} {a : Nat}, g s = v →
      g (if p then (s.modCluster c f).sendWcb c l else if q then (s.modCluster c f).schedule a i else s.modCluster c f) = v :=
    fun h => reading_ite (hg.sendWcb (hg.modCluster h)) (reading_ite (hg.schedule (hg.modCluster h)) (hg.modCluster h))
  refine hstored ?_
  split
  · exact hsent
  · refine reading_ite hsent ?_
    split
    · exact hg.sendWcb hsent
    · exact hsent

theorem BesideAccesses.l1Store {j l : Nat} {key : Option Nat} {bs : List (Nat × Byte)} : g (s.l1Store j l key bs) = v := by
  unfold State.l1Store
  split
  · exact h
  · exact hg.modCore h

/-- A context may note that it has written a read-mostly page (R218). -/
theorem BesideAccesses.noteRm {c : Prop} {dec : Decidable c} :
    g (if c then s.modCtx k x fun c => { c with mem := { c.mem with rmWrites := true } } else s) = v :=
  reading_ite ((hg.rmWrites s).trans h) h

theorem BesideAccesses.storeLine {t l : Nat} {key : Option Nat} {rm : Bool} {bs : List (Nat × Byte)} :
    g (s.storeLine k x t key rm l bs) = v := by
  unfold State.storeLine
  split
  · exact (hg.host ..).trans h
  · exact h
  · exact reading_ite (hg.combine (hg.noteRm (hg.l1Store h))) (hg.arrive (hg.noteRm (hg.l1Store h)))

/-- A write-back passes a line over when none of its bytes has been written (R171). -/
theorem BesideAccesses.storeUnless {t l : Nat} {key : Option Nat} {rm : Bool} {bs : List (Nat × Byte)} {c : Prop} {dec : Decidable c} :
    g (if c then s else s.storeLine k x t key rm l bs) = v := reading_ite h (hg.storeLine h)

/-! #### Loads -/

theorem BesideAccesses.evictReplica {l c : Nat} : g (s.evictReplica l c) = v := by
  unfold State.evictReplica
  exact hg.modPhys h

theorem BesideAccesses.leaseReplica {l c n : Nat} : g (s.leaseReplica l c n) = v := by
  unfold State.leaseReplica
  exact hg.modPhys h

theorem BesideAccesses.replicaRoom {l c : Nat} : ∀ t ∈ s.replicaRoom l c, g t = v := by
  unfold State.replicaRoom
  intro t ht
  dsimp only at ht
  split at ht
  · cases ht; exact h
  · obtain ⟨e, -, rfl⟩ := Option.map_eq_some_iff.1 ht
    exact hg.evictReplica (hg.draw1 h)

theorem BesideAccesses.addReplica {l c : Nat} : ∀ t ∈ s.addReplica l c, g t = v := by
  unfold State.addReplica
  intro t ht
  dsimp only at ht
  split at ht
  · cases ht
  · cases ht; exact hg.modPhys h

theorem BesideAccesses.grant {j l : Nat} {rm : Bool} : g (s.grant j l rm).2 = v := by
  have hhome : ∀ {p : Prop} [Decidable p] {n : Nat} {f : Line → Line}, g (if p then (0, s) else (n, s.modLine l f)).2 = v :=
    reading_ite_snd h (hg.modLine h)
  unfold State.grant
  refine reading_ite_snd ?_ hhome
  split
  · exact reading_ite_snd h (hg.leaseReplica h)
  · refine reading_ite_snd h ?_
    split
    next e =>
      obtain ⟨r, hr, ht⟩ := Option.bind_eq_some_iff.1 e
      exact hg.leaseReplica (hg.addReplica (hg.replicaRoom h r hr) _ ht)
    next => exact hhome

theorem BesideAccesses.servedBy {l : Nat} : g (s.servedBy l).2 = v :=
  reading_ite_snd h (reading_ite_snd (hg.draw1 h) (reading_ite_snd (hg.bankAccess (hg.draw1 h)) (hg.draw1 h)))

theorem BesideAccesses.l1Fill {j l : Nat} {e : L1Line} : g (s.l1Fill j l e) = v := by
  unfold State.l1Fill
  dsimp only
  refine hg.modCore (reading_ite_snd ?_ ?_)
  · exact h
  · exact hg.draw1 h

theorem BesideAccesses.touchLine {j l off n : Nat} {key : Option Nat} {rm : Bool} : g (s.touchLine j l off n key rm none).2 = v := by
  unfold State.touchLine
  split
  · exact h
  · exact h
  · dsimp only
    split
    · exact reading_ite_snd h h
    · exact reading_ite_snd (hg.modCore (hg.grant (hg.servedBy h))) (hg.l1Fill (hg.grant (hg.servedBy h)))

theorem BesideAccesses.loadPiece {p : PPiece} : g (s.loadPiece k x p none).2 = v :=
  hg.noteRm (hg.touchLine h)

theorem BesideAccesses.noHost {got : Got} : g (s.noHost got).2 = v := reading_ite_snd h (hg.draw1 h)

theorem BesideAccesses.loadLatency {w : Served} : g (s.loadLatency w).2 = v := by
  cases w with
  | stash | l1 | expired | host => exact h
  | slice | pillar | deferred => exact hg.draw1 h

theorem BesideAccesses.gotLatency {got : Got} : g (s.gotLatency got).2 = v :=
  (foldl_keeps (f := fun (acc : Nat × State) w => (Nat.max acc.1 (acc.2.loadLatency w).1, (acc.2.loadLatency w).2))
    (fun acc => g acc.2) (fun _ _ => hg.loadLatency rfl) got.served (0, s)).trans h

theorem BesideAccesses.readGranule {e n : Nat} : g (s.readGranule k x e n).2.2 = v := by
  unfold State.readGranule
  generalize List.range 32 = is
  dsimp only
  generalize hr : List.foldl _ _ is = r
  have hread : g r.2.2 = v := by
    rw [← hr]
    refine List.foldlRecOn (motive := fun acc : Got × List Nat × State => g acc.2.2 = v) is _ h fun acc hacc i _ => ?_
    have hpiece := hg.physPiece hacc (sp := acc.2.2.spaceOf k x) (va := (s.ctx k x).granVa e n + 8 * i) (len := 8) (kind := .load)
    split
    next hp => rw [hp] at hpiece; exact hg.loadPiece hpiece
    next hp => rw [hp] at hpiece; exact hpiece
  split <;> exact hg.noHost hread

end

/-! ### The granules of the stash map (R169-R171, R382, R383) -/

section
variable {s : State} {k x : Nat}

theorem besideAccesses_stmap (k x : Nat) : BesideAccesses k x fun s => (s.cur, (s.ctx k x).mem.stmap) :=
  besideAccesses_of (part := fun c => c.mem.stmap) fun _ => rfl

theorem besideAccesses_granules (k x : Nat) : BesideAccesses k x fun s => (s.cur, (s.ctx k x).mem.granules) :=
  besideAccesses_of (part := fun c => c.mem.granules) fun _ => rfl

/-- A write-back leaves the map as it is. -/
theorem State.writeBack_stmap (t key : Nat) :
    ((s.writeBack k x t key).cur, ((s.writeBack k x t key).ctx k x).mem.stmap) = (s.cur, (s.ctx k x).mem.stmap) := by
  have hg := besideAccesses_stmap k x
  unfold State.writeBack
  dsimp only
  split
  · rfl
  · split
    · rfl
    · have hpiece := hg.physPiece (s := s) rfl (sp := s.spaceOf k x) (va := (s.ctx k x).granVa (key / 2048) (key % 2048)) (len := 256)
        (kind := .store)
      split
      next hp => rw [hp] at hpiece; exact hpiece
      next p s1 hp =>
        rw [hp] at hpiece
        rw [State.ctx_modCtx, State.modCtx_cur]
        exact hg.storeUnless (hg.storeUnless hpiece)

/-- An entry that is evicted leaves the map, and the others stay (R169). -/
theorem State.evictEntry_stmap (t e : Nat) :
    ((s.evictEntry k x t e).cur, ((s.evictEntry k x t e).ctx k x).mem.stmap) = (s.cur, tdel (s.ctx k x).mem.stmap e) := by
  unfold State.evictEntry
  dsimp only
  rw [State.ctx_modCtx, State.modCtx_cur]
  have hback := foldl_keeps (f := fun s (n : Nat × GranState) => s.writeBack k x t n.1) (fun s => (s.cur, (s.ctx k x).mem.stmap))
    (fun s n => s.writeBack_stmap t n.1) ((s.ctx k x).mem.granules.filter fun n => n.1 / 2048 == e) s
  rw [Prod.mk.injEq] at hback ⊢
  exact ⟨hback.1, congrArg (tdel · e) hback.2⟩

theorem State.foldl_evictEntry_stmap (t : Nat) (es : List Nat) (s : State) :
    let u := es.foldl (fun s e => s.evictEntry k x t e) s
    (u.cur, (u.ctx k x).mem.stmap) = (s.cur, es.foldl tdel (s.ctx k x).mem.stmap) := by
  induction es generalizing s with
  | nil => rfl
  | cons e es ih =>
    have he := s.evictEntry_stmap (k := k) (x := x) t e
    rw [Prod.mk.injEq] at he
    exact (ih _).trans (by rw [he.1, he.2]; rfl)

theorem tget_foldl_tdel {α : Type} (es : List Nat) (t : Tab α) (j : Nat) :
    tget (es.foldl tdel t) j = if j ∈ es then none else tget t j := by
  induction es generalizing t with
  | nil => simp
  | cons e es ih =>
    rw [List.foldl_cons, ih, tget_tdel]
    by_cases he : j = e <;> by_cases hes : j ∈ es <;> simp [he, hes]

/-- A fill that starts again leaves its granule filling, and the other granules as they are (R383). -/
theorem State.refill_granules (key : Nat) : ∃ due mask,
    ((s.refill k x key).cur, ((s.refill k x key).ctx k x).mem.granules) =
      (s.cur, tset (s.ctx k x).mem.granules key (.filling due mask)) := by
  have hread := (besideAccesses_granules k x).readGranule (s := s) rfl (e := key / 2048) (n := key % 2048)
  unfold State.refill
  generalize s.readGranule k x (key / 2048) (key % 2048) = r at hread ⊢
  have hlat := (besideAccesses_granules k x).gotLatency hread (got := r.1)
  rw [Prod.mk.injEq] at hlat
  dsimp only
  rw [State.schedule_cur, State.ctx_schedule, State.modCtx_cur, State.ctx_modCtx, State.refreshGranule, State.modCtx_cur, State.modCore_cur,
    State.ctx_modCtx, State.ctx_modCore_keeps fun _ => by rfl, hlat.1]
  dsimp only
  rw [hlat.2]
  exact ⟨_, _, rfl⟩

/-- Granules whose pages take what has been written of them are written back without a trap and without a fault. -/
theorem State.backCheck_of_backsUp {keys : List Nat} (h : BacksUp s keys) (t : Nat) : s.backCheck s.cur.1 s.cur.2 t keys = (none, []) := by
  unfold State.backCheck
  dsimp only
  refine List.foldlRecOn (motive := fun acc => acc = (none, [])) _ _ rfl fun acc hacc n hn => ?_
  obtain ⟨hn, hwritten⟩ := List.mem_filter.1 hn
  obtain ⟨gr, hgr, hmask⟩ := (Option.any_eq_true _ _).1 hwritten
  obtain ⟨pa, pte, hprobe⟩ := h n hn gr hgr (by simpa using hmask)
  rw [State.me, State.myCore_eq, State.myCtxNo_eq] at hprobe
  rw [hprobe]
  exact hacc

theorem backsUp_mono {keys sub : List Nat} (h : BacksUp s keys) (hsub : ∀ g ∈ sub, g ∈ keys) : BacksUp s sub := fun g hg => h g (hsub g hg)

/-- The map entries that STMAP takes out: the one it names, and for a new entry those whose windows meet its own (R169, R382). -/
def Ctx.replaced (c : Ctx) (idx : Nat) (clr : Bool) (w1 : Word) : List Nat :=
  (c.mem.stmap.filter fun en => en.1 == idx || (!clr && (mapWindow w1).1 < (mapWindow en.2.2).1 + (mapWindow en.2.2).2 &&
    (mapWindow en.2.2).1 < (mapWindow w1).1 + (mapWindow w1).2)).map (·.1)

theorem Ctx.tget_foldl_replaced (c : Ctx) (idx : Nat) (w1 : Word) : tget ((c.replaced idx true w1).foldl tdel c.mem.stmap) idx = none := by
  rw [tget_foldl_tdel]
  split
  · rfl
  next hnot =>
    cases hget : tget c.mem.stmap idx with
    | none => rfl
    | some v => exact absurd (List.mem_map.2 ⟨_, List.mem_filter.2 ⟨mem_of_tget hget, by simp⟩, rfl⟩) hnot

/-- Entries that are evicted one after another leave the map of the context in execution. -/
theorem State.foldl_evictEntry_me (t : Nat) (es : List Nat) :
    (es.foldl (fun s' e => s'.evictEntry s.cur.1 s.cur.2 t e) s).me.mem.stmap = es.foldl tdel s.me.mem.stmap := by
  obtain ⟨hcur, hmap⟩ := Prod.mk.inj (State.foldl_evictEntry_stmap (k := s.cur.1) (x := s.cur.2) t es s)
  rw [State.me, State.myCore_eq, State.myCtxNo_eq, hcur, hmap]
  rfl

theorem State.refill_me (key : Nat) : ∃ due mask,
    (s.refill s.cur.1 s.cur.2 key).me.mem.granules = tset s.me.mem.granules key (.filling due mask) := by
  obtain ⟨due, mask, h⟩ := s.refill_granules (k := s.cur.1) (x := s.cur.2) key
  obtain ⟨hcur, hgran⟩ := Prod.mk.inj h
  refine ⟨due, mask, ?_⟩
  rw [State.me, State.myCore_eq, State.myCtxNo_eq, hcur, hgran]
  rfl

/-- After fills that start again their granules are filling. -/
theorem State.foldl_refill_filling {keys : List Nat} {key : Nat} (h : key ∈ keys) (s : State) : ∃ due mask,
    tget (keys.foldl (fun s' n => s'.refill s'.cur.1 s'.cur.2 n) s).me.mem.granules key = some (.filling due mask) := by
  refine foldl_establishes (fun n (u : State) => ∃ due mask, tget u.me.mem.granules n = some (.filling due mask)) (fun u n => ?_)
    (fun u n m hn => ?_) h s
  · obtain ⟨due, mask, hset⟩ := u.refill_me n
    exact ⟨due, mask, by rw [hset, tget_tset_self]⟩
  · obtain ⟨due, mask, hset⟩ := u.refill_me m
    rw [hset]
    by_cases hnm : n = m
    · exact ⟨due, mask, by rw [hnm, tget_tset_self]⟩
    · rw [tget_tset_ne _ _ hnm]
      exact hn

/-- They leave every other granule as it is. -/
theorem State.foldl_refill_ne {keys : List Nat} {key : Nat} (h : key ∉ keys) (s : State) :
    tget (keys.foldl (fun s' n => s'.refill s'.cur.1 s'.cur.2 n) s).me.mem.granules key = tget s.me.mem.granules key := by
  refine List.foldlRecOn (motive := fun u : State => tget u.me.mem.granules key = tget s.me.mem.granules key) keys _ rfl fun u hu n hn => ?_
  obtain ⟨due, mask, hset⟩ := u.refill_me n
  have hne : key ≠ n := fun he => h (he ▸ hn)
  rw [hset, tget_tset_ne _ _ hne, hu]

variable {o : Op} {e : Nat × Nat} (htop : s.top o = some e)
include htop

/-- STMAP takes entries out of the map and sets its own, when its word and its entry are legal and G has the pages of all written
granules (R169, R382). -/
theorem stmap_eq {p w0 w1 : Word} {clr : Bool} (hp : s.word o e.1 e.2 o.selA = p) (hclr : p.getLsbD 8 = clr)
    (hlegal : o.legalD 0x0C9 = true) (hext : o.extOk true true false = true) (helems : clr = true ∨ o.elems = 2)
    (hzero : p.extractLsb' 9 23 = 0#23) (hidx : (p.extractLsb' 0 8).toNat < 32)
    (hread : Readable s o ((o.selA, 1) :: if clr then [] else [(o.selB, 2)]))
    (hw0 : (s.run o e.1 e.2 o.selB 2).headD 0 = w0) (hw1 : ((s.run o e.1 e.2 o.selB 2)[1]?).getD 0 = w1)
    (hmap : clr = false → mapTrap s.me w0 w1 = none) (hback : BacksUp s (s.me.mem.granules.map (·.1))) :
    exec (.stmap o) s = .next (
      let s1 := (s.me.replaced (p.extractLsb' 0 8).toNat clr w1).foldl (fun s' en => s'.evictEntry s.cur.1 s.cur.2 e.2 en) s
      if clr then s1 else s1.modMe fun c => { c with mem := { c.mem with stmap := tset c.mem.stmap (p.extractLsb' 0 8).toNat (w0, w1) } }) := by
  have hgood : (o.legalD 0x0C9 && o.extOk true true false && (clr || o.elems == 2) && decide ((p.extractLsb' 0 8).toNat < 32) &&
      p.extractLsb' 9 23 == 0#23) = true := by
    simp only [hlegal, hext, hzero, Bool.or_eq_true, beq_iff_eq, Bool.and_eq_true, helems, decide_eq_true hidx, and_self]
  have hmt : (if (clr || !([] : List (Nat × Trap)).isEmpty) = true then none else mapTrap s.me w0 w1) = none := by
    cases clr with
    | true => rfl
    | false => exact hmap rfl
  have hchecked := fun gone : List Nat => State.backCheck_of_backsUp (backsUp_mono hback
    (sub := (s.me.mem.granules.map (·.1)).filter fun g => gone.contains (g / 2048)) fun g hg => (List.mem_filter.1 hg).1) e.2
  show execStmap o s = _
  rw [execStmap, htop]
  dsimp only [State.myCore_eq, State.myCtxNo_eq]
  rw [hp, hclr, hgood, hread.srcTraps, hw0, hw1, hmt, hchecked]
  rfl

/-- STWB and STINV act on the covered granules when their range lies in S, and for STWB when no granule fills and the pages of G take
what has been written (R383). -/
theorem stashOp_eq {opc : Nat} {back : Bool} {act : List Nat → Nat → State → State} {p : Word} {n : Nat} {gs : List Nat}
    (hp : s.word o e.1 e.2 o.selA = p) (hn : s.scalar o e.1 e.2 o.selB 7 = n) (hgs : s.me.coveredGranules (ptrOff p) n = gs)
    (hseg : ptrSeg p = 2) (hbad : ptrBad p = false) (hlimit : ptrOff p + n ≤ s.me.limit 2) (hlegal : o.legalD opc = true)
    (hext : o.extOk true true false = true) (hread : Readable s o [(o.selA, 1), (o.selB, 1)])
    (hfilling : back = true → ∀ g ∈ gs, (tget s.me.mem.granules g).any GranState.isFilling = false)
    (hback : back = true → BacksUp s gs) : stashOp opc back o act s = act gs e.2 s := by
  have hrange : ¬s.me.limit 2 < ptrOff p + n := Nat.not_lt.2 hlimit
  have hidle : (back && gs.any fun g => (tget s.me.mem.granules g).any GranState.isFilling) = false := by
    cases back with
    | false => rfl
    | true => exact List.any_eq_false.2 fun g hg => by rw [hfilling rfl g hg]; decide
  have hchecked : (if back = true then s.backCheck s.cur.1 s.cur.2 e.2 gs else (none, [])) = (none, []) := by
    cases back with
    | false => rfl
    | true => exact State.backCheck_of_backsUp (hback rfl) e.2
  rw [stashOp, htop]
  dsimp only [State.myCore_eq, State.myCtxNo_eq]
  rw [hp, hn, hgs, hlegal, hext, Bool.and_self, hread.srcTraps, hseg, hbad, if_neg hrange]
  simp only [bne_self_eq_false, Bool.or_self, Bool.false_eq_true, if_false, List.isEmpty_nil, if_true, List.flatMap_nil, List.append_nil,
    Bool.true_and, Bool.and_true, hidle]
  rw [hchecked]
  rfl

end

/-! ### Fences (R336, R337) -/

/-- The MOD byte of a FENCE: its scope, its order and PROM (R290, R336). -/
def fenceMod (scope order : Nat) (prom : Bool) : BitVec 8 := BitVec.ofNat 8 (scope * 16 + order * 2 + if prom then 1 else 0)

theorem fenceMod_fields : ∀ scope < 12, ∀ order < 4, ∀ prom : Bool, ((fenceMod scope order prom).extractLsb' 4 4).toNat = scope ∧
    ((fenceMod scope order prom).extractLsb' 1 3).toNat = order ∧ (fenceMod scope order prom).getLsbD 0 = prom := by
  decide

theorem fenceMod_legal : ∀ scope < 12, ∀ order < 4, ∀ prom : Bool, (prom = true → scope = 7 ∧ order ≠ 1) →
    Lpf.modOk 0x100 0 (fenceMod scope order prom).toNat = true := by
  decide

/-- A change of a thread leaves the fence of the context in execution alone. -/
theorem State.fence_modThread (s : State) (k x t : Nat) (f : Thread → Thread) : (s.modThread k x t f).me.fence = s.me.fence := by
  by_cases h : (s.cur.1, s.cur.2) = (k, x)
  · cases h
    exact (congrArg Ctx.fence (s.me_modMe fun c => c.modThread t f)).trans rfl
  · exact congrArg Ctx.fence (s.ctx_modCtx_ne _ h)

/-- A FENCE wider than its thread holds its context until it is complete (R336, R337). -/
theorem fence_holds {s : State} {o : Op} {e : Nat × Nat} {scope order : Nat} {prom : Bool} (htop : s.top o = some e)
    (hlegal : o.legalV 0x100 0 = true) (hscope : (o.mod.extractLsb' 4 4).toNat = scope) (horder : (o.mod.extractLsb' 1 3).toNat = order)
    (hprom : o.mod.getLsbD 0 = prom) (hwide : scope ≠ 0) :
    Completes (.fence o) s fun t => ∃ lines, t.me.fence = some ⟨scope, order, lines⟩ ∧ (prom = false → lines = []) := by
  refine ⟨_, rfl, ?_⟩
  rw [hlegal, State.illegalUnless_true, runOp_nil, htop]
  dsimp only
  rw [hscope, horder, hprom, if_neg hwide]
  have hforgets := fun (ts : List (Nat × Nat)) => foldl_keeps (fun u : State => u.me.fence)
    (fun u (a : Nat × Nat) => u.fence_modThread s.cur.1 s.cur.2 a.2 fun th => { th with reads := [] }) ts
  refine ⟨_, (hforgets _ _).trans (congrArg Ctx.fence (State.me_modMe _ _)), fun hnone => ?_⟩
  rw [hnone]
  rfl

/-- Settles O14, op by op: the stash ops act once their checks pass, and what a write-back or a fill reads and writes leaves the rest of the
map and its granules alone. -/
theorem stashControlEffects : Obligations.StashControlEffects := by
  unfold Obligations.StashControlEffects
  intro s o e _ htop p n gs all
  refine ⟨fun hlegal hext hread => ?_, fun hlegal hext hread hzero hclr hidx hback => ?_,
    fun w0 w1 hrun hlegal hext hread helems hzero hclr hidx hmap hback => ?_, fun hseg hbad hlimit hext hread => ⟨fun hlegal hfill hback => ?_,
      fun hlegal => ?_⟩, fun scope order prom hscope horder hwide hprom hmod _ => ?_⟩
  · refine ⟨_, rfl, ?_⟩
    rw [hlegal, hext, Bool.and_self, hread.srcTraps]
    rfl
  · refine ⟨_, stmap_eq htop rfl hclr hlegal hext (.inl rfl) hzero hidx hread rfl rfl Bool.noConfusion hback, ?_⟩
    dsimp only
    rw [if_pos rfl, State.foldl_evictEntry_me]
    exact s.me.tget_foldl_replaced ..
  · refine ⟨_, stmap_eq htop rfl hclr hlegal hext (.inr helems) hzero hidx hread rfl rfl (fun _ => ?_) hback, ?_⟩
    · rw [hrun]; exact hmap
    · rw [hrun]
      dsimp only
      rw [if_neg Bool.false_ne_true, State.me_modMe]
      exact tget_tset_self ..
  · exact ⟨_, congrArg Host.Outcome.next
      (stashOp_eq htop rfl rfl rfl hseg hbad hlimit hlegal hext hread (fun _ => hfill) fun _ => hback), rfl⟩
  · refine ⟨_, congrArg Host.Outcome.next
      (stashOp_eq htop rfl rfl rfl hseg hbad hlimit hlegal hext hread Bool.noConfusion Bool.noConfusion),
      fun g hg => ⟨fun hawaited => ?_, fun hawaited => ?_⟩⟩
    · have hnot : g ∉ gs.filter s.me.fillAwaited := fun h => absurd (List.mem_filter.1 h).2 (by simp [hawaited])
      refine (State.foldl_refill_ne hnot _).trans ?_
      rw [State.me_modMe]
      refine (tget_filter_key (fun n => !gs.contains n || (gs.filter s.me.fillAwaited).contains n) _ _).trans (if_neg ?_)
      simp [hg, hawaited]
    · exact State.foldl_refill_filling (List.mem_filter.2 ⟨hg, hawaited⟩) _
  · have hlegal := fenceMod_legal scope hscope order horder prom hprom
    obtain ⟨hs, ho, hp⟩ := fenceMod_fields scope hscope order horder prom
    rw [fenceMod, ← hmod] at hlegal hs ho hp
    exact fence_holds htop hlegal hs ho hp hwide

/-! ### A release that a page refuses (R166, R171, R261) -/

/-- A page of 64 KiB at address 0 that may be read and not written (R179, R180). -/
def readOnlyPage : TlbEntry := ⟨0, 0, 2 ^ 16, word64 (2 ^ 63 + 2 ^ 11)⟩

/-- The firmware slot of core 0 runs one thread, and a written byte of its stash granule 0 belongs in that page. -/
def refused : State :=
  { cur := (0, 4)
    cores := [(0, {
      tlb := [readOnlyPage]
      ctxs := [(4, {
        state := .active
        group := some ⟨[(0, 0)], {}, 0, none, none⟩
        threads := [(0, { place := .group })]
        mem := { stmap := [(0, 0, 0)], granules := [(0, .dirty 1)] } })] })] }

/-- A TICKET on the word at physical address 0. -/
def ticketAtZero : Op := { slot := 7, mod := 64, dest := 3, a := 1 }

theorem ticketAtZero_sound : Sound refused ticketAtZero [(ticketAtZero.selA, 1)] ticketAtZero.dest.toNat 1 :=
  ⟨by decide, by decide +kernel, by decide, fun hlast => absurd hlast (by decide)⟩

theorem ticketAtZero_refSound : ∀ a ∈ refused.active ticketAtZero, RefSound refused (refused.word ticketAtZero a.1 a.2 ticketAtZero.selA) := by
  simp only [RefSound]
  decide +kernel

/-- The page refuses the byte, which is lost. The release is then complete, but the thread that it was made for is parked with a late
ACCESS_VIOLATION and the firmware slot has stopped: ACTIVE is empty. -/
theorem refused_released : (refused.releaseStart 0 4 0 9).releaseReady 0 4 9 = true ∧
    ((refused.releaseStart 0 4 0 9).me.thread 0).trap.map (fun h => (h.trap, h.late)) = some (⟨.accessViolation, 0, 0⟩, true) ∧
    (refused.releaseStart 0 4 0 9).active ticketAtZero = [] := by decide +kernel

/-- The TICKET takes effect after that release, so no lane of its result has a value. -/
theorem ticketAtZero_gives_nothing {t : State} (h : exec (.ticket ticketAtZero) refused = .next t) : ∀ l ∈ t.me.inflight, l.vals = [] := by
  have hall : (match exec (.ticket ticketAtZero) refused with
      | .next t => t.me.inflight.all fun l => l.vals.isEmpty
      | _ => true) = true := by decide +kernel
  rw [h] at hall
  exact fun l hl => List.isEmpty_iff.1 (List.all_eq_true.1 hall l hl)

/-- Refutes O32: a release can park the very thread that issues the TICKET, and its lane's result is then not on its way. -/
theorem not_firmwareOps : ¬ Obligations.FirmwareOps := by
  unfold Obligations.FirmwareOps
  intro h
  obtain ⟨-, -, hticket, -⟩ := h refused ticketAtZero (0, 0) (by decide +kernel) rfl
  obtain ⟨-, hready⟩ := hticket (by decide) (by decide) ticketAtZero_sound ticketAtZero_refSound
  obtain ⟨hreleased, -, -⟩ := refused_released
  obtain ⟨t, hexec, -, -, hone⟩ := hready hreleased
  obtain ⟨⟨l, hl, hvals⟩, -⟩ := hone (by decide +kernel)
  rw [ticketAtZero_gives_nothing hexec l hl] at hvals
  exact absurd hvals List.not_mem_nil

end
end Sys2Proof.Machine
end

section
-- One proof after another, as in the sections before this one.
set_option Elab.async false

namespace Sys2Proof.Machine

/-! ### The matrix side of a core after an update (R185-R201) -/

section
variable (s : State) (k b : Nat)

theorem State.ctx_modMtx (f : Mtx → Mtx) (j x : Nat) : (s.modMtx k f).ctx j x = s.ctx j x :=
  State.ctx_modCore_keeps (f := fun c => { c with mtx := f c.mtx }) (fun _ => rfl) s k j x

theorem State.me_modMtx (f : Mtx → Mtx) : (s.modMtx k f).me = s.me := s.ctx_modMtx k f s.cur.1 s.cur.2

theorem State.mtx_modCtx (j x : Nat) (f : Ctx → Ctx) : (s.modCtx j x f).mtx k = s.mtx k := by
  by_cases h : k = j
  · subst h
    exact s.core_modCtx_keeps (g := Core.mtx) (fun _ _ => rfl) k x f
  · rw [State.mtx, State.modCtx, State.core_modCore_ne _ _ h, State.mtx]

theorem State.mtx_modMe (f : Ctx → Ctx) : (s.modMe f).mtx k = s.mtx k := s.mtx_modCtx k _ _ f

theorem State.mtx_modBank (f : Bank → Bank) : (s.modBank k b f).mtx k = { s.mtx k with banks := tmod (s.mtx k).banks b {} f } :=
  s.mtx_modMtx k _

theorem State.bank_modBank (f : Bank → Bank) : (s.modBank k b f).bank k b = f (s.bank k b) := by
  rw [State.bank, State.mtx_modBank, tgetD_tmod_self, State.bank]

theorem State.bank_modBank_ne (f : Bank → Bank) {j : Nat} (h : j ≠ b) : (s.modBank k b f).bank k j = s.bank k j := by
  rw [State.bank, State.mtx_modBank, tgetD_tmod_ne _ _ _ h, State.bank]

theorem State.bank_schedule (t : Nat) (i : Instr) : (s.schedule t i).bank k b = s.bank k b := rfl

/-- A change of the matrix side that leaves the banks alone leaves each of them alone. -/
theorem State.bank_modMtx {f : Mtx → Mtx} (h : ∀ m, (f m).banks = m.banks) : (s.modMtx k f).bank k b = s.bank k b := by
  rw [State.bank, State.mtx_modMtx, h, State.bank]

end

end Sys2Proof.Machine

namespace Sys2Proof.Claims

section
open Sys2Proof.Machine

/-! ### Only a bank changes (R197) -/

variable {s t : State} {k b : Nat}

theorem OnlyBank.refl (s : State) (k b : Nat) : OnlyBank s s k b := ⟨fun _ _ => rfl, fun _ _ => rfl, rfl⟩

variable (h : OnlyBank s t k b)
include h

theorem OnlyBank.ctx_eq (j x : Nat) : t.ctx j x = s.ctx j x := by
  obtain ⟨-, hctx, -⟩ := h
  exact hctx j x

theorem OnlyBank.schedule (a : Nat) (i : Instr) : OnlyBank s (t.schedule a i) k b := h

theorem OnlyBank.draw1 : OnlyBank s t.draw1.2 k b := h

theorem OnlyBank.modBank (f : Bank → Bank) : OnlyBank s (t.modBank k b f) k b := by
  obtain ⟨hbank, hctx, hphys⟩ := h
  exact ⟨fun j hj => (t.bank_modBank_ne k b f hj).trans (hbank j hj), fun j x => (t.modBank_ctx j x k b f).trans (hctx j x), hphys⟩

theorem OnlyBank.modMtx {f : Mtx → Mtx} (hf : ∀ m, (f m).banks = m.banks) : OnlyBank s (t.modMtx k f) k b := by
  obtain ⟨hbank, hctx, hphys⟩ := h
  exact ⟨fun j hj => (t.bank_modMtx k j hf).trans (hbank j hj), fun j x => (t.ctx_modMtx k f j x).trans (hctx j x), hphys⟩

end

end Sys2Proof.Claims

namespace Sys2Proof.Machine

section
open Sys2Proof.Claims

/-! ### What the operations on a bank do to it (R197, R200) -/

section
variable (s : State) (k b : Nat)

/-- A bank whose activation begins. -/
def Bank.activated (n : Bank) (since row : Nat) (tix : Option Nat) (stk : Bool) : Bank :=
  { n with state := .opening, since := since, row := row, tix := tix, stk := stk, waiting := none, stkWaits := false, closeAt := none,
           consumeEnd := 0 }

theorem State.bank_activate (row : Nat) (tix : Option Nat) (stk : Bool) :
    (s.activate k b row tix stk).bank k b = (s.bank k b).activated s.gtc row tix stk := s.bank_modBank k b _

theorem State.onlyBank_activate (row : Nat) (tix : Option Nat) (stk : Bool) : OnlyBank s (s.activate k b row tix stk) k b :=
  (((OnlyBank.refl s k b).modBank _).schedule _ _).schedule _ _

/-- An activation is to be open after 14 ticks and closed by a refresh 4,000 ticks after it began (R197). -/
theorem State.agenda_activate (row : Nat) (tix : Option Nat) (stk : Bool) :
    (tickTime (s.gtc + 14), Instr.rowOpen k b) ∈ (s.activate k b row tix stk).agenda ∧
      (tickTime (s.gtc + 4000), Instr.refreshClose k b) ∈ (s.activate k b row tix stk).agenda := by
  simp [State.activate, mem_insertBy]

theorem State.bank_busyBank : (s.busyBank k b).bank k b = { s.bank k b with state := .busy } := s.draw1.2.bank_modBank k b _

theorem State.onlyBank_busyBank : OnlyBank s (s.busyBank k b) k b := ((OnlyBank.refl s k b).draw1.modBank _).schedule _ _

/-- An access or a refresh ends within 60 ticks (R197). -/
theorem State.agenda_busyBank :
    ∃ at_, s.now < at_ ∧ at_ ≤ s.now + tickTime 60 ∧ (at_, Instr.bankAccessComplete k b) ∈ (s.busyBank k b).agenda := by
  refine ⟨s.now + tickTime (1 + s.draw1.1 % 60), ?_, ?_, (s.draw1.2.modBank k b _).mem_schedule _ _ _ |>.2 (.inl rfl)⟩ <;>
    simp only [tickTime, tickLen] <;> omega

end

/-! #### Accesses that a bank has deferred -/

/-- A lookup after a change of every entry of a list that the default value does not feel. -/
theorem tgetD_map {α : Type} {f : α → α} {d : α} (hd : f d = d) (t : Tab α) (k : Nat) :
    tgetD (t.map fun e => (e.1, f e.2)) k d = f (tgetD t k d) := by
  rw [tgetD, tget_map_key fun _ => f, tgetD]
  cases tget t k with
  | none => exact hd.symm
  | some v => rfl

/-- A context, and a core, in which the results that awaited an access have it. -/
def Ctx.answered (c : Ctx) (id at_ : Nat) : Ctx := { c with inflight := c.inflight.map fun l => l.answer id at_ }
def Core.answered (c : Core) (id at_ : Nat) : Core := { c with ctxs := c.ctxs.map fun e => (e.1, e.2.answered id at_) }

theorem Landing.awaits_answer (l : Landing) (id at_ : Nat) : ∀ n ∈ (l.answer id at_).awaits, n ≠ id ∧ n ∈ l.awaits := by
  intro n hn
  unfold Landing.answer at hn
  split at hn
  next =>
    obtain ⟨hmem, hne⟩ := List.mem_filter.1 hn
    exact ⟨bne_iff_ne.1 hne, hmem⟩
  next hnot => exact ⟨fun h => hnot (List.contains_iff_mem.2 (h ▸ hn)), hn⟩

section
variable (s : State) (id at_ k x : Nat)

theorem State.core_answered : (s.answered id at_).core k = (s.core k).answered id at_ :=
  tgetD_map (f := fun c : Core => c.answered id at_) rfl s.cores k

theorem State.ctx_answered : (s.answered id at_).ctx k x = (s.ctx k x).answered id at_ := by
  rw [State.ctx, State.core_answered]
  exact tgetD_map (f := fun c : Ctx => c.answered id at_) rfl (s.core k).ctxs x

theorem State.mtx_answered : (s.answered id at_).mtx k = s.mtx k := by
  rw [State.mtx, State.core_answered]
  rfl

end

/-- No result of any context awaits an access. -/
def State.Unawaited (s : State) (id : Nat) : Prop := ∀ j x, ∀ l ∈ (s.ctx j x).inflight, id ∉ l.awaits

theorem State.unawaited_answered (s : State) (id at_ : Nat) : (s.answered id at_).Unawaited id := by
  intro j x l hl hid
  rw [State.ctx_answered] at hl
  obtain ⟨m, -, rfl⟩ := List.mem_map.1 hl
  exact (m.awaits_answer id at_ id hid).1 rfl

theorem State.Unawaited.answered {s : State} {n : Nat} (h : s.Unawaited n) (id at_ : Nat) : (s.answered id at_).Unawaited n := by
  intro j x l hl hn
  rw [State.ctx_answered] at hl
  obtain ⟨m, hm, rfl⟩ := List.mem_map.1 hl
  exact h j x m hm (m.awaits_answer id at_ n hn).2

/-- The reads that a bank has deferred come one after another, each after the latency of a pillar (R131). -/
def State.answerAll (s : State) (ids : List Nat) : State :=
  ids.foldl (fun s id => s.draw1.2.answered id (s.draw1.2.after (280 + s.draw1.1 % 81))) s

theorem State.serveDeferred_eq (s : State) (k b : Nat) : s.serveDeferred k b =
    ((((s.modPhys fun p => p.flush fun a => a / 2 ^ 30 == k && a % 2 ^ 30 / 2 ^ 23 == b).modBank k b fun e => { e with deferred := [] }).answerAll
      (s.bank k b).deferred).busyBank k b) := rfl

theorem State.answerAll_keeps {β : Type} (g : State → β) (hanswer : ∀ s id at_, g (s.answered id at_) = g s)
    (hdraw : ∀ s, g s.draw1.2 = g s) (s : State) (ids : List Nat) : g (s.answerAll ids) = g s :=
  foldl_keeps g (fun s _ => (hanswer ..).trans (hdraw s)) ids s

section
variable (s : State) (k b : Nat)

theorem State.bank_answerAll (ids : List Nat) : (s.answerAll ids).bank k b = s.bank k b :=
  s.answerAll_keeps (fun u => u.bank k b) (fun u id at_ => congrArg (fun m : Mtx => tgetD m.banks b {}) (u.mtx_answered id at_ k))
    (fun _ => rfl) ids

/-- The bank is busy with what it deferred and defers nothing more. -/
theorem State.bank_serveDeferred : (s.serveDeferred k b).bank k b = { s.bank k b with deferred := [], state := .busy } := by
  rw [State.serveDeferred_eq, State.bank_busyBank, State.bank_answerAll, State.bank_modBank]
  rfl

theorem State.phys_serveDeferred :
    (s.serveDeferred k b).phys = s.phys.flush (fun a => a / 2 ^ 30 == k && a % 2 ^ 30 / 2 ^ 23 == b) :=
  State.answerAll_keeps State.phys (fun _ _ _ => rfl) (fun _ => rfl) _ _

theorem State.agenda_serveDeferred : ∃ at_, s.now < at_ ∧ (at_, Instr.bankAccessComplete k b) ∈ (s.serveDeferred k b).agenda := by
  rw [State.serveDeferred_eq]
  generalize hu : State.answerAll _ _ = u
  have hnow : u.now = s.now := hu ▸ State.answerAll_keeps State.now (fun _ _ _ => rfl) (fun _ => rfl) _ _
  obtain ⟨at_, hlt, -, hmem⟩ := u.agenda_busyBank k b
  exact ⟨at_, hnow ▸ hlt, hmem⟩

/-- The reads that the bank deferred have come. -/
theorem State.unawaited_serveDeferred : ∀ id ∈ (s.bank k b).deferred, (s.serveDeferred k b).Unawaited id := by
  intro id hid j x
  rw [State.serveDeferred_eq, (State.onlyBank_busyBank _ k b).ctx_eq]
  exact foldl_establishes (fun id (u : State) => u.Unawaited id) (fun u n => State.unawaited_answered _ _ _)
    (fun u n m h => State.Unawaited.answered (s := u.draw1.2) h _ _) hid _ j x

end

/-! #### What follows when a bank has nothing open -/

section
variable {s : State} {k b : Nat}

theorem State.settleBank_of_waiting {tix : Nat} {t : Ticket} (hw : (s.bank k b).waiting = some tix) (ht : tget (s.mtx k).tickets tix = some t) :
    s.settleBank k b = s.activate k b t.row (some tix) false := by
  simp only [State.settleBank, hw, ht]

theorem State.settleBank_of_lost {tix : Nat} (hw : (s.bank k b).waiting = some tix) (ht : tget (s.mtx k).tickets tix = none) :
    s.settleBank k b = s.modBank k b fun e => { e with state := .idle, waiting := none } := by
  simp only [State.settleBank, hw, ht]

theorem State.settleBank_of_stkWaits (hw : (s.bank k b).waiting = none) (hstk : (s.bank k b).stkWaits = true) :
    s.settleBank k b = s.activate k b 0 none true := by
  simp only [State.settleBank, hw, hstk, if_true]

/-- A bank that nothing waits for is IDLE. -/
def State.rested (s : State) (k b : Nat) : State := s.modBank k b fun e => { e with state := .idle, tix := none, stk := false, closeAt := none }

theorem State.settleBank_of_free (hw : (s.bank k b).waiting = none) (hstk : (s.bank k b).stkWaits = false) :
    s.settleBank k b = if (s.bank k b).deferred = [] then s.rested k b else (s.rested k b).serveDeferred k b := by
  simp only [State.settleBank, hw, hstk, Bool.false_eq_true, if_false, State.rested, List.isEmpty_iff]

variable (s k b)

theorem settleBank_settles : Settles s (s.settleBank k b) k b := by
  refine ⟨fun tix t hw ht => ?_, fun hw hstk => ?_, fun hw hstk hnone => ?_, fun hw hstk hsome => ?_⟩
  · rw [State.settleBank_of_waiting hw ht, State.bank_activate]
    exact ⟨rfl, rfl, rfl, rfl, (s.agenda_activate k b _ _ _).1⟩
  · rw [State.settleBank_of_stkWaits hw hstk, State.bank_activate]
    exact ⟨rfl, rfl⟩
  · rw [State.settleBank_of_free hw hstk, if_pos hnone, State.rested, State.bank_modBank]
  · rw [State.settleBank_of_free hw hstk, if_neg hsome, State.bank_serveDeferred]

theorem settleBank_onlyBank (hnone : (s.bank k b).deferred = []) : OnlyBank s (s.settleBank k b) k b := by
  cases hw : (s.bank k b).waiting with
  | some tix =>
    cases ht : tget (s.mtx k).tickets tix with
    | some t => exact State.settleBank_of_waiting hw ht ▸ s.onlyBank_activate k b _ _ _
    | none => exact State.settleBank_of_lost hw ht ▸ (OnlyBank.refl s k b).modBank _
  | none =>
    cases hstk : (s.bank k b).stkWaits with
    | true => exact State.settleBank_of_stkWaits hw hstk ▸ s.onlyBank_activate k b _ _ _
    | false =>
      rw [State.settleBank_of_free hw hstk, if_pos hnone]
      exact (OnlyBank.refl s k b).modBank _

end

/-! ### The events of a bank (R197, R200) -/

section
variable (s : State) (k b : Nat)

theorem State.bank_stkReady (j : Nat) : (s.stkReady k).bank k j = s.bank k j := by
  unfold State.stkReady
  split
  next stk r _ =>
    split
    · dsimp only
      rw [State.bank_schedule, State.bank, State.mtx_modMtx, State.mtx, State.core_modCore]
      rfl
    · rfl
  next => rfl

theorem bankAccessComplete_eq : exec (.bankAccessComplete k b) s =
    .next (if (s.bank k b).state = .busy then s.settleBank k b else s) := by
  show execBankAccessComplete k b s = _
  simp only [execBankAccessComplete, beq_iff_eq]
  split <;> rfl

theorem rowOpen_eq : exec (.rowOpen k b) s =
    .next (if (s.bank k b).state = .opening ∧ (s.bank k b).since + 14 ≤ s.gtc then
      (s.modBank k b fun e => { e with state := .opened }).stkReady k else s) := by
  show execRowOpen k b s = _
  simp only [execRowOpen, Bool.and_eq_true, beq_iff_eq, decide_eq_true_eq]
  split <;> rfl

/-- The ticket that holds the row of a bank dies. -/
def State.ticketLost (s : State) (k b : Nat) : State :=
  match (s.bank k b).tix with
  | some t => s.modMtx k fun m => { m with tickets := tdel m.tickets t }
  | none => s

/-- A row is to close at a time. -/
def State.closesAt (s : State) (k b at_ : Nat) : State :=
  (s.modBank k b fun e => { e with closeAt := some at_, tix := none }).schedule at_ (.rowClose k b)

theorem refreshClose_eq : exec (.refreshClose k b) s =
    .next (if (s.bank k b).state = .opened ∧ (s.bank k b).closeAt = none ∧ (s.bank k b).since + 4000 ≤ s.gtc then
      (s.ticketLost k b).closesAt k b (Nat.max s.now (s.bank k b).consumeEnd) else s) := by
  show execRefreshClose k b s = _
  simp only [execRefreshClose, Bool.and_eq_true, beq_iff_eq, decide_eq_true_eq, Option.isNone_iff_eq_none, and_assoc]
  split <;> rfl

theorem prechargeEnd_eq : exec (.prechargeEnd k b) s =
    .next (if (s.bank k b).state = .precharge then
      if s.deferredIn k b = true ∨ (s.bank k b).deferred ≠ [] then s.serveDeferred k b else s.settleBank k b else s) := by
  show execPrechargeEnd k b s = _
  simp only [execPrechargeEnd, beq_iff_eq, Bool.or_eq_true, Bool.not_eq_true', List.isEmpty_eq_false_iff]
  split
  · split <;> rfl
  · rfl

/-- A pending close takes place, and tRP begins. -/
def State.precharges (s : State) (k b : Nat) : State :=
  (s.modBank k b fun e => { e with
    state := .precharge, closeAt := none, tix := none, stk := false, stkWaits := e.stkWaits || e.stk }).schedule
    (s.now + tickTime 14) (.prechargeEnd k b)

theorem rowClose_eq {c : Nat} (hclose : (s.bank k b).closeAt = some c) (hdue : c ≤ s.now) :
    exec (.rowClose k b) s = .next (s.precharges k b) := by
  show execRowClose k b s = _
  simp only [execRowClose, hclose, hdue, if_true, State.precharges]

theorem bankRefresh_absent (h : s.presentPillar k = false ∨ 128 ≤ b ∨ s.bankRegion k b (s.spareOf k) = .hole) :
    exec (.bankRefresh k b) s = .fault .absentUnit := by
  refine if_pos ?_
  simpa [or_assoc] using h

theorem bankRefresh_present (hp : s.presentPillar k = true) (hb : b < 128) (hr : s.bankRegion k b (s.spareOf k) ≠ .hole) :
    exec (.bankRefresh k b) s = .next (if (s.bank k b).state = .idle then s.busyBank k b else s) := by
  refine (if_neg ?_).trans ?_
  · simpa [hp, hr] using hb
  · simp only [beq_iff_eq]
    split <;> rfl

end

/-! ### The life of a bank slot (R197, R200) -/

section
variable (s : State) (k b : Nat)

theorem State.bank_closesAt (at_ : Nat) : (s.closesAt k b at_).bank k b = { s.bank k b with closeAt := some at_, tix := none } :=
  s.bank_modBank k b _

theorem State.onlyBank_ticketLost : OnlyBank s (s.ticketLost k b) k b := by
  unfold State.ticketLost
  split
  · exact (OnlyBank.refl s k b).modMtx fun _ => rfl
  · exact OnlyBank.refl s k b

theorem State.tickets_closesAt (at_ : Nat) : ((s.closesAt k b at_).mtx k).tickets = (s.mtx k).tickets :=
  (congrArg Mtx.tickets (s.mtx_modBank k b _)).trans rfl

theorem State.tickets_ticketLost {tix : Nat} (h : (s.bank k b).tix = some tix) : tget ((s.ticketLost k b).mtx k).tickets tix = none := by
  simp only [State.ticketLost, h]
  rw [State.mtx_modMtx, tget_tdel, if_pos rfl]

/-- A refresh closes an open row when the consume in progress has ended, and its ticket is dead at once. -/
theorem refreshClose_completes (hopen : (s.bank k b).state = .opened) (hclose : (s.bank k b).closeAt = none)
    (hdue : (s.bank k b).since + 4000 ≤ s.gtc) : Completes (.refreshClose k b) s fun t => OnlyBank s t k b ∧
      (t.bank k b).closeAt = some (Nat.max s.now (s.bank k b).consumeEnd) ∧
      (∀ tix, (s.bank k b).tix = some tix → tget (t.mtx k).tickets tix = none) ∧
      (Nat.max s.now (s.bank k b).consumeEnd, Instr.rowClose k b) ∈ t.agenda := by
  refine ⟨_, (refreshClose_eq s k b).trans (congrArg _ (if_pos ⟨hopen, hclose, hdue⟩)), ?_, ?_, fun tix htix => ?_, ?_⟩
  · exact ((s.onlyBank_ticketLost k b).modBank _).schedule _ _
  · rw [State.bank_closesAt]
  · rw [State.tickets_closesAt, s.tickets_ticketLost k b htix]
  · exact (State.mem_schedule _ _ _ _).2 (.inl rfl)

end

/-- The life of a bank slot, event by event. -/
theorem bankEvents : BankEvents := by
  unfold BankEvents
  intro s k b n
  refine ⟨fun hbusy => ?_, fun hnot => ?_, fun hopening hdue => ?_, fun hnot => ?_, refreshClose_completes s k b, fun hnot => ?_,
    fun c hclose hdue => ?_, fun hpre hnone hempty => ?_, fun hpre hsome => ?_, fun hnot => ?_, fun hp hb hr => ⟨fun hidle => ?_, fun hnot => ?_⟩,
    bankRefresh_absent s k b⟩
  · exact ⟨_, (bankAccessComplete_eq s k b).trans (congrArg _ (if_pos hbusy)), settleBank_settles s k b, settleBank_onlyBank s k b⟩
  · exact ⟨_, (bankAccessComplete_eq s k b).trans (congrArg _ (if_neg hnot)), rfl⟩
  · refine ⟨_, (rowOpen_eq s k b).trans (congrArg _ (if_pos ⟨hopening, hdue⟩)), ?_, fun j hj => ?_⟩
    · rw [State.bank_stkReady, State.bank_modBank]
    · rw [State.bank_stkReady, State.bank_modBank_ne _ _ _ _ hj]
  · exact ⟨_, (rowOpen_eq s k b).trans (congrArg _ (if_neg fun ⟨ho, hd⟩ => hnot.elim (fun h => h ho) fun h => hd.not_gt h)), rfl⟩
  · refine ⟨_, (refreshClose_eq s k b).trans (congrArg _ (if_neg ?_)), rfl⟩
    rintro ⟨ho, hc, hd⟩
    exact hnot.elim (fun h => h ho) fun h => h.elim (fun h => h hc) fun h => hd.not_gt h
  · refine ⟨_, rowClose_eq s k b hclose hdue, ((OnlyBank.refl s k b).modBank _).schedule _ _, ?_⟩
    rw [State.precharges, State.bank_schedule, State.bank_modBank]
    exact ⟨rfl, rfl, rfl, rfl, (State.mem_schedule _ _ _ _).2 (.inl rfl)⟩
  · have hserve : ¬(s.deferredIn k b = true ∨ (s.bank k b).deferred ≠ []) := by simp [hnone, show (s.bank k b).deferred = [] from hempty]
    exact ⟨_, (prechargeEnd_eq s k b).trans (congrArg _ ((if_pos hpre).trans (if_neg hserve))), settleBank_settles s k b,
      settleBank_onlyBank s k b hempty⟩
  · refine ⟨_, (prechargeEnd_eq s k b).trans (congrArg _ ((if_pos hpre).trans (if_pos hsome))), ?_, ?_, s.phys_serveDeferred k b,
      s.agenda_serveDeferred k b, fun j x l hl id hid => s.unawaited_serveDeferred k b id hid j x l hl⟩ <;> rw [State.bank_serveDeferred]
  · exact ⟨_, (prechargeEnd_eq s k b).trans (congrArg _ (if_neg hnot)), rfl⟩
  · refine ⟨_, (bankRefresh_present s k b hp hb hr).trans (congrArg _ (if_pos hidle)), s.onlyBank_busyBank k b, ?_, s.agenda_busyBank k b⟩
    rw [State.bank_busyBank]
  · exact ⟨_, (bankRefresh_present s k b hp hb hr).trans (congrArg _ (if_neg hnot)), rfl⟩

/-! ### Slots, tiles and claims (R186-R189) -/

theorem tget_foldl_tset {α : Type} (v : α) (ks : List Nat) (t : Tab α) (j : Nat) :
    tget (ks.foldl (fun t n => tset t n v) t) j = if j ∈ ks then some v else tget t j := by
  induction ks generalizing t with
  | nil => simp
  | cons n ks ih =>
    rw [List.foldl_cons, ih]
    by_cases hj : j = n
    · simp [hj]
    · simp [hj, tget_tset_ne _ _ hj]

section
variable (s : State) (k : Nat)

/-- A claim takes its set. -/
def Mtx.granted (m : Mtx) (c : OsClaim) (r : List OsClaim) : Mtx :=
  { m with
    osClaims := r
    slotOwner := c.set.slots.foldl (fun t n => tset t n c.ctx) m.slotOwner
    tileOwner := c.set.tiles.foldl (fun t n => tset t n c.ctx) m.tileOwner }

variable {s k} in
theorem osclaimGrant_eq {c : OsClaim} {r : List OsClaim} (h : (s.mtx k).osClaims = c :: r) : exec (.osclaimGrant k) s =
    .next (if freeFor (s.mtx k) c = true then s.modMtx k fun m => m.granted c r else s) := by
  show execOsclaimGrant k s = _
  rw [execOsclaimGrant]
  simp only [h]
  split
  next hfree => exact congrArg _ (if_pos hfree).symm
  next hfree => exact congrArg _ (if_neg hfree).symm

/-! ### The end of a STKCPY (R213, R385) -/

/-- A reading of states that no operation on the matrix side of a core changes. -/
structure BesideMtx {β : Type} (g : State → β) : Prop where
  mtx : ∀ s k f, g (s.modMtx k f) = g s
  agenda : ∀ s t i, g (s.schedule t i) = g s

section
variable {β : Type} {g : State → β} (hg : BesideMtx g)
include hg

theorem BesideMtx.activate (s : State) (k b row : Nat) (tix : Option Nat) (stk : Bool) : g (s.activate k b row tix stk) = g s :=
  (hg.agenda ..).trans ((hg.agenda ..).trans (hg.mtx ..))

theorem BesideMtx.closeRow (s : State) (k b : Nat) : g (s.closeRow k b) = g s := by
  unfold State.closeRow
  dsimp only
  split
  · exact (hg.agenda ..).trans (hg.mtx ..)
  · rfl

theorem BesideMtx.stkBegin (s : State) (k : Nat) : g (s.stkBegin k) = g s := by
  unfold State.stkBegin
  split
  · refine foldl_keeps g (fun s b => ?_) _ _
    dsimp only
    split
    · rfl
    · split
      · exact hg.activate ..
      · exact hg.mtx ..
  · rfl

/-- The banks of a copy that has ended close, or stop waiting for it. -/
def State.stkLeaves (s : State) (k : Nat) (banks : List Nat) : State :=
  banks.foldl (fun s b =>
    if (s.bank k b).stk then (s.modBank k b fun n => { n with stk := false, stkWaits := false }).closeRow k b
    else s.modBank k b fun n => { n with stkWaits := false }) s

theorem BesideMtx.stkLeaves (s : State) (k : Nat) (banks : List Nat) : g (s.stkLeaves k banks) = g s := by
  refine foldl_keeps g (fun s b => ?_) _ _
  split
  · exact (hg.closeRow ..).trans (hg.mtx ..)
  · exact hg.mtx ..

end

theorem besideMtx_phys : BesideMtx State.phys := ⟨fun _ _ _ => rfl, fun _ _ _ => rfl⟩

theorem besideMtx_ctx (x : Nat) : BesideMtx fun s => s.ctx k x := ⟨fun s j f => s.ctx_modMtx j f k x, fun _ _ _ => rfl⟩

theorem State.core_modMtx_keeps {β : Type} {g : Core → β} (hg : ∀ c m, g { c with mtx := m } = g c) (s : State) (k j : Nat) (f : Mtx → Mtx) :
    g ((s.modMtx k f).core j) = g (s.core j) := by
  by_cases h : j = k
  · subst h
    rw [State.modMtx, State.core_modCore, hg]
  · rw [State.modMtx, State.core_modCore_ne _ _ h]

theorem besideMtx_eng : BesideMtx fun s => (s.core k).eng :=
  ⟨fun s j f => s.core_modMtx_keeps (g := Core.eng) (fun _ _ => rfl) j k f, fun _ _ _ => rfl⟩

theorem State.ctx_dropLines (ls : List Nat) (x : Nat) : (s.dropLines ls).ctx k x = s.ctx k x :=
  (congrArg (fun c : Core => c.ctx x)
    (tgetD_map (f := fun c : Core => { c with l1 := c.l1.filter fun e => !ls.contains e.1 }) rfl s.cores k)).trans rfl

theorem State.ctx_putPillar (key : Nat) (bs : List (Nat × Byte)) (x : Nat) : (s.putPillar key bs).ctx k x = s.ctx k x := by
  refine (State.ctx_dropLines _ k _ x).trans (foldl_keeps (fun u : State => u.ctx k x) (fun u l => ?_) _ _)
  rfl

/-- A STKCPY moves bytes and leaves every context alone. -/
theorem ctx_stkCopy (j x skey dkey src dst f left : Nat) (s : State) : (stkCopy j skey dkey src dst f left s).2.ctx k x = s.ctx k x := by
  induction f generalizing src dst left s with
  | zero => rfl
  | succ f ih =>
    unfold stkCopy
    split
    · rfl
    · dsimp only
      split
      · rfl
      · exact (ih ..).trans (State.ctx_putPillar ..)

end

section
variable {s : State} {k : Nat} {j : StkJob} {r : List StkJob} (hstk : (s.core k).eng.stk = j :: r)
include hstk

theorem stkcpyComplete_of_running (h : ∀ at_, j.ends = some at_ → s.now < at_) : exec (.stkcpyComplete k) s = .next s := by
  have hnot : (j.ends.any fun t => t ≤ s.now) = false := by
    rw [Option.any_eq_false]
    exact fun at_ hat => by simpa using h at_ hat
  show execStkcpyComplete k s = _
  simp only [execStkcpyComplete, hstk, hnot, Bool.not_false, if_true]

/-- A copy that has ended, after its bytes have moved to give state u: its banks close and the next copy begins. -/
def State.stkEnds (u : State) (k : Nat) (j : StkJob) (r : List StkJob) : State :=
  ((u.stkLeaves k j.banks).modCore k fun c => { c with eng := { c.eng with stk := r } }).stkBegin k

theorem stkcpyComplete_eq {u : State} {at_ : Nat} (hends : j.ends = some at_) (hdue : at_ ≤ s.now)
    (hcopy : stkCopy k (s.keyOf j.skey) (s.keyOf j.dkey) j.src j.dst (j.len / 8 + 1) j.len s = (none, u)) :
    exec (.stkcpyComplete k) s = .next ((u.stkEnds k j r).modCtx k 4 fun c =>
      (c.modChan j.chan (·.endOp j.id true)).pushEvent (eventWord 4 j.chan 0 j.id)) := by
  have hany : (j.ends.any fun t => t ≤ s.now) = true := by simpa [hends] using hdue
  show execStkcpyComplete k s = _
  simp only [execStkcpyComplete, hstk, hany, hcopy, Bool.not_true, Bool.false_eq_true, if_false]
  rfl

end

theorem Ctx.chan_pushEvent (c : Ctx) (w : Word) (n : Nat) : (c.pushEvent w).chan n = c.chan n := by
  unfold Ctx.pushEvent
  split <;> rfl

theorem Ctx.chan_modChan (c : Ctx) (n : Nat) (f : Chan → Chan) : (c.modChan n f).chan n = f (c.chan n) := tgetD_tmod_self ..

section
variable (u : State) (k : Nat) (j : StkJob) (r : List StkJob)

theorem State.phys_stkEnds : (u.stkEnds k j r).phys = u.phys :=
  (besideMtx_phys.stkBegin ..).trans (besideMtx_phys.stkLeaves ..)

theorem State.stk_stkEnds : ((u.stkEnds k j r).core k).eng.stk = r := by
  refine (congrArg Eng.stk ((besideMtx_eng k).stkBegin ..)).trans ?_
  rw [State.core_modCore]

theorem State.ctx_stkEnds (x : Nat) : (u.stkEnds k j r).ctx k x = u.ctx k x :=
  ((besideMtx_ctx k x).stkBegin ..).trans
    ((State.ctx_modCore_keeps (f := fun c => { c with eng := { c.eng with stk := r } }) (fun _ => rfl) _ k k x).trans
      ((besideMtx_ctx k x).stkLeaves ..))

end

/-- The ends of matrix work, event by event. -/
theorem matrixEvents : MatrixEvents := by
  unfold MatrixEvents
  intro s k m
  refine ⟨⟨_, rfl, fun w => ?_⟩, ⟨_, rfl, fun e => ?_, fun e => ?_, ?_⟩, fun c r hclaims hfree => ?_, fun c r hclaims hheld => ?_,
    fun j r hstk => ⟨fun hrun => ⟨_, stkcpyComplete_of_running hstk hrun, rfl⟩, ?_⟩⟩
  · rw [State.mtx_modMtx]
    simp [List.mem_filter, m]
  · rw [State.mtx_modMtx]
    simp [List.mem_filter, m]
  · rw [State.mtx_modMtx]
    simp [List.mem_filter, m]
  · rw [State.mtx_modMtx]
  · refine ⟨_, (osclaimGrant_eq hclaims).trans (congrArg _ (if_pos hfree)), ?_⟩
    simp only [State.mtx_modMtx, Mtx.granted, tget_foldl_tset]
    exact ⟨trivial, fun i hi => if_pos hi, fun i hi => if_pos hi, fun i hi => if_neg hi, rfl⟩
  · exact ⟨_, (osclaimGrant_eq hclaims).trans (congrArg _ (if_neg (by simp [hheld, m]))), rfl⟩
  · intro at_ hends hdue c hgood
    have hcopy : stkCopy k (s.keyOf j.skey) (s.keyOf j.dkey) j.src j.dst (j.len / 8 + 1) j.len s = (none, c.2) := Prod.ext hgood rfl
    refine ⟨_, stkcpyComplete_eq hstk hends hdue hcopy, State.phys_stkEnds .., ?_, ?_⟩
    · rw [State.core_modCtx]
      exact State.stk_stkEnds ..
    · rw [State.ctx_modCtx, Ctx.chan_pushEvent, Ctx.chan_modChan, State.ctx_stkEnds, ctx_stkCopy]

/-- Settles O50: what an operation on a bank does is said once (`State.bank_activate`, `State.serveDeferred_eq`, `settleBank_settles`), and
an operation on banks changes nothing but banks and the agenda (`OnlyBank`, `BesideMtx`). -/
theorem banksAndMatrix : Obligations.BanksAndMatrix := by
  unfold Obligations.BanksAndMatrix
  exact ⟨bankEvents, matrixEvents⟩

end
end Sys2Proof.Machine
end

section
-- One proof after another, as in the sections before this one.
set_option Elab.async false

namespace Sys2Proof.Machine

section
open Sys2Proof.Claims

/-! ### The set word of OSCLAIM and OSREL (R360) -/

/-- The fields of a set word are the set that it names, and no other bit of it is set. -/
theorem setWord_fields {first n tiles : Nat} (hfirst : first < 32) (hn : n ≤ 32) (htiles : tiles < 16) :
    osSetOf (setWord first n tiles) = claimed first n tiles ∧ osWordOk (setWord first n tiles) = true := by
  have hcount : setWord first n tiles / 2 ^ 8 % 64 = n := by unfold setWord; omega
  have hlow : setWord first n tiles % 32 = first := by unfold setWord; omega
  have hmask : setWord first n tiles / 2 ^ 16 % 16 = tiles := by unfold setWord; omega
  refine ⟨by rw [osSetOf, hcount, hlow, hmask, claimed], ?_⟩
  simp only [osWordOk, hcount, Bool.and_eq_true, decide_eq_true_eq, beq_iff_eq]
  unfold setWord
  omega

theorem OsSet.mem_sorted_slots (a : OsSet) (i : Nat) : i ∈ a.sorted.slots ↔ i ∈ a.slots := (mem_sortBy ..).trans (mem_nodup ..)

theorem OsSet.mem_sorted_tiles (a : OsSet) (i : Nat) : i ∈ a.sorted.tiles ↔ i ∈ a.tiles := (mem_sortBy ..).trans (mem_nodup ..)

theorem OsSet.sorted_ne_noSet {a : OsSet} (h : a ≠ noSet) : a.sorted ≠ noSet := by
  intro hsorted
  refine h ?_
  have hslots : a.slots = [] := List.eq_nil_iff_forall_not_mem.2 fun i hi => by
    have := (a.mem_sorted_slots i).2 hi
    rw [hsorted] at this
    exact List.not_mem_nil this
  have htiles : a.tiles = [] := List.eq_nil_iff_forall_not_mem.2 fun i hi => by
    have := (a.mem_sorted_tiles i).2 hi
    rw [hsorted] at this
    exact List.not_mem_nil this
  cases a
  cases hslots
  cases htiles
  rfl

theorem setExists_sorted {k : Nat} {a : OsSet} (hslots : ∀ i ∈ a.slots, i < slotCount k) (htiles : ∀ i ∈ a.tiles, i < tileCount k) :
    setExists k a.sorted = true := by
  simp only [setExists, Bool.and_eq_true, List.all_eq_true, OsSet.mem_sorted_slots, OsSet.mem_sorted_tiles, decide_eq_true_eq]
  exact ⟨hslots, htiles⟩

/-! ### What an OSREL frees (R187) -/

/-- The matrix side of a core when a set is freed and will have been cleared at the given times. -/
def Mtx.freed (m : Mtx) (set : OsSet) (slotsAt tilesAt : Nat) : Mtx :=
  { m with
    slotOwner := m.slotOwner.filter fun e => !set.slots.contains e.1
    tileOwner := m.tileOwner.filter fun e => !set.tiles.contains e.1
    clearSlots := set.slots.foldl (fun t n => tset t n slotsAt) m.clearSlots
    clearTiles := set.tiles.foldl (fun t n => tset t n tilesAt) m.clearTiles
    opmem := m.opmem.filter fun e => !set.slots.contains (e.1 / 16384)
    acc := m.acc.filter fun e => !set.tiles.contains (e.1 / 32768) }

theorem State.mtx_freeSet (s : State) (k : Nat) (set : OsSet) :
    (s.freeSet k set).mtx k = (s.mtx k).freed set (s.now + cycleLen * 128) (s.now + cycleLen * 1024) := by
  refine Eq.trans ?_ (s.mtx_modMtx k fun m => m.freed set (s.now + cycleLen * 128) (s.now + cycleLen * 1024))
  unfold State.freeSet
  dsimp only
  split <;> split <;> rfl

theorem State.cur_freeSet (s : State) (k : Nat) (set : OsSet) : (s.freeSet k set).cur = s.cur := by
  unfold State.freeSet
  dsimp only
  split <;> split <;> rfl

/-- A list without the entries of some keys. -/
theorem tget_filter_not_contains {α : Type} (f : Nat → Nat) (ks : List Nat) (t : Tab α) (i : Nat) :
    tget (t.filter fun e => !ks.contains (f e.1)) i = if f i ∈ ks then none else tget t i := by
  rw [tget_filter_key fun n => !ks.contains (f n)]
  by_cases h : f i ∈ ks <;> simp [h]

section
variable (m : Mtx) (set : OsSet) (ts tt : Nat)

theorem Mtx.freed_slot (i : Nat) : tget (m.freed set ts tt).slotOwner i = (if i ∈ set.slots then none else tget m.slotOwner i) ∧
    tget (m.freed set ts tt).clearSlots i = (if i ∈ set.slots then some ts else tget m.clearSlots i) ∧
    ∀ b, b < 16384 → cellAt (m.freed set ts tt).opmem (i * 16384 + b) = if i ∈ set.slots then 0 else cellAt m.opmem (i * 16384 + b) := by
  refine ⟨tget_filter_not_contains (fun n => n) .., tget_foldl_tset .., fun b hb => ?_⟩
  have hi : (i * 16384 + b) / 16384 = i := by omega
  rw [cellAt_eq_tgetD, Mtx.freed, tgetD, tget_filter_not_contains (· / 16384), hi, cellAt_eq_tgetD, tgetD]
  split <;> rfl

theorem Mtx.freed_tile (i : Nat) : tget (m.freed set ts tt).tileOwner i = (if i ∈ set.tiles then none else tget m.tileOwner i) ∧
    tget (m.freed set ts tt).clearTiles i = (if i ∈ set.tiles then some tt else tget m.clearTiles i) ∧
    (i ∈ set.tiles → ∀ r j, r < 256 → j < 128 → (m.freed set ts tt).accAt i r j = 0) := by
  refine ⟨tget_filter_not_contains (fun n => n) .., tget_foldl_tset .., fun hmem r j hr hj => ?_⟩
  have hi : (i * 32768 + 128 * r + j) / 32768 = i := by omega
  rw [Mtx.accAt, Mtx.freed, tgetD, tget_filter_not_contains (· / 32768), hi, if_pos hmem]
  rfl

end

/-! ### OSCLAIM and OSREL (R186, R187) -/

section
variable {s : State} {o : Op} {e : Nat × Nat} {w : Nat} {set : OsSet} (htop : s.top o = some e) (hw : s.scalar o e.1 e.2 o.selA 7 = w)
  (hset : osSetOf w = set) (hok : osWordOk w = true)
include htop hw hset hok

/-- An OSCLAIM of a context that holds its set or nothing does nothing, or joins the order of claims once and waits. -/
theorem osclaim_eq (hsound : MtxSound s o 0x0A4 [o.selA]) (hne : set ≠ noSet) (hexists : setExists s.cur.1 set.sorted = true)
    (hheld : (s.heldSet s.cur.1 s.cur.2).sorted = set.sorted ∨ (s.heldSet s.cur.1 s.cur.2).sorted = noSet) :
    exec (.osclaim o) s = .next (if (s.heldSet s.cur.1 s.cur.2).sorted = set.sorted then s
      else (if (s.mtx s.cur.1).osClaims.any (·.ctx == s.cur.2) then s
        else s.modMtx s.cur.1 fun m => { m with osClaims := m.osClaims ++ [⟨s.cur.2, set.sorted⟩] }).holdFor .opslotWait) := by
  have hsorted := OsSet.sorted_ne_noSet hne
  show execOsclaim o s = _
  simp only [execOsclaim, htop, hw, hset, hok, mtxTraps_of_sound hsound, State.illegalUnless_true, State.myCore_eq, State.myCtxNo_eq, hexists,
    List.nil_append, List.isEmpty_nil, Bool.true_and, Bool.not_true, Bool.or_false, beq_eq_false_iff_ne.2 hsorted, Bool.false_or]
  obtain hmine | hnone := hheld
  · simp [hmine]
  · simp [hnone, hsorted.symm]

/-- An OSREL of a set that the context holds waits for the work on it, then frees it. -/
theorem osrel_eq (hsound : MtxSound s o 0x0A6 [o.selA]) (hslots : ∀ i ∈ set.slots, s.holdsSlot s.cur.1 s.cur.2 i = true)
    (htiles : ∀ i ∈ set.tiles, s.holdsTile s.cur.1 s.cur.2 i = true) : exec (.osrel o) s =
    .next (if s.conflicts s.cur.1 noSet set.sorted = true then s.holdFor .opslotWait else s.freeSet s.cur.1 set.sorted) := by
  have hholds : (set.sorted.slots.all (s.holdsSlot s.cur.1 s.cur.2) && set.sorted.tiles.all (s.holdsTile s.cur.1 s.cur.2)) = true := by
    simp only [Bool.and_eq_true, List.all_eq_true, OsSet.mem_sorted_slots, OsSet.mem_sorted_tiles]
    exact ⟨hslots, htiles⟩
  show execOsrel o s = _
  simp only [execOsrel, htop, hw, hset, hok, mtxTraps_of_sound hsound, State.illegalUnless_true, State.myCore_eq, State.myCtxNo_eq, hholds,
    List.nil_append, List.isEmpty_nil, Bool.true_and, Bool.not_true, Bool.and_false, Bool.false_eq_true, if_false, runOp_nil]
  split <;> rfl

end

/-- Settles O30: the fields of the set word are the set (`setWord_fields`); OSCLAIM waits or does nothing (`osclaim_eq`), OSREL waits or
frees the set (`osrel_eq`), and what a freed set leaves is read off slot by slot and tile by tile. -/
theorem slotClaims : Obligations.SlotClaims := by
  unfold Obligations.SlotClaims
  intro s o e first n tiles htop hfirst hn hmask hw set hslots htiles hne
  obtain ⟨hset, hok⟩ : osSetOf _ = set ∧ _ := setWord_fields hfirst hn hmask
  clear_value set
  have hexists := setExists_sorted hslots htiles
  refine ⟨fun hsound => ⟨fun hmine => ?_, fun hnone hnew => ?_⟩, fun hsound hs ht => ⟨fun hclear => ?_, fun hbusy => ?_⟩⟩
  · exact ⟨_, (osclaim_eq htop hw hset hok hsound hne hexists (.inl hmine)).trans (congrArg _ (if_pos hmine)), rfl⟩
  · have hnot : ¬(s.heldSet s.cur.1 s.cur.2).sorted = set.sorted := fun h => OsSet.sorted_ne_noSet hne (h.symm.trans hnone)
    have hjoins : ¬((s.mtx s.cur.1).osClaims.any (·.ctx == s.cur.2)) = true := by simpa using hnew
    refine ⟨_, (osclaim_eq htop hw hset hok hsound hne hexists (.inr hnone)).trans (congrArg _
      ((if_neg hnot).trans (congrArg (State.holdFor · .opslotWait) (if_neg hjoins)))), ?_, ?_⟩
    · rw [State.holdFor, State.mtx_modMe, State.mtx_modMtx]
    · rw [State.holdFor, State.me_modMe]
  · refine ⟨_, (osrel_eq htop hw hset hok hsound hs ht).trans (congrArg _ (if_neg (by simp [hclear]))), ?_⟩
    simp only [slotByte, tileAt, State.cur_freeSet, State.mtx_freeSet]
    have hslot := fun i => (s.mtx s.cur.1).freed_slot set.sorted (s.now + cycleLen * 128) (s.now + cycleLen * 1024) i
    have htile := fun i => (s.mtx s.cur.1).freed_tile set.sorted (s.now + cycleLen * 128) (s.now + cycleLen * 1024) i
    simp only [OsSet.mem_sorted_slots, OsSet.mem_sorted_tiles] at hslot htile
    refine ⟨fun i hi => ?_, fun i hi => ?_, fun i hi => ?_, fun i hi => ?_⟩
    · obtain ⟨hown, hcleared, hbytes⟩ := hslot i
      exact ⟨hown.trans (if_pos hi), hcleared.trans (if_pos hi), fun b hb => (hbytes b hb).trans (if_pos hi)⟩
    · obtain ⟨hown, hcleared, helems⟩ := htile i
      exact ⟨hown.trans (if_pos hi), hcleared.trans (if_pos hi), helems hi⟩
    · obtain ⟨hown, -, hbytes⟩ := hslot i
      exact ⟨hown.trans (if_neg hi), fun b hb => (hbytes b hb).trans (if_neg hi)⟩
    · exact (htile i).1.trans (if_neg hi)
  · exact ⟨_, (osrel_eq htop hw hset hok hsound hs ht).trans (congrArg _ (if_pos hbusy)), rfl⟩

end
end Sys2Proof.Machine
end

section
-- One proof after another, as in the sections before this one.
set_option Elab.async false

namespace Sys2Proof.Machine

section
open Sys2Proof.Claims

/-! ### Results of ops that first act on the matrix side of a core (R127, R369) -/

/-- What the lanes of ACTIVE, their guards and the time of a result follow from. -/
def State.issueView (s : State) : (Nat × Nat) × Nat × Tab Cluster × Ctx := (s.cur, s.now, s.clusters, s.me)

theorem besideMtx_issueView : BesideMtx State.issueView :=
  ⟨fun s k f => by simp only [State.issueView, s.me_modMtx k f]; rfl, fun _ _ _ => rfl⟩

theorem State.issueView_eq {s u : State} : u.issueView = s.issueView ↔
    u.cur = s.cur ∧ u.now = s.now ∧ u.clusters = s.clusters ∧ u.me = s.me := by
  simp only [State.issueView, Prod.mk.injEq]

section
variable {s u : State} (h : u.issueView = s.issueView) (o : Op)
include h

theorem State.group_of_view : u.group = s.group := by
  obtain ⟨-, -, -, hme⟩ := State.issueView_eq.1 h
  rw [State.group, hme, State.group]

theorem State.halved_of_view : u.halved o = s.halved o := by
  obtain ⟨hcur, -, -, -⟩ := State.issueView_eq.1 h
  rw [State.halved, State.myCore, hcur, State.group_of_view h]
  rfl

theorem State.active_of_view : u.active o = s.active o := by
  obtain ⟨hcur, hnow, hclusters, hme⟩ := State.issueView_eq.1 h
  have hview : ∀ lane, u.view o lane = s.view o lane := fun lane => by
    rw [State.view, State.halved_of_view h, hme, hnow, State.view]
  have hpoint : ∀ k pc, u.point k pc = s.point k pc := fun k pc => by
    rw [State.point, State.trans, State.cluster, hclusters]
    rfl
  simp [State.active, State.guard, State.skipping, State.group_of_view h, hview, hpoint, hme, hcur]

/-- A result that is sent on its way when the matrix side of the core has changed is on its way for the issuing lanes. -/
theorem coming_of_view (w : Word) : Coming s (u.land o .reg o.dest.toNat 1 2 (u.perLane o fun _ _ => [w]) 0 [] []) o 1 2 [w] := by
  obtain ⟨ls, ⟨hframe, hplace, -, hgiven, -, -⟩, -⟩ := u.land_gives o .reg o.dest.toNat 1 2 fun _ _ => [w]
  simp only [le_refl, if_true] at hframe
  intro e he
  obtain ⟨l, hl, hval, hdue⟩ := hgiven e (State.active_of_view h o ▸ he)
  obtain ⟨hkind, hdest, hwidth, -⟩ := hplace l hl
  obtain ⟨-, hnow, -, -⟩ := State.issueView_eq.1 h
  refine ⟨l, ?_, hkind, hdest, hwidth, ?_, hval⟩
  · rw [hframe, State.me_modMe]
    exact List.mem_append_right _ hl
  · rw [hdue, hnow, dueIn, State.halved_of_view h, dueIn]

end

/-- A result on its way leaves the matrix side of every core and the agenda alone. -/
theorem State.land_mtx (s : State) (o : Op) (d width lat : Nat) (v : Nat → Nat → List Word) :
    let t := s.land o .reg d width lat (s.perLane o v) 0 [] []
    (∀ k, t.mtx k = s.mtx k) ∧ t.agenda = s.agenda := by
  obtain ⟨ls, ⟨hframe, -⟩, -⟩ := s.land_gives o .reg d width lat v
  simp only [le_refl, if_true] at hframe
  have hclaim : (∀ k, (s.claimLast .reg d width ((s.active o).map (·.2))).mtx k = s.mtx k) ∧
      (s.claimLast .reg d width ((s.active o).map (·.2))).agenda = s.agenda := by
    unfold State.claimLast
    split
    · exact ⟨fun k => s.mtx_modMe k _, rfl⟩
    · exact ⟨fun _ => rfl, rfl⟩
  dsimp only
  rw [hframe]
  exact ⟨fun k => (State.mtx_modMe _ k _).trans (hclaim.1 k), hclaim.2⟩

theorem State.mtx_schedule (s : State) (t : Nat) (i : Instr) (k : Nat) : (s.schedule t i).mtx k = s.mtx k := rfl

/-! ### Tickets (R195, R199) -/

theorem firstNat_isSome_mono {p q : Nat → Bool} (h : ∀ i, p i = true → q i = true) {n k : Nat} (hp : (firstNat p n k).isSome = true) :
    (firstNat q n k).isSome = true := by
  induction n generalizing k with
  | zero => cases hp
  | succ n ih =>
    unfold firstNat at hp ⊢
    split
    · rfl
    next hq =>
      rw [if_neg fun hpk => hq (h k hpk)] at hp
      exact ih hp

/-- A ticket that dies leaves its entry free, so a core with a free entry still has one. -/
theorem Mtx.freeTix_isSome_of_tdel {m m' : Mtx} {tix : Nat} (h : m'.tickets = tdel m.tickets tix) (hm : m.freeTix ≠ none) :
    ∃ n, m'.freeTix = some n := by
  refine Option.isSome_iff_exists.1 (firstNat_isSome_mono (fun i hi => ?_) (Option.isSome_iff_ne_none.2 hm))
  rw [h, tget_tdel]
  split
  · rfl
  · exact hi

theorem Bank.state_ne_idle_of_holdsRow {b : Bank} (h : b.holdsRow = true) : b.state ≠ .idle := by
  intro hidle
  simp [Bank.holdsRow, hidle] at h

section
variable {s : State} {k : Nat}

theorem State.closeRow_of_holds {b : Nat} (h : (s.bank k b).holdsRow = true) : s.closeRow k b =
    s.closesAt k b (Nat.max s.now (Nat.max (tickTime ((s.bank k b).since + 32)) (s.bank k b).consumeEnd)) := if_pos h

theorem State.tickets_closeRow (b : Nat) : ((s.closeRow k b).mtx k).tickets = (s.mtx k).tickets := by
  by_cases h : (s.bank k b).holdsRow = true
  · rw [State.closeRow_of_holds h, State.tickets_closesAt]
  · exact congrArg (fun u : State => (u.mtx k).tickets) (if_neg h)

variable {tix : Nat} {t : Ticket} (ht : tget (s.mtx k).tickets tix = some t)
include ht

/-- A ticket that dies leaves the other entries as they are. -/
theorem State.tickets_killTicket : ((s.killTicket k tix).mtx k).tickets = tdel (s.mtx k).tickets tix := by
  have hdel : ((s.modMtx k fun m => { m with tickets := tdel m.tickets tix }).mtx k).tickets = tdel (s.mtx k).tickets tix :=
    congrArg Mtx.tickets (s.mtx_modMtx k _)
  simp only [State.killTicket, ht]
  split
  · rw [State.mtx_modBank, hdel]
  · split
    · rw [State.tickets_closeRow, hdel]
    · exact hdel

/-- The row that a ticket holds is set to close when the ticket dies. -/
theorem State.bank_killTicket {b : Nat} (hb : t.bslot = b) (hheld : (s.bank k b).holdsRow = true) (hw : (s.bank k b).waiting = none)
    (htix : (s.bank k b).tix = some tix) : (s.killTicket k tix).bank k b = { s.bank k b with
      closeAt := some (Nat.max s.now (Nat.max (tickTime ((s.bank k b).since + 32)) (s.bank k b).consumeEnd)), tix := none } := by
  subst hb
  generalize hu : s.modMtx k (fun m => { m with tickets := tdel m.tickets tix }) = u
  have hbank : u.bank k t.bslot = s.bank k t.bslot := hu ▸ s.bank_modMtx k t.bslot fun _ => rfl
  have hnow : u.now = s.now := hu ▸ rfl
  have hkill : s.killTicket k tix = u.closeRow k t.bslot := by
    simp only [State.killTicket, ht, hu, hbank, hw, htix, beq_self_eq_true, if_true, reduceCtorEq, beq_iff_eq, if_false]
  rw [hkill, State.closeRow_of_holds (hbank ▸ hheld), State.bank_closesAt, hbank, hnow]

end

theorem BesideMtx.killTicket {β : Type} {g : State → β} (hg : BesideMtx g) (s : State) (k tix : Nat) : g (s.killTicket k tix) = g s := by
  unfold State.killTicket
  split
  · rfl
  · dsimp only
    split
    · exact (hg.mtx ..).trans (hg.mtx ..)
    · split
      · exact (hg.closeRow ..).trans (hg.mtx ..)
      · exact hg.mtx ..

/-! ### ROWACT (R196, R197, R369) -/

/-- The pillar offset and the bank slot of a row pointer of the context in execution (R194). -/
def State.rowAt (s : State) (p : Word) : Nat := s.me.vBase + ptrOff p
def State.rowBank (s : State) (p : Word) : Nat := s.rowAt p / 2 ^ 23 % 128

/-- The ticket that a ROWACT takes for its row, with the generation of the matrix side of its core (R195). -/
def State.newTicket (s : State) (p : Word) (m : Mtx) : Ticket := ⟨s.cur.2, m.gen.toNat, s.rowBank p, s.rowAt p / 2048 % 4096⟩

/-- The row that the bank holds gives way to a ROWACT that passes its checks. -/
def State.rowCleared (s : State) (k b : Nat) : State :=
  match if (s.bank k b).holdsRow then (s.bank k b).tix else none with
  | some t => s.killTicket k t
  | none => s

/-- A ticket takes an entry. -/
def Mtx.ticketed (m : Mtx) (tix : Nat) (t : Ticket) : Mtx := { m with tickets := tset m.tickets tix t, gen := m.gen + 1 }

/-- A ticket takes an entry, and its activation begins or waits for the bank. -/
def State.takesRow (s : State) (k tix : Nat) (t : Ticket) : State :=
  let u := s.modMtx k fun m => m.ticketed tix t
  if (u.bank k t.bslot).state == .idle then u.activate k t.bslot t.row (some tix) false
  else u.modBank k t.bslot fun e => { e with waiting := some tix }

/-- The effect of a ROWACT: the new ticket takes the lowest free entry and is the result. -/
def State.rowacts (s : State) (o : Op) (p : Word) : State :=
  let s1 := s.rowCleared s.cur.1 (s.rowBank p)
  match (s1.mtx s.cur.1).freeTix with
  | none => s1
  | some tix =>
    let t := s.newTicket p (s1.mtx s.cur.1)
    let u := s1.takesRow s.cur.1 tix t
    u.land o .reg o.dest.toNat 1 2 (u.perLane o fun _ _ => [ticketWord tix t]) 0 [] []

/-- The traps of a ROWACT. -/
def rowactTraps (force : Bool) (o : Op) (s : State) (p : Word) : List (Nat × Trap) :=
  let first := s.srcTraps o (o.legalV 0x0A7 8 && o.ext.isNone && destOk o.slot o.dest.toNat 1) [(o.selA, 1)] ++ s.copyTraps o o.dest.toNat 1
  first ++ (if first.isEmpty then (s.rowactTrap s.cur.1 s.cur.2 p force).toList else []).flatMap fun t => (s.active o).map fun a => (a.2, t)

section
variable (s : State) (k tix : Nat) (t : Ticket)

theorem State.bank_ticketed : (s.modMtx k fun m => m.ticketed tix t).bank k t.bslot = s.bank k t.bslot :=
  s.bank_modMtx k t.bslot fun _ => rfl

theorem State.tickets_takesRow : ((s.takesRow k tix t).mtx k).tickets = tset (s.mtx k).tickets tix t ∧
    ((s.takesRow k tix t).mtx k).gen = (s.mtx k).gen + 1 := by
  have hmtx := s.mtx_modMtx k fun m => m.ticketed tix t
  unfold State.takesRow
  dsimp only
  split
  · simp only [State.activate, State.mtx_schedule, State.mtx_modBank, hmtx]
    exact ⟨rfl, rfl⟩
  · rw [State.mtx_modBank, hmtx]
    exact ⟨rfl, rfl⟩

theorem BesideMtx.takesRow {β : Type} {g : State → β} (hg : BesideMtx g) : g (s.takesRow k tix t) = g s := by
  unfold State.takesRow
  dsimp only
  split
  · exact (hg.activate ..).trans (hg.mtx ..)
  · exact (hg.mtx ..).trans (hg.mtx ..)

variable {s k t}

theorem State.takesRow_of_idle (h : (s.bank k t.bslot).state = .idle) : (s.takesRow k tix t).bank k t.bslot =
      (s.bank k t.bslot).activated s.gtc t.row (some tix) false ∧
    (tickTime (s.gtc + 14), Instr.rowOpen k t.bslot) ∈ (s.takesRow k tix t).agenda ∧
    (tickTime (s.gtc + 4000), Instr.refreshClose k t.bslot) ∈ (s.takesRow k tix t).agenda := by
  rw [State.takesRow, State.bank_ticketed, if_pos (beq_iff_eq.2 h), State.bank_activate, State.bank_ticketed]
  exact ⟨rfl, State.agenda_activate ..⟩

theorem State.takesRow_of_held (h : (s.bank k t.bslot).state ≠ .idle) :
    (s.takesRow k tix t).bank k t.bslot = { s.bank k t.bslot with waiting := some tix } := by
  rw [State.takesRow]
  dsimp only
  rw [State.bank_ticketed, if_neg fun h' => h (beq_iff_eq.1 h'), State.bank_modBank, State.bank_ticketed]

end

/-- A ticket that takes the place of the one that held the row of its bank: the row is to close, and the new ticket waits for the bank. -/
theorem State.takesRow_of_killed {s : State} {k old b : Nat} {tk new : Ticket} (htk : tget (s.mtx k).tickets old = some tk) (hb : tk.bslot = b)
    (hheld : (s.bank k b).holdsRow = true) (hw : (s.bank k b).waiting = none) (hold : (s.bank k b).tix = some old) (hnew : new.bslot = b)
    (tix : Nat) : ((s.killTicket k old).takesRow k tix new).bank k b = { s.bank k b with
      closeAt := some (Nat.max s.now (Nat.max (tickTime ((s.bank k b).since + 32)) (s.bank k b).consumeEnd)), tix := none,
      waiting := some tix } := by
  subst hnew
  have hkilled := State.bank_killTicket htk hb hheld hw hold
  have hnot : ((s.killTicket k old).bank k new.bslot).state ≠ .idle :=
    hkilled ▸ Bank.state_ne_idle_of_holdsRow (b := s.bank k new.bslot) hheld
  rw [State.takesRow_of_held tix hnot, hkilled]

/-- A sound ROWACT of a bank that no activation and no STKCPY awaits passes its checks where an entry is free and the bank holds no row,
or with force the row of a ticket of its own context. -/
theorem rowactTrap_none {s : State} {p : Word} (hsound : RowSound s p) {force : Bool} {n : Bank}
    (hn : s.bank s.cur.1 (s.rowBank p) = n) (hfree : (s.mtx s.cur.1).freeTix ≠ none)
    (hw : n.waiting = none) (hstk : n.stkWaits = false)
    (hrow : n.holdsRow = false ∨ force = true ∧ n.stk = false ∧
      (n.tix.bind fun t => (tget (s.mtx s.cur.1).tickets t).map (·.ctx)) = some s.cur.2) :
    s.rowactTrap s.cur.1 s.cur.2 p force = none := by
  obtain ⟨hseg, hbad, halign, hlimit, hpillar, hregion⟩ := hsound
  have hme : s.ctx s.cur.1 s.cur.2 = s.me := rfl
  rw [State.rowBank, State.rowAt] at hn
  simp only [State.rowactTrap, hme, hn, hseg, hbad, halign, if_neg hlimit.not_ge, hpillar, hregion, hw, hstk, bne_self_eq_false, Bool.or_self,
    Bool.false_eq_true, if_false, Option.isSome_none, Option.isNone_iff_eq_none, hfree]
  obtain hnone | ⟨rfl, hstk, howner⟩ := hrow
  · simp [hnone]
  · simp [hstk, howner]

section
variable {s : State} {o : Op} {e : Nat × Nat} {p : Word} {force : Bool} (htop : s.top o = some e) (hp : s.word o e.1 e.2 o.selA = p)
include htop hp

theorem rowactOp_eq : rowactOp force o s = runOp o.slot (rowactTraps force o s p) (fun s => s.rowacts o p) s := by
  subst hp
  rw [rowactOp, htop]
  rfl

/-- A ROWACT whose checks pass has its effect. -/
theorem rowactOp_of_sound (hext : o.ext = none) (hlegal : o.legalV 0x0A7 8 = true) (hsound : Sound s o [(o.selA, 1)] o.dest.toNat 1)
    (htrap : s.rowactTrap s.cur.1 s.cur.2 p force = none) : rowactOp force o s = s.rowacts o p := by
  have hok : (o.legalV 0x0A7 8 && o.ext.isNone && destOk o.slot o.dest.toNat 1) = true := by simp [hlegal, hext, hsound.target]
  have hnone : rowactTraps force o s p = [] := by
    rw [rowactTraps, hok, hsound.srcTraps, hsound.copyTraps, htrap]
    rfl
  rw [rowactOp_eq htop hp, hnone, runOp_nil]

end

section
variable {s s1 : State} {o : Op} {p : Word} {tix : Nat} (hcleared : s.rowCleared s.cur.1 (s.rowBank p) = s1)
  (htix : (s1.mtx s.cur.1).freeTix = some tix)
include hcleared htix

/-- The new ticket is on its way, and the matrix side and the agenda are those with it in its entry. -/
theorem State.rowacts_gives (hview : s1.issueView = s.issueView) :
    let t := s.newTicket p (s1.mtx s.cur.1)
    Coming s (s.rowacts o p) o 1 2 [ticketWord tix t] ∧ (s.rowacts o p).mtx s.cur.1 = (s1.takesRow s.cur.1 tix t).mtx s.cur.1 ∧
      (s.rowacts o p).agenda = (s1.takesRow s.cur.1 tix t).agenda := by
  simp only [State.rowacts, hcleared, htix]
  obtain ⟨hmtx, hagenda⟩ := (s1.takesRow s.cur.1 tix (s.newTicket p (s1.mtx s.cur.1))).land_mtx o o.dest.toNat 1 2
    fun _ _ => [ticketWord tix (s.newTicket p (s1.mtx s.cur.1))]
  exact ⟨coming_of_view ((besideMtx_issueView.takesRow ..).trans hview) o _, hmtx _, hagenda⟩

end

section
variable {s : State} {o : Op} {e : Nat × Nat} {p : Word} (htop : s.top o = some e) (hp : s.word o e.1 e.2 o.selA = p) (hext : o.ext = none)
  (hlegal : o.legalV 0x0A7 8 = true) (hsound : Sound s o [(o.selA, 1)] o.dest.toNat 1) (hrow : RowSound s p)
  (hw : (s.bank s.cur.1 (s.rowBank p)).waiting = none) (hstk : (s.bank s.cur.1 (s.rowBank p)).stkWaits = false)
include htop hp hext hlegal hsound hrow hw hstk

/-- A ROWACT of a bank without an open row, with or without force. -/
theorem rowact_free (force : Bool) {tix : Nat} (hfree : (s.mtx s.cur.1).freeTix = some tix)
    (hhold : (s.bank s.cur.1 (s.rowBank p)).holdsRow = false) :
    let t0 := s.newTicket p (s.mtx s.cur.1)
    let u := s.takesRow s.cur.1 tix t0
    Completes (if force then Instr.rowactForce o else .rowact o) s fun t =>
      Coming s t o 1 2 [ticketWord tix t0] ∧ t.mtx s.cur.1 = u.mtx s.cur.1 ∧ t.agenda = u.agenda := by
  have htrap := rowactTrap_none hrow (force := force) rfl (by simp [hfree]) hw hstk (.inl hhold)
  have hcleared : s.rowCleared s.cur.1 (s.rowBank p) = s := by simp [State.rowCleared, hhold]
  refine ⟨_, ?_, State.rowacts_gives hcleared hfree rfl⟩
  rw [← rowactOp_of_sound htop hp hext hlegal hsound htrap]
  cases force <;> rfl

/-- A ROWACT with force of a bank whose open row the context itself holds. -/
theorem rowactForce_held {old : Nat} {tk : Ticket} (hfree : (s.mtx s.cur.1).freeTix ≠ none)
    (hhold : (s.bank s.cur.1 (s.rowBank p)).holdsRow = true) (hown : (s.bank s.cur.1 (s.rowBank p)).stk = false)
    (hold : (s.bank s.cur.1 (s.rowBank p)).tix = some old) (htk : tget (s.mtx s.cur.1).tickets old = some tk) (hctx : tk.ctx = s.cur.2) :
    ∃ tix, let s1 := s.killTicket s.cur.1 old
      let n := s.newTicket p (s1.mtx s.cur.1)
      let u := s1.takesRow s.cur.1 tix n
      Completes (.rowactForce o) s fun t =>
        Coming s t o 1 2 [ticketWord tix n] ∧ t.mtx s.cur.1 = u.mtx s.cur.1 ∧ t.agenda = u.agenda := by
  have htrap := rowactTrap_none hrow (force := true) rfl hfree hw hstk (.inr ⟨rfl, hown, by simp [hold, htk, hctx]⟩)
  have hcleared : s.rowCleared s.cur.1 (s.rowBank p) = s.killTicket s.cur.1 old := by simp [State.rowCleared, hhold, hold]
  obtain ⟨tix, htix⟩ := Mtx.freeTix_isSome_of_tdel (State.tickets_killTicket htk) hfree
  refine ⟨tix, _, ?_, State.rowacts_gives hcleared htix (besideMtx_issueView.killTicket ..)⟩
  rw [← rowactOp_of_sound htop hp hext hlegal hsound htrap]
  rfl

end

/-! ### ROWCON (R198, R370) -/

/-- The control word of a ROWCON and its fields: the slot, the offsets and the length in units of 128 bytes. -/
theorem rowconFields_eq {slot soff n roff w : Nat} (hslot : slot < 32) (hsoff : soff < 128) (hn : n < 32) (hroff : roff < 16)
    (hw : w = slot * 2 ^ 16 + soff * 2 ^ 9 + n * 2 ^ 4 + roff) :
    rowconFields w = (slot, 128 * soff, 128 * (n + 1), 128 * roff) ∧ w < 2 ^ 21 := by
  refine ⟨?_, by omega⟩
  simp only [rowconFields, Prod.mk.injEq]
  omega

/-- The bytes of a row from an offset, decrypted under the key of V (R198). -/
def State.rowBytes (s : State) (t : Ticket) (roff len : Nat) : List Byte :=
  (List.range len).map fun i => s.phys.dramByte (some (s.keyOf s.me.vKey)) (s.cur.1 * 2 ^ 30 + (t.bslot * 4096 + t.row) * 2048 + roff + i)

/-- The bytes of a row stand in a slot, the bus and the bank are busy with them, and later work on the slot waits. -/
def State.rowCopied (s : State) (t : Ticket) (slot soff len roff : Nat) : State :=
  ((s.modMtx s.cur.1 fun m => { m with
      opmem := cellPuts m.opmem (bytesAt (slot * 16384 + soff) (s.rowBytes t roff len)), busFree := s.after (len / 128) }).modBank s.cur.1
    t.bslot fun n => { n with consumeEnd := Nat.max n.consumeEnd (s.after (len / 128)) }).addWork s.cur.1
      { ctx := s.cur.2, reads := noSet, writes := ⟨[slot], []⟩, until_ := s.after (len / 128) }

/-- The effect of a ROWCON; an uncorrectable line of the row is trapped late. -/
def State.rowConsumed (s : State) (thread : Nat) (t : Ticket) (slot soff len roff : Nat) : State :=
  let pa := s.cur.1 * 2 ^ 30 + (t.bslot * 4096 + t.row) * 2048 + roff
  match (List.range (len / 128)).find? fun i => s.uncorrectable (pa + 128 * i) with
  | some i => (s.rowCopied t slot soff len roff).modMe fun c => { c with
      late := c.late ++ [{ thread := thread, trap := ⟨.memUncorrectable, 0, pa + 128 * i⟩, at_ := s.me.pc, dest := none, eng := false,
                           tick := s.gtc }] }
  | none => s.rowCopied t slot soff len roff

theorem State.rowCopied_mtx (s : State) (t : Ticket) (slot soff len roff : Nat) :
    ((s.rowCopied t slot soff len roff).mtx s.cur.1).opmem =
      cellPuts (s.mtx s.cur.1).opmem (bytesAt (slot * 16384 + soff) (s.rowBytes t roff len)) ∧
    ((s.rowCopied t slot soff len roff).mtx s.cur.1).busFree = s.now + cycleLen * (len / 128) := by
  rw [State.rowCopied, State.mtx_addWork, State.mtx_modBank, State.mtx_modMtx]
  exact ⟨rfl, rfl⟩

theorem State.rowConsumed_fields (s : State) (thread : Nat) (t : Ticket) (slot soff len roff : Nat) :
    (s.rowConsumed thread t slot soff len roff).mtx s.cur.1 = (s.rowCopied t slot soff len roff).mtx s.cur.1 ∧
    (s.rowConsumed thread t slot soff len roff).cur = s.cur ∧ (s.rowConsumed thread t slot soff len roff).phys = s.phys := by
  unfold State.rowConsumed
  dsimp only
  split
  · exact ⟨State.mtx_modMe _ _ _, rfl, rfl⟩
  · exact ⟨rfl, rfl, rfl⟩

/-- What stops a ROWCON of a live ticket is not there: the control word fits, and the slot is the context's own. -/
theorem rowconTrap_none {s : State} {p : Word} {w slot soff len roff : Nat} {t : Nat × Ticket}
    (hlive : s.liveTicket s.cur.1 s.cur.2 p = some t) (hfields : rowconFields w = (slot, soff, len, roff)) (hlt : w < 2 ^ 21)
    (hrow : roff + len ≤ 2048) (hslot : soff + len ≤ 16384) (hholds : s.holdsSlot s.cur.1 s.cur.2 slot = true) :
    s.rowconTrap s.cur.1 s.cur.2 p w = none := by
  simp only [State.rowconTrap, hfields, decide_eq_false hlt.not_ge, decide_eq_false hrow.not_gt, decide_eq_false hslot.not_gt, hholds, hlive,
    Bool.or_self, Bool.false_eq_true, if_false, Bool.not_true, Option.isNone_some]

section
variable {s : State} {o : Op} {e : Nat × Nat} {p : Word} {w slot soff len roff tix : Nat} {tk : Ticket} (htop : s.top o = some e)
  (hp : s.word o e.1 e.2 o.selA = p) (hw : s.scalar o e.1 e.2 o.selB 7 = w) (hsound : MtxSound s o 0x0A8 [o.selA, o.selB])
  (hlive : s.liveTicket s.cur.1 s.cur.2 p = some (tix, tk)) (hfields : rowconFields w = (slot, soff, len, roff))
  (htrap : s.rowconTrap s.cur.1 s.cur.2 p w = none)
include htop hp hw hsound hlive hfields htrap

/-- A ROWCON with W set of a row that is not open waits for it. -/
theorem rowconOp_waits (hnot : (s.bank s.cur.1 tk.bslot).state ≠ .opened) : rowconOp true o s = s.holdFor .rowWait := by
  simp only [rowconOp, htop, hp, hw, hfields, mtxTraps_of_sound hsound, htrap, hlive, State.myCore_eq, State.myCtxNo_eq, Option.map_some,
    Option.any_some, beq_eq_false_iff_ne.2 hnot, Bool.false_and, Bool.not_true, Bool.and_false, Bool.false_eq_true, if_false, Bool.not_false,
    Option.toList_none, List.append_nil, List.flatMap_nil, List.isEmpty_nil, if_true, Bool.and_self]

/-- A ROWCON of an open row copies once the bus and the slot are free. -/
theorem rowconOp_copies {wait : Bool} (hopen : (s.bank s.cur.1 tk.bslot).state = .opened) (htix : (s.bank s.cur.1 tk.bslot).tix = some tix)
    (hbus : (s.mtx s.cur.1).busFree ≤ s.now) (hclear : s.conflicts s.cur.1 noSet ⟨[slot], []⟩ = false) :
    rowconOp wait o s = s.rowConsumed e.2 tk slot soff len roff := by
  simp only [rowconOp, htop, hp, hw, hfields, mtxTraps_of_sound hsound, htrap, hlive, State.myCore_eq, State.myCtxNo_eq, Option.map_some,
    Option.any_some, Option.getD_some, hopen, htix, beq_self_eq_true, Bool.and_self, Bool.not_true, Bool.and_false, Bool.false_eq_true, if_false,
    Option.toList_none, List.append_nil, List.flatMap_nil, List.isEmpty_nil, if_true, Bool.true_and, decide_eq_true_eq, hbus.not_gt, hclear,
    runOp_nil]
  rfl

end

/-- After a ROWCON its slot holds the bytes of the row, and every other byte of the slots is as it was. -/
theorem State.rowConsumed_bytes (s : State) (thread : Nat) (tk : Ticket) (slot soff len roff : Nat)
    (hwf : Memory.wf (s.mtx s.cur.1).opmem = true) : let t := s.rowConsumed thread tk slot soff len roff
    (∀ j, j < len → slotByte t slot (soff + j) = s.phys.dramByte (some (s.keyOf s.me.vKey))
      (s.cur.1 * 2 ^ 30 + (tk.bslot * 4096 + tk.row) * 2048 + roff + j)) ∧
    ∀ a, (a < slot * 16384 + soff ∨ slot * 16384 + soff + len ≤ a) → cellAt (t.mtx s.cur.1).opmem a = cellAt (s.mtx s.cur.1).opmem a := by
  obtain ⟨hmtx, hcur, -⟩ := s.rowConsumed_fields thread tk slot soff len roff
  obtain ⟨hopmem, -⟩ := s.rowCopied_mtx tk slot soff len roff
  have hlen : (s.rowBytes tk roff len).length = len := by simp [State.rowBytes]
  refine ⟨fun j hj => ?_, fun a ha => ?_⟩
  · rw [slotByte, hcur, hmtx, hopmem, ← Nat.add_assoc, Memory.cellAt_cellPuts_bytesAt hwf (hj.trans_eq hlen.symm)]
    simp only [State.rowBytes, List.getElem_map, List.getElem_range]
  · rw [hmtx, hopmem, Memory.cellAt_cellPuts_ne]
    intro b hb
    have hmem := mem_bytesAt hb
    omega

/-! ### ROWCLS (R199, R371) -/

theorem State.tget_of_liveTicket {s : State} {k x tix : Nat} {w : Word} {t : Ticket} (h : s.liveTicket k x w = some (tix, t)) :
    tget (s.mtx k).tickets tix = some t := by
  unfold State.liveTicket at h
  dsimp only at h
  split at h
  next ht =>
    split at h
    · cases h
      exact ht
    · cases h
  next => cases h

section
variable {s : State} {o : Op} {e : Nat × Nat} {p : Word} (htop : s.top o = some e) (hp : s.word o e.1 e.2 o.selA = p)
  (hsound : MtxSound s o 0x0A9 [o.selA])
include htop hp hsound

theorem rowcls_of_live {t : Nat × Ticket} (hlive : s.liveTicket s.cur.1 s.cur.2 p = some t) :
    exec (.rowcls o) s = .next (s.killTicket s.cur.1 t.1) := by
  show execRowcls o s = _
  simp only [execRowcls, htop, hp, mtxTraps_of_sound hsound, runOp_nil, State.myCore_eq, State.myCtxNo_eq, hlive]

theorem rowcls_of_dead (hdead : s.liveTicket s.cur.1 s.cur.2 p = none) : exec (.rowcls o) s = .next s := by
  show execRowcls o s = _
  simp only [execRowcls, htop, hp, mtxTraps_of_sound hsound, runOp_nil, State.myCore_eq, State.myCtxNo_eq, hdead]

end

/-- Settles O31: a ROWACT that passes its checks (`rowactTrap_none`) takes a ticket and its bank (`State.takesRow`), with force after the
death of the ticket that holds the row; ROWCON waits or copies (`rowconOp_waits`, `rowconOp_copies`), and ROWCLS kills a live ticket. -/
theorem rowOps : Obligations.RowOps := by
  unfold Obligations.RowOps
  intro s o e htop hext k m p
  refine ⟨fun force tix hlegal hsound hrow hfree => ?_, fun old tk hlegal hsound hrow hfree => ?_, fun wait tix tk slot soff n roff => ?_,
    fun hsound => ⟨fun tix tk hlive => ?_, fun hdead => ⟨_, rowcls_of_dead htop rfl hsound hdead, rfl⟩⟩⟩
  · intro off b t0 i hhold hw hstk
    obtain ⟨t, hexec, hcoming, (hmtx : t.mtx k = (s.takesRow k tix t0).mtx k), (hagenda : t.agenda = (s.takesRow k tix t0).agenda)⟩ :=
      rowact_free htop rfl hext hlegal hsound hrow hw hstk force hfree hhold
    obtain ⟨htickets, hgen⟩ := s.tickets_takesRow k tix t0
    have hbank : t.bank k b = (s.takesRow k tix t0).bank k b := congrArg (fun m : Mtx => tgetD m.banks b {}) hmtx
    refine ⟨t, hexec, hcoming, ?_, ?_, fun hidle => ?_, fun hheld => ?_⟩
    · rw [hmtx, htickets, tget_tset_self]
    · rw [hmtx, hgen]
    · obtain ⟨hset, hopens, hcloses⟩ := State.takesRow_of_idle (t := t0) tix hidle
      rw [hbank, hset, hagenda]
      exact ⟨rfl, rfl, rfl, rfl, hopens, hcloses⟩
    · rw [hbank, State.takesRow_of_held (t := t0) tix hheld]
      exact ⟨rfl, rfl⟩
  · intro b hhold hown hw hstk hold htk hctx hbslot
    obtain ⟨tix, t, hexec, hcoming, hmtx, -⟩ := rowactForce_held htop rfl hext hlegal hsound hrow hw hstk hfree hhold hown hold htk hctx
    generalize hn : s.newTicket p ((s.killTicket k old).mtx k) = new at hcoming hmtx
    have hnb : new.bslot = b := hn ▸ rfl
    have hbank := (congrArg (fun m : Mtx => tgetD m.banks b {}) hmtx).trans (State.takesRow_of_killed htk hbslot hhold hw hold hnb tix)
    refine ⟨t, hexec, congrArg Bank.closeAt hbank, tix, new, congrArg Bank.waiting hbank, ?_, hcoming, hn ▸ rfl, hnb, hn ▸ rfl⟩
    rw [hmtx, (State.tickets_takesRow ..).1, tget_tset_self]
  · intro i hsound hslot hsoff hn hroff hrow hcol hw hholds hlive
    obtain ⟨hfields, hlt⟩ := rowconFields_eq hslot hsoff hn hroff rfl
    rw [← hw] at hfields hlt
    have htrap := rowconTrap_none hlive hfields hlt (by omega) (by omega) hholds
    refine ⟨?_, fun hnot hwait => ?_⟩
    · intro hopen htix hbus hclear hwf pa
      have hexec : exec i s = .next (rowconOp wait o s) := by cases wait <;> rfl
      rw [rowconOp_copies htop rfl rfl hsound hlive hfields htrap hopen htix hbus hclear] at hexec
      obtain ⟨hmtx, -, hphys⟩ := s.rowConsumed_fields e.2 tk slot (128 * soff) (128 * (n + 1)) (128 * roff)
      obtain ⟨-, hbusFree⟩ := s.rowCopied_mtx tk slot (128 * soff) (128 * (n + 1)) (128 * roff)
      obtain ⟨hbytes, hrest⟩ := s.rowConsumed_bytes e.2 tk slot (128 * soff) (128 * (n + 1)) (128 * roff) hwf
      refine ⟨_, hexec, hbytes, hrest, ?_, hphys⟩
      rw [hmtx, hbusFree, Nat.mul_div_cancel_left _ (by decide)]
    · subst hwait
      exact ⟨_, congrArg Host.Outcome.next (rowconOp_waits htop rfl rfl hsound hlive hfields htrap hnot), rfl⟩
  · have htk := State.tget_of_liveTicket hlive
    refine ⟨_, rowcls_of_live htop rfl hsound hlive, ?_, fun j hj => ?_⟩ <;> rw [State.tickets_killTicket htk, tget_tdel]
    · exact if_pos rfl
    · exact if_neg hj

end
end Sys2Proof.Machine
end

section
-- One proof after another, as in the sections before this one.
set_option Elab.async false

namespace Sys2Proof.Machine

section
open Sys2Proof.Claims

/-! ### What a REDGRP may join (R352, R354) -/

/-- A REDGRP in progress that logical core lg may join: its member, new to it, with the same descriptor. -/
structure GroupUse.Takes (u : GroupUse) (lg : Nat) (d : CollDesc) (fn : Nat) : Prop where
  redgrp : u.redgrp = true
  member : u.tmask / 2 ^ lg % 2 = 1
  kept : lg ∉ u.dropped
  new : ∀ j ∈ u.issuers, j.lg ≠ lg
  tmask : u.tmask = d.tmask
  ety : u.ety = d.ety
  len : u.len = d.len
  fn : u.fn = fn

section
variable {u : GroupUse} {lg fn : Nat} {d : CollDesc} (h : u.Takes lg d fn)
include h

theorem GroupUse.Takes.joins {redgrp : Bool} (hredgrp : redgrp = true) :
    (redgrp && u.redgrp && u.tmask / 2 ^ lg % 2 == 1 && !u.dropped.contains lg && !(u.issuers.any (·.lg == lg))) = true := by
  have hnew : (u.issuers.any (·.lg == lg)) = false := List.any_eq_false.2 fun j hj => by simpa using h.new j hj
  simp [hredgrp, h.redgrp, h.member, h.kept, hnew]

theorem GroupUse.Takes.agrees : (u.tmask != d.tmask || u.ety != d.ety || u.len != d.len || u.fn != fn) = false := by
  simp [h.tmask, h.ety, h.len, h.fn]

end

/-! ### PUBLISH (R215, R364) -/

/-- A channel whose operation has been published: a shadow is kept no longer (R364). -/
def Chan.published (h : Chan) (id : Nat) : Chan :=
  { h with ops := match tget h.ops id with
    | some q => if q.shadow then tset h.ops id { q with state := .published, writes := [] } else h.ops
    | none => h.ops }

section
variable {s : State} {o : Op} {e : Nat × Nat} (htop : s.top o = some e) (hext : o.ext = none)
include htop hext

/-- A PUBLISH whose identifier has been issued, whose shadow is neither lost nor under way, and whose release is complete writes the
shadow's runs, ends the release and leaves the shadow published (R215, R364). -/
theorem publish_eq {id : Nat} {p : Option ChanOp} (hid : s.scalar o e.1 e.2 o.selA 7 = id) (hp : tget (s.me.chan (chanOf o)).ops id = p)
    (hlegal : o.legalV 0x103 0 = true) (hread : Readable s o [(o.selA, 1)]) (hissued : (s.me.chan (chanOf o)).notIssued id = false)
    (hstate : ∀ q, p = some q → q.state ≠ .failed ∧ (q.shadow = true → q.state ≠ .active))
    (hfaults : s.accFaults s.cur.1 s.cur.2 .store (shadowAccs e.2 (shadowRun p)) = [])
    (hready : (s.releaseStart s.cur.1 s.cur.2 e.2 (scopeOf o)).releaseReady s.cur.1 s.cur.2
      (if shadowRun p = [] then scopeOf o else Nat.max 3 (scopeOf o)) = true) :
    exec (.publish o) s = .next ((((s.releaseStart s.cur.1 s.cur.2 e.2 (scopeOf o)).publishWrites s.cur.1 s.cur.2 e.2
      (shadowRun p)).releaseDone s.cur.1 s.cur.2 (scopeOf o)).modMe fun c => c.modChan (chanOf o) (·.published id)) := by
  have hfailed : (p.any fun q => q.state == .failed) = false := by
    cases p with
    | none => rfl
    | some q => exact beq_eq_false_iff_ne.2 (hstate q rfl).1
  have hdone : (p.any (·.shadow) && p.any fun q => q.state == .active) = false := by
    cases p with
    | none => rfl
    | some q =>
      cases hshadow : q.shadow with
      | false => simp [hshadow]
      | true => simpa [hshadow] using (hstate q rfl).2 hshadow
  have hwrites : (!(s.accFaults s.cur.1 s.cur.2 .store (shadowAccs e.2 (shadowRun p))).isEmpty) = false := by rw [hfaults]; rfl
  have hcomplete : (!(s.releaseStart s.cur.1 s.cur.2 e.2 (scopeOf o)).releaseReady s.cur.1 s.cur.2
      (if (shadowRun p).isEmpty then scopeOf o else Nat.max 3 (scopeOf o))) = false := by
    simpa only [List.isEmpty_iff, Bool.not_eq_false'] using hready
  subst hid hp
  unfold chanOf at hissued hfailed hdone
  show execPublish o s = _
  simp only [execPublish, htop, hext, hlegal, State.myCore_eq, State.myCtxNo_eq, hissued, Bool.not_false, Option.isNone_none, Bool.and_self,
    hread.srcTraps, State.illegalUnless_true, List.append_nil, List.isEmpty_nil, Bool.true_and, hfailed, Bool.false_eq_true, if_false, hdone]
  exact (if_neg (Bool.eq_false_iff.1 hwrites)).trans (if_neg (Bool.eq_false_iff.1 hcomplete))

/-! ### MCAST and REDGRP (R350-R354) -/

section
variable {redgrp : Bool} {ws : List Word} {lg cohort fn : Nat} {d : CollDesc} (hws : s.run o e.1 e.2 o.selA 4 = ws)
  (hd : collDesc redgrp ws = d) (hlg : (s.me.wg.map (·.logical)).getD 0 = lg) (hcohort : (s.me.wg.map (·.cohort)).getD 0 = cohort)
  (hfn : (if redgrp then (o.mod.extractLsb' 0 3).toNat else 0) = fn)
  (hlegal : o.legalV (if redgrp then 0x105 else 0x104) 0 = true) (helems : o.elems = 4) (hread : Readable s o [(o.selA, 4)])
  (hdesc : collDescOk redgrp fn lg ws = true) (htrap : s.collTrap s.me e.2 d = none)
include hws hd hlg hcohort hfn hlegal helems hread hdesc htrap

/-- A collective whose group identifier is free, or taken by a REDGRP that it may join, starts. -/
theorem collOp_starts (hroom : (s.me.chan d.chan).full 1 = false)
    (huse : ∀ u, s.groupUse cohort d.group = some u → redgrp = true ∧ u.Takes lg d fn) :
    collOp redgrp o s = collStarted redgrp s o e := by
  simp only [collOp, htop, hws, hd, hlg, hcohort, hfn, hext, hlegal, helems, hdesc, htrap, hroom, hread.srcTraps, Option.isNone_none, Bool.and_self,
    beq_self_eq_true, State.illegalUnless_true, List.append_nil, List.isEmpty_nil, collStarted]
  cases hu : s.groupUse cohort d.group with
  | none => rfl
  | some u =>
    obtain ⟨hredgrp, htakes⟩ := huse u hu
    simp only [Option.any_some, htakes.joins hredgrp, htakes.agrees]
    rfl

/-- An MCAST waits for its group identifier. -/
theorem collOp_waits {u : GroupUse} (hmcast : redgrp = false) (huse : s.groupUse cohort d.group = some u) :
    collOp redgrp o s = s.holdFor .xferWait := by
  simp only [collOp, htop, hws, hd, hlg, hcohort, hfn, hext, hlegal, helems, hdesc, htrap, hread.srcTraps, huse, Option.isNone_none,
    Bool.and_self, beq_self_eq_true, State.illegalUnless_true, List.append_nil, List.isEmpty_nil]
  subst hmcast
  rfl

end
end

/-- Settles O26: a PUBLISH that may end does (`publish_eq`); a collective that passes its checks starts on a group identifier that is free or
its own to join (`collOp_starts`), and an MCAST waits for any other (`collOp_waits`). -/
theorem publishAndCollectives : Obligations.PublishAndCollectives := by
  unfold Obligations.PublishAndCollectives
  intro s o e htop hext k x r
  refine ⟨?_, fun redgrp => ?_⟩
  · intro hlegal hread id p run hissued hstate hfaults hready
    exact ⟨_, publish_eq htop hext rfl rfl hlegal hread hissued hstate hfaults hready, rfl⟩
  · intro opc i ws d fn hlegal helems hread hdesc htrap hroom
    have hexec : exec i s = .next (collOp redgrp o s) := by cases redgrp <;> rfl
    have hstarts := collOp_starts htop hext rfl rfl rfl rfl rfl hlegal helems hread hdesc htrap hroom
    refine ⟨fun hfree => ?_, fun u huse hmcast => ?_, fun u huse hredgrp hkind hmember hkept hnew htmask hety hlen hfn => ?_⟩
    · exact ⟨_, hexec.trans (congrArg _ (hstarts fun u hu => nomatch hfree.symm.trans hu)), rfl⟩
    · exact ⟨_, hexec.trans (congrArg _ (collOp_waits htop hext rfl rfl rfl rfl rfl hlegal helems hread hdesc htrap hmcast huse)), rfl⟩
    · refine ⟨_, hexec.trans (congrArg _ (hstarts fun v hv => ⟨hredgrp, ?_⟩)), rfl⟩
      cases huse.symm.trans hv
      exact ⟨hkind, hmember, hkept, hnew, htmask, hety, hlen, hfn⟩

end
end Sys2Proof.Machine
end

section
-- One proof after another, as in the sections before this one.
set_option Elab.async false

namespace Sys2Proof.Machine

/-! ### Keyed lists after many writes -/

section
variable {α : Type}

theorem tget_of_above {t : Tab α} {k : Nat} (h : ∀ e ∈ t, k < e.1) : tget t k = none := by
  induction t with
  | nil => rfl
  | cons e r ih =>
    obtain ⟨j, v⟩ := e
    obtain ⟨hj, hr⟩ := List.forall_mem_cons.1 h
    rw [tget, if_neg (Nat.ne_of_gt hj), ih hr]

/-- Of writes one after another, one to each key, each is what its key reads as. -/
theorem tget_foldl_tset_ne {bs : List (Nat × α)} {a : Nat} (h : ∀ b ∈ bs, b.1 ≠ a) (t : Tab α) :
    tget (bs.foldl (fun o b => tset o b.1 b.2) t) a = tget t a :=
  List.foldlRecOn (motive := fun o : Tab α => tget o a = tget t a) bs _ rfl fun _ ho b hb => (tget_tset_ne _ _ (h b hb).symm).trans ho

theorem tget_foldl_tset_mem {bs : List (Nat × α)} (h : (bs.map (·.1)).Nodup) {b : Nat × α} (hb : b ∈ bs) (t : Tab α) :
    tget (bs.foldl (fun o b => tset o b.1 b.2) t) b.1 = some b.2 := by
  induction bs generalizing t with
  | nil => cases hb
  | cons c bs ih =>
    obtain ⟨hc, hbs⟩ := List.nodup_cons.1 h
    obtain rfl | hb := List.mem_cons.1 hb
    · have hne : ∀ d ∈ bs, d.1 ≠ b.1 := fun d hd he => hc (List.mem_map.2 ⟨d, hd, he⟩)
      exact (tget_foldl_tset_ne hne _).trans (tget_tset_self ..)
    · exact ih hbs hb _

theorem rises_foldl_tset (bs : List (Nat × α)) {t : Tab α} (h : Rises t) : Rises (bs.foldl (fun o b => tset o b.1 b.2) t) :=
  List.foldlRecOn (motive := Rises) bs _ h fun _ ho b _ => ho.tset b.1 b.2

end

/-- A memory that takes the cells of a rising list reads as the list where it has a cell. -/
theorem Memory.cellAt_cellPuts_rising {t : Tab Byte} (h : Rises t) {m : List Host.Cell} (w : Memory.wf m) (a : Nat) :
    cellAt (cellPuts m t) a = (tget t a).getD (cellAt m a) := by
  induction t generalizing m with
  | nil => rfl
  | cons e r ih =>
    obtain ⟨j, v⟩ := e
    obtain ⟨hj, hr⟩ := List.pairwise_cons.1 h
    have hrest : cellAt (cellPuts m ((j, v) :: r)) a = (tget r a).getD (cellAt (cellPut m j v) a) := ih hr (Memory.wf_cellPut j v w)
    by_cases hja : j = a
    · subst hja
      rw [hrest, tget_of_above hj, Option.getD_none, Memory.cellAt_cellPut_self j v w, tget, if_pos rfl, Option.getD_some]
    · rw [hrest, Memory.cellAt_cellPut_ne m v (Ne.symm hja), tget, if_neg hja]

/-! ### What the slices and pillars read as (R181, R204) -/

/-- Every byte reads in q as in p, and the leases and writes of the lines are those of p. -/
structure Phys.Alike (p q : Phys) : Prop where
  raw : ∀ a, q.raw a = p.raw a
  lineKey : q.lineKey = p.lineKey
  lines : q.lines = p.lines

theorem Phys.Alike.byte {p q : Phys} (h : p.Alike q) (key : Option Nat) (a : Nat) : q.byte key a = p.byte key a := by
  rw [Phys.byte, h.lineKey, funext h.raw, Phys.byte]

/-- What a slice writes into the pillars reads as before (R204). -/
theorem Phys.alike_flush {p : Phys} (w : Memory.wf p.dram) (h : Rises p.overlay) (ok : Nat → Bool) :
    p.Alike (p.flush ok) := by
  refine ⟨fun a => ?_, rfl, rfl⟩
  show (tget (p.overlay.filter fun e => !ok e.1) a).getD (cellAt (cellPuts p.dram (p.overlay.filter fun e => ok e.1)) a) = _
  rw [Memory.cellAt_cellPuts_rising (List.Pairwise.filter _ h) w, tget_filter_key (fun a => !ok a), tget_filter_key ok, Phys.raw]
  cases ok a <;> simp

/-- A byte under a key follows from the stored bytes of its line. -/
theorem decryptByte_congr {f g : Nat → Byte} {a : Nat} (h : ∀ i, i / 128 = a / 128 → f i = g i) (lineKey key : Option Nat) :
    decryptByte f lineKey key a = decryptByte g lineKey key a := by
  have hblk : (List.range 16).map (fun i => f (16 * (a / 16) + i)) = (List.range 16).map fun i => g (16 * (a / 16) + i) :=
    List.map_congr_left fun i hi => h _ (by have := List.mem_range.1 hi; omega)
  unfold decryptByte
  split
  · dsimp only
    rw [h a rfl, hblk]
  · exact h a rfl

/-- Under the key of its line, under no key, or in a line that has none, a byte reads as it is stored. -/
theorem decryptByte_plain {f : Nat → Byte} {a : Nat} {lineKey key : Option Nat} (h : ∀ w r, lineKey = some w → key = some r → w = r) :
    decryptByte f lineKey key a = f a := by
  unfold decryptByte
  split
  next w r => exact if_pos (h w r rfl rfl)
  next => rfl

/-! #### A line takes a new key (R181) -/

/-- The bytes of a line as they read under a key. -/
def Phys.lineBytes (p : Phys) (l : Nat) (key : Option Nat) : List (Nat × Byte) :=
  (List.range 128).map fun i => (128 * l + i, p.byte key (128 * l + i))

section
variable (p : Phys) (l : Nat) (key : Option Nat)

theorem Phys.nodup_lineBytes : ((p.lineBytes l key).map (·.1)).Nodup := by
  rw [Phys.lineBytes, List.map_map]
  exact List.nodup_range.map fun i j h => Nat.add_left_cancel h

theorem Phys.mem_lineBytes {p : Phys} {l : Nat} {key : Option Nat} {b : Nat × Byte} (h : b ∈ p.lineBytes l key) : b.1 / 128 = l := by
  obtain ⟨i, hi, rfl⟩ := List.mem_map.1 h
  have := List.mem_range.1 hi
  show (128 * l + i) / 128 = l
  omega

theorem Phys.byte_mem_lineBytes (a : Nat) : (a, p.byte key a) ∈ p.lineBytes (a / 128) key :=
  List.mem_map.2 ⟨a % 128, List.mem_range.2 (Nat.mod_lt _ (by decide)), by rw [Nat.div_add_mod]⟩

/-- What a change of key can do: a line under that key, or no key, changes nothing; a line that has none takes the key; another takes the
key and the bytes that it reads as under it. -/
theorem Phys.rekey_cases : p.rekey l key = p ∧ (∀ k, key = some k → tget p.lineKey l = some k) ∨ ∃ k, key = some k ∧
    (tget p.lineKey l = none ∧ p.rekey l key = { p with lineKey := tset p.lineKey l k } ∨
      p.rekey l key = { p with overlay := (p.lineBytes l key).foldl (fun o b => tset o b.1 b.2) p.overlay, lineKey := tset p.lineKey l k }) := by
  unfold Phys.rekey
  cases key with
  | none => exact .inl ⟨rfl, fun _ h => nomatch h⟩
  | some k =>
    cases hw : tget p.lineKey l with
    | none => exact .inr ⟨k, rfl, .inl ⟨rfl, rfl⟩⟩
    | some w =>
      by_cases h : w = k
      · exact .inl ⟨if_pos h, fun _ hk => by rw [h, hk]⟩
      · dsimp only
        exact .inr ⟨k, rfl, .inr (if_neg h)⟩

theorem Phys.lines_rekey : (p.rekey l key).lines = p.lines := by
  obtain ⟨h, -⟩ | ⟨_, -, ⟨-, h⟩ | h⟩ := p.rekey_cases l key <;> rw [h]

theorem Phys.rises_rekey (hrise : Rises p.overlay) : Rises (p.rekey l key).overlay := by
  obtain ⟨h, -⟩ | ⟨_, -, ⟨-, h⟩ | h⟩ := p.rekey_cases l key <;> rw [h]
  · exact hrise
  · exact hrise
  · dsimp only
    exact rises_foldl_tset (p.lineBytes l key) hrise

/-- A line has the key that it took, and the others keep theirs. -/
theorem Phys.lineKey_rekey {k : Nat} (hk : key = some k) (j : Nat) :
    tget (p.rekey l key).lineKey j = if j = l then some k else tget p.lineKey j := by
  have hset : tget (tset p.lineKey l k) j = if j = l then some k else tget p.lineKey j := by
    split
    next h => rw [h, tget_tset_self]
    next h => exact tget_tset_ne _ _ h
  obtain ⟨h, hsame⟩ | ⟨k', hk', ⟨-, h⟩ | h⟩ := p.rekey_cases l key
  · rw [h]
    split
    next hj => rw [hj, hsame k hk]
    next => rfl
  · cases hk.symm.trans hk'
    rw [h, hset]
  · cases hk.symm.trans hk'
    rw [h, hset]

/-- Whatever line takes a key, every byte reads under it as before. -/
theorem Phys.byte_rekey (a : Nat) : (p.rekey l key).byte key a = p.byte key a := by
  obtain ⟨h, -⟩ | ⟨k, rfl, ⟨hnone, h⟩ | h⟩ := p.rekey_cases l key
  · rw [h]
  · rw [h, Phys.byte, Phys.byte]
    dsimp only
    by_cases ha : a / 128 = l
    · rw [ha, tget_tset_self, hnone, decryptByte_plain (by simp), decryptByte_plain (by simp)]
      rfl
    · rw [tget_tset_ne _ _ ha]
      rfl
  · rw [h, Phys.byte]
    dsimp only
    by_cases ha : a / 128 = l
    · subst ha
      rw [tget_tset_self, decryptByte_plain (by simp), Phys.raw]
      dsimp only
      rw [tget_foldl_tset_mem (p.nodup_lineBytes _ _) (p.byte_mem_lineBytes _ a) p.overlay, Option.getD_some]
    · rw [tget_tset_ne _ _ ha, Phys.byte]
      refine decryptByte_congr (fun i hi => ?_) _ _
      have hout : ∀ b ∈ p.lineBytes l (some k), b.1 ≠ i := fun b hb hbi => ha (by rw [← hi, ← hbi, Phys.mem_lineBytes hb])
      rw [Phys.raw, Phys.raw]
      dsimp only
      rw [tget_foldl_tset_ne hout p.overlay]

end

/-! #### A write reaches its home slice (R181, R207) -/

section
variable (p : Phys) (key : Option Nat) (bs : List (Nat × Byte))

/-- The lines of a write, under its key. -/
def Phys.rekeyed : Phys := (nodup (bs.map (·.1 / 128))).foldl (fun p l => p.rekey l key) p

theorem Phys.put_eq : p.put key bs = { p.rekeyed key bs with overlay := bs.foldl (fun o b => tset o b.1 b.2) (p.rekeyed key bs).overlay } := rfl

theorem Phys.lines_put : (p.put key bs).lines = p.lines := foldl_keeps Phys.lines (fun p l => p.lines_rekey l key) _ _

theorem Phys.rises_put (h : Rises p.overlay) : Rises (p.put key bs).overlay :=
  rises_foldl_tset bs (List.foldlRecOn (motive := fun q : Phys => Rises q.overlay) _ _ h fun q hq l _ => q.rises_rekey l key hq)

theorem Phys.lineKey_rekeyed {k : Nat} (hk : key = some k) {b : Nat × Byte} (hb : b ∈ bs) : tget (p.rekeyed key bs).lineKey (b.1 / 128) = some k :=
  foldl_establishes (fun l (q : Phys) => tget q.lineKey l = some k) (fun q l => (q.lineKey_rekey l key hk l).trans (if_pos rfl))
    (fun q j l h => (q.lineKey_rekey l key hk j).trans (by split <;> [rfl; exact h])) ((mem_nodup ..).2 (List.mem_map.2 ⟨b, hb, rfl⟩)) p

/-- The bytes of a write are stored, where it gives each one value. -/
theorem Phys.raw_put (h : (bs.map (·.1)).Nodup) : ∀ b ∈ bs, (p.put key bs).raw b.1 = b.2 := by
  intro b hb
  rw [Phys.put_eq, Phys.raw]
  exact congrArg (Option.getD · _) (tget_foldl_tset_mem h hb _)

/-- A write changes no other byte, as it reads under the key of the write. -/
theorem Phys.byte_put_ne {a : Nat} (h : ∀ b ∈ bs, b.1 ≠ a) : (p.put key bs).byte key a = p.byte key a := by
  have hkept : (p.rekeyed key bs).byte key a = p.byte key a := foldl_keeps (fun q : Phys => q.byte key a) (fun q l => q.byte_rekey l key a) _ _
  have hraw : ∀ i, (∀ b ∈ bs, b.1 ≠ i) → (p.put key bs).raw i = (p.rekeyed key bs).raw i := fun i hi => by
    rw [Phys.put_eq, Phys.raw, Phys.raw]
    exact congrArg (Option.getD · _) (tget_foldl_tset_ne hi _)
  rw [← hkept, Phys.byte, Phys.byte]
  show decryptByte _ (tget (p.rekeyed key bs).lineKey (a / 128)) key a = _
  by_cases hline : ∃ b ∈ bs, b.1 / 128 = a / 128
  · obtain ⟨b, hb, hba⟩ := hline
    have hown : ∀ w r, tget (p.rekeyed key bs).lineKey (a / 128) = some w → key = some r → w = r := fun w r hw hr =>
      Option.some.inj (hw.symm.trans (hba ▸ p.lineKey_rekeyed key bs hr hb))
    rw [decryptByte_plain hown, decryptByte_plain hown, hraw a h]
  · exact decryptByte_congr (fun i hi => hraw i fun b hb hbi => hline ⟨b, hb, hbi ▸ hi⟩) _ _

end

end Sys2Proof.Machine
end

section
-- One proof after another, as in the sections before this one.
set_option Elab.async false

namespace Sys2Proof.Machine

section
open Sys2Proof.Claims

/-! ### Lines (R207, R223) -/

section
variable (s : State) (l : Nat)

theorem State.line_modLine (f : Line → Line) : (s.modLine l f).line l = f (s.line l) := tgetD_tmod_self ..

theorem State.line_modLine_ne (f : Line → Line) {j : Nat} (h : j ≠ l) : (s.modLine l f).line j = s.line j := tgetD_tmod_ne _ _ _ h

/-- A line is what the table of lines gives. -/
theorem State.line_of_lines {s t : State} (h : t.phys.lines = s.phys.lines) (j : Nat) : t.line j = s.line j := by
  rw [State.line, h, State.line]

/-! ### A slice writes back, and a write is performed (R207, R223) -/

theorem State.phys_flushWhere (ok : Nat → Bool) : (s.flushWhere ok).phys = s.phys.flush ok :=
  foldl_keeps State.phys (fun s pa => by unfold State.bankAccess; split <;> rfl) _ (s.modPhys fun p => p.flush ok)

/-- A slice that gives up a line keeps what memory reads as. -/
theorem State.alike_spill (w : Memory.wf s.phys.dram) (h : Rises s.phys.overlay) :
    s.phys.Alike (s.spill l).phys := by
  have hsame : s.phys.Alike s.phys := ⟨fun _ => rfl, rfl, rfl⟩
  unfold State.spill
  dsimp only
  split
  · exact hsame
  · split
    · exact hsame
    · split
      · rw [State.phys_flushWhere]
        exact Phys.alike_flush w h _
      · exact hsame

/-- A line on which a write has been performed: its version, the tick and the latest writer (R212, R223). -/
def Line.wrote (n : Line) (w : PWrite) (tick : Nat) : Line :=
  { n with
    version := if w.bytes.isEmpty then n.version else (n.version + 1) % 2 ^ 32
    performed := tick
    writer := match w.owners.getLast? with
      | some (k, x, _) => if w.bytes.isEmpty then n.writer else some (k, x)
      | none => n.writer }

/-- A write at its home slice, before the slice gives up a line for it. -/
def State.written (s : State) (l : Nat) (w : PWrite) : State :=
  (s.modPhys fun p => { p.put w.key w.bytes with
    poison := if (List.range 128).all fun i => w.bytes.any fun b => b.1 == 128 * l + i then p.poison.filter (· != l) else p.poison }).modLine l
    (·.wrote w (s.gtc + 1))

theorem State.performWrite_eq (w : PWrite) : s.performWrite l w = match w.id with
    | some id => ((s.written l w).spill l).answered id (cycleUp (((s.written l w).spill l).now + cycleLen))
    | none => (s.written l w).spill l := rfl

theorem State.phys_performWrite (w : PWrite) : (s.performWrite l w).phys = ((s.written l w).spill l).phys := by
  rw [State.performWrite_eq]
  split <;> rfl

theorem State.now_performWrite (w : PWrite) : (s.performWrite l w).now = s.now := by
  have hspill : ((s.written l w).spill l).now = s.now := besideMemory_now.spill ..
  rw [State.performWrite_eq]
  split <;> exact hspill

/-- The result that awaits a write has it from the next cycle on. -/
theorem State.inflight_performWrite (w : PWrite) (k x : Nat) : ((s.performWrite l w).ctx k x).inflight = match w.id with
    | some id => (s.ctx k x).inflight.map (·.answer id (cycleUp (s.now + cycleLen)))
    | none => (s.ctx k x).inflight := by
  have hctx : ((s.written l w).spill l).ctx k x = s.ctx k x := (besideMemory_ctx k x).spill ..
  have hnow : ((s.written l w).spill l).now = s.now := besideMemory_now.spill ..
  rw [State.performWrite_eq]
  split
  · rw [State.ctx_answered, hctx, hnow]
    rfl
  · rw [hctx]

section
variable (hwf : Memory.wf s.phys.dram) (hrise : Rises s.phys.overlay) (w : PWrite)
include hwf hrise

/-- After a write memory reads as the write alone left it. -/
theorem State.alike_performWrite : (s.written l w).phys.Alike (s.performWrite l w).phys := by
  rw [State.phys_performWrite]
  exact (s.written l w).alike_spill l ((congrArg Memory.wf (s.phys.put_dram w.key w.bytes)).trans hwf) (s.phys.rises_put _ _ hrise)

theorem State.line_performWrite : (s.performWrite l w).line l = (s.line l).wrote w (s.gtc + 1) := by
  rw [State.line_of_lines (s.alike_performWrite l hwf hrise w).lines, State.written, State.line_modLine,
    State.line_of_lines (s := s) (s.phys.lines_put w.key w.bytes)]

theorem State.line_performWrite_ne {j : Nat} (hj : j ≠ l) : (s.performWrite l w).line j = s.line j := by
  rw [State.line_of_lines (s.alike_performWrite l hwf hrise w).lines, State.written, State.line_modLine_ne _ _ _ hj]
  exact State.line_of_lines (s.phys.lines_put w.key w.bytes) j

theorem State.raw_performWrite (hnd : (w.bytes.map (·.1)).Nodup) : ∀ b ∈ w.bytes, (s.performWrite l w).phys.raw b.1 = b.2 := fun b hb =>
  ((s.alike_performWrite l hwf hrise w).raw b.1).trans (s.phys.raw_put w.key w.bytes hnd b hb)

theorem State.byte_performWrite_ne {a : Nat} (h : ∀ b ∈ w.bytes, b.1 ≠ a) : (s.performWrite l w).phys.byte w.key a = s.phys.byte w.key a :=
  ((s.alike_performWrite l hwf hrise w).byte w.key a).trans (s.phys.byte_put_ne w.key w.bytes h)

end

/-! ### The next write of a line (R223) -/

theorem State.nextWrite_of_cons {w : PWrite} {r : List PWrite} (hw : (s.line l).waiting = w :: r) (hc : (s.line l).collapsing = false) :
    s.nextWrite l = s.schedule (tickTime (Nat.max (s.gtc + 1) (s.writeReady l w))) (.homeWritePerform l) := by
  rw [State.nextWrite, hw]
  exact if_neg (by rw [hc]; decide)

/-- Giving the next write its time changes the agenda alone. -/
theorem State.nextWrite_keeps {β : Type} (g : State → β) (hg : ∀ s t i, g (s.schedule t i) = g s) : g (s.nextWrite l) = g s := by
  unfold State.nextWrite
  split
  · split
    · rfl
    · exact hg ..
  · rfl

theorem State.nextWrite_later (hw : (s.line l).waiting ≠ []) (hc : (s.line l).collapsing = false) :
    ∃ at_, tickTime (s.gtc + 1) ≤ at_ ∧ (at_, Instr.homeWritePerform l) ∈ (s.nextWrite l).agenda := by
  obtain ⟨w, r, hwr⟩ := List.exists_cons_of_ne_nil hw
  rw [s.nextWrite_of_cons l hwr hc]
  exact ⟨_, Nat.mul_le_mul_right _ (Nat.le_max_left ..), (State.mem_schedule ..).2 (.inl rfl)⟩

end

/-! ### HOME_WRITE_PERFORM (R223) -/

section
variable {s : State} {l : Nat} {w : PWrite} {r : List PWrite} (hwait : (s.line l).waiting = w :: r) (hcollapse : (s.line l).collapsing = false)
include hwait hcollapse

theorem homeWritePerform_of_ready (hready : s.writeReady l w ≤ s.gtc) :
    exec (.homeWritePerform l) s = .next (((s.modLine l fun n => { n with waiting := r }).performWrite l w).nextWrite l) := by
  show execHomeWritePerform l s = _
  simp only [execHomeWritePerform, hwait, hcollapse, hready, Bool.false_eq_true, if_false, if_true]

/-- A write that waits for a lease is tried again when it has expired. -/
theorem homeWritePerform_of_leased (hready : s.gtc < s.writeReady l w) :
    exec (.homeWritePerform l) s = .next (s.schedule (tickTime (s.writeReady l w)) (.homeWritePerform l)) := by
  show execHomeWritePerform l s = _
  simp only [execHomeWritePerform, hwait, hcollapse, Nat.not_le.2 hready, Bool.false_eq_true, if_false]
  rw [s.nextWrite_of_cons l hwait hcollapse]
  exact congrArg (fun n => Host.Outcome.next (s.schedule (tickTime n) _)) (Nat.max_eq_right hready)

/-- The oldest waiting write of a line is performed once the leases on its bytes have expired (R223). -/
theorem homeWritePerform_completes (hready : s.writeReady l w ≤ s.gtc) (hnd : (w.bytes.map (·.1)).Nodup) (hwf : Memory.wf s.phys.dram = true)
    (hrise : Rises s.phys.overlay) :
    Completes (.homeWritePerform l) s fun t => (∀ b ∈ w.bytes, t.phys.raw b.1 = b.2) ∧
      (∀ a, (∀ b ∈ w.bytes, b.1 ≠ a) → t.phys.byte w.key a = s.phys.byte w.key a) ∧ (t.line l).waiting = r ∧
      (t.line l).version = (if w.bytes = [] then (s.line l).version else ((s.line l).version + 1) % 2 ^ 32) ∧
      (t.line l).performed = s.gtc + 1 ∧
      (∀ k x, (t.ctx k x).inflight = match w.id with
        | some id => (s.ctx k x).inflight.map (·.answer id (cycleUp (s.now + cycleLen)))
        | none => (s.ctx k x).inflight) ∧
      (∀ j, j ≠ l → t.line j = s.line j) ∧
      (r ≠ [] → ∃ at_, tickTime (s.gtc + 1) ≤ at_ ∧ (at_, Instr.homeWritePerform l) ∈ t.agenda) := by
  refine ⟨_, homeWritePerform_of_ready hwait hcollapse hready, ?_⟩
  let u := s.modLine l fun n => { n with waiting := r }
  have hu : u.line l = { s.line l with waiting := r } := s.line_modLine l _
  have hphys := (u.performWrite l w).nextWrite_keeps l State.phys fun _ _ _ => rfl
  have hline := u.line_performWrite l hwf hrise w
  have hgtc : (u.performWrite l w).gtc = s.gtc := congrArg (· / tickLen) (u.now_performWrite l w)
  have hlines := fun j => State.line_of_lines (congrArg Phys.lines hphys) j
  rw [hu] at hline
  refine ⟨fun b hb => ?_, fun a ha => ?_, ?_, ?_, ?_, fun k x => ?_, fun j hj => ?_, fun hr => ?_⟩
  · rw [hphys]
    exact u.raw_performWrite l hwf hrise w hnd b hb
  · rw [hphys]
    exact u.byte_performWrite_ne l hwf hrise w ha
  · rw [hlines, hline]
    rfl
  · rw [hlines, hline]
    simp only [Line.wrote, List.isEmpty_iff]
  · rw [hlines, hline]
    rfl
  · rw [(u.performWrite l w).nextWrite_keeps l (fun t => t.ctx k x) fun _ _ _ => rfl]
    exact u.inflight_performWrite l w k x
  · rw [hlines, u.line_performWrite_ne l hwf hrise w hj]
    exact s.line_modLine_ne l _ hj
  · rw [← hgtc]
    exact (u.performWrite l w).nextWrite_later l (by rw [hline]; exact hr) (by rw [hline]; exact hcollapse)

end

end
end Sys2Proof.Machine
end

section
-- One proof after another, as in the sections before this one.
set_option Elab.async false

namespace Sys2Proof.Machine

section
open Sys2Proof.Claims

/-! ### The collapse of a replicated line (R219) -/

/-- Messages sent one after another change what a reading that neither the agenda nor the free values touch does not see. -/
theorem State.foldl_message_keeps {β α : Type} {g : State → β} (hagenda : ∀ s t i, g (s.schedule t i) = g s) (hfree : ∀ s, g s.draw1.2 = g s)
    (f : α → Instr) (ks : List α) (s : State) : g (ks.foldl (fun s k => s.message (f k)) s) = g s :=
  foldl_keeps g (fun s k => (hagenda s.draw1.2 _ (f k)).trans (hfree s)) ks s

section
variable (s : State) (l : Nat)

/-- What a directory asks of the nodes that it records: the line awaits them, and a request to each is on its way. -/
def State.askNodes (s : State) (l : Nat) (node : Nat → CollapseNode) (ks : List Nat) : State :=
  ks.foldl (fun s k => s.message (.collapseRequest l (node k))) (s.modLine l fun n => { n with collapse := n.collapse ++ ks.map node })

theorem State.collapse_askNodes (node : Nat → CollapseNode) (ks : List Nat) :
    ((s.askNodes l node ks).line l).collapse = (s.line l).collapse ++ ks.map node := by
  have hkeeps := State.foldl_message_keeps (g := fun u : State => (u.line l).collapse) (fun _ _ _ => rfl) (fun _ => rfl)
    (fun k => .collapseRequest l (node k)) ks (s.modLine l fun n => { n with collapse := n.collapse ++ ks.map node })
  exact hkeeps.trans (congrArg Line.collapse (s.line_modLine l _))

theorem State.request_askNodes (node : Nat → CollapseNode) {ks : List Nat} {k : Nat} (hk : k ∈ ks) :
    ∃ at_, s.now < at_ ∧ (at_, Instr.collapseRequest l (node k)) ∈ (s.askNodes l node ks).agenda :=
  State.foldl_message_later (fun k => .collapseRequest l (node k)) hk (s.modLine l _)

theorem State.answer_answerUp (node : CollapseNode) :
    ∃ at_, s.now < at_ ∧ (at_, Instr.collapseAnswer l node) ∈ (s.answerUp l node).agenda := s.message_later _

/-- A directory without an entry answers, and another asks the nodes that it records. -/
def State.collapseAt (s : State) (l : Nat) (node : CollapseNode) (below : Nat → CollapseNode) (ks : List Nat) : State :=
  if ks.isEmpty then s.answerUp l node else s.askNodes l below ks

theorem State.collapseAt_post (node : CollapseNode) (below : Nat → CollapseNode) (ks : List Nat) :
    let t := s.collapseAt l node below ks
    (t.line l).collapse = (s.line l).collapse ++ ks.map below ∧
      (ks = [] → ∃ at_, s.now < at_ ∧ (at_, Instr.collapseAnswer l node) ∈ t.agenda) ∧
      ∀ k ∈ ks, ∃ at_, s.now < at_ ∧ (at_, Instr.collapseRequest l (below k)) ∈ t.agenda := by
  cases ks with
  | nil => exact ⟨(List.append_nil _).symm, fun _ => s.answer_answerUp l node, fun _ h => nomatch h⟩
  | cons k ks => exact ⟨s.collapse_askNodes l below _, fun h => (nomatch h), fun j hj => s.request_askNodes l below hj⟩

theorem collapseRequest_package :
    exec (.collapseRequest l .package) s = .next (s.collapseAt l .package .die (tgetD s.phys.pkgDir l [])) :=
  (apply_ite Host.Outcome.next ..).symm

theorem collapseRequest_die (d : Nat) :
    exec (.collapseRequest l (.die d)) s = .next (s.collapseAt l (.die d) .replica (s.clustersOn l d)) :=
  (apply_ite Host.Outcome.next ..).symm

/-! #### Replicas -/

theorem State.replicaOf_modReplicas (f : List Replica → List Replica) (c : Nat) :
    (s.modPhys fun p => { p with replicas := tmod p.replicas l [] f }).replicaOf l c =
      (f (tgetD s.phys.replicas l [])).find? (·.cluster == c) :=
  congrArg (List.find? _) (tgetD_tmod_self ..)

theorem collapseRequest_replica {c : Nat} {r : Replica} (hr : s.replicaOf l c = some r) : exec (.collapseRequest l (.replica c)) s = .next (
    if r.expiry ≤ s.gtc then
      (s.modPhys fun p => { p with replicas := tmod p.replicas l [] (·.filter fun r => r.cluster != c) }).answerUp l (.replica c)
    else (s.modPhys fun p => { p with replicas := tmod p.replicas l [] (·.map fun r =>
        if r.cluster == c then { r with pending := true } else r) }).schedule (tickTime r.expiry) (.collapseRequest l (.replica c))) := by
  show execCollapseRequest l (.replica c) s = _
  rw [execCollapseRequest, hr]
  exact (apply_ite Host.Outcome.next ..).symm

theorem find?_filter_cluster_ne (rs : List Replica) (c : Nat) : (rs.filter fun r => r.cluster != c).find? (·.cluster == c) = none := by
  simp [List.find?_eq_none]

theorem find?_map_pending {rs : List Replica} {c : Nat} {r : Replica} (h : rs.find? (·.cluster == c) = some r) :
    (rs.map fun r => if r.cluster == c then { r with pending := true } else r).find? (·.cluster == c) = some { r with pending := true } := by
  have hcluster : ((fun r : Replica => r.cluster == c) ∘ fun r => if r.cluster == c then { r with pending := true } else r) =
      fun r => r.cluster == c := by
    funext r
    simp only [Function.comp_apply]
    split <;> rfl
  rw [List.find?_map, hcluster, h, Option.map_some, if_pos (List.find?_some h)]

/-- A replica leaves its slice once its leases have expired; till then it grants none, and the request comes again (R219, step 4). -/
theorem collapseRequest_replica_completes {c : Nat} {r : Replica} (hr : s.replicaOf l c = some r) :
    (r.expiry ≤ s.gtc → Completes (.collapseRequest l (.replica c)) s fun t => t.replicaOf l c = none ∧
      ∃ at_, s.now < at_ ∧ (at_, Instr.collapseAnswer l (.replica c)) ∈ t.agenda) ∧
    (s.gtc < r.expiry → Completes (.collapseRequest l (.replica c)) s fun t => t.replicaOf l c = some { r with pending := true } ∧
      (tickTime r.expiry, Instr.collapseRequest l (.replica c)) ∈ t.agenda) := by
  refine ⟨fun hexpired => ⟨_, (collapseRequest_replica s l hr).trans (congrArg _ (if_pos hexpired)), ?_, State.answer_answerUp _ l _⟩,
    fun hleased => ⟨_, (collapseRequest_replica s l hr).trans (congrArg _ (if_neg (Nat.not_le.2 hleased))), ?_,
      (State.mem_schedule ..).2 (.inl rfl)⟩⟩
  · exact (s.replicaOf_modReplicas l _ c).trans (find?_filter_cluster_ne ..)
  · exact (s.replicaOf_modReplicas l _ c).trans (find?_map_pending hr)

/-! #### Answers (R219, steps 5 and 6) -/

/-- The line no longer awaits a node. -/
def State.heard (s : State) (l : Nat) (node : CollapseNode) : State :=
  s.modLine l fun n => { n with collapse := n.collapse.filter (· != node) }

theorem State.collapse_heard {node : CollapseNode} (h : (s.line l).collapse = [node]) : ((s.heard l node).line l).collapse = [] := by
  rw [State.heard, State.line_modLine, h]
  simp

theorem collapseAnswer_package : exec (.collapseAnswer l .package) s =
    .next (((s.heard l .package).modLine l fun n => { n with collapsing := false }).nextWrite l) := rfl

theorem collapseAnswer_die {d : Nat} (h : (s.line l).collapse = [.die d]) : exec (.collapseAnswer l (.die d)) s =
    .next (((s.heard l (.die d)).modPhys fun p => { p with pkgDir := tdel p.pkgDir l, replicas := tdel p.replicas l }).answerUp l .package) := by
  have hleft := s.collapse_heard l h
  rw [State.heard] at hleft ⊢
  show execCollapseAnswer l (.die d) s = _
  rw [execCollapseAnswer, hleft]
  rfl

theorem collapseAnswer_replica {c : Nat} (h : (s.line l).collapse = [.replica c]) : exec (.collapseAnswer l (.replica c)) s =
    .next (((s.heard l (.replica c)).modPhys fun p => { p with
      dieDir := (tmod p.dieDir l [] (·.filter fun c' => dieOfCluster c' != dieOfCluster c)).filter fun e => !e.2.isEmpty }).answerUp l
        (.die (dieOfCluster c))) := by
  have hleft := s.collapse_heard l h
  rw [State.heard] at hleft ⊢
  show execCollapseAnswer l (.replica c) s = _
  rw [execCollapseAnswer, hleft]
  rfl

/-- A directory that drops its empty entries answers as before. -/
theorem tgetD_filter_nonempty {t : Tab (List Nat)} (h : Rises t) (k : Nat) :
    tgetD (t.filter fun e => !e.2.isEmpty) k [] = tgetD t k [] := by
  induction t with
  | nil => rfl
  | cons e r ih =>
    obtain ⟨j, v⟩ := e
    obtain ⟨hj, hr⟩ := List.pairwise_cons.1 h
    have hrest := ih hr
    by_cases hk : j = k
    · subst hk
      cases v with
      | nil => simpa [tgetD, tget, tget_of_above hj] using hrest
      | cons c v => simp [tgetD, tget]
    · cases v with
      | nil => simpa [tgetD, tget, hk] using hrest
      | cons c v => simpa [tgetD, tget, hk] using hrest

theorem collapseAnswer_package_completes : Completes (.collapseAnswer l .package) s fun t => (t.line l).collapsing = false ∧
    (t.line l).waiting = (s.line l).waiting ∧
    ((s.line l).waiting ≠ [] → ∃ at_, tickTime (s.gtc + 1) ≤ at_ ∧ (at_, Instr.homeWritePerform l) ∈ t.agenda) := by
  refine ⟨_, collapseAnswer_package s l, ?_⟩
  generalize hu : (s.heard l .package).modLine l (fun n => { n with collapsing := false }) = u
  have hcollapsing : (u.line l).collapsing = false := by rw [← hu, State.line_modLine]
  have hwaiting : (u.line l).waiting = (s.line l).waiting := by rw [← hu, State.line_modLine, State.heard, State.line_modLine]
  have hgtc : u.gtc = s.gtc := hu ▸ rfl
  have hkeeps := u.nextWrite_keeps l (fun t => t.line l) fun _ _ _ => rfl
  refine ⟨(congrArg Line.collapsing hkeeps).trans hcollapsing, (congrArg Line.waiting hkeeps).trans hwaiting, fun hw => ?_⟩
  rw [← hgtc]
  exact u.nextWrite_later l (hwaiting.trans_ne hw) hcollapsing

theorem collapseAnswer_die_completes {d : Nat} (h : (s.line l).collapse = [.die d]) : Completes (.collapseAnswer l (.die d)) s fun t =>
    t.replicated l = false ∧ (∀ c, t.replicaOf l c = none) ∧ (t.line l).collapse = [] ∧
      ∃ at_, s.now < at_ ∧ (at_, Instr.collapseAnswer l .package) ∈ t.agenda := by
  refine ⟨_, collapseAnswer_die s l h, ?_, fun c => ?_, s.collapse_heard l h, State.answer_answerUp _ l _⟩
  · exact congrArg Option.isSome ((tget_tdel ..).trans (if_pos rfl))
  · have hnone : tgetD (tdel s.phys.replicas l) l [] = [] := congrArg (Option.getD · []) ((tget_tdel ..).trans (if_pos rfl))
    exact congrArg (List.find? _) hnone

theorem collapseAnswer_replica_completes {c : Nat} (h : (s.line l).collapse = [.replica c])
    (hrise : Rises s.phys.dieDir) : Completes (.collapseAnswer l (.replica c)) s fun t =>
    t.clustersOn l (dieOfCluster c) = [] ∧ (t.line l).collapse = [] ∧
      ∃ at_, s.now < at_ ∧ (at_, Instr.collapseAnswer l (.die (dieOfCluster c))) ∈ t.agenda := by
  refine ⟨_, collapseAnswer_replica s l h, ?_, s.collapse_heard l h, State.answer_answerUp _ l _⟩
  have hdir := (tgetD_filter_nonempty (hrise.tset l ((tgetD s.phys.dieDir l []).filter fun c' => dieOfCluster c' != dieOfCluster c)) l).trans
    (tgetD_tset_self ..)
  refine (congrArg (List.filter fun c' => dieOfCluster c' == dieOfCluster c) hdir).trans ?_
  simp [List.filter_eq_nil_iff]

end

/-! ### Promotions, combined stores and range entries (R212, R220, R228) -/

/-- A fence no longer waits for the promotion of a line. -/
def State.promoted (s : State) (k x l : Nat) : State :=
  s.modCtx k x fun c => { c with fence := c.fence.map fun f => { f with prom := f.prom.filter (· != l) } }

section
variable {s : State} {l : Nat} (k x : Nat)

theorem promotionRequest_of_no_writer (h : (s.line l).writer = none ∨ ∃ w, (s.line l).writer = some w ∧ (s.ctx w.1 w.2).state ≠ .active) :
    exec (.promotionRequest k x l) s = .next (s.promoted k x l) := by
  show execPromotionRequest k x l s = _
  obtain hnone | ⟨w, hw, hstate⟩ := h
  · rw [execPromotionRequest, hnone]
    rfl
  · rw [execPromotionRequest, hw]
    exact if_pos (bne_iff_ne.2 hstate)

theorem promotionRequest_of_writer {w : Nat × Nat} (hw : (s.line l).writer = some w) (hstate : (s.ctx w.1 w.2).state = .active) :
    exec (.promotionRequest k x l) s = .next (let r := s.releaseStart w.1 w.2 0 7
      if r.releaseReady w.1 w.2 7 then r.promoted k x l else r.schedule (tickTime (r.gtc + 1)) (.promotionRequest k x l)) := by
  have hactive : ¬((s.ctx w.1 w.2).state != .active) = true := by simp [hstate]
  show execPromotionRequest k x l s = _
  rw [execPromotionRequest, hw]
  exact (if_neg hactive).trans (apply_ite Host.Outcome.next ..).symm

end

section
variable {s : State} {c l : Nat} {e : WcbEntry} (he : s.wcbEntry c l = some e)
include he

theorem wcbSend_of_due (hdue : e.since + 64 ≤ s.gtc) : exec (.wcbSend c l) s = .next
    ((s.modCluster c fun cl => { cl with wcb := tdel cl.wcb l }).homeArrive l { bytes := e.bytes, key := e.key, owners := e.owners }) := by
  show execWcbSend c l s = _
  rw [execWcbSend, he]
  dsimp only
  rw [if_pos hdue, State.sendWcb, he]

theorem wcbSend_of_young (hyoung : s.gtc < e.since + 64) : exec (.wcbSend c l) s = .next s := by
  show execWcbSend c l s = _
  rw [execWcbSend, he]
  dsimp only
  rw [if_neg (Nat.not_le.2 hyoung)]

end

/-- An entry that has been sent is not in the buffer. -/
theorem State.wcbEntry_sent (s : State) (c l : Nat) {w : PWrite} (hw : w.id = none) :
    ((s.modCluster c fun cl => { cl with wcb := tdel cl.wcb l }).homeArrive l w).wcbEntry c l = none := by
  have hsame : ((s.modCluster c fun cl => { cl with wcb := tdel cl.wcb l }).homeArrive l w).clusters = _ := besideMemory_clusters.homeArrive _ l hw
  rw [State.wcbEntry, State.cluster, hsame]
  show tget (State.cluster _ c).wcb l = none
  rw [State.cluster_modCluster, tget_tdel, if_pos rfl]

theorem rangeEntryExpiry_eq (s : State) (slice i : Nat) : exec (.rangeEntryExpiry slice i) s =
    .next (s.modPhys fun p => { p with ranges := p.ranges.filter fun r => r.slice != slice || s.gtc < r.expiry }) := rfl

theorem mem_ranges_expired (rs : List RangeEntry) (slice gtc : Nat) (r : RangeEntry) :
    (r ∈ rs.filter fun r => r.slice != slice || gtc < r.expiry) ↔ r ∈ rs ∧ (r.slice ≠ slice ∨ gtc < r.expiry) := by
  simp

end
end Sys2Proof.Machine
end

section
-- One proof after another, as in the sections before this one.
set_option Elab.async false

namespace Sys2Proof.Machine

section
open Sys2Proof.Claims

/-! ### What a grant of a lease leaves alone (R218, R221, R228) -/

/-- Leases may have been granted: cores, and the versions of lines, are as they were. -/
structure State.Leases (s t : State) : Prop where
  cores : t.cores = s.cores
  version : ∀ j, (t.line j).version = (s.line j).version

section
variable {s t : State}

theorem State.Leases.refl (s : State) : s.Leases s := ⟨rfl, fun _ => rfl⟩

theorem State.Leases.ctx (h : s.Leases t) (k x : Nat) : t.ctx k x = s.ctx k x := by
  rw [State.ctx, State.core, h.cores, State.ctx, State.core]

variable (h : s.Leases t)
include h

theorem State.Leases.draw1 : s.Leases t.draw1.2 := ⟨h.cores, h.version⟩

theorem State.Leases.schedule (n : Nat) (i : Instr) : s.Leases (t.schedule n i) := ⟨h.cores, h.version⟩

theorem State.Leases.modPhys {f : Phys → Phys} (hf : (f t.phys).lines = t.phys.lines) : s.Leases (t.modPhys f) :=
  ⟨h.cores, fun j => (congrArg Line.version (State.line_of_lines (s := t) hf j)).trans (h.version j)⟩

theorem State.Leases.modLine {l : Nat} {f : Line → Line} (hf : ∀ n, (f n).version = n.version) : s.Leases (t.modLine l f) := by
  refine ⟨h.cores, fun j => ?_⟩
  by_cases hj : j = l
  · rw [hj, State.line_modLine, hf, h.version]
  · rw [State.line_modLine_ne _ _ _ hj, h.version]

theorem State.Leases.evictReplica (l c : Nat) : s.Leases (t.evictReplica l c) := by
  unfold State.evictReplica
  exact h.modPhys rfl

theorem State.Leases.leaseReplica (l c n : Nat) : s.Leases (t.leaseReplica l c n) := by
  unfold State.leaseReplica
  exact h.modPhys rfl

theorem State.Leases.replicaRoom (l c : Nat) : ∀ u ∈ t.replicaRoom l c, s.Leases u := by
  unfold State.replicaRoom
  intro u hu
  dsimp only at hu
  split at hu
  · cases hu
    exact h
  · obtain ⟨e, -, rfl⟩ := Option.map_eq_some_iff.1 hu
    exact h.draw1.evictReplica e.1 e.2

theorem State.Leases.addReplica (l c : Nat) : ∀ u ∈ t.addReplica l c, s.Leases u := by
  unfold State.addReplica
  intro u hu
  dsimp only at hu
  split at hu
  · cases hu
  · cases hu
    exact h.modPhys rfl

theorem State.Leases.grant (k l : Nat) (rm : Bool) : s.Leases (t.grant k l rm).2 := by
  have hite : ∀ {p : Prop} [Decidable p] {a b : Nat × State}, s.Leases a.2 → s.Leases b.2 → s.Leases (if p then a else b).2 := by
    intro p _ a b ha hb
    split
    · exact ha
    · exact hb
  have hhome : ∀ {p : Prop} [Decidable p] {n : Nat},
      s.Leases (if p then (0, t) else (n, t.modLine l fun m => { m with expiry := Nat.max m.expiry n })).2 :=
    hite h (h.modLine fun _ => rfl)
  unfold State.grant
  refine hite ?_ hhome
  split
  · exact hite h (h.leaseReplica ..)
  · refine hite h ?_
    split
    next e =>
      obtain ⟨r, hr, ht⟩ := Option.bind_eq_some_iff.1 e
      exact ((h.replicaRoom _ _ r hr).addReplica _ _ _ ht).leaseReplica ..
    next => exact hhome

theorem State.Leases.grantRange (k l base : Nat) (d : Word) : ∀ g ∈ t.grantRange k l base d, s.Leases g.2 := by
  unfold State.grantRange
  intro g hg
  dsimp only at hg
  split at hg
  · cases hg
  · split at hg
    · cases hg
      dsimp only
      exact h.modPhys rfl
    · split at hg
      · cases hg
        dsimp only
        refine State.Leases.schedule ?_ _ _
        exact h.modPhys rfl
      · cases hg

end

theorem State.leases_grantAgain (s : State) (k l : Nat) (range : Option (Nat × Word)) : s.Leases (s.grantAgain k l range).2.2 := by
  unfold State.grantAgain
  split
  next g hg =>
    obtain ⟨r, -, hr⟩ := Option.bind_eq_some_iff.1 hg
    obtain ⟨g', hg', rfl⟩ := Option.map_eq_some_iff.1 hr
    exact (State.Leases.refl s).grantRange k l r.1 r.2 g' hg'
  next => exact (State.Leases.refl s).grant ..

/-! ### A renewed line of an L1 (R221, R224) -/

section
variable {s : State} {k l : Nat} {e : L1Line} (he : tget (s.core k).l1 l = some e) (range : Option (Nat × Word))
include he

/-- What the L1 keeps of a line whose renewal is answered. -/
theorem State.renewLine_l1 :
    let g := s.grantAgain k l range
    (g.2.1 ≠ 0 → tget ((s.renewLine k l range).core k).l1 l = some { e with
      e := g.2.1, version := (s.line l).version, mask := g.1
      data := if (s.line l).version = e.version then e.data else g.2.2.lineCells k l (some e.key) }) ∧
    (g.2.1 = 0 → tget ((s.renewLine k l range).core k).l1 l = none) := by
  intro g
  have hversion : (g.2.2.line l).version = (s.line l).version := (s.leases_grantAgain k l range).version l
  have hrenew : s.renewLine k l range = if g.2.1 = 0 then g.2.2.modCore k fun c => { c with l1 := tdel c.l1 l }
      else g.2.2.modCore k fun c => { c with l1 := tset c.l1 l { e with
        e := g.2.1, version := (g.2.2.line l).version, mask := g.1
        data := if (g.2.2.line l).version == e.version then e.data else g.2.2.lineCells k l (some e.key) } } := by
    rw [State.renewLine, he]
  rw [hrenew, hversion]
  refine ⟨fun hgrant => ?_, fun hnone => ?_⟩
  · rw [if_neg hgrant, State.core_modCore]
    simp only [tget_tset_self, beq_iff_eq]
  · rw [if_pos hnone, State.core_modCore]
    exact (tget_tdel ..).trans (if_pos rfl)

end

theorem State.ctx_renewLine (s : State) (k l : Nat) (range : Option (Nat × Word)) (j x : Nat) : (s.renewLine k l range).ctx j x = s.ctx j x := by
  unfold State.renewLine
  split
  · rfl
  · dsimp only
    split <;> rw [State.ctx_modCore_keeps fun _ => by rfl, (s.leases_grantAgain k l range).ctx]

/-! ### Windows and replays (R224-R226) -/

/-- A window with no load before the bundle to which it goes back is gone. -/
theorem Spec.cut_of_late {sp : Spec} {b : Nat} (h : ∀ l ∈ sp.loads, b ≤ l.bundle) : sp.cut b = none := by
  have hnone : sp.loads.filter (fun l => l.bundle < b) = [] := List.filter_eq_nil_iff.2 fun l hl => by simpa using h l hl
  simp only [Spec.cut, hnone, List.isEmpty_nil, if_true]

theorem Ctx.closeWindow_of_none {c : Ctx} (h : c.spec = none) : c.closeWindow = c := by
  rw [Ctx.closeWindow, h]

/-- A window whose every load has matched is gone, and what its bundles left is speculative no more. -/
theorem Ctx.closeWindow_of_matched {c : Ctx} {sp : Spec} (h : c.spec = some sp) (hall : ∀ l ∈ sp.loads, l.answer = some true) :
    c.closeWindow = { c with
      spec := none, inflight := c.inflight.map fun l => { l with spec := none }
      late := c.late.map fun l => { l with spec := none } } := by
  have hmatched : (sp.loads.all fun l => l.answer == some true) = true := List.all_eq_true.2 fun l hl => beq_iff_eq.2 (hall l hl)
  rw [Ctx.closeWindow, h]
  exact if_pos hmatched

/-- A replay to the earliest load of a window puts the group where that load stood, and of the results on their way keeps the older ones. -/
theorem Ctx.replay_fields (c : Ctx) {sp : Spec} {ld : SpecLoad} (h : ∀ l ∈ sp.loads, ld.bundle ≤ l.bundle) :
    let d := (c.replay sp ld).closeWindow
    d.group = some ld.group ∧ d.latches = ld.latches ∧ d.delays = List.replicate 4 .replay ∧ d.spec = none ∧ d.shadows = [] ∧
      ∀ r ∈ d.inflight, beforeBundle ld.bundle r.spec = true := by
  have hspec : (c.replay sp ld).spec = none := Spec.cut_of_late h
  rw [Ctx.closeWindow_of_none hspec]
  exact ⟨rfl, rfl, rfl, hspec, rfl, fun r hr => (List.mem_filter.1 hr).2⟩

/-! ### RENEWAL_ANSWER (R224, R226) -/

section
variable {s : State} {k x l : Nat}

/-- The range of the load of a context that a renewal of a line is for. -/
def Ctx.renewedRange (c : Ctx) (l : Nat) : Option (Nat × Word) :=
  (((c.spec.map (·.loads)).getD []).find? fun d => d.line == l && d.answer.isNone).bind (·.range)

/-- A window of one load, which has its answer. -/
def Spec.answered (sp : Spec) (ld : SpecLoad) (matched : Bool) : Spec := { sp with loads := [{ ld with answer := some matched }] }

/-- After the line is renewed the answer changes its context alone. -/
theorem renewalAnswer_l1 : Completes (.renewalAnswer k x l) s fun t =>
    (t.core k).l1 = ((s.renewLine k l ((s.ctx k x).renewedRange l)).core k).l1 := by
  have hctx : ∀ (u : State) f, ((u.modCtx k x f).core k).l1 = (u.core k).l1 := fun u f => by rw [State.core_modCtx, Core.modCtx]
  show ∃ t, execRenewalAnswer k x l s = _ ∧ _
  rw [execRenewalAnswer]
  dsimp only
  split
  · exact ⟨_, rfl, rfl⟩
  · split
    · exact ⟨_, rfl, hctx ..⟩
    · exact ⟨_, rfl, hctx ..⟩

/-- The one load of a window has its answer: the window is over, by a replay when the version has changed. -/
theorem renewalAnswer_of_window {sp : Spec} {ld : SpecLoad} (hspec : (s.ctx k x).spec = some sp) (hloads : sp.loads = [ld])
    (hline : ld.line = l) (hanswer : ld.answer = none) {matched : Bool} (hmatched : (ld.version == (s.line l).version) = matched) :
    exec (.renewalAnswer k x l) s = .next ((s.renewLine k l ((s.ctx k x).renewedRange l)).modCtx k x fun c =>
      if matched then Ctx.closeWindow { c with spec := some (sp.answered ld true) }
      else (c.replay (sp.answered ld false) { ld with answer := some false }).closeWindow) := by
  have hmine : (ld.line == l && ld.answer.isNone) = true := by simp [hline, hanswer]
  show execRenewalAnswer k x l s = _
  rw [execRenewalAnswer]
  dsimp only
  rw [State.ctx_renewLine, hspec]
  dsimp only
  rw [hloads, List.map_singleton, if_pos hmine]
  rw [hmatched]
  cases matched <;> simp [Ctx.renewedRange, Spec.answered, hspec, hloads]

/-- A load whose line has changed replays its group (R226); one whose line has not ends the window (R224). -/
theorem renewalAnswer_window_completes {sp : Spec} {ld : SpecLoad} (hspec : (s.ctx k x).spec = some sp) (hloads : sp.loads = [ld])
    (hline : ld.line = l) (hanswer : ld.answer = none) :
    (ld.version ≠ (s.line l).version → Completes (.renewalAnswer k x l) s fun t => (t.ctx k x).group = some ld.group ∧
      (t.ctx k x).latches = ld.latches ∧ (t.ctx k x).delays = List.replicate 4 .replay ∧ (t.ctx k x).spec = none ∧
      (t.ctx k x).shadows = [] ∧ ∀ h ∈ (t.ctx k x).inflight, beforeBundle ld.bundle h.spec = true) ∧
    (ld.version = (s.line l).version → Completes (.renewalAnswer k x l) s fun t => (t.ctx k x).group = (s.ctx k x).group ∧
      (t.ctx k x).threads = (s.ctx k x).threads ∧ (t.ctx k x).spec = none) := by
  refine ⟨fun hstale => ⟨_, renewalAnswer_of_window hspec hloads hline hanswer (beq_eq_false_iff_ne.2 hstale), ?_⟩,
    fun hsame => ⟨_, renewalAnswer_of_window hspec hloads hline hanswer (beq_iff_eq.2 hsame), ?_⟩⟩
  · beta_reduce
    rw [State.ctx_modCtx]
    exact Ctx.replay_fields _ fun r hr => by rw [List.mem_singleton.1 hr]
  · beta_reduce
    rw [State.ctx_modCtx, if_pos rfl, Ctx.closeWindow_of_matched rfl, State.ctx_renewLine]
    · exact ⟨rfl, rfl, rfl⟩
    · intro r hr
      rw [List.mem_singleton.1 hr]

end

/-- Settles O45, event by event: a write at home is read off what `State.performWrite` leaves memory as (`State.alike_performWrite`,
`Phys.byte_put_ne`); collapses by the nodes that they ask or hear from; a renewal grants a lease, which changes no version and no context
(`State.Leases`), and then closes the window or replays it (`renewalAnswer_of_window`). -/
theorem slicesAndLeases : Obligations.SlicesAndLeases := by
  unfold Obligations.SlicesAndLeases
  intro s l n
  refine ⟨?_, fun w r hw hc hleased => ?_, fun dies hdies => ?_, fun d => ?_, fun c r hr => ?_, ?_, fun d hd => ?_, fun c hc hrise => ?_,
    fun k x f hf hwriter => ?_, fun k x w hw hstate => ?_, fun c e he => ⟨fun hdue => ?_, fun hyoung => ?_⟩, fun slice i => ?_,
    fun k x e he => ?_⟩
  · exact fun w r hw hc hready hnd hwf hrise => homeWritePerform_completes hw hc hready hnd hwf hrise
  · exact ⟨_, homeWritePerform_of_leased hw hc hleased, rfl, (State.mem_schedule ..).2 (.inl rfl)⟩
  · subst hdies
    exact ⟨_, collapseRequest_package s l, s.collapseAt_post l _ _ _⟩
  · exact ⟨_, collapseRequest_die s l d, s.collapseAt_post l _ _ _⟩
  · exact collapseRequest_replica_completes s l hr
  · exact collapseAnswer_package_completes s l
  · exact collapseAnswer_die_completes s l hd
  · exact collapseAnswer_replica_completes s l hc hrise
  · refine ⟨_, promotionRequest_of_no_writer k x hwriter, ?_, rfl⟩
    rw [State.promoted, State.ctx_modCtx, hf]
    rfl
  · have hexec := promotionRequest_of_writer k x hw hstate
    exact ⟨fun hwait => ⟨_, hexec.trans (congrArg _ (if_neg (by simp [hwait]))), rfl⟩,
      fun hready => ⟨_, hexec.trans (congrArg _ (if_pos hready)), rfl⟩⟩
  · exact ⟨_, wcbSend_of_due he hdue, s.wcbEntry_sent c l rfl, rfl⟩
  · exact ⟨_, wcbSend_of_young he hyoung, rfl⟩
  · exact ⟨_, rangeEntryExpiry_eq s slice i, mem_ranges_expired _ slice s.gtc⟩
  · intro range g
    obtain ⟨t, hexec, hl1⟩ := renewalAnswer_l1 (s := s) (k := k) (x := x) (l := l)
    obtain ⟨hgranted, hnone⟩ := State.renewLine_l1 he ((s.ctx k x).renewedRange l)
    rw [← hl1] at hgranted hnone
    exact ⟨fun h => ⟨t, hexec, hgranted h⟩, fun h => ⟨t, hexec, hnone h⟩,
      fun sp ld hspec hloads hline hanswer => renewalAnswer_window_completes hspec hloads hline hanswer⟩

end
end Sys2Proof.Machine
end

section
-- One proof after another, as in the sections before this one.
set_option Elab.async false

namespace Sys2Proof

section
open BitVec

/-! ### The fields of a bundle header and of an op word (R293, R295) -/

section
variable (h : Header)


theorem Header.ofWord_word : Header.ofWord h.word = h := by
  have hp : h.word.extractLsb' 24 8 = h.p := extractLsb'_append_eq_left
  have hl : h.word.extractLsb' 16 8 = h.l := by
    refine (extractLsb'_append_eq_of_add_le (by decide)).trans ?_
    exact extractLsb'_append_eq_left
  have hstop : h.word.getLsbD 15 = h.stop := by
    iterate 2 refine (getLsbD_append.trans (if_pos (by decide))).trans ?_
    exact (getLsbD_append.trans (if_neg (by decide))).trans (getLsbD_ofBool ..)
  have hb : h.word.getLsbD 14 = h.b := by
    iterate 3 refine (getLsbD_append.trans (if_pos (by decide))).trans ?_
    exact (getLsbD_append.trans (if_neg (by decide))).trans (getLsbD_ofBool ..)
  have hq : h.word.getLsbD 13 = h.q := by
    iterate 4 refine (getLsbD_append.trans (if_pos (by decide))).trans ?_
    exact (getLsbD_append.trans (if_neg (by decide))).trans (getLsbD_ofBool ..)
  have hrows : h.word.extractLsb' 8 4 = h.rows := by
    iterate 6 refine (extractLsb'_append_eq_of_add_le (by decide)).trans ?_
    exact extractLsb'_append_eq_left
  have hcols : h.word.extractLsb' 4 4 = h.cols := by
    iterate 7 refine (extractLsb'_append_eq_of_add_le (by decide)).trans ?_
    exact extractLsb'_append_eq_left
  simp only [Header.ofWord, hp, hl, hstop, hb, hq, hrows, hcols]

theorem Header.word_zeros : h.word.getLsbD 12 = false ∧ h.word.extractLsb' 0 4 = 0#4 := by
  constructor
  · iterate 5 refine (getLsbD_append.trans (if_pos (by decide))).trans ?_
    exact getLsbD_append.trans (if_neg (by decide))
  · iterate 7 refine (extractLsb'_append_eq_of_add_le (by decide)).trans ?_
    exact extractLsb'_append_eq_right

theorem headerOk_word : headerOk h.word =
    (h.maskOk && (h.stop || h.p != 0) && (h.stop || !h.b) && decide ((h.rows.toNat + 1) * (h.cols.toNat + 1) ≤ 16)) := by
  obtain ⟨h12, h0⟩ := h.word_zeros
  simp only [headerOk, h.ofWord_word, h12, h0, Bool.not_false, beq_self_eq_true, Bool.true_and]
end

theorem Op.ofWord_word (opc : BitVec 8) (o : Op) : Op.ofWord o.slot (o.word opc) o.ext o.rows o.cols = o := by
  have hla : (o.word opc).extractLsb' 52 4 = o.la := by
    refine (extractLsb'_append_eq_of_add_le (by decide)).trans ?_
    exact extractLsb'_append_eq_left
  have hgn : (o.word opc).getLsbD 51 = o.gn := by
    iterate 2 refine (getLsbD_append.trans (if_pos (by decide))).trans ?_
    exact (getLsbD_append.trans (if_neg (by decide))).trans (getLsbD_ofBool ..)
  have hgq : (o.word opc).extractLsb' 48 3 = o.gq := by
    iterate 3 refine (extractLsb'_append_eq_of_add_le (by decide)).trans ?_
    exact extractLsb'_append_eq_left
  have hmod : (o.word opc).extractLsb' 40 8 = o.mod := by
    iterate 4 refine (extractLsb'_append_eq_of_add_le (by decide)).trans ?_
    exact extractLsb'_append_eq_left
  have hdest : (o.word opc).extractLsb' 30 10 = o.dest := by
    iterate 5 refine (extractLsb'_append_eq_of_add_le (by decide)).trans ?_
    exact extractLsb'_append_eq_left
  have ha : (o.word opc).extractLsb' 20 10 = o.a := by
    iterate 6 refine (extractLsb'_append_eq_of_add_le (by decide)).trans ?_
    exact extractLsb'_append_eq_left
  have hb : (o.word opc).extractLsb' 10 10 = o.b := by
    iterate 7 refine (extractLsb'_append_eq_of_add_le (by decide)).trans ?_
    exact extractLsb'_append_eq_left
  have hc : (o.word opc).extractLsb' 0 10 = o.c := by
    iterate 7 refine (extractLsb'_append_eq_of_add_le (by decide)).trans ?_
    exact extractLsb'_append_eq_right
  simp only [Op.ofWord, hla, hgn, hgq, hmod, hdest, ha, hb, hc]

theorem opcodeOf_word {n : Nat} (hn : n < 256) (o : Op) : opcodeOf (o.word (BitVec.ofNat 8 n)) = n := by
  have : (o.word (BitVec.ofNat 8 n)).extractLsb' 56 8 = BitVec.ofNat 8 n := extractLsb'_append_eq_left
  simp [opcodeOf, this, Nat.mod_eq_of_lt hn]

/-! ### The opcode map of every native instruction (R297, R298) -/

theorem Laws.Coded.statement (i : Instr) : Laws.Coded.Statement i := by
  cases i with
  | deviceReset | wipeComplete | thermalStop | lifeCycleChange | powerLossDuringWipe | partitionCreate | partitionReset | loadObject
  | unloadObject | workgroupStart | binAged | draw | quantumExpiry | priorityBoost | firmwareCtlSteal | preemption | contextResume
  | resultLanding | granuleCopyComplete | translateRequest | translationComplete | regclmGrant | pageWalkComplete | stashFillComplete
  | homeWritePerform | renewalAnswer | collapseRequest | collapseAnswer | promotionRequest | wcbSend | rangeEntryExpiry | circuitArrival
  | queueWriteObserved | doorbellWrite | lookaheadRead | nopPacket | launch | copy | copyComplete | barrier | barrierReread | signal
  | callPacket | returnPacket | join | cond | loop | timestamp | packetComplete | priorityPreemption | enable | disable | reset | suspend
  | resume | segmentArrival | bankAccessComplete | rowOpen | refreshClose | rowClose | prechargeEnd | engineWorkComplete
  | slotClearComplete | osclaimGrant | transferStart | transferComplete | transferFault | loopGeneratorEntry | mcastDelivery | redgrpResult
  | stkcpyComplete | pbrFetchComplete | fenceComplete | trapRecordDelivery | firmwareRestart | migrationRequest | migrationCapture
  | partitionSwap | checkpoint | dieLoss | hostCompletion | cxlMemRead | cxlMemWrite | flitReceive | laneFailure | retrainComplete
  | linkTraining | attestationRequest | keySlotLoad | br | cbr | shape | switch | bankRefresh | compaction | hdmWindowSet => exact Laws.Coded.of_none rfl
  | abs o => exact Laws.Coded.abs o
  | add o => exact Laws.Coded.add o
  | and o => exact Laws.Coded.and o
  | bfi o => exact Laws.Coded.bfi o
  | bfx o => exact Laws.Coded.bfx o
  | brev o => exact Laws.Coded.brev o
  | clz o => exact Laws.Coded.clz o
  | cmp o => exact Laws.Coded.cmp o
  | accld o => exact Laws.Coded.accld o
  | accst o => exact Laws.Coded.accst o
  | accz o => exact Laws.Coded.accz o
  | addc o => exact Laws.Coded.addc o
  | atom o => exact Laws.Coded.atom o
  | atomAcq o => exact Laws.Coded.atomAcq o
  | atomRel o => exact Laws.Coded.atomRel o
  | atomAr o => exact Laws.Coded.atomAr o
  | barAw o => exact Laws.Coded.barAw o
  | barArr o => exact Laws.Coded.barArr o
  | barWait o => exact Laws.Coded.barWait o
  | bartest o => exact Laws.Coded.bartest o
  | bartestCtr o => exact Laws.Coded.bartestCtr o
  | brn o => exact Laws.Coded.brn o
  | brk o => exact Laws.Coded.brk o
  | call o => exact Laws.Coded.call o
  | const o => exact Laws.Coded.const o
  | csrrd o => exact Laws.Coded.csrrd o
  | csrwr o => exact Laws.Coded.csrwr o
  | div o => exact Laws.Coded.div o
  | evqpop o => exact Laws.Coded.evqpop o
  | exit o => exact Laws.Coded.exit o
  | fadd o => exact Laws.Coded.fadd o
  | fsub o => exact Laws.Coded.fsub o
  | fmul o => exact Laws.Coded.fmul o
  | ffma o => exact Laws.Coded.ffma o
  | fdiv o => exact Laws.Coded.fdiv o
  | fmin o => exact Laws.Coded.fmin o
  | fmax o => exact Laws.Coded.fmax o
  | fcmp o => exact Laws.Coded.fcmp o
  | fcvt o => exact Laws.Coded.fcvt o
  | fence o => exact Laws.Coded.fence o
  | fill o => exact Laws.Coded.fill o
  | freeze o => exact Laws.Coded.freeze o
  | frnd o => exact Laws.Coded.frnd o
  | icvt o => exact Laws.Coded.icvt o
  | idx o => exact Laws.Coded.idx o
  | lcvt o => exact Laws.Coded.lcvt o
  | ld o => exact Laws.Coded.ld o
  | ldRng o => exact Laws.Coded.ldRng o
  | ldv o => exact Laws.Coded.ldv o
  | lpack o => exact Laws.Coded.lpack o
  | lunpk o => exact Laws.Coded.lunpk o
  | madc o => exact Laws.Coded.madc o
  | max o => exact Laws.Coded.max o
  | min o => exact Laws.Coded.min o
  | mul o => exact Laws.Coded.mul o
  | mulhi o => exact Laws.Coded.mulhi o
  | neg o => exact Laws.Coded.neg o
  | not o => exact Laws.Coded.not o
  | or o => exact Laws.Coded.or o
  | popc o => exact Laws.Coded.popc o
  | rem o => exact Laws.Coded.rem o
  | rot o => exact Laws.Coded.rot o
  | mcast o => exact Laws.Coded.mcast o
  | redgrp o => exact Laws.Coded.redgrp o
  | mma o => exact Laws.Coded.mma o
  | mov o => exact Laws.Coded.mov o
  | nop o => exact Laws.Coded.nop o
  | osclaim o => exact Laws.Coded.osclaim o
  | osload o => exact Laws.Coded.osload o
  | osrel o => exact Laws.Coded.osrel o
  | pbr o => exact Laws.Coded.pbr o
  | pref o => exact Laws.Coded.pref o
  | publish o => exact Laws.Coded.publish o
  | recvc o => exact Laws.Coded.recvc o
  | reform o => exact Laws.Coded.reform o
  | regrel o => exact Laws.Coded.regrel o
  | regclm o => exact Laws.Coded.regclm o
  | ret o => exact Laws.Coded.ret o
  | rowact o => exact Laws.Coded.rowact o
  | rowactForce o => exact Laws.Coded.rowactForce o
  | rowcon o => exact Laws.Coded.rowcon o
  | rowconW o => exact Laws.Coded.rowconW o
  | rowcls o => exact Laws.Coded.rowcls o
  | segset o => exact Laws.Coded.segset o
  | sel o => exact Laws.Coded.sel o
  | sendc o => exact Laws.Coded.sendc o
  | sfn o => exact Laws.Coded.sfn o
  | shfl o => exact Laws.Coded.shfl o
  | shl o => exact Laws.Coded.shl o
  | shr o => exact Laws.Coded.shr o
  | shra o => exact Laws.Coded.shra o
  | sub o => exact Laws.Coded.sub o
  | xor o => exact Laws.Coded.xor o
  | spill o => exact Laws.Coded.spill o
  | st o => exact Laws.Coded.st o
  | stv o => exact Laws.Coded.stv o
  | stmap o => exact Laws.Coded.stmap o
  | stwb o => exact Laws.Coded.stwb o
  | stinv o => exact Laws.Coded.stinv o
  | stkcpy o => exact Laws.Coded.stkcpy o
  | subb o => exact Laws.Coded.subb o
  | ticket o => exact Laws.Coded.ticket o
  | tlbinv o => exact Laws.Coded.tlbinv o
  | tnest o => exact Laws.Coded.tnest o
  | trap o => exact Laws.Coded.trap o
  | retry o => exact Laws.Coded.retry o
  | cont o => exact Laws.Coded.cont o
  | replay o => exact Laws.Coded.replay o
  | fail o => exact Laws.Coded.fail o
  | endThread o => exact Laws.Coded.endThread o
  | endLaunch o => exact Laws.Coded.endLaunch o
  | vote o => exact Laws.Coded.vote o
  | vred o => exact Laws.Coded.vred o
  | vscan inc o => exact Laws.Coded.vscan inc o
  | xfer o => exact Laws.Coded.xfer o
  | xloop o => exact Laws.Coded.xloop o
  | xstat o => exact Laws.Coded.xstat o
  | waitid o => exact Laws.Coded.waitid o
  | xcancel o => exact Laws.Coded.xcancel o
  | yield o => exact Laws.Coded.yield o

/-- An instruction with a native op has a code of one byte, and is well-formed when its op and its MOD are. -/
theorem Instr.code_lt {i : Instr} {c : Cls} {n : Nat} {o : Op} (h : i.code = some (c, n, o)) : n < 256 := by
  cases i <;> simp only [Instr.code, Option.some.injEq, Prod.mk.injEq, reduceCtorEq] at h <;> grind

theorem Instr.op_wf {i : Instr} {c : Cls} {n : Nat} {o : Op} (hw : i.wf = true) (h : i.code = some (c, n, o)) : o.wf c = true := by
  unfold Instr.wf at hw
  split at hw
  case h_16 =>
    rw [h] at hw
    exact (Bool.and_eq_true _ _ ▸ hw).1
  all_goals cases h

/-! ### A bundle of one op is read back (R293, R294) -/

/-- The header of a bundle that holds one op: its slot bit, and the slot below with its L bit for a long immediate. -/
def Op.header (o : Op) : Header :=
  let imm := if o.ext.isSome then 1#8 <<< (o.slot - 1) else 0#8
  ⟨(1#8 <<< o.slot) ||| imm, imm, true, false, false, o.rows, o.cols⟩

/-- The slots of a bundle that holds one op. -/
def Op.slots (o : Op) (w : Word) : List (Nat × Word) := (o.slot, w) :: (o.ext.map fun v => (o.slot - 1, v)).toList

theorem Op.slot_lt {o : Op} {c : Cls} (h : o.wf c = true) : o.slot < 8 ∧ (o.ext.isSome = true → 0 < o.slot) ∧ o.shapeOk = true := by
  simp only [Op.wf, Bool.and_eq_true, Bool.or_eq_true, decide_eq_true_eq] at h
  obtain ⟨⟨hslot, hext⟩, hshape⟩ := h
  refine ⟨?_, fun hs => ?_, hshape⟩
  · cases c <;> simp [Cls.slots] at hslot <;> omega
  · rcases hext with hnone | hpos
    · rw [Option.isNone_iff_eq_none.1 hnone] at hs; cases hs
    · exact hpos

section
variable {o : Op} (hslot : o.slot < 8) (hext : o.ext.isSome = true → 0 < o.slot)
include hslot hext

theorem Op.header_maskOk : o.header.maskOk = true := by
  obtain ⟨s, _, _, _, _, _, _, _, _, ext, _, _⟩ := o
  cases ext with
  | none => simp [Op.header, Header.maskOk]
  | some v =>
    have hpos : 0 < s := hext rfl
    have hlt : s < 8 := hslot
    simp only [Op.header, Header.maskOk, Option.isSome_some, if_true]
    interval_cases s <;> rfl

theorem takeOps_slots (w : Word) (rest : List W32) :
    takeOps o.header.p slotOrder (splitW w ++ ((o.ext.map splitW).getD [] ++ rest)) = .ok (o.slots w, rest) := by
  obtain ⟨s, _, _, _, _, _, _, _, _, ext, _, _⟩ := o
  have hlt : s < 8 := hslot
  cases ext with
  | none =>
    simp only [Op.header, Op.slots, slotOrder]
    interval_cases s <;> simp [takeOps, splitW, bind, Except.bind]
  | some v =>
    have hpos : 0 < s := hext rfl
    simp only [Op.header, Op.slots, slotOrder]
    interval_cases s <;> simp [takeOps, splitW, bind, Except.bind]

theorem Op.instrs_slots (w : Word) : (⟨o.header, o.slots w⟩ : Bundle).instrs =
    [(Op.ofWord o.slot w o.ext o.rows o.cols, decodeOp o.slot (opcodeOf w) (Op.ofWord o.slot w o.ext o.rows o.cols))] := by
  obtain ⟨s, _, _, _, _, _, _, _, _, ext, _, _⟩ := o
  have hlt : s < 8 := hslot
  cases ext with
  | none =>
    simp [Bundle.instrs, Bundle.ext, Op.header, Op.slots]
  | some v =>
    have hpos : 0 < s := hext rfl
    simp only [Bundle.instrs, Bundle.ext, Op.header, Op.slots]
    interval_cases s <;> simp
end

theorem decode_encode {i : Instr} {c : Cls} {n : Nat} {o : Op} (hw : i.wf = true) (hc : i.code = some (c, n, o)) (rest : List W32) :
    decode ((o.header.word :: (splitW (o.word (BitVec.ofNat 8 n)) ++ (o.ext.map splitW).getD [])) ++ rest) = .ok (i.asDecoded, rest) := by
  obtain ⟨hslot, hext, hshape⟩ := Op.slot_lt (Instr.op_wf hw hc)
  have hok : headerOk o.header.word = true := by
    rw [headerOk_word, Op.header_maskOk hslot hext]
    exact hshape
  have hop : decodeOp o.slot n o = .ok i.asDecoded := Laws.Coded.statement i hw c n o hc
  have hbundle : decodeBundle (o.header.word :: (splitW (o.word (BitVec.ofNat 8 n)) ++ ((o.ext.map splitW).getD [] ++ rest))) =
      .ok (⟨o.header, o.slots (o.word (BitVec.ofNat 8 n))⟩, rest) := by
    simp only [decodeBundle, hok, if_true, Header.ofWord_word, takeOps_slots hslot hext, bind, Except.bind]
  simp only [List.cons_append, List.append_assoc, decode, hbundle, bind, Except.bind, Op.instrs_slots hslot hext,
    Op.ofWord_word, opcodeOf_word (Instr.code_lt hc), hop]

end

end Sys2Proof

namespace Sys2Proof.Machine

/-- Settles O54: a bundle of one op has its slot, and for a long immediate the slot below, and the opcode map of the slot gives the row. -/
theorem nativeRoundTrip : Obligations.NativeRoundTrip := by
  intro i ws rest hw henc
  obtain ⟨⟨c, n, o⟩, hc, rfl⟩ := Option.map_eq_some_iff.1 henc
  rw [← decode_encode hw hc rest]
  cases hext : o.ext <;> simp [Op.header, hext]

/-- Settles O53: the words are read field by field, as they were written out from the tables. -/
theorem decodeWords : Obligations.DecodeWords := by
  unfold Obligations.DecodeWords Claims.Reads
  exact ⟨rfl, rfl, rfl, rfl, rfl, rfl⟩

end Sys2Proof.Machine
end

section
-- One proof after another, as in the sections before this one.
set_option Elab.async false

namespace Sys2Proof.Machine

section
open Sys2Proof.Claims

/-! ### Patterns of integer results as words (R305, R349, R378) -/

/-- A pattern of a type's width as an integer. -/
theorem ofPat_toNat (ty : Nat) (a : BitVec (tyBits ty)) : ofPat ty a.toNat = if isSigned ty then a.toInt else (a.toNat : Int) := by
  unfold ofPat
  split
  · rw [signed_eq_toInt, BitVec.ofNat_toNat, BitVec.setWidth_eq]
  · rw [Nat.mod_eq_of_lt a.isLt]

theorem ofPat_lt_iff (ty : Nat) (a b : BitVec (tyBits ty)) :
    ofPat ty a.toNat < ofPat ty b.toNat ↔ (if isSigned ty then a.slt b else a.ult b) = true := by
  rw [ofPat_toNat, ofPat_toNat]
  split
  · simp [BitVec.slt]
  · simp [BitVec.ult]

theorem ofPat_inj {ty : Nat} {a b : BitVec (tyBits ty)} (h : ofPat ty a.toNat = ofPat ty b.toNat) : a = b := by
  rw [ofPat_toNat, ofPat_toNat] at h
  split at h
  · exact BitVec.eq_of_toInt_eq h
  · exact BitVec.eq_of_toNat_eq (Int.ofNat_inj.1 h)

theorem ofNat_toPat (ty : Nat) (i : Int) : BitVec.ofNat (tyBits ty) (toPat ty i) = BitVec.ofInt (tyBits ty) i := ofNat_wrap ..

/-- A remainder modulo a square, divided by its root, is the quotient modulo the root. -/
theorem emod_mul_self_ediv (i : Int) {m : Int} (hm : 0 < m) : i % (m * m) / m = i / m % m := by
  rw [Int.emod_def, Int.emod_def, Int.ediv_ediv_of_nonneg hm.le, mul_assoc, Int.sub_mul_ediv_left _ _ hm.ne']

/-- The upper half of a number of 2w bits. -/
theorem extractLsb'_ofInt (w : Nat) (i : Int) : (BitVec.ofInt (2 * w) i).extractLsb' w w = BitVec.ofInt w (i / (2 ^ w : Nat)) := by
  refine BitVec.eq_of_toNat_eq (Int.ofNat_inj.1 ?_)
  have hpow : (2 ^ (2 * w) : Nat) = 2 ^ w * 2 ^ w := by rw [two_mul, pow_add]
  have hpos : (0 : Int) < (2 ^ w : Nat) := by positivity
  rw [BitVec.extractLsb'_toNat, BitVec.toNat_ofInt, BitVec.toNat_ofInt, Nat.shiftRight_eq_div_pow, hpow, Int.natCast_emod, Int.natCast_ediv,
    Int.toNat_of_nonneg (Int.emod_nonneg _ (by positivity)), Int.toNat_of_nonneg (Int.emod_nonneg _ hpos.ne'), Int.natCast_mul]
  rw [emod_mul_self_ediv i hpos, Int.emod_emod_of_dvd _ dvd_rfl]

theorem ofNat_mulhiPat (ty : Nat) (a b : BitVec (tyBits ty)) :
    BitVec.ofNat (tyBits ty) (mulhiPat ty a.toNat b.toNat) = upper (isSigned ty) a b := by
  rw [mulhiPat, ofNat_toPat, ← extractLsb'_ofInt, ofPat_toNat, ofPat_toNat, upper]
  split
  · rw [BitVec.ofInt_mul]; rfl
  · rw [BitVec.ofInt_mul, BitVec.ofInt_natCast, BitVec.ofInt_natCast, BitVec.ofNat_toNat, BitVec.ofNat_toNat]

theorem ofNat_divPat (ty : Nat) (a b : BitVec (tyBits ty)) :
    BitVec.ofNat (tyBits ty) (divPat ty a.toNat b.toNat) = quotient (isSigned ty) a b := by
  have hzero : b.toNat = 0 ↔ b = 0 := by rw [← BitVec.toNat_inj]; rfl
  simp only [divPat, quotient, hzero]
  split
  · exact BitVec.eq_of_toNat_eq (by simp [BitVec.toNat_allOnes])
  · rw [ofNat_toPat, ofPat_toNat, ofPat_toNat]
    split
    · refine BitVec.eq_of_toInt_eq ?_
      rw [BitVec.toInt_sdiv, BitVec.toInt_ofInt]
    · rw [Int.tdiv_eq_ediv_of_nonneg (Int.natCast_nonneg _), ← Int.natCast_ediv, BitVec.ofInt_natCast, ← BitVec.toNat_udiv,
        BitVec.ofNat_toNat, BitVec.setWidth_eq]

theorem ofNat_remPat (ty : Nat) (a b : BitVec (tyBits ty)) :
    BitVec.ofNat (tyBits ty) (remPat ty a.toNat b.toNat) = remainder (isSigned ty) a b := by
  have hzero : b.toNat = 0 ↔ b = 0 := by rw [← BitVec.toNat_inj]; rfl
  simp only [remPat, remainder, hzero]
  split
  · simp
  · rw [ofNat_toPat, ofPat_toNat, ofPat_toNat]
    split
    · rw [← BitVec.toInt_srem, BitVec.ofInt_toInt]
    · rw [Int.tmod_eq_emod_of_nonneg (Int.natCast_nonneg _), ← Int.natCast_emod, BitVec.ofInt_natCast, ← BitVec.toNat_umod,
        BitVec.ofNat_toNat, BitVec.setWidth_eq]

theorem ofNat_min (ty : Nat) (a b : BitVec (tyBits ty)) :
    BitVec.ofNat (tyBits ty) (if ofPat ty b.toNat < ofPat ty a.toNat then b.toNat else a.toNat) = pick (isSigned ty) false a b := by
  rw [pick, apply_ite (BitVec.ofNat _)]
  simp only [BitVec.ofNat_toNat, BitVec.setWidth_eq, ← Bool.not_eq_true, ← ofPat_lt_iff]
  split_ifs with hlt hge hlt
  · exact absurd hlt (by omega)
  · rfl
  · rfl
  · exact ofPat_inj (by omega)

theorem ofNat_max (ty : Nat) (a b : BitVec (tyBits ty)) :
    BitVec.ofNat (tyBits ty) (if ofPat ty a.toNat < ofPat ty b.toNat then b.toNat else a.toNat) = pick (isSigned ty) true a b := by
  rw [pick, apply_ite (BitVec.ofNat _)]
  simp [ofPat_lt_iff]

theorem ofNat_shiftLeft {w : Nat} (a b : BitVec w) :
    BitVec.ofNat w (if w ≤ b.toNat then 0 else a.toNat * 2 ^ b.toNat) = a <<< b := by
  refine BitVec.eq_of_toNat_eq ?_
  rw [BitVec.toNat_ofNat, BitVec.shiftLeft_eq', BitVec.toNat_shiftLeft, Nat.shiftLeft_eq]
  split
  next hfar => rw [Nat.zero_mod, Nat.mod_eq_zero_of_dvd (Dvd.dvd.mul_left (pow_dvd_pow 2 hfar) _)]
  next => rfl

theorem ofNat_shiftRight {w : Nat} (a b : BitVec w) :
    BitVec.ofNat w (if w ≤ b.toNat then 0 else a.toNat / 2 ^ b.toNat) = a >>> b := by
  refine BitVec.eq_of_toNat_eq ?_
  rw [BitVec.toNat_ofNat, BitVec.ushiftRight_eq', BitVec.toNat_ushiftRight, Nat.shiftRight_eq_div_pow]
  split
  next hfar => rw [Nat.zero_mod, Nat.div_eq_of_lt (a.isLt.trans_le (Nat.pow_le_pow_right two_pos hfar))]
  next => exact Nat.mod_eq_of_lt ((Nat.div_le_self _ _).trans_lt a.isLt)

theorem ofNat_shraPat {w : Nat} (a b : BitVec w) : BitVec.ofNat w (shraPat w a.toNat b.toNat) = a.sshiftRight' b := by
  rw [shraPat, ofNat_wrap, signed_eq_toInt, BitVec.ofNat_toNat, BitVec.setWidth_eq, BitVec.sshiftRight_eq', BitVec.sshiftRight,
    Int.shiftRight_eq_div_pow]
  congr 1
  change a.toInt / ((2 ^ min b.toNat w : Nat) : Int) = _
  by_cases hle : b.toNat ≤ w
  · rw [Nat.min_eq_left hle]
  · have hlt : (2 ^ w : Int) ≤ 2 ^ b.toNat := by exact_mod_cast Nat.pow_le_pow_right two_pos (le_of_not_ge hle)
    have hhi := BitVec.two_mul_toInt_lt (x := a)
    have hlo := BitVec.le_two_mul_toInt (x := a)
    rw [Nat.min_eq_right (by omega)]
    push_cast
    obtain hneg | hnonneg := lt_or_ge a.toInt 0
    · rw [Int.ediv_eq_neg_one_of_neg_of_le hneg (by omega), Int.ediv_eq_neg_one_of_neg_of_le hneg (by omega)]
    · rw [Int.ediv_eq_zero_of_lt hnonneg (by omega), Int.ediv_eq_zero_of_lt hnonneg (by omega)]

theorem rotPat_eq_toNat {w : Nat} (a : BitVec w) (n : Nat) (hw : 0 < w) : rotPat w a.toNat n = (a.rotateLeft (n % w)).toNat := by
  have hk : n % w < w := Nat.mod_lt _ hw
  have hhi : a.toNat / 2 ^ (w - n % w) < 2 ^ (n % w) := by
    refine Nat.div_lt_of_lt_mul ?_
    rw [← pow_add, Nat.sub_add_cancel hk.le]
    exact a.isLt
  have hlo : a.toNat * 2 ^ (n % w) % 2 ^ w = 2 ^ (n % w) * (a.toNat % 2 ^ (w - n % w)) := by
    have hsplit : 2 ^ w = 2 ^ (n % w) * 2 ^ (w - n % w) := by rw [← pow_add, Nat.add_sub_cancel' hk.le]
    rw [hsplit, mul_comm a.toNat, Nat.mul_mod_mul_left]
  rw [BitVec.rotateLeft_def, Nat.mod_mod, BitVec.toNat_or, BitVec.toNat_shiftLeft, BitVec.toNat_ushiftRight, Nat.shiftLeft_eq, Nat.shiftRight_eq_div_pow]
  simp only [rotPat]
  rw [Nat.mod_eq_of_lt hhi, hlo, Nat.two_pow_add_eq_or_of_lt hhi]

theorem ofNat_leadZeros {w : Nat} (a : BitVec w) : BitVec.ofNat w (leadZeros w a.toNat) = a.clz := by
  have hbound : w < 2 ^ w := Nat.lt_two_pow_self
  obtain rfl | hne := eq_or_ne a 0
  · refine Eq.trans ?_ (BitVec.clz_eq_iff_eq_zero.2 rfl).symm
    simp [leadZeros]
  · have hw : 0 < w := Nat.pos_of_ne_zero fun h => hne (by subst h; exact Subsingleton.elim ..)
    have hlt : a.clz.toNat < w := by
      have hlt := BitVec.lt_def.1 (BitVec.clz_lt_iff_ne_zero.2 hne)
      rwa [BitVec.natCast_eq_ofNat, BitVec.toNat_ofNat, Nat.mod_eq_of_lt hbound] at hlt
    have hlo := BitVec.two_pow_sub_clz_le_toNat_of_ne_zero hw hne
    have hhi := BitVec.toNat_lt_two_pow_sub_clz (x := a)
    have hnz : a.toNat ≠ 0 := (Nat.two_pow_pos _).trans_le hlo |>.ne'
    have hlog : a.toNat.log2 = w - 1 - a.clz.toNat := (Nat.log2_eq_iff hnz).2 ⟨hlo, by rwa [show w - 1 - a.clz.toNat + 1 = w - a.clz.toNat by omega]⟩
    refine BitVec.eq_of_toNat_eq ?_
    rw [BitVec.toNat_ofNat, leadZeros, if_neg hnz, hlog, Nat.mod_eq_of_lt (by omega)]
    omega

theorem bit_toNat {w : Nat} (a : BitVec w) (i : Nat) : bit a.toNat i = a.getLsbD i := by
  rw [bit, BitVec.getLsbD, Nat.testBit_eq_decide_div_mod_eq]
  exact beq_eq_decide ..

theorem popCount_eq_cpopNatRec {w : Nat} (a : BitVec w) (n : Nat) : popCount n a.toNat = a.cpopNatRec n 0 := by
  induction n with
  | zero => rfl
  | succ n ih =>
    rw [BitVec.cpopNatRec_succ, BitVec.cpopNatRec_eq, ← ih, popCount, List.range_succ, List.foldl_append, ← popCount]
    cases h : a.getLsbD n <;> simp [bit_toNat, h]

theorem ofNat_popCount {w : Nat} (a : BitVec w) : BitVec.ofNat w (popCount w a.toNat) = a.cpop := by
  rw [popCount_eq_cpopNatRec, BitVec.cpop]

/-- The bits below the width, with their weights doubled. -/
theorem foldl_revBits_succ (w v : Nat) (l : List Nat) (hl : ∀ i ∈ l, i < w) (r : Nat) :
    l.foldl (fun r i => if bit v i then r + 2 ^ (w + 1 - 1 - i) else r) (2 * r) =
      2 * l.foldl (fun r i => if bit v i then r + 2 ^ (w - 1 - i) else r) r := by
  induction l generalizing r with
  | nil => rfl
  | cons i l ih =>
    have hi := hl i List.mem_cons_self
    have hpow : 2 ^ (w + 1 - 1 - i) = 2 * 2 ^ (w - 1 - i) := by rw [← pow_succ']; congr 1; omega
    rw [List.foldl_cons, List.foldl_cons, ← ih fun j hj => hl j (List.mem_cons_of_mem _ hj)]
    congr 1
    split <;> omega

theorem revBits_succ (w v : Nat) : revBits (w + 1) v = 2 * revBits w v + (bit v w).toNat := by
  rw [revBits, List.range_succ, List.foldl_append, foldl_revBits_succ w v _ (fun i hi => List.mem_range.1 hi) 0, ← revBits]
  cases h : bit v w <;> simp [h]

theorem revBits_setWidth {w n : Nat} (a : BitVec w) : revBits n (a.setWidth n).toNat = revBits n a.toNat := by
  refine List.foldl_ext _ _ 0 fun r i hi => ?_
  rw [bit_toNat, bit_toNat, BitVec.getLsbD_setWidth, decide_eq_true (List.mem_range.1 hi), Bool.true_and]

theorem revBits_eq_toNat {w : Nat} (a : BitVec w) : revBits w a.toNat = a.reverse.toNat := by
  induction w with
  | zero => rw [Subsingleton.elim a 0]; rfl
  | succ w ih =>
    rw [BitVec.reverse, BitVec.toNat_concat, ← ih, revBits_succ, BitVec.truncate_eq_setWidth, revBits_setWidth, bit_toNat,
      mul_comm, BitVec.msb_eq_getLsbD_last]
    rfl

theorem ofNat_revBits {w : Nat} (a : BitVec w) : BitVec.ofNat w (revBits w a.toNat) = a.reverse := by
  rw [revBits_eq_toNat, BitVec.ofNat_toNat, BitVec.setWidth_eq]

theorem ofNat_abs {ty : Nat} (h : isSigned ty = true) (a : BitVec (tyBits ty)) :
    BitVec.ofNat (tyBits ty) (ofPat ty a.toNat).natAbs = if a.msb then -a else a := by
  rw [ofPat_toNat, if_pos h, ← BitVec.ofInt_natCast, Int.natCast_natAbs]
  split
  next hneg => rw [abs_of_neg (BitVec.toInt_neg_of_msb_true hneg), BitVec.ofInt_neg, BitVec.ofInt_toInt]
  next hpos => rw [abs_of_nonneg (BitVec.toInt_nonneg_of_msb_false (by simpa using hpos)), BitVec.ofInt_toInt]

theorem ofNat_mul_toNat {w : Nat} (a b : BitVec w) : BitVec.ofNat w (a.toNat * b.toNat) = a * b := by
  rw [BitVec.ofNat_mul, BitVec.ofNat_toNat, BitVec.ofNat_toNat, BitVec.setWidth_eq, BitVec.setWidth_eq]

theorem ofNat_compl {w : Nat} (a : BitVec w) : BitVec.ofNat w (2 ^ w - 1 - a.toNat) = ~~~a := by
  refine BitVec.eq_of_toNat_eq ?_
  rw [BitVec.toNat_not, BitVec.toNat_ofNat, Nat.mod_eq_of_lt (by omega)]

theorem ofNat_neg (ty : Nat) (a : BitVec (tyBits ty)) : BitVec.ofNat (tyBits ty) (toPat ty (-(a.toNat : Int))) = -a := by
  rw [ofNat_toPat, BitVec.ofInt_neg, BitVec.ofInt_natCast, BitVec.ofNat_toNat, BitVec.setWidth_eq]

/-! ### Integer ops (R303) -/

/-- What holds of every type and variant that a row allows holds of a legal op's (R290, R291). -/
theorem of_legalD {opc : Nat} {o : Op} {P : Nat → Nat → Prop}
    (hall : ∀ ty < 32, ∀ var < 8, ∀ r ∈ Lpf.row opc, r.tyOk ty = true ∧ Lpf.modOk opc ty (var * 32) = true → P ty var)
    (h : o.legalD opc = true) : P o.ty o.var := by
  unfold Op.legalD at h
  split at h
  next r hr => exact hall o.ty (by unfold Op.ty; omega) o.var (by unfold Op.var; omega) r hr (Bool.and_eq_true_iff.1 h)
  next => exact absurd h Bool.false_ne_true

/-- The rows that name integer types name no tile types (R291). -/
theorem not_tile_of_legalD {opc : Nat} {o : Op} (hopc : opc < 0x01B) (h : o.legalD opc = true) : isTileTy o.ty = false ∧ 0 < tyBits o.ty := by
  have hall : ∀ opc < 0x01B, ∀ ty < 32, ∀ r ∈ Lpf.row opc, r.tyOk ty = true → isTileTy ty = false ∧ 0 < tyBits ty := by decide
  exact of_legalD (P := fun ty _ => isTileTy ty = false ∧ 0 < tyBits ty) (fun ty hty _ _ r hr hok => hall opc hopc ty hty r hr hok.1) h

theorem Op.resultWords_scalar {ty : Nat} (h : isTileTy ty = false) (o : Op) (v : Nat) : o.resultWords ty [v] = [regImage ty v] := by
  simp [Op.resultWords, h]

theorem regImage_of_ofNat {ty v : Nat} {x : BitVec (tyBits ty)} (h : BitVec.ofNat (tyBits ty) v = x) : regImage ty v = image ty x :=
  (regImage_eq_image ty v).trans (congrArg (image ty) h)

theorem regImage_toNat {ty : Nat} (x : BitVec (tyBits ty)) : regImage ty x.toNat = image ty x :=
  regImage_of_ofNat (by rw [BitVec.ofNat_toNat, BitVec.setWidth_eq])

/-- A scalar op of one plain result gives its image when its checks pass. -/
theorem State.produce_gives_scalar {s : State} {o : Op} {ok : Bool} {srcs : List (Nat × Nat)} {rty lat interval : Nat}
    {f : Nat → Nat → Nat} {v : Nat → Nat → Word} (hok : ok = true) (hrty : isTileTy rty = false)
    (hsound : Sound s o srcs o.dest.toNat 1) (hv : ∀ l t, regImage rty (f l t) = v l t) :
    Gives s (s.produce o ok srcs [] rty lat interval fun l t => [f l t]) o .reg o.dest.toNat 1 lat interval fun l t => [v l t] := by
  have hregs : o.regsOf rty = 1 := by simp [Op.regsOf, hrty]
  have h := State.produce_gives (lat := lat) (interval := interval) (f := fun l t => [f l t]) (ty := rty) hok (by rwa [hregs])
  simpa only [hregs, Op.resultWords_scalar hrty, hv] using h

section
variable {s : State} {o : Op} {opc : Nat} (hopc : opc < 0x01B) (hlegal : o.legalD opc = true)
include hopc hlegal

/-- An integer op of two sources whose pattern is that of a function of words gives that function's result. -/
theorem intOp2_gives {lat interval rty : Nat} {f : Nat → Nat → Nat} {v : BitVec (tyBits o.ty) → BitVec (tyBits o.ty) → Word}
    (hext : o.extOk true true false = true) (hrty : isTileTy rty = false)
    (hsound : Sound s o [(o.selA, 1), (o.selB, 1)] o.dest.toNat 1) (hv : ∀ a b, regImage rty (f a.toNat b.toNat) = v a b) :
    Gives s (intOp2 opc o lat interval rty f s) o .reg o.dest.toNat 1 lat interval fun l th =>
      [v (src _ s o o.selA l th) (src _ s o o.selB l th)] := by
  obtain ⟨hscalar, -⟩ := not_tile_of_legalD hopc hlegal
  refine State.produce_gives_scalar (by rw [hlegal, hext]; rfl) hrty hsound fun l t => ?_
  rw [State.scalar_eq_src hscalar, State.scalar_eq_src hscalar, hv]

/-- The same with a result of the op's own type, as an equation of words. -/
theorem intOp2_gives_image {lat interval : Nat} {f : Nat → Nat → Nat} {v : BitVec (tyBits o.ty) → BitVec (tyBits o.ty) → BitVec (tyBits o.ty)}
    (hext : o.extOk true true false = true) (hsound : Sound s o [(o.selA, 1), (o.selB, 1)] o.dest.toNat 1)
    (hv : ∀ a b, BitVec.ofNat (tyBits o.ty) (f a.toNat b.toNat) = v a b) :
    Gives s (intOp2 opc o lat interval o.ty f s) o .reg o.dest.toNat 1 lat interval fun l th =>
      [image o.ty (v (src _ s o o.selA l th) (src _ s o o.selB l th))] :=
  intOp2_gives hopc hlegal (v := fun a b => image o.ty (v a b)) hext (not_tile_of_legalD hopc hlegal).1 hsound fun a b => regImage_of_ofNat (hv a b)

theorem intOp1_gives_image {f : Nat → Nat} {v : BitVec (tyBits o.ty) → BitVec (tyBits o.ty)}
    (hext : o.extOk true false false = true) (hsound : Sound s o [(o.selA, 1)] o.dest.toNat 1)
    (hv : ∀ a : BitVec (tyBits o.ty), BitVec.ofNat (tyBits o.ty) (f a.toNat) = v a) :
    Gives s (intOp1 opc o f s) o .reg o.dest.toNat 1 1 1 fun l th => [image o.ty (v (src _ s o o.selA l th))] := by
  obtain ⟨hscalar, -⟩ := not_tile_of_legalD hopc hlegal
  refine State.produce_gives_scalar (by rw [hlegal, hext]; rfl) hscalar hsound fun l t => ?_
  rw [State.scalar_eq_src hscalar, regImage_of_ofNat (hv _)]

end

/-- DIV and REM without a trap are integer ops of two sources. -/
theorem divOp_eq {s : State} {o : Op} (h : s.divTraps o = []) (opc : Nat) (f : Nat → Nat → Nat → Nat) :
    divOp opc f o s = intOp2 opc o (divLat o) (divLat o) o.ty (f o.ty) s := by
  rw [divOp, h]
  rfl

theorem ofNat_of_toNat {w v : Nat} {x : BitVec w} (h : x.toNat = v) : BitVec.ofNat w v = x := by
  rw [← h, BitVec.ofNat_toNat, BitVec.setWidth_eq]

/-- NEG and ABS take the signed types alone (R291). -/
theorem isSigned_of_abs {o : Op} (h : o.legalD 0x00A = true) : isSigned o.ty = true :=
  of_legalD (P := fun ty _ => isSigned ty = true) (by decide) h

/-- Each row of the table of two sources: its function of patterns is the row's function of words. -/
theorem integerPairResults : IntegerPairResults := by
  intro s o r hr hslot hlegal hext hsound hdiv
  have hopc : r.opc < 0x01B := (show ∀ r ∈ int2 o, r.opc < 0x01B by simp [int2]) r hr
  simp only [int2, List.mem_cons, List.not_mem_nil, or_false] at hr
  rcases hr with rfl | rfl | rfl | rfl | rfl | rfl | rfl | rfl | rfl | rfl | rfl | rfl | rfl
  · exact ⟨_, rfl, intOp2_gives_image hopc hlegal hext hsound ofNat_mul_toNat⟩
  · exact ⟨_, rfl, intOp2_gives_image hopc hlegal hext hsound fun a b => ofNat_mulhiPat o.ty a b⟩
  · exact ⟨_, congrArg Host.Outcome.next (divOp_eq (hdiv (.inl rfl)) 0x007 divPat),
      intOp2_gives_image hopc hlegal hext hsound fun a b => ofNat_divPat o.ty a b⟩
  · exact ⟨_, congrArg Host.Outcome.next (divOp_eq (hdiv (.inr rfl)) 0x008 remPat),
      intOp2_gives_image hopc hlegal hext hsound fun a b => ofNat_remPat o.ty a b⟩
  · exact ⟨_, rfl, intOp2_gives_image hopc hlegal hext hsound fun a b => ofNat_min o.ty a b⟩
  · exact ⟨_, rfl, intOp2_gives_image hopc hlegal hext hsound fun a b => ofNat_max o.ty a b⟩
  · exact ⟨_, rfl, intOp2_gives_image hopc hlegal hext hsound fun a b => ofNat_of_toNat (BitVec.toNat_and a b)⟩
  · exact ⟨_, rfl, intOp2_gives_image hopc hlegal hext hsound fun a b => ofNat_of_toNat (BitVec.toNat_or a b)⟩
  · exact ⟨_, rfl, intOp2_gives_image hopc hlegal hext hsound fun a b => ofNat_of_toNat (BitVec.toNat_xor a b)⟩
  · exact ⟨_, rfl, intOp2_gives_image hopc hlegal hext hsound ofNat_shiftLeft⟩
  · exact ⟨_, rfl, intOp2_gives_image hopc hlegal hext hsound ofNat_shiftRight⟩
  · exact ⟨_, rfl, intOp2_gives_image hopc hlegal hext hsound ofNat_shraPat⟩
  · exact ⟨_, rfl, intOp2_gives_image hopc hlegal hext hsound fun a b =>
      ofNat_of_toNat (rotPat_eq_toNat a b.toNat (not_tile_of_legalD hopc hlegal).2).symm⟩

/-- Each row of the table of one source, likewise. -/
theorem integerSingleResults : IntegerSingleResults := by
  intro s o r hr hslot hlegal hext hsound
  have hopc : r.2.1 < 0x01B := (show ∀ r ∈ int1 o, r.2.1 < 0x01B by simp [int1]) r hr
  simp only [int1, List.mem_cons, List.not_mem_nil, or_false] at hr
  rcases hr with rfl | rfl | rfl | rfl | rfl | rfl
  · exact ⟨_, rfl, intOp1_gives_image hopc hlegal hext hsound fun a => ofNat_neg o.ty a⟩
  · exact ⟨_, rfl, intOp1_gives_image hopc hlegal hext hsound fun a => ofNat_abs (isSigned_of_abs hlegal) a⟩
  · exact ⟨_, rfl, intOp1_gives_image hopc hlegal hext hsound ofNat_compl⟩
  · exact ⟨_, rfl, intOp1_gives_image hopc hlegal hext hsound ofNat_leadZeros⟩
  · exact ⟨_, rfl, intOp1_gives_image hopc hlegal hext hsound ofNat_popCount⟩
  · exact ⟨_, rfl, intOp1_gives_image hopc hlegal hext hsound ofNat_revBits⟩

/-- Settles O1: each op sends the pattern that its row's function of words gives (`intOp2_gives_image`, `intOp1_gives_image`). -/
theorem integerResults : Obligations.IntegerResults := ⟨integerPairResults, integerSingleResults⟩

/-! ### Pointers, comparisons and bit fields (R74, R306, R307) -/

theorem ofNat_addPat {ty : Nat} (h : ty ≠ 15) (a b : BitVec (tyBits ty)) : BitVec.ofNat (tyBits ty) (addPat ty a.toNat b.toNat) = a + b := by
  rw [addPat, if_neg h, BitVec.ofNat_add, BitVec.ofNat_toNat, BitVec.ofNat_toNat, BitVec.setWidth_eq, BitVec.setWidth_eq]

theorem ofNat_subPat {ty : Nat} (h : ty ≠ 15) (a b : BitVec (tyBits ty)) : BitVec.ofNat (tyBits ty) (subPat ty a.toNat b.toNat) = a - b := by
  rw [subPat, if_neg h, ofNat_toPat, sub_eq_add_neg, BitVec.ofInt_add, BitVec.ofInt_neg, BitVec.ofInt_natCast, BitVec.ofInt_natCast,
    BitVec.ofNat_toNat, BitVec.ofNat_toNat, BitVec.setWidth_eq, BitVec.setWidth_eq, BitVec.sub_eq_add_neg]

/-- Pointer arithmetic keeps the upper four bits and adds in the lower sixty. -/
theorem ofNat_ptrAdd (a : Word) (i : Int) : BitVec.ofNat 64 (ptrAdd a.toNat i) = a.extractLsb' 60 4 ++ (a.extractLsb' 0 60 + BitVec.ofInt 60 i) := by
  have hlow : a.extractLsb' 0 60 + BitVec.ofInt 60 i = BitVec.ofInt 60 ((a.toNat % 2 ^ 60 : Nat) + i) := by
    rw [BitVec.ofInt_add, BitVec.ofInt_natCast]
    exact congrArg (· + _) (BitVec.eq_of_toNat_eq (by rw [BitVec.extractLsb'_toNat, BitVec.toNat_ofNat, Nat.mod_mod, Nat.shiftRight_zero]))
  have hwrap : wrap 60 ((a.toNat % 2 ^ 60 : Nat) + i) < 2 ^ 60 := (BitVec.ofInt 60 ((a.toNat % 2 ^ 60 : Nat) + i)).isLt
  have ha := a.isLt
  refine BitVec.eq_of_toNat_eq ?_
  rw [hlow, BitVec.toNat_append, ← Nat.shiftLeft_add_eq_or_of_lt (BitVec.isLt _), BitVec.toNat_ofNat, ptrAdd, BitVec.extractLsb'_toNat,
    Nat.shiftRight_eq_div_pow, Nat.shiftLeft_eq, show (BitVec.ofInt 60 ((a.toNat % 2 ^ 60 : Nat) + i)).toNat = wrap 60 _ from rfl]
  generalize wrap 60 _ = low at *
  omega

theorem ofInt_toInt_low (b : Word) : BitVec.ofInt 60 b.toInt = b.extractLsb' 0 60 := by
  refine BitVec.eq_of_toInt_eq ?_
  rw [BitVec.toInt_ofInt, BitVec.toInt_eq_toNat_bmod b, Int.bmod_bmod_of_dvd (by decide), BitVec.toInt_eq_toNat_bmod, BitVec.extractLsb'_toNat,
    Nat.shiftRight_zero, Int.natCast_emod, Int.emod_bmod]

theorem regImage_addPat_ptr (a b : Word) : regImage 15 (addPat 15 a.toNat b.toNat) = ptrPlus a b := by
  refine (regImage_eq_image _ _).trans ((BitVec.setWidth_eq _).trans ?_)
  rw [addPat, if_pos rfl, signed_eq_toInt, BitVec.ofNat_toNat, BitVec.setWidth_eq]
  exact (ofNat_ptrAdd a _).trans (by rw [ofInt_toInt_low, ptrPlus])

theorem regImage_subPat_ptr (a b : Word) : regImage 15 (subPat 15 a.toNat b.toNat) = ptrMinus a b := by
  refine (regImage_eq_image _ _).trans ((BitVec.setWidth_eq _).trans ?_)
  rw [subPat, if_pos rfl, signed_eq_toInt, BitVec.ofNat_toNat, BitVec.setWidth_eq]
  exact (ofNat_ptrAdd a _).trans (by rw [BitVec.ofInt_neg, ofInt_toInt_low, ptrMinus, BitVec.sub_eq_add_neg])

theorem relInt_eq_related {ty rel : Nat} (hrel : rel < 6) (a b : BitVec (tyBits ty)) :
    relInt rel (ofPat ty a.toNat) (ofPat ty b.toNat) = related (isSigned ty) rel a b := by
  have hlt : ∀ x y : BitVec (tyBits ty), decide (ofPat ty x.toNat < ofPat ty y.toNat) = if isSigned ty then x.slt y else x.ult y :=
    fun x y => by rw [Bool.eq_iff_iff, decide_eq_true_eq, ofPat_lt_iff]
  have hle : ∀ x y : BitVec (tyBits ty), decide (ofPat ty x.toNat ≤ ofPat ty y.toNat) = !(if isSigned ty then y.slt x else y.ult x) :=
    fun x y => by rw [← hlt, ← decide_not]; simp
  have heq : (ofPat ty a.toNat == ofPat ty b.toNat) = (a == b) := by
    rw [Bool.eq_iff_iff, beq_iff_eq, beq_iff_eq]
    exact ⟨ofPat_inj, fun h => h ▸ rfl⟩
  interval_cases rel
  · exact heq
  · exact congrArg (!·) heq
  · exact hlt a b
  · exact hle a b
  · exact hlt b a
  · exact hle b a

/-- The mask of n bits below the width. -/
theorem getLsbD_mask {w n i : Nat} (hw : 0 < w) (hi : i < w) : ((1#w <<< n) - 1#w).getLsbD i = decide (i < n) := by
  have hone : 1 < 2 ^ w := Nat.one_lt_two_pow hw.ne'
  have hsub : (1#w <<< n) - 1#w = BitVec.ofNat w (2 ^ n - 1) := by
    rw [← BitVec.ofNat_sub_ofNat_of_le _ _ hone Nat.one_le_two_pow, ← BitVec.twoPow_eq]
    exact congrArg (· - 1#w) (BitVec.eq_of_toNat_eq (by rw [BitVec.toNat_twoPow, BitVec.toNat_ofNat]))
  rw [hsub, BitVec.getLsbD_ofNat, decide_eq_true hi, Bool.true_and, Nat.testBit_two_pow_sub_one]

/-- Bits off to off + n of a number from those at the foot of another. -/
theorem testBit_insert (a b off n i : Nat) :
    (a % 2 ^ off + b % 2 ^ n * 2 ^ off + a / 2 ^ (off + n) * 2 ^ (off + n)).testBit i =
      if off ≤ i ∧ i < off + n then b.testBit (i - off) else a.testBit i := by
  have hshape : a % 2 ^ off + b % 2 ^ n * 2 ^ off + a / 2 ^ (off + n) * 2 ^ (off + n) =
      2 ^ off * (2 ^ n * (a / 2 ^ (off + n)) + b % 2 ^ n) + a % 2 ^ off := by
    rw [pow_add]; ring
  rw [hshape, Nat.testBit_two_pow_mul_add _ (Nat.mod_lt _ (by positivity)), Nat.testBit_two_pow_mul_add _ (Nat.mod_lt _ (by positivity)),
    Nat.testBit_mod_two_pow, Nat.testBit_mod_two_pow, Nat.testBit_div_two_pow]
  by_cases hlow : i < off
  · simp [hlow, show ¬off ≤ i by omega]
  · by_cases hin : i - off < n
    · simp [hlow, hin, show off ≤ i ∧ i < off + n by omega]
    · simp only [hlow, hin, if_false, show ¬(off ≤ i ∧ i < off + n) by omega]
      congr 1
      omega

theorem ofNat_insert {w off n : Nat} (hw : 0 < w) (a b : BitVec w) :
    BitVec.ofNat w (a.toNat % 2 ^ off + b.toNat % 2 ^ n * 2 ^ off + a.toNat / 2 ^ (off + n) * 2 ^ (off + n)) =
      (a &&& ~~~(((1#w <<< n) - 1#w) <<< off)) ||| ((b <<< off) &&& (((1#w <<< n) - 1#w) <<< off)) := by
  refine BitVec.eq_of_getLsbD_eq fun i hi => ?_
  rw [BitVec.getLsbD_ofNat, testBit_insert]
  simp only [hi, decide_true, Bool.true_and, BitVec.getLsbD_or, BitVec.getLsbD_and, BitVec.getLsbD_not, BitVec.getLsbD_shiftLeft,
    getLsbD_mask hw (show i - off < w by omega), BitVec.testBit_toNat]
  split
  next hin => simp [show ¬i < off by omega, show i - off < n by omega]
  next hout =>
    by_cases hlow : i < off
    · simp [hlow]
    · simp [hlow, show ¬i - off < n by omega]

theorem ofNat_bfiPat {w : Nat} (hw : 0 < w) (a b c : BitVec w) : BitVec.ofNat w (bfiPat w a.toNat b.toNat c.toNat) = inserted a b c := by
  by_cases hnone : w ≤ c.toNat % 256 ∨ c.toNat / 256 % 256 = 0 <;>
    simp only [bfiPat, inserted, fieldOff, fieldWid, hnone, if_true, if_false]
  · rw [BitVec.ofNat_toNat, BitVec.setWidth_eq]
  · exact ofNat_insert hw a b

theorem ofNat_bfxPat (ty : Nat) (a c : BitVec (tyBits ty)) : BitVec.ofNat (tyBits ty) (bfxPat ty a.toNat c.toNat) = extracted (isSigned ty) a c := by
  have hfield : ∀ off n, a.toNat / 2 ^ off % 2 ^ n = (a.extractLsb' off n).toNat := fun off n => by
    rw [BitVec.extractLsb'_toNat, Nat.shiftRight_eq_div_pow]
  by_cases hnone : tyBits ty ≤ c.toNat % 256 ∨ c.toNat / 256 % 256 = 0 <;>
    simp only [bfxPat, extracted, fieldOff, fieldWid, hnone, if_true, if_false, hfield, apply_ite (BitVec.ofNat _)]
  · rfl
  · refine ite_congr rfl (fun _ => ?_) fun _ => BitVec.ofNat_toNat ..
    rw [ofNat_wrap, signed_eq_toInt, BitVec.ofNat_toNat]
    exact congrArg (BitVec.ofInt _ <| BitVec.toInt ·) (BitVec.setWidth_eq _)

/-- ADD and SUB of a ptr read whole words. -/
theorem ptrOp_gives {s : State} {o : Op} {opc : Nat} {f : Nat → Nat → Nat → Nat} {v : Word → Word → Word} (hlegal : o.legalD opc = true)
    (hext : o.extOk true true false = true) (hty : o.ty = 15) (hsound : Sound s o [(o.selA, 1), (o.selB, 1)] o.dest.toNat 1)
    (hv : ∀ a b : Word, regImage 15 (f 15 a.toNat b.toNat) = v a b) :
    Gives s (intOp2 opc o 1 1 o.ty (f o.ty) s) o .reg o.dest.toNat 1 1 1 fun l th => [v (s.word o l th o.selA) (s.word o l th o.selB)] := by
  refine State.produce_gives_scalar (by rw [hlegal, hext]; rfl) (by rw [hty]; rfl) hsound fun l t => ?_
  rw [hty, State.scalar_eq_src rfl, State.scalar_eq_src rfl]
  exact (hv _ _).trans (congrArg₂ v (BitVec.setWidth_eq _) (BitVec.setWidth_eq _))

theorem bfi_gives {s : State} {o : Op} (hlegal : o.legalD 0x015 = true) (hext : o.extOk true true true = true)
    (hsound : Sound s o [(o.selA, 1), (o.selB, 1), (o.selC, 1)] o.dest.toNat 1) :
    Gives s (s.produce o (o.legalD 0x015 && o.extOk true true true) [(o.selA, 1), (o.selB, 1), (o.selC, 1)] [] o.ty 1 1
        fun l t => [bfiPat (tyBits o.ty) (s.scalar o l t o.selA o.ty) (s.scalar o l t o.selB o.ty) (s.scalar o l t o.selC o.ty)])
      o .reg o.dest.toNat 1 1 1 fun l th =>
        [image o.ty (inserted (src (tyBits o.ty) s o o.selA l th) (src _ s o o.selB l th) (src _ s o o.selC l th))] := by
  obtain ⟨hscalar, hpos⟩ := not_tile_of_legalD (by decide) hlegal
  refine State.produce_gives_scalar (by rw [hlegal, hext]; rfl) hscalar hsound fun l t => ?_
  simp only [State.scalar_eq_src hscalar]
  exact regImage_of_ofNat (ofNat_bfiPat hpos _ _ _)

/-- The relations of CMP are six (R290). -/
theorem var_lt_of_cmp {o : Op} (h : o.legalD 0x01A = true) : o.var < 6 :=
  of_legalD (P := fun _ var => var < 6) (by decide) h

/-- Settles O2: as O1; a ptr keeps its upper four bits (`ofNat_ptrAdd`), and a field's bits are those of the shifted operand
(`ofNat_insert`). -/
theorem addCompareFieldResults : Obligations.AddCompareFieldResults := by
  refine ⟨fun s o hslot hext hsound => ⟨fun hlegal hty => ?_, fun hlegal hty => ?_, fun hlegal hty => ?_, fun hlegal hty => ?_, fun hlegal => ?_⟩,
    fun s o hslot => ⟨fun hlegal hext hsound => ?_, fun hlegal hext hsound => ?_⟩⟩
  · exact ⟨_, rfl, intOp2_gives_image (by decide) hlegal hext hsound (ofNat_addPat hty)⟩
  · exact ⟨_, rfl, ptrOp_gives hlegal hext hty hsound regImage_addPat_ptr⟩
  · exact ⟨_, rfl, intOp2_gives_image (by decide) hlegal hext hsound (ofNat_subPat hty)⟩
  · exact ⟨_, rfl, ptrOp_gives hlegal hext hty hsound regImage_subPat_ptr⟩
  · refine ⟨_, rfl, intOp2_gives (by decide) hlegal hext rfl hsound (v := fun a b => if related (isSigned o.ty) o.var a b then 1 else 0)
      fun a b => ?_⟩
    rw [relInt_eq_related (var_lt_of_cmp hlegal)]
    exact regImage_pr _
  · exact ⟨_, rfl, bfi_gives hlegal hext hsound⟩
  · exact ⟨_, rfl, intOp2_gives_image (by decide) hlegal hext hsound (ofNat_bfxPat o.ty)⟩

end
end Sys2Proof.Machine
end

section
-- One proof after another, as in the sections before this one.
set_option Elab.async false

namespace Sys2Proof.Machine

section
open Sys2Proof.Claims

/-! ### Moves (R325, R342, R358, R359, R373) -/

/-- CONST takes no tile type (R291). -/
theorem not_tile_of_const {o : Op} (h : o.legalD 0x01C = true) : isTileTy o.ty = false :=
  of_legalD (P := fun ty _ => isTileTy ty = false) (by decide) h

/-- The fields of IDX's immediate (R296, R342). -/
theorem idx_fields : ∀ sel < 16, ((BitVec.ofNat 30 (sel * 2 ^ 20)).extractLsb' 20 4).toNat = sel ∧
    (BitVec.ofNat 30 (sel * 2 ^ 20)).extractLsb' 24 6 = 0#6 ∧ (BitVec.ofNat 30 (sel * 2 ^ 20)).extractLsb' 0 20 = 0#20 := by decide

theorem idx_gives {s : State} {o : Op} {sel : Nat} (hsel : sel < 16) (h6 : sel ≠ 6) (h7 : sel ≠ 7) (hty : o.ty = 7) (hvar : o.var = 0)
    (hext : o.ext = none) (hj : o.j = BitVec.ofNat 30 (sel * 2 ^ 20)) (hsound : Sound s o [] o.dest.toNat 1) :
    Completes (.idx o) s fun t => Gives s t o .reg o.dest.toNat 1 1 1 fun _ th => [word64 (s.idxValue sel th % 2 ^ 32)] := by
  obtain ⟨hfield, hhigh, hlow⟩ := idx_fields sel hsel
  have hexec : exec (.idx o) s = execIdx o s := rfl
  refine ⟨_, hexec, ?_⟩
  simp only [hj, hfield]
  refine State.produce_gives_scalar ?_ rfl hsound fun l t => regImage_of_unsigned (ty := 7) rfl _
  simp only [hty, hvar, hext, hhigh, hlow, beq_self_eq_true, Option.isNone_none, bne_iff_ne.2 h6, bne_iff_ne.2 h7, Bool.and_self]

/-- Settles O4: CONST, SEL and IDX send the one result of their checks (`produce_gives`); MOV sends whole words. -/
theorem moveResults : Obligations.MoveResults := by
  refine fun s o hslot => ⟨fun hlegal hext hsound => ⟨_, rfl, ?_⟩, fun hlegal hext hsound => ⟨_, rfl, ?_⟩,
    fun hty hext hvar hsound => ?_, fun hty hext hvar hpos hlt hread => ?_,
    fun sel hsel h6 h7 hty hvar hext hj hsound => idx_gives hsel h6 h7 hty hvar hext hj hsound, rfl⟩
  · have hscalar := not_tile_of_const hlegal
    refine State.produce_gives_scalar (by rw [hlegal, hext]; rfl) hscalar hsound fun l t => ?_
    rw [State.scalar_eq_src hscalar, regImage_toNat]
  · have h := State.produce_gives (lat := 1) (interval := 1) (ty := o.ty) (ok := o.legalD 0x01B && o.extOk true true true)
      (f := fun l t => if (s.word o l t o.selA).getLsbD 0 then s.operand o l t o.selB o.ty else s.operand o l t o.selC o.ty)
      (by rw [hlegal, hext]; rfl) hsound
    have hchoice : ∀ l t, (if (s.word o l t o.selA).getLsbD 0 then s.operand o l t o.selB o.ty else s.operand o l t o.selC o.ty) =
        s.operand o l t (if (s.word o l t o.selA).getLsbD 0 then o.selB else o.selC) o.ty := fun l t =>
      (apply_ite (fun sel => s.operand o l t sel o.ty) _ _ _).symm
    simpa only [hchoice] using h
  · refine ⟨_, (show exec (.mov o) s = execMov o s from rfl).trans (if_pos hvar), ?_⟩
    simp only [hty, hext, hsound.target, Bool.and_self, hsound.srcTraps, hsound.copyTraps, List.append_nil, runOp_nil]
    exact s.land_gives o _ _ _ _ _
  · refine ⟨_, (show exec (.mov o) s = execMov o s from rfl).trans (if_neg (by omega)), ?_⟩
    have hdest : (o.dest.toNat < 8 : Bool) = true ∧ (o.dest.toNat != 0) = true := ⟨decide_eq_true hlt, bne_iff_ne.2 (by omega)⟩
    simp only [hvar, beq_self_eq_true, hty, hext, hdest.1, hdest.2, Bool.and_self, hread.srcTraps, runOp_nil]
    exact s.land_gives o _ _ _ _ _

/-! ### Float results (R148) -/

/-- A float op sends its elements, with each thread's exceptions and their union, when its checks pass. -/
theorem floatOp_gives {s : State} {o : Op} {ok : Bool} {srcs : List (Nat × Nat)} {rty lat interval : Nat}
    {f : State → Nat → Nat → List (Nat × Nat)} (hok : ok = true) (hsound : Sound s o srcs o.dest.toNat (o.regsOf rty)) :
    FloatGives s (floatOp ok o srcs rty lat interval f s) o rty lat interval (f s) := by
  unfold floatOp
  simp only [hok, hsound.target, Bool.and_self, hsound.srcTraps, hsound.copyTraps, List.append_nil, runOp_nil, List.map_map]
  obtain ⟨ls, hlands, hplain, hflags⟩ := s.landUnit_lands o .reg o.dest.toNat (o.regsOf rty) lat interval
    (fun l t => o.resultWords rty ((f s l t).map (·.1)))
    (joinFlags ((s.active o).map fun e => joinFlags ((f s e.1 e.2).map (·.2))))
    ((s.active o).map fun e => (e.2, joinFlags ((f s e.1 e.2).map (·.2)))) []
  refine ⟨ls, hlands, fun l hl => ?_, ?_⟩
  · obtain ⟨hexc, hflag, htraps⟩ := hplain l hl
    refine ⟨hexc, List.eq_nil_iff_forall_not_mem.2 fun x hx => List.not_mem_nil (htraps x hx), ?_⟩
    simpa only [List.map_map, Function.comp_def] using hflag
  · simpa only [List.map_map, Function.comp_def] using hflags

theorem floatOp2_gives {s : State} {o : Op} {opc lat interval : Nat} {f : Fmt → Nat → Nat → Nat → Nat × Nat} (hlegal : o.legalD opc = true)
    (hext : o.extOk true true false = true) (hsound : Sound s o [(o.selA, o.regsOf o.ty), (o.selB, o.regsOf o.ty)] o.dest.toNat (o.regsOf o.ty)) :
    FloatGives s (floatOp2 opc lat interval f o s) o o.ty lat interval fun l th =>
      (pairs s o l th).map fun p => f (fmtOf (elemTy o.ty)) s.rm p.1 p.2 := by
  have hok : (o.legalD opc && o.extOk true true false) = true := by rw [hlegal, hext]; rfl
  have h := floatOp_gives (lat := lat) (interval := interval) (rty := o.ty) (f := fun s l th => (pairs s o l th).map fun p => f (fmtOf (elemTy o.ty)) s.rm p.1 p.2) hok hsound
  unfold floatOp2
  exact h

/-- Each row of the table of two sources. -/
theorem float2_gives {s : State} {o : Op} (hext : o.extOk true true false = true)
    (hsound : Sound s o [(o.selA, o.regsOf o.ty), (o.selB, o.regsOf o.ty)] o.dest.toNat (o.regsOf o.ty)) :
    ∀ r ∈ float2 s o, o.legalD r.2.1 = true →
      Completes r.1 s fun t => FloatGives s t o o.ty r.2.2.1 r.2.2.2.1 fun l th => (pairs s o l th).map r.2.2.2.2 := by
  simp only [float2, List.forall_mem_cons]
  refine ⟨fun h => ⟨_, rfl, floatOp2_gives h hext hsound⟩, fun h => ⟨_, rfl, floatOp2_gives h hext hsound⟩,
    fun h => ⟨_, rfl, floatOp2_gives h hext hsound⟩, fun h => ⟨_, rfl, floatOp2_gives (f := Fmt.div) h hext hsound⟩,
    fun h => ⟨_, rfl, floatOp2_gives (f := fun f _ a b => f.minmax false a b) h hext hsound⟩,
    fun h => ⟨_, rfl, floatOp2_gives (f := fun f _ a b => f.minmax true a b) h hext hsound⟩, fun r hr => absurd hr List.not_mem_nil⟩

/-- Settles O5: each op's elements and exceptions are those of its function of elements (`floatOp_gives`). -/
theorem floatResults : Obligations.FloatResults := by
  refine fun s o hslot => ⟨fun r hr hlegal hext hsound => ?_, fun hlegal hext hsound => ⟨_, rfl, ?_⟩, fun hlegal hext hsound => ⟨_, rfl, ?_⟩,
    fun hlegal hext hsound => ⟨_, rfl, ?_⟩⟩
  · exact float2_gives hext hsound r hr hlegal
  · exact floatOp_gives (by rw [hlegal, hext]; rfl) hsound
  · exact floatOp_gives (by rw [hlegal, hext]; rfl) hsound
  · exact floatOp_gives (by rw [hlegal, hext]; rfl) hsound

/-! ### Conversions, codes and special functions (R335, R341, R343, R347, R375) -/

theorem convOp_gives {s : State} {o : Op} {opc : Nat} {f : State → Nat → Nat × Nat} (hlegal : o.legalK opc = true)
    (hsound : Sound s o [(o.selA, o.regsOf (kSrcTy o))] o.dest.toNat (o.regsOf o.ty)) :
    FloatGives s (convOp opc f o s) o o.ty 3 (unitGap s) fun l th => (s.operand o l th o.selA (kSrcTy o)).map (f s) := by
  have h := floatOp_gives (lat := 3) (interval := unitGap s) (rty := o.ty) (f := fun s l th => (s.operand o l th o.selA (kSrcTy o)).map (f s))
    hlegal hsound
  unfold convOp
  exact h

/-- Each row of the table of conversions. -/
theorem conversions_give {s : State} {o : Op} (hsound : Sound s o [(o.selA, o.regsOf (kSrcTy o))] o.dest.toNat (o.regsOf o.ty)) :
    ∀ r ∈ conversions s o, o.legalK r.2.1 = true →
      Completes r.1 s fun t => FloatGives s t o o.ty 3 (unitGap s) fun l th => (s.operand o l th o.selA (kSrcTy o)).map r.2.2 := by
  simp only [conversions, List.forall_mem_cons]
  exact ⟨fun h => ⟨_, rfl, convOp_gives h hsound⟩, fun h => ⟨_, rfl, convOp_gives h hsound⟩, fun h => ⟨_, rfl, convOp_gives h hsound⟩,
    fun r hr => absurd hr List.not_mem_nil⟩

theorem sumNat_eq_sum (l : List Nat) : sumNat l = l.sum := (List.sum_eq_foldl ..).symm

/-- Codes of six bits, lowest first, as a sum of weights. -/
theorem foldr_codes (l : List Nat) : l.foldr (fun c acc => c % 64 + 64 * acc) 0 = sumNat (l.zipIdx.map fun e => e.1 % 64 * 64 ^ e.2) := by
  rw [sumNat_eq_sum]
  suffices h : ∀ n, 64 ^ n * l.foldr (fun c acc => c % 64 + 64 * acc) 0 = ((l.zipIdx n).map fun e => e.1 % 64 * 64 ^ e.2).sum by
    simpa using h 0
  induction l with
  | nil => intro n; rfl
  | cons c l ih =>
    intro n
    rw [List.foldr_cons, List.zipIdx_cons, List.map_cons, List.sum_cons, ← ih]
    ring

theorem foldr_codes_lt (l : List Nat) : l.foldr (fun c acc => c % 64 + 64 * acc) 0 < 64 ^ l.length := by
  induction l with
  | nil => exact Nat.one_pos
  | cons c l ih =>
    rw [List.foldr_cons, List.length_cons, pow_succ]
    omega

/-- LPACK takes u32 and u64, which hold its codes (R291, R347). -/
theorem lpack_types {o : Op} (h : o.legalD 0x083 = true) : o.ty = 7 ∨ o.ty = 8 :=
  of_legalD (P := fun ty _ => ty = 7 ∨ ty = 8) (by decide) h

theorem regImage_codes {o : Op} (hty : o.ty = 7 ∨ o.ty = 8) (l : List Nat) :
    regImage o.ty ((l.take (if o.ty = 7 then 4 else 8)).foldr (fun c acc => c % 64 + 64 * acc) 0) =
      word64 (sumNat ((l.take (if o.ty = 7 then 4 else 8)).zipIdx.map fun e => e.1 % 64 * 64 ^ e.2)) := by
  rw [← foldr_codes]
  have hlt : ∀ n, (l.take n).foldr (fun c acc => c % 64 + 64 * acc) 0 < 64 ^ n := fun n =>
    (foldr_codes_lt _).trans_le (Nat.pow_le_pow_right (by decide) (List.length_take_le n l))
  obtain h | h := hty <;> rw [h]
  · exact (regImage_of_unsigned (ty := 7) rfl _).trans (congrArg word64 (Nat.mod_eq_of_lt ((hlt 4).trans (by decide))))
  · exact (regImage_of_unsigned (ty := 8) rfl _).trans (congrArg word64 (Nat.mod_eq_of_lt ((hlt 8).trans (by decide))))

theorem lunpk_code (w : Word) (e : Nat) : w.toNat / 64 ^ e % 64 = (w.extractLsb' (6 * e) 6).toNat := by
  rw [BitVec.extractLsb'_toNat, Nat.shiftRight_eq_div_pow, pow_mul]
  rfl

/-- The function field of SFN is one that R290 names, and its MOD is legal. -/
theorem legalV_sfn {o : Op} {k : SfnKind} (hk : sfnKind (o.mod.extractLsb' 4 4).toNat = some k) (hzero : o.mod.extractLsb' 0 3 = 0#3) :
    o.legalV 0x049 11 = true := by
  have hlt : (o.mod.extractLsb' 4 4).toNat < 10 := (List.getElem?_eq_some_iff.1 hk).1
  have hlow := congrArg BitVec.toNat hzero
  rw [BitVec.extractLsb'_toNat, Nat.shiftRight_eq_div_pow] at hlow hlt
  have hfields : o.mod.toNat % 8 = 0 ∧ o.mod.toNat / 16 < 10 := by
    have hmod := o.mod.isLt
    simp only [BitVec.toNat_ofNat] at hlow
    omega
  simp [Op.legalV, Lpf.modOk, hfields]

theorem sfn_gives {s : State} {o : Op} {k : SfnKind} (hslot : o.slot = if isWide s.cur.1 then 2 else 3)
    (hk : sfnKind (o.mod.extractLsb' 4 4).toNat = some k) (hzero : o.mod.extractLsb' 0 3 = 0#3) (hext : o.extOk true false false = true)
    (hsound : Sound s o [(o.selA, 1)] o.dest.toNat 1) :
    Completes (.sfn o) s fun t =>
      FloatGives s t o 11 (if o.mod.getLsbD 3 then 16 else 8) ((if o.mod.getLsbD 3 then 8 else 4) * unitGap s) fun l th =>
        [sfnValue k (o.mod.getLsbD 3) (fpFTZ s.me.regs.fpctl) (s.scalar o l th o.selA 11)] := by
  refine ⟨_, (show exec (.sfn o) s = execSfn o s from rfl), ?_⟩
  simp only [hk]
  refine floatOp_gives (f := fun s l t => [sfnValue k (o.mod.getLsbD 3) (fpFTZ s.me.regs.fpctl) (s.scalar o l t o.selA 11)]) ?_ hsound
  have hslot : (o.slot == sfnSlot s.myCore) = true := beq_iff_eq.2 hslot
  rw [hslot, legalV_sfn hk hzero, hext]
  rfl

/-- Settles O6: conversions by `convOp_gives`; LPACK sums its codes with their weights (`foldr_codes`). -/
theorem conversionResults : Obligations.ConversionResults := by
  refine fun s o => ⟨fun hslot r hr hlegal hsound => conversions_give hsound r hr hlegal, fun hslot hlegal hext hsound => ⟨_, rfl, ?_⟩,
    fun hslot hty hvar hext hsound => ⟨_, rfl, ?_⟩, fun hslot k hk hzero hext hsound => sfn_gives hslot hk hzero hext hsound⟩
  · have hty := lpack_types hlegal
    exact State.produce_gives_scalar (by rw [hlegal, hext]; rfl) (by rcases hty with h | h <;> rw [h] <;> rfl) hsound fun l t => regImage_codes hty _
  · have h := State.produce_gives (lat := 3) (interval := unitGap s) (ty := 29) (ok := o.ty == 29 && o.var < 2 && o.extOk true false false)
      (f := fun l t => (List.range o.elems).map fun e => if e < (if o.var = 1 then 8 else 4) then (s.word o l t o.selA).toNat / 64 ^ e % 64 else 0)
      (by rw [hty, hext, decide_eq_true hvar]; rfl) hsound
    rw [← hty] at h ⊢
    simp only [lunpk_code] at h ⊢
    exact h

/-! ### Lanes combined (R377, R394, R395) -/

/-- An op over lanes sends each its value, canonical, when its checks pass. -/
theorem laneOp_lands {s : State} {o : Op} {opc : Nat} {f : List (Nat × Nat) → Nat → Nat × Nat} {nv : List (Nat × Nat) → Bool}
    (hlegal : o.legalD opc = true) (hext : o.extOk true false false = true) (hsound : Sound s o [(o.selA, 1)] o.dest.toNat 1) :
    ∃ ls, Lands s (laneOp opc o f nv s) o .reg o.dest.toNat 1 (if isWide s.cur.1 then 10 else 12) (unitGap s)
      (fun l _ => [regImage o.ty (canon o.ty (f (given s o o.ty) l).1)]) ls := by
  unfold laneOp
  simp only [hlegal, hext, hsound.target, Bool.and_self, hsound.srcTraps, hsound.copyTraps, List.append_nil, runOp_nil, List.map_map]
  obtain ⟨ls, hlands, -⟩ := s.landUnit_lands o .reg o.dest.toNat 1 (if isWide s.cur.1 then 10 else 12) (unitGap s)
    (fun l _ => [regImage o.ty (canon o.ty (f (given s o o.ty) l).1)]) _ _ []
  exact ⟨ls, hlands⟩

theorem gives_of_eq {s t : State} {o : Op} {kind : DestKind} {dest width lat interval : Nat} {v w : Nat → Nat → List Word}
    (h : Gives s t o kind dest width lat interval v) (hv : ∀ l th, v l th = w l th) : Gives s t o kind dest width lat interval w :=
  (funext fun l => funext fun th => hv l th : v = w) ▸ h

theorem produce_gives_at {s : State} {o : Op} {ok : Bool} {srcs : List (Nat × Nat)} {ty lat interval n : Nat} {f : Nat → Nat → List Nat}
    (hregs : o.regsOf ty = n) (hok : ok = true) (hsound : Sound s o srcs o.dest.toNat n) :
    Gives s (s.produce o ok srcs [] ty lat interval f) o .reg o.dest.toNat n lat interval fun l t => o.resultWords ty (f l t) := by
  subst hregs
  exact State.produce_gives hok hsound

/-- The types of SHFL and VOTE are scalar, and those of VOTE unsigned (R290, R291). -/
theorem not_tile_of_shfl {o : Op} (h : o.legalD 0x04A = true) : isTileTy o.ty = false :=
  of_legalD (P := fun ty _ => isTileTy ty = false) (by decide) h

theorem vote_types {o : Op} (h : o.legalD 0x04B = true) : (o.var = 0 ∧ o.ty = 14) ∨ (o.var = 1 ∧ o.ty = 14) ∨ (o.var = 2 ∧ o.ty = 7) :=
  of_legalD (P := fun ty var => (var = 0 ∧ ty = 14) ∨ (var = 1 ∧ ty = 14) ∨ (var = 2 ∧ ty = 7)) (by decide) h

theorem shfl_gives {s : State} {o : Op} (hlegal : o.legalD 0x04A = true) (hext : o.extOk true true false = true)
    (hsound : Sound s o [(o.selA, 1)] o.dest.toNat 1) (hread : Readable s o [(o.selB, 1)]) :
    Completes (.shfl o) s fun t => Gives s t o .reg o.dest.toNat 1 6 (unitGap s) fun l th =>
      match (shuffled o.var l (src 32 s o o.selB l th)).bind fun j => (s.active o).find? (·.1 == j) with
      | some e => [regImage o.ty (s.scalar o e.1 e.2 o.selA o.ty)]
      | none => [regImage o.ty (s.scalar o l th o.selA o.ty)] := by
  have hscalar := not_tile_of_shfl hlegal
  have hregs : o.regsOf o.ty = 1 := by simp [Op.regsOf, hscalar]
  have hboth : Sound s o [(o.selA, 1), (o.selB, 1)] o.dest.toNat 1 :=
    ⟨List.forall_mem_cons.2 ⟨hsound.runs _ List.mem_cons_self, hread.runs⟩,
      fun e he => List.forall_mem_cons.2 ⟨hsound.clean e he _ List.mem_cons_self, hread.clean e he⟩, hsound.target, hsound.room⟩
  refine ⟨_, rfl, gives_of_eq (produce_gives_at hregs (by rw [hlegal, hext]; rfl) hboth) fun l th => ?_⟩
  rw [State.scalar_eq_src (ty := 7) rfl]
  change o.resultWords o.ty (match (shuffled o.var l (src 32 s o o.selB l th)).bind fun j => (s.active o).find? (·.1 == j) with
    | some (j, u) => [s.scalar o j u o.selA o.ty]
    | none => [s.scalar o l th o.selA o.ty]) = _
  cases (shuffled o.var l (src 32 s o o.selB l th)).bind fun j => (s.active o).find? (·.1 == j) <;> exact Op.resultWords_scalar hscalar o _

theorem vote_gives {s : State} {o : Op} (hlegal : o.legalD 0x04B = true) (hext : o.extOk true false false = true)
    (hsound : Sound s o [(o.selA, 1)] o.dest.toNat 1) :
    Completes (.vote o) s fun t => Gives s t o .reg o.dest.toNat 1 4 1 fun _ _ =>
      [match o.var with
      | 0 => if (s.active o).all fun e => (s.word o e.1 e.2 o.selA).getLsbD 0 then 1 else 0
      | 1 => if (s.active o).any fun e => (s.word o e.1 e.2 o.selA).getLsbD 0 then 1 else 0
      | _ => word64 (sumNat ((s.active o).map fun e => if (s.word o e.1 e.2 o.selA).getLsbD 0 then 2 ^ e.1 else 0) % 2 ^ 32)] := by
  have htypes := vote_types hlegal
  have hscalar : isTileTy o.ty = false := by obtain ⟨-, h⟩ | ⟨-, h⟩ | ⟨-, h⟩ := htypes <;> rw [h] <;> rfl
  have hregs : o.regsOf o.ty = 1 := by simp [Op.regsOf, hscalar]
  refine ⟨_, rfl, gives_of_eq (produce_gives_at hregs (by rw [hlegal, hext]; rfl) hsound) fun l th => ?_⟩
  simp only [List.map_map, List.all_map, List.any_map, Function.comp_def]
  obtain ⟨hvar, hty⟩ | ⟨hvar, hty⟩ | ⟨hvar, hty⟩ := htypes <;> simp only [hvar, hty]
  · exact congrArg (fun w => [w]) (regImage_pr _)
  · exact congrArg (fun w => [w]) (regImage_pr _)
  · exact congrArg (fun w => [w]) (regImage_of_unsigned (ty := 7) rfl _)

/-- Settles O7: SHFL and VOTE send one plain result; VRED and VSCAN fold the values of ACTIVE (`laneOp_lands`). -/
theorem laneResults : Obligations.LaneResults := by
  refine fun s o hslot hsound => ⟨fun hlegal hext hread => shfl_gives hlegal hext hsound hread,
    fun hlegal hext => vote_gives hlegal hext hsound, fun hlegal hext => ⟨_, rfl, laneOp_lands hlegal hext hsound⟩,
    fun inc hlegal hext => ⟨_, rfl, laneOp_lands hlegal hext hsound⟩⟩

end
end Sys2Proof.Machine
end

section
-- One proof after another, as in the sections before this one.
set_option Elab.async false

namespace Sys2Proof.Machine

section
open Sys2Proof.Claims

/-! ### Threads that leave their bins (R30) -/

section
variable {c : Ctx} (now : Nat)

theorem Ctx.claimOverflow_keeps {β : Type} {g : Ctx → β} (hg : ∀ c bins ov ths, g { c with bins := bins, overflow := ov, threads := ths } = g c)
    (c : Ctx) : g (c.claimOverflow now) = g c := by
  unfold Ctx.claimOverflow
  split
  · exact (foldl_keeps g (fun c _ => hg c c.bins c.overflow _) _ _).trans (hg c _ _ c.threads)
  · rfl

/-- A claim leaves bins and overflow list as they were, or a free bin takes all threads of a key. -/
theorem Ctx.claimOverflow_bins (c : Ctx) :
    ((c.claimOverflow now).bins = c.bins ∧ (c.claimOverflow now).overflow = c.overflow) ∨
      ∃ b bin, c.emptyBin = some b ∧ (∀ u, (bin.key, u) ∈ c.overflow → u ∈ bin.threads) ∧
        (c.claimOverflow now).bins = tset c.bins b bin ∧ (c.claimOverflow now).overflow = c.overflow.filter fun e => e.1 != bin.key := by
  unfold Ctx.claimOverflow
  split
  next key _ _ b _ hempty =>
    refine .inr ⟨b, ⟨key, _, now, _⟩, hempty, fun u hu => ?_, foldl_keeps Ctx.bins (by intros; rfl) _ _,
      foldl_keeps Ctx.overflow (by intros; rfl) _ _⟩
    exact (mem_sortBy _ _ _).2 (List.mem_map.2 ⟨_, List.mem_filter.2 ⟨hu, beq_self_eq_true _⟩, rfl⟩)
  next => exact .inl ⟨rfl, rfl⟩

theorem Ctx.claimOverflow_overflow {e : BinKey × Nat} (he : e ∈ (c.claimOverflow now).overflow) : e ∈ c.overflow := by
  obtain ⟨-, hover⟩ | ⟨b, bin, -, -, -, hover⟩ := c.claimOverflow_bins now <;> rw [hover] at he
  · exact he
  · exact (List.mem_filter.1 he).1

theorem Ctx.claimOverflow_rises (h : Rises c.bins) : Rises (c.claimOverflow now).bins := by
  obtain ⟨hbins, -⟩ | ⟨b, bin, -, -, hbins, -⟩ := c.claimOverflow_bins now <;> rw [hbins]
  · exact h
  · exact h.tset _ _

/-- A bin that claims a key of the overflow list takes every thread of it, so each thread stays filed at its key. -/
theorem Filed.claimOverflow {key : BinKey} {u : Nat} (hu : Filed c key u) (h : Rises c.bins) : Filed (c.claimOverflow now) key u := by
  obtain ⟨hbins, hover⟩ | ⟨b, bin, hempty, htakes, hbins, hover⟩ := c.claimOverflow_bins now
  · exact hu.of_eq hbins hover
  · unfold Filed
    rw [hbins, hover]
    obtain ⟨e, he, hkey, hmem⟩ | hu := hu
    · have hne : e.1 ≠ b := by
        rintro rfl
        exact Option.some_ne_none _ ((h.tget_of_mem he).symm.trans (Ctx.tget_emptyBin hempty))
      exact .inl ⟨e, mem_tset_of_ne _ he hne, hkey, hmem⟩
    · by_cases hkey : key = bin.key
      · exact .inl ⟨_, mem_tset_self _ _ _, hkey.symm, htakes u (hkey ▸ hu)⟩
      · exact .inr (List.mem_filter.2 ⟨hu, bne_iff_ne.2 hkey⟩)

variable (t : Nat)

/-- A context without a thread in its bins and its overflow list, before a freed bin claims a key. -/
def Ctx.withdrawn (c : Ctx) (now t : Nat) : Ctx :=
  { c with
    bins := ((c.bins.map fun e => (e.1, { e.2 with threads := e.2.threads.filter (· != t) })).filter fun e => !e.2.threads.isEmpty).map
      fun e => (e.1, e.2.recount now c.regs.binage)
    overflow := c.overflow.filter fun e => e.2 != t }

theorem Ctx.unfile_eq : c.unfile now t = c.withdrawn now t ∨ c.unfile now t = (c.withdrawn now t).claimOverflow now := by
  unfold Ctx.unfile
  dsimp only
  split
  · exact .inr rfl
  · exact .inl rfl

theorem Bin.recount_threads (b : Bin) (binage : Nat) : (b.recount now binage).key = b.key ∧ (b.recount now binage).threads = b.threads := by
  unfold Bin.recount
  dsimp only
  split <;> exact ⟨rfl, rfl⟩

theorem Ctx.withdrawn_rises (h : Rises c.bins) : Rises (c.withdrawn now t).bins := by
  refine List.pairwise_map.2 (List.Pairwise.filter _ (List.pairwise_map.2 ?_))
  exact h

theorem Filed.withdrawn {key : BinKey} {u : Nat} (hu : Filed c key u) (hne : u ≠ t) : Filed (c.withdrawn now t) key u := by
  obtain ⟨e, he, hkey, hmem⟩ | hu := hu
  · have hleft : u ∈ e.2.threads.filter (· != t) := List.mem_filter.2 ⟨hmem, bne_iff_ne.2 hne⟩
    refine .inl ⟨_, List.mem_map.2 ⟨_, List.mem_filter.2 ⟨List.mem_map.2 ⟨e, he, rfl⟩, ?_⟩, rfl⟩, ?_, ?_⟩
    · simpa using ⟨u, hmem, hne⟩
    · exact (Bin.recount_threads now _ _).1.trans hkey
    · rw [(Bin.recount_threads now _ _).2]
      exact hleft
  · exact .inr (List.mem_filter.2 ⟨hu, bne_iff_ne.2 hne⟩)

theorem Filed.unfile {key : BinKey} {u : Nat} (hu : Filed c key u) (hne : u ≠ t) (h : Rises c.bins) : Filed (c.unfile now t) key u := by
  obtain heq | heq := Ctx.unfile_eq (c := c) now t <;> rw [heq]
  · exact hu.withdrawn now t hne
  · exact (hu.withdrawn now t hne).claimOverflow now (Ctx.withdrawn_rises now t h)

theorem Ctx.unfile_rises (h : Rises c.bins) : Rises (c.unfile now t).bins := by
  obtain heq | heq := Ctx.unfile_eq (c := c) now t <;> rw [heq]
  · exact Ctx.withdrawn_rises now t h
  · exact Ctx.claimOverflow_rises now (Ctx.withdrawn_rises now t h)

theorem Ctx.unfile_overflow {e : BinKey × Nat} (he : e ∈ (c.unfile now t).overflow) : e ∈ c.overflow ∧ e.2 ≠ t := by
  have hw : e ∈ (c.withdrawn now t).overflow := by
    obtain heq | heq := Ctx.unfile_eq (c := c) now t <;> rw [heq] at he
    · exact he
    · exact Ctx.claimOverflow_overflow now he
  obtain ⟨hmem, hne⟩ := List.mem_filter.1 hw
  exact ⟨hmem, bne_iff_ne.1 hne⟩

theorem Ctx.unfile_keeps {β : Type} {g : Ctx → β} (hg : ∀ c bins ov ths, g { c with bins := bins, overflow := ov, threads := ths } = g c)
    (c : Ctx) : g (c.unfile now t) = g c := by
  have hw : g (c.withdrawn now t) = g c := hg c _ _ c.threads
  obtain heq | heq := Ctx.unfile_eq (c := c) now t <;> rw [heq]
  · exact hw
  · exact (Ctx.claimOverflow_keeps now hg _).trans hw

/-- A thread that waits on no overflow list stays as it was while another leaves its bin. -/
theorem Ctx.unfile_thread {u : Nat} (hu : ∀ e ∈ c.overflow, e.2 ≠ u) : (c.unfile now t).thread u = c.thread u := by
  obtain heq | heq := Ctx.unfile_eq (c := c) now t <;> rw [heq]
  · rfl
  · exact (Ctx.claimOverflow_frame _ now).2.2 u fun e he => hu e (List.mem_filter.1 he).1

end

/-! ### Trap-parked threads (R255, R259, R262) -/

/-- What a record reads of a context beside its bundle (R259). -/
def Ctx.recordView (c : Ctx) : Option Wg × Tmpl × (Nat → Nat) := (c.wg, c.tmpl, fun t => (c.thread t).level)

/-- A record does not depend on the rest of the cores nor on the agenda. -/
theorem State.recordWords_congr {s u : State} {k x : Nat} (hrest : u = { s with cores := u.cores, agenda := u.agenda })
    (hview : (u.ctx k x).recordView = (s.ctx k x).recordView) (t : Nat) (tr : Trap) (late eng : Bool) (at_ stop : Pc)
    (point : Option (Nat × Nat)) (tick : Option Nat) :
    u.recordWords k x t tr late eng at_ stop point tick = s.recordWords k x t tr late eng at_ stop point tick := by
  simp only [Ctx.recordView, Prod.mk.injEq] at hview
  obtain ⟨hwg, htmpl, hlevel⟩ := hview
  have hlevel : ∀ t, ((u.ctx k x).thread t).level = ((s.ctx k x).thread t).level := congrFun hlevel
  have hitem : ∀ n, (u.ctx k x).item t n = (s.ctx k x).item t n := fun n => by simp only [Ctx.item, hwg, htmpl, hlevel]
  have hbuild : (u.ctx k x).building t = (s.ctx k x).building t := by simp only [Ctx.building, hwg, htmpl]
  have hlaunch : u.launchOf (u.ctx k x) = s.launchOf (s.ctx k x) := by
    rw [State.launchOf, hwg, hrest]
    rfl
  have hgtc : u.gtc = s.gtc := by rw [hrest]; rfl
  have htrans : u.trans k at_ = s.trans k at_ := by rw [hrest]; rfl
  have hpoint : u.attributed k tr.code at_ point = s.attributed k tr.code at_ point := by rw [hrest]; rfl
  simp only [State.recordWords, hitem, hbuild, hlaunch, hgtc, htrans, hpoint, hwg, htmpl]

section
variable (k x : Nat)

/-- A trap-parked thread with its hold. -/
def Thread.trapPark (h : TrapHold) (th : Thread) : Thread := { th with place := .trap, pend := none, trap := some { h with was := .bin } }

/-- The context of a thread that is trap-parked at a precise trap. -/
theorem State.park_ctx (s : State) (t : Nat) {h : TrapHold} (hlate : h.late = false) (eng : Bool) (tick : Option Nat) :
    ∃ bars, (s.park k x t h eng tick).ctx k x = (Ctx.unfile s.now t { s.ctx k x with bars := bars }).modThread t (·.trapPark h) := by
  obtain ⟨trap, late, at_, stop, dest, answer, point, unissued, was⟩ := h
  subst hlate
  unfold State.park
  dsimp only
  rw [State.ctx_modCtx]
  unfold State.leavePark
  dsimp only
  rw [State.ctx_modCore_of_ctxs _ _ _ fun _ => by rfl, State.ctx_modCtx]
  unfold State.addRecord
  dsimp only
  rw [State.ctx_schedule, State.ctx_modCore_of_ctxs _ _ _ fun _ => by rfl]
  exact ⟨_, rfl⟩

/-- Parking a thread changes the cores and the agenda alone. -/
theorem State.park_rest (s : State) (t : Nat) (h : TrapHold) (eng : Bool) (tick : Option Nat) :
    s.park k x t h eng tick = { s with cores := (s.park k x t h eng tick).cores, agenda := (s.park k x t h eng tick).agenda } := rfl

/-- Its record joins those of the core. -/
theorem State.park_recs (s : State) (t : Nat) {h : TrapHold} (hlate : h.late = false) (eng : Bool) (tick : Option Nat) :
    ((s.park k x t h eng tick).core k).recs =
      (s.core k).recs ++ [⟨s.recordWords k x t h.trap false eng h.at_ h.at_ h.point tick, x, t⟩] := by
  unfold State.park State.leavePark State.addRecord
  simp only [hlate, State.core_modCtx, State.core_modCore, State.core_schedule, Core.modCtx, Bool.false_eq_true, if_false]

section
variable {s : State} {t : Nat} {h : TrapHold} (hlate : h.late = false)
include hlate

theorem State.park_keeps {β : Type} {g : Ctx → β}
    (hg : ∀ c bars bins ov ths, g { c with bars := bars, bins := bins, overflow := ov, threads := ths } = g c) :
    g ((s.park k x t h).ctx k x) = g (s.ctx k x) := by
  obtain ⟨bars, hctx⟩ := State.park_ctx k x s t hlate false none
  rw [hctx]
  refine (hg (Ctx.unfile s.now t { s.ctx k x with bars := bars }) _ _ _ _).trans ?_
  refine (Ctx.unfile_keeps (g := g) s.now t (fun c bins ov ths => hg c c.bars bins ov ths) _).trans ?_
  exact hg (s.ctx k x) bars _ _ _

theorem State.park_thread {β : Type} {g : Thread → β} (hg : ∀ th p q r, g { th with place := p, pend := q, trap := r } = g th) (u : Nat) :
    g (((s.park k x t h).ctx k x).thread u) = g ((s.ctx k x).thread u) := by
  obtain ⟨bars, hctx⟩ := State.park_ctx k x s t hlate false none
  have hunfile : g ((Ctx.unfile s.now t { s.ctx k x with bars := bars }).thread u) = g ((s.ctx k x).thread u) :=
    Ctx.thread_unfile (g := g) (fun th p q => hg th p q th.trap) s.now t _ u
  rw [hctx]
  by_cases hu : u = t
  · rw [hu] at hunfile ⊢
    rw [Ctx.thread_modThread, ← hunfile]
    exact hg _ _ _ _
  · rw [Ctx.thread_modThread_ne _ _ hu, hunfile]

theorem State.park_view : ((s.park k x t h).ctx k x).recordView = (s.ctx k x).recordView := by
  have hwg := State.park_keeps k x hlate (s := s) (t := t) (g := fun c => (c.wg, c.tmpl)) fun _ _ _ _ _ => rfl
  have hlevel := fun u => State.park_thread k x hlate (s := s) (t := t) (g := Thread.level) (fun _ _ _ _ => rfl) u
  simp only [Prod.mk.injEq] at hwg
  simp only [Ctx.recordView, hwg.1, hwg.2, hlevel]

theorem State.park_rises (hrise : Rises (s.ctx k x).bins) : Rises ((s.park k x t h).ctx k x).bins := by
  obtain ⟨bars, hctx⟩ := State.park_ctx k x s t hlate false none
  rw [hctx]
  exact Ctx.unfile_rises (c := { s.ctx k x with bars := bars }) s.now t hrise

theorem State.park_filed {key : BinKey} {u : Nat} (hrise : Rises (s.ctx k x).bins) (hu : Filed (s.ctx k x) key u) (hne : u ≠ t) :
    Filed ((s.park k x t h).ctx k x) key u := by
  obtain ⟨bars, hctx⟩ := State.park_ctx k x s t hlate false none
  rw [hctx]
  exact Filed.unfile (c := { s.ctx k x with bars := bars }) s.now t hu hne hrise

theorem State.park_overflow {e : BinKey × Nat} (he : e ∈ ((s.park k x t h).ctx k x).overflow) : e ∈ (s.ctx k x).overflow ∧ e.2 ≠ t := by
  obtain ⟨bars, hctx⟩ := State.park_ctx k x s t hlate false none
  rw [hctx] at he
  exact Ctx.unfile_overflow (c := { s.ctx k x with bars := bars }) s.now t he

theorem State.park_parked : (((s.park k x t h).ctx k x).thread t).place = .trap ∧
    (((s.park k x t h).ctx k x).thread t).trap = some { h with was := .bin } := by
  obtain ⟨bars, hctx⟩ := State.park_ctx k x s t hlate false none
  rw [hctx, Ctx.thread_modThread]
  exact ⟨rfl, rfl⟩

theorem State.park_thread_ne {u : Nat} (hu : ∀ e ∈ (s.ctx k x).overflow, e.2 ≠ u) (hne : u ≠ t) :
    ((s.park k x t h).ctx k x).thread u = (s.ctx k x).thread u := by
  obtain ⟨bars, hctx⟩ := State.park_ctx k x s t hlate false none
  rw [hctx, Ctx.thread_modThread_ne _ _ hne]
  exact Ctx.unfile_thread (c := { s.ctx k x with bars := bars }) s.now t hu

end

/-- Threads parked one after another, each with its hold. -/
def State.parkAll (s : State) (hold : Nat × Trap → TrapHold) (traps : List (Nat × Trap)) : State :=
  traps.foldl (fun s e => s.park k x e.1 (hold e)) s

section
variable {hold : Nat × Trap → TrapHold} (hlate : ∀ e, (hold e).late = false)

theorem State.parkAll_rest (s : State) (traps : List (Nat × Trap)) :
    s.parkAll k x hold traps =
      { s with cores := (s.parkAll k x hold traps).cores, agenda := (s.parkAll k x hold traps).agenda } := by
  induction traps generalizing s with
  | nil => rfl
  | cons e traps ih => exact ih (s.park k x e.1 (hold e))

include hlate

theorem State.parkAll_keeps {β : Type} {g : Ctx → β}
    (hg : ∀ c bars bins ov ths, g { c with bars := bars, bins := bins, overflow := ov, threads := ths } = g c) (s : State)
    (traps : List (Nat × Trap)) : g ((s.parkAll k x hold traps).ctx k x) = g (s.ctx k x) :=
  foldl_keeps (fun s : State => g (s.ctx k x)) (fun _ e => State.park_keeps k x (hlate e) hg) _ _

theorem State.parkAll_thread {β : Type} {g : Thread → β} (hg : ∀ th p q r, g { th with place := p, pend := q, trap := r } = g th)
    (s : State) (traps : List (Nat × Trap)) (u : Nat) : g (((s.parkAll k x hold traps).ctx k x).thread u) = g ((s.ctx k x).thread u) :=
  foldl_keeps (fun s : State => g ((s.ctx k x).thread u)) (fun _ e => State.park_thread k x (hlate e) hg u) _ _

theorem State.parkAll_recs (s : State) (traps : List (Nat × Trap)) : ((s.parkAll k x hold traps).core k).recs = (s.core k).recs ++
    traps.map fun e => ⟨s.recordWords k x e.1 (hold e).trap false false (hold e).at_ (hold e).at_ (hold e).point none, x, e.1⟩ := by
  induction traps generalizing s with
  | nil => exact (List.append_nil _).symm
  | cons e traps ih =>
    refine (ih (s.park k x e.1 (hold e))).trans ?_
    rw [State.park_recs k x s e.1 (hlate e), List.append_assoc]
    simp only [State.recordWords_congr (s.park_rest k x e.1 (hold e) false none) (State.park_view k x (hlate e))]
    rfl

theorem State.parkAll_filed {s : State} {key : BinKey} {u : Nat} (hrise : Rises (s.ctx k x).bins) (hu : Filed (s.ctx k x) key u)
    {traps : List (Nat × Trap)} (hne : ∀ e ∈ traps, e.1 ≠ u) : Filed ((s.parkAll k x hold traps).ctx k x) key u :=
  (List.foldlRecOn (motive := fun s : State => Rises (s.ctx k x).bins ∧ Filed (s.ctx k x) key u) traps _ ⟨hrise, hu⟩
    fun _ hs e he => ⟨State.park_rises k x (hlate e) hs.1, State.park_filed k x (hlate e) hs.1 hs.2 (hne e he).symm⟩).2

/-- A parked thread stays parked while the others are. -/
theorem State.parkAll_parked (s : State) {traps : List (Nat × Trap)} (hnodup : (traps.map (·.1)).Nodup) {e : Nat × Trap} (he : e ∈ traps) :
    (((s.parkAll k x hold traps).ctx k x).thread e.1).place = .trap ∧
      (((s.parkAll k x hold traps).ctx k x).thread e.1).trap = some { hold e with was := .bin } := by
  induction traps generalizing s with
  | nil => cases he
  | cons d traps ih =>
    obtain ⟨hd, hnodup⟩ := List.nodup_cons.1 hnodup
    obtain rfl | he := List.mem_cons.1 he
    · have hout : ∀ d ∈ traps, d.1 ≠ e.1 := fun d hd' h => hd (List.mem_map.2 ⟨d, hd', h⟩)
      obtain ⟨hthread, -⟩ := List.foldlRecOn (motive := fun u : State => (u.ctx k x).thread e.1 = ((s.park k x e.1 (hold e)).ctx k x).thread e.1 ∧
          ∀ f ∈ (u.ctx k x).overflow, f.2 ≠ e.1) traps (fun s e => s.park k x e.1 (hold e))
        ⟨rfl, fun f hf => (State.park_overflow k x (hlate e) hf).2⟩ fun u hu d hd =>
          ⟨(State.park_thread_ne k x (hlate d) hu.2 (hout d hd).symm).trans hu.1, fun f hf => hu.2 f (State.park_overflow k x (hlate d) hf).1⟩
      exact hthread ▸ State.park_parked k x (hlate e)
    · exact ih _ hnodup he

end
end

/-! ### The traps of a bundle (R255) -/

theorem nodup_eq_self {l : List Nat} (h : l.Nodup) : nodup l = l := by
  suffices H : ∀ acc : List Nat, (acc ++ l).Nodup → l.foldl (fun acc x => if acc.contains x then acc else acc ++ [x]) acc = acc ++ l from H [] h
  clear h
  induction l with
  | nil => intro acc _; simp
  | cons x l ih =>
    intro acc hacc
    have hx : x ∉ acc := fun hmem => (List.nodup_append.1 hacc).2.2 x hmem x List.mem_cons_self rfl
    rw [List.foldl_cons, if_neg (by simpa using hx), ih _ (by simpa using hacc), List.append_assoc]
    rfl

theorem insertBy_map {α : Type} (key : α → Nat) (x : α) (l : List α) : insertBy id (key x) (l.map key) = (insertBy key x l).map key := by
  induction l with
  | nil => rfl
  | cons y l ih =>
    simp only [List.map_cons, insertBy, id]
    split
    · rfl
    · rw [List.map_cons, ih]

theorem sortBy_map {α : Type} (key : α → Nat) (l : List α) : sortBy id (l.map key) = (sortBy key l).map key := by
  induction l with
  | nil => rfl
  | cons x l ih => exact (congrArg (insertBy id (key x)) ih).trans (insertBy_map key x _)

theorem insertBy_perm {α : Type} (key : α → Nat) (x : α) (l : List α) : (insertBy key x l).Perm (x :: l) := by
  induction l with
  | nil => rfl
  | cons y l ih =>
    unfold insertBy
    split
    · rfl
    · exact (ih.cons y).trans (.swap x y l)

theorem sortBy_perm {α : Type} (key : α → Nat) (l : List α) : (sortBy key l).Perm l := by
  induction l with
  | nil => rfl
  | cons x l ih => exact (insertBy_perm key x _).trans (ih.cons x)

theorem find?_of_nodup {traps : List (Nat × Trap)} (hnodup : (traps.map (·.1)).Nodup) (pc : Pc) {e : Nat × Trap} (he : e ∈ traps) :
    (traps.map fun e => (e.1, e.2, pc)).find? (·.1 == e.1) = some (e.1, e.2, pc) := by
  induction traps with
  | nil => cases he
  | cons d traps ih =>
    obtain ⟨hd, hnodup⟩ := List.nodup_cons.1 hnodup
    obtain rfl | he := List.mem_cons.1 he
    · simp
    · have hne : d.1 ≠ e.1 := fun h => hd (List.mem_map.2 ⟨e, he, h.symm⟩)
      rw [List.map_cons, List.find?_cons_of_neg (by simpa using hne), ih hnodup he]

/-- The hold of a precise trap at the bundle in execution. -/
def State.precise (s : State) (e : Nat × Trap) : TrapHold :=
  { trap := e.2, late := false, at_ := s.me.pc, stop := ⟨s.me.pc, s.group.pendOf e.1⟩, dest := none }

/-- The context once the threads of its issue group but these are filed at the bundle, and the group is over. -/
def State.restFiled (s : State) (ts : List Nat) : State :=
  s.modMe fun c => { (c.fileGroup (s.after 1) s.group s.group.pc (s.group.threads.filter fun t => !ts.contains t)).noGroup with second := false }

/-- Steps by thread that park the thread of each trap. -/
theorem foldl_parks (k x : Nat) (hold : Nat × Trap → TrapHold) {step : State → Nat → State} (s : State) {traps : List (Nat × Trap)}
    (hstep : ∀ e ∈ traps, ∀ u, step u e.1 = u.park k x e.1 (hold e)) : (traps.map (·.1)).foldl step s = s.parkAll k x hold traps := by
  induction traps generalizing s with
  | nil => rfl
  | cons e traps ih =>
    obtain ⟨he, htraps⟩ := List.forall_mem_cons.1 hstep
    rw [List.map_cons, List.foldl_cons, he]
    exact ih _ htraps

/-- Outside the firmware slot, the other threads are filed at the bundle and the trapping ones parked in ascending order. -/
theorem State.takeTraps_eq {s : State} (hx : s.cur.2 < 4) {traps : List (Nat × Trap)} (hnodup : (traps.map (·.1)).Nodup) :
    s.takeTraps s.cur.1 s.cur.2 traps =
      (s.restFiled (sortBy id (traps.map (·.1)))).parkAll s.cur.1 s.cur.2 s.precise (sortBy (·.1) traps) := by
  have hfw : (s.cur.2 == 4) = false := beq_eq_false_iff_ne.2 (by omega)
  unfold State.takeTraps State.takeTrapsAt
  simp only [List.map_map, Function.comp_def, nodup_eq_self hnodup, hfw, Bool.false_eq_true, if_false]
  have hbase : s.restFiled (sortBy id (traps.map (·.1))) = s.modCtx s.cur.1 s.cur.2 fun c =>
      { (c.fileGroup (s.after 1) s.group s.group.pc (s.group.threads.filter fun t => !(sortBy id (traps.map (·.1))).contains t)).noGroup with
        second := false } := rfl
  change List.foldl _ (s.modCtx s.cur.1 s.cur.2 fun c => { (c.fileGroup (s.after 1) s.group s.group.pc
    (s.group.threads.filter fun t => !(sortBy id (traps.map (·.1))).contains t)).noGroup with second := false }) _ = _
  rw [← hbase, sortBy_map]
  refine foldl_parks s.cur.1 s.cur.2 s.precise _ fun e he u => ?_
  rw [find?_of_nodup hnodup _ ((mem_sortBy _ _ _).1 he)]
  change u.park s.cur.1 s.cur.2 e.1 { trap := e.2, late := false, at_ := s.me.pc, stop := ⟨s.group.pc, s.group.pendOf e.1⟩, dest := none } = _
  rw [s.group_pc]
  rfl

section
variable {s : State} (ts : List Nat)

theorem State.restFiled_keeps {β : Type} {g : Ctx → β}
    (hg : ∀ c bins ov ths, g { c with bins := bins, overflow := ov, threads := ths } = g c)
    (hend : ∀ c b, g { c.noGroup with second := b } = g c) : g (s.restFiled ts).me = g s.me := by
  rw [State.restFiled, State.me_modMe, hend]
  exact Ctx.fileKeys_keeps hg _ _ _

theorem State.restFiled_thread {β : Type} {g : Thread → β} (hg : ∀ th p q, g { th with place := p, pend := q } = g th) (u : Nat) :
    g ((s.restFiled ts).me.thread u) = g (s.me.thread u) := by
  rw [State.restFiled, State.me_modMe]
  exact Ctx.thread_fileKeys hg _ _ _ u

theorem State.restFiled_view : (s.restFiled ts).me.recordView = s.me.recordView := by
  have hkeeps := s.restFiled_keeps ts (g := fun c => (c.wg, c.tmpl)) (fun _ _ _ _ => rfl) fun _ _ => rfl
  simp only [Prod.mk.injEq] at hkeeps
  simp only [Ctx.recordView, hkeeps.1, hkeeps.2, s.restFiled_thread ts (g := Thread.level) fun _ _ _ => rfl]

theorem Ctx.fileKeys_rises {c : Ctx} (h : Rises c.bins) (at_ : Nat) (keys : List (Nat × BinKey)) : Rises (c.fileKeys at_ keys).bins :=
  List.foldlRecOn (motive := fun d : Ctx => Rises d.bins) _ _ h fun _ hd key _ => Ctx.file_rises hd at_ key _

theorem State.restFiled_rises (h : Rises s.me.bins) : Rises (s.restFiled ts).me.bins := by
  rw [State.restFiled, State.me_modMe]
  exact Ctx.fileKeys_rises h _ _

theorem State.restFiled_filed (h : Rises s.me.bins) {t : Nat} (ht : t ∈ s.group.threads) (hout : t ∉ ts) :
    Filed (s.restFiled ts).me ⟨s.me.pc, s.group.pendOf t⟩ t := by
  have hmem : t ∈ s.group.threads.filter fun t => !ts.contains t := List.mem_filter.2 ⟨ht, by simpa using hout⟩
  rw [State.restFiled, State.me_modMe]
  have hfiled : Filed (s.me.fileGroup (s.after 1) s.group s.group.pc (s.group.threads.filter fun t => !ts.contains t))
      ⟨s.group.pc, s.group.pendOf t⟩ t := Ctx.fileKeys_filed h (s.after 1) (List.mem_map.2 ⟨t, hmem, rfl⟩)
  rw [← s.group_pc]
  exact hfiled.of_eq rfl rfl

end

/-- Traps outside the firmware slot trap-park their threads. -/
theorem State.takeTraps_parks {s : State} (hx : s.cur.2 < 4) (htidy : s.me.Tidy) {traps : List (Nat × Trap)} (hnodup : (traps.map (·.1)).Nodup) :
    TrapParks s (s.takeTraps s.cur.1 s.cur.2 traps) traps := by
  rw [State.takeTraps_eq hx hnodup]
  generalize hts : sortBy id (traps.map (·.1)) = ts
  have hmem : ∀ t, t ∈ ts ↔ t ∈ traps.map (·.1) := fun t => hts ▸ mem_sortBy id t _
  have hlate : ∀ e, (s.precise e).late = false := fun _ => rfl
  have hsorted : ((sortBy (·.1) traps).map (·.1)).Nodup := ((sortBy_perm (·.1) traps).map (·.1)).nodup_iff.2 hnodup
  have hcur := congrArg State.cur (State.parkAll_rest s.cur.1 s.cur.2 (s.restFiled ts) (hold := s.precise) (sortBy (·.1) traps))
  change _ = s.cur at hcur
  have hme : ((s.restFiled ts).parkAll s.cur.1 s.cur.2 s.precise (sortBy (·.1) traps)).me =
      ((s.restFiled ts).parkAll s.cur.1 s.cur.2 s.precise (sortBy (·.1) traps)).ctx s.cur.1 s.cur.2 := by
    rw [State.me, State.myCore, State.myCtxNo, hcur]
  refine ⟨fun e he => ?_, ?_, fun th hth hout => ?_, ?_, fun th => ?_⟩
  · rw [hme]
    exact State.parkAll_parked _ _ hlate _ hsorted ((mem_sortBy _ _ _).2 he)
  · have hrecs := State.parkAll_recs s.cur.1 s.cur.2 hlate (s.restFiled ts) (sortBy (·.1) traps)
    have hwords := State.recordWords_congr (s := s) (u := s.restFiled ts) (k := s.cur.1) (x := s.cur.2) rfl (s.restFiled_view ts)
    simp only [hwords] at hrecs
    rw [State.home, State.myCore, hcur, hrecs, State.restFiled, State.modMe, State.myCore, State.myCtxNo, State.core_modCtx]
    rfl
  · rw [hme]
    have hts : th ∉ ts := fun h => by
      obtain ⟨e, he, hth⟩ := List.mem_map.1 ((hmem th).1 h)
      exact hout e he hth
    exact State.parkAll_filed _ _ hlate (s.restFiled_rises ts htidy.bins) (s.restFiled_filed ts htidy.bins hth hts) fun e he => hout e ((mem_sortBy _ _ _).1 he)
  · rw [hme, State.parkAll_keeps (g := Ctx.group) _ _ hlate fun _ _ _ _ _ => rfl]
    exact (congrArg Ctx.group (s.me_modMe _)).trans rfl
  · rw [hme]
    have hthread := State.parkAll_thread s.cur.1 s.cur.2 hlate (g := fun th => (th.regs, th.qs, th.copies)) (fun _ _ _ _ => rfl) (s.restFiled ts)
      (sortBy (·.1) traps) th
    have hrest := s.restFiled_thread ts (g := fun th => (th.regs, th.qs, th.copies)) (fun _ _ _ => rfl) th
    simpa only [Prod.mk.injEq] using hthread.trans hrest

/-- A later trap of a thread that traps already adds nothing. -/
theorem State.takeTraps_append (s : State) (k x : Nat) {traps more : List (Nat × Trap)} (h : ∀ e ∈ more, e.1 ∈ traps.map (·.1)) :
    s.takeTraps k x (traps ++ more) = s.takeTraps k x traps := by
  have hnodup : nodup ((traps ++ more).map (·.1)) = nodup (traps.map (·.1)) := by
    rw [nodup, List.map_append, List.foldl_append]
    refine List.foldlRecOn (motive := fun acc => acc = nodup (traps.map (·.1))) _ _ rfl fun acc hacc b hb => ?_
    obtain ⟨e, he, rfl⟩ := List.mem_map.1 hb
    rw [hacc]
    exact if_pos (List.contains_iff_mem.2 ((mem_nodup _ _).2 (h e he)))
  have hfind : ∀ (pc : Pc) (t : Nat), (((traps ++ more).map fun e => (e.1, e.2, pc)).find? (·.1 == t)) =
      (traps.map fun e => (e.1, e.2, pc)).find? (·.1 == t) := fun pc t => by
    rw [List.map_append, List.find?_append]
    cases hfirst : (traps.map fun e => (e.1, e.2, pc)).find? (·.1 == t) with
    | some e => rfl
    | none =>
      refine List.find?_eq_none.2 fun e he ht => ?_
      obtain ⟨d, hd, rfl⟩ := List.mem_map.1 he
      obtain ⟨c, hc, hcd⟩ := List.mem_map.1 (h d hd)
      exact List.find?_eq_none.1 hfirst _ (List.mem_map_of_mem hc) (by simpa [hcd] using ht)
  unfold State.takeTraps State.takeTrapsAt
  simp only [List.map_map, Function.comp_def, hnodup, hfind]

section
variable {s : State} {o : Op}

theorem acting_nodup (htidy : s.me.Tidy) : (acting s o).Nodup := by
  have hgroup : (s.me.group.map Group.threads).getD [] = s.group.threads := by
    unfold State.group
    cases s.me.group <;> rfl
  have hlanes : s.group.threads.Nodup := hgroup ▸ htidy.lanes
  exact hlanes.sublist (List.filter_sublist.map _)

theorem acting_ne_nil (h : s.active o ≠ []) : acting s o ≠ [] := fun hnil => h (List.map_eq_nil_iff.1 hnil)

variable (hx : s.cur.2 < 4) (hcollect : s.collect = none) (htidy : s.me.Tidy)
include hx hcollect htidy

/-- An op that raises one trap in every thread of ACTIVE parks them with it, whatever further traps it finds there. -/
theorem runOp_parks (hact : s.active o ≠ []) (slot : Nat) (tr : Trap) (eff : State → State) {more : List (Nat × Trap)}
    (hmore : ∀ e ∈ more, e.1 ∈ acting s o) :
    TrapParks s (runOp slot ((acting s o).map (fun th => (th, tr)) ++ more) eff s) ((acting s o).map fun th => (th, tr)) := by
  have hkeys : ((acting s o).map fun th => (th, tr)).map (·.1) = acting s o := by simp [Function.comp_def]
  have hne : (acting s o).map (fun th => (th, tr)) ++ more ≠ [] := fun h =>
    acting_ne_nil hact (List.map_eq_nil_iff.1 (List.append_eq_nil_iff.1 h).1)
  rw [runOp_trap slot hne, State.trapped_alone hcollect, State.takeTraps_append _ _ _ (by rwa [hkeys])]
  exact State.takeTraps_parks hx htidy (by rw [hkeys]; exact acting_nodup htidy)

theorem runOp_parks_all (hact : s.active o ≠ []) (slot : Nat) (tr : Trap) (eff : State → State) :
    TrapParks s (runOp slot ((acting s o).map fun th => (th, tr)) eff s) ((acting s o).map fun th => (th, tr)) := by
  have h := runOp_parks hx hcollect htidy hact slot tr eff (more := []) fun e he => absurd he List.not_mem_nil
  rwa [List.append_nil] at h

end

/-! ### TRAP and BRK (R322, R392) -/

theorem raiseOp_eq {o : Op} (hext : o.ext = none) (hmod : o.mod = 0#8) (hdest : o.dest = 0#10) (code : TrapCode) (s : State) :
    raiseOp code o s = runOp o.slot ((acting s o).map fun th => (th, ⟨code, (o.j.extractLsb' 0 8).toNat, 0⟩)) id s := by
  have hlegal : (o.legalJ && o.dest == 0#10) = true := by simp [Op.legalJ, hext, hmod, hdest]
  simp only [raiseOp, hlegal, if_true, acting, List.map_map]
  rfl

/-- Settles O18: the op is one trap of every thread of ACTIVE (`runOp_parks_all`), and nothing where there is none. -/
theorem raisingOps : Obligations.RaisingOps := by
  intro s o r hr hext hmod hdest hx hcollect htidy
  have hboth : ∀ code, (s.active o = [] → raiseOp code o s = s) ∧ (s.active o ≠ [] →
      TrapParks s (raiseOp code o s) ((acting s o).map fun th => (th, ⟨code, (o.j.extractLsb' 0 8).toNat, 0⟩))) := fun code => by
    rw [raiseOp_eq hext hmod hdest]
    exact ⟨fun hact => by rw [acting, hact]; rfl, fun hact => runOp_parks_all hx hcollect htidy hact o.slot _ id⟩
  simp only [List.mem_cons, List.not_mem_nil, or_false] at hr
  obtain rfl | rfl := hr
  · exact ⟨_, rfl, hboth .software⟩
  · exact ⟨_, rfl, hboth .breakpoint⟩

/-! ### Privileged and illegal instructions (R254, R299) -/

theorem State.privTraps_user {s : State} (hx : s.cur.2 < 4) (o : Op) (code : Nat) :
    s.privTraps o code = (acting s o).map fun th => (th, ⟨.priv, 1, code⟩) := by
  have hfw : s.isFw = false := beq_eq_false_iff_ne.2 (show s.cur.2 ≠ 4 by omega)
  simp only [State.privTraps, hfw, Bool.false_eq_true, if_false, acting, List.map_map]
  rfl

theorem State.top_of_active {s : State} {o : Op} (h : s.active o ≠ []) : ∃ e, s.top o = some e :=
  ⟨_, List.getLast?_eq_getLast_of_ne_nil h⟩

/-- The traps of a privileged instruction in a user context. -/
def privTrapsOf (s : State) (o : Op) (code : Nat) : List (Nat × Trap) := (acting s o).map fun th => (th, ⟨.priv, 1, code⟩)

/-- A privileged instruction raises its trap before any check of its own. -/
def RaisesPriv (s : State) (o : Op) (i : Instr) (code : Nat) : Prop := exec i s = .next (s.trapped o.slot (privTrapsOf s o code))

section
variable {s : State} {o : Op} (hx : s.cur.2 < 4) (hact : s.active o ≠ [])
include hx hact

/-- The traps as each of these instructions asks for them, and that there are some. -/
theorem privTraps_some (code : Nat) : s.privTraps o code = privTrapsOf s o code ∧ (privTrapsOf s o code).isEmpty = false ∧
    ∀ eff, runOp o.slot (privTrapsOf s o code) eff s = s.trapped o.slot (privTrapsOf s o code) := by
  have hne : privTrapsOf s o code ≠ [] := fun h => acting_ne_nil hact (List.map_eq_nil_iff.1 h)
  exact ⟨State.privTraps_user hx o code, List.isEmpty_eq_false_iff.2 hne, fun eff => runOp_trap o.slot hne eff s⟩

theorem segset_raisesPriv : RaisesPriv s o (.segset o) 0x80 := by
  obtain ⟨e, he⟩ := State.top_of_active hact
  obtain ⟨htraps, hne, hrun⟩ := privTraps_some hx hact 0x80
  show execSegset o s = _
  simp only [execSegset, he, htraps, hne, Bool.false_eq_true, if_false, List.append_nil, hrun]

theorem tlbinv_raisesPriv : RaisesPriv s o (.tlbinv o) 0x81 := by
  obtain ⟨e, he⟩ := State.top_of_active hact
  obtain ⟨htraps, hne, hrun⟩ := privTraps_some hx hact 0x81
  show execTlbinv o s = _
  simp only [execTlbinv, he, htraps, hne, Bool.false_eq_true, if_false, List.append_nil, Bool.false_and, hrun]

theorem ticket_raisesPriv : RaisesPriv s o (.ticket o) 0x83 := by
  obtain ⟨htraps, hne, hrun⟩ := privTraps_some hx hact 0x83
  have hsome : (s.active o).isEmpty = false := List.isEmpty_eq_false_iff.2 hact
  show execTicket o s = _
  simp only [execTicket, hsome, htraps, hne, Bool.false_eq_true, if_false, List.append_nil, Bool.false_and, hrun]

theorem stkcpy_raisesPriv : RaisesPriv s o (.stkcpy o) 0x84 := by
  obtain ⟨e, he⟩ := State.top_of_active hact
  obtain ⟨htraps, hne, hrun⟩ := privTraps_some hx hact 0x84
  show execStkcpy o s = _
  simp only [execStkcpy, he, htraps, hne, Bool.false_eq_true, if_false, List.append_nil, Bool.false_and, hrun]

theorem tretOp_traps (mode : Nat → Nat) : tretOp mode o s = s.trapped o.slot (privTrapsOf s o 0x82) := by
  obtain ⟨e, he⟩ := State.top_of_active hact
  obtain ⟨htraps, hne, hrun⟩ := privTraps_some hx hact 0x82
  simp only [tretOp, he, htraps, hne, Bool.false_eq_true, if_false, hrun]

theorem privileged_raise : ∀ r ∈ privileged o, RaisesPriv s o r.1 r.2 := by
  have htret : ∀ mode i, exec i s = .next (tretOp mode o s) → RaisesPriv s o i 0x82 := fun mode i hi =>
    hi.trans (congrArg Host.Outcome.next (tretOp_traps hx hact mode))
  simp only [privileged, List.forall_mem_cons]
  exact ⟨segset_raisesPriv hx hact, tlbinv_raisesPriv hx hact, htret _ _ rfl, htret _ _ rfl, htret _ _ rfl, htret _ _ rfl, htret _ _ rfl,
    htret _ _ rfl, ticket_raisesPriv hx hact, stkcpy_raisesPriv hx hact, fun r hr => absurd hr List.not_mem_nil⟩

end

theorem privilegeTraps : PrivilegeTraps := by
  intro s o r hr hx hcollect htidy hact
  refine ⟨_, privileged_raise hx hact r hr, ?_⟩
  rw [← (privTraps_some hx hact r.2).2.2 id]
  exact runOp_parks_all hx hcollect htidy hact o.slot ⟨.priv, 1, r.2⟩ id

section
variable {s : State} {o : Op} (hx : s.cur.2 < 4) (hcollect : s.collect = none) (htidy : s.me.Tidy) (hact : s.active o ≠ [])
include hx hcollect htidy hact

/-- An op of one result whose encoding is illegal traps so, whatever else it finds. -/
theorem State.produce_traps {srcs : List (Nat × Nat)} {traps : List (Nat × Trap)} (htraps : ∀ e ∈ traps, e.1 ∈ acting s o) {ok : Bool}
    (hok : ok = false) (ty lat interval : Nat) (f : Nat → Nat → List Nat) :
    TrapParks s (s.produce o ok srcs traps ty lat interval f) ((acting s o).map fun th => (th, ⟨.illegalOp, 0, 0⟩)) := by
  have hfilter : ∀ (p : Nat × Nat → Bool) (tr : Trap), ∀ e ∈ ((s.active o).filter p).map (fun e => (e.2, tr)), e.1 ∈ acting s o := fun p tr e he => by
    obtain ⟨l, hl, rfl⟩ := List.mem_map.1 he
    exact List.mem_map_of_mem (List.mem_filter.1 hl).1
  have hcopy : ∀ e ∈ s.copyTraps o o.dest.toNat (o.regsOf ty), e.1 ∈ acting s o := fun e he => by
    unfold State.copyTraps at he
    split at he
    · exact hfilter _ _ e he
    · exact absurd he List.not_mem_nil
  have hall : s.illegalUnless o false = (acting s o).map fun th => (th, ⟨.illegalOp, 0, 0⟩) := by
    simp [State.illegalUnless, State.allTrap, acting, Function.comp_def]
  subst hok
  unfold State.produce
  simp only [State.srcTraps, Bool.false_and, hall, List.append_assoc]
  refine runOp_parks hx hcollect htidy hact _ _ _ fun e he => ?_
  obtain he | he := List.mem_append.1 he
  · exact hfilter _ _ e he
  · exact (List.mem_append.1 he).elim (htraps e) (hcopy e)

section
variable {opc : Nat} (hlegal : o.legalD opc = false)
include hlegal

theorem intOp2_traps (lat interval rty : Nat) (f : Nat → Nat → Nat) :
    TrapParks s (intOp2 opc o lat interval rty f s) ((acting s o).map fun th => (th, ⟨.illegalOp, 0, 0⟩)) :=
  State.produce_traps hx hcollect htidy hact (List.forall_mem_nil _) (by rw [hlegal]; rfl) _ _ _ _

theorem intOp1_traps (f : Nat → Nat) :
    TrapParks s (intOp1 opc o f s) ((acting s o).map fun th => (th, ⟨.illegalOp, 0, 0⟩)) :=
  State.produce_traps hx hcollect htidy hact (List.forall_mem_nil _) (by rw [hlegal]; rfl) _ _ _ _

theorem divOp_traps (f : Nat → Nat → Nat → Nat) :
    TrapParks s (divOp opc f o s) ((acting s o).map fun th => (th, ⟨.illegalOp, 0, 0⟩)) := by
  refine State.produce_traps hx hcollect htidy hact (fun e he => ?_) (by rw [hlegal]; rfl) _ _ _ _
  unfold State.divTraps at he
  split at he
  · obtain ⟨l, hl, rfl⟩ := List.mem_map.1 he
    exact List.mem_map_of_mem (List.mem_filter.1 hl).1
  · exact absurd he List.not_mem_nil

end
end

theorem illegalTraps : IllegalTraps := by
  intro s o i hill hx hcollect htidy hact
  have two : ∀ {opc}, o.legalD opc = false → ∀ lat interval rty f, _ := fun h => intOp2_traps hx hcollect htidy hact h
  have one : ∀ {opc}, o.legalD opc = false → ∀ f, _ := fun h => intOp1_traps hx hcollect htidy hact h
  have quot : ∀ {opc}, o.legalD opc = false → ∀ f, _ := fun h => divOp_traps hx hcollect htidy hact h
  obtain ⟨r, hr, rfl, h⟩ | ⟨r, hr, rfl, h⟩ := hill
  · simp only [int2, List.mem_cons, List.not_mem_nil, or_false] at hr
    rcases hr with rfl | rfl | rfl | rfl | rfl | rfl | rfl | rfl | rfl | rfl | rfl | rfl | rfl
    · exact ⟨_, rfl, two h ..⟩
    · exact ⟨_, rfl, two h ..⟩
    · exact ⟨_, rfl, quot h ..⟩
    · exact ⟨_, rfl, quot h ..⟩
    all_goals exact ⟨_, rfl, two h ..⟩
  · simp only [int1, List.mem_cons, List.not_mem_nil, or_false] at hr
    rcases hr with rfl | rfl | rfl | rfl | rfl | rfl <;> exact ⟨_, rfl, one h ..⟩

/-- Settles O60: both kinds are one trap of every thread of ACTIVE, raised before any effect (`runOp_parks`). -/
theorem privilegeAndIllegalTraps : Obligations.PrivilegeAndIllegalTraps := ⟨privilegeTraps, illegalTraps⟩

end
end Sys2Proof.Machine
end

section
-- One proof after another, as in the sections before this one.
set_option Elab.async false

namespace Sys2Proof.Machine

section
open Sys2Proof.Claims

/-! ### What a control register gives (R301) -/

section
variable (s : State) (k x y t : Nat)

/-- A register of a context's own: 0 is read for the firmware slot. -/
def perUser (y v : Nat) : Nat := if y != 4 then v else 0

theorem perUser_eq {y : Nat} (hy : y < 4) (v : Nat) : perUser y v = v := if_pos (bne_iff_ne.2 (by omega))

theorem State.csrValue_done {n : Nat} (hn : n < 8) : s.csrValue k x y t (0x008 + n) = perUser y ((s.ctx k y).chan n).done := by
  interval_cases n <;> rfl

theorem State.csrValue_counter {n : Nat} (hn : n < 18) :
    s.csrValue k x y t (0x021 + n) = perUser y (tgetD (s.ctx k y).regs.counters (n + 1) 0) := by
  interval_cases n <;> rfl

theorem State.csrValue_zero {n : Nat} (hn : n < 0x2D) : s.csrValue k x y t (0x033 + n) = 0 := by
  interval_cases n <;> rfl

theorem State.csrValue_base {n : Nat} (hn : n < 8) :
    s.csrValue k x y t (0x060 + n) = perUser y (tgetD (s.ctx k y).regs.segBase n 0).toNat := by
  interval_cases n <;> rfl

theorem State.csrValue_limit {n : Nat} (hn : n < 8) :
    s.csrValue k x y t (0x068 + n) = perUser y (tgetD (s.ctx k y).regs.segLim n 0).toNat := by
  interval_cases n <;> rfl

theorem State.csrValue_trace {n : Nat} (hn : n < 5) :
    s.csrValue k x y t (0x0D0 + n) = (((s.partOfCore k).map (·.2)).map fun p => tgetD p.trcnt n 0).getD 0 := by
  interval_cases n <;> rfl

end

/-- A user context reads the value that the table names. -/
theorem userCsrs_value {s : State} (hx : s.cur.2 < 4) : ∀ r ∈ userCsrs s, ∀ t, s.csrValue s.cur.1 s.cur.2 s.cur.2 t r.1 = r.2 t := by
  simp only [userCsrs, List.forall_mem_append, List.forall_mem_cons, List.forall_mem_map, List.mem_range]
  have hper := fun v => perUser_eq hx v
  refine ⟨⟨⟨⟨⟨⟨⟨fun _ => rfl, fun _ => hper _, fun _ => hper _, fun _ => rfl, fun _ => rfl, fun _ => rfl, fun _ => rfl, fun _ => hper _, fun _ => rfl,
    fun _ => hper _, fun _ => hper _, fun _ => hper _, fun _ => rfl, fun _ => rfl, fun _ => rfl, fun _ => rfl, fun _ => rfl, fun _ => rfl,
    fun r hr => absurd hr List.not_mem_nil⟩, fun n hn _ => ?_⟩, fun n hn _ => ?_⟩, fun _ => rfl, fun n hn _ => ?_⟩, fun n hn _ => ?_⟩, fun n hn _ => ?_⟩,
    fun n hn _ => ?_⟩
  · exact (s.csrValue_done _ _ _ _ hn).trans (hper _)
  · exact (s.csrValue_counter _ _ _ _ hn).trans (hper _)
  · exact s.csrValue_zero _ _ _ _ hn
  · exact (s.csrValue_base _ _ _ _ hn).trans (hper _)
  · exact (s.csrValue_limit _ _ _ _ hn).trans (hper _)
  · exact s.csrValue_trace _ _ _ _ hn

/-- The firmware slot reads the values of its table. -/
theorem firmwareCsrs_value {s : State} {i : Nat} {p : Partition} (hpart : s.partOfCore s.cur.1 = some (i, p)) (x t : Nat) :
    ∀ r ∈ firmwareCsrs s p, s.csrValue s.cur.1 x s.home.sel.ctxsel t r.1 = r.2 := by
  have hof : ∀ (f : Partition → Nat) (d : Nat), (((s.partOfCore s.cur.1).map (·.2)).map f).getD d = f p := fun f d => by rw [hpart]; rfl
  simp only [firmwareCsrs, List.forall_mem_cons]
  exact ⟨hof _ _, hof _ _, hof _ _, hof _ _, hof _ _, rfl, hof _ _, rfl, rfl, rfl, rfl, fun r hr => absurd hr List.not_mem_nil⟩

/-! ### Which accesses trap (R254, R300) -/

/-- The addresses of the registers that a user context reads. -/
theorem userCsrs_addresses (s : State) : (userCsrs s).map (·.1) =
    [0x000, 0x010, 0x011, 0x012, 0x013, 0x014, 0x015, 0x016, 0x017, 0x018, 0x019, 0x01A, 0x0C0, 0x0C1, 0x0C2, 0x0C3, 0x0C4, 0x0C5] ++
      (List.range 8).map (0x008 + ·) ++ (List.range 18).map (0x021 + ·) ++ (0x020 :: (List.range 0x2D).map (0x033 + ·)) ++
      (List.range 8).map (0x060 + ·) ++ (List.range 8).map (0x068 + ·) ++ (List.range 5).map (0x0D0 + ·) := rfl

/-- The same as ranges. -/
def UserAddress (a : Nat) : Prop := a = 0 ∨ (8 ≤ a ∧ a ≤ 0x1A) ∨ (0x20 ≤ a ∧ a ≤ 0x6F) ∨ (0xC0 ≤ a ∧ a ≤ 0xC5) ∨ (0xD0 ≤ a ∧ a ≤ 0xD4)

theorem mem_userCsrs_iff (s : State) (a : Nat) : a ∈ (userCsrs s).map (·.1) ↔ UserAddress a := by
  simp only [userCsrs_addresses, ← List.range'_eq_map_range, List.mem_append, List.mem_cons, List.mem_range'_1, List.not_mem_nil, or_false, UserAddress]
  omega

theorem csrKind_user {a : Nat} (ha : a < 0x100) : csrKind a = .none ↔ ¬UserAddress a := by
  unfold csrKind UserAddress
  simp only [Bool.or_eq_true, Bool.and_eq_true, beq_iff_eq, decide_eq_true_eq]
  split_ifs <;> simp only [false_iff, true_iff] <;> omega

theorem csrKind_rw {a : Nat} (ha : a < 0x100) (h : csrKind a = .rw) : a = 0x010 ∨ a = 0x016 := by
  unfold csrKind at h
  simp only [Bool.or_eq_true, Bool.and_eq_true, beq_iff_eq, decide_eq_true_eq] at h
  split_ifs at h <;> omega

theorem csrKind_firmware : ∀ a ∈ [0x140, 0x141, 0x142, 0x143, 0x144, 0x150, 0x152, 0x160, 0x161, 0x170, 0x171], csrKind a ≠ .none := by decide

section
variable {s : State} {o : Op} {a : Nat}

theorem allTrap_acting (c : TrapCode) : s.allTrap o c = (acting s o).map fun th => (th, ⟨c, 0, 0⟩) := by
  simp [State.allTrap, acting, Function.comp_def]

theorem State.csrTraps_priv (hx : s.cur.2 < 4) (ha : 0x100 ≤ a) (write : Bool) (v : Word) :
    s.csrTraps o a write v = (acting s o).map fun th => (th, ⟨.priv, 0, a⟩) := by
  have hfw : s.isFw = false := beq_eq_false_iff_ne.2 (show s.cur.2 ≠ 4 by omega)
  simp [State.csrTraps, ha, hfw, acting, Function.comp_def]

theorem State.csrTraps_none (ha : a < 0x100) (hkind : csrKind a = .none) (write : Bool) (v : Word) :
    s.csrTraps o a write v = (acting s o).map fun th => (th, ⟨.illegalOp, 0, 0⟩) := by
  have hlow : ¬0x100 ≤ a := by omega
  simp [State.csrTraps, hlow, hkind, allTrap_acting]

theorem State.csrTraps_readOnly (ha : a < 0x100) (hkind : csrKind a ≠ .rw) (v : Word) :
    s.csrTraps o a true v = (acting s o).map fun th => (th, ⟨.illegalOp, 0, 0⟩) := by
  have hlow : ¬0x100 ≤ a := by omega
  cases hk : csrKind a <;> simp [State.csrTraps, hlow, hk, allTrap_acting]
  exact absurd hk hkind

/-- A read of a register that there is raises no trap, where the context may name it. -/
theorem State.csrTraps_read (hmay : a < 0x100 ∨ s.cur.2 = 4) (hkind : csrKind a ≠ .none) (v : Word) : s.csrTraps o a false v = [] := by
  have hpriv : (decide (0x100 ≤ a) && !s.isFw) = false := by
    obtain h | h := hmay
    · simp; omega
    · simp [State.isFw, h]
  cases hk : csrKind a <;> simp [State.csrTraps, hpriv, hk]
  exact absurd hk hkind

/-- The write-only conditions of the registers that only the firmware slot writes. -/
theorem csrWrite_firmware : ∀ a ∈ [0x140, 0x141, 0x143, 0x144, 0x152, 0x160, 0x161, 0x170],
    csrKind a = .rw ∧ csrOfCtx a = false ∧ a ≠ 0x150 ∧ a ≠ 0x171 := by decide

theorem State.csrTraps_write {v : Word} (hmay : MayWrite s a v) : s.csrTraps o a true v = [] := by
  obtain ⟨hx, ha⟩ | ⟨hx, hmay⟩ := hmay
  · have hfw : s.isFw = false := beq_eq_false_iff_ne.2 hx
    have hctx : (s.cur.2 == 4) = false := beq_eq_false_iff_ne.2 hx
    obtain rfl | rfl := ha <;> simp [State.csrTraps, hfw, hctx, csrKind]
  · have hfw : s.isFw = true := beq_iff_eq.2 hx
    obtain ⟨hsel, ha⟩ | hmem | ⟨rfl, hv⟩ | ⟨rfl, hv⟩ := hmay
    · have hctx : (s.home.sel.ctxsel == 4) = false := beq_eq_false_iff_ne.2 hsel
      obtain rfl | rfl := ha <;> simp [State.csrTraps, hfw, hctx, csrKind]
    · obtain ⟨hkind, hown, h150, h171⟩ := csrWrite_firmware a hmem
      simp [State.csrTraps, hfw, hkind, hown, h150, h171]
    · have hkind : csrKind 0x150 = .rw := rfl
      simp [State.csrTraps, hfw, hkind]
      exact fun hsel hzero => absurd hzero (hv.resolve_left hsel)
    · have hkind : csrKind 0x171 = .rw := rfl
      have hown : csrOfCtx 0x171 = false := rfl
      simp [State.csrTraps, hfw, hkind, hown]
      exact fun hlt => absurd (show v.toNat % 8 ≤ 4 by simpa using hv) (by omega)

end

/-! ### CSRRD and CSRWR (R326, R327) -/

/-- The address and the selector of a control register access (R296). -/
theorem csr_fields {a sel : Nat} (ha : a < 2 ^ 12) (hsel : sel < 2 ^ 10) :
    ((BitVec.ofNat 30 (a * 2 ^ 18 + sel)).extractLsb' 18 12).toNat = a ∧ ((BitVec.ofNat 30 (a * 2 ^ 18 + sel)).extractLsb' 0 10).toNat = sel ∧
      (BitVec.ofNat 30 (a * 2 ^ 18 + sel)).extractLsb' 10 8 = 0#8 := by
  refine ⟨?_, ?_, BitVec.eq_of_toNat_eq ?_⟩ <;>
    rw [BitVec.extractLsb'_toNat, BitVec.toNat_ofNat, Nat.shiftRight_eq_div_pow]
  · omega
  · omega
  · rw [BitVec.toNat_ofNat]
    omega

section
variable {s : State} {o : Op} {a : Nat} (ha : a < 2 ^ 12) (hext : o.ext = none) (hmod : o.mod = 0#8)
include ha hext hmod

/-- A sound CSRRD raises the traps of its address alone. -/
theorem csrrd_eq (hj : o.j = BitVec.ofNat 30 (a * 2 ^ 18)) (hsound : Sound s o [] o.dest.toNat 1) :
    exec (.csrrd o) s = .next (runOp o.slot (s.csrTraps o a false 0) (fun u => u.land o .reg o.dest.toNat 1 4 (u.perLane o fun _ t =>
      [word64 (u.csrValue u.cur.1 u.cur.2 (if s.isFw then s.home.sel.ctxsel else s.cur.2) t a)]) 0 [] []) s) := by
  obtain ⟨haddr, hsel, hzero⟩ := csr_fields ha (sel := 0) (by decide)
  rw [Nat.add_zero, ← hj] at haddr hsel hzero
  have hlow : o.j.extractLsb' 0 18 = 0#18 := by
    refine BitVec.eq_of_toNat_eq ?_
    rw [hj, BitVec.extractLsb'_toNat, BitVec.toNat_ofNat, BitVec.toNat_ofNat, Nat.shiftRight_eq_div_pow]
    omega
  have hok : (o.legalJ && o.j.extractLsb' 0 18 == 0#18 && destOk o.slot o.dest.toNat 1) = true := by
    simp [Op.legalJ, hext, hmod, hlow, hsound.target]
  show execCsrrd o s = _
  simp only [execCsrrd, haddr, hok, hsound.srcTraps, hsound.copyTraps, List.isEmpty_nil, if_true, List.nil_append, List.append_nil]
  rfl

theorem csrrd_gives (hj : o.j = BitVec.ofNat 30 (a * 2 ^ 18)) (hsound : Sound s o [] o.dest.toNat 1) (hmay : a < 0x100 ∨ s.cur.2 = 4)
    (hkind : csrKind a ≠ .none) {v : Nat → Nat}
    (hv : ∀ t, s.csrValue s.cur.1 s.cur.2 (if s.isFw then s.home.sel.ctxsel else s.cur.2) t a = v t) :
    Completes (.csrrd o) s fun t => Gives s t o .reg o.dest.toNat 1 4 1 fun _ th => [word64 (v th)] := by
  refine ⟨_, csrrd_eq ha hext hmod hj hsound, ?_⟩
  rw [State.csrTraps_read hmay hkind, runOp_nil]
  simp only [hv]
  exact s.land_gives o _ _ _ _ _

/-- A sound CSRWR raises the traps of its address alone, and else writes from the next bundle on. -/
theorem csrwr_eq {sel : Nat} {e : Nat × Nat} (hsel : sel < 2 ^ 10) (hlong : sel ≠ 0x1F3) (hdest : o.dest = 0#10)
    (hj : o.j = BitVec.ofNat 30 (a * 2 ^ 18 + sel)) (htop : s.top o = some e) (hread : Readable s o [(sel, 1)]) :
    exec (.csrwr o) s = .next (runOp o.slot (s.csrTraps o a true (s.word o e.1 e.2 sel))
      (fun s' => s'.modMe fun c => { c with csrLate := c.csrLate ++ [(a, s.word o e.1 e.2 sel)] }) s) := by
  obtain ⟨haddr, hfield, hzero⟩ := csr_fields ha hsel
  rw [← hj] at haddr hfield hzero
  have hok : (o.legalJ && o.j.extractLsb' 10 8 == 0#8 && o.dest == 0#10 && sel != 0x1F3) = true := by
    simp [Op.legalJ, hext, hmod, hzero, hdest, hlong]
  show execCsrwr o s = _
  simp only [execCsrwr, haddr, hfield, htop, hok, hread.srcTraps, List.isEmpty_nil, if_true, List.nil_append]

end

/-! ### Writes that take effect (R35, R118, R302) -/

/-- The one late write of a context, not to BRMODE, is carried out once its list is empty. -/
theorem State.applyLate_one {s : State} {k x a : Nat} {v : Word} (hlate : (s.ctx k x).csrLate = [(a, v)]) (ha : a ≠ 0x170) :
    s.applyLate k x = (s.modCtx k x fun c => { c with csrLate := [] }).csrStore k x a v := by
  have hbr : (a == 0x170) = false := beq_eq_false_iff_ne.2 ha
  simp [State.applyLate, hlate, hbr]

theorem isFw_user {s : State} (hx : s.cur.2 < 4) : s.isFw = false := beq_eq_false_iff_ne.2 (show s.cur.2 ≠ 4 by omega)

/-- What a user context's write leaves (R35, R146). -/
theorem writtenCsrs_hold {s : State} {x a : Nat} {v : Word} (hx : x < 4) (hlate : (s.ctx s.cur.1 x).csrLate = [(a, v)]) :
    ∀ w ∈ writtenCsrs v s.cur.1 x, w.1 = a → w.2 (s.applyLate s.cur.1 x) ∧ ((s.applyLate s.cur.1 x).ctx s.cur.1 x).csrLate = [] := by
  have huser : (x == 4) = false := beq_eq_false_iff_ne.2 (by omega)
  simp only [writtenCsrs, List.forall_mem_cons]
  refine ⟨?_, ?_, fun r hr => absurd hr List.not_mem_nil⟩ <;> rintro rfl <;> rw [State.applyLate_one hlate (by decide)] <;>
    simp [State.csrStore, huser, Ctx.setBinage, clampNat]

/-- A write into the partition of a core. -/
theorem State.modPartOf_part {s : State} {k i : Nat} {p : Partition} (hpart : s.partOfCore k = some (i, p)) (f : Partition → Partition) :
    tget (s.modPartOf k f).parts i = some (f p) := by
  rw [State.modPartOf, hpart]
  exact tget_tset_self _ _ _

theorem Core.modCtx_sel (c : Core) (x : Nat) (f : Ctx → Ctx) : (c.modCtx x f).sel = c.sel := rfl

/-- What a write of the firmware slot leaves. -/
theorem writtenByFirmware_hold {s : State} {i a : Nat} {p : Partition} {v : Word} (hpart : s.partOfCore s.cur.1 = some (i, p))
    (hlate : (s.ctx s.cur.1 4).csrLate = [(a, v)]) :
    ∀ w ∈ writtenByFirmware s v s.cur.1 i, w.1 = a → w.2 (s.applyLate s.cur.1 4) := by
  have hpart : (s.modCtx s.cur.1 4 fun c => { c with csrLate := [] }).partOfCore s.cur.1 = some (i, p) := hpart
  simp only [writtenByFirmware, List.forall_mem_cons]
  refine ⟨?_, ?_, ?_, ?_, ?_, ?_, fun r hr => absurd hr List.not_mem_nil⟩ <;> rintro rfl <;> rw [State.applyLate_one hlate (by decide)]
  · exact ⟨_, State.modPartOf_part hpart _, rfl⟩
  · exact ⟨_, State.modPartOf_part hpart _, rfl⟩
  · simp [State.csrStore, Core.modCtx_sel]
  · exact ⟨_, State.modPartOf_part hpart _, rfl⟩
  · simp [State.csrStore, State.modFe]
  · simp [State.csrStore]

/-- Settles O23: a register's value is its table's row (`userCsrs_value`, `firmwareCsrs_value`), its traps are those of its kind, and a
write is carried out by `csrStore`. -/
theorem controlRegisters : Obligations.ControlRegisters := by
  intro s o a ha hext hmod all user
  refine ⟨fun hj => ⟨fun r hr hra hx hsound => ?_, fun i p hpart r hr hra hx hsound => ?_, fun huser hsound hhigh => ?_, fun huser hsound hlow hnone => ?_⟩,
    fun sel e hsel hlong hdest hj htop hread => ⟨fun hmay => ?_, fun huser hhigh => ?_, fun huser hlow h10 h16 => ?_⟩,
    fun v x hx hlate w hw hwa => ?_, fun v i p hpart hlate w hw hwa => ?_⟩
  · have haddr : UserAddress a := (mem_userCsrs_iff s a).1 (hra ▸ List.mem_map_of_mem hr)
    have hlow : a < 0x100 := by unfold UserAddress at haddr; omega
    have hkind : csrKind a ≠ .none := fun h => (csrKind_user hlow).1 h haddr
    refine csrrd_gives ha hext hmod hj hsound (.inl hlow) hkind fun t => ?_
    rw [isFw_user hx]
    exact hra ▸ userCsrs_value hx r hr t
  · have hkind : csrKind a ≠ .none := csrKind_firmware a (hra ▸ List.mem_map_of_mem (f := Prod.fst) hr)
    refine csrrd_gives ha hext hmod hj hsound (.inr hx) hkind fun t => ?_
    rw [show s.isFw = true from beq_iff_eq.2 hx]
    exact hra ▸ firmwareCsrs_value hpart _ t r hr
  · obtain ⟨hx, hcollect, htidy, hact⟩ := huser
    refine ⟨_, csrrd_eq ha hext hmod hj hsound, ?_⟩
    rw [State.csrTraps_priv hx hhigh]
    exact runOp_parks_all hx hcollect htidy hact _ _ _
  · obtain ⟨hx, hcollect, htidy, hact⟩ := huser
    have hout : ¬UserAddress a := fun h => by
      obtain ⟨r, hr, hra⟩ := List.mem_map.1 ((mem_userCsrs_iff s a).2 h)
      exact hnone r hr hra
    refine ⟨_, csrrd_eq ha hext hmod hj hsound, ?_⟩
    rw [State.csrTraps_none hlow ((csrKind_user hlow).2 hout)]
    exact runOp_parks_all hx hcollect htidy hact _ _ _
  · refine ⟨_, csrwr_eq ha hext hmod hsel hlong hdest hj htop hread, ?_⟩
    rw [State.csrTraps_write hmay]
    rfl
  · obtain ⟨hx, hcollect, htidy, hact⟩ := huser
    refine ⟨_, csrwr_eq ha hext hmod hsel hlong hdest hj htop hread, ?_⟩
    rw [State.csrTraps_priv hx hhigh]
    exact runOp_parks_all hx hcollect htidy hact _ _ _
  · obtain ⟨hx, hcollect, htidy, hact⟩ := huser
    refine ⟨_, csrwr_eq ha hext hmod hsel hlong hdest hj htop hread, ?_⟩
    rw [State.csrTraps_readOnly hlow fun h => (csrKind_rw hlow h).elim h10 h16]
    exact runOp_parks_all hx hcollect htidy hact _ _ _
  · exact writtenCsrs_hold hx hlate w hw hwa
  · exact writtenByFirmware_hold hpart hlate w hw hwa

end
end Sys2Proof.Machine
end

section
-- One proof after another, as in the sections before this one.
set_option Elab.async false

namespace Sys2Proof.Machine

section
open Sys2Proof.Claims

/-! ### The last thread that ends (R28, R30, R331) -/

/-- A context whose one live thread has the issue group and a bin to itself, while an ended thread stands on the overflow list. -/
def endedOnOverflow : Ctx :=
  { state := .active
    group := some ⟨[(0, 0)], {}, 0, none, none⟩
    bins := [(0, ⟨{ pc := {}, pend := none }, [0], 0, .part⟩)]
    overflow := [({ pc := { tr := 1 }, pend := none }, 1)]
    threads := [(0, { place := .group }), (1, { place := .ended })] }

def endedOnOverflowState : State := { cur := (0, 0), cores := [(0, { ctxs := [(0, endedOnOverflow)] })] }

/-- The bin that the exiting thread frees claims the ended thread, which lives again there, so the workgroup does not finish. -/
theorem exit_endedOnOverflow : ∃ t, exec (.exit {}) endedOnOverflowState = .next t ∧ t.me.finishAt = none := ⟨_, rfl, by decide⟩

theorem endedOnOverflow_tidy : endedOnOverflowState.me.Tidy := by
  refine ⟨?_, ?_, ?_, ?_⟩ <;> decide

/-- Refutes O19: nothing keeps an ended thread off the overflow list, where the bin of the last thread to exit claims it. -/
theorem not_callsAndReturns : ¬ Obligations.CallsAndReturns := by
  unfold Obligations.CallsAndReturns
  intro h
  obtain ⟨-, -, -, -, hexit⟩ := h endedOnOverflowState {} (fun _ => (0, ⟨⟨0, 0, 0, 0⟩, [], [], 0, 0, [], []⟩)) rfl rfl rfl endedOnOverflow_tidy
  obtain ⟨t, hexec, -, hfinish⟩ := hexit rfl (by decide) (by decide) (by decide)
  obtain ⟨u, hu, hnone⟩ := exit_endedOnOverflow
  obtain rfl := Host.Outcome.next.inj (hu.symm.trans hexec)
  exact absurd (hnone.symm.trans (hfinish (by decide))) (by decide)

end
end Sys2Proof.Machine
end

section
-- One proof after another, as in the sections before this one.
set_option Elab.async false

namespace Sys2Proof.Machine

section
open Sys2Proof.Claims

/-! ### Threads that leave the issue group for keys of their own (R29) -/

theorem Filed.fileKeys {c : Ctx} {k : BinKey} {u : Nat} (hu : Filed c k u) (h : Rises c.bins) (at_ : Nat) (keys : List (Nat × BinKey)) :
    Filed (c.fileKeys at_ keys) k u :=
  (List.foldlRecOn (motive := fun d : Ctx => Rises d.bins ∧ Filed d k u) _ _ ⟨h, hu⟩
    fun _ hd key _ => ⟨Ctx.file_rises hd.1 at_ key _, hd.2.file hd.1 at_ key _⟩).2

theorem Ctx.fileAfter_eq (at_ : Nat) (g : Group) (ts : List Nat) (c : Ctx) :
    c.fileAfter at_ g ts = (c.fileKeys at_ ((ts.filter fun t => (g.pendOf t).isSome).map fun t => (t, g.keyAfter t))).fileKeys at_
      ((ts.filter fun t => !(g.pendOf t).isSome).map fun t => (t, g.keyAfter t)) := by
  rw [Ctx.fileAfter, List.partition_eq_filter_filter]
  rfl

theorem Filed.fileAfter {c : Ctx} {k : BinKey} {u : Nat} (hu : Filed c k u) (h : Rises c.bins) (at_ : Nat) (g : Group) (ts : List Nat) :
    Filed (c.fileAfter at_ g ts) k u := by
  rw [Ctx.fileAfter_eq]
  exact (hu.fileKeys h at_ _).fileKeys (Ctx.fileKeys_rises h at_ _) at_ _

/-- Each thread that is filed after the bundle stands where it goes on. -/
theorem Ctx.fileAfter_filed {c : Ctx} (h : Rises c.bins) (at_ : Nat) (g : Group) {ts : List Nat} {t : Nat} (ht : t ∈ ts) :
    Filed (c.fileAfter at_ g ts) (g.keyAfter t) t := by
  rw [Ctx.fileAfter_eq]
  cases hp : (g.pendOf t).isSome with
  | true =>
    have hfiled := Ctx.fileKeys_filed h at_ (List.mem_map_of_mem (f := fun t => (t, g.keyAfter t))
      (List.mem_filter.2 ⟨ht, hp⟩ : t ∈ ts.filter fun t => (g.pendOf t).isSome))
    exact hfiled.fileKeys (Ctx.fileKeys_rises h at_ _) at_ _
  | false =>
    exact Ctx.fileKeys_filed (Ctx.fileKeys_rises h at_ _) at_ (List.mem_map_of_mem (f := fun t => (t, g.keyAfter t))
      (List.mem_filter.2 ⟨ht, by simp [hp]⟩ : t ∈ ts.filter fun t => !(g.pendOf t).isSome))

theorem Ctx.thread_fileAfter {β : Type} {g : Thread → β} (hg : ∀ th p q, g { th with place := p, pend := q } = g th)
    (at_ : Nat) (gr : Group) (ts : List Nat) (c : Ctx) (u : Nat) : g ((c.fileAfter at_ gr ts).thread u) = g (c.thread u) := by
  rw [Ctx.fileAfter_eq, Ctx.thread_fileKeys hg, Ctx.thread_fileKeys hg]

/-- A context that files threads with keys of their own, then others after the bundle, and ends its issue group. -/
def Ctx.disperse (at_ : Nat) (g : Group) (keys : List (Nat × BinKey)) (rest : List Nat) (c : Ctx) : Ctx :=
  ((c.fileKeys at_ keys).fileAfter at_ g rest).noGroup

theorem Filed.noGroup {c : Ctx} {k : BinKey} {u : Nat} (h : Filed c k u) : Filed c.noGroup k u := h.of_eq rfl rfl

section
variable {at_ : Nat} {g : Group} {keys : List (Nat × BinKey)} {rest : List Nat} {c : Ctx}

theorem Ctx.disperse_keys (h : Rises c.bins) {e : Nat × BinKey} (he : e ∈ keys) : Filed (c.disperse at_ g keys rest) e.2 e.1 :=
  ((Ctx.fileKeys_filed h at_ he).fileAfter (Ctx.fileKeys_rises h at_ keys) at_ g rest).noGroup

theorem Ctx.disperse_rest (h : Rises c.bins) {t : Nat} (ht : t ∈ rest) : Filed (c.disperse at_ g keys rest) (g.keyAfter t) t :=
  (Ctx.fileAfter_filed (Ctx.fileKeys_rises h at_ keys) at_ g ht).noGroup

theorem Ctx.thread_disperse {β : Type} {f : Thread → β} (hf : ∀ th p q, f { th with place := p, pend := q } = f th) (u : Nat) :
    f ((c.disperse at_ g keys rest).thread u) = f (c.thread u) :=
  (Ctx.thread_fileAfter hf at_ g rest (c.fileKeys at_ keys) u).trans (Ctx.thread_fileKeys hf at_ keys c u)

end

/-- Where threads with keys of their own stand in a context: in the group, which goes on at the one key of all, or each filed. -/
def Departs (s : State) (c : Ctx) (keys : List (Nat × BinKey)) : Prop :=
  (∃ pc, (∀ th ∈ s.group.threads, th ∈ keys.map (·.1)) ∧ (∀ e ∈ keys, e.2 = ⟨pc, none⟩) ∧
    c.group = s.me.group.map fun g => { g with jump := some pc }) ∨
  (c.group = none ∧ (∀ e ∈ keys, Filed c e.2 e.1) ∧
    ∀ th ∈ s.group.threads, th ∉ keys.map (·.1) → Filed c (s.group.keyAfter th) th)

variable {s : State} {keys : List (Nat × BinKey)}

/-- The threads of the issue group that have no key of their own. -/
def State.remaining (s : State) (keys : List (Nat × BinKey)) : List Nat := s.group.threads.filter fun t => !(keys.map (·.1)).contains t

theorem State.sendTo_cons (e : Nat × BinKey) (rest : List (Nat × BinKey)) : s.sendTo (e :: rest) =
    if ((s.remaining (e :: rest)).isEmpty && (e :: rest).all (fun d => d.2 == e.2) && e.2.pend.isNone) = true then
      s.modMe fun c => { c with group := c.group.map fun g => { g with jump := some e.2.pc } }
    else s.modMe (Ctx.disperse (s.groupEnd s.myCore s.myCtxNo) s.group (e :: rest) (s.remaining (e :: rest))) := rfl

theorem State.sendTo_departs (hne : keys ≠ []) (hrise : Rises s.me.bins) : Departs s (s.sendTo keys).me keys := by
  match keys, hne with
  | e :: rest, _ =>
    rw [State.sendTo_cons]
    split
    next hall =>
      simp only [State.remaining, Bool.and_eq_true, List.isEmpty_iff, List.filter_eq_nil_iff, List.all_eq_true, beq_iff_eq,
        Option.isNone_iff_eq_none, Bool.not_eq_true', Bool.not_eq_false, List.contains_iff_mem] at hall
      obtain ⟨⟨hin, hkeys⟩, hpend⟩ := hall
      rw [State.me_modMe]
      exact .inl ⟨e.2.pc, hin, fun d hd => by rw [hkeys d hd, ← hpend], rfl⟩
    next =>
      rw [State.me_modMe]
      exact .inr ⟨rfl, fun d hd => Ctx.disperse_keys hrise hd,
        fun th hth hout => Ctx.disperse_rest hrise (List.mem_filter.2 ⟨hth, by simpa using hout⟩)⟩

theorem State.thread_sendTo {β : Type} {g : Thread → β} (hg : ∀ th p q, g { th with place := p, pend := q } = g th) (u : Nat) :
    g ((s.sendTo keys).me.thread u) = g (s.me.thread u) := by
  match keys with
  | [] => rfl
  | e :: rest =>
    rw [State.sendTo_cons]
    split
    · rw [State.me_modMe]
      rfl
    · rw [State.me_modMe]
      exact Ctx.thread_disperse hg u

theorem Departs.of_eq {c d : Ctx} (h : Departs s c keys) (hg : d.group = c.group) (hb : d.bins = c.bins)
    (ho : d.overflow = c.overflow) : Departs s d keys := by
  obtain ⟨pc, hin, hkeys, hgroup⟩ | ⟨hnone, hkeys, hrest⟩ := h
  · exact .inl ⟨pc, hin, hkeys, hg.trans hgroup⟩
  · exact .inr ⟨hg.trans hnone, fun e he => (hkeys e he).of_eq hb ho, fun th hth hout => (hrest th hth hout).of_eq hb ho⟩

/-- The context of a far jump is that of the departure, but for cycles that it waits. -/
theorem State.farJump_departs (hne : keys ≠ []) (hrise : Rises s.me.bins) : Departs s (s.farJump keys).me keys := by
  have hsent := State.sendTo_departs hne hrise
  unfold State.farJump
  simp only [List.isEmpty_iff, hne, if_false]
  split
  · split
    · rw [State.me_modMe]
      exact hsent.of_eq rfl rfl rfl
    · exact hsent
  · exact hsent

/-- Threads that depart for PCs leave the group for them. -/
theorem Departs.leaves {t : State} {ts : List Nat} {dest : Nat → Pc} (h : Departs s t.me (ts.map fun th => (th, ⟨dest th, none⟩))) :
    Leaves s t ts dest := by
  have hfst : (ts.map fun th => (th, (⟨dest th, none⟩ : BinKey))).map (·.1) = ts := by simp [Function.comp_def]
  unfold Departs at h
  rw [hfst] at h
  obtain ⟨pc, hin, hkeys, hgroup⟩ | ⟨hnone, hkeys, hrest⟩ := h
  · exact .inl ⟨pc, fun th hth => ⟨hin th hth, congrArg BinKey.pc (hkeys _ (List.mem_map_of_mem (hin th hth)))⟩, hgroup⟩
  · exact .inr ⟨hnone, fun th hth => hkeys _ (List.mem_map_of_mem hth), hrest⟩

/-- Lanes whose threads depart for PCs go on there. -/
theorem Departs.goes {t : State} {dest : Nat × Nat → Pc} (h : Departs s t.me (s.group.lanes.map fun e => (e.2, ⟨dest e, none⟩))) :
    Goes s t dest := by
  obtain ⟨pc, -, hkeys, hgroup⟩ | ⟨hnone, hkeys, -⟩ := h
  · exact .inl ⟨pc, fun e he => congrArg BinKey.pc (hkeys _ (List.mem_map_of_mem he)), hgroup⟩
  · exact .inr ⟨hnone, fun e he => hkeys _ (List.mem_map_of_mem he)⟩

/-! ### BRN (R320, R412) -/

theorem acting_eq_nil {o : Op} : acting s o = [] ↔ s.active o = [] := List.map_eq_nil_iff

theorem State.asServing_of_noSkip (h : NoSkip s) (f : State → State) : s.asServing f = f s := by
  have hold : (s.group.threads.filterMap fun t => (s.me.thread t).skip.map fun k => (t, k)) = [] :=
    List.filterMap_eq_nil_iff.2 fun t ht => by rw [h t ht]; rfl
  rw [State.asServing, hold]
  rfl

theorem State.branch_delayed (o : Op) (dest : Nat → Pc) : Delayed s (s.branch ((acting s o).map fun th => (th, dest th)) true) o dest := by
  unfold Delayed State.branch
  simp only [List.isEmpty_iff, List.map_eq_nil_iff, acting_eq_nil, if_true]

variable {o : Op}

/-- A branch that is taken at once changes nothing where no thread takes it, and sends those that take it to its targets. -/
theorem State.branch_leaves (hrise : Rises s.me.bins) (dest : Nat → Pc) :
    (s.active o = [] → s.branch ((acting s o).map fun th => (th, dest th)) false = s) ∧
      (s.active o ≠ [] → Leaves s (s.branch ((acting s o).map fun th => (th, dest th)) false) (acting s o) dest) := by
  unfold State.branch
  simp only [List.isEmpty_iff, List.map_eq_nil_iff, acting_eq_nil, Bool.false_eq_true, if_false, List.map_map]
  refine ⟨fun h => if_pos h, fun h => ?_⟩
  rw [if_neg h]
  exact (State.sendTo_departs (by simpa [acting_eq_nil] using h) hrise).leaves

theorem State.farJump_leaves (hrise : Rises s.me.bins) (dest : Nat → Pc) :
    (s.active o = [] → s.farJump ((acting s o).map fun th => (th, ⟨dest th, none⟩)) = s) ∧
      (s.active o ≠ [] → Leaves s (s.farJump ((acting s o).map fun th => (th, ⟨dest th, none⟩))) (acting s o) dest) := by
  refine ⟨fun h => ?_, fun h => (State.farJump_departs (by simpa [acting_eq_nil] using h) hrise).leaves⟩
  rw [acting_eq_nil.2 h]
  rfl

/-- BRN FORM 0 (R320). -/
theorem brnNear_displacement {pc : Pc} (hext : o.ext = none) (hdest : o.dest = 0#10) (hmod : o.mod = 0#8)
    (hform : s.prepForm s.cur.1 s.cur.2 = false) (htarget : s.target o = some pc) :
    brnNear o s = s.branch ((acting s o).map fun th => (th, pc)) true := by
  simp only [brnNear, hext, hdest, hmod, htarget, State.myCore, State.myCtxNo, hform]
  rfl

/-- BRN FORM 1 with a b register that is ready (R320, R362). -/
theorem brnNear_prepared {n : Nat} {b : Breg} {pc : Pc} (hn : n < 4) (hext : o.ext = none) (hdest : o.dest = 0#10)
    (hmod : o.mod = BitVec.ofNat 8 (0x80 + n)) (hj : o.j = 0#30) (hform : s.prepForm s.cur.1 s.cur.2 = true)
    (hb : tget s.me.regs.bregs n = some b) (htarget : b.target = some pc) (hready : b.ready = true) :
    brnNear o s = s.branch ((acting s o).map fun th => (th, pc)) false := by
  have hfields : o.mod.getLsbD 7 = true ∧ (o.mod.extractLsb' 0 2).toNat = n ∧ o.mod.extractLsb' 2 5 = 0#5 := by
    rw [hmod]
    interval_cases n <;> decide
  obtain ⟨h7, hn2, hzero⟩ := hfields
  simp only [brnNear, hext, hdest, h7, hn2, hzero, hj, State.myCore, State.myCtxNo, hform, hb, htarget, Option.bind_some]
  simp [acting, hready, Function.comp_def]

/-- BRN across regions, where the stub of every thread's key leads to a translation that the branch enters (R412). -/
theorem brnFar_enters {w : Word} {ent : Nat → Nat × Trans} (hext : o.ext = some w) (hlow : w.extractLsb' 0 16 = 0#16)
    (hmod : o.mod = 0x40#8) (hdest : o.dest = 0#10) (hj : o.j = 0#30)
    (hstub : ∀ th ∈ acting s o, s.StubHolds (regionKey s w th) (ent th) ∧
      ((ent th).2.entryAt (w.extractLsb' 32 16).toNat (w.extractLsb' 16 16).toNat).isSome = true) :
    let dest (th : Nat) : Pc := ⟨(ent th).1, ((ent th).2.entryAt (w.extractLsb' 32 16).toNat (w.extractLsb' 16 16).toNat).getD 0⟩
    brnFar o s = if s.prepForm s.cur.1 s.cur.2 = true then s.farJump ((acting s o).map fun th => (th, ⟨dest th, none⟩))
      else s.branch ((acting s o).map fun th => (th, dest th)) true := by
  have hask := s.askAll_holds ent ((acting s o).map fun t => (t, regionKey s w t)) (by
    intro a ha
    obtain ⟨t, ht, rfl⟩ := List.mem_map.1 ha
    exact (hstub t ht).1)
  have hspot : ((((acting s o).map fun t => (t, regionKey s w t)).map fun a => (⟨a.1, (ent a.1).1, (ent a.1).2⟩ : Entry)).filter
      fun x => (x.trans.entryAt (w.extractLsb' 32 16).toNat (w.extractLsb' 16 16).toNat).isNone) = [] := by
    simp only [List.map_map, List.filter_eq_nil_iff, List.mem_map, forall_exists_index, and_imp, forall_apply_eq_imp_iff₂]
    intro t ht hnone
    exact absurd (hstub t ht).2 (by simpa using hnone)
  unfold acting regionKey at hask
  unfold acting regionKey at hspot
  simp only [brnFar, hext, hlow, hmod, hdest, hj, Option.getD_some, Option.isSome_some, beq_self_eq_true, Bool.and_self,
    State.illegalUnless_true, List.isEmpty_nil, Bool.not_true, Bool.false_eq_true, if_false, hask, hspot]
  simp [Entries.traps, State.takeFailures, acting, State.myCore, State.myCtxNo, Function.comp_def]

/-- Settles O16: each form sends the threads of ACTIVE to the target that its operands name. -/
theorem nativeBranches : Obligations.NativeBranches := by
  unfold Obligations.NativeBranches
  intro s o hskip hdest
  have hexec (f : Op → State → State) (hf : (if o.mod.getLsbD 6 && !o.mod.getLsbD 7 then brnFar o s else brnNear o s) = f o s) :
      exec (.brn o) s = .next (f o s) := congrArg Host.Outcome.next ((State.asServing_of_noSkip hskip _).trans hf)
  refine ⟨fun pc hext hmod hform htarget => ?_, fun n b pc hn hext hmod hj hform hb htarget hready htidy => ?_,
    fun w ent hext hlow hmod hj => ?_⟩
  · refine ⟨_, hexec brnNear (by rw [hmod]; rfl), ?_⟩
    rw [brnNear_displacement hext hdest hmod hform htarget]
    exact State.branch_delayed o fun _ => pc
  · have hnear : (o.mod.getLsbD 6 && !o.mod.getLsbD 7) = false := by
      rw [hmod]
      interval_cases n <;> decide
    refine ⟨_, hexec brnNear (by rw [hnear]; rfl), ?_⟩
    rw [brnNear_prepared hn hext hdest hmod hj hform hb htarget hready]
    exact State.branch_leaves htidy.bins fun _ => pc
  · intro spot dest hstub
    have hfar := brnFar_enters hext hlow hmod hdest hj hstub
    have hrun := hexec brnFar (by rw [hmod]; rfl)
    refine ⟨fun hform => ⟨_, hrun, ?_⟩, fun hform htidy => ⟨_, hrun, ?_⟩⟩
    · rw [hfar, hform]
      exact State.branch_delayed o dest
    · rw [hfar, hform]
      exact State.farJump_leaves htidy.bins dest

end
end Sys2Proof.Machine
end

section
-- One proof after another, as in the sections before this one.
set_option Elab.async false

namespace Sys2Proof.Machine

section
open Sys2Proof.Claims

/-! ### The parallel copies of an edge (R102) -/

/-- What a fold sets at one element of a list without repeated keys, and keeps at the elements of other keys, holds at the end. -/
theorem foldl_establishes_of_nodup {σ α κ : Type} {f : σ → α → σ} {P : σ → Prop} {key : α → κ} {l : List α} {a : α}
    (hnd : (l.map key).Nodup) (ha : a ∈ l) (hset : ∀ s, P (f s a)) (hkeep : ∀ s, ∀ b ∈ l, key b ≠ key a → P s → P (f s b)) (s : σ) :
    P (l.foldl f s) := by
  obtain ⟨l₁, l₂, rfl⟩ := List.append_of_mem ha
  rw [List.foldl_append, List.foldl_cons]
  refine List.foldlRecOn (motive := P) _ _ (hset _) fun s hs b hb => hkeep s b (by simp [hb]) ?_ hs
  rw [List.map_append, List.map_cons, List.nodup_append] at hnd
  obtain ⟨-, hright, -⟩ := hnd
  exact fun hk => (List.nodup_cons.1 hright).1 (hk ▸ List.mem_map_of_mem hb)

theorem tgetD_regs_put_same {th : Thread} {n : Nat} (hn : n < 256) (w : Word) : tgetD (th.put .reg n [w]).regs n 0 = w := by
  simp [Thread.put, isReg, hn]

theorem tgetD_regs_put_ne {th : Thread} {n m : Nat} (hm : m < 256) (hne : n ≠ m) (w : Word) :
    tgetD (th.put .reg m [w]).regs n 0 = tgetD th.regs n 0 := by
  simp [Thread.put, isReg, hm, tgetD_tset_ne _ _ _ hne]

/-- One move of an edge, with the value that it carries. -/
def moveTo (read : Loc → Word) (lane t : Nat) (s : State) (m : Loc × Loc) : State := s.locWrite lane t m.2 (read m.1)

variable {s : State}

theorem me_moveTo_reg {read : Loc → Word} {lane t n : Nat} {m : Loc × Loc} (hm : m.2 = .reg n) :
    (moveTo read lane t s m).me = s.me.modThread t fun th => th.put .reg n [read m.1] := by
  rw [moveTo, hm]
  exact State.me_modMe _ _

section
variable {read : Loc → Word} {lane t : Nat} {moves : List (Loc × Loc)} (hregs : ∀ m ∈ moves, ∃ n, m.2 = .reg n ∧ n < 256)
include hregs

/-- Moves to registers change no field of the context but its threads. -/
theorem foldl_moveTo_keeps {β : Type} {g : Ctx → β} (hg : ∀ c ths, g { c with threads := ths } = g c) (s : State) :
    g (moves.foldl (moveTo read lane t) s).me = g s.me :=
  List.foldlRecOn (motive := fun u : State => g u.me = g s.me) _ _ rfl fun u hu m hm => by
    obtain ⟨n, hn, -⟩ := hregs m hm
    rw [me_moveTo_reg hn]
    exact (hg _ _).trans hu

theorem foldl_moveTo_thread_ne {u : Nat} (hu : u ≠ t) (s : State) :
    (moves.foldl (moveTo read lane t) s).me.thread u = s.me.thread u :=
  List.foldlRecOn (motive := fun v : State => v.me.thread u = s.me.thread u) _ _ rfl fun v hv m hm => by
    obtain ⟨n, hn, -⟩ := hregs m hm
    rw [me_moveTo_reg hn, Ctx.thread_modThread_ne _ _ hu, hv]

/-- Where the moves write distinct registers, each holds the value of its source. -/
theorem foldl_moveTo_sets (hnd : (moves.map (·.2)).Nodup) {m : Loc × Loc} (hm : m ∈ moves) {n : Nat} (hn : m.2 = .reg n) (s : State) :
    tgetD ((moves.foldl (moveTo read lane t) s).me.thread t).regs n 0 = read m.1 := by
  refine foldl_establishes_of_nodup (P := fun u : State => tgetD (u.me.thread t).regs n 0 = read m.1) hnd hm (fun u => ?_)
    (fun u b hb hne hu => ?_) s
  · obtain ⟨k, hk, hlt⟩ := hregs m hm
    obtain rfl : k = n := Loc.reg.inj (hk.symm.trans hn)
    rw [me_moveTo_reg hn, Ctx.thread_modThread, tgetD_regs_put_same hlt]
  · obtain ⟨k, hk, hlt⟩ := hregs b hb
    rw [hk, hn] at hne
    rw [me_moveTo_reg hk, Ctx.thread_modThread, tgetD_regs_put_ne hlt fun h => hne (congrArg Loc.reg h.symm), hu]

end

/-- The moves of one lane's edge, with the values that state `s` reads. -/
def laneMoves (s : State) (pick : Nat → Nat → Edge) (u : State) (e : Nat × Nat) : State :=
  (pick e.1 e.2).moves.foldl (moveTo (s.locRead e.1 e.2) e.1 e.2) u

theorem copied_eq (s : State) (pick : Nat → Nat → Edge) : copied s pick = s.group.lanes.foldl (laneMoves s pick) s := rfl

section
variable {pick : Nat → Nat → Edge} (hregs : ∀ e ∈ s.group.lanes, ((pick e.1 e.2).moves.map (·.2)).Nodup ∧
  ∀ m ∈ (pick e.1 e.2).moves, ∃ n, m.2 = .reg n ∧ n < 256)
include hregs

theorem copied_keeps {β : Type} {g : Ctx → β} (hg : ∀ c ths, g { c with threads := ths } = g c) : g (copied s pick).me = g s.me := by
  rw [copied_eq]
  exact List.foldlRecOn (motive := fun u : State => g u.me = g s.me) _ _ rfl fun u hu e he =>
    (foldl_moveTo_keeps (hregs e he).2 hg u).trans hu

theorem copied_sets (hnd : s.group.threads.Nodup) {e : Nat × Nat} (he : e ∈ s.group.lanes) {m : Loc × Loc}
    (hm : m ∈ (pick e.1 e.2).moves) {n : Nat} (hn : m.2 = .reg n) :
    tgetD ((copied s pick).me.thread e.2).regs n 0 = s.locRead e.1 e.2 m.1 := by
  rw [copied_eq]
  have hset (u : State) : tgetD ((laneMoves s pick u e).me.thread e.2).regs n 0 = s.locRead e.1 e.2 m.1 :=
    foldl_moveTo_sets (hregs e he).2 (hregs e he).1 hm hn u
  refine foldl_establishes_of_nodup (P := fun u : State => tgetD (u.me.thread e.2).regs n 0 = s.locRead e.1 e.2 m.1)
    (key := Prod.snd) hnd he hset (fun u b hb hne hu => ?_) s
  rw [laneMoves, foldl_moveTo_thread_ne (hregs b hb).2 (Ne.symm hne), hu]

end

/-! ### BR, CBR, SWITCH and SHAPE (R319, R387) -/

theorem Ctx.Tidy.nodup_threads (h : s.me.Tidy) : s.group.threads.Nodup := by
  have hlanes := h.lanes
  unfold State.group
  cases hg : s.me.group with
  | none => exact List.nodup_nil
  | some g => simpa [hg] using hlanes

/-- Where the frame words pass their checks, each thread takes its edge. -/
theorem takeEdges_of_sound {pick : Nat → Nat → Edge} {srcs : List Loc} (h : EdgesSound s pick srcs) :
    takeEdges pick srcs s = (copied s pick).sendTo (s.group.lanes.map fun e => (e.2, ⟨⟨s.me.pc.tr, (pick e.1 e.2).target⟩, none⟩)) := by
  obtain ⟨hload, hstore, hread, hwrite⟩ := h
  simp only [takeEdges, State.myCore, State.myCtxNo, hload, hstore, hread, hwrite, List.append_nil, List.isEmpty_nil, if_true,
    Bool.not_true, Bool.false_eq_true, if_false, runOp_nil, copied, List.foldl_map]

/-- The thread of each lane has its copies, and goes on at the target of its edge. -/
theorem takeEdges_effect {pick : Nat → Nat → Edge} {srcs : List Loc} (h : EdgesSound s pick srcs) :
    BranchEffect s (takeEdges pick srcs s) pick := by
  rw [takeEdges_of_sound h]
  refine ⟨rfl, fun htidy hlanes hregs => ⟨?_, fun e he m hm n hn => ?_⟩⟩
  · have hgroup : (copied s pick).me.group = s.me.group := copied_keeps hregs fun _ _ => rfl
    have hbins : (copied s pick).me.bins = s.me.bins := copied_keeps hregs fun _ _ => rfl
    have hdeparts := State.sendTo_departs (s := copied s pick)
      (keys := s.group.lanes.map fun e => (e.2, ⟨⟨s.me.pc.tr, (pick e.1 e.2).target⟩, none⟩))
      (by simpa using hlanes) (by rw [hbins]; exact htidy.bins)
    unfold Departs State.group at hdeparts
    rw [hgroup] at hdeparts
    exact Departs.goes hdeparts
  · rw [State.thread_sendTo (g := Thread.regs) fun _ _ _ => rfl]
    exact copied_sets hregs htidy.nodup_threads he hm hn

/-- The case that equals a value is found by the bits of its type. -/
theorem case_matches (ty : Nat) (v w : Word) :
    (v.toNat % 2 ^ tyBits ty == w.toNat % 2 ^ tyBits ty) = (v.setWidth (tyBits ty) == w.setWidth (tyBits ty)) := by
  rw [Bool.eq_iff_iff, beq_iff_eq, beq_iff_eq, ← BitVec.toNat_inj, BitVec.toNat_setWidth, BitVec.toNat_setWidth]

/-- Settles O15: the lowered branches are one `takeEdges` each. -/
theorem loweredBranches : Obligations.LoweredBranches := by
  unfold Obligations.LoweredBranches
  intro s e f q ty cases truth value chosen
  refine ⟨fun h => ⟨_, rfl, takeEdges_effect h⟩, fun h => ⟨_, rfl, takeEdges_effect h⟩, fun h => ?_, fun rows cols => ⟨_, rfl, rfl⟩⟩
  refine ⟨takeEdges chosen [q] s, ?_, takeEdges_effect h⟩
  show execSwitch ty q e cases s = _
  simp only [execSwitch, case_matches]
  rfl

/-! ### PBR, REFORM and YIELD (R362, R366, R403) -/

theorem State.me_startFetch (tr blk : Nat) :
    (s.startFetch s.myCore s.myCtxNo tr blk).me = { s.me with fetching := some (tr, blk) } := s.me_modMe _

/-- The fetch of code leaves the context's registers. -/
theorem State.fetchCode_regs (pc : Pc) : (s.fetchCode s.myCore s.myCtxNo pc).me.regs = s.me.regs := by
  unfold State.fetchCode
  split
  · rfl
  · dsimp only
    split
    · rfl
    · refine (congrArg Ctx.regs (State.me_startFetch (s := s.modMe fun c => { c with window := [], copyNext := false }) _ _)).trans ?_
      rw [State.me_modMe]

section
variable {o : Op}

/-- A prepared branch's fields in MOD (R296, R362). -/
theorem fields_of_breg {n : Nat} (hn : n < 4) (hmod : o.mod = BitVec.ofNat 8 n) :
    (o.mod.extractLsb' 0 2).toNat = n ∧ o.mod.extractLsb' 2 6 = 0#6 := by
  rw [hmod]
  interval_cases n <;> decide

/-- The context's b register takes a value. -/
def State.setBreg (s : State) (n : Nat) (b : Breg) : State :=
  s.modMe fun c => { c with regs := { c.regs with bregs := tset c.regs.bregs n b } }

theorem State.bregs_setBreg (n : Nat) (b : Breg) : (s.setBreg n b).me.regs.bregs = tset s.me.regs.bregs n b := by
  rw [State.setBreg, State.me_modMe]

section
variable {n : Nat} (hn : n < 4) (hext : o.ext = none) (hmod : o.mod = BitVec.ofNat 8 n) (hdest : o.dest = 0#10)
include hn hext hmod hdest

theorem exec_pbr_empty (hactive : s.active o = []) : exec (.pbr o) s = .next s := by
  obtain ⟨hfield, hzero⟩ := fields_of_breg hn hmod
  show execPbr o s = _
  simp [execPbr, hext, hdest, hfield, hzero, hactive]

theorem exec_pbr_here (hactive : s.active o ≠ []) (hhere : ((s.target o).map fun pc => s.codeHere s.cur.1 s.cur.2 pc).getD true = true) :
    exec (.pbr o) s = .next ((s.setBreg n ⟨s.target o, some (s.after 4), false⟩).schedule (s.after 4)
      (.pbrFetchComplete s.cur.1 s.cur.2 n)) := by
  obtain ⟨hfield, hzero⟩ := fields_of_breg hn hmod
  show execPbr o s = _
  simp only [execPbr, hext, hdest, hfield, hzero, State.myCore, State.myCtxNo]
  simp [hactive, State.setBreg, hhere]

theorem exec_pbr_fetch {pc : Pc} (hactive : s.active o ≠ []) (htarget : s.target o = some pc)
    (haway : s.codeHere s.cur.1 s.cur.2 pc = false) :
    exec (.pbr o) s = .next (if (s.setBreg n ⟨some pc, none, false⟩).me.fetching.isNone = true then
      (s.setBreg n ⟨some pc, none, false⟩).fetchCode s.cur.1 s.cur.2 pc else s.setBreg n ⟨some pc, none, false⟩) := by
  obtain ⟨hfield, hzero⟩ := fields_of_breg hn hmod
  show execPbr o s = _
  simp only [execPbr, hext, hdest, hfield, hzero, State.myCore, State.myCtxNo]
  simp [hactive, State.setBreg, htarget, haway]

end

theorem legal_of_bare (h : Bare o) : (o.legalJ && o.dest == 0#10 && o.j == 0#30) = true := by
  obtain ⟨hext, hmod, hdest, hj⟩ := h
  simp [Op.legalJ, hext, hmod, hdest, hj]

theorem exec_reform (h : Bare o) : exec (.reform o) s = .next (if s.active o = [] then s else
    s.modMe fun c => (c.fileAfter (s.groupEnd s.myCore s.myCtxNo) s.group s.group.threads).noGroup) := by
  show execReform o s = _
  simp only [execReform, legal_of_bare h, State.illegalUnless_true, runOp_nil, List.isEmpty_iff]

theorem exec_yield (h : Bare o) :
    exec (.yield o) s = .next (if s.active o = [] ∨ s.cur.2 = 4 then s else s.modMe fun c => { c with yields := true }) := by
  show execYield o s = _
  simp only [execYield, legal_of_bare h, State.illegalUnless_true, runOp_nil, Bool.or_eq_true, List.isEmpty_iff, State.isFw, beq_iff_eq,
    State.myCtxNo]

/-- Settles O17: PBR sets its b register, REFORM files the group, YIELD marks the context. -/
theorem prepareAndRegroup : Obligations.PrepareAndRegroup := by
  unfold Obligations.PrepareAndRegroup
  intro s o
  refine ⟨fun n hn hext hmod hdest hactive hhere => ?_, fun n pc hn hext hmod hdest hactive htarget haway => ?_,
    fun hbare hactive htidy => ?_, fun hbare => ?_, fun hbare hactive => ?_,
    fun n hn hext hmod hdest hactive => exec_pbr_empty hn hext hmod hdest hactive⟩
  · refine ⟨_, exec_pbr_here hn hext hmod hdest hactive ?_, ?_, ?_, fun m hm => ?_⟩
    · obtain hnone | ⟨pc, hpc, hcode⟩ := hhere
      · rw [hnone]
        rfl
      · rw [hpc]
        exact hcode
    · exact (congrArg (tget · n) (State.bregs_setBreg n _)).trans (tget_tset_self _ _ _)
    · exact (State.mem_schedule _ _ _ _).2 (.inl rfl)
    · exact (congrArg (tget · m) (State.bregs_setBreg n _)).trans (tget_tset_ne _ _ hm)
  · refine ⟨_, exec_pbr_fetch hn hext hmod hdest hactive htarget haway, ?_⟩
    have hset := (congrArg (tget · n) (State.bregs_setBreg (s := s) n ⟨some pc, none, false⟩)).trans (tget_tset_self _ _ _)
    split
    · exact (congrArg (fun r : CtxRegs => tget r.bregs n) (State.fetchCode_regs pc)).trans hset
    · exact hset
  · refine ⟨_, exec_reform hbare, ?_⟩
    simp only [if_neg hactive, State.me_modMe]
    exact ⟨rfl, fun th hth => (Ctx.fileAfter_filed htidy.bins _ _ hth).of_eq rfl rfl⟩
  · exact ⟨_, exec_yield hbare, rfl⟩
  · rw [exec_reform hbare, if_pos hactive]

end

end
end Sys2Proof.Machine
end

section
-- One proof after another, as in the sections before this one.
set_option Elab.async false

namespace Sys2Proof.Machine

section
open Sys2Proof.Claims

/-! ### Live and parked threads of a context with a rising thread table -/

theorem Ctx.live_rises {c : Ctx} (h : Rises c.threads) : c.live.Pairwise (· < ·) :=
  List.pairwise_map.2 (h.filter _)

/-- Two contexts with rising thread tables and the same live threads list them alike. -/
theorem Ctx.live_ext {c d : Ctx} (hc : Rises c.threads) (hd : Rises d.threads) (h : ∀ t, t ∈ d.live ↔ t ∈ c.live) : d.live = c.live :=
  List.Perm.eq_of_pairwise (fun _ _ _ _ hab hba => absurd hab (Nat.lt_asymm hba)) (Ctx.live_rises hd) (Ctx.live_rises hc)
    ((List.perm_ext_iff_of_nodup ((Ctx.live_rises hd).imp Nat.ne_of_lt) ((Ctx.live_rises hc).imp Nat.ne_of_lt)).2 h)

theorem Ctx.foldl_modThread_rises {c : Ctx} (h : Rises c.threads) (f : Nat → Thread → Thread) (ts : List Nat) :
    Rises (ts.foldl (fun c t => c.modThread t (f t)) c).threads :=
  List.foldlRecOn (motive := fun d : Ctx => Rises d.threads) _ _ h fun _ hd _ _ => hd.tset _ _

theorem Ctx.mem_parkedAt {c : Ctx} {id t : Nat} (h : (c.thread t).place = .barrier id) : t ∈ c.parkedAt id :=
  List.mem_map.2 ⟨_, List.mem_filter.2 ⟨Ctx.mem_threads_of_place (by simp [h]), by simp [h]⟩, rfl⟩

theorem Ctx.place_of_parkedAt {c : Ctx} (hrise : Rises c.threads) {id t : Nat} (h : t ∈ c.parkedAt id) :
    (c.thread t).place = .barrier id := by
  obtain ⟨e, he, rfl⟩ := List.mem_map.1 h
  obtain ⟨hmem, hplace⟩ := List.mem_filter.1 he
  rw [Ctx.thread, tgetD, hrise.tget_of_mem hmem]
  exact beq_iff_eq.1 hplace

theorem Ctx.bar_modBar (c : Ctx) (id : Nat) (f : Bar → Bar) : (c.modBar id f).bar id = f (c.bar id) := tgetD_tmod_self ..

/-! ### The end of a phase (R316, R317) -/

variable {s : State} {id count : Nat}

/-- While the arrivals stay below E and can still reach it, the check of a phase changes nothing. -/
theorem State.barCheck_short (hless : (s.me.bar id).arrived.length < s.me.expected count)
    (henough : Enough s count (s.me.bar id).arrived) : s.barCheck s.cur.1 s.cur.2 id count = s := by
  unfold State.barCheck
  dsimp only
  rw [show s.ctx s.cur.1 s.cur.2 = s.me from rfl, if_pos (by simp [hless])]
  refine if_neg fun h => ?_
  simp only [Bool.and_eq_true, bne_iff_ne, ne_eq, decide_eq_true_eq] at h
  obtain ⟨hcount, hlack⟩ := h
  rw [Ctx.expected, if_neg hcount] at hlack
  exact absurd (henough.resolve_left hcount) (Nat.not_le.2 hlack)

/-- The barrier of a phase that has completed. -/
def Bar.advance (parked : List Nat) (b : Bar) : Bar :=
  { b with phase := (b.phase + 1) % 2 ^ 16, arrived := [], owed := b.owed.filter fun t => !parked.contains t }

theorem State.barCheck_full (hsome : (s.me.bar id).arrived ≠ []) (hfull : s.me.expected count ≤ (s.me.bar id).arrived.length) :
    (s.barCheck s.cur.1 s.cur.2 id count) =
      (s.modMe fun c => c.modBar id (Bar.advance (s.me.parkedAt id))).releaseThreads s.cur.1 s.cur.2 (s.me.parkedAt id) := by
  unfold State.barCheck
  dsimp only
  rw [show s.ctx s.cur.1 s.cur.2 = s.me from rfl, if_neg (by simp [hsome, hfull])]
  rfl

/-- The threads that a release files, at the points where they go on. -/
def resumeKeys (c : Ctx) (ts : List Nat) : List (Nat × BinKey) := ts.map fun t => (t, (c.thread t).resume)

theorem State.me_releaseThreads (ts : List Nat) :
    (s.releaseThreads s.cur.1 s.cur.2 ts).me = s.me.fileKeys s.now (resumeKeys s.me ts) := s.me_modMe _

/-- What a completed phase leaves: the counter goes up, no thread has arrived, and each parked thread is filed where it goes on. -/
structure Completed (s t : State) (id : Nat) : Prop where
  phase : (t.me.bar id).phase = ((s.me.bar id).phase + 1) % 2 ^ 16
  arrived : (t.me.bar id).arrived = []
  released : ∀ th, (s.me.thread th).place = .barrier id → Filed t.me (s.me.thread th).resume th
  group : t.me.group = s.me.group
  claims : t.home.claims = s.home.claims
  cur : t.cur = s.cur

theorem State.barCheck_completes (hrise : Rises s.me.bins) (hsome : (s.me.bar id).arrived ≠ [])
    (hfull : s.me.expected count ≤ (s.me.bar id).arrived.length) : Completed s (s.barCheck s.cur.1 s.cur.2 id count) id := by
  have hme : (s.barCheck s.cur.1 s.cur.2 id count).me =
      (s.me.modBar id (Bar.advance (s.me.parkedAt id))).fileKeys s.now (resumeKeys s.me (s.me.parkedAt id)) := by
    rw [State.barCheck_full hsome hfull]
    refine (State.me_releaseThreads (s := s.modMe fun c => c.modBar id (Bar.advance (s.me.parkedAt id))) _).trans ?_
    rw [State.me_modMe]
    rfl
  have hbar : (s.barCheck s.cur.1 s.cur.2 id count).me.bar id = Bar.advance (s.me.parkedAt id) (s.me.bar id) := by
    rw [hme]
    exact (Ctx.fileKeys_keeps (g := fun c => c.bar id) (fun _ _ _ _ => rfl) _ _ _).trans (Ctx.bar_modBar _ _ _)
  refine ⟨by rw [hbar]; rfl, by rw [hbar]; rfl, fun th hth => ?_, ?_, ?_, ?_⟩
  · rw [hme]
    exact Ctx.fileKeys_filed (c := s.me.modBar id (Bar.advance (s.me.parkedAt id))) hrise s.now
      (List.mem_map_of_mem (f := fun t => (t, (s.me.thread t).resume)) (Ctx.mem_parkedAt hth))
  · rw [hme]
    exact Ctx.fileKeys_keeps (g := Ctx.group) (fun _ _ _ _ => rfl) _ _ _
  · rw [State.barCheck_full hsome hfull]
    refine (congrArg Core.claims (State.home_modMe (s.modMe fun c => c.modBar id (Bar.advance (s.me.parkedAt id))) _)).trans ?_
    rw [State.home_modMe]
    rfl
  · rw [State.barCheck_full hsome hfull]
    rfl

/-! ### Threads that park at a barrier (R315) -/

section
variable (s : State) (f : Bar → Bar) (ts : List Nat)

/-- The barrier takes a change, then threads of the group park at it. -/
def State.parkAtBar (s : State) (id : Nat) (f : Bar → Bar) (ts : List Nat) : State :=
  (s.modMe fun c => c.modBar id f).parkGroup (.barrier id) 0 0 ts

theorem State.parkAtBar_group : (s.modMe fun c => c.modBar id f).group = s.group := by
  simp only [State.group, State.me_modMe]
  rfl

theorem State.parkAtBar_keeps {β : Type} {g : Ctx → β} (hg : ∀ c gr ch ds, g { c with group := gr, charged := ch, delays := ds } = g c)
    (ht : ∀ c ths, g { c with threads := ths } = g c) : g (s.parkAtBar id f ts).me = g (s.me.modBar id f) := by
  rw [State.parkAtBar, State.me_parkGroup, State.me_modMe]
  exact (Ctx.dropLanes_keeps hg _ _).trans (foldl_keeps g (fun c _ => ht c _) _ _)

theorem State.parkAtBar_bar : (s.parkAtBar id f ts).me.bar id = f (s.me.bar id) :=
  (s.parkAtBar_keeps f ts (g := fun c => c.bar id) (fun _ _ _ _ => rfl) fun _ _ => rfl).trans (Ctx.bar_modBar _ _ _)

theorem State.parkAtBar_bins : (s.parkAtBar id f ts).me.bins = s.me.bins :=
  s.parkAtBar_keeps f ts (g := Ctx.bins) (fun _ _ _ _ => rfl) fun _ _ => rfl

theorem State.parkAtBar_threads : (s.parkAtBar id f ts).me.threads =
    (ts.foldl (fun c t => c.modThread t (s.group.parks (.barrier id) 0 0 t)) (s.me.modBar id f)).threads := by
  rw [State.parkAtBar, State.me_parkGroup, State.me_modMe, State.parkAtBar_group]
  exact Ctx.dropLanes_keeps (g := Ctx.threads) (fun _ _ _ _ => rfl) _ _

theorem State.parkAtBar_thread {t : Nat} (ht : t ∈ ts) :
    ((s.parkAtBar id f ts).me.thread t).place = .barrier id ∧ ((s.parkAtBar id f ts).me.thread t).resume = s.group.keyAfter t := by
  rw [Ctx.thread, State.parkAtBar_threads]
  exact Ctx.thread_foldl_modThread_sets (P := fun th : Thread => th.place = .barrier id ∧ th.resume = s.group.keyAfter t)
    (fun _ => ⟨rfl, rfl⟩) ht _

theorem State.parkAtBar_thread_of_not_mem {t : Nat} (ht : t ∉ ts) : (s.parkAtBar id f ts).me.thread t = s.me.thread t := by
  rw [Ctx.thread, State.parkAtBar_threads]
  exact Ctx.thread_foldl_modThread_of_not_mem (f := s.group.parks (.barrier id) 0 0) ht (s.me.modBar id f)

theorem State.parkAtBar_claims : (s.parkAtBar id f ts).home.claims = s.home.claims := by
  rw [State.parkAtBar, State.parkGroup_claims, State.home_modMe]
  rfl

theorem State.parkAtBar_live {s : State} (htidy : s.me.Tidy) {ts : List Nat} (hts : ∀ t ∈ ts, t ∈ s.group.threads) :
    (s.parkAtBar id f ts).me.live = s.me.live := by
  refine Ctx.live_ext htidy.threads ?_ fun t => ?_
  · rw [State.parkAtBar_threads]
    exact Ctx.foldl_modThread_rises (c := s.me.modBar id f) htidy.threads _ _
  · rw [Ctx.live, State.parkAtBar_threads, ← Ctx.live, Ctx.mem_live_foldl_modThread (fun _ _ => by simp [Group.parks])]
    exact ⟨fun h => h.elim (fun h => State.live_of_group htidy (hts t h)) fun h => h, .inr⟩

end

theorem Ctx.expected_congr {c d : Ctx} (h : d.live = c.live) (count : Nat) : d.expected count = c.expected count := by
  rw [Ctx.expected, Ctx.expected, h]

theorem enough_congr {t : State} (h : t.me.live = s.me.live) {arrived : List Nat} : Enough t count arrived ↔ Enough s count arrived := by
  rw [Enough, Enough, h]

/-! ### BAR (R315, R316) -/

variable {o : Op}

theorem acting_of_group {t : Nat} (ht : t ∈ acting s o) : t ∈ s.group.threads := by
  obtain ⟨e, he, rfl⟩ := List.mem_map.1 ht
  exact List.mem_map_of_mem (List.mem_of_mem_filter he)

/-- A BAR that no thread of ACTIVE misuses has its effect, then the check of its phase. -/
theorem barOp_of_sound {form mode : Nat} (h : BarSound s o form id mode count) (hform : 1 ≤ form) (hform3 : form ≤ 3)
    (hne : s.active o ≠ []) {bad : Bar → Nat → Bool} (hbad : ∀ t ∈ acting s o, bad (s.me.bar id) t = false)
    (eff : Nat → List Nat → State → State) :
    barOp mode bad eff o s = ((eff id (acting s o) s).barCheck s.cur.1 s.cur.2 id count).deadlockCheck s.cur.1 := by
  obtain ⟨hid, hext, hdest, hj, hmod, hdecl, -⟩ := h
  have hnat : o.mod.toNat = form * 64 + id := by
    rw [hmod, BitVec.toNat_ofNat]
    omega
  have hbar : barId o = id := by
    rw [barId, BitVec.extractLsb'_toNat, hnat]
    omega
  have hlegal : o.legalV 0x120 0 = true := by
    rw [Op.legalV, hnat]
    show (((form * 64 + id) / 16 % 4 == 0) && ((form * 64 + id) / 64 != 0)) = true
    simp
    omega
  have hwrong : (acting s o).filter (fun t => bad (s.me.bar id) t) = [] := List.filter_eq_nil_iff.2 fun t ht => by simp [hbad t ht]
  unfold acting at hwrong
  simp only [barOp, hbar, hlegal, hext, hdest, hj, hdecl, Option.map_some, Option.getD_some, State.myCore, State.myCtxNo]
  simp [hwrong, acting, hne]

theorem claims_deadlockCheck {t : State} (hclaims : t.home.claims = []) (hcur : t.cur = s.cur) : t.deadlockCheck s.cur.1 = t :=
  State.deadlockCheck_of_no_claims (by rw [← hcur]; exact hclaims)

/-- BAR after an effect that leaves the phase short of E. -/
theorem barCheck_deadlockCheck_short {t : State} (hcur : t.cur = s.cur) (hclaims : t.home.claims = [])
    (hless : (t.me.bar id).arrived.length < t.me.expected count) (henough : Enough t count (t.me.bar id).arrived) :
    (t.barCheck s.cur.1 s.cur.2 id count).deadlockCheck s.cur.1 = t := by
  rw [← hcur, State.barCheck_short hless henough]
  exact State.deadlockCheck_of_no_claims hclaims

/-- BAR after an effect that brings the arrivals to E. -/
theorem barCheck_deadlockCheck_completes {t : State} (hcur : t.cur = s.cur) (hclaims : t.home.claims = []) (hrise : Rises t.me.bins)
    (hsome : (t.me.bar id).arrived ≠ []) (hfull : t.me.expected count ≤ (t.me.bar id).arrived.length) :
    Completed t ((t.barCheck s.cur.1 s.cur.2 id count).deadlockCheck s.cur.1) id := by
  have hdone := State.barCheck_completes (count := count) hrise hsome hfull
  rw [← hcur, claims_deadlockCheck (s := t) (hdone.claims.trans hclaims) hdone.cur]
  exact hdone

theorem Bar.arrive_arrived (b : Bar) (ts : List Nat) : (b.arrive ts).arrived = b.arrived ++ ts := rfl

section
variable (htidy : s.me.Tidy) (hclaims : s.home.claims = []) (hne : s.active o ≠ [])
include htidy hclaims

/-- An arrival that parks and leaves the phase short of E. -/
theorem arriveAndPark_short (hless : (s.me.bar id).arrived.length + (acting s o).length < s.me.expected count)
    (henough : Enough s count ((s.me.bar id).arrived ++ acting s o)) :
    ((s.parkAtBar id (·.arrive (acting s o)) (acting s o)).barCheck s.cur.1 s.cur.2 id count).deadlockCheck s.cur.1 =
      s.parkAtBar id (·.arrive (acting s o)) (acting s o) := by
  have hlive := State.parkAtBar_live (id := id) (·.arrive (acting s o)) htidy fun t ht => acting_of_group (o := o) ht
  refine barCheck_deadlockCheck_short rfl ((s.parkAtBar_claims _ _).trans hclaims) ?_ ?_
  · rw [State.parkAtBar_bar, Bar.arrive_arrived, Ctx.expected_congr hlive, List.length_append]
    exact hless
  · rw [State.parkAtBar_bar, Bar.arrive_arrived, enough_congr hlive]
    exact henough

include hne

/-- An arrival that parks and completes the phase. -/
theorem arriveAndPark_completes (hfull : s.me.expected count ≤ (s.me.bar id).arrived.length + (acting s o).length) :
    Completed (s.parkAtBar id (·.arrive (acting s o)) (acting s o))
      (((s.parkAtBar id (·.arrive (acting s o)) (acting s o)).barCheck s.cur.1 s.cur.2 id count).deadlockCheck s.cur.1) id := by
  have hlive := State.parkAtBar_live (id := id) (·.arrive (acting s o)) htidy fun t ht => acting_of_group (o := o) ht
  refine barCheck_deadlockCheck_completes rfl ((s.parkAtBar_claims _ _).trans hclaims) ?_ ?_ ?_
  · rw [State.parkAtBar_bins]
    exact htidy.bins
  · rw [State.parkAtBar_bar, Bar.arrive_arrived]
    exact List.append_ne_nil_of_right_ne_nil _ (acting_ne_nil hne)
  · rw [State.parkAtBar_bar, Bar.arrive_arrived, Ctx.expected_congr hlive, List.length_append]
    exact hfull

omit hclaims hne in
/-- A thread that was parked at a barrier is not of the issue group. -/
theorem not_acting_of_parkedAt {th : Nat} (hth : th ∈ s.me.parkedAt id) : th ∉ acting s o := fun hact => by
  have hgroup := htidy.standing th (s.group_threads ▸ acting_of_group hact)
  rw [Ctx.place_of_parkedAt htidy.threads hth] at hgroup
  cases hgroup

end

/-- BAR with form aw: the threads of ACTIVE arrive and park (R315). -/
theorem barAw_results (h : BarSound s o 1 id 0 count) (hne : s.active o ≠ [])
    (hfresh : ∀ th ∈ acting s o, th ∉ (s.me.bar id).arrived) :
    ((s.me.bar id).arrived.length + (acting s o).length < s.me.expected count → Enough s count ((s.me.bar id).arrived ++ acting s o) →
      Completes (.barAw o) s fun t => (t.me.bar id).phase = (s.me.bar id).phase ∧
        (t.me.bar id).arrived = (s.me.bar id).arrived ++ acting s o ∧
        ∀ th ∈ acting s o, (t.me.thread th).place = .barrier id ∧ (t.me.thread th).resume = s.group.keyAfter th) ∧
    (s.me.expected count ≤ (s.me.bar id).arrived.length + (acting s o).length →
      Completes (.barAw o) s fun t => (t.me.bar id).phase = ((s.me.bar id).phase + 1) % 2 ^ 16 ∧ (t.me.bar id).arrived = [] ∧
        (∀ th ∈ acting s o, Filed t.me (s.group.keyAfter th) th) ∧
        ∀ th ∈ s.me.parkedAt id, Filed t.me (s.me.thread th).resume th) := by
  have hrun : exec (.barAw o) s = .next (((s.parkAtBar id (·.arrive (acting s o)) (acting s o)).barCheck s.cur.1 s.cur.2 id
      count).deadlockCheck s.cur.1) :=
    congrArg Host.Outcome.next (barOp_of_sound h (by decide) (by decide) hne (fun t ht => by simpa using hfresh t ht) _)
  obtain ⟨-, -, -, -, -, -, htidy, hclaims⟩ := h
  refine ⟨fun hless henough => ⟨_, hrun, ?_⟩, fun hfull => ⟨_, hrun, ?_⟩⟩
  · rw [arriveAndPark_short htidy hclaims hless henough]
    refine ⟨?_, ?_, fun th hth => s.parkAtBar_thread _ _ hth⟩
    · rw [State.parkAtBar_bar]
      rfl
    · rw [State.parkAtBar_bar, Bar.arrive_arrived]
  · have hdone := arriveAndPark_completes htidy hclaims hne hfull
    refine ⟨?_, hdone.arrived, fun th hth => ?_, fun th hth => ?_⟩
    · rw [hdone.phase, State.parkAtBar_bar]
      rfl
    · obtain ⟨hplace, hresume⟩ := s.parkAtBar_thread (id := id) (·.arrive (acting s o)) (acting s o) hth
      rw [← hresume]
      exact hdone.released th hplace
    · have hthread := s.parkAtBar_thread_of_not_mem (id := id) (·.arrive (acting s o)) _ (not_acting_of_parkedAt (o := o) htidy hth)
      rw [← hthread]
      exact hdone.released th (by rw [hthread]; exact Ctx.place_of_parkedAt htidy.threads hth)

/-- The arrivals of threads that go on, and owe a wait (R315). -/
def Bar.arriveOwing (ts : List Nat) (b : Bar) : Bar := { b.arrive ts with owed := nodup (b.owed ++ ts) }

/-- Threads arrive at the barrier and go on (R315). -/
def State.arriveAtBar (s : State) (id : Nat) (ts : List Nat) : State := s.modMe fun c => c.modBar id (Bar.arriveOwing ts)

theorem State.me_arriveAtBar (ts : List Nat) : (s.arriveAtBar id ts).me = s.me.modBar id (Bar.arriveOwing ts) := s.me_modMe _

/-- BAR with form arr: the threads of ACTIVE arrive and go on (R315). -/
theorem barArr_results (h : BarSound s o 2 id 1 count) (hne : s.active o ≠ [])
    (hfresh : ∀ th ∈ acting s o, th ∉ (s.me.bar id).arrived) :
    ((s.me.bar id).arrived.length + (acting s o).length < s.me.expected count → Enough s count ((s.me.bar id).arrived ++ acting s o) →
      Completes (.barArr o) s fun t => (t.me.bar id).phase = (s.me.bar id).phase ∧
        (t.me.bar id).arrived = (s.me.bar id).arrived ++ acting s o ∧ t.me.group = s.me.group) ∧
    (s.me.expected count ≤ (s.me.bar id).arrived.length + (acting s o).length →
      Completes (.barArr o) s fun t => (t.me.bar id).phase = ((s.me.bar id).phase + 1) % 2 ^ 16 ∧ (t.me.bar id).arrived = [] ∧
        t.me.group = s.me.group ∧ ∀ th ∈ s.me.parkedAt id, Filed t.me (s.me.thread th).resume th) := by
  have hrun : exec (.barArr o) s = .next (((s.arriveAtBar id (acting s o)).barCheck s.cur.1 s.cur.2 id
      count).deadlockCheck s.cur.1) :=
    congrArg Host.Outcome.next (barOp_of_sound h (by decide) (by decide) hne (fun t ht => by simpa using hfresh t ht) _)
  obtain ⟨-, -, -, -, -, -, htidy, hclaims⟩ := h
  have hme : (s.arriveAtBar id (acting s o)).me = s.me.modBar id (Bar.arriveOwing (acting s o)) :=
    State.me_arriveAtBar _
  have hbar : (s.arriveAtBar id (acting s o)).me.bar id =
      Bar.arriveOwing (acting s o) (s.me.bar id) := by rw [hme, Ctx.bar_modBar]
  have hnone : (s.arriveAtBar id (acting s o)).home.claims = [] := by
    rw [State.arriveAtBar, State.home_modMe]
    exact hclaims
  have hlive : (s.arriveAtBar id (acting s o)).me.live = s.me.live := by
    rw [hme]
    rfl
  refine ⟨fun hless henough => ⟨_, hrun, ?_⟩, fun hfull => ⟨_, hrun, ?_⟩⟩
  · rw [barCheck_deadlockCheck_short (s := s) (id := id) (count := count) (t := s.arriveAtBar id (acting s o)) rfl hnone
      (by rw [hbar, Ctx.expected_congr hlive]; exact List.length_append.trans_lt hless)
      (by rw [hbar]; exact (enough_congr hlive).2 henough)]
    exact ⟨by rw [hbar]; rfl, by rw [hbar]; rfl, by rw [hme]; rfl⟩
  · have hdone := barCheck_deadlockCheck_completes (s := s) (t := s.arriveAtBar id (acting s o)) (count := count) (id := id) rfl hnone (by rw [hme]; exact htidy.bins)
      (by rw [hbar]; exact List.append_ne_nil_of_right_ne_nil _ (acting_ne_nil hne))
      (by rw [hbar, Ctx.expected_congr hlive]; exact hfull.trans_eq (List.length_append).symm)
    refine ⟨by rw [hdone.phase, hbar]; rfl, hdone.arrived, by rw [hdone.group, hme]; rfl, fun th hth => ?_⟩
    have hreleased := hdone.released th
    rw [hme] at hreleased
    exact hreleased (Ctx.place_of_parkedAt htidy.threads hth)

/-- A barrier some of whose threads owe their wait no more. -/
def Bar.forgive (go : List Nat) (b : Bar) : Bar := { b with owed := b.owed.filter fun t => !go.contains t }

/-- BAR with form wait: the threads whose arrival waits in this phase park (R315). -/
theorem barWait_results (h : BarSound s o 3 id 1 count) (hne : s.active o ≠ []) (howed : ∀ th ∈ acting s o, th ∈ (s.me.bar id).owed)
    (hless : (s.me.bar id).arrived.length < s.me.expected count) (henough : Enough s count (s.me.bar id).arrived) :
    Completes (.barWait o) s fun t => (t.me.bar id).phase = (s.me.bar id).phase ∧ (t.me.bar id).arrived = (s.me.bar id).arrived ∧
      ∀ th ∈ acting s o, (th ∈ (s.me.bar id).arrived → (t.me.thread th).place = .barrier id) ∧
        (th ∉ (s.me.bar id).arrived → (t.me.thread th).place = .group ∧ th ∉ (t.me.bar id).owed) := by
  have hop := barOp_of_sound h (by decide) (by decide) hne (bad := fun b t => !b.owed.contains t)
    (fun t ht => by simpa using howed t ht)
    fun id ts s => s.parkAtBar id (Bar.forgive (ts.filter fun t => !(s.me.bar id).arrived.contains t)) (ts.filter (s.me.bar id).arrived.contains)
  obtain ⟨-, -, -, -, -, -, htidy, hclaims⟩ := h
  have hstay (t : Nat) (ht : t ∈ (acting s o).filter (s.me.bar id).arrived.contains) : t ∈ s.group.threads :=
    acting_of_group (List.mem_of_mem_filter ht)
  have hlive := State.parkAtBar_live (id := id) (Bar.forgive ((acting s o).filter fun t => !(s.me.bar id).arrived.contains t)) htidy hstay
  rw [barCheck_deadlockCheck_short (s := s) (id := id) (count := count)
    (t := s.parkAtBar id (Bar.forgive ((acting s o).filter fun t => !(s.me.bar id).arrived.contains t))
      ((acting s o).filter (s.me.bar id).arrived.contains)) rfl ((s.parkAtBar_claims _ _).trans hclaims)
    (by rw [State.parkAtBar_bar, Ctx.expected_congr hlive]; exact hless)
    (by rw [State.parkAtBar_bar]; exact (enough_congr hlive).2 henough)] at hop
  have hrun : exec (.barWait o) s = .next (s.parkAtBar id
      (Bar.forgive ((acting s o).filter fun t => !(s.me.bar id).arrived.contains t))
      ((acting s o).filter (s.me.bar id).arrived.contains)) := by
    refine congrArg Host.Outcome.next (Eq.trans ?_ hop)
    simp only [List.partition_eq_filter_filter]
    rfl
  refine ⟨_, hrun, ?_, ?_, fun th hth => ⟨fun harr => ?_, fun hnot => ⟨?_, ?_⟩⟩⟩
  · rw [State.parkAtBar_bar]
    rfl
  · rw [State.parkAtBar_bar]
    rfl
  · obtain ⟨hplace, -⟩ := s.parkAtBar_thread (id := id) (Bar.forgive ((acting s o).filter fun t => !(s.me.bar id).arrived.contains t)) _
      (List.mem_filter.2 ⟨hth, List.contains_iff_mem.2 harr⟩)
    exact hplace
  · rw [State.parkAtBar_thread_of_not_mem _ _ _ (by simp [hnot])]
    exact htidy.standing th (s.group_threads ▸ acting_of_group hth)
  · rw [State.parkAtBar_bar]
    simp [Bar.forgive, hth, hnot]

/-! ### BARTEST (R318) -/

/-- A BARTEST of a declared barrier gives what its form reads (R318). -/
theorem bartestOp_gives {ctr : Bool} (hid : id < 16) (hext : o.ext = none) (hj : o.j = 0#30) (hdecl : (s.barDecl s.me id).isSome = true)
    (hsound : Sound s o [] o.dest.toNat 1) (hmod : o.mod = BitVec.ofNat 8 ((if ctr then 0x20 else 0) + id)) :
    Gives s (bartestOp ctr o s) o .reg o.dest.toNat 1 1 1
      fun _ _ => [word64 (if ctr then (s.me.bar id).phase else (s.me.bar id).phase % 2)] := by
  have hnat : o.mod.toNat = (if ctr then 0x20 else 0) + id := by
    rw [hmod, BitVec.toNat_ofNat]
    cases ctr <;> simp <;> omega
  have hbar : barId o = id := by
    rw [barId, BitVec.extractLsb'_toNat, hnat]
    cases ctr <;> simp <;> omega
  have hlegal : o.legalV 0x121 (if ctr then 7 else 14) = true := by
    rw [Op.legalV, hnat]
    interval_cases id <;> cases ctr <;> decide
  have hsome : (s.barDecl s.me id).isNone = false := by
    rw [Option.isNone_eq_false_iff]
    exact hdecl
  unfold bartestOp
  simp only [hbar, hlegal, hext, hj, hsound.target, hsound.copyTraps, hsome]
  exact s.land_gives o _ _ _ _ _

/-- Settles O20: an arrival or a wait has its effect on the barrier, then the check ends the phase or changes nothing. -/
theorem barrierResults : Obligations.BarrierResults := by
  unfold Obligations.BarrierResults
  intro s o id count hne ts b e
  refine ⟨fun h hfresh => barAw_results h hne hfresh, fun h hfresh => barArr_results h hne hfresh,
    fun h howed hless henough => barWait_results h hne howed hless henough,
    fun hid hext hj hdecl hsound => ⟨fun hmod => ⟨_, rfl, ?_⟩, fun hmod => ⟨_, rfl, ?_⟩⟩⟩
  · exact bartestOp_gives (ctr := false) hid hext hj hdecl hsound (by simpa using hmod)
  · exact bartestOp_gives (ctr := true) hid hext hj hdecl hsound (by simpa using hmod)

end
end Sys2Proof.Machine
end

section
-- One proof after another, as in the sections before this one.
set_option Elab.async false

namespace Sys2Proof.Machine

section
open Sys2Proof.Claims

/-! ### A transfer whose release a page refuses (R171, R204, R398) -/

/-- An XFER of scope mem on channel 0, with its descriptor at p8 and its identifier to p24. -/
def xferRefused : Op := { slot := 7, mod := 0x90, dest := 24, a := 8, rows := 1, cols := 3 }

/-- The refused release's state with 4 KiB of G in the firmware slot's reach. -/
def refusedSender : State := refused.modCtx 0 4 fun c => { c with regs := { c.regs with segLim := [(0, 4096)] } }

theorem xferRefused_sound : Sound refusedSender xferRefused [(xferRefused.selA, 8)] xferRefused.dest.toNat 1 :=
  ⟨by decide, by decide +kernel, by decide, fun hlast => absurd hlast (by decide)⟩

/-- The XFER takes effect after that release, so no lane of its result has a value. -/
theorem xferRefused_gives_nothing {t : State} (h : exec (.xfer xferRefused) refusedSender = .next t) : ∀ l ∈ t.me.inflight, l.vals = [] := by
  have hall : (match exec (.xfer xferRefused) refusedSender with
      | .next t => t.me.inflight.all fun l => l.vals.isEmpty
      | _ => true) = true := by decide +kernel
  rw [h] at hall
  exact fun l hl => List.isEmpty_iff.1 (List.all_eq_true.1 hall l hl)

/-- Refutes O24: the release that an XFER starts can park the very thread that issues it, which then gets no identifier. -/
theorem not_transfersIssue : ¬ Obligations.TransfersIssue := by
  unfold Obligations.TransfersIssue
  intro h
  obtain ⟨hxfer, -⟩ := h refusedSender xferRefused (0, 0) (by decide +kernel) rfl
  obtain ⟨hissue, -⟩ := hxfer (by decide) (by decide) xferRefused_sound (by decide +kernel) (by decide +kernel)
  obtain ⟨t, hexec, -, -, -, l, hl, -, -, hvals⟩ := hissue (by decide +kernel) (by unfold XferSound; decide +kernel) (by decide +kernel) (by decide +kernel)
  rw [xferRefused_gives_nothing hexec l hl] at hvals
  exact absurd hvals List.not_mem_nil

end
end Sys2Proof.Machine
end

section
-- One proof after another, as in the sections before this one.
set_option Elab.async false

namespace Sys2Proof.Machine

section
open Sys2Proof.Claims

/-! ### A result of an op that has changed the state first (R127) -/

variable {s u : State} {o : Op}

theorem State.me_claimLast_keeps {β : Type} {g : Ctx → β} (hg : ∀ c ths, g { c with threads := ths } = g c) (kind : DestKind)
    (dest width : Nat) (ts : List Nat) : g (s.claimLast kind dest width ts).me = g s.me := by
  unfold State.claimLast
  split
  · rw [State.me_modMe]
    exact foldl_keeps g (fun c _ => hg c _) _ _
  · rfl

theorem State.me_land_keeps {β : Type} {g : Ctx → β} (hg : ∀ c ths ls, g { c with threads := ths, inflight := ls } = g c) (kind : DestKind)
    (dest width lat : Nat) (vals : List (Nat × List Word)) : g (u.land o kind dest width lat vals 0 [] []).me = g u.me := by
  have hclaim := u.me_claimLast_keeps (g := g) (fun c ths => hg c ths c.inflight) kind dest width (vals.map (·.1))
  unfold State.land
  dsimp only
  split <;> rw [State.me_modMe] <;> exact (hg _ _ _).trans hclaim

/-- A result that an op sends on its way after it has changed neither its group nor the time comes to the lanes of ACTIVE. -/
theorem State.land_coming (hcur : u.cur = s.cur) (hnow : u.now = s.now) (hgroup : u.me.group = s.me.group) (width lat : Nat)
    (v : List Word) :
    Coming s (u.land o .reg o.dest.toNat width lat (s.perLane o fun _ _ => v) 0 [] []) o width lat v := by
  have hg : u.group = s.group := by rw [State.group, hgroup]; rfl
  have hhalved : u.halved o = s.halved o := by rw [State.halved, State.myCore, hcur, hg]; rfl
  intro e he
  have hval : (e.2, v) ∈ s.perLane o fun _ _ => v := List.mem_map.2 ⟨e, he, rfl⟩
  have hlane : e ∈ s.group.lanes := List.mem_of_mem_filter he
  have hgiven (keep : Nat → Bool) (hkeep : keep e.1 = true) :
      (e.2, v) ∈ (s.perLane o fun _ _ => v).filter fun p => ((s.group.lanes.filter fun e => keep e.1).map (·.2)).contains p.1 :=
    List.mem_filter.2 ⟨hval, List.contains_iff_mem.2 (List.mem_map.2 ⟨e, List.mem_filter.2 ⟨hlane, hkeep⟩, rfl⟩)⟩
  unfold State.land
  simp only [hg, hhalved]
  cases hh : s.halved o with
  | true =>
    simp only [if_true, State.me_modMe]
    by_cases h16 : 16 ≤ e.1
    · exact ⟨_, List.mem_append_right _ (List.mem_cons_of_mem _ (List.mem_singleton.2 rfl)), rfl, rfl, rfl,
        by simp [State.after, hnow, dueIn, hh, h16], hgiven (16 ≤ ·) (decide_eq_true h16)⟩
    · exact ⟨_, List.mem_append_right _ List.mem_cons_self, rfl, rfl, rfl,
        by simp [State.after, hnow, dueIn, h16], hgiven (· < 16) (decide_eq_true (Nat.not_le.1 h16))⟩
  | false =>
    simp only [Bool.false_eq_true, if_false, State.me_modMe]
    exact ⟨_, List.mem_append_right _ (List.mem_singleton.2 rfl), rfl, rfl, rfl,
      by simp [State.after, hnow, dueIn, hh], hgiven (fun _ => true) rfl⟩

/-! ### EVQPOP, XSTAT and WAITID (R329, R330, R401) -/

theorem active_ne_nil_of_top {e : Nat × Nat} (htop : s.top o = some e) : s.active o ≠ [] := fun h => by
  simp [State.top, h] at htop

theorem exec_evqpop {e : Nat × Nat} (htop : s.top o = some e) (hext : o.ext = none) (hlegal : o.legalV 0x122 8 = true)
    (hsound : Sound s o [] o.dest.toNat 1) : exec (.evqpop o) s = .next ((s.modMe fun _ => s.me.popEvent.2).land o .reg o.dest.toNat 1 4
      (s.perLane o fun _ _ => [s.me.popEvent.1]) 0 [] []) := by
  show execEvqpop o s = _
  simp only [execEvqpop, hlegal, hext, hsound.target, hsound.copyTraps]
  simp [active_ne_nil_of_top htop]

theorem Ctx.popEvent_evq (c : Ctx) : c.popEvent.2.eng.evq = c.eng.evq.tail := by
  unfold Ctx.popEvent
  cases h : c.eng.evq <;> simp [h]

theorem Ctx.popEvent_group (c : Ctx) : c.popEvent.2.group = c.group := by
  unfold Ctx.popEvent
  split <;> rfl

theorem Ctx.popEvent_word (c : Ctx) : c.popEvent.1 = match c.eng.evq with
    | [] => 0
    | w :: _ => if c.eng.evOvf then w ||| word64 (2 ^ 44) else w := by
  unfold Ctx.popEvent
  cases c.eng.evq <;> rfl

theorem xstat_gives (hext : o.ext = none) (hlegal : o.legalV 0x124 7 = true) (hsound : Sound s o [] o.dest.toNat 1) :
    Completes (.xstat o) s fun t => Gives s t o .reg o.dest.toNat 1 4 1 fun _ _ => [word64 (s.me.chan (chanOf o)).done] := by
  refine ⟨_, rfl, ?_⟩
  simp only [hlegal, hext, hsound.target, hsound.copyTraps]
  exact s.land_gives o _ _ _ _ _

section
variable {e : Nat × Nat} (htop : s.top o = some e) (hext : o.ext = none) (hread : Readable s o [(o.selA, 1)])
  (hissued : (s.me.chan (chanOf o)).notIssued (s.scalar o e.1 e.2 o.selA 7) = false)
include htop hext hread hissued

theorem exec_waitid (hlegal : o.legalV 0x125 0 = true) : exec (.waitid o) s =
    .next (if (s.me.chan (chanOf o)).below (s.scalar o e.1 e.2 o.selA 7) = true then s else s.holdFor .xferWait) := by
  unfold chanOf at hissued
  show execWaitid o s = _
  simp only [execWaitid, htop, hlegal, hext, Option.isNone_none, Bool.and_self, hread.srcTraps, hissued]
  simp only [Bool.not_false, State.illegalUnless_true, List.append_nil, List.isEmpty_nil, Bool.true_and, Bool.not_eq_true', runOp_nil]
  by_cases hbelow : (s.me.chan (chanOf o)).below (s.scalar o e.1 e.2 o.selA 7) = true
  · rw [if_pos hbelow]
    exact if_neg (Bool.not_eq_false _ |>.mpr hbelow)
  · rw [if_neg hbelow]
    exact if_pos (Bool.eq_false_iff.2 hbelow)

/-! ### XCANCEL (R402) -/

/-- A core whose buffer or loops hold a transfer. -/
def Core.holds (n : Core) (env : EngEnv) (chan id : Nat) : Bool :=
  n.eng.buf.any (·.is env chan id) || n.eng.loops.any fun l => l.left.any (·.is env chan id)

/-- A core's buffer and loops without a transfer. -/
def Core.without (n : Core) (env : EngEnv) (chan id : Nat) : Core := { n with eng := { n.eng with
  buf := n.eng.buf.filter fun t => !t.is env chan id
  loops := n.eng.loops.map fun l => { l with left := l.left.filter fun t => !t.is env chan id } } }

/-- What a cancel does: the first core that holds the transfer loses it, or else the engine that runs it stops. -/
def State.cancel (s : State) (env : EngEnv) (chan id : Nat) : State :=
  match s.cores.filter fun c => c.2.holds env chan id with
  | c :: _ => (s.modCore c.1 (·.without env chan id)).endOp env chan id false none
  | [] => match s.cores.find? fun c => c.2.eng.running.any (·.is env chan id) with
    | some (j, n) => match n.eng.running with
      | some t => ((s.stopRunning j t).endOp env chan id false none).freeEngine j
      | none => s
    | none => s

theorem exec_xcancel (hlegal : o.legalV 0x102 0 = true) : exec (.xcancel o) s =
    .next (s.cancel (s.engEnv s.cur.1 s.cur.2) (chanOf o) (s.scalar o e.1 e.2 o.selA 7)) := by
  unfold chanOf at hissued
  show execXcancel o s = _
  simp only [execXcancel, htop, hlegal, hext, Option.isNone_none, Bool.and_self, hread.srcTraps, hissued]
  rfl

end

theorem Core.holds_eq_false {n : Core} {env : EngEnv} {chan id : Nat} : n.holds env chan id = false ↔
    (∀ u ∈ n.eng.buf, u.is env chan id = false) ∧ ∀ l ∈ n.eng.loops, ∀ u ∈ l.left, u.is env chan id = false := by
  simp [Core.holds, List.any_eq_false]

theorem State.cancel_of_ended {env : EngEnv} {chan id : Nat} (hheld : ∀ n ∈ s.cores, n.2.holds env chan id = false)
    (hrun : ∀ n ∈ s.cores, ∀ u, n.2.eng.running = some u → u.is env chan id = false) : s.cancel env chan id = s := by
  have hhomes : (s.cores.filter fun c => c.2.holds env chan id) = [] :=
    List.filter_eq_nil_iff.2 fun n hn => Bool.eq_false_iff.1 (hheld n hn)
  have hfind : (s.cores.find? fun c => c.2.eng.running.any (·.is env chan id)) = none := List.find?_eq_none.2 fun n hn => by
    cases hr : n.2.eng.running with
    | none => simp
    | some u => simp [hrun n hn u hr]
  simp only [State.cancel, hhomes, hfind]

theorem State.cancel_of_held {env : EngEnv} {chan id k : Nat} {core : Core} {pre post : Tab Core} (hcores : s.cores = pre ++ (k, core) :: post)
    (hpre : ∀ n ∈ pre, n.2.holds env chan id = false) (hheld : core.holds env chan id = true) :
    s.cancel env chan id = (s.modCore k (·.without env chan id)).endOp env chan id false none := by
  have hnone : (pre.filter fun c => c.2.holds env chan id) = [] := List.filter_eq_nil_iff.2 fun n hn => Bool.eq_false_iff.1 (hpre n hn)
  have hhomes : (s.cores.filter fun c => c.2.holds env chan id) = (k, core) :: post.filter fun c => c.2.holds env chan id := by
    rw [hcores, List.filter_append, hnone, List.nil_append, List.filter_cons_of_pos (a := (k, core)) hheld]
  simp only [State.cancel, hhomes]

/-- Settles O25: each op reads or changes its channel or the event queue as its clause says. -/
theorem channelStatus : Obligations.ChannelStatus := by
  unfold Obligations.ChannelStatus
  intro s o e htop hext c id
  refine ⟨fun hlegal hsound => ⟨_, exec_evqpop htop hext hlegal hsound, ?_, ?_⟩, fun hlegal hsound => xstat_gives hext hlegal hsound,
    fun hlegal hread hissued => ⟨fun hbelow => ⟨_, exec_waitid htop hext hread hissued hlegal, if_pos hbelow⟩,
      fun hbelow => ⟨_, exec_waitid htop hext hread hissued hlegal, if_neg (Bool.eq_false_iff.1 hbelow)⟩⟩,
    fun hlegal hread hissued => ?_⟩
  · rw [State.me_land_keeps (g := fun c => c.eng.evq) fun _ _ _ => rfl, State.me_modMe, Ctx.popEvent_evq]
  · have hcoming := State.land_coming (s := s) (o := o) (u := s.modMe fun _ => s.me.popEvent.2) rfl rfl
      (by rw [State.me_modMe, Ctx.popEvent_group]) 1 4 [s.me.popEvent.1]
    rwa [show s.me.popEvent.1 = _ from Ctx.popEvent_word s.me] at hcoming ⊢
  · intro env
    refine ⟨fun hended => ⟨_, exec_xcancel htop hext hread hissued hlegal, ?_⟩,
      fun k core pre post hcores hpre hheld => ⟨_, exec_xcancel htop hext hread hissued hlegal, ?_⟩⟩
    · exact State.cancel_of_ended (fun n hn => Core.holds_eq_false.2 ⟨(hended n hn).1, (hended n hn).2.1⟩) fun n hn => (hended n hn).2.2
    · obtain ⟨u, hu, his⟩ := hheld
      exact State.cancel_of_held hcores (fun n hn => Core.holds_eq_false.2 (hpre n hn))
        (by rw [Core.holds, List.any_eq_true.2 ⟨u, hu, his⟩, Bool.true_or])

end
end Sys2Proof.Machine
end

section
-- One proof after another, as in the sections before this one.
set_option Elab.async false

namespace Sys2Proof.Machine

section
open Sys2Proof.Claims

/-! ### A receiver whose core stands out of order in the table of cores (R232, R236) -/

/-- The workgroup of a logical core of cohort 0. -/
def logicalWg (lg : Nat) : Wg := ⟨0, 0, 0, lg, 1, 16, 1, 0, false, true⟩

/-- A cohort of two logical cores. -/
def cohortOfTwo : Cohort := ⟨0, 0, 1, 2, [0, 1], [0, 0], 0, 1, [], [], [], []⟩

/-- Logical core 0 runs one thread and has a message of eight words from logical core 1. -/
def receiver : Ctx :=
  { state := .active
    wg := some (logicalWg 0)
    group := some ⟨[(0, 0)], {}, 0, none, none⟩
    threads := [(0, { place := .group, regs := [(1, 1)] })]
    eng := { rx := [(1, [List.replicate 8 1])] } }

def sender : Ctx := { state := .active, wg := some (logicalWg 1) }

/-- The sender stands on core 5 and in context 1 of the receiver's own core, core 5 before core 0 in the table. -/
def senderTwice : State :=
  { cur := (0, 0)
    cohorts := [(0, cohortOfTwo)]
    cores := [(5, { ctxs := [(0, sender)] }), (0, { ctxs := [(0, receiver), (1, sender)] })] }

/-- RECVC of eight words to p24, from the logical core in p1. -/
def recvOp : Op := { dest := 24, a := 1, rows := 1, cols := 3 }

theorem recvOp_sound : Sound senderTwice recvOp [(recvOp.selA, 1)] recvOp.dest.toNat 8 :=
  ⟨by decide, by decide +kernel, by decide, fun hlast => absurd hlast (by decide)⟩

/-- The RECVC's own write puts core 0 before core 5, so that the credit goes to core 0. -/
theorem recvc_senderTwice {t : State} (h : exec (.recvc recvOp) senderTwice = .next t) : (t.ctx 5 0).credits 0 = [0, 0, 0, 0] := by
  have hall : (match exec (.recvc recvOp) senderTwice with
      | .next t => (t.ctx 5 0).credits 0
      | _ => [0, 0, 0, 0]) = [0, 0, 0, 0] := by decide +kernel
  rw [h] at hall
  exact hall

/-- Refutes O27: in a table of cores that does not rise, the credit of a message can go to another context than the pair's sender. -/
theorem not_circuitMessages : ¬ Obligations.CircuitMessages := by
  unfold Obligations.CircuitMessages
  intro h
  obtain ⟨-, hrecvc, -⟩ := h senderTwice recvOp (0, 0) cohortOfTwo (logicalWg 0)
    (by decide +kernel) rfl (by decide) (by decide +kernel) (by decide +kernel) (by decide +kernel) (by decide +kernel)
  obtain ⟨htake, -⟩ := hrecvc (by decide) recvOp_sound
  obtain ⟨t, hexec, -, -, hcredits⟩ :=
    htake (List.replicate 8 1) [] 5 0 (by decide +kernel) (by decide +kernel) (by decide +kernel) (by decide)
  exact absurd ((recvc_senderTwice hexec).symm.trans hcredits) (by decide +kernel)

end
end Sys2Proof.Machine
end

section
-- One proof after another, as in the sections before this one.
set_option Elab.async false

namespace Sys2Proof.Machine

section
open Sys2Proof.Claims

/-! ### ACCZ, ACCLD and ACCST (R308-R310) -/

variable {s : State} {o : Op} {e : Nat × Nat}

/-- The tile checks of the three instructions pass where every lane names a tile that the context holds. -/
theorem accTileTraps_of_sound {opc sel tile : Nat} {srcs : List Nat} (htop : s.top o = some e) (hsound : MtxSound s o opc srcs)
    (huniform : Uniform s o sel tile) (htile : tile < 4) (hheld : s.holdsTile s.cur.1 s.cur.2 tile = true) :
    accTileTraps opc o sel srcs s = [] ∧ s.scalar o e.1 e.2 sel 7 = tile := by
  obtain ⟨⟨e', htop', hscalar⟩, hagree⟩ := top_of_uniform huniform (active_ne_nil_of_top htop)
  obtain rfl : e = e' := Option.some.inj (htop.symm.trans htop')
  refine ⟨?_, hscalar⟩
  simp [accTileTraps, htop, hscalar, hagree, mtxTraps_of_sound hsound, htile.not_ge, hheld]

/-- The matrix side of a core without the elements of some rows of a tile. -/
def Mtx.zeroRows (m : Mtx) (tile : Nat) (rows : List Nat) : Mtx :=
  { m with acc := m.acc.filter fun e => !(e.1 / 32768 == tile && rows.contains (e.1 % 32768 / 128)) }

theorem Mtx.accAt_zeroRows (m : Mtx) (tile : Nat) (rows : List Nat) {tl i j : Nat} (hi : i < 256) (hj : j < 128) :
    (m.zeroRows tile rows).accAt tl i j = if tl = tile ∧ i ∈ rows then 0 else m.accAt tl i j := by
  have htile : (tl * 32768 + 128 * i + j) / 32768 = tl := by omega
  have hrow : (tl * 32768 + 128 * i + j) % 32768 / 128 = i := by omega
  unfold Mtx.accAt Mtx.zeroRows tgetD
  rw [tget_filter_key fun n => !(n / 32768 == tile && rows.contains (n % 32768 / 128)), htile, hrow]
  by_cases h : tl = tile ∧ i ∈ rows
  · simp [h]
  · rw [if_neg h, if_pos]
    simpa [not_and_or] using not_and_or.1 h

/-- What ACCZ does once its checks pass. -/
def State.zeroTile (s : State) (o : Op) (tile : Nat) : State :=
  (s.modMtx s.cur.1 (·.zeroRows tile (ownedRows s o))).addWork s.cur.1
    { ctx := s.cur.2, reads := noSet, writes := ⟨[], [tile]⟩, until_ := s.after (ownedRows s o).length }

theorem exec_accz {tile : Nat} (htop : s.top o = some e) (hsound : MtxSound s o 0x0A3 [o.selA]) (huniform : Uniform s o o.selA tile)
    (htile : tile < 4) (hheld : s.holdsTile s.cur.1 s.cur.2 tile = true) (hfree : s.conflicts s.cur.1 noSet ⟨[], [tile]⟩ = false) :
    exec (.accz o) s = .next (s.zeroTile o tile) := by
  obtain ⟨htraps, hscalar⟩ := accTileTraps_of_sound htop hsound huniform htile hheld
  show execAccz o s = _
  simp only [execAccz, htop, htraps, hscalar, State.myCore_eq, hfree]
  rfl

theorem State.zeroTile_tileRows (hreal : RealLanes s o) (tile : Nat) :
    TileRows s (s.zeroTile o tile) tile (ownedRows s o) fun _ _ => 0 := by
  have hmtx : ((s.zeroTile o tile).mtx s.cur.1).acc = ((s.mtx s.cur.1).zeroRows tile (ownedRows s o)).acc ∧
      ((s.zeroTile o tile).mtx s.cur.1).opmem = (s.mtx s.cur.1).opmem := by
    rw [State.zeroTile, State.mtx_addWork, State.mtx_modMtx]
    exact ⟨rfl, rfl⟩
  obtain ⟨hacc, hopmem⟩ := hmtx
  have htileAt (tl i j : Nat) : tileAt (s.zeroTile o tile) tl i j = ((s.mtx s.cur.1).zeroRows tile (ownedRows s o)).accAt tl i j :=
    congrArg (tgetD · _ 0) hacc
  refine ⟨fun i hi j hj => ?_, fun tl i j hi hj hout => ?_, hopmem⟩
  · rw [htileAt, Mtx.accAt_zeroRows _ _ _ (ownedRows_lt hreal i hi) hj, if_pos ⟨rfl, hi⟩]
  · rw [htileAt, Mtx.accAt_zeroRows _ _ _ hi hj, if_neg (by tauto)]
    rfl

/-- The slots and tiles that ACCLD reads and writes, and ACCST. -/
def moveReads (store : Bool) (tile : Nat) : OsSet := if store then ⟨[], [tile]⟩ else noSet
def moveWrites (store : Bool) (tile : Nat) : OsSet := if store then noSet else ⟨[], [tile]⟩

/-- The engine work of an ACCLD or ACCST. -/
def moveWork (store : Bool) (s : State) (tile : Nat) : Work :=
  { ctx := s.cur.2, reads := moveReads store tile, writes := moveWrites store tile, until_ := s.now, at_ := s.me.pc }

/-- An ACCLD or ACCST whose checks pass waits for conflicting work, and else runs its rows as a stream. -/
theorem accMoveOp_of_sound {store : Bool} {tile : Nat} (htop : s.top o = some e)
    (hsound : MtxSound s o (if store then 0x0A2 else 0x0A1) [o.selA, o.selB]) (huniform : Uniform s o o.selB tile) (htile : tile < 4)
    (hrows : RowsSound store s o) (hheld : s.holdsTile s.cur.1 s.cur.2 tile = true) :
    accMoveOp store o s = if s.conflicts s.cur.1 (moveReads store tile) (moveWrites store tile) then s.holdFor .opslotWait
      else s.runStream s.cur.1 s.cur.2 (moveWork store s tile) (4 * (tileMoves store s o tile).length) (tileMoves store s o tile) := by
  obtain ⟨htraps, hscalar⟩ := accTileTraps_of_sound htop hsound huniform htile hheld
  obtain ⟨hsegs, haccs⟩ := hrows
  have hbad : ((s.active o).filterMap fun a =>
      if ptrSeg (s.word o a.1 a.2 o.selA) = 1 || ptrSeg (s.word o a.1 a.2 o.selA) = 6 || ptrSeg (s.word o a.1 a.2 o.selA) = 7 ||
        (store && ptrSeg (s.word o a.1 a.2 o.selA) = 3) then
        some (a.2, (⟨.accessViolation, ptrSeg (s.word o a.1 a.2 o.selA),
          s.me.addrOf (Acc.ofPtr a.1 a.2 (s.word o a.1 a.2 o.selA) 4) (ptrOff (s.word o a.1 a.2 o.selA))⟩ : Trap)) else none) = [] := by
    refine List.filterMap_eq_nil_iff.2 fun a ha => if_neg ?_
    have hseg := hsegs a ha
    cases store <;> simp at hseg ⊢ <;> omega
  unfold accMoveOp
  simp only [htop, htraps, hscalar, State.myCore_eq, State.myCtxNo_eq, hbad, haccs]
  simp [tileMoves, moveWork, moveReads, moveWrites]
  rfl

/-! ### OSLOAD (R361) -/

theorem osload_of_sound {slot soff n : Nat} (htop : s.top o = some e) (hslot : slot < 32) (hsoff : soff < 128)
    (hfit : soff + n + 1 ≤ 128) (hsound : MtxSound s o 0x0A5 [o.selA, o.selB])
    (hword : s.scalar o e.1 e.2 o.selB 7 = n * 2 ^ 16 + soff * 2 ^ 8 + slot) (hheld : s.holdsSlot s.cur.1 s.cur.2 slot = true)
    (hseg : ptrSeg (s.word o e.1 e.2 o.selA) ≠ 1)
    (haccs : s.accTraps s.cur.1 s.cur.2 .load 8 [Acc.ofPtr e.1 e.2 (s.word o e.1 e.2 o.selA) (128 * (n + 1))] = [])
    (hfree : s.conflicts s.cur.1 noSet ⟨[slot], []⟩ = false) :
    exec (.osload o) s = .next (s.draw1.2.runStream s.cur.1 s.cur.2
      { ctx := s.cur.2, reads := noSet, writes := ⟨[slot], []⟩, until_ := s.now, at_ := s.me.pc } (2 * (n + 1) + s.draw1.1 % 512)
      ((List.range (n + 1)).map fun i => ⟨e.1, e.2, ptrSeg (s.word o e.1 e.2 o.selA), ptrOff (s.word o e.1 e.2 o.selA) + 128 * i, 128,
        .toSlot, slot * 16384 + 128 * soff + 128 * i, []⟩)) := by
  have hlen : ((n * 2 ^ 16 + soff * 2 ^ 8 + slot) / 2 ^ 16 % 128 + 1) * 128 = 128 * (n + 1) := by omega
  have hoff : (n * 2 ^ 16 + soff * 2 ^ 8 + slot) / 2 ^ 8 % 128 * 128 = 128 * soff := by omega
  have hnum : (n * 2 ^ 16 + soff * 2 ^ 8 + slot) % 32 = slot := by omega
  have hok : (decide (n * 2 ^ 16 + soff * 2 ^ 8 + slot < 2 ^ 23) && (n * 2 ^ 16 + soff * 2 ^ 8 + slot) / 2 ^ 15 % 2 == 0 &&
      (n * 2 ^ 16 + soff * 2 ^ 8 + slot) / 2 ^ 5 % 8 == 0 && decide (128 * soff + 128 * (n + 1) ≤ 16384)) = true := by
    simp only [Bool.and_eq_true, decide_eq_true_eq, beq_iff_eq]
    omega
  have hmoves : 128 * (n + 1) / 128 = n + 1 ∧ 128 * (n + 1) / 64 = 2 * (n + 1) := by omega
  obtain ⟨hrows, hcycles⟩ := hmoves
  have hacc1 : (Acc.ofPtr e.1 e.2 (s.word o e.1 e.2 o.selA) (128 * (n + 1))).seg ≠ 1 := hseg
  show execOsload o s = _
  simp only [execOsload, htop, hword, hlen, hoff, hnum, hok, mtxTraps_of_sound hsound, State.myCore_eq, State.myCtxNo_eq, hheld, haccs, hfree,
    if_neg hacc1, osMoves, hrows, hcycles]
  rfl

/-- Settles O29: each instruction passes its checks, and then zeroes its rows or runs them as a stream. -/
theorem tileAndSlotMoves : Obligations.TileAndSlotMoves := by
  unfold Obligations.TileAndSlotMoves
  intro s o e htop
  refine ⟨fun tile hsound huniform htile hreal hheld hfree => ⟨_, exec_accz htop hsound huniform htile hheld hfree,
      s.zeroTile_tileRows hreal tile, (State.mem_schedule _ _ _ _).2 (.inl rfl)⟩,
    fun store tile => ?_,
    fun slot soff n hslot hsoff _ hfit hsound hword hheld hseg haccs hfree =>
      ⟨_, osload_of_sound htop hslot hsoff hfit hsound hword hheld hseg haccs hfree, rfl⟩⟩
  intro i set mine hsound huniform htile hrows hheld
  have hrun : exec i s = .next (accMoveOp store o s) := by cases store <;> rfl
  have hmove := accMoveOp_of_sound htop hsound huniform htile hrows hheld
  refine ⟨fun hfree => ⟨_, hrun, hmove.trans (if_neg (Bool.eq_false_iff.1 hfree))⟩, fun hbusy => ⟨_, hrun, hmove.trans (if_pos hbusy)⟩⟩

end
end Sys2Proof.Machine
end

section
-- One proof after another, as in the sections before this one.
set_option Elab.async false

namespace Sys2Proof.Machine

section
open Sys2Proof.Claims

/-! ### Results on their way stay on their way (R127) -/

variable {s t u : State} {o : Op} {width : Nat}

theorem UnderWay.of_inflight (h : UnderWay u o width) (he : t.me.inflight = u.me.inflight) : UnderWay t o width := by
  unfold UnderWay
  rw [he]
  exact h

/-- A landing's destination, which what it waits for does not change. -/
def Landing.spot (l : Landing) : DestKind × Nat × Nat × Nat := (l.kind, l.dest, l.width, l.slot)

theorem UnderWay.lastAwaits (h : UnderWay u o width) {f : Landing → Landing} (hf : ∀ l, (f l).spot = l.spot) :
    UnderWay (u.lastAwaits f) o width := by
  obtain ⟨l, hl, hspot⟩ := h
  obtain ⟨i, hi, rfl⟩ := List.getElem_of_mem hl
  unfold UnderWay
  rw [State.lastAwaits, State.me_modMe]
  refine ⟨_, List.getElem_mem (by simpa using hi), ?_⟩
  have hsame : ((u.me.inflight.mapIdx fun i l => if i + 1 == u.me.inflight.length then f l else l)[i]'(by simpa using hi)).spot =
      u.me.inflight[i].spot := by
    rw [List.getElem_mapIdx]
    split
    · exact hf _
    · rfl
  simp only [Landing.spot, Prod.mk.injEq] at hsame
  obtain ⟨hkind, hdest, hwidth, hslot⟩ := hsame
  rwa [hkind, hdest, hwidth, hslot]

/-- An op of a slot that does not issue in halves has its one result on the way. -/
theorem State.land_underWay (hslot : o.slot = 1) (u : State) (lat : Nat) (vals : List (Nat × List Word)) (late : List (Nat × Trap)) :
    UnderWay (u.land o .reg o.dest.toNat width lat vals 0 [] late) o width := by
  have hhalved : u.halved o = false := by simp [State.halved, hslot]
  unfold UnderWay State.land
  simp only [hhalved, Bool.false_eq_true, if_false, State.me_modMe]
  exact ⟨_, List.mem_append_right _ (List.mem_singleton.2 rfl), rfl, rfl, rfl, rfl⟩

theorem State.inflight_modCtx (k x : Nat) {f : Ctx → Ctx} (hf : ∀ c, (f c).inflight = c.inflight) (s : State) :
    (s.modCtx k x f).me.inflight = s.me.inflight := by
  show ((s.modCtx k x f).ctx s.cur.1 s.cur.2).inflight = (s.ctx s.cur.1 s.cur.2).inflight
  by_cases h : (s.cur.1, s.cur.2) = (k, x)
  · obtain ⟨hk, hx⟩ := Prod.mk.inj h
    rw [hk, hx, State.ctx_modCtx, hf]
  · rw [State.ctx_modCtx_ne _ _ h]

theorem besideMemory_inflight : BesideMemory fun s => s.me.inflight :=
  ⟨fun _ _ => rfl, fun s j b f => congrArg Ctx.inflight (State.modBank_ctx s _ _ j b f), fun _ _ _ => rfl, fun _ => rfl⟩

theorem State.inflight_hostReads (k x th ty : Nat) (reqs : List HostPiece) (s : State) :
    (s.hostReads k x th ty reqs).2.me.inflight = s.me.inflight :=
  List.foldlRecOn (motive := fun a : List Nat × State => a.2.me.inflight = s.me.inflight) reqs _ rfl fun _ h _ _ => h

theorem State.inflight_awaitBanks (bs : List (Nat × Nat)) (s : State) : (s.awaitBanks bs).2.me.inflight = s.me.inflight :=
  List.foldlRecOn (motive := fun a : List Nat × State => a.2.me.inflight = s.me.inflight) _ _ rfl fun _ h b _ =>
    (besideMemory_inflight.bank _ b.1 b.2 _).trans h

theorem State.inflight_setSpec (k x : Nat) (sp : Option Spec) (s : State) :
    (s.modCtx k x fun c => { c with spec := sp }).me.inflight = s.me.inflight :=
  State.inflight_modCtx k x (f := fun c => { c with spec := sp }) (fun _ => rfl) s

theorem State.inflight_speculate (k x : Nat) (lines : List (Nat × Option (Nat × Word))) (s : State) :
    (s.speculate k x lines).me.inflight = s.me.inflight := by
  unfold State.speculate
  split
  · rfl
  · refine List.foldlRecOn (motive := fun a : State => a.me.inflight = s.me.inflight) _ _ ?_ fun _ h _ _ => h
    exact State.inflight_setSpec k x _ s

theorem State.inflight_modThread (k x th : Nat) (f : Thread → Thread) (s : State) : (s.modThread k x th f).me.inflight = s.me.inflight :=
  State.inflight_modCtx k x (f := fun c => c.modThread th f) (fun _ => rfl) s

/-- Threads note what they have read. -/
theorem State.inflight_noteReads {α : Type} (k x : Nat) (who : α → Nat) (seen : α → List (Nat × Nat × Nat)) (gots : List α) (s : State) :
    (gots.foldl (fun s g => s.modThread k x (who g) fun th => th.noteReads (seen g)) s).me.inflight = s.me.inflight :=
  List.foldlRecOn (motive := fun a : State => a.me.inflight = s.me.inflight) _ _ rfl fun a h _ _ =>
    (State.inflight_modThread k x _ _ a).trans h

theorem State.inflight_allHostReads (k x ty : Nat) (gots : List (Nat × Got)) (s : State) :
    (gots.foldl (fun (acc : List Nat × State) g => let (i, s') := acc.2.hostReads k x g.1 ty g.2.host; (acc.1 ++ i, s'))
      (([] : List Nat), s)).2.me.inflight = s.me.inflight :=
  List.foldlRecOn (motive := fun a : List Nat × State => a.2.me.inflight = s.me.inflight) _ _ rfl fun _ h _ _ =>
    (State.inflight_hostReads ..).trans h

/-! ### Loads (R338, R344-R346) -/

/-- What a group of loads does with the bytes that its lanes got: the result is on its way, and waits for the host and for banks. -/
def State.deliver (s : State) (o : Op) (ty k x : Nat) (gots : List (Nat × Got)) : State :=
  let n := o.regsOf ty
  let d := o.dest.toNat
  let all := gots.foldl (fun (a : Got) g => a.add g.2) {}
  let (lat, s2) := s.gotLatency all
  let size := tyBytes (elemTy ty)
  let elems (g : Got) : List Nat := (List.range (o.count ty)).map fun i =>
    bytesToNat ((g.bytes.drop (i * size)).take size)
  let late := gots.filterMap fun g => g.2.poison.map fun pa => (g.1, (⟨.memUncorrectable, 0, pa⟩ : Trap))
  let s3 := s2.land o .reg d n (Nat.max 5 lat) (gots.map fun g => (g.1, o.resultWords ty (elems g.2))) 0 [] late
  let s4 := gots.foldl (fun s g => s.modThread k x g.1 fun th => th.noteReads g.2.writers) s3
  let (ids, s5) := gots.foldl (fun (acc : List Nat × State) g =>
    let (i, s') := acc.2.hostReads k x g.1 ty g.2.host; (acc.1 ++ i, s')) (([] : List Nat), s4)
  let (waits, s6) := s5.awaitBanks all.banks
  (s6.lastAwaits fun l => { l with host := ids, awaits := waits, fills := all.fills }).speculate k x all.expired

theorem State.deliver_underWay (hslot : o.slot = 1) (ty k x : Nat) (gots : List (Nat × Got)) (s : State) :
    UnderWay (s.deliver o ty k x gots) o (o.regsOf ty) := by
  unfold State.deliver
  refine UnderWay.of_inflight ?_ (State.inflight_speculate ..)
  refine UnderWay.lastAwaits ?_ fun _ => rfl
  refine UnderWay.of_inflight ?_ (State.inflight_awaitBanks ..)
  refine UnderWay.of_inflight ?_ (State.inflight_allHostReads ..)
  exact UnderWay.of_inflight (State.land_underWay hslot _ _ _ _) (State.inflight_noteReads ..)

/-- The bytes that the lanes of a load get, one lane after another. -/
def State.loadLanes (s : State) (o : Op) (k x : Nat) (range : Option (Nat × Word)) (accs : List Acc) : List (Nat × Got) × State :=
  (s.active o).foldl (fun (acc : List (Nat × Got) × State) e =>
    let (g, s') := (accs.filter (·.t == e.2)).foldl (fun (a : Got × State) ac =>
      let (q, s'') := a.2.loadAcc k x ac range; (a.1.add q, s'')) (({} : Got), acc.2)
    (acc.1 ++ [(e.2, g)], s')) (([] : List (Nat × Got)), s)

/-- A load whose checks pass gets its bytes and delivers them. -/
theorem loadOp_of_sound {srcs : List (Nat × Nat)} {ty align : Nat} {range : Option (Nat × Word)} {accs : List Acc}
    (hsound : Sound s o srcs o.dest.toNat (o.regsOf ty)) (haccs : Accepts s .load align accs) :
    loadOp o true srcs [] ty align range accs s =
      (s.loadLanes o s.cur.1 s.cur.2 range accs).2.deliver o ty s.cur.1 s.cur.2 (s.loadLanes o s.cur.1 s.cur.2 range accs).1 := by
  obtain ⟨htraps, hfaults, -, hholds⟩ := haccs
  unfold loadOp
  simp only [hsound.target, Bool.and_self, hsound.srcTraps, hsound.copyTraps, List.append_nil, List.isEmpty_nil, if_true, State.myCore_eq,
    State.myCtxNo_eq, htraps, hfaults, hholds, Bool.not_true, Bool.false_eq_true, if_false, Bool.and_false, runOp_nil]
  rfl

/-- Settles O8: a load whose checks pass has its result on the way, whatever its lanes got. -/
theorem loadsComplete : Obligations.LoadsComplete := by
  unfold Obligations.LoadsComplete
  intro s o hslot
  have hload {ok : Bool} {srcs : List (Nat × Nat)} {extra : List (Nat × Trap)} {ty align : Nat} {range : Option (Nat × Word)} {accs : List Acc}
      (hok : ok = true) (hextra : extra = []) (hsound : Sound s o srcs o.dest.toNat (o.regsOf ty)) (haccs : Accepts s .load align accs) :
      UnderWay (loadOp o ok srcs extra ty align range accs s) o (o.regsOf ty) := by
    rw [hok, hextra, loadOp_of_sound hsound haccs]
    exact State.deliver_underWay hslot ..
  refine ⟨fun hlegal hext hsound haccs => ⟨_, rfl, hload (by rw [hlegal, hext]; rfl) rfl hsound haccs⟩,
    fun hlegal hext hsound hdesc haccs => ⟨_, rfl, hload (by rw [hlegal, hext]; rfl) ?_ hsound haccs⟩,
    fun hlegal hext hsound haccs => ⟨_, rfl, hload (by rw [hlegal, hext]; rfl) rfl hsound haccs⟩,
    fun hlegal hj hsound haccs => ?_⟩
  · cases htop : s.top o with
    | none => rfl
    | some e => simp only [hdesc e htop, State.illegalUnless_true]
  · have hsound' : Sound s { o with mod := 0x40 } [] o.dest.toNat (({ o with mod := 0x40 } : Op).regsOf 8) :=
      ⟨hsound.runs, hsound.clean, hsound.target, hsound.room⟩
    have hok : (o.legalJ && o.j.extractLsb' 0 16 == 0#16) = true := by rw [hlegal, hj]; rfl
    refine ⟨loadOp { o with mod := 0x40 } true [] [] 8 8 none (frameAccs o s) s, ?_, ?_⟩
    · rw [← hok]
      rfl
    · rw [loadOp_of_sound hsound' haccs]
      exact State.deliver_underWay (o := { o with mod := 0x40 }) hslot ..

end
end Sys2Proof.Machine
end

section
-- One proof after another, as in the sections before this one.
set_option Elab.async false

namespace Sys2Proof.Machine

section
open Sys2Proof.Claims

/-! ### Stores (R379-R381) -/

theorem frameStores_accs (s : State) (o : Op) (sel : Nat) :
    ((s.active o).map fun e => (((⟨e.1, e.2, false, 1, 8 * ((s.me.thread e.2).frameBase + frameWord o), 8⟩ : Acc)),
      natToBytes 8 (s.word o e.1 e.2 sel).toNat)).map (·.1) = frameAccs o s := by
  rw [List.map_map]
  rfl

/-- Settles O10: a store whose checks pass writes lane by lane behind its template copies. -/
theorem storesComplete : Obligations.StoresComplete := by
  unfold Obligations.StoresComplete
  intro s o _
  have hstore {ok : Bool} {srcs : List (Nat × Nat)} {align : Nat} {ws : List (Acc × List Byte)} (hok : ok = true)
      (hread : Readable s o srcs) (haccs : Accepts s .store align (ws.map (·.1))) : storeOp o ok srcs align ws s = stored s ws := by
    rw [hok]
    exact storeOp_eq_stored hread haccs
  refine ⟨fun hlegal hext hread haccs => ⟨_, rfl, hstore (by rw [hlegal, hext]; rfl) hread haccs⟩,
    fun hlegal hext hread haccs => ⟨_, rfl, hstore (by rw [hlegal, hext]; rfl) hread haccs⟩,
    fun sel hsel hlegal hdest hmode hreg hskip hread haccs => ⟨_, rfl, ?_⟩⟩
  rw [State.asServing_of_noSkip hskip]
  subst hsel
  exact hstore (by rw [hlegal, hdest, hmode, bne_iff_ne.2 hreg]; rfl) hread (frameStores_accs s o _ ▸ haccs)

end
end Sys2Proof.Machine
end

section
-- One proof after another, as in the sections before this one.
set_option Elab.async false

namespace Sys2Proof.Machine

section
open Sys2Proof.Claims

/-! ### Atomics (R208, R312, R313) -/

variable {s u : State} {o : Op} {width : Nat}

theorem UnderWay.ite {t u : State} (b : Bool) (ht : UnderWay t o width) (hu : UnderWay u o width) :
    UnderWay (if b then t else u) o width := by
  cases b
  · exact hu
  · exact ht

theorem State.inflight_flushIdle (s : State) : s.flushIdle.me.inflight = s.me.inflight := besideMemory_inflight.flushWhere s _

theorem State.inflight_releaseDone (k x scope : Nat) (s : State) : (s.releaseDone k x scope).me.inflight = s.me.inflight := by
  unfold State.releaseDone
  dsimp only
  refine (State.inflight_modCtx k x
    (f := fun c => { c with frontier := [], mem := { c.mem with rmWrites := c.mem.rmWrites && s.relScope k x scope < 7 } })
    (fun _ => rfl) _).trans ?_
  split
  · exact s.inflight_flushIdle
  · rfl

/-- What an ATOM does once its lanes are served (R208, R312): the result is on its way, and the fences of its order take effect. -/
def State.atomTail (s : State) (o : Op) (k x ty scope : Nat) (acq rel : Bool) (gots : List (Nat × AtomGot)) : State :=
  let vals := gots.map fun g => (g.1, [regImage ty g.2.old])
  let late := gots.filterMap fun g => g.2.poison.map fun pa => (g.1, (⟨.memUncorrectable, 0, pa⟩ : Trap))
  let s2 := (s.land o .reg o.dest.toNat 1 (maxNat (20 :: gots.map (·.2.lat))) vals 0 [] late).lastAwaits fun l =>
    { l with awaits := gots.flatMap (·.2.awaits), fills := gots.flatMap (·.2.fills) }
  let s2 := gots.foldl (fun s g => s.modThread k x g.1 fun th => th.noteReads g.2.writers) s2
  let s3 := if rel && !vals.isEmpty then s2.releaseDone k x scope else s2
  if acq && !vals.isEmpty then s3.modMe fun c => { c with fence := some ⟨scope, 0, []⟩ } else s3

theorem State.atomTail_underWay (hslot : o.slot = 1) (k x ty scope : Nat) (acq rel : Bool) (gots : List (Nat × AtomGot)) (s : State) :
    UnderWay (s.atomTail o k x ty scope acq rel gots) o 1 := by
  unfold State.atomTail
  dsimp only
  have hfence {u : State} (h : UnderWay u o 1) : UnderWay (u.modMe fun c => { c with fence := some ⟨scope, 0, []⟩ }) o 1 :=
    UnderWay.of_inflight h (by rw [State.me_modMe])
  have hread : UnderWay (gots.foldl (fun s g => s.modThread k x g.1 fun th => th.noteReads g.2.writers) _) o 1 :=
    UnderWay.of_inflight (UnderWay.lastAwaits (State.land_underWay hslot s (maxNat (20 :: gots.map (·.2.lat)))
      (gots.map fun g => (g.1, [regImage ty g.2.old]))
      (gots.filterMap fun g => g.2.poison.map fun pa => (g.1, (⟨.memUncorrectable, 0, pa⟩ : Trap))))
      (f := fun l => { l with awaits := gots.flatMap (·.2.awaits), fills := gots.flatMap (·.2.fills) }) fun _ => rfl)
      (State.inflight_noteReads ..)
  have hdone := UnderWay.ite (rel && !(gots.map fun g => (g.1, [regImage ty g.2.old])).isEmpty)
    (UnderWay.of_inflight hread (State.inflight_releaseDone k x scope _)) hread
  exact UnderWay.ite _ (hfence hdone) hdone

/-- The lanes of an ATOM of state s are served one after another, from another state on. -/
def State.atomLanes (s from_ : State) (o : Op) (k x : Nat) : List (Nat × AtomGot) × State :=
  (from_.active o).foldl (fun (acc : List (Nat × AtomGot) × State) e =>
    match (atomAccs o s).find? fun a => a.t == e.2 with
    | some a =>
      let v := from_.scalar o e.1 e.2 o.b.toNat (atomTy o)
      let nw := if atomFn o == 7 then from_.scalar o e.1 e.2 o.selC (atomTy o) else 0
      let (g, s') := acc.2.atomLane k x a (fun old => atomNew (atomFn o) (atomTy o) old v nw) (fun old => !(atomFn o == 7) || old == v)
      (acc.1 ++ [(e.2, g)], s')
    | none => acc) (([] : List (Nat × AtomGot)), from_.copyFirst k x (atomAccs o s))

/-- What an ATOM whose checks pass starts from: a release of its order has been started (R208). -/
def State.atomStart (s : State) (o : Op) (rel : Bool) : State :=
  if rel && !(s.active o).isEmpty then s.releaseStart s.cur.1 s.cur.2 (((s.top o).map (·.2)).getD 0) (atomScope o) else s

/-- An ATOM whose checks pass serves its lanes and puts its result on the way. -/
theorem atomOp_of_sound {opc : Nat} {acq rel : Bool} (hlegal : AtomLegal opc o) (hsound : Sound s o (atomSrcs o) o.dest.toNat 1)
    (haccs : Accepts s .atomic (tyBytes (atomTy o)) (atomAccs o s)) (hrel : rel = true → s.active o ≠ [] → Released s o (atomScope o)) :
    let r := s.atomLanes (s.atomStart o rel) o s.cur.1 s.cur.2
    atomOp opc acq rel o s = r.2.atomTail o s.cur.1 s.cur.2 (atomTy o) (atomScope o) acq rel r.1 := by
  obtain ⟨htraps, hfaults, hcopies, hholds⟩ := haccs
  unfold atomOp
  extract_lets r k x ty scope fn cas extOk ok n d accs first traps faults started
  have hok : ok = true := by
    obtain ⟨⟨w, hext, hhigh⟩, ha, hb, hc, hty, hmod⟩ := hlegal
    have hextOk : extOk = true := by
      have hnew : cas = true → o.c ≠ 0x1F3#10 := fun h => hc (beq_iff_eq.1 h)
      simpa [extOk, hext, hhigh, ha, hb, or_iff_not_imp_left] using hnew
    have hty' : (Lpf.row opc).any (·.tyOk ty) = true := hty
    have hmod' : Lpf.modOk opc ty o.mod.toNat = true := hmod
    simp only [ok, hextOk, hty', hmod', hsound.target, Bool.and_self]
  have hsrcs : ([(o.selA, 1), (o.b.toNat, 1)] ++ if cas then [(o.selC, 1)] else []) = atomSrcs o := by
    simp only [cas, beq_iff_eq]
    rfl
  have hfirst : first = [] := by
    simp only [first, hok, hsrcs, hsound.srcTraps, List.nil_append]
    exact hsound.copyTraps
  have htraps' : traps = [] := by
    simp only [traps, hfirst, List.isEmpty_nil, if_true]
    exact htraps
  have hfaults' : faults = [] := by
    simp only [faults, htraps', List.isEmpty_nil, if_true, List.append_eq_nil_iff]
    exact ⟨hfaults, hcopies (by decide)⟩
  have hstarted : started = s.atomStart o rel := by
    simp only [started, htraps', List.isEmpty_nil, Bool.and_true]
    rfl
  have hready : (rel && traps.isEmpty && !(s.active o).isEmpty && !started.releaseReady k x scope) = false := by
    rw [hstarted, htraps', List.isEmpty_nil, Bool.and_true]
    cases hstart : rel && !(s.active o).isEmpty with
    | false => rfl
    | true =>
      have hs : s.atomStart o rel = s.releaseStart s.cur.1 s.cur.2 (((s.top o).map (·.2)).getD 0) (atomScope o) := by
        rw [State.atomStart, hstart, if_pos rfl]
      simp only [Bool.and_eq_true, Bool.not_eq_true', List.isEmpty_eq_false_iff] at hstart
      rw [hs, show State.releaseReady _ k x scope = true from hrel hstart.1 hstart.2]
      rfl
  have hholds' : (traps.isEmpty && s.streamHolds k x accs) = false := by rw [htraps', show s.streamHolds k x accs = false from hholds]; rfl
  have hnofaults : ¬ (!faults.isEmpty) = true := by simp [hfaults']
  rw [if_neg hnofaults, if_neg (Bool.eq_false_iff.1 hholds'), if_neg (Bool.eq_false_iff.1 hready), htraps', runOp_nil, hstarted]
  rfl

/-- Settles O12: an ATOM whose checks pass has its result on the way, whatever its lanes found and its release left. -/
theorem atomicsComplete : Obligations.AtomicsComplete := by
  unfold Obligations.AtomicsComplete
  intro s o r hr hslot hlegal hsound haccs hrel
  have hdone (opc : Nat) (acq : Bool) {rel : Bool} (hlegal : AtomLegal opc o) (hrel : rel = true → s.active o ≠ [] → Released s o (atomScope o)) :
      UnderWay (atomOp opc acq rel o s) o 1 := by
    rw [atomOp_of_sound hlegal hsound haccs hrel]
    exact State.atomTail_underWay hslot ..
  simp only [atoms, List.mem_cons, List.not_mem_nil, or_false] at hr
  obtain rfl | rfl | rfl | rfl := hr
  · exact ⟨_, rfl, hdone 0x0C4 false hlegal hrel⟩
  · exact ⟨_, rfl, hdone 0x0C5 true hlegal hrel⟩
  · exact ⟨_, rfl, hdone 0x0C6 false hlegal hrel⟩
  · exact ⟨_, rfl, hdone 0x0C7 true hlegal hrel⟩

end
end Sys2Proof.Machine
end

section
-- One proof after another, as in the sections before this one.
set_option Elab.async false

namespace Sys2Proof.Machine

section
open Sys2Proof.Claims

/-! ### Loads from the plain scratch of S (R131, R344) -/

variable {s t u : State} {o : Op} {k x : Nat}

theorem Core.stashBytes_add (c : Core) (a m n : Nat) : c.stashBytes a (m + n) = c.stashBytes a m ++ c.stashBytes (a + m) n := by
  simp only [Core.stashBytes, List.range_add, List.map_append, List.map_map]
  congr 1
  refine List.map_congr_left fun i _ => ?_
  simp only [Function.comp_apply, Nat.add_assoc]

/-- What the pieces of an access of n bytes read, one after another, is what the access reads. -/
theorem flatMap_pieces_stashBytes (c : Core) (base f p n : Nat) (hf : n ≤ 8 * f - p % 8) :
    (pieces f p n).flatMap (fun pc => c.stashBytes (base + pc.1) pc.2) = c.stashBytes (base + p) n := by
  induction f generalizing p n with
  | zero =>
    obtain rfl : n = 0 := by omega
    rfl
  | succ f ih =>
    cases n with
    | zero => rfl
    | succ n =>
      simp only [pieces, List.flatMap_cons]
      generalize hlen : Nat.min (n + 1) (8 - p % 8) = len
      have hmin : len = min (n + 1) (8 - p % 8) := hlen.symm
      rw [ih (p + len) (n + 1 - len) (by omega), ← Nat.add_assoc, ← Core.stashBytes_add]
      congr 1
      omega

theorem Acc.pieces_ne_nil {a : Acc} (h : 0 < a.n) : a.pieces ≠ [] := by
  unfold Acc.pieces
  obtain ⟨n, hn⟩ := Nat.exists_eq_add_one.2 h
  rw [hn]
  exact List.cons_ne_nil _ _

/-- What loads get that the stash serves: bytes, and one latency a piece. -/
def stashGot (bs : List Byte) (n : Nat) : Got := { bytes := bs, served := List.replicate n .stash }

theorem stashGot_add (bs cs : List Byte) (m n : Nat) : (stashGot bs m).add (stashGot cs n) = stashGot (bs ++ cs) (m + n) := by
  simp [stashGot, Got.add, List.replicate_append_replicate]

/-- A fold has what its start has and each of its steps keeps, where that speaks of the elements done. -/
theorem foldl_prefix {α β : Type} {f : β → α → β} (P : List α → β → Prop) {l : List α}
    (hstep : ∀ pre, ∀ a ∈ l, ∀ b, P pre b → P (pre ++ [a]) (f b a)) {b : β} (h : P [] b) : P l (l.foldl f b) := by
  induction l using List.reverseRecOn with
  | nil => exact h
  | append_singleton l a ih =>
    rw [List.foldl_append]
    exact hstep l a (by simp) _ (ih fun pre c hc => hstep pre c (by simp [hc]))

theorem foldl_add_stashGot {α : Type} (bs : α → List Byte) (n : α → Nat) (es : List α) :
    es.foldl (fun a e => a.add (stashGot (bs e) (n e))) {} = stashGot (es.flatMap bs) (es.map n).sum := by
  refine foldl_prefix (fun pre a => a = stashGot (pre.flatMap bs) (pre.map n).sum) (fun pre e _ a ha => ?_) rfl
  rw [ha, stashGot_add]
  simp

/-- A load of one access to the plain scratch reads the bytes at its address, and changes nothing. -/
theorem State.loadAcc_of_scratch {a : Acc} (ha : Scratch s a) :
    s.loadAcc s.cur.1 s.cur.2 a none = (stashGot (s.home.stashBytes (stashAt s a) a.n) a.pieces.length, s) := by
  rw [stashAt, ← flatMap_pieces_stashBytes _ _ (a.n / 8 + 2) _ _ (by omega)]
  unfold State.loadAcc
  refine foldl_prefix (fun pre r => r = (stashGot (pre.flatMap fun pc : Nat × Nat => s.home.stashBytes (s.me.base 2 + pc.1) pc.2) pre.length, s))
    (fun pre p hp r hr => ?_) rfl
  rw [hr]
  dsimp only
  rw [show s.ctx s.cur.1 s.cur.2 = s.me from rfl, State.spotOf_scratch ha hp]
  refine Prod.ext ((stashGot_add _ _ _ 1).trans ?_) rfl
  simp only [List.flatMap_append, List.flatMap_singleton, List.length_append, List.length_singleton]
  rfl

/-- What each lane of a load from the plain scratch gets. -/
def laneGot (s : State) (o : Op) (e : Nat × Nat) : Got :=
  let a := Acc.ofPtr e.1 e.2 (s.word o e.1 e.2 o.selA) (o.bytesOf o.ty)
  stashGot (s.home.stashBytes (stashAt s a) a.n) a.pieces.length

theorem filter_eq_singleton_of_pairwise {α : Type} {l : List α} {f : α → Nat} (h : l.Pairwise fun a b => f a ≠ f b) {a : α} (ha : a ∈ l) :
    l.filter (fun b => f b == f a) = [a] := by
  induction h with
  | nil => cases ha
  | cons hb _ ih =>
    obtain rfl | ha := List.mem_cons.1 ha
    · rw [List.filter_cons_of_pos (by simp), List.filter_eq_nil_iff.2 fun b h => by simpa using (hb b h).symm]
    · rw [List.filter_cons_of_neg (by simpa using hb a ha), ih ha]

/-- The lanes of a load from the plain scratch, of different threads, get the bytes at their addresses, and nothing changes. -/
theorem State.loadLanes_of_scratch (hpair : (s.active o).Pairwise fun a b => a.2 ≠ b.2) (hscratch : ∀ a ∈ loadAccs o s, Scratch s a) :
    s.loadLanes o s.cur.1 s.cur.2 none (loadAccs o s) = ((s.active o).map fun e => (e.2, laneGot s o e), s) := by
  unfold State.loadLanes
  refine foldl_prefix (fun pre r => r = (pre.map fun e => (e.2, laneGot s o e), s)) (fun pre e he r hr => ?_) rfl
  have hone : (loadAccs o s).filter (·.t == e.2) = [Acc.ofPtr e.1 e.2 (s.word o e.1 e.2 o.selA) (o.bytesOf o.ty)] := by
    rw [loadAccs, List.filter_map]
    exact congrArg (List.map _) (filter_eq_singleton_of_pairwise (f := fun e : Nat × Nat => e.2) hpair he)
  rw [hr]
  simp only [hone, List.foldl_cons, List.foldl_nil, State.loadAcc_of_scratch (hscratch _ (List.mem_map.2 ⟨e, he, rfl⟩)), List.map_append,
    List.map_singleton]
  rw [show ({} : Got) = stashGot [] 0 from rfl, stashGot_add, List.nil_append, Nat.zero_add]
  rfl

theorem State.gotLatency_stashGot (s : State) (bs : List Byte) {n : Nat} (hn : n ≠ 0) : s.gotLatency (stashGot bs n) = (14, s) := by
  have hserved (m : Nat) : (List.replicate (m + 1) Served.stash).foldl
      (fun (acc : Nat × State) v => let (n, s') := acc.2.loadLatency v; (Nat.max acc.1 n, s')) (0, s) = (14, s) := by
    induction m with
    | zero => rfl
    | succ m ih => rw [List.replicate_succ', List.foldl_append, ih]; rfl
  obtain ⟨m, rfl⟩ := Nat.exists_eq_add_one_of_ne_zero hn
  unfold State.gotLatency
  simp only [stashGot, hserved]
  simp [cycleLen]

/-! #### What stays while a result is put on its way -/

/-- State t has the registers of the executing context's threads, the memory and the stash of state s, and executes the same. -/
structure Calm (s t : State) : Prop where
  cur : t.cur = s.cur
  phys : t.phys = s.phys
  stash : t.home.stash = s.home.stash
  regs : ∀ th, (t.me.thread th).regs = (s.me.thread th).regs ∧ (t.me.thread th).qs = (s.me.thread th).qs

theorem Calm.refl (s : State) : Calm s s := ⟨rfl, rfl, rfl, fun _ => ⟨rfl, rfl⟩⟩

theorem Calm.trans (h : Calm s t) (h' : Calm t u) : Calm s u :=
  ⟨h'.cur.trans h.cur, h'.phys.trans h.phys, h'.stash.trans h.stash,
    fun th => ⟨(h'.regs th).1.trans (h.regs th).1, (h'.regs th).2.trans (h.regs th).2⟩⟩

theorem Calm.of_modCtx (k x : Nat) {f : Ctx → Ctx}
    (hf : ∀ c th, ((f c).thread th).regs = (c.thread th).regs ∧ ((f c).thread th).qs = (c.thread th).qs) (s : State) :
    Calm s (s.modCtx k x f) := by
  have hstash : ((s.modCtx k x f).core s.cur.1).stash = (s.core s.cur.1).stash := by
    by_cases hk : s.cur.1 = k
    · rw [hk]
      exact State.core_modCtx_keeps (g := Core.stash) (fun _ _ => rfl) s k x f
    · rw [State.core, State.core, State.modCtx_cores, tgetD_tmod_ne _ _ _ hk]
  refine ⟨rfl, rfl, hstash, fun th => ?_⟩
  show (((s.modCtx k x f).ctx s.cur.1 s.cur.2).thread th).regs = ((s.ctx s.cur.1 s.cur.2).thread th).regs ∧ _
  by_cases h : (s.cur.1, s.cur.2) = (k, x)
  · obtain ⟨hk, hx⟩ := Prod.mk.inj h
    subst hk hx
    show (((s.modCtx s.cur.1 s.cur.2 f).ctx s.cur.1 s.cur.2).thread th).regs = _ ∧
      (((s.modCtx s.cur.1 s.cur.2 f).ctx s.cur.1 s.cur.2).thread th).qs = _
    rw [State.ctx_modCtx]
    exact hf ..
  · show _ ∧ (((s.modCtx k x f).ctx s.cur.1 s.cur.2).thread th).qs = ((s.ctx s.cur.1 s.cur.2).thread th).qs
    rw [State.ctx_modCtx_ne _ _ h]
    exact ⟨rfl, rfl⟩

theorem Calm.inflight (f : Ctx → List Landing) (s : State) : Calm s (s.modMe fun c => { c with inflight := f c }) :=
  Calm.of_modCtx _ _ (f := fun c => { c with inflight := f c }) (fun _ _ => ⟨rfl, rfl⟩) s

theorem Calm.of_modThreads (k x : Nat) {f : Thread → Thread} (hf : ∀ th, (f th).regs = th.regs ∧ (f th).qs = th.qs) (ts : List Nat)
    (s : State) : Calm s (s.modCtx k x fun c => ts.foldl (fun c t => c.modThread t f) c) :=
  Calm.of_modCtx k x (f := fun c => ts.foldl (fun c t => c.modThread t f) c) (fun c _ =>
    ⟨Ctx.foldl_modThread_keeps (g := Thread.regs) (fun th => (hf th).1) ts c,
      Ctx.foldl_modThread_keeps (g := Thread.qs) (fun th => (hf th).2) ts c⟩) s

theorem Calm.claimLast (kind : DestKind) (dest width : Nat) (ts : List Nat) (s : State) : Calm s (s.claimLast kind dest width ts) := by
  unfold State.claimLast
  split
  · exact Calm.of_modThreads _ _ (f := fun th => th.allocate (dest - 0x140) width) (fun _ => ⟨rfl, rfl⟩) ts s
  · exact Calm.refl s

theorem Calm.land (kind : DestKind) (dest width lat flags : Nat) (vals : List (Nat × List Word)) (exc : List (Nat × Nat))
    (late : List (Nat × Trap)) (s : State) : Calm s (s.land o kind dest width lat vals flags exc late) := by
  have hclaim := Calm.claimLast kind dest width (vals.map (·.1)) s
  unfold State.land
  dsimp only
  split
  · exact hclaim.trans (Calm.inflight _ _)
  · exact hclaim.trans (Calm.inflight _ _)

theorem Calm.noteReads {α : Type} (k x : Nat) (who : α → Nat) (seen : α → List (Nat × Nat × Nat)) (gots : List α) (s : State) :
    Calm s (gots.foldl (fun s g => s.modThread k x (who g) fun th => th.noteReads (seen g)) s) :=
  List.foldlRecOn (motive := Calm s) _ _ (Calm.refl s) fun u h g _ =>
    h.trans (Calm.of_modThreads k x (f := fun th => th.noteReads (seen g)) (fun _ => ⟨rfl, rfl⟩) [who g] u)

theorem Calm.lastAwaits (f : Landing → Landing) (s : State) : Calm s (s.lastAwaits f) :=
  Calm.inflight (fun c => c.inflight.mapIdx fun i l => if i + 1 == c.inflight.length then f l else l) s

theorem Calm.stashByte_eq (h : Calm s t) (a : Nat) : stashByte t a = stashByte s a := by rw [stashByte, h.stash]; rfl

/-! #### The entry of a result -/

/-- A result on its way that stands last keeps what the new terms of its wait do not touch. -/
theorem State.exists_inflight_lastAwaits {P : Landing → Prop} {f : Landing → Landing} (hf : ∀ l, P l → P (f l)) (h : ∃ l ∈ u.me.inflight, P l) :
    ∃ l ∈ (u.lastAwaits f).me.inflight, P l := by
  obtain ⟨l, hl, hP⟩ := h
  obtain ⟨i, hi, rfl⟩ := List.getElem_of_mem hl
  rw [State.lastAwaits, State.me_modMe]
  refine ⟨_, List.getElem_mem (n := i) (by simpa using hi), ?_⟩
  rw [List.getElem_mapIdx]
  split
  · exact hf _ hP
  · exact hP

/-- The entry of a result whose op does not issue in halves: the lanes' values, due after the latency, and the window of its lookahead. -/
structure Landing.Holds (l : Landing) (o : Op) (due lat n : Nat) (vals : List (Nat × List Word)) : Prop where
  kind : l.kind = .reg
  dest : l.dest = o.dest.toNat
  width : l.width = n
  due : l.due = due
  window : l.window = if interlocked lat n then some o.la.toNat else none
  vals : l.vals = vals

theorem State.land_holds (hslot : o.slot = 1) {width : Nat} (s : State) (lat : Nat) {vals : List (Nat × List Word)}
    (hvals : ∀ v ∈ vals, v.1 ∈ s.group.lanes.map (·.2)) (late : List (Nat × Trap)) :
    ∃ l ∈ (s.land o .reg o.dest.toNat width lat vals 0 [] late).me.inflight, l.Holds o (s.after lat) lat width vals := by
  have hhalved : s.halved o = false := by simp [State.halved, hslot]
  have hkept : vals.filter (fun v => ((s.group.lanes.filter fun _ => true).map (·.2)).contains v.1) = vals :=
    List.filter_eq_self.2 fun v hv => List.contains_iff_mem.2 (by rw [List.filter_true]; exact hvals v hv)
  unfold State.land
  simp only [hhalved, Bool.false_eq_true, if_false, State.me_modMe]
  exact ⟨_, List.mem_append_right _ (List.mem_singleton.2 rfl), rfl, rfl, rfl, rfl, rfl, hkept⟩

/-- The registers that a load of type ty makes of the bytes that a lane got. -/
def gotWords (o : Op) (ty : Nat) (g : Got) : List Word :=
  o.resultWords ty ((List.range (o.count ty)).map fun i => bytesToNat ((g.bytes.drop (i * tyBytes (elemTy ty))).take (tyBytes (elemTy ty))))

/-- Loads that the stash serves wait for nothing but their latency. -/
theorem State.deliver_of_stash {α : Type} {es : List α} {who : α → Nat} {bs : α → List Byte} {n : α → Nat} (ty : Nat)
    (hn : (es.map n).sum ≠ 0) :
    let gots := es.map fun e => (who e, stashGot (bs e) (n e))
    s.deliver o ty k x gots =
      (gots.foldl (fun s g => s.modThread k x g.1 fun th => th.noteReads g.2.writers)
        (s.land o .reg o.dest.toNat (o.regsOf ty) 14 (gots.map fun g => (g.1, gotWords o ty g.2)) 0 [] [])).lastAwaits
          fun l => { l with host := [], awaits := [], fills := [] } := by
  intro gots
  have hall : gots.foldl (fun (a : Got) g => a.add g.2) {} = stashGot (es.flatMap bs) (es.map n).sum :=
    (List.foldl_map ..).trans (foldl_add_stashGot bs n es)
  have hhost (u : State) : gots.foldl (fun (acc : List Nat × State) g =>
      let (i, s') := acc.2.hostReads k x g.1 ty g.2.host; (acc.1 ++ i, s')) (([] : List Nat), u) = ([], u) :=
    foldl_prefix (fun _ r => r = ([], u)) (fun _ g hg r hr => by
      obtain ⟨e, _, rfl⟩ := List.mem_map.1 hg
      rw [hr]
      rfl) rfl
  have hlate : gots.filterMap (fun g => g.2.poison.map fun pa => (g.1, (⟨.memUncorrectable, 0, pa⟩ : Trap))) = [] :=
    List.filterMap_eq_nil_iff.2 fun g hg => by
      obtain ⟨e, _, rfl⟩ := List.mem_map.1 hg
      rfl
  unfold State.deliver
  simp only [hall, hhost, hlate, State.gotLatency_stashGot _ _ hn]
  rfl

/-- Loads that the stash serves put their words on the way, and leave registers and memory alone. -/
theorem State.deliver_of_stash_results {α : Type} {es : List α} {who : α → Nat} {bs : α → List Byte} {n : α → Nat} (ty : Nat)
    (hslot : o.slot = 1) (hn : (es.map n).sum ≠ 0) (hlanes : ∀ e ∈ es, who e ∈ s.group.lanes.map (·.2)) :
    let t := s.deliver o ty k x (es.map fun e => (who e, stashGot (bs e) (n e)))
    Calm s t ∧ ∃ l ∈ t.me.inflight, l.Holds o (s.after 14) 14 (o.regsOf ty)
      ((es.map fun e => (who e, stashGot (bs e) (n e))).map fun g => (g.1, gotWords o ty g.2)) := by
  dsimp only
  rw [State.deliver_of_stash ty hn]
  refine ⟨((Calm.land ..).trans (Calm.noteReads ..)).trans (Calm.lastAwaits ..), ?_⟩
  have hvals : ∀ v ∈ (es.map fun e => (who e, stashGot (bs e) (n e))).map fun g => (g.1, gotWords o ty g.2), v.1 ∈ s.group.lanes.map (·.2) := by
    simp only [List.map_map, List.mem_map]
    rintro _ ⟨e, he, rfl⟩
    exact List.mem_map.1 (hlanes e he)
  have hland := State.land_holds hslot s 14 hvals [] (width := o.regsOf ty)
  rw [← State.inflight_noteReads k x (fun g : Nat × Got => g.1) (fun g => g.2.writers) (es.map fun e => (who e, stashGot (bs e) (n e)))] at hland
  exact State.exists_inflight_lastAwaits (fun l h => ⟨h.kind, h.dest, h.width, h.due, h.window, h.vals⟩) hland

theorem bytes_of_ld {o : Op} (h : o.legalD 0x0C0 = true) (hscalar : isTileTy o.ty = false) : 0 < tyBytes o.ty :=
  of_legalD (P := fun ty _ => isTileTy ty = false → 0 < tyBytes ty) (by decide) h hscalar

/-- A scalar lane that the stash serves gets the image of its bytes. -/
theorem gotWords_laneGot (htile : isTileTy o.ty = false) (e : Nat × Nat) :
    let a := Acc.ofPtr e.1 e.2 (s.word o e.1 e.2 o.selA) (o.bytesOf o.ty)
    gotWords o o.ty (laneGot s o e) = [image o.ty (BitVec.ofNat (tyBits o.ty)
      (bytesToNat ((List.range (tyBytes o.ty)).map fun i => stashByte s (stashAt s a + i))))] := by
  have helem : elemTy o.ty = o.ty := by rw [elemTy, htile]; rfl
  have hcount : o.count o.ty = 1 := by rw [Op.count, htile]; rfl
  have hbytes : o.bytesOf o.ty = tyBytes o.ty := by rw [Op.bytesOf, hcount, helem, Nat.one_mul]
  have hlen : (laneGot s o e).bytes.length = tyBytes o.ty := (List.length_map ..).trans (List.length_range.trans hbytes)
  rw [gotWords, hcount, helem, List.range_one, List.map_singleton, Nat.zero_mul, List.drop_zero, List.take_of_length_le hlen.le,
    Op.resultWords_scalar htile, regImage_eq_image, laneGot, hbytes]
  rfl

/-- Settles O9: the bytes come from the stash as they stand, and all the op changes is what is on its way and who has read. -/
theorem stashLoadResults : Obligations.StashLoadResults := by
  unfold Obligations.StashLoadResults
  intro s o hslot hlegal htile hext hsound haccs hne hpair hscratch
  have hregs : o.regsOf o.ty = 1 := by rw [Op.regsOf, htile]; rfl
  have helem : elemTy o.ty = o.ty := by rw [elemTy, htile]; rfl
  have hpos : 0 < o.bytesOf o.ty := by
    rw [Op.bytesOf, Op.count, htile, helem]
    exact Nat.mul_pos Nat.one_pos (bytes_of_ld hlegal htile)
  have hexec : exec (.ld o) s = .next (s.deliver o o.ty s.cur.1 s.cur.2 ((s.active o).map fun e => (e.2, laneGot s o e))) := by
    have hload := loadOp_of_sound (o := o) (srcs := [(o.selA, 1)]) (ty := o.ty) (align := tyBytes (elemTy o.ty)) (range := none)
      (by rw [hregs]; exact hsound) (by rw [helem]; exact haccs)
    rw [State.loadLanes_of_scratch hpair hscratch] at hload
    rw [← hload, show exec (.ld o) s = .next (loadOp o (o.legalD 0x0C0 && o.extOk true false false) [(o.selA, 1)] [] o.ty
      (tyBytes (elemTy o.ty)) none (loadAccs o s) s) from rfl, hlegal, hext]
    rfl
  have hsum : ((s.active o).map fun e => (Acc.ofPtr e.1 e.2 (s.word o e.1 e.2 o.selA) (o.bytesOf o.ty)).pieces.length).sum ≠ 0 := by
    obtain ⟨e, es, he⟩ := List.exists_cons_of_ne_nil hne
    have hlane := List.length_pos_iff.2 (Acc.pieces_ne_nil (a := Acc.ofPtr e.1 e.2 (s.word o e.1 e.2 o.selA) (o.bytesOf o.ty)) hpos)
    rw [he, List.map_cons, List.sum_cons]
    omega
  obtain ⟨hcalm, l, hl, hholds⟩ := State.deliver_of_stash_results (s := s) (k := s.cur.1) (x := s.cur.2) (who := (·.2))
    (bs := fun e => (laneGot s o e).bytes) o.ty hslot hsum fun e he => List.mem_map.2 ⟨e, List.mem_of_mem_filter he, rfl⟩
  refine ⟨_, hexec, ⟨l, hl, hholds.kind, hholds.dest, hholds.width.trans hregs, hholds.due, hholds.window, fun e he => ?_⟩, hcalm.regs,
    hcalm.phys, hcalm.stashByte_eq⟩
  rw [hholds.vals]
  exact List.mem_map.2 ⟨_, List.mem_map.2 ⟨e, he, rfl⟩, Prod.ext rfl (gotWords_laneGot htile e)⟩

end
end Sys2Proof.Machine
end

section
-- One proof after another, as in the sections before this one.
set_option Elab.async false

namespace Sys2Proof.Machine

section
open Sys2Proof.Claims

/-! ### Atomics in the plain scratch of S (R131, R312) -/

variable {s t u : State} {o : Op} {k x : Nat}

theorem bytes_of_atom {o : Op} (h : AtomLegal 0x0C4 o) : 0 < tyBytes (atomTy o) := by
  obtain ⟨-, -, -, -, hty, -⟩ := h
  have hall : ∀ ty < 32, (Lpf.row 0x0C4).any (·.tyOk ty) = true → 0 < tyBytes ty := by decide
  exact hall _ (by unfold atomTy; omega) hty

theorem Acc.head_mem_pieces {a : Acc} (h : 0 < a.n) : ∃ n, (a.off, n) ∈ a.pieces := by
  obtain ⟨n, hn⟩ := Nat.exists_eq_add_one.2 h
  unfold Acc.pieces
  rw [hn]
  exact ⟨_, List.mem_cons_self⟩

/-- A lane of an ATOM in the plain scratch finds the bytes at its address, after 20 cycles, and writes there and nowhere else. -/
theorem State.atomLane_of_scratch {a : Acc} (ha : Scratch s a) (hn : 0 < a.n) (f : Nat → Nat) (writes : Nat → Bool) :
    let old := bytesToNat (s.home.stashBytes (stashAt s a) a.n)
    s.atomLane s.cur.1 s.cur.2 a f writes =
      ({ old := old, lat := 20 }, if writes old then s.putStash s.cur.1 (stashAt s a) (natToBytes a.n (f old)) else s) := by
  obtain ⟨n, hp⟩ := Acc.head_mem_pieces hn
  unfold State.atomLane
  dsimp only
  rw [show s.ctx s.cur.1 s.cur.2 = s.me from rfl, State.spotOf_scratch ha hp]
  simp only [ha.1]
  rfl

/-- The state after the lane of an ATOM that finds `old` in the stash: written where its function writes. -/
def atomWrote (s : State) (a : Acc) (new : Nat) (writes : Bool) : State :=
  if writes then s.putStash s.cur.1 (stashAt s a) (natToBytes a.n new) else s

theorem StashIs.atomWrote (s : State) (a : Acc) (new : Nat) (writes : Bool) :
    StashIs s s.cur.1 (if writes then cellPuts s.home.stash (bytesAt (stashAt s a) (natToBytes a.n new)) else s.home.stash)
      (atomWrote s a new writes) := by
  cases writes
  · exact StashIs.refl s _
  · exact (StashIs.refl s _).putStash _ _

theorem StashIs.stays {m : List Host.Cell} (h : StashIs s s.cur.1 m u) :
    u.cur = s.cur ∧ u.now = s.now ∧ u.phys = s.phys ∧ u.me = s.me := by
  have hme := h.ctx (x := s.cur.2)
  obtain ⟨rfl, -⟩ | rfl := h
  · exact ⟨rfl, rfl, rfl, rfl⟩
  · exact ⟨rfl, rfl, rfl, hme⟩

/-- One lane of an ATOM in the plain scratch: the old value is on the way, after 20 cycles. -/
theorem State.atomTail_holds (hslot : o.slot = 1) {l th ty scope old : Nat} (hlane : (l, th) ∈ u.group.lanes) :
    let t := u.atomTail o k x ty scope false false [(th, { old := old, lat := 20 })]
    Calm u t ∧ ∃ lnd ∈ t.me.inflight, lnd.Holds o (u.after 20) 20 1 [(th, [regImage ty old])] := by
  dsimp only
  unfold State.atomTail
  simp only [Bool.false_and, Bool.false_eq_true, if_false, List.map_cons, List.map_nil, List.foldl_cons, List.foldl_nil]
  refine ⟨((Calm.land ..).trans (Calm.lastAwaits ..)).trans (Calm.noteReads k x id (fun _ => []) [th] _), ?_⟩
  rw [State.inflight_modThread]
  have hland := State.land_holds hslot u (width := 1) 20 (vals := [(th, [regImage ty old])])
    (fun v hv => by
      obtain rfl := List.mem_singleton.1 hv
      exact List.mem_map.2 ⟨_, hlane, rfl⟩) []
  exact State.exists_inflight_lastAwaits (fun l h => ⟨h.kind, h.dest, h.width, h.due, h.window, h.vals⟩) hland

/-- The stash takes what the lane writes, and keeps its other bytes. -/
theorem atomWrote_bytes {a : Acc} {new : Nat} {writes : Bool} (hwf : Memory.wf s.home.stash = true)
    (hcalm : Calm (atomWrote s a new writes) t) :
    (∀ i, i < a.n → writes = true → some (stashByte t (stashAt s a + i)) = (natToBytes a.n new)[i]?) ∧
      ∀ b, (b < stashAt s a ∨ stashAt s a + a.n ≤ b ∨ writes = false) → stashByte t b = stashByte s b := by
  have hstash := StashIs.atomWrote s a new writes
  refine ⟨fun i hi hw => ?_, fun b hb => ?_⟩
  · rw [hcalm.stashByte_eq, stashByte_of_stashIs hstash, if_pos hw, Memory.cellAt_cellPuts_bytesAt hwf (by simpa using hi),
      List.getElem?_eq_getElem]
  · rw [hcalm.stashByte_eq, stashByte_of_stashIs hstash]
    split
    next hw =>
      refine Memory.cellAt_cellPuts_ne _ _ fun e he => ?_
      have hin := mem_bytesAt he
      rw [length_natToBytes] at hin
      simp only [hw, Bool.true_eq_false, or_false] at hb
      omega
    next => rfl

/-- Settles O13: the lane finds what stands in the stash, and the stash takes what its function writes. -/
theorem stashAtomicResult : Obligations.StashAtomicResult := by
  unfold Obligations.StashAtomicResult
  intro s o l th hslot hwf hlegal hsound haccs hactive a ha old v new
  have hpos : 0 < a.n := bytes_of_atom hlegal
  let writes : Bool := !(atomFn o == 7) || old == v
  let u := atomWrote s a new writes
  have hlanes : s.atomLanes (s.atomStart o false) o s.cur.1 s.cur.2 = ([(th, { old := old, lat := 20 })], u) := by
    have haccs : atomAccs o s = [a] := by rw [atomAccs, hactive]; rfl
    have hstart : s.atomStart o false = s := rfl
    rw [hstart, State.atomLanes, hactive, haccs, State.copyFirst_of_scratch (by simpa using ha)]
    simp only [List.foldl_cons, List.foldl_nil, List.find?_cons, show (a.t == th) = true from beq_self_eq_true th,
      State.atomLane_of_scratch ha hpos, List.nil_append, beq_iff_eq]
    rfl
  have hexec : exec (.atom o) s = .next (u.atomTail o s.cur.1 s.cur.2 (atomTy o) (atomScope o) false false [(th, { old := old, lat := 20 })]) := by
    have hop := atomOp_of_sound (acq := false) (rel := false) hlegal hsound haccs (fun h => absurd h Bool.false_ne_true)
    rw [hlanes] at hop
    exact congrArg Host.Outcome.next hop
  have hstash : StashIs s s.cur.1 _ u := StashIs.atomWrote s a new writes
  obtain ⟨hcur, hnow, hphys, hme⟩ := hstash.stays
  have hlane : (l, th) ∈ u.group.lanes := by
    rw [State.group, hme]
    exact List.mem_of_mem_filter (hactive ▸ List.mem_singleton.2 rfl : (l, th) ∈ s.active o)
  obtain ⟨hcalm, lnd, hl, hholds⟩ := State.atomTail_holds (k := s.cur.1) (x := s.cur.2) (ty := atomTy o) (scope := atomScope o) (old := old)
    hslot hlane
  have hwrites : writes = true ↔ atomFn o ≠ 7 ∨ old = v := by simp [writes]
  have hkept : writes = false ↔ atomFn o = 7 ∧ old ≠ v := by
    rw [← Bool.not_eq_true, hwrites, not_or, not_not]
  obtain ⟨hwritten, hrest⟩ := atomWrote_bytes hwf hcalm
  refine ⟨_, hexec, ⟨lnd, hl, hholds.vals, ?_, hholds.dest⟩, fun i hi hw => hwritten i hi (hwrites.2 hw),
    fun b hb => hrest b (hb.imp_right (.imp_right hkept.2)), hcalm.phys.trans hphys⟩
  rw [hholds.due, State.after, hnow]

end
end Sys2Proof.Machine
end

section
-- One proof after another, as in the sections before this one.
set_option Elab.async false

namespace Sys2Proof.Machine

section
open Sys2Proof.Claims

/-! ### Answers to traps and page faults (R262, R393) -/

section
variable {s : State} {o : Op} {x th mode : Nat}

theorem tretWord_eq (hx : x < 4) (hth : th < 256) (hmode : mode < 8) : tretWord (mode * 2 ^ 16 + th * 2 ^ 8 + x) = some (x, th) := by
  have hword : mode * 2 ^ 16 + th * 2 ^ 8 + x < 2 ^ 19 ∧ (mode * 2 ^ 16 + th * 2 ^ 8 + x) / 4 % 64 = 0 := by omega
  have hctx : (mode * 2 ^ 16 + th * 2 ^ 8 + x) % 4 = x := by omega
  have hthread : (mode * 2 ^ 16 + th * 2 ^ 8 + x) / 2 ^ 8 % 256 = th := by omega
  simp only [tretWord, hword.1, hword.2, hctx, hthread, decide_true, beq_self_eq_true, Bool.and_self, if_true]

/-- A TRET that passes its checks gives the answer, and puts its status on the way. -/
theorem tretOp_status (h : TretSound s o x th mode) {m : Nat → Nat} (hm : m mode = mode) :
    Status (s.answer s.cur.1 x th mode).2 (tretOp m o s) o (s.answer s.cur.1 x th mode).1 := by
  obtain ⟨hfw, hlegal, hext, hsound, ⟨e, htop, hword⟩, hx, hth, hmode⟩ := h
  have hpriv : s.privTraps o 0x82 = [] := if_pos (beq_iff_eq.2 hfw)
  have hmodeof : (mode * 2 ^ 16 + th * 2 ^ 8 + x) / 2 ^ 16 % 8 = mode := by omega
  unfold Status tretOp
  simp only [htop, hpriv, hword, hlegal, hext, hsound.target, Bool.and_self, hsound.srcTraps, hsound.copyTraps, tretWord_eq hx hth hmode,
    Option.isSome_some, State.illegalUnless_true, List.append_nil, List.isEmpty_nil, if_true, runOp_nil, Option.getD_some, hmodeof, hm, State.myCore_eq]

/-- Each answer is a TRET in its mode (R393). -/
theorem exec_answers {r : Instr × Nat} (hr : r ∈ answers o) : ∃ m : Nat → Nat, m r.2 = r.2 ∧ exec r.1 s = .next (tretOp m o s) := by
  simp only [answers, List.mem_cons, List.not_mem_nil, or_false] at hr
  obtain rfl | rfl | rfl | rfl | rfl | rfl := hr
  · exact ⟨fun m => if 6 ≤ m then m else 0, rfl, rfl⟩
  · exact ⟨fun _ => 1, rfl, rfl⟩
  · exact ⟨fun _ => 2, rfl, rfl⟩
  · exact ⟨fun _ => 3, rfl, rfl⟩
  · exact ⟨fun _ => 4, rfl, rfl⟩
  · exact ⟨fun _ => 5, rfl, rfl⟩

/-- A TRET leaves what the answer left, with its status. -/
theorem answers_complete {r : Instr × Nat} (hr : r ∈ answers o) (h : TretSound s o x th r.2) {st : Nat} {u : State}
    (hanswer : s.answer s.cur.1 x th r.2 = (st, u)) : Completes r.1 s fun t => Status u t o st := by
  obtain ⟨m, hm, hexec⟩ := exec_answers (s := s) hr
  have hstatus := tretOp_status h hm
  rw [hanswer] at hstatus
  exact ⟨_, hexec, hstatus⟩

theorem State.answer_trapped {h : TrapHold} (ht : Trapped s x th h) (mode : Nat) :
    s.answer s.cur.1 x th mode = if s.modeOk s.cur.1 h mode then (0, s.answerTrap s.cur.1 x th h mode) else (2, s) := by
  obtain ⟨hactive, hlisted, htrap⟩ := ht
  simp only [State.answer, hactive, hlisted, htrap, beq_self_eq_true, Bool.and_self, if_true]

theorem State.answer_faulted {f : FaultHold} (hf : Faulted s x th f) (mode : Nat) :
    s.answer s.cur.1 x th mode = if f.walking || f.failed then (1, s)
      else if faultMode mode then (0, s.answerFault s.cur.1 x th f mode) else (2, s) := by
  obtain ⟨hactive, hlisted, htrap, hfault⟩ := hf
  simp only [State.answer, hactive, hlisted, htrap, hfault, beq_self_eq_true, Bool.and_self, if_true]

theorem State.answer_none (hempty : (s.ctx s.cur.1 x).state = .empty) (hstreams : s.streams s.cur.1 x th = [])
    (hsaved : s.savedTrap s.cur.1 x th = none) (mode : Nat) : s.answer s.cur.1 x th mode = (1, s) := by
  have hheld : ((tget (s.ctx s.cur.1 x).threads th).isSome && (s.ctx s.cur.1 x).state == .active) = false := by
    rw [hempty, show (CtxState.empty == CtxState.active) = false from rfl, Bool.and_false]
  simp only [State.answer, hheld, Bool.false_eq_true, if_false, hstreams, hsaved]

/-- Settles O33: the status says which branch of the answer the thread's wait takes. -/
theorem trapAnswers : Obligations.TrapAnswers := by
  unfold Obligations.TrapAnswers
  intro s o r x th hr hsound
  refine ⟨fun h ht => ⟨fun hok => ?_, fun hok => ?_⟩, fun f hf => ⟨fun hwalk hfail hmode => ?_, fun hwalk hfail hmode => ?_, fun hbusy => ?_⟩,
    fun hempty hstreams hsaved => answers_complete hr hsound (State.answer_none hempty hstreams hsaved _)⟩
  · exact answers_complete hr hsound ((State.answer_trapped ht _).trans (if_pos hok))
  · exact answers_complete hr hsound ((State.answer_trapped ht _).trans (if_neg (Bool.eq_false_iff.1 hok)))
  · have hle : r.2 ≤ 5 := (show ∀ r ∈ answers o, r.2 ≤ 5 by simp [answers]) r hr
    have hallowed : faultMode r.2 = true := by simp [faultMode, hmode, hle]
    refine answers_complete hr hsound ((State.answer_faulted hf _).trans ?_)
    rw [hwalk, hfail, hallowed]
    rfl
  · have hrefused : faultMode r.2 = false := by simp [faultMode, hmode]
    refine answers_complete hr hsound ((State.answer_faulted hf _).trans ?_)
    rw [hwalk, hfail, hrefused]
    rfl
  · exact answers_complete hr hsound ((State.answer_faulted hf _).trans (if_pos (by simpa using hbusy)))

end

end
end Sys2Proof.Machine
end

section
-- One proof after another, as in the sections before this one.
set_option Elab.async false

namespace Sys2Proof.Machine

section
open Sys2Proof.Claims

/-! ### Where each answer sends the thread (R257, R262) -/

section
variable {s u : State} {o : Op} {k x th : Nat}

/-- A result on its way changes the executing context alone. -/
theorem State.land_ctx (hne : (k, x) ≠ u.cur) (kind : DestKind) (dest width lat flags : Nat) (vals : List (Nat × List Word))
    (exc : List (Nat × Nat)) (late : List (Nat × Trap)) : (u.land o kind dest width lat vals flags exc late).ctx k x = u.ctx k x := by
  have hclaim : (u.claimLast kind dest width (vals.map (·.1))).ctx k x = u.ctx k x := by
    unfold State.claimLast
    split
    · exact State.ctx_modCtx_ne _ _ hne
    · rfl
  have hcur : (u.claimLast kind dest width (vals.map (·.1))).cur = u.cur := (u.claimLast_fields ..).1
  unfold State.land
  dsimp only
  split
  · exact (State.ctx_modCtx_ne _ _ (by rw [State.myCore, State.myCtxNo, hcur]; exact hne)).trans hclaim
  · exact (State.ctx_modCtx_ne _ _ (by rw [State.myCore, State.myCtxNo, hcur]; exact hne)).trans hclaim

theorem State.land_agenda (kind : DestKind) (dest width lat flags : Nat) (vals : List (Nat × List Word))
    (exc : List (Nat × Nat)) (late : List (Nat × Trap)) : (u.land o kind dest width lat vals flags exc late).agenda = u.agenda := by
  have hclaim : (u.claimLast kind dest width (vals.map (·.1))).agenda = u.agenda := by
    unfold State.claimLast
    split <;> rfl
  unfold State.land
  dsimp only
  split <;> exact hclaim

/-- The thread of a context after an answer sends it to a place. -/
theorem State.refile_results (hbins : Rises (s.ctx k x).bins) (key : BinKey) :
    let c := (s.refile k x th key).ctx k x
    Filed c key th ∧ (c.thread th).trap = none ∧ (c.thread th).regs = ((s.ctx k x).thread th).regs ∧
      (c.thread th).skip = ((s.ctx k x).thread th).skip := by
  have hctx : (s.refile k x th key).ctx k x = ((s.ctx k x).modThread th fun th => { th with trap := none, claim := none, place := .bin }).file
      (s.after 1) key [th] := State.ctx_modCtx ..
  have hthread {β : Type} (g : Thread → β) (hg : ∀ th p q, g { th with place := p, pend := q } = g th) :
      g (((s.refile k x th key).ctx k x).thread th) = g { (s.ctx k x).thread th with trap := none, claim := none, place := .bin } := by
    rw [hctx, Ctx.thread_file hg, Ctx.thread_modThread]
  refine ⟨?_, hthread Thread.trap fun _ _ _ => rfl, hthread Thread.regs fun _ _ _ => rfl, hthread Thread.skip fun _ _ _ => rfl⟩
  rw [hctx]
  exact Ctx.file_filed (c := (s.ctx k x).modThread th _) hbins _ key (List.mem_singleton.2 rfl)

/-- A thread that no late trap took out of a park goes on at its stop point (R262). -/
theorem State.resumeThread_eq_refile {h : TrapHold} (hwas : h.late = false ∨ h.was = .bin) (skip : Bool) : s.resumeThread k x th h skip =
    (if skip then s.modThread k x th fun th => { th with skip := some (h.at_, h.point.getD (s.point k h.at_)) } else s).refile k x th h.stop := by
  unfold State.resumeThread
  obtain hlate | hwas := hwas
  · rw [hlate]; rfl
  · unfold State.repark
    rw [hwas]
    cases h.late <;> rfl

theorem State.resumeThread_results (hbins : Rises (s.ctx k x).bins) {h : TrapHold} (hwas : h.late = false ∨ h.was = .bin) (skip : Bool) :
    let c := (s.resumeThread k x th h skip).ctx k x
    Filed c h.stop th ∧ (c.thread th).trap = none ∧ (c.thread th).regs = ((s.ctx k x).thread th).regs ∧
      (c.thread th).skip = if skip then some (h.at_, h.point.getD (s.point k h.at_)) else ((s.ctx k x).thread th).skip := by
  rw [State.resumeThread_eq_refile hwas]
  cases skip with
  | false => exact State.refile_results hbins h.stop
  | true =>
    have hmod : (s.modThread k x th fun th => { th with skip := some (h.at_, h.point.getD (s.point k h.at_)) }).ctx k x =
        (s.ctx k x).modThread th fun th => { th with skip := some (h.at_, h.point.getD (s.point k h.at_)) } := State.ctx_modCtx ..
    obtain ⟨hfiled, htrap, hregs, hskip⟩ := State.refile_results (s := s.modThread k x th fun th =>
      { th with skip := some (h.at_, h.point.getD (s.point k h.at_)) }) (k := k) (x := x) (th := th) (by rw [hmod]; exact hbins) h.stop
    rw [hmod, Ctx.thread_modThread] at hregs hskip
    exact ⟨hfiled, htrap, hregs, hskip⟩

theorem State.cur_resumeThread {h : TrapHold} (hwas : h.late = false ∨ h.was = .bin) (skip : Bool) :
    (s.resumeThread k x th h skip).cur = s.cur := by
  rw [State.resumeThread_eq_refile hwas]
  cases skip <;> rfl

theorem State.cur_answerTrap_cont {h : TrapHold} (hwas : h.late = false ∨ h.was = .bin) : (s.answerTrap k x th h 1).cur = s.cur := by
  show (if h.late then _ else _ : State).cur = _
  split
  · exact State.cur_resumeThread hwas _
  · exact State.cur_resumeThread hwas _

theorem State.answerTrap_cont (hbins : Rises (s.ctx k x).bins) {h : TrapHold} (hwas : h.late = false ∨ h.was = .bin) :
    let c := (s.answerTrap k x th h 1).ctx k x
    let past := (h.at_, h.point.getD (s.point k h.at_))
    Filed c h.stop th ∧ (c.thread th).trap = none ∧
      (h.late = false → (c.thread th).skip = some past ∧ (c.thread th).regs = ((s.ctx k x).thread th).regs) ∧
      (h.late = true → (c.thread th).regs = (((s.ctx k x).thread th).zeroDest h.dest).regs ∧
        (h.unissued = true → (c.thread th).skip = some past)) := by
  intro c past
  cases hlate : h.late with
  | false =>
    have hctx : c = (s.resumeThread k x th h true).ctx k x := by simp only [c, State.answerTrap, hlate, Bool.false_eq_true, if_false]
    obtain ⟨hfiled, htrap, hregs, hskip⟩ := State.resumeThread_results (th := th) hbins hwas true
    rw [hctx]
    exact ⟨hfiled, htrap, fun _ => ⟨hskip, hregs⟩, fun h => absurd h Bool.false_ne_true⟩
  | true =>
    let z := s.modCtx k x fun c => c.zeroDest th h.dest
    have hc : c = (z.resumeThread k x th h h.unissued).ctx k x := by simp only [c, State.answerTrap, hlate, if_true]; rfl
    have hctx : z.ctx k x = (s.ctx k x).zeroDest th h.dest := State.ctx_modCtx ..
    have hzero : ((z.ctx k x).thread th).regs = (((s.ctx k x).thread th).zeroDest h.dest).regs := by
      rw [hctx]
      exact congrArg Thread.regs (Ctx.thread_modThread (s.ctx k x) th fun u => u.zeroDest h.dest)
    obtain ⟨hfiled, htrap, hregs, hskip⟩ := State.resumeThread_results (s := z) (th := th) (by rw [hctx]; exact hbins) hwas h.unissued
    rw [hc]
    refine ⟨hfiled, htrap, fun h => absurd h.symm Bool.false_ne_true, fun _ => ⟨hregs.trans hzero, fun hun => ?_⟩⟩
    rw [hun] at hskip ⊢
    exact hskip

/-! #### REPLAY (R182, R183) -/

/-- A walk that begins ends later. -/
theorem State.now_lt_walkEnd (s : State) (c : Nat) : s.now < (s.startWalker c).walkEnd c := by
  have hstart (busy : List Nat) (hbusy : ∀ t ∈ busy, s.now < t) :
      s.now ≤ if busy.length < 8 then s.now else ((sortBy id busy)[busy.length - 8]?).getD s.now := by
    split
    · exact le_rfl
    · cases hget : (sortBy id busy)[busy.length - 8]? with
      | none => exact le_rfl
      | some t => exact (hbusy t ((mem_sortBy _ _ _).1 (List.mem_of_getElem? hget))).le
  have hbusy := hstart ((s.cluster c).walks.filter (s.now < ·)) fun t ht => of_decide_eq_true (List.mem_filter.1 ht).2
  unfold State.startWalker State.walkEnd
  dsimp only
  rw [State.cluster_modCluster]
  exact Nat.lt_of_le_of_lt hbusy (Nat.lt_add_of_pos_right (Nat.mul_pos (by decide) (Nat.add_pos_left Nat.one_pos _)))

theorem State.answerFault_replay (f : FaultHold) :
    let t := s.answerFault k x th f 2
    ((t.ctx k x).thread th).fault = some { f with walking := true } ∧ ∃ at_, s.now < at_ ∧ (at_, Instr.pageWalkComplete k x th) ∈ t.agenda := by
  have hfault : ((s.modThread k x th fun th => { th with fault := some { f with walking := true } }).ctx k x).thread th =
      { (s.ctx k x).thread th with fault := some { f with walking := true } } := by
    rw [State.modThread, State.ctx_modCtx, Ctx.thread_modThread]
  exact ⟨congrArg Thread.fault hfault, _, State.now_lt_walkEnd (s.modThread k x th fun th => { th with fault := some { f with walking := true } })
    (clusterOf k), (State.mem_schedule _ _ _ _).2 (.inl rfl)⟩

/-! #### FAIL (R183) -/

/-- In a table that rises, where one key alone has a field, that key has it alone. -/
theorem Rises.filterMap_eq_singleton {α β : Type} {t : Tab α} (h : Rises t) {g : α → Option β} {n : Nat} {a : α} {b : β}
    (hget : tget t n = some a) (ha : g a = some b) (hrest : ∀ e ∈ t, e.1 ≠ n → g e.2 = none) :
    (t.filterMap fun e => (g e.2).map fun b => (e.1, b)) = [(n, b)] := by
  induction t with
  | nil => cases hget
  | cons e t ih =>
    obtain ⟨j, v⟩ := e
    obtain ⟨hj, ht⟩ := List.pairwise_cons.1 h
    by_cases hn : j = n
    · subst hn
      obtain rfl : v = a := by simpa [tget] using hget
      have hnone : (t.filterMap fun e => (g e.2).map fun b => (e.1, b)) = [] := List.filterMap_eq_nil_iff.2 fun e he => by
        rw [hrest e (List.mem_cons_of_mem _ he) (hj e he).ne']
        rfl
      rw [List.filterMap_cons, hnone]
      simp [ha]
    · have hcons : g v = none := hrest _ List.mem_cons_self hn
      rw [List.filterMap_cons]
      simp only [hcons, Option.map_none]
      exact ih ht (by simpa [tget, hn] using hget) fun e he => hrest e (List.mem_cons_of_mem _ he)

/-- The one page fault that a context waits for. -/
theorem Ctx.held_eq_singleton {c : Ctx} (hrise : Rises c.threads) {f : FaultHold} (hf : (c.thread th).fault = some f)
    (hrest : ∀ u, u ≠ th → (c.thread u).fault = none) :
    (c.threads.filterMap fun e => e.2.fault.map fun f => (e.1, f)) = [(th, f)] := by
  have hlisted : tget c.threads th = some (c.thread th) := by
    cases h : tget c.threads th with
    | none => simp [Ctx.thread, tgetD, h] at hf
    | some t => simp [Ctx.thread, tgetD, h]
  refine hrise.filterMap_eq_singleton (g := Thread.fault) hlisted hf fun e he hne => ?_
  have h := hrest e.1 hne
  rwa [Ctx.thread, tgetD, hrise.tget_of_mem he] at h

theorem State.park_late (t : Nat) {h : TrapHold} (hlate : h.late = true) (eng : Bool) (tick : Option Nat) :
    let c := (s.park k x t h eng tick).ctx k x
    (c.thread t).place = .trap ∧ ∃ was, (c.thread t).trap = some { h with was := was } := by
  unfold State.park
  simp only [State.ctx_modCtx, Ctx.thread_modThread, hlate, if_true, true_and]
  exact ⟨_, rfl⟩

/-- A late trap of a thread that has none parks it. -/
theorem State.takeLateHolds_parked (hx : x ≠ 4) (htrap : ((s.ctx k x).thread th).trap = none) (hold : TrapHold) :
    let c := (s.takeLateHolds k x [(th, hold)]).ctx k x
    (c.thread th).place = .trap ∧ ∃ h, (c.thread th).trap = some h ∧ h.trap = hold.trap ∧ h.late = true ∧ h.unissued = hold.unissued := by
  have hsorted : sortBy id (nodup ([(th, hold)].map (·.1))) = [th] := rfl
  have hone : [(th, hold)].filter (·.1 == th) = [(th, hold)] := by simp
  have hfw : (x == 4) = false := beq_eq_false_iff_ne.2 hx
  unfold State.takeLateHolds
  extract_lets c ts stops filed parked after
  have hstops : stops = [(th, c.posOf th)] := by
    simp only [stops, ts, hsorted, List.map_singleton, show (c.thread th).trap = none from htrap]
  have hfiled : ((filed.ctx k x).thread th).trap = none := by
    rw [← htrap]
    simp only [filed, State.ctx_modCtx]
    split
    · split
      · exact Ctx.thread_fileKeys (g := Thread.trap) (fun _ _ _ => rfl) _ _ _ _
      · rfl
    · rfl
  have hparked : parked = filed.park k x th { hold with late := true, stop := c.posOf th } := by
    simp only [parked, hstops, List.foldl_cons, List.foldl_nil, hone, State.parkLate, hfiled, Option.isSome_none, Bool.false_eq_true, if_false]
  have hafter : after = (filed.park k x th { hold with late := true, stop := c.posOf th }).ctx k x := by
    simp only [after, hfw, Bool.false_eq_true, if_false, hparked]
  rw [hafter]
  obtain ⟨hplace, was, htrap⟩ := State.park_late (s := filed) (k := k) (x := x) th (h := { hold with late := true, stop := c.posOf th }) rfl false none
  exact ⟨hplace, _, htrap, rfl, rfl, rfl⟩

theorem State.cur_takeLateHolds (holds : List (Nat × TrapHold)) (eng : Bool) (tick : Option Nat) :
    (s.takeLateHolds k x holds eng tick).cur = s.cur := by
  unfold State.takeLateHolds
  extract_lets c ts stops filed parked
  have hparked : parked.cur = filed.cur := foldl_keeps State.cur (fun s e => foldl_keeps State.cur (fun s h => by
    unfold State.parkLate
    split <;> rfl) _ _) _ _
  split <;> exact hparked

/-- FAIL of the only page fault of a context ends it with a late trap (R183). -/
theorem State.answerFault_fail (hx : x ≠ 4) {f : FaultHold} (hrise : Rises (s.ctx k x).threads)
    (htrap : ((s.ctx k x).thread th).trap = none) (hprecise : f.precise = false) (hrest : ∀ u, u ≠ th → ((s.ctx k x).thread u).fault = none) :
    let t := s.answerFault k x th f 3
    let c := t.ctx k x
    t.cur = s.cur ∧ (c.thread th).fault = none ∧ (c.thread th).place = .trap ∧
      ∃ h, (c.thread th).trap = some h ∧ h.trap = ⟨.accessViolation, f.seg, f.addr⟩ ∧ h.late = true ∧ h.unissued = true := by
  intro t c
  let u := s.modThread k x th fun th => { th with fault := some { f with failed := true } }
  let cleared := u.modThread k x th fun th => { th with fault := none }
  let lost := cleared.loseBytes k x f.addr
  let hold : TrapHold := { trap := ⟨.accessViolation, f.seg, f.addr⟩, late := true, at_ := f.at_, stop := {}, dest := none, unissued := true }
  have hctx : u.ctx k x = (s.ctx k x).modThread th fun th => { th with fault := some { f with failed := true } } := State.ctx_modCtx ..
  have hheld : ((u.ctx k x).threads.filterMap fun e => e.2.fault.map fun f => (e.1, f)) = [(th, { f with failed := true })] := by
    rw [hctx]
    refine Ctx.held_eq_singleton (hrise.tset _ _) (congrArg Thread.fault (Ctx.thread_modThread ..)) fun v hv => ?_
    rw [Ctx.thread_modThread_ne _ _ hv]
    exact hrest v hv
  have ht : t = lost.takeLateHolds k x [(th, hold)] := by
    show u.settleFaults k x = _
    unfold State.settleFaults
    extract_lets c g held ripe
    have hheld : held = [(th, { f with failed := true })] := hheld
    have hripe : ripe.filter (·.2.failed) = [(th, { f with failed := true })] := by
      simp [ripe, hheld]
    rw [hripe]
    simp only [List.foldl_cons, List.foldl_nil, List.filter_cons, List.filter_nil, hprecise, Bool.false_eq_true, if_false, List.map_nil,
      List.isEmpty_nil, if_true, Bool.not_false, List.map_cons, List.isEmpty_cons]
    rfl
  have hlost : ((lost.ctx k x).thread th).trap = none ∧ ((lost.ctx k x).thread th).fault = none := by
    have hcleared : (cleared.ctx k x).thread th = { (s.ctx k x).thread th with fault := none } := by
      simp only [cleared, State.modThread, State.ctx_modCtx, hctx, Ctx.thread_modThread]
    have hsame : (lost.ctx k x).thread th = (cleared.ctx k x).thread th := by
      simp only [lost, State.loseBytes, State.ctx_modCtx]
      split <;> rfl
    rw [hsame, hcleared]
    exact ⟨htrap, rfl⟩
  have hparked := State.takeLateHolds_parked hx hlost.1 hold
  have hfault := State.faultOf_takeLateHolds lost k x th [(th, hold)] false none
  simp only [c, ht]
  exact ⟨State.cur_takeLateHolds _ _ _, hfault.trans hlost.2, hparked⟩

/-- The answered context is none that executes a TRET. -/
theorem tret_ctx_ne {mode : Nat} (h : TretSound s o x th mode) (hcur : u.cur = s.cur) : (s.cur.1, x) ≠ u.cur := by
  obtain ⟨hfw, -, -, -, -, hx, -⟩ := h
  rw [hcur]
  intro he
  have := congrArg Prod.snd he
  dsimp only at this
  omega

/-- What a TRET leaves of the answered context is what the answer left. -/
theorem answers_ctx {r : Instr × Nat} (hr : r ∈ answers o) (h : TretSound s o x th r.2) {st : Nat} (hanswer : s.answer s.cur.1 x th r.2 = (st, u))
    (hcur : u.cur = s.cur) : Completes r.1 s fun t => t.ctx s.cur.1 x = u.ctx s.cur.1 x ∧ t.agenda = u.agenda := by
  obtain ⟨t, hexec, hstatus⟩ := answers_complete hr h hanswer
  refine ⟨t, hexec, ?_⟩
  rw [show t = _ from hstatus]
  exact ⟨State.land_ctx (tret_ctx_ne h hcur) .., State.land_agenda ..⟩

/-- Settles O34: the status leaves the answered context alone, so each answer is read off the state that it left. -/
theorem trapReturns : Obligations.TrapReturns := by
  unfold Obligations.TrapReturns
  intro s o x th k c hbins hthreads
  refine ⟨fun h ht hlate hsound => ?_, fun h ht hok hsound hwas => ?_, fun f hf hwalk hfail hsound => ?_,
    fun f hf hwalk hfail hprecise hsound hrest => ?_, fun h ht hsound => ?_, fun h ht hsound => ?_⟩
  · have hok : s.modeOk k h 0 = true := by simp [State.modeOk, hlate]
    obtain ⟨t, hexec, hctx, -⟩ := answers_ctx (r := (.retry o, 0)) (by simp [answers]) hsound
      ((State.answer_trapped ht 0).trans (if_pos hok)) (State.cur_resumeThread (.inl hlate) false)
    refine ⟨t, hexec, ?_⟩
    simp only [c, k, hctx]
    exact State.resumeThread_results hbins (.inl hlate) false
  · obtain ⟨t, hexec, hctx, -⟩ := answers_ctx (r := (.cont o, 1)) (by simp [answers]) hsound
      ((State.answer_trapped ht 1).trans (if_pos hok)) (State.cur_answerTrap_cont hwas)
    refine ⟨t, hexec, ?_⟩
    simp only [c, k, hctx]
    exact State.answerTrap_cont hbins hwas
  · have hanswer : s.answer k x th 2 = (0, s.answerFault k x th f 2) := by
      rw [State.answer_faulted hf, hwalk, hfail]
      rfl
    obtain ⟨t, hexec, hctx, hagenda⟩ := answers_ctx (r := (.replay o, 2)) (by simp [answers]) hsound hanswer rfl
    refine ⟨t, hexec, ?_⟩
    simp only [c, k, hctx, hagenda]
    exact State.answerFault_replay f
  · have hanswer : s.answer k x th 3 = (0, s.answerFault k x th f 3) := by
      rw [State.answer_faulted hf, hwalk, hfail]
      rfl
    have hx : x ≠ 4 := by
      obtain ⟨-, -, -, -, -, hx, -⟩ := hsound
      omega
    obtain ⟨-, -, htrap, -⟩ := hf
    obtain ⟨hcur, hended⟩ := State.answerFault_fail hx hthreads htrap hprecise hrest
    obtain ⟨t, hexec, hctx, -⟩ := answers_ctx (r := (.fail o, 3)) (by simp [answers]) hsound hanswer hcur
    refine ⟨t, hexec, ?_⟩
    simp only [c, k, hctx]
    exact hended
  · exact answers_complete (r := (.endThread o, 4)) (by simp [answers]) hsound (State.answer_trapped ht 4)
  · exact answers_complete (r := (.endLaunch o, 5)) (by simp [answers]) hsound (State.answer_trapped ht 5)

end

end
end Sys2Proof.Machine
end

section
-- One proof after another, as in the sections before this one.
set_option Elab.async false

namespace Sys2Proof.Machine

section
open Sys2Proof.Claims

/-! ### Checkpoints and losses (R273, R274) -/

section
variable {s : State}

/-- A reading of states that writes to pillars do not change. -/
theorem State.localCopy_keeps {β : Type} {g : State → β} (hg : ∀ s key bs, g (State.putPillar s key bs) = g s) (k half gen key : Nat) (s : State) :
    g (s.localCopy k half gen key) = g s := by
  have hcopy (f src dst left : Nat) (s : State) : g (stkCopy k key key src dst f left s).2 = g s := by
    induction f generalizing src dst left s with
    | zero => rfl
    | succ f ih =>
      unfold stkCopy
      split
      · rfl
      · dsimp only
        split
        · rfl
        · exact (ih ..).trans (hg ..)
  have hcopied := hcopy (half / 8) 0 (sysBase - 2 * half + 8) (half - 16) (s.putStk key (k * 2 ^ 30 + (sysBase - 2 * half)) gen)
  unfold State.localCopy
  dsimp only
  split
  next h =>
    rw [h] at hcopied
    exact (hg ..).trans (hcopied.trans (hg ..))
  next h =>
    rw [h] at hcopied
    exact hcopied.trans (hg ..)

/-- The three parts that the BUDDY half of a pillar is sent. -/
def State.buddyParts (s : State) (k half key dev : Nat) : List (Nat × List Nat) :=
  let sent (off n : Nat) : Nat × List Nat := (dev, (k * 2 ^ 30 + sysBase - half + off) ::
    (List.range n).map fun i => (s.phys.dramByte (some key) (k * 2 ^ 30 + sysBase - 2 * half + off + i)).toNat)
  [sent 0 8, sent 8 (half - 16), sent (half - 8) 8]

/-- The BUDDY halves of pillars are sent one after another. -/
theorem State.foldl_buddyCopy (half key dev : Nat) (ks : List Nat) (s : State) :
    ks.foldl (fun s k => s.buddyCopy k half key dev) s =
      { s with fabric := { s.fabric with tx := s.fabric.tx ++ ks.flatMap fun k => s.buddyParts k half key dev } } :=
  foldl_prefix (fun pre t => t = { s with fabric := { s.fabric with tx := s.fabric.tx ++ pre.flatMap fun k => s.buddyParts k half key dev } })
    (fun pre k _ t ht => by
      rw [ht]
      simp only [State.buddyCopy, List.append_assoc, List.flatMap_append, List.flatMap_singleton]
      rfl) (by simp)

/-- What joins the device to others. -/
def State.links (s : State) : Fabric × HostLink := (s.fabric, s.host)

theorem State.putPillar_links (s : State) (key : Nat) (bs : List (Nat × Byte)) : (s.putPillar key bs).links = s.links :=
  foldl_keeps (f := fun (s : State) l => s.modLine l fun n => { n with version := (n.version + 1) % 2 ^ 32 }) State.links (fun _ _ => rfl)
    (nodup (bs.map fun e : Nat × Byte => e.1 / 128)) (s.modPhys fun p => p.putDram (some key) bs)

theorem spareSize_half_ne_zero {n : Nat} (h1 : 1 ≤ n) (h2 : n ≤ 2) : spareSize n / 2 ≠ 0 := by
  obtain rfl | rfl : n = 1 ∨ n = 2 := by omega
  · decide
  · decide

theorem checkpoint_done {part gen : Nat} {p : Partition} (hp : tget s.parts part = some p) (h1 : 1 ≤ p.spare) (h2 : p.spare ≤ 2)
    (hgen : gen % 2 ^ 64 ≠ 0) :
    let half := spareSize p.spare / 2
    let key := s.keyOf p.keySlot
    let u := (pillarsOf s p).foldl (fun s k => s.localCopy k half gen key) s
    Completes (.checkpoint part gen) s fun t => t.phys = u.phys ∧ ∃ done dev, t.host.replies = s.host.replies ++ [done] ∧
      (done = true → t.fabric.tx = s.fabric.tx ++ (pillarsOf s p).flatMap fun k => u.buddyParts k half key dev) ∧
      (done = false → t.fabric.tx = s.fabric.tx) := by
  intro half key u
  have hlinks : u.links = s.links :=
    foldl_keeps State.links (fun s k => State.localCopy_keeps (g := State.links) State.putPillar_links k half gen key s) _ _
  obtain ⟨hfabric, hhost⟩ := Prod.mk.inj hlinks
  let dev := u.draw1.1 % 512
  let r := u.draw1.2.podTakes dev
  have hrest : r.2.phys = u.phys ∧ r.2.fabric = s.fabric ∧ r.2.host = s.host := ⟨rfl, hfabric, hhost⟩
  obtain ⟨hphys, hfab, hh⟩ := hrest
  have hexec : exec (.checkpoint part gen) s = .next (if r.1 then ((pillarsOf s p).foldl (fun s k => s.buddyCopy k half key dev) r.2).reply true
      else r.2.reply false) := by
    show execCheckpoint part gen s = _
    have hgo : (decide (half = 0) || decide (gen % 2 ^ 64 = 0)) = false :=
      Bool.or_eq_false_iff.2 ⟨decide_eq_false (spareSize_half_ne_zero h1 h2), decide_eq_false hgen⟩
    simp only [execCheckpoint, hp]
    rw [if_neg (Bool.eq_false_iff.1 hgo)]
    rfl
  refine ⟨_, hexec, ?_⟩
  cases htakes : r.1 with
  | false => exact ⟨hphys, false, dev, by rw [← hh]; rfl, fun h => absurd h Bool.false_ne_true, fun _ => congrArg Fabric.tx hfab⟩
  | true =>
    rw [if_pos rfl, State.foldl_buddyCopy]
    refine ⟨hphys, true, dev, by rw [← hh]; rfl, fun _ => ?_, fun h => absurd h.symm Bool.false_ne_true⟩
    rw [← hfab]
    simp only [State.buddyParts, ← hphys]
    rfl

theorem checkpoint_refused {part gen : Nat} {p : Partition} (hp : tget s.parts part = some p) (h : p.spare = 0 ∨ gen % 2 ^ 64 = 0) :
    Completes (.checkpoint part gen) s fun t => Replied s t false := by
  have hno : (decide (spareSize p.spare / 2 = 0) || decide (gen % 2 ^ 64 = 0)) = true := by
    obtain h | h := h
    · rw [h]
      rfl
    · exact Bool.or_eq_true_iff.2 (.inr (decide_eq_true h))
  have hexec : exec (.checkpoint part gen) s = .next (s.reply false) := by
    show execCheckpoint part gen s = _
    simp only [execCheckpoint, hp]
    rw [if_pos hno]
  exact ⟨_, hexec, rfl⟩

/-- The core of a state without the cores of a die. -/
theorem State.core_filter (p : Nat → Bool) (k : Nat) :
    ({ s with cores := s.cores.filter fun c => p c.1 } : State).core k = if p k then s.core k else {} := by
  simp only [State.core, tgetD, tget_filter_key]
  split
  · rfl
  · rfl

/-- A die that no cohort stands on and whose front end has no queue is lost alone. -/
theorem dieLoss_idle {d : Nat} (hd : d < 4) (hplace : ∀ h ∈ s.cohorts, ∀ k ∈ h.2.place, dieOf k ≠ d) (hqueues : (s.fe d).queues = []) :
    Completes (.dieLoss (.die d)) s fun t => d ∈ t.fabric.lostDies ∧ (t.fe d).lost = true ∧ t.host.aer = s.host.aer ++ [aerDie] ∧
      (∀ k, dieOf k = d → t.core k = {}) ∧ (∀ k, dieOf k ≠ d → t.core k = s.core k) ∧
      (∀ p ∈ t.parts, ∀ c ∈ p.2.clusters, dieOf (12 * c) ≠ d) ∧ ∀ i, i ≠ d → t.fe i = s.fe i := by
  let onDie (k : Nat) : Bool := dieOf k == d
  let gone : State := { s with
    fabric := { s.fabric with lostDies := nodup (s.fabric.lostDies ++ [d]) }
    parts := s.parts.map fun p => (p.1, { p.2 with clusters := p.2.clusters.filter fun c => !onDie (12 * c) }) }
  let left : State := { gone.aer aerDie with
    cores := s.cores.filter fun c => !onDie c.1
    turn := s.turn.filter fun a => match a with
      | .core k | .firmware k => !onDie k
      | .frontEnd e => e != d }
  have hhit : s.cohorts.filter (fun h => h.2.place.any onDie) = [] := List.filter_eq_nil_iff.2 fun h hh hany => by
    obtain ⟨k, hk, hdie⟩ := List.any_eq_true.1 hany
    exact hplace h hh k hk (beq_iff_eq.1 hdie)
  have hexec : exec (.dieLoss (.die d)) s = .next (left.modFe d fun e => { e with lost := true }) := by
    show execDieLoss (.die d) s = _
    simp only [execDieLoss]
    rw [if_neg (Nat.not_le.2 hd), hhit]
    show Host.Outcome.next (State.modFe (((left.fe d).queues.map (·.1)).foldl (fun s q => s.abortQueue d q (-4)) left) d _) = _
    rw [show (left.fe d).queues = [] from hqueues]
    rfl
  refine ⟨_, hexec, ?_, ?_, rfl, fun k hk => ?_, fun k hk => ?_, fun p hp c hc => ?_, fun i hi => ?_⟩
  · exact (mem_nodup _ _).2 (List.mem_append_right _ (List.mem_singleton.2 rfl))
  · rw [State.fe, State.modFe_fes, tgetD_tmod_self]
  · refine (State.core_filter (s := s) (fun k => !onDie k) k).trans (if_neg ?_)
    simp [onDie, hk]
  · refine (State.core_filter (s := s) (fun k => !onDie k) k).trans (if_pos ?_)
    simp [onDie, hk]
  · obtain ⟨q, _, rfl⟩ := List.mem_map.1 hp
    have hout := (List.mem_filter.1 hc).2
    simpa [onDie] using hout
  · rw [State.fe, State.modFe_fes, tgetD_tmod_ne _ _ _ hi]
    rfl

/-- Every case of a checkpoint, a lost device and a lost die. -/
theorem checkpointsAndDies : CheckpointsAndDies := by
  intro s
  refine ⟨fun part p gen hp h1 h2 hgen => checkpoint_done hp h1 h2 hgen, fun part p gen hp h => checkpoint_refused hp h, fun n hn => ?_,
    fun n hn => ?_, fun d hd => ?_, fun d hd hplace hqueues => dieLoss_idle hd hplace hqueues, fun d hd => ?_⟩
  · refine ⟨{ s with fabric := { s.fabric with lostDevices := nodup (s.fabric.lostDevices ++ [n]) } }, if_neg (Nat.not_le.2 hn), fun m => ?_,
      rfl, rfl, rfl⟩
    rw [mem_nodup, List.mem_append, List.mem_singleton, or_comm]
  · exact if_pos hn
  · exact if_pos hd
  · exact ⟨_, if_neg (Nat.not_le.2 hd), rfl⟩

/-! ### Soft errors (R135, R254) -/

theorem State.strike_element {k x t n : Nat} {u : Thread} (hn : n < 255) (hu : tget (s.ctx k x).threads t = some u) :
    let r := s.strike (.element k x t n)
    (∀ m, m ∈ ((r.ctx k x).thread t).poisoned ↔ m = n ∨ m ∈ u.poisoned) ∧ ((r.ctx k x).thread t).regs = u.regs ∧
      (∀ h, h ≠ t → (r.ctx k x).thread h = (s.ctx k x).thread h) ∧ (∀ j, j ≠ k → r.core j = s.core j) ∧ r.phys = s.phys := by
  have hlisted : ((s.ctx k x).threads.any (fun h => h.1 == t) && decide (n < 255)) = true := by
    rw [decide_eq_true hn, Bool.and_true]
    exact List.any_eq_true.2 ⟨_, mem_of_tget hu, beq_self_eq_true t⟩
  have hstrike : s.strike (.element k x t n) = s.modThread k x t fun th => { th with poisoned := nodup (n :: th.poisoned) } := if_pos hlisted
  have hctx : (s.strike (.element k x t n)).ctx k x = (s.ctx k x).modThread t fun th => { th with poisoned := nodup (n :: th.poisoned) } := by
    rw [hstrike]
    exact State.ctx_modCtx ..
  have hthread : (s.ctx k x).thread t = u := by rw [Ctx.thread, tgetD, hu]; rfl
  dsimp only
  rw [hctx, Ctx.thread_modThread, hthread]
  refine ⟨fun m => ?_, rfl, fun h hh => Ctx.thread_modThread_ne _ _ hh, fun j hj => ?_, by rw [hstrike]; rfl⟩
  · rw [mem_nodup, List.mem_cons]
  · rw [hstrike, State.core, State.modThread_cores, tgetD_tmod_ne _ _ _ hj]
    rfl

theorem State.strike_line {l k : Nat} (hl : regionOf (128 * l) = .pillar k) (hk : s.presentPillar k = true) :
    let r := s.strike (.line l)
    r.uncorrectable (128 * l) = true ∧ (∀ m, m ∈ r.phys.poison ↔ m = l ∨ m ∈ s.phys.poison) ∧ r.phys.dram = s.phys.dram ∧
      r.phys.overlay = s.phys.overlay ∧ r.cores = s.cores := by
  have hstrike : s.strike (.line l) = s.modPhys fun p => { p with poison := nodup (l :: p.poison) } := by
    simp only [State.strike, hl, hk, if_true]
  dsimp only
  rw [hstrike]
  have hmem (m : Nat) : m ∈ nodup (l :: s.phys.poison) ↔ m = l ∨ m ∈ s.phys.poison := by rw [mem_nodup, List.mem_cons]
  refine ⟨?_, hmem, rfl, rfl, rfl⟩
  have hbad : (nodup (l :: s.phys.poison)).contains (128 * l / 128) = true := by
    rw [Nat.mul_div_cancel_left _ (by decide)]
    exact List.contains_iff_mem.2 ((hmem l).2 (.inl rfl))
  exact Bool.or_eq_true_iff.2 (.inl hbad)

/-- The same device at another time, with other soft errors to come. -/
def State.atTime (s : State) (now : Nat) (errs : List (Nat × SoftError)) : State := { s with now := now, joined := [], softErrors := errs }

/-- A strike reads and changes the cores and the lines alone, whatever the time. -/
theorem State.strike_atTime (s : State) (now : Nat) (errs : List (Nat × SoftError)) (e : SoftError) :
    (s.atTime now errs).strike e = (s.strike e).atTime now errs := by
  cases e with
  | element k x t n =>
    simp only [State.strike, show (s.atTime now errs).ctx k x = s.ctx k x from rfl]
    split <;> rfl
  | line l =>
    simp only [State.strike, show ∀ k, (s.atTime now errs).presentPillar k = s.presentPillar k from fun _ => rfl]
    cases regionOf (128 * l) with
    | pillar k =>
      dsimp only
      split <;> rfl
    | _ => rfl

/-- An idle device lets a cycle pass, and the soft error to come strikes when its time has come. -/
theorem step_idle {a : Nat} {e : SoftError} (hphase : s.phase = .running) (hagenda : s.agenda = []) (hagents : s.agents = []) (hturn : s.turn = [])
    (herrs : s.softErrors = [(a, e)]) :
    let c := (s.now / cycleLen + 1) * cycleLen
    ∃ turn joined, step s = .next { (if a ≤ c then (s.strike e).atTime c [] else s.atTime c s.softErrors) with turn := turn, joined := joined } := by
  intro c
  have hlate : s.late = [] := by rw [State.late, hagents]; rfl
  have hnext : Nat.max c (s.now + 1) = c := Nat.max_eq_left (by
    have hlt := Nat.lt_div_mul_add (a := s.now) (b := cycleLen) (by decide)
    simp only [c, Nat.add_mul, Nat.one_mul]
    exact hlt)
  have hstrikes : ({ s with now := c, joined := [] } : State).strikes = if a ≤ c then (s.strike e).atTime c [] else s.atTime c s.softErrors := by
    by_cases hle : a ≤ c
    · have hleft : ¬ c < a := Nat.not_lt.2 hle
      simp only [State.strikes, herrs, List.filter_cons, List.filter_nil, hle, hleft, decide_true, decide_false, if_true, Bool.false_eq_true,
        if_false, List.foldl_cons, List.foldl_nil]
      exact s.strike_atTime c [] e
    · have hleft : c < a := Nat.not_le.1 hle
      simp only [State.strikes, herrs, List.filter_cons, List.filter_nil, hle, hleft, decide_true, decide_false, if_true, Bool.false_eq_true,
        if_false, List.foldl_nil]
      rfl
  have hstep : step s = .next s.passTime := by
    show machineStep exec s = _
    simp only [machineStep, turnStep, hphase, hagenda, hturn, State.endTurns, hlate]
    have hlateTurn : ((s.now % cycleLen == 0 && Phase.running == Phase.running) && !([] : List Agent).isEmpty) = false := Bool.and_false _
    rw [hlateTurn]
    rfl
  rw [hstep, ← hstrikes]
  generalize hr : ({ s with now := c, joined := [] } : State).strikes = r
  have hpass : s.passTime = if c % cycleLen == 0 && r.phase == .running then { r with turn := r.agents, joined := r.agents } else r := by
    unfold State.passTime
    extract_lets cyc t0 t1 r1
    have ht : t1 = c := by
      simp only [t1, t0, hagenda]
      exact hnext
    have hr1 : r1 = r := by rw [← hr, ← ht]
    rw [hr1, ht]
  rw [hpass]
  split
  · exact ⟨_, _, rfl⟩
  · exact ⟨r.turn, r.joined, rfl⟩

/-- Settles O37: checkpoints, losses and soft errors, each case by its lemma. -/
theorem checkpointsAndLosses : Obligations.CheckpointsAndLosses := by
  refine ⟨checkpointsAndDies, fun s => ⟨fun k x t n u hn hu => State.strike_element hn hu, fun l k hl hk => State.strike_line hl hk,
    fun a e hphase hagenda hagents hturn herrs => ?_⟩⟩
  obtain ⟨turn, joined, hstep⟩ := step_idle hphase hagenda hagents hturn herrs
  refine ⟨fun hle => ⟨_, hstep, ?_⟩, fun hlt => ⟨_, hstep, ?_⟩⟩
  · rw [if_pos hle]
    exact ⟨rfl, rfl, rfl, rfl⟩
  · rw [if_neg (Nat.not_le.2 hlt)]
    exact ⟨rfl, rfl, rfl, rfl⟩

end

end
end Sys2Proof.Machine
end

section
-- One proof after another, as in the sections before this one.
set_option Elab.async false

namespace Sys2Proof.Machine

section
open Sys2Proof.Claims

/-! ### Front ends beside the accesses of their packets (R239, R241, R245) -/

section
variable {s t : State} {d q : Nat}

/-- What no access of a front end to memory changes: the front ends, the time, and the launches. -/
def State.fronts (s : State) : Tab FrontEnd × Nat × Tab Launch := (s.fes, s.now, s.launches)

theorem besideAccesses_fronts : BesideAccesses 0 0 State.fronts where
  phys _ _ := rfl
  bank _ _ _ _ := rfl
  agenda _ _ _ := rfl
  free _ := rfl
  core _ _ _ _ := rfl
  cluster _ _ _ := rfl
  host _ _ := rfl
  rmWrites _ := rfl

theorem State.fronts_physPiece (s : State) (sp : Space) (va len : Nat) (kind : AccessKind) : (s.physPiece sp va len kind).2.fronts = s.fronts :=
  besideAccesses_fronts.physPiece rfl

theorem State.fronts_peek64 (s : State) (sp : Space) (va : Nat) : (s.peek64 sp va).2.fronts = s.fronts := by
  have h := s.fronts_physPiece sp va 8 .load
  unfold State.peek64
  split
  next hp =>
    rw [hp] at h
    split
    · exact h
    · exact h
  next hp =>
    rw [hp] at h
    exact h

theorem State.fronts_poke64 (s : State) (sp : Space) (va : Nat) (w : Word) : (s.poke64 sp va w).2.fronts = s.fronts := by
  have h := s.fronts_physPiece sp va 8 .store
  unfold State.poke64
  split
  next hp =>
    rw [hp] at h
    split
    · exact h
    · exact besideAccesses_fronts.arrive h
  next hp =>
    rw [hp] at h
    exact h

theorem State.fronts_peekPacket (s : State) (sp : Space) (va : Nat) : (s.peekPacket sp va).2.fronts = s.fronts := by
  refine List.foldlRecOn (motive := fun a : Option (List Word) × State => a.2.fronts = s.fronts) _ _ rfl fun a h i _ => ?_
  split
  · exact h
  next ws hws =>
    have hpeek := a.2.fronts_peek64 sp (va + 8 * i)
    split
    next hp =>
      rw [hp] at hpeek
      exact hpeek.trans h
    next hp =>
      rw [hp] at hpeek
      exact hpeek.trans h

theorem State.fronts_putDesc (s : State) (d q : Nat) : (s.putDesc d q).fronts = s.fronts := besideAccesses_fronts.putCells s _

theorem State.fronts_storeSig (s : State) (d : Nat) (u : Queue) (ws : List Word) (v : Int) : (s.storeSig d u ws v).fronts = s.fronts := by
  unfold State.storeSig
  dsimp only
  split
  · rfl
  · exact s.fronts_poke64 ..

theorem State.fronts_sweep (d : Nat) (u : Queue) (v : Int) (n k : Nat) (s : State) : (State.sweep d u v n k s).fronts = s.fronts := by
  induction n generalizing k s with
  | zero => rfl
  | succ n ih =>
    have hpeek := s.fronts_peekPacket (s.queueSpace d u) (u.slot k)
    unfold State.sweep
    dsimp only
    rw [ih]
    split
    · exact (State.fronts_storeSig ..).trans hpeek
    · exact hpeek

theorem State.fronts_pollWrite (s : State) (d q : Nat) : (s.pollWrite d q).fronts = s.fronts := by
  unfold State.pollWrite
  dsimp only
  split <;> rfl

/-- The front end looks at WRITE again at some time. -/
theorem State.pollWrite_due (s : State) (d q : Nat) : ∃ at_, (at_, Instr.queueWriteObserved d q) ∈ (s.pollWrite d q).agenda := by
  unfold State.pollWrite
  dsimp only
  split
  next h =>
    obtain ⟨e, he, hi⟩ := List.any_eq_true.1 h
    exact ⟨e.1, eq_of_beq hi ▸ he⟩
  next => exact ⟨_, (State.mem_schedule _ _ _ _).2 (.inl rfl)⟩

theorem State.phys_pollWrite (s : State) (d q : Nat) : (s.pollWrite d q).phys = s.phys := by
  unfold State.pollWrite
  dsimp only
  split <;> rfl

/-! ### Queues (R237) -/

theorem State.fes_of_fronts (h : t.fronts = s.fronts) : t.fes = s.fes := congrArg Prod.fst h
theorem State.now_of_fronts (h : t.fronts = s.fronts) : t.now = s.now := congrArg (·.2.1) h

theorem State.queue_of_fronts (h : t.fronts = s.fronts) (d q : Nat) : t.queue d q = s.queue d q := by
  rw [State.queue, State.fes_of_fronts h]
  rfl

theorem State.fe_of_fronts (h : t.fronts = s.fronts) (d : Nat) : t.fe d = s.fe d := by
  rw [State.fe, State.fes_of_fronts h]
  rfl

theorem State.fe_modQueue (s : State) (d q : Nat) (f : Queue → Queue) :
    (s.modQueue d q f).fe d = { s.fe d with queues := tmod (s.fe d).queues q {} f } := by
  simp only [State.fe, State.modQueue_fes, tgetD_tmod_self]

theorem State.fe_modFe (s : State) (d : Nat) (f : FrontEnd → FrontEnd) : (s.modFe d f).fe d = f (s.fe d) := by
  simp only [State.fe, State.modFe_fes, tgetD_tmod_self]

/-! ### Commands of queues (R238, R246, R253) -/

/-- BUSY is clear, and the rest of the command stands (R238). -/
theorem State.cmd_endCommand (s : State) (d : Nat) : ((s.endCommand d).fe d).cmd = (s.fe d).cmd &&& 0xFFFF#64 := by
  rw [State.endCommand, State.fe_modFe]

theorem State.queue_endCommand (s : State) (d q : Nat) : (s.endCommand d).queue d q = s.queue d q := by
  simp only [State.queue, State.endCommand, State.modFe_fes, tgetD_tmod_self]

theorem State.descWord_endCommand (s : State) (d q i : Nat) : (s.endCommand d).descWord d q i = s.descWord d q i := by
  have hbase : (s.endCommand d).descAddr d q = s.descAddr d q := by
    unfold State.descAddr
    rw [State.endCommand, State.fe_modFe]
  rw [State.descWord, State.descWord, hbase]
  rfl

theorem State.cmd_modQueue (s : State) (d q : Nat) (f : Queue → Queue) : ((s.modQueue d q f).fe d).cmd = (s.fe d).cmd := by
  rw [State.fe_modQueue]

/-- The command has ended, and all that has changed of the front ends is this queue. -/
structure Commanded (s t : State) (d q : Nat) (v : Queue) : Prop where
  cmd : (t.fe d).cmd = (s.fe d).cmd &&& 0xFFFF#64
  queue : t.queue d q = v

theorem Commanded.of_fronts {u : State} {v : Queue} (h : Commanded s u d q v) (ht : t.fronts = u.fronts) : Commanded s t d q v :=
  ⟨by rw [State.fe_of_fronts ht, h.cmd], by rw [State.queue_of_fronts ht, h.queue]⟩

theorem Commanded.endCommand (s : State) (d q : Nat) : Commanded s (s.endCommand d) d q (s.queue d q) :=
  ⟨s.cmd_endCommand d, s.queue_endCommand d q⟩

theorem Commanded.modQueue {u : State} {v : Queue} (h : Commanded s u d q v) (f : Queue → Queue) : Commanded s (u.modQueue d q f) d q (f v) :=
  ⟨by rw [State.cmd_modQueue, h.cmd], by rw [State.queue_modQueue, h.queue]⟩

theorem Commanded.putDesc {u : State} {v : Queue} (h : Commanded s u d q v) : Commanded s (u.putDesc d q) d q v :=
  h.of_fronts (u.fronts_putDesc d q)

theorem Commanded.schedule {u : State} {v : Queue} (h : Commanded s u d q v) (n : Nat) (i : Instr) : Commanded s (u.schedule n i) d q v :=
  h.of_fronts (t := u.schedule n i) rfl

theorem enable_results (hstate : (s.queue d q).state = .disabled) (hok : descOk ((List.range 8).map fun i => s.descWord d q i) = true) :
    Completes (.enable d q) s fun t => Commanded s t d q ((s.queue d q).ofDesc ((List.range 8).map fun i => s.descWord d q i)) ∧
      (s.now, Instr.queueWriteObserved d q) ∈ t.agenda := by
  have hws : ((List.range 8).map fun i => (s.endCommand d).descWord d q i) = (List.range 8).map fun i => s.descWord d q i := by
    simp only [State.descWord_endCommand]
  have hexec : exec (.enable d q) s = .next ((((s.endCommand d).modQueue d q
      (·.ofDesc ((List.range 8).map fun i => s.descWord d q i))).putDesc d q).schedule s.now (.queueWriteObserved d q)) := by
    show execEnable d q s = _
    unfold execEnable
    dsimp only
    rw [State.queue_endCommand, hws, hstate, hok]
    rfl
  exact ⟨_, hexec, (((Commanded.endCommand s d q).modQueue _).putDesc).schedule _ _, (State.mem_schedule _ _ _ _).2 (.inl rfl)⟩

/-- A command that the state of the queue does not take ends without effect. -/
theorem enable_refused (h : (s.queue d q).state ≠ .disabled ∨ descOk ((List.range 8).map fun i => s.descWord d q i) = false) :
    exec (.enable d q) s = .next (s.endCommand d) := by
  have hws : ((List.range 8).map fun i => (s.endCommand d).descWord d q i) = (List.range 8).map fun i => s.descWord d q i := by
    simp only [State.descWord_endCommand]
  have hno : ((s.queue d q).state == .disabled && descOk ((List.range 8).map fun i => s.descWord d q i)) = false := by
    obtain h | h := h
    · rw [beq_eq_false_iff_ne.2 h, Bool.false_and]
    · rw [h, Bool.and_false]
  show execEnable d q s = _
  simp only [execEnable, State.queue_endCommand, hws, hno, Bool.false_eq_true, if_false]


/-! #### A packet that entered a buffer ends (R242) -/

/-- The check of an entering packet leaves the state alone, or ends the packet. -/
theorem State.checkEntering_cases (s : State) (d q id : Nat) :
    s.checkEntering d q (some id) = s ∨
      s.checkEntering d q (some id) = (s.setIssued d q id fun e => { e with stage := 1 }).finishPacket d q id 0 := by
  unfold State.checkEntering
  dsimp only
  split
  · split
    · exact .inr rfl
    · exact .inl rfl
  · exact .inl rfl

/-- A packet that entered its buffers ends once nothing of them is left. -/
theorem State.checkEntering_ends {e : Issued} (hfind : (s.queue d q).find e.packet.id = some e) (henters : e.packet.enters = true)
    (hstage : e.stage = 0) (hlook : (s.queue d q).look = []) (hstack : (s.queue d q).stack = [])
    (hkids : ∀ x ∈ (s.queue d q).issued, x.packet.parent ≠ some e.packet.id) :
    s.checkEntering d q (some e.packet.id) =
      (s.setIssued d q e.packet.id fun e => { e with stage := 1 }).finishPacket d q e.packet.id 0 := by
  have hnone : ((s.queue d q).issued.any fun x => x.packet.parent == some e.packet.id) = false :=
    List.any_eq_false.2 fun x hx h => hkids x hx (eq_of_beq h)
  unfold State.checkEntering
  simp only [hfind, henters, hstage, hlook, hstack, hnone]
  rfl

/-- What the packets of a queue still show while entering packets end: the queue but for the stages of its packets. -/
def Queue.unstaged (u : Queue) : Queue × List Packet := ({ u with issued := [] }, u.issued.map (·.packet))

theorem Queue.unstaged_setIssued (u : Queue) (id n : Nat) : (u.setIssued id fun e => { e with stage := n }).unstaged = u.unstaged := by
  simp only [Queue.unstaged, Queue.setIssued, List.map_map, Prod.mk.injEq, true_and]
  refine List.map_congr_left fun e _ => ?_
  simp only [Function.comp_apply]
  split <;> rfl

theorem Queue.find_setIssued_ne (u : Queue) {id i : Nat} (h : i ≠ id) {f : Issued → Issued} (hf : ∀ e, (f e).packet = e.packet) :
    (u.setIssued i f).find id = u.find id := by
  have hp : ∀ e : Issued, ((if e.packet.id == i then f e else e).packet.id == id) = (e.packet.id == id) := fun e => by
    split
    · rw [hf]
    · rfl
  have hfun : ∀ e : Issued, u.find id = some e → (if e.packet.id == i then f e else e) = e := fun e he => by
    have hid : e.packet.id = id := eq_of_beq (List.find?_some (p := fun e : Issued => e.packet.id == id) he)
    rw [if_neg (by simpa using fun hi => h (hi.symm.trans hid))]
  unfold Queue.find Queue.setIssued at *
  simp only [List.find?_map, Function.comp_def, hp]
  cases hu : u.issued.find? fun e => e.packet.id == id with
  | none => rfl
  | some e => exact congrArg some (hfun e hu)

theorem State.unstaged_checkEntering (s : State) (d q id : Nat) :
    ((s.checkEntering d q (some id)).queue d q).unstaged = (s.queue d q).unstaged := by
  obtain h | h := s.checkEntering_cases d q id <;> rw [h]
  show ((s.setIssued d q id fun e => { e with stage := 1 }).queue d q).unstaged = _
  rw [State.setIssued, State.queue_modQueue, Queue.unstaged_setIssued]

theorem State.cmd_checkEntering (s : State) (d q id : Nat) : ((s.checkEntering d q (some id)).fe d).cmd = (s.fe d).cmd := by
  obtain h | h := s.checkEntering_cases d q id <;> rw [h]
  exact s.cmd_modQueue d q _

theorem State.mem_checkEntering (s : State) (d q id : Nat) {x : Nat × Instr} (h : x ∈ s.agenda) :
    x ∈ (s.checkEntering d q (some id)).agenda := by
  obtain hc | hc := s.checkEntering_cases d q id <;> rw [hc]
  · exact h
  · exact (State.mem_schedule _ _ _ _).2 (.inr h)

theorem State.now_checkEntering (s : State) (d q id : Nat) : (s.checkEntering d q (some id)).now = s.now := by
  obtain h | h := s.checkEntering_cases d q id <;> rw [h]
  rfl

/-- The queue takes nothing more, nothing that has issued lies in the buffers of a packet, and the packet has not ended. -/
structure Emptied (s : State) (d q : Nat) (e : Issued) (n : Nat) : Prop where
  find : (s.queue d q).find e.packet.id = some e
  look : (s.queue d q).look = []
  stack : (s.queue d q).stack = []
  kids : ∀ x ∈ (s.queue d q).issued, x.packet.parent ≠ some e.packet.id
  now : s.now = n

/-- What one check does to a packet of an emptied queue: its own check ends it, and that of another leaves it as it was. -/
theorem Emptied.checkEntering {e : Issued} {n : Nat} (h : Emptied s d q e n) (henters : e.packet.enters = true) (hstage : e.stage = 0)
    (i : Nat) :
    if i = e.packet.id then (n, Instr.packetComplete d q e.packet.id 0) ∈ (s.checkEntering d q (some i)).agenda
    else Emptied (s.checkEntering d q (some i)) d q e n := by
  split
  next hi =>
    rw [hi, s.checkEntering_ends h.find henters hstage h.look h.stack h.kids, ← h.now]
    exact State.donePacket_finishPacket (s.setIssued d q e.packet.id _) d q e.packet.id 0
  next hi =>
    have hun := s.unstaged_checkEntering d q i
    have hqueue := congrArg (fun x : Queue × List Packet => (x.1.look, x.1.stack)) hun
    refine ⟨?_, (congrArg Prod.fst hqueue).trans h.look, (congrArg Prod.snd hqueue).trans h.stack, fun x hx => ?_,
      (s.now_checkEntering d q i).trans h.now⟩
    · obtain hc | hc := s.checkEntering_cases d q i <;> rw [hc]
      · exact h.find
      · show ((s.setIssued d q i fun e => { e with stage := 1 }).queue d q).find e.packet.id = some e
        rw [State.setIssued, State.queue_modQueue, Queue.find_setIssued_ne (f := fun e => { e with stage := 1 }) _ hi fun _ => rfl, h.find]
    · have hmem : x.packet ∈ (s.queue d q).issued.map (·.packet) := by
        rw [← show _ = (s.queue d q).issued.map (·.packet) from congrArg Prod.snd hun]
        exact List.mem_map_of_mem hx
      obtain ⟨y, hy, hyx⟩ := List.mem_map.1 hmem
      rw [← hyx]
      exact h.kids y hy

/-- The checks of a list of packets end each of them whose buffers are empty. -/
theorem Emptied.foldl_checkEntering {e : Issued} {n : Nat} (h : Emptied s d q e n) (henters : e.packet.enters = true)
    (hstage : e.stage = 0) {l : List Issued} (he : e ∈ l) :
    (n, Instr.packetComplete d q e.packet.id 0) ∈ (l.foldl (fun s e => s.checkEntering d q (some e.packet.id)) s).agenda := by
  refine foldl_establishes_under (a := e) (f := fun s e => s.checkEntering d q (some e.packet.id))
    (P := fun s : State => (n, Instr.packetComplete d q e.packet.id 0) ∈ s.agenda)
    (I := fun s : State => (n, Instr.packetComplete d q e.packet.id 0) ∈ s.agenda ∨ Emptied s d q e n) ?_
    (fun s x _ hp => s.mem_checkEntering d q _ hp) ?_ he (.inr h)
  · rintro s (hp | hi)
    · exact s.mem_checkEntering d q _ hp
    · have := hi.checkEntering henters hstage e.packet.id
      rwa [if_pos rfl] at this
  · rintro s x (hp | hi)
    · exact .inl (s.mem_checkEntering d q _ hp)
    · have := hi.checkEntering henters hstage x.packet.id
      split at this
      · exact .inl this
      · exact .inr this

/-- The queue of a DISABLE: it takes nothing more, and what it has issued stands. -/
def Queue.halted (u : Queue) : Queue := { u with state := .disabled, look := [], stack := [], stopped := false }

theorem disable_results (hstate : (s.queue d q).state ≠ .disabled) :
    Completes (.disable d q) s fun t => (t.fe d).cmd = (s.fe d).cmd &&& 0xFFFF#64 ∧
      (t.queue d q).unstaged = (s.queue d q).halted.unstaged ∧
      ∀ e ∈ (s.queue d q).issued, (s.queue d q).find e.packet.id = some e → e.packet.enters = true → e.stage = 0 →
        (∀ x ∈ (s.queue d q).issued, x.packet.parent ≠ some e.packet.id) → DonePacket s t d q e.packet.id 0 := by
  generalize hu : (((s.endCommand d).modQueue d q Queue.halted).putDesc d q) = u
  have hcom : Commanded s u d q (s.queue d q).halted := hu ▸ ((Commanded.endCommand s d q).modQueue Queue.halted).putDesc
  have hnow : u.now = s.now := by
    rw [← hu, State.now_of_fronts (State.fronts_putDesc _ d q)]
    rfl
  have hexec : exec (.disable d q) s = .next (((s.queue d q).issued.filter (·.packet.enters)).foldl
      (fun s e => s.checkEntering d q (some e.packet.id)) u) := by
    show execDisable d q s = _
    unfold execDisable
    dsimp only
    rw [State.queue_endCommand, beq_eq_false_iff_ne.2 hstate, ← hu]
    rfl
  refine ⟨_, hexec, ?_, ?_, fun e he hfind henters hstage hkids => ?_⟩
  · rw [foldl_keeps (fun t : State => (t.fe d).cmd) (fun t e => t.cmd_checkEntering d q _), hcom.cmd]
  · rw [foldl_keeps (fun t : State => (t.queue d q).unstaged) (fun t e => t.unstaged_checkEntering d q _), hcom.queue]
  · refine Emptied.foldl_checkEntering ⟨?_, ?_, ?_, ?_, hnow⟩ henters hstage (List.mem_filter.2 ⟨he, henters⟩)
    · rw [hcom.queue]
      exact hfind
    · rw [hcom.queue]
      rfl
    · rw [hcom.queue]
      rfl
    · rw [hcom.queue]
      exact hkids

/-! #### RESET, SUSPEND and RESUME -/

theorem Commanded.sweep {u : State} {v : Queue} (h : Commanded s u d q v) (w : Queue) (a : Int) (n k : Nat) :
    Commanded s (State.sweep d w a n k u) d q v := h.of_fronts (State.fronts_sweep d w a n k u)

theorem Commanded.pollWrite {u : State} {v : Queue} (h : Commanded s u d q v) : Commanded s (u.pollWrite d q) d q v :=
  h.of_fronts (u.fronts_pollWrite d q)

/-- The queue of a RESET, with WRITE at `w`. -/
def Queue.restarted (u : Queue) (w : Nat) : Queue :=
  { u with state := .active, abortVal := 0, read := w, seen := w, ahead := w, look := [], stack := [], stopped := false }

theorem reset_results (hstate : (s.queue d q).state = .aborted) :
    Completes (.reset d q) s fun t => Commanded s t d q ((s.queue d q).restarted (s.descWord d q 2).toNat) ∧
      ∃ at_, (at_, Instr.queueWriteObserved d q) ∈ t.agenda := by
  have hexec : exec (.reset d q) s = .next ((((State.sweep d (s.queue d q) (s.queue d q).abortVal
      ((s.queue d q).unread (s.descWord d q 2).toNat) (s.queue d q).ahead (s.endCommand d)).modQueue d q
        (·.restarted (s.descWord d q 2).toNat)).putDesc d q).pollWrite d q) := by
    show execReset d q s = _
    unfold execReset
    dsimp only
    rw [State.queue_endCommand, State.descWord_endCommand, hstate]
    rfl
  have hswept := (Commanded.endCommand s d q).sweep (s.queue d q) (s.queue d q).abortVal
    ((s.queue d q).unread (s.descWord d q 2).toNat) (s.queue d q).ahead
  exact ⟨_, hexec, (hswept.modQueue (·.restarted (s.descWord d q 2).toNat)).putDesc.pollWrite, State.pollWrite_due _ d q⟩

theorem reset_refused (h : (s.queue d q).state ≠ .aborted) : exec (.reset d q) s = .next (s.endCommand d) := by
  show execReset d q s = _
  unfold execReset
  dsimp only
  rw [State.queue_endCommand, beq_eq_false_iff_ne.2 h]
  rfl

theorem suspend_results (hstate : (s.queue d q).state = .active) :
    Completes (.suspend d q) s fun t => Commanded s t d q { s.queue d q with state := .suspended } := by
  have hexec : exec (.suspend d q) s = .next (((s.endCommand d).modQueue d q fun u => { u with state := .suspended }).putDesc d q) := by
    show execSuspend d q s = _
    unfold execSuspend State.suspendQueue
    rw [State.queue_endCommand, hstate]
    rfl
  exact ⟨_, hexec, ((Commanded.endCommand s d q).modQueue _).putDesc⟩

theorem suspend_refused (h : (s.queue d q).state ≠ .active) : exec (.suspend d q) s = .next (s.endCommand d) := by
  show execSuspend d q s = _
  unfold execSuspend State.suspendQueue
  rw [State.queue_endCommand, beq_eq_false_iff_ne.2 h]
  rfl

/-- Of the BARRIERs that wait again, each that was not due is scheduled now. -/
def State.rereads (d q : Nat) (due : Nat → Bool) (l : List Issued) (s : State) : State :=
  l.foldl (fun s e => if due e.packet.id then s else s.schedule s.now (.barrierReread d q e.packet.id)) s

theorem State.fronts_rereads (due : Nat → Bool) (l : List Issued) (s : State) : (State.rereads d q due l s).fronts = s.fronts :=
  foldl_keeps State.fronts (fun s e => by
    split <;> rfl) l s

theorem State.mem_rereads (due : Nat → Bool) (l : List Issued) (s : State) {x : Nat × Instr} (h : x ∈ s.agenda) :
    x ∈ (State.rereads d q due l s).agenda :=
  List.foldlRecOn (motive := fun t : State => x ∈ t.agenda) l _ h fun t ht e _ => by
    split
    · exact ht
    · exact (State.mem_schedule _ _ _ _).2 (.inr ht)

theorem State.rereads_due (due : Nat → Bool) {l : List Issued} {e : Issued} (he : e ∈ l) (hnot : due e.packet.id = false) (s : State) :
    ∃ at_, (at_, Instr.barrierReread d q e.packet.id) ∈ (State.rereads d q due l s).agenda :=
  foldl_establishes (fun (e : Issued) (s : State) => due e.packet.id = false → ∃ at_, (at_, Instr.barrierReread d q e.packet.id) ∈ s.agenda)
    (fun s e hn => by
      rw [hn]
      exact ⟨_, (State.mem_schedule _ _ _ _).2 (.inl rfl)⟩)
    (fun s a b h hn => by
      obtain ⟨at_, hat⟩ := h hn
      refine ⟨at_, ?_⟩
      split
      · exact hat
      · exact (State.mem_schedule _ _ _ _).2 (.inr hat)) he s hnot

theorem resume_results (hstate : (s.queue d q).state = .suspended) :
    Completes (.resume d q) s fun t => Commanded s t d q { s.queue d q with state := .active } ∧
      (s.now, Instr.queueWriteObserved d q) ∈ t.agenda ∧
      ∀ e ∈ (s.queue d q).issued, e.packet.type = 3 → e.stage = 0 → e.packet.bad = none →
        ∃ at_, (at_, Instr.barrierReread d q e.packet.id) ∈ t.agenda := by
  generalize hv : ((((s.endCommand d).modQueue d q fun u => { u with state := .active }).putDesc d q).schedule s.now
    (.queueWriteObserved d q)) = v
  have hcom : Commanded s v d q { s.queue d q with state := .active } :=
    hv ▸ (((Commanded.endCommand s d q).modQueue _).putDesc).schedule _ _
  have hpoll : (s.now, Instr.queueWriteObserved d q) ∈ v.agenda := hv ▸ (State.mem_schedule _ _ _ _).2 (.inl rfl)
  generalize hdue : (fun id => v.agenda.any fun e => e.2 == Instr.barrierReread d q id) = due
  generalize hl : ((s.queue d q).issued.filter fun e => e.packet.type == 3 && e.stage == 0 && e.packet.bad.isNone) = l
  have hexec : exec (.resume d q) s = .next (State.rereads d q due l v) := by
    show execResume d q s = _
    unfold execResume State.resumeQueue
    dsimp only
    rw [State.queue_endCommand, hstate, ← hdue, ← hl, ← hv]
    rfl
  refine ⟨_, hexec, hcom.of_fronts (State.fronts_rereads ..), State.mem_rereads _ _ _ hpoll, fun e he htype hstage hbad => ?_⟩
  have hmem : e ∈ l := hl ▸ List.mem_filter.2 ⟨he, by rw [htype, hstage, hbad]; rfl⟩
  cases hd : due e.packet.id with
  | false => exact State.rereads_due due hmem hd v
  | true =>
    obtain ⟨x, hx, hi⟩ := List.any_eq_true.1 ((congrFun hdue e.packet.id).trans hd)
    exact ⟨x.1, State.mem_rereads _ _ _ (eq_of_beq hi ▸ hx)⟩

theorem resume_refused (h : (s.queue d q).state ≠ .suspended) : exec (.resume d q) s = .next (s.endCommand d) := by
  show execResume d q s = _
  unfold execResume State.resumeQueue
  dsimp only
  rw [State.queue_endCommand, beq_eq_false_iff_ne.2 h]
  rfl

/-- A command without effect: BUSY is clear, and the queue and memory stand. -/
theorem completes_endCommand {i : Instr} (h : exec i s = .next (s.endCommand d)) :
    Completes i s fun t => (t.fe d).cmd = (s.fe d).cmd &&& 0xFFFF#64 ∧ t.queue d q = s.queue d q ∧ t.phys = s.phys :=
  ⟨_, h, s.cmd_endCommand d, s.queue_endCommand d q, rfl⟩

/-! #### WRITE and the doorbell (R239, R275) -/

theorem writeObserved_disabled (h : (s.queue d q).state = .disabled) : exec (.queueWriteObserved d q) s = .next s := by
  show execQueueWriteObserved d q s = _
  unfold execQueueWriteObserved
  dsimp only
  rw [h]

/-- A queue whose WRITE moves, and that looks again. -/
def State.seeWrite (s : State) (d q : Nat) : State :=
  (s.modQueue d q fun u => { u with seen := (s.descWord d q 2).toNat }).pollWrite d q

theorem State.queue_pollWrite (s : State) (d q : Nat) : (s.pollWrite d q).queue d q = s.queue d q :=
  State.queue_of_fronts (s.fronts_pollWrite d q) d q

theorem State.queue_seeWrite (s : State) (d q : Nat) :
    (s.seeWrite d q).queue d q = { s.queue d q with seen := (s.descWord d q 2).toNat } := by
  rw [State.seeWrite, State.queue_pollWrite, State.queue_modQueue]

theorem State.phys_seeWrite (s : State) (d q : Nat) : (s.seeWrite d q).phys = s.phys := State.phys_pollWrite _ d q

theorem writeObserved_seen (h : (s.queue d q).state = .suspended ∨
      ((s.queue d q).state = .active ∧ packetCount (s.descWord d q 2).toNat (s.queue d q).read ≤ 2 ^ (s.queue d q).log2n)) :
    exec (.queueWriteObserved d q) s = .next (s.seeWrite d q) := by
  show execQueueWriteObserved d q s = _
  unfold execQueueWriteObserved
  dsimp only
  obtain h | ⟨h, hle⟩ := h
  · rw [h]
    rfl
  · rw [h, if_neg (not_lt.2 hle)]
    rfl

/-- The queue of an overrun of its ring, with WRITE at `w`. -/
def Queue.overrun (u : Queue) (w : Nat) : Queue :=
  { u with
    state := .aborted, abortVal := -2, look := [], stack := [], stopped := false
    issued := u.issued.filter fun e => !e.packet.enters, ahead := w, seen := w }

theorem writeObserved_overrun (h : (s.queue d q).state = .active)
    (hover : 2 ^ (s.queue d q).log2n < packetCount (s.descWord d q 2).toNat (s.queue d q).read) :
    Completes (.queueWriteObserved d q) s fun t => t.queue d q = (s.queue d q).overrun (s.descWord d q 2).toNat := by
  have hexec : exec (.queueWriteObserved d q) s =
      .next (((s.modQueue d q (·.overrun (s.descWord d q 2).toNat)).putDesc d q).pollWrite d q) := by
    show execQueueWriteObserved d q s = _
    unfold execQueueWriteObserved
    dsimp only
    rw [h, if_pos hover]
    rfl
  refine ⟨_, hexec, ?_⟩
  show State.queue _ d q = _
  rw [State.queue_pollWrite, State.queue_of_fronts (State.fronts_putDesc _ d q), State.queue_modQueue]

theorem writeObserved_aborted (h : (s.queue d q).state = .aborted) :
    exec (.queueWriteObserved d q) s = .next ((State.sweep d (s.queue d q) (s.queue d q).abortVal
      ((s.queue d q).unread (s.descWord d q 2).toNat) (s.queue d q).ahead
      (s.modQueue d q fun u => { u with ahead := (s.descWord d q 2).toNat, seen := (s.descWord d q 2).toNat })).pollWrite d q) := by
  show execQueueWriteObserved d q s = _
  unfold execQueueWriteObserved
  dsimp only
  rw [h]

theorem doorbell_rings {bytes : Nat} {value : W32} (hd : d < 4) (hbytes : bytes = 4) (hvalue : value.toNat < 256)
    (hphase : s.phase = .running) : Completes (.doorbellWrite d bytes value) s fun t =>
      ∃ at_, s.now < at_ ∧ at_ ≤ s.now + tickTime 500 ∧ (at_, Instr.queueWriteObserved d value.toNat) ∈ t.agenda ∧ t.fes = s.fes := by
  have hexec : exec (.doorbellWrite d bytes value) s =
      .next (s.draw1.2.schedule (s.now + tickTime (1 + s.draw1.1 % 500)) (.queueWriteObserved d value.toNat)) := by
    show execDoorbellWrite d bytes value s = _
    simp only [execDoorbellWrite, hd, hbytes, hvalue, hphase]
    rfl
  refine ⟨_, hexec, _, ?_, ?_, (State.mem_schedule _ _ _ _).2 (.inl rfl), rfl⟩
  · simp only [tickTime, tickLen]
    omega
  · simp only [tickTime, tickLen]
    omega

theorem doorbell_ignored {bytes : Nat} {value : W32} (h : 4 ≤ d ∨ bytes ≠ 4 ∨ 256 ≤ value.toNat ∨ s.phase ≠ .running) :
    exec (.doorbellWrite d bytes value) s = .next s := by
  have hno : (bytes = 4 ∧ value.toNat < 256 ∧ d < 4 ∧ s.phase = .running) → False := fun ⟨hb, hv, hd, hp⟩ => by
    obtain h | h | h | h := h
    · exact absurd hd (Nat.not_lt.2 h)
    · exact h hb
    · exact absurd hv (Nat.not_lt.2 h)
    · exact h hp
  show execDoorbellWrite d bytes value s = _
  unfold execDoorbellWrite
  rw [if_neg]
  rintro hall
  simp only [Bool.and_eq_true, decide_eq_true_eq, beq_iff_eq] at hall
  exact hno ⟨hall.1.1.1, hall.1.1.2, hall.1.2, hall.2⟩

/-- Settles O46. -/
theorem queueCommands : Obligations.QueueCommands := by
  unfold Obligations.QueueCommands
  intro s d q
  refine ⟨fun hstate hok => ?enable, fun h => completes_endCommand (enable_refused h), fun h => ?disable, fun h => ?reset,
    fun h => completes_endCommand (reset_refused h), fun h => ?suspend,
    fun h => completes_endCommand (suspend_refused h), fun h => ?resume, fun h => completes_endCommand (resume_refused h),
    fun h => ⟨s, writeObserved_disabled h, rfl⟩, fun h => ?seenSuspended, fun h hle => ?seenActive, fun h hover => ?overrun, fun h => ?aborted,
    fun bytes value => ⟨doorbell_rings, fun h => ⟨s, doorbell_ignored h, rfl⟩⟩⟩
  case enable =>
    obtain ⟨t, hexec, hcom, hpoll⟩ := enable_results hstate hok
    exact ⟨t, hexec, hcom.cmd, hcom.queue, by rw [hcom.queue]; rfl, by rw [hcom.queue]; rfl, hpoll⟩
  case disable =>
    obtain ⟨t, hexec, hcmd, hqueue, hdone⟩ := disable_results h
    have hstate := congrArg (fun x : Queue × List Packet => x.1.state) hqueue
    have hlook := congrArg (fun x : Queue × List Packet => x.1.look) hqueue
    have hstack := congrArg (fun x : Queue × List Packet => x.1.stack) hqueue
    have hread := congrArg (fun x : Queue × List Packet => x.1.read) hqueue
    exact ⟨t, hexec, hcmd, hstate, hlook, hstack, hread,
      congrArg Prod.snd hqueue, hdone⟩
  case reset =>
    obtain ⟨t, hexec, hcom, hpoll⟩ := reset_results h
    exact ⟨t, hexec, hcom.cmd, by rw [hcom.queue]; rfl, by rw [hcom.queue]; rfl, by rw [hcom.queue]; rfl, by rw [hcom.queue]; rfl, hpoll⟩
  case suspend =>
    obtain ⟨t, hexec, hcom⟩ := suspend_results h
    exact ⟨t, hexec, hcom.cmd, hcom.queue⟩
  case resume =>
    obtain ⟨t, hexec, hcom, hpoll, hwaits⟩ := resume_results h
    exact ⟨t, hexec, hcom.cmd, hcom.queue, hpoll, hwaits⟩
  case seenSuspended => exact ⟨_, writeObserved_seen (.inl h), s.queue_seeWrite d q, State.pollWrite_due _ d q⟩
  case seenActive =>
    exact ⟨_, writeObserved_seen (.inr ⟨h, hle⟩), s.queue_seeWrite d q, s.phys_seeWrite d q, State.pollWrite_due _ d q⟩
  case overrun =>
    obtain ⟨t, hexec, hqueue⟩ := writeObserved_overrun h hover
    exact ⟨t, hexec, by rw [hqueue]; rfl, by rw [hqueue]; rfl, by rw [hqueue]; rfl, by rw [hqueue]; rfl⟩
  case aborted =>
    refine ⟨_, writeObserved_aborted h, ?_, ?_, State.phys_pollWrite _ d q⟩ <;>
      rw [State.queue_pollWrite, State.queue_of_fronts (State.fronts_sweep ..), State.queue_modQueue]
    exact h

end

end
end Sys2Proof.Machine
end

section
-- One proof after another, as in the sections before this one.
set_option Elab.async false

namespace Sys2Proof.Machine

section
open Sys2Proof.Claims

/-! ### The issue of packets (R240-R242, R247) -/

section
variable {s u : State} {d q : Nat} {p : Packet}

/-! #### The work of each packet -/

def joinWork (d q : Nat) (p : Packet) (s : State) : State :=
  (s.modQueue d q fun u => { u with stopped := false }).finishPacket d q p.id 0

def timestampWork (d q : Nat) (p : Packet) (s : State) : State :=
  let r := s.poke64 (s.queueSpace d (s.queue d q)) ((s.queue d q).va (p.word 2)) (word64 s.gtc)
  r.2.finishPacket d q p.id (if r.1 then 0 else -5)

def barrierWork (d q : Nat) (p : Packet) (s : State) : State :=
  (s.setIssued d q p.id fun e =>
    { e with waits := (List.range p.nwait).map fun i => (i, (s.queue d q).va (p.word (2 + i))) }).schedule s.now (.barrierReread d q p.id)

/-- The job of a COPY. -/
def copyJob (d q : Nat) (p : Packet) (s : State) : CopyJob :=
  ⟨(s.fe d).nextJob, q, p.id, (s.queue d q).va (p.word 2), (s.queue d q).va (p.word 3), (p.word 4).toNat, (s.queue d q).asid⟩

def copyWork (d q : Nat) (p : Packet) (s : State) : State :=
  let s1 := s.draw1.2
  (s1.modFe d fun f => { f with nextJob := f.nextJob + 1, jobs := f.jobs ++ [copyJob d q p s] }).schedule
    (s1.after (1 + (p.word 4).toNat / 64 + s.draw1.1)) (.copyComplete d (s.fe d).nextJob)

/-- The work of a COND whose predicate has been read. -/
def condWork (d q : Nat) (p : Packet) (b : Bool) (s : State) : State :=
  let len := (if b then p.word 4 else p.word 6).toNat
  if len = 0 then joinWork d q p s else s.enterBuffer d q p (if b then p.word 3 else p.word 5) len false

/-- A LOOP outside its body: it enters it while the predicate is true, and ends otherwise. -/
def loopStart (d q : Nat) (p : Packet) (b : Bool) (s : State) : State :=
  if b then s.enterBuffer d q p (p.word 3) (p.word 4).toNat true else joinWork d q p s

/-- The work of a LOOP whose predicate has been read. -/
def loopWork (d q : Nat) (p : Packet) (b : Bool) (s : State) : State :=
  match (s.queue d q).stack with
  | f :: fs =>
    if f.loop && f.packet == p.id then
      if b && ((p.word 5).toNat == 0 || f.count < (p.word 5).toNat) then
        s.modQueue d q fun u => { u with stopped := false, stack := { f with pos := 0, count := f.count + 1 } :: fs }
      else (s.modQueue d q fun u => { u with stopped := false, stack := fs }).finishPacket d q p.id 0
    else loopStart d q p b s
  | [] => loopStart d q p b s

/-- A packet reads its predicate, and fails with −5 when it cannot. -/
def predicated (work : Bool → State → State) (d q : Nat) (p : Packet) (s : State) : State :=
  match s.predicate d q p with
  | (none, s1) => s1.finishPacket d q p.id (-5)
  | (some b, s1) => work b s1

section
variable (s : State) (d q : Nat)

theorem exec_nopPacket : exec (.nopPacket d q) s = issuePacket d q (fun _ => []) (fun p s => s.finishPacket d q p.id 0) s := rfl
theorem exec_returnPacket : exec (.returnPacket d q) s = issuePacket d q (fun _ => []) (fun p s => s.finishPacket d q p.id 0) s := rfl
theorem exec_join : exec (.join d q) s = issuePacket d q (fun _ => []) (joinWork d q) s := rfl
theorem exec_callPacket : exec (.callPacket d q) s =
    issuePacket d q (fun p => [(p.word 2, .load)]) (fun p s => s.checkEntering d q (some p.id)) s := rfl
theorem exec_timestamp : exec (.timestamp d q) s = issuePacket d q (fun p => [(p.word 2, .store)]) (timestampWork d q) s := rfl
theorem exec_signal : exec (.signal d q) s = issuePacket d q signalPtrs (fun p s => s.finishPacket d q p.id 0) s := rfl
theorem exec_launch : exec (.launch d q) s = issuePacket d q launchPtrs (launchWork d q) s := rfl
theorem exec_copy : exec (.copy d q) s = issuePacket d q copyPtrs (copyWork d q) s := rfl

theorem exec_barrier : exec (.barrier d q) s = issuePacket d q waitPtrs (barrierWork d q) s := by
  show execBarrier d q s = _
  unfold execBarrier barrierWork waitPtrs
  simp only [List.map_map, Function.comp_def]

theorem exec_cond : exec (.cond d q) s = issuePacket d q condPtrs (fun p => predicated (condWork d q p) d q p) s := by
  show execCond d q s = _
  unfold execCond condPtrs
  congr 1
  funext p s
  unfold predicated
  generalize s.predicate d q p = r
  obtain ⟨_ | _ | _, s1⟩ := r <;> rfl

theorem exec_loop : exec (.loop d q) s = issuePacket d q loopPtrs (fun p => predicated (loopWork d q p) d q p) s := rfl

end

/-- Every packet instruction issues the head packet of its queue. -/
theorem exec_packets {i : Instr} (hi : i ∈ packets d q) (s : State) : ∃ ptrs work, exec i s = issuePacket d q ptrs work s := by
  simp only [packets, idlePackets, List.cons_append, List.nil_append, List.mem_cons, List.not_mem_nil, or_false] at hi
  obtain rfl | rfl | rfl | rfl | rfl | rfl | rfl | rfl | rfl | rfl | rfl := hi
  exacts [⟨_, _, exec_nopPacket s d q⟩, ⟨_, _, exec_returnPacket s d q⟩, ⟨_, _, exec_join s d q⟩, ⟨_, _, exec_callPacket s d q⟩,
    ⟨_, _, exec_timestamp s d q⟩, ⟨_, _, exec_signal s d q⟩, ⟨_, _, exec_cond s d q⟩, ⟨_, _, exec_loop s d q⟩, ⟨_, _, exec_barrier s d q⟩,
    ⟨_, _, exec_copy s d q⟩, ⟨_, _, exec_launch s d q⟩]

/-! #### Packets that do not issue, or are malformed -/

theorem issuePacket_of_not_canIssue {ptrs : Packet → List (Word × AccessKind)} {work : Packet → State → State}
    (h : (s.queue d q).canIssue = false) : issuePacket d q ptrs work s = .next s := by
  rw [issuePacket, h]
  rfl

/-- The queue behind a ring packet without a SIG that issues for the first time. -/
def Queue.behind (u : Queue) (p : Packet) (r : List Packet) : Queue :=
  { u with look := r, issued := u.issued ++ [⟨p, none, [], 0⟩], read := packetNext u.read }

theorem Queue.find_behind (v : Queue) {r : List Packet} (h : v.find p.id = none) : (v.behind p r).find p.id = some ⟨p, none, [], 0⟩ := by
  unfold Queue.find at *
  rw [Queue.behind, List.find?_append, h]
  simp

theorem State.queue_modFe (s : State) (d q : Nat) (f : FrontEnd → FrontEnd) (hf : ∀ e, (f e).queues = e.queues) :
    (s.modFe d f).queue d q = s.queue d q := by
  simp only [State.queue, State.modFe_fes, tgetD_tmod_self, hf]

/-- What the front end has become when such a packet has issued. -/
structure Behind (s t : State) (d q : Nat) (p : Packet) (r : List Packet) : Prop where
  queue : t.queue d q = (s.queue d q).behind p r
  next : (t.fe d).nextIssue = s.now + tickTime 8
  now : t.now = s.now

theorem State.issueHead_behind {r : List Packet} (hlook : (s.queue d q).look = p :: r) (hsig : p.word 1 = 0) (hring : p.parent = none)
    (hfirst : (s.queue d q).find p.id = none) : ∃ t, s.issueHead d q = some (p, t) ∧ Behind s t d q p r := by
  generalize hv : (s.modQueue d q (·.behind p r)).modFe d
    (fun e => { e with nextIssue := s.now + tickTime 8, lastQueue := tset e.lastQueue (s.queue d q).prio q }) = v
  have hhead : s.issueHead d q = some (p, v.putDesc d q) := by
    unfold State.issueHead
    dsimp only
    rw [hlook, ← hv]
    dsimp only
    rw [hfirst, hring, hsig]
    rfl
  refine ⟨_, hhead, ?_, ?_, ?_⟩
  · rw [State.queue_of_fronts (v.fronts_putDesc d q), ← hv, State.queue_modFe
      (f := fun e => { e with nextIssue := s.now + tickTime 8, lastQueue := tset e.lastQueue (s.queue d q).prio q }) _ _ _ (fun _ => rfl),
      State.queue_modQueue]
  · rw [State.fe_of_fronts (v.fronts_putDesc d q), ← hv, State.fe_modFe]
  · rw [State.now_of_fronts (v.fronts_putDesc d q), ← hv]
    rfl

/-- A malformed packet, or one that could not be read, issues and completes with its value (R241). -/
theorem issuePacket_bad {ptrs : Packet → List (Word × AccessKind)} {work : Packet → State → State} {r : List Packet} {v : Int}
    (hlook : (s.queue d q).look = p :: r) (hcan : (s.queue d q).canIssue = true) (hbad : p.bad = some v) (hsig : p.word 1 = 0)
    (hring : p.parent = none) (hfirst : (s.queue d q).find p.id = none) :
    ∃ t, issuePacket d q ptrs work s = .next (t.finishPacket d q p.id v) ∧ Behind s t d q p r := by
  obtain ⟨t, hhead, hbehind⟩ := State.issueHead_behind hlook hsig hring hfirst
  refine ⟨t, ?_, hbehind⟩
  have hfind := (s.queue d q).find_behind (r := r) hfirst
  unfold issuePacket
  rw [hcan, hhead]
  dsimp only
  rw [hbehind.queue, hfind, hbad]
  rfl

theorem packet_bad_completes {i : Instr} (hi : i ∈ packets d q) {r : List Packet} {v : Int} (hlook : (s.queue d q).look = p :: r)
    (hcan : (s.queue d q).canIssue = true) (hbad : p.bad = some v) (hsig : p.word 1 = 0) (hring : p.parent = none)
    (hfirst : (s.queue d q).find p.id = none) : Completes i s fun t =>
      (t.queue d q).look = r ∧ (t.queue d q).read = packetNext (s.queue d q).read ∧ (t.fe d).nextIssue = s.now + tickTime 8 ∧
        DonePacket s t d q p.id v := by
  obtain ⟨ptrs, work, hexec⟩ := exec_packets hi s
  obtain ⟨t, hissue, hqueue, hnext, hnow⟩ := issuePacket_bad (ptrs := ptrs) (work := work) hlook hcan hbad hsig hring hfirst
  have hfin : (t.finishPacket d q p.id v).queue d q = (s.queue d q).behind p r := hqueue
  refine ⟨_, hexec.trans hissue, by rw [hfin]; rfl, by rw [hfin]; rfl, hnext, ?_⟩
  rw [DonePacket, ← hnow]
  exact t.donePacket_finishPacket d q p.id v

/-- A packet that issues does its work. -/
theorem work_completes {i : Instr} {ptrs : Packet → List (Word × AccessKind)} {work : Packet → State → State} {post : State → Prop}
    (h : Starts s d q ptrs p u) (hexec : exec i s = issuePacket d q ptrs work s) (hpost : post (work p u)) : Completes i s post :=
  ⟨_, hexec.trans (issuePacket_of_starts work h), hpost⟩

theorem resumes_joinWork (u : State) (d q : Nat) (p : Packet) : Resumes u (joinWork d q p u) d q := u.queue_modQueue d q _

theorem done_joinWork (u : State) (d q : Nat) (p : Packet) : DonePacket u (joinWork d q p u) d q p.id 0 :=
  (u.modQueue d q _).donePacket_finishPacket d q p.id 0

theorem idle_completes {i : Instr} (hi : i ∈ idlePackets d q) (h : Starts s d q (fun _ => []) p u) :
    Completes i s fun t => DonePacket u t d q p.id 0 ∧ t.phys = u.phys ∧ (i ≠ .join d q → t.queue d q = u.queue d q) ∧
      (i = .join d q → Resumes u t d q) := by
  simp only [idlePackets, List.mem_cons, List.not_mem_nil, or_false] at hi
  obtain rfl | rfl | rfl := hi
  · exact work_completes h (exec_nopPacket s d q) ⟨u.donePacket_finishPacket d q p.id 0, rfl, fun _ => rfl, fun h => nomatch h⟩
  · exact work_completes h (exec_returnPacket s d q) ⟨u.donePacket_finishPacket d q p.id 0, rfl, fun _ => rfl, fun h => nomatch h⟩
  · exact work_completes h (exec_join s d q) ⟨done_joinWork u d q p, rfl, fun h => absurd rfl h, fun _ => resumes_joinWork u d q p⟩

/-! #### BARRIER and COPY (R242, R244) -/

theorem Queue.find_setIssued_self {v : Queue} {id : Nat} {e : Issued} {f : Issued → Issued} (hf : ∀ e, (f e).packet = e.packet)
    (h : v.find id = some e) : (v.setIssued id f).find id = some (f e) := by
  have hp : ∀ e : Issued, ((if e.packet.id == id then f e else e).packet.id == id) = (e.packet.id == id) := fun e => by
    split
    · rw [hf]
    · rfl
  have hid : (e.packet.id == id) = true := List.find?_some (p := fun e : Issued => e.packet.id == id) h
  unfold Queue.find Queue.setIssued at *
  simp only [List.find?_map, Function.comp_def, hp, h, Option.map_some, hid, if_true]

theorem barrierWork_results (u : State) (d q : Nat) (p : Packet) : (u.now, Instr.barrierReread d q p.id) ∈ (barrierWork d q p u).agenda ∧
    ∀ e, (u.queue d q).find p.id = some e → ((barrierWork d q p u).queue d q).find p.id =
      some { e with waits := (List.range p.nwait).map fun i => (i, (u.queue d q).va (p.word (2 + i))) } := by
  refine ⟨(State.mem_schedule _ _ _ _).2 (.inl rfl), fun e he => ?_⟩
  show ((u.setIssued d q p.id _).queue d q).find p.id = _
  rw [State.setIssued, State.queue_modQueue]
  exact Queue.find_setIssued_self (fun _ => rfl) he

theorem copyWork_results (u : State) (d q : Nat) (p : Packet) : copyJob d q p u ∈ ((copyWork d q p u).fe d).jobs ∧
    ∃ at_, u.now < at_ ∧ (at_, Instr.copyComplete d (u.fe d).nextJob) ∈ (copyWork d q p u).agenda := by
  refine ⟨?_, u.now + cycleLen * (1 + (p.word 4).toNat / 64 + u.draw1.1), ?_, (State.mem_schedule _ _ _ _).2 (.inl rfl)⟩
  · show copyJob d q p u ∈ ((u.draw1.2.modFe d fun f =>
      { f with nextJob := f.nextJob + 1, jobs := f.jobs ++ [copyJob d q p u] }).fe d).jobs
    rw [State.fe_modFe]
    exact List.mem_append_right _ (List.mem_singleton_self _)
  · simp only [cycleLen]
    omega

/-! #### COND and LOOP (R242, R247) -/

theorem State.enterBuffer_entered {buf : Word} {len : Nat} {isLoop : Bool} (h : (u.queue d q).stack.length < 8) :
    ((u.enterBuffer d q p buf len isLoop).queue d q).stopped = false ∧
      ((u.enterBuffer d q p buf len isLoop).queue d q).stack = ⟨p.id, (u.queue d q).va buf, 0, len, 1, isLoop⟩ :: (u.queue d q).stack := by
  rw [State.enterBuffer, if_neg (Nat.not_le.2 h), State.queue_modQueue]
  exact ⟨rfl, rfl⟩

theorem State.enterBuffer_full {buf : Word} {len : Nat} {isLoop : Bool} (h : 8 ≤ (u.queue d q).stack.length) :
    u.enterBuffer d q p buf len isLoop = u.finishPacket d q p.id (-2) := by
  rw [State.enterBuffer, if_pos h]

theorem predicated_of_some {work : Bool → State → State} {b : Bool} (h : (u.predicate d q p).1 = some b) :
    predicated work d q p u = work b (u.predicate d q p).2 := by
  unfold predicated
  generalize u.predicate d q p = r at h ⊢
  obtain ⟨w, v⟩ := r
  obtain rfl : w = some b := h
  rfl

theorem cond_completes {b : Bool} {post : State → Prop} (h : Starts s d q condPtrs p u) (hb : (u.predicate d q p).1 = some b)
    (hpost : post (condWork d q p b (u.predicate d q p).2)) : Completes (.cond d q) s post :=
  work_completes h (exec_cond s d q) ((predicated_of_some hb).symm ▸ hpost)

theorem loop_completes {b : Bool} {post : State → Prop} (h : Starts s d q loopPtrs p u) (hb : (u.predicate d q p).1 = some b)
    (hpost : post (loopWork d q p b (u.predicate d q p).2)) : Completes (.loop d q) s post :=
  work_completes h (exec_loop s d q) ((predicated_of_some hb).symm ▸ hpost)

theorem condWork_empty {b : Bool} (h : (if b then p.word 4 else p.word 6).toNat = 0) : condWork d q p b u = joinWork d q p u := if_pos h

theorem condWork_enters {b : Bool} (h : 0 < (if b then p.word 4 else p.word 6).toNat) :
    condWork d q p b u = u.enterBuffer d q p (if b then p.word 3 else p.word 5) (if b then p.word 4 else p.word 6).toNat false :=
  if_neg (Nat.ne_of_gt h)

theorem loopWork_outside {b : Bool} (h : atLoop (u.queue d q) p = false) : loopWork d q p b u = loopStart d q p b u := by
  unfold loopWork
  unfold atLoop at h
  split
  next hstack =>
    rw [hstack] at h
    rw [if_neg (ne_true_of_eq_false h)]
  next => rfl

theorem loopWork_inside {b : Bool} {f : Frame} {fs : List Frame} (hstack : (u.queue d q).stack = f :: fs)
    (h : atLoop (u.queue d q) p = true) :
    loopWork d q p b u = if b && ((p.word 5).toNat == 0 || f.count < (p.word 5).toNat) then
      u.modQueue d q fun u => { u with stopped := false, stack := { f with pos := 0, count := f.count + 1 } :: fs }
    else (u.modQueue d q fun u => { u with stopped := false, stack := fs }).finishPacket d q p.id 0 := by
  unfold atLoop at h
  rw [hstack] at h
  unfold loopWork
  rw [hstack]
  exact if_pos h

/-- A LOOP goes round again. -/
theorem loopWork_again {f : Frame} {fs : List Frame} (hstack : (u.queue d q).stack = f :: fs) (h : atLoop (u.queue d q) p = true)
    (hmax : (p.word 5).toNat = 0 ∨ f.count < (p.word 5).toNat) :
    ((loopWork d q p true u).queue d q).stopped = false ∧
      ((loopWork d q p true u).queue d q).stack = { f with pos := 0, count := f.count + 1 } :: fs := by
  have hgo : (true && ((p.word 5).toNat == 0 || decide (f.count < (p.word 5).toNat))) = true := by
    simpa using hmax
  rw [loopWork_inside hstack h, if_pos hgo, State.queue_modQueue]
  exact ⟨rfl, rfl⟩

/-- A LOOP ends: its predicate is zero, or it has gone round as often as it may. -/
theorem loopWork_ends {b : Bool} {f : Frame} {fs : List Frame} (hstack : (u.queue d q).stack = f :: fs)
    (h : atLoop (u.queue d q) p = true) (hend : b = false ∨ ((p.word 5).toNat ≠ 0 ∧ (p.word 5).toNat ≤ f.count)) :
    ((loopWork d q p b u).queue d q).stack = fs ∧ DonePacket u (loopWork d q p b u) d q p.id 0 := by
  have hstop : (b && ((p.word 5).toNat == 0 || decide (f.count < (p.word 5).toNat))) = false := by
    obtain rfl | ⟨hne, hle⟩ := hend
    · rfl
    · rw [beq_eq_false_iff_ne.2 hne, decide_eq_false (Nat.not_lt.2 hle)]
      exact Bool.and_false b
  rw [loopWork_inside hstack h, if_neg (ne_true_of_eq_false hstop)]
  refine ⟨?_, (u.modQueue d q _).donePacket_finishPacket d q p.id 0⟩
  show ((u.modQueue d q _).queue d q).stack = fs
  rw [State.queue_modQueue]

end

/-- Settles O47. -/
theorem packetsIssue : Obligations.PacketsIssue := by
  unfold Obligations.PacketsIssue
  intro s d q
  refine ⟨fun i hi hno => ?_, fun i hi p r v hlook hcan hbad hsig hring hfirst => packet_bad_completes hi hlook hcan hbad hsig hring hfirst,
    fun i hi p u h => idle_completes hi h, fun p u h => work_completes h (exec_callPacket s d q) rfl,
    fun p u h => work_completes h (exec_signal s d q) rfl, fun p u h => work_completes h (exec_timestamp s d q) rfl,
    fun p u h => work_completes h (exec_barrier s d q) (barrierWork_results u d q p), fun p u h => ?_, fun p u h => ?_, fun p u h => ?_⟩
  · obtain ⟨ptrs, work, hexec⟩ := exec_packets hi s
    exact ⟨s, hexec.trans (issuePacket_of_not_canIssue hno), rfl⟩
  · obtain ⟨hjob, hdue⟩ := copyWork_results u d q p
    exact work_completes h (exec_copy s d q) ⟨copyJob d q p u, hjob, rfl, rfl, rfl, rfl, rfl, rfl, hdue⟩
  · intro r b hb
    refine ⟨fun hlen => cond_completes h hb ?_, fun hlen hroom => cond_completes h hb ?_, fun hlen hfull => cond_completes h hb ?_⟩
    · rw [condWork_empty hlen]
      exact ⟨done_joinWork .., resumes_joinWork ..⟩
    · rw [condWork_enters hlen]
      exact State.enterBuffer_entered hroom
    · rw [condWork_enters hlen, State.enterBuffer_full hfull]
      exact State.donePacket_finishPacket ..
  · intro r v
    refine ⟨fun hb hat hroom => loop_completes h hb ?_, fun f fs hb hstack hat hmax => loop_completes h hb (loopWork_again hstack hat hmax),
      fun f fs hstack hat hend => ?_, fun hb hat => loop_completes h hb ?_⟩
    · rw [loopWork_outside hat]
      exact State.enterBuffer_entered hroom
    · obtain hb | ⟨hb, hmax⟩ := hend
      · exact loop_completes h hb (loopWork_ends hstack hat (.inl rfl))
      · exact loop_completes h hb (loopWork_ends hstack hat (.inr hmax))
    · rw [loopWork_outside hat]
      exact ⟨resumes_joinWork .., done_joinWork ..⟩

end
end Sys2Proof.Machine
end

section
-- One proof after another, as in the sections before this one.
set_option Elab.async false

namespace Sys2Proof.Machine

section
open Sys2Proof.Claims

/-! ### The look-ahead (R247) -/

section
variable {s : State} {d q : Nat}

/-- What the look-ahead has read from a slot, as a packet. -/
def packetRead (id : Nat) (parent : Option Nat) : Option (List Word) → Packet
  | some ws => ⟨id, ws, parent, if packetOk ws then none else some (-2)⟩
  | none => ⟨id, [], parent, some (-5)⟩

theorem packetRead_fields (id : Nat) (parent : Option Nat) (ws : Option (List Word)) :
    (packetRead id parent ws).id = id ∧ (packetRead id parent ws).parent = parent ∧ (packetRead id parent ws).words = ws.getD [] := by
  cases ws <;> exact ⟨rfl, rfl, rfl⟩

theorem packetRead_bad (id : Nat) (parent : Option Nat) (ws : Option (List Word)) :
    (ws = none → (packetRead id parent ws).bad = some (-5)) ∧
      ∀ w, ws = some w → (packetRead id parent ws).bad = if packetOk w then none else some (-2) := by
  cases ws with
  | none => exact ⟨fun _ => rfl, fun w h => nomatch h⟩
  | some ws => exact ⟨fun h => (nomatch h), fun w h => Option.some.inj h ▸ rfl⟩

theorem lookahead_idle (h : (s.queue d q).lookReady = false) : exec (.lookaheadRead d q) s = .next s := by
  show execLookaheadRead d q s = _
  unfold execLookaheadRead
  dsimp only
  rw [h]
  rfl

/-- The next packet of the ring. -/
theorem lookahead_ring (h : (s.queue d q).lookReady = true) (hstack : (s.queue d q).stack = []) :
    let r := s.peekPacket (s.queueSpace d (s.queue d q)) ((s.queue d q).slot (s.queue d q).ahead)
    exec (.lookaheadRead d q) s = .next (r.2.modQueue d q fun _ =>
      { s.queue d q with ahead := packetNext (s.queue d q).ahead }.follow (packetRead (s.queue d q).nextId none r.1)) := by
  intro r
  show execLookaheadRead d q s = _
  unfold execLookaheadRead
  dsimp only
  rw [h, hstack]
  rfl

/-- The next packet of a buffer. -/
theorem lookahead_buffer {f : Frame} {fs : List Frame} (h : (s.queue d q).lookReady = true) (hstack : (s.queue d q).stack = f :: fs)
    (hin : f.pos < f.len) :
    let r := s.peekPacket (s.queueSpace d (s.queue d q)) (f.buf + 64 * f.pos)
    exec (.lookaheadRead d q) s = .next (r.2.modQueue d q fun _ =>
      { s.queue d q with stack := { f with pos := f.pos + 1 } :: fs }.follow (packetRead (s.queue d q).nextId (some f.packet) r.1)) := by
  intro r
  show execLookaheadRead d q s = _
  unfold execLookaheadRead
  dsimp only
  rw [h, hstack]
  exact if_pos hin

/-- The end of a buffer that is no body of a LOOP. -/
theorem lookahead_leaves {f : Frame} {fs : List Frame} (h : (s.queue d q).lookReady = true) (hstack : (s.queue d q).stack = f :: fs)
    (hend : f.len ≤ f.pos) (hloop : f.loop = false) :
    exec (.lookaheadRead d q) s = .next ((s.modQueue d q fun u => { u with stack := fs }).checkEntering d q (some f.packet)) := by
  show execLookaheadRead d q s = _
  unfold execLookaheadRead
  dsimp only
  rw [h, hstack]
  exact (if_neg (Nat.not_lt.2 hend)).trans (if_neg (ne_true_of_eq_false hloop))

/-! ### BARRIER and COPY (R242, R244) -/

section
variable {id : Nat} {e : Issued}

/-- What a reading of its list makes of a BARRIER. -/
def State.waitsRead (s : State) (d q id : Nat) (r : WaitRead) : State :=
  match r.failed, r.neg, r.left with
  | true, _, _ => s.finishPacket d q id (-5)
  | false, some v, _ => s.finishPacket d q id v
  | false, none, [] => s.finishPacket d q id 0
  | false, none, l => (s.setIssued d q id fun e => { e with waits := l }).message (.barrierReread d q id)

theorem barrierReread_reads (hfind : (s.queue d q).find id = some e) (htype : e.packet.type = 3) (hstage : e.stage = 0)
    (hrun : (s.queue d q).state ≠ .suspended) :
    let r := s.readWaits (s.queueSpace d (s.queue d q)) e.packet.aon e.waits
    exec (.barrierReread d q id) s = .next (r.2.waitsRead d q id r.1) := by
  intro r
  show execBarrierReread d q id s = _
  unfold execBarrierReread
  dsimp only
  rw [hfind]
  dsimp only
  rw [htype, hstage, beq_eq_false_iff_ne.2 hrun]
  rfl

theorem barrierReread_other (hfind : (s.queue d q).find id = some e) (h : e.packet.type ≠ 3 ∨ e.stage ≠ 0) :
    exec (.barrierReread d q id) s = .next s := by
  have hno : (e.packet.type != 3 || e.stage != 0) = true := by simpa using h
  show execBarrierReread d q id s = _
  unfold execBarrierReread
  dsimp only
  rw [hfind]
  exact if_pos hno

theorem barrierReread_suspended (hfind : (s.queue d q).find id = some e) (htype : e.packet.type = 3) (hstage : e.stage = 0)
    (hstate : (s.queue d q).state = .suspended) :
    exec (.barrierReread d q id) s = .next (s.message (.barrierReread d q id)) := by
  show execBarrierReread d q id s = _
  unfold execBarrierReread
  dsimp only
  rw [hfind]
  dsimp only
  rw [htype, hstage, hstate]
  rfl

theorem State.waitsRead_later (s : State) {d q id : Nat} {r : WaitRead} (hfailed : r.failed = false) (hneg : r.neg = none)
    (hleft : r.left ≠ []) : ∃ at_, s.now < at_ ∧ (at_, Instr.barrierReread d q id) ∈ (s.waitsRead d q id r).agenda := by
  obtain ⟨left, neg, failed⟩ := r
  obtain rfl : failed = false := hfailed
  obtain rfl : neg = none := hneg
  obtain _ | ⟨w, l⟩ := left
  · exact absurd rfl hleft
  · exact (s.setIssued d q id fun e => { e with waits := w :: l }).message_later (.barrierReread d q id)

end

/-- A COPY's bytes are moved, its job is gone, and its packet completes. -/
theorem copyComplete_results {job : Nat} {j : CopyJob} (hjob : ((s.fe d).jobs.find? fun j => j.id == job) = some j) :
    let r := copyBytes (s.queueSpace d { asid := j.asid }) (1024 + d, j.queue, j.packet) j.len j.src j.dst j.len s
    Completes (.copyComplete d job) s fun t => t.phys = r.2.phys ∧ DonePacket r.2 t d j.queue j.packet (if r.1 then 0 else -5) ∧
      ∀ k ∈ (t.fe d).jobs, k.id ≠ job := by
  intro r
  have hexec : exec (.copyComplete d job) s = .next ((r.2.modFe d fun f => { f with jobs := f.jobs.filter fun k => k.id != job }).finishPacket
      d j.queue j.packet (if r.1 then 0 else -5)) := by
    show execCopyComplete d job s = _
    unfold execCopyComplete
    rw [hjob]
  refine ⟨_, hexec, rfl, (r.2.modFe d _).donePacket_finishPacket .., fun k hk => ?_⟩
  have hk' : k ∈ ((r.2.modFe d fun f => { f with jobs := f.jobs.filter fun k => k.id != job }).fe d).jobs := hk
  rw [State.fe_modFe] at hk'
  exact bne_iff_ne.1 (List.mem_filter.1 hk').2

/-! ### Completion (R245, R246) -/

theorem State.fronts_sendAll (s : State) : s.sendAll.fronts = s.fronts :=
  foldl_keeps State.fronts (fun s _ => foldl_keeps State.fronts (fun _ _ => besideAccesses_fronts.sendWcb rfl) _ s) _ s

theorem State.fronts_releaseFlush (s : State) : s.releaseFlush.fronts = s.fronts := besideAccesses_fronts.flushWhere s _

theorem State.fronts_updateSig (s : State) (sp : Space) (sig : Option Nat) (v : Int) : (s.updateSig sp sig v).2.fronts = s.fronts := by
  unfold State.updateSig
  split
  · rfl
  next va =>
    have hpeek := s.fronts_peek64 sp va
    split
    · exact s.fronts_poke64 ..
    · split
      next hp =>
        rw [hp] at hpeek
        split
        · exact hpeek
        · split
          · exact (State.fronts_poke64 ..).trans hpeek
          · exact hpeek
      next hp =>
        rw [hp] at hpeek
        exact hpeek

/-- The end of a packet: it is no longer among those issued, and its launches are gone. -/
def State.dropPacket (s : State) (d q id : Nat) : State :=
  let t := s.modQueue d q fun u => { u with issued := u.issued.filter fun x => x.packet.id != id }
  { t with launches := t.launches.filter fun l => !(l.2.die == d && l.2.queue == q && l.2.packet == id) }

theorem State.queue_dropPacket (s : State) (d q id : Nat) :
    (s.dropPacket d q id).queue d q = { s.queue d q with issued := (s.queue d q).issued.filter fun x => x.packet.id != id } :=
  s.queue_modQueue d q _

theorem State.launches_dropPacket (s : State) (d q id : Nat) :
    ∀ l ∈ (s.dropPacket d q id).launches, ¬(l.2.die = d ∧ l.2.queue = q ∧ l.2.packet = id) := by
  rintro l hl ⟨hd, hq, hp⟩
  have hno := (List.mem_filter.1 hl).2
  rw [hd, hq, hp] at hno
  simp at hno

/-- The end of a packet of the ring whose value stays at 0 or above: its SIG, and no more. -/
theorem State.endPacket_ring {e : Issued} {v : Int} (hv : 0 ≤ v) (hring : e.packet.parent = none)
    (hok : (s.updateSig (s.queueSpace d (s.queue d q)) e.sig v).1 = true) :
    s.endPacket d q e v = (s.updateSig (s.queueSpace d (s.queue d q)) e.sig v).2.dropPacket d q e.packet.id := by
  unfold State.endPacket
  dsimp only
  rw [hok, if_pos rfl, if_neg (Int.not_lt.2 hv), hring]
  rfl

/-- The end of a packet with a negative value aborts its queue, with −5 when its SIG cannot be stored. -/
theorem State.endPacket_aborts {e : Issued} {v : Int} (hv : v < 0) :
    s.endPacket d q e v = ((s.updateSig (s.queueSpace d (s.queue d q)) e.sig v).2.dropPacket d q e.packet.id).abortQueue d q
      (if (s.updateSig (s.queueSpace d (s.queue d q)) e.sig v).1 then v else -5) := by
  have hneg : (if (s.updateSig (s.queueSpace d (s.queue d q)) e.sig v).1 then v else -5) < 0 := by
    split
    · exact hv
    · decide
  unfold State.endPacket
  exact if_pos hneg

theorem State.fronts_foldl_storeSig {α : Type} (d : Nat) (u : Queue) (ws : α → List Word) (v : Int) (l : List α) (s : State) :
    (l.foldl (fun s a => s.storeSig d u (ws a) v) s).fronts = s.fronts :=
  foldl_keeps State.fronts (fun s a => s.fronts_storeSig d u (ws a) v) l s

/-- What an abort leaves of a queue, with WRITE at `w`. -/
def Queue.abort (u : Queue) (v : Int) (w : Nat) : Queue :=
  { u with
    state := .aborted, abortVal := v, look := [], stack := [], stopped := false
    issued := u.issued.filter fun e => !e.packet.enters, ahead := w, seen := w }

theorem State.queue_abortQueue {v : Int} (h : (s.queue d q).state = .active ∨ (s.queue d q).state = .suspended) :
    (s.abortQueue d q v).queue d q = (s.queue d q).abort v (s.descWord d q 2).toNat := by
  have hgo : ((s.queue d q).state != .active && (s.queue d q).state != .suspended) = false := by
    obtain h | h := h <;> rw [h] <;> rfl
  have hfronts : (s.abortQueue d q v).fronts = (s.modQueue d q (·.abort v (s.descWord d q 2).toNat)).fronts := by
    unfold State.abortQueue
    dsimp only
    rw [hgo, if_neg (by decide)]
    rw [State.fronts_sweep, State.fronts_foldl_storeSig, State.fronts_foldl_storeSig (ws := fun e : Issued => e.packet.words),
      State.fronts_putDesc]
    rfl
  rw [State.queue_of_fronts hfronts, State.queue_modQueue]

/-- The release of a packet leaves the state of its queue as it is. -/
theorem State.state_packetRelease {e : Issued} {n : Nat} {w : State} (h : (s.packetRelease d q e n false).1 = some w) :
    (w.queue d q).state = (s.queue d q).state := by
  have hstart : ∀ l, ((s.sendAll.setIssued d q e.packet.id fun x => { x with stage := n, waits := l }).queue d q).state =
      (s.queue d q).state := fun l => by
    rw [State.setIssued, State.queue_modQueue, State.queue_of_fronts s.fronts_sendAll]
    rfl
  unfold State.packetRelease at h
  simp only [Bool.false_eq_true, if_false] at h
  split at h
  · obtain rfl := Option.some.inj h
    rw [State.queue_of_fronts (State.fronts_releaseFlush _)]
    exact hstart _
  · cases h

section
variable {id : Nat} {e : Issued} {v : Int}

theorem Queue.id_of_find {u : Queue} (h : u.find id = some e) : e.packet.id = id :=
  eq_of_beq (List.find?_some (p := fun e : Issued => e.packet.id == id) h)

/-- A packet that performs no write of a SIGNAL completes with its release. -/
theorem packetComplete_releases (h : Ending s d q id e ∨ ((s.queue d q).find id = some e ∧ v < 0)) :
    exec (.packetComplete d q id v) s = .next (s.releasePacket d q e v) := by
  have hfind : (s.queue d q).find id = some e := h.elim And.left And.left
  have hno : (e.packet.type == 4 && decide (e.stage < 2) && decide (0 ≤ v) && e.packet.bad.isNone) = false := by
    obtain ⟨-, h | h | h⟩ | ⟨-, h⟩ := h
    · rw [beq_eq_false_iff_ne.2 h]
      rfl
    · rw [decide_eq_false (Nat.not_lt.2 h), Bool.and_false]
      rfl
    · rw [Option.isNone_eq_false_iff.2 (Option.isSome_iff_ne_none.2 h), Bool.and_false]
    · rw [decide_eq_false (Int.not_le.2 h), Bool.and_false]
      rfl
  show execPacketComplete d q id v s = _
  unfold execPacketComplete
  rw [hfind]
  dsimp only
  rw [hno]
  rfl

theorem State.releasePacket_unordered (hrel : e.packet.rel = 0) (hv : 0 ≤ v) : s.releasePacket d q e v = s.endPacket d q e v := by
  unfold State.releasePacket
  exact if_pos (by rw [hrel, decide_eq_true hv]; rfl)

/-- A negative value waits for its release, and then ends its packet. -/
theorem State.releasePacket_negative (hv : v < 0) (hstage : e.stage < 2) :
    ((s.packetRelease d q e 2 false).1 = none →
      s.releasePacket d q e v = (s.packetRelease d q e 2 false).2.laterPacket d q e.packet.id v) ∧
    ∀ w, (s.packetRelease d q e 2 false).1 = some w → s.releasePacket d q e v = w.endPacket d q e v := by
  have hord : ¬(e.packet.rel = 0 && decide (0 ≤ v)) = true := by
    rw [decide_eq_false (Int.not_le.2 hv), Bool.and_false]
    exact Bool.false_ne_true
  have hfirst : (e.stage == 2) = false := beq_eq_false_iff_ne.2 (Nat.ne_of_lt hstage)
  unfold State.releasePacket
  rw [if_neg hord, hfirst]
  generalize s.packetRelease d q e 2 false = r
  obtain ⟨_ | w, s1⟩ := r
  · exact ⟨fun _ => rfl, fun w h => nomatch h⟩
  · exact ⟨fun h => (nomatch h), fun w' h => by rw [Option.some.inj h]⟩

/-- A packet of the ring that completes unordered with a value of 0 or above. -/
theorem packetComplete_ring (h : Ending s d q id e) (hrel : e.packet.rel = 0) (hv : 0 ≤ v) (hring : e.packet.parent = none)
    (hok : (s.updateSig (sigSpace s d q) e.sig v).1 = true) :
    exec (.packetComplete d q id v) s = .next ((s.updateSig (sigSpace s d q) e.sig v).2.dropPacket d q e.packet.id) := by
  rw [packetComplete_releases (.inl h), State.releasePacket_unordered hrel hv, State.endPacket_ring hv hring hok]
  rfl

/-- SIG counts down from a positive value, and stays at 0 or below (R245). -/
theorem State.updateSig_counts {sp : Space} {va : Nat} {w : Word} {s1 : State} (hv : 0 ≤ v) (hpeek : s.peek64 sp va = (some w, s1))
    (hreach : (s1.physPiece sp va 8 .atomic).1.isSome = true) :
    s.updateSig sp (some va) v = if 0 < w.toInt then s1.poke64 sp va (w - 1) else (true, s1) := by
  unfold State.updateSig
  dsimp only
  rw [if_neg (Int.not_lt.2 hv), hpeek]
  dsimp only
  rw [Option.isNone_eq_false_iff.2 hreach]
  rfl

/-- A packet with a negative value: it waits for its release, or aborts its queue. -/
theorem packetComplete_negative (h : Ending s d q id e) (hv : v < 0) (hstage : e.stage < 2)
    (hstate : (s.queue d q).state = .active ∨ (s.queue d q).state = .suspended) :
    let r := s.packetRelease d q e 2 false
    (r.1 = none → Completes (.packetComplete d q id v) s fun t => (tickTime (r.2.gtc + 1), Instr.packetComplete d q id v) ∈ t.agenda) ∧
    (∀ w : State, r.1 = some w → Completes (.packetComplete d q id v) s fun t => (t.queue d q).state = .aborted ∧ (t.queue d q).look = [] ∧
      (t.queue d q).abortVal = if (w.updateSig (w.queueSpace d (w.queue d q)) e.sig v).1 then v else -5) := by
  intro r
  obtain ⟨hwait, hgo⟩ := State.releasePacket_negative (s := s) (d := d) (q := q) hv hstage
  have hexec := packetComplete_releases (v := v) (.inl h)
  refine ⟨fun hr => ⟨_, hexec.trans (congrArg _ (hwait hr)), ?_⟩, fun w hw => ⟨_, hexec.trans (congrArg _ ((hgo w hw).trans (State.endPacket_aborts hv))), ?_⟩⟩
  · rw [Queue.id_of_find h.1]
    exact (State.mem_schedule _ _ _ _).2 (.inl rfl)
  · have hrun : ((((w.updateSig (w.queueSpace d (w.queue d q)) e.sig v).2.dropPacket d q e.packet.id).queue d q).state = .active ∨
        (((w.updateSig (w.queueSpace d (w.queue d q)) e.sig v).2.dropPacket d q e.packet.id).queue d q).state = .suspended) := by
      rw [State.queue_dropPacket, State.queue_of_fronts (State.fronts_updateSig ..)]
      show (w.queue d q).state = _ ∨ (w.queue d q).state = _
      rwa [State.state_packetRelease hw]
    have hqueue := State.queue_abortQueue (v := if (w.updateSig (w.queueSpace d (w.queue d q)) e.sig v).1 then v else -5) hrun
    exact ⟨congrArg (fun u : Queue => u.state) hqueue, congrArg (fun u : Queue => u.look) hqueue, congrArg (fun u : Queue => u.abortVal) hqueue⟩

/-- A SIGNAL without release writes, and ends (R242). -/
theorem packetComplete_signal (hfind : (s.queue d q).find id = some e) (htype : e.packet.type = 4) (hstage : e.stage = 0)
    (hbad : e.packet.bad = none) (hv : 0 ≤ v) (hrel : e.packet.rel = 0) (hok : (s.signalWrite d q e.packet).1 = true) :
    exec (.packetComplete d q id v) s = .next ((s.signalWrite d q e.packet).2.endPacket d q { e with stage := 0 } v) := by
  have hgo : (e.packet.type == 4 && decide (e.stage < 2) && decide (0 ≤ v) && e.packet.bad.isNone) = true := by
    rw [htype, hstage, hbad, decide_eq_true hv]
    rfl
  show execPacketComplete d q id v s = _
  unfold execPacketComplete
  rw [hfind]
  dsimp only
  rw [hgo, if_pos rfl, if_pos hrel]
  dsimp only
  rw [hok, if_pos rfl, State.releasePacket_unordered (e := { e with stage := 0 }) hrel hv]

end

end

/-- Settles O49. -/
theorem packetsComplete : Obligations.PacketsComplete := by
  unfold Obligations.PacketsComplete
  intro s d q u
  refine ⟨fun h => ⟨s, lookahead_idle h, rfl⟩, ?ring, ?buffer,
    fun f fs h hstack hend hloop => ⟨_, lookahead_leaves h hstack hend hloop, rfl⟩, ?reread,
    fun id e hfind h => ⟨s, barrierReread_other hfind h, rfl⟩,
    fun id e hfind htype hstage hstate => ⟨_, barrierReread_suspended hfind htype hstage hstate, rfl, rfl, s.message_later _⟩,
    fun job j hjob => copyComplete_results hjob,
    fun id e => ⟨?unsigned, ?signed, fun v h hv hstage hstate => packetComplete_negative h hv hstage hstate, ?signal⟩⟩
  case ring =>
    intro h hstack r
    obtain ⟨hid, hparent, hwords⟩ := packetRead_fields u.nextId none r.1
    exact ⟨_, lookahead_ring h hstack, _, rfl, hid, hparent, hwords, packetRead_bad u.nextId none r.1⟩
  case buffer =>
    intro f fs h hstack hin r
    exact ⟨_, lookahead_buffer h hstack hin, _, rfl, packetRead_fields u.nextId (some f.packet) r.1⟩
  case reread =>
    intro id e hfind htype hstage hrun r
    have hexec := barrierReread_reads hfind htype hstage hrun
    refine ⟨fun hfailed => ⟨_, hexec, ?_⟩, fun v hfailed hneg => ⟨_, hexec, ?_⟩, fun hfailed hneg hleft => ⟨_, hexec, ?_⟩,
      fun hfailed hneg hleft => ⟨_, hexec, State.waitsRead_later _ hfailed hneg hleft⟩⟩
    · unfold State.waitsRead
      rw [hfailed]
      exact State.donePacket_finishPacket ..
    · unfold State.waitsRead
      rw [hfailed, hneg]
      exact State.donePacket_finishPacket ..
    · unfold State.waitsRead
      rw [hfailed, hneg, hleft]
      exact State.donePacket_finishPacket ..
  case unsigned =>
    intro v h hrel hv hsig hring
    have hupdate : s.updateSig (sigSpace s d q) e.sig v = (true, s) := by
      rw [hsig]
      rfl
    have hexec := packetComplete_ring h hrel hv hring (congrArg Prod.fst hupdate)
    rw [hupdate] at hexec
    exact ⟨_, hexec, s.queue_dropPacket d q _, rfl, s.launches_dropPacket d q _⟩
  case signed =>
    intro v va w s1 h hrel hv hsig hring hpeek hreach
    have hupdate := State.updateSig_counts hv hpeek hreach
    rw [← hsig] at hupdate
    refine ⟨fun hpos hok => ?_, fun hneg => ?_⟩
    · rw [if_pos hpos] at hupdate
      refine ⟨_, packetComplete_ring h hrel hv hring (hupdate ▸ hok), ?_⟩
      rw [hupdate]
      rfl
    · rw [if_neg (Int.not_lt.2 hneg)] at hupdate
      refine ⟨_, packetComplete_ring h hrel hv hring (by rw [hupdate]), ?_⟩
      rw [hupdate]
      rfl
  case signal =>
    intro v hfind htype hstage hbad hv hrel r hok
    exact ⟨_, packetComplete_signal hfind htype hstage hbad hv hrel hok, rfl⟩

end
end Sys2Proof.Machine
end

section
-- One proof after another, as in the sections before this one.
set_option Elab.async false

namespace Sys2Proof.Machine

section
open Sys2Proof.Claims

/-! ### Completions of host reads (R276) -/

section
variable {s : State}

theorem tyBytes_le (ty : Nat) : tyBytes ty ≤ 8 := by
  unfold tyBytes tyBits
  split <;> decide

/-- Bytes laid over a scalar result from its first byte on are its value. -/
theorem patchWords_scalar {ty : Nat} (h : isTileTy ty = false) {bs : List Byte} (hlen : bs.length = tyBytes ty) (w : Word) :
    patchWords ty [w] 0 bs = [regImage ty (bytesToNat bs)] := by
  have htake : (((([w].flatMap fun w => natToBytes 8 w.toNat).zipIdx).map fun p =>
      if 0 ≤ p.2 then (bs[p.2 - 0]?).getD p.1 else p.1).take (tyBytes ty)) = bs := by
    refine List.ext_getElem ?_ fun i h1 h2 => ?_
    · simp only [List.length_take, List.length_map, List.length_zipIdx, List.flatMap_cons, List.flatMap_nil, List.append_nil, length_natToBytes, hlen]
      exact Nat.min_eq_left (tyBytes_le ty)
    · simp [List.getElem?_eq_getElem h2]
  unfold patchWords
  dsimp only
  rw [h, htake]
  rfl

/-- What a completion does to a result that awaits it. -/
theorem Landing.complete_awaited {l : Landing} {r : HostRead} (h : r.id ∈ l.host) (now : Nat) (good : Bool) (data : List Byte) :
    l.complete now r good data = { l with
      host := l.host.filter (· != r.id), due := Nat.max l.due now
      vals := if good then l.vals.map fun v => if v.1 == r.thread then (v.1, patchWords r.ty v.2 r.into (data.take r.len)) else v else l.vals
      traps := if good then l.traps else l.traps ++ [(r.thread, ⟨.accessViolation, r.seg, r.va⟩)] } := by
  unfold Landing.complete
  rw [List.contains_iff_mem.2 h]
  rfl

theorem hostCompletion_of_none {req : Nat} {ok : Bool} {data : List Byte} (h : s.host.reads.find? (fun r => r.id == req) = none) :
    exec (.hostCompletion req ok data) s = .next s := by
  show execHostCompletion req ok data s = _
  unfold execHostCompletion
  rw [h]

/-- A completion for a read: the read is gone, and the results of its context take it. -/
theorem hostCompletion_of_some {req : Nat} {ok : Bool} {data : List Byte} {r : HostRead}
    (h : s.host.reads.find? (fun r => r.id == req) = some r) :
    exec (.hostCompletion req ok data) s = .next ((s.modHost fun h => { h with reads := h.reads.filter fun e => e.id != req }).modCtx r.core r.ctx
      fun c => { c with inflight := c.inflight.map (·.complete s.now r (ok && data.length == r.len) data) }) := by
  show execHostCompletion req ok data s = _
  unfold execHostCompletion
  rw [h]

theorem Landing.complete_results {l : Landing} {r : HostRead} (h : r.id ∈ l.host) (now : Nat) (ok : Bool) (data : List Byte) :
    let m := l.complete now r (ok && data.length == r.len) data
    r.id ∉ m.host ∧ now ≤ m.due ∧
      (¬(ok = true ∧ data.length = r.len) → m.vals = l.vals ∧ m.traps = l.traps ++ [(r.thread, ⟨.accessViolation, r.seg, r.va⟩)]) ∧
      (ok = true → data.length = r.len → m.traps = l.traps ∧ (isTileTy r.ty = false → r.into = 0 → r.len = tyBytes r.ty →
        l.vals = [(r.thread, [0])] → m.vals = [(r.thread, [regImage r.ty (bytesToNat data)])])) := by
  intro m
  have hm : m = _ := Landing.complete_awaited h now (ok && data.length == r.len) data
  rw [hm]
  refine ⟨fun hin => ?_, Nat.le_max_right .., fun hbad => ?_, fun hok hlen => ?_⟩
  · have hne := (List.mem_filter.1 hin).2
    exact absurd rfl (bne_iff_ne.1 hne)
  · have hgood : (ok && data.length == r.len) = false := Bool.eq_false_iff.2 fun hg => hbad (by simpa using hg)
    dsimp only
    rw [hgood]
    exact ⟨rfl, rfl⟩
  · have hgood : (ok && data.length == r.len) = true := by simp [hok, hlen]
    dsimp only
    rw [hgood]
    refine ⟨rfl, fun htile hinto hbytes hvals => ?_⟩
    have htake : data.take r.len = data := List.take_of_length_le (Nat.le_of_eq hlen)
    rw [if_pos rfl, hvals, hinto, htake]
    simp only [List.map_cons, List.map_nil, beq_self_eq_true, if_true]
    rw [patchWords_scalar htile (hlen.trans hbytes)]

/-! ### The CXL window (R277) -/

/-- The request for a window is one that its partition can serve. -/
def windowGood (s : State) (p : Partition) (w : HdmReq) : Bool :=
  1 ≤ w.size && w.size ≤ 256 && w.runs.length == 32 * w.size && w.key < 512 && (nodup w.runs).length == w.runs.length && w.runs.all (s.runOk p)

section
variable (hrun : s.phase = .running)
include hrun

theorem hdmWindowSet_of_none {w : HdmReq} (h : tget s.parts w.part = none) : exec (.hdmWindowSet w) s = .next (s.reply false) := by
  show execHdmWindowSet w s = _
  unfold execHdmWindowSet
  rw [hrun, h]
  rfl

theorem hdmWindowSet_of_some {w : HdmReq} {p : Partition} (h : tget s.parts w.part = some p) : exec (.hdmWindowSet w) s =
    .next (if windowGood s p w then (s.reply true).modHost fun h => { h with window := some w } else s.reply false) := by
  show execHdmWindowSet w s = _
  unfold execHdmWindowSet
  rw [hrun, h]
  rfl

theorem cxlMemRead_of_none {addr len : Nat} (h : s.hdmRun addr len = none) : exec (.cxlMemRead addr len) s = .next s := by
  show execCxlMemRead addr len s = _
  unfold execCxlMemRead
  rw [hrun, h]
  rfl

theorem cxlMemRead_of_some {addr len key : Nat} {as : List Nat} (h : s.hdmRun addr len = some (key, as)) : exec (.cxlMemRead addr len) s =
    .next (if as.all s.bankIdle then s.modHost fun h => { h with cxl := h.cxl ++
      [(if as.any s.uncorrectable then [] else as.map fun a => s.phys.byte (some key) a, as.any s.uncorrectable)] }
    else s.message (.cxlMemRead addr len)) := by
  show execCxlMemRead addr len s = _
  unfold execCxlMemRead
  rw [hrun, h]
  dsimp only
  cases as.all s.bankIdle <;> rfl

theorem cxlMemWrite_of_none {addr : Nat} {data : List Byte} (h : s.hdmRun addr data.length = none) : exec (.cxlMemWrite addr data) s = .next s := by
  show execCxlMemWrite addr data s = _
  unfold execCxlMemWrite
  rw [hrun, h]
  rfl

end

/-- The write of a line's part of some bytes under a key. -/
def windowWrite (key : Nat) (bs : List (Nat × Byte)) (l : Nat) : PWrite := { bytes := bs.filter fun b => b.1 / 128 == l, key := some key, owners := [] }

/-- Bytes reach the home slices of their lines one line after another. -/
def State.windowWrites (key : Nat) (bs : List (Nat × Byte)) (ls : List Nat) (s : State) : State :=
  ls.foldl (fun s l => s.homeArrive l (windowWrite key bs l)) s

theorem cxlMemWrite_of_some (hrun : s.phase = .running) {addr key : Nat} {data : List Byte} {as : List Nat}
    (h : s.hdmRun addr data.length = some (key, as)) : exec (.cxlMemWrite addr data) s =
    .next (if as.all s.bankIdle then State.windowWrites key (as.zip data) (nodup (as.map (· / 128))) s else s.message (.cxlMemWrite addr data)) := by
  show execCxlMemWrite addr data s = _
  unfold execCxlMemWrite
  rw [hrun, h]
  dsimp only
  cases as.all s.bankIdle <;> rfl

/-! #### Writes that nothing holds are performed one after another -/

/-- Nothing holds a write of a line (R223). -/
structure State.Free (s : State) (l : Nat) : Prop where
  waiting : (s.line l).waiting = []
  collapsing : (s.line l).collapsing = false
  replicated : s.replicated l = false
  expiry : (s.line l).expiry ≤ s.gtc
  performed : (s.line l).performed ≤ s.gtc

/-- Memory is in its canonical form, and no range entry stands. -/
structure State.Plain (s : State) : Prop where
  wf : Memory.wf s.phys.dram = true
  rises : Rises s.phys.overlay
  ranges : s.phys.ranges = []

theorem State.homeArrive_of_free {l : Nat} (hplain : s.Plain) (h : s.Free l) (w : PWrite) : s.homeArrive l w = s.performWrite l w := by
  have hready : s.writeReady l w ≤ s.gtc := by
    rw [State.writeReady, hplain.ranges]
    simp only [List.filter_nil, List.map_nil, maxNat, List.foldl_cons, List.foldl_nil]
    exact Nat.max_le.2 ⟨Nat.max_le.2 ⟨Nat.zero_le _, h.expiry⟩, h.performed⟩
  have hfree : s.homeFree l w = true := by
    unfold State.homeFree
    dsimp only
    rw [h.waiting, h.collapsing, h.replicated, decide_eq_true hready]
    rfl
  unfold State.homeArrive
  exact if_pos hfree

/-- The replicas of lines and the range entries, which a write does not change. -/
def Phys.shared (p : Phys) : Tab (List Nat) × List RangeEntry := (p.pkgDir, p.ranges)

theorem Phys.shared_rekey (p : Phys) (l : Nat) (key : Option Nat) : (p.rekey l key).shared = p.shared := by
  obtain ⟨h, -⟩ | ⟨_, -, ⟨-, h⟩ | h⟩ := p.rekey_cases l key
  · rw [h]
  · simp only [h, Phys.shared]
  · simp only [h, Phys.shared]

theorem Phys.shared_put (p : Phys) (key : Option Nat) (bs : List (Nat × Byte)) : (p.put key bs).shared = p.shared :=
  foldl_keeps Phys.shared (fun p l => p.shared_rekey l key) (nodup (bs.map fun b : Nat × Byte => b.1 / 128)) p

theorem State.shared_spill (s : State) (l : Nat) : (s.spill l).phys.shared = s.phys.shared := by
  unfold State.spill
  dsimp only
  split
  · rfl
  · split
    · rfl
    · split
      · rw [State.phys_flushWhere]
        rfl
      · rfl

theorem State.shared_performWrite (s : State) (l : Nat) (w : PWrite) : (s.performWrite l w).phys.shared = s.phys.shared := by
  rw [State.phys_performWrite, State.shared_spill]
  exact s.phys.shared_put w.key w.bytes

theorem State.rises_spill (s : State) (l : Nat) (h : Rises s.phys.overlay) : Rises (s.spill l).phys.overlay := by
  unfold State.spill
  dsimp only
  split
  · exact h
  · split
    · exact h
    · split
      · rw [State.phys_flushWhere]
        exact List.Pairwise.filter _ h
      · exact h

theorem State.wf_spill (s : State) (l : Nat) (h : Memory.wf s.phys.dram = true) : Memory.wf (s.spill l).phys.dram = true := by
  unfold State.spill
  dsimp only
  split
  · exact h
  · split
    · exact h
    · split
      · rw [State.phys_flushWhere]
        exact Memory.wf_cellPuts _ h
      · exact h

theorem State.Plain.performWrite (h : s.Plain) (l : Nat) (w : PWrite) : (s.performWrite l w).Plain := by
  refine ⟨?_, ?_, (congrArg Prod.snd (s.shared_performWrite l w)).trans h.ranges⟩
  · rw [State.phys_performWrite]
    exact (s.written l w).wf_spill l ((congrArg (Memory.wf ·) (s.phys.put_dram w.key w.bytes)).trans h.wf)
  · rw [State.phys_performWrite]
    exact (s.written l w).rises_spill l (s.phys.rises_put _ _ h.rises)

theorem State.Free.performWrite {l j : Nat} (h : s.Free j) (hplain : s.Plain) (hj : j ≠ l) (w : PWrite) : (s.performWrite l w).Free j := by
  have hline := s.line_performWrite_ne l hplain.wf hplain.rises w hj
  have hgtc : (s.performWrite l w).gtc = s.gtc := congrArg (· / tickLen) (s.now_performWrite l w)
  have hrep : (s.performWrite l w).replicated j = s.replicated j :=
    congrArg (fun d : Tab (List Nat) × List RangeEntry => (tget d.1 j).isSome) (s.shared_performWrite l w)
  exact ⟨by rw [hline, h.waiting], by rw [hline, h.collapsing], by rw [hrep, h.replicated], by rw [hline, hgtc]; exact h.expiry,
    by rw [hline, hgtc]; exact h.performed⟩

/-- A byte of a write that is performed reads under its key as the write gives it (R181). -/
theorem State.byte_performWrite (hplain : s.Plain) {l key : Nat} {w : PWrite} (hkey : w.key = some key) (hnd : (w.bytes.map (·.1)).Nodup)
    {b : Nat × Byte} (hb : b ∈ w.bytes) : (s.performWrite l w).phys.byte (some key) b.1 = b.2 := by
  have hown : tget (s.written l w).phys.lineKey (b.1 / 128) = some key := s.phys.lineKey_rekeyed w.key w.bytes hkey hb
  rw [(s.alike_performWrite l hplain.wf hplain.rises w).byte, Phys.byte,
    decryptByte_plain fun v r hv hr => by rw [hown] at hv; exact (Option.some.inj hv).symm.trans (Option.some.inj hr)]
  exact s.phys.raw_put w.key w.bytes hnd b hb

theorem State.windowWrites_bytes {key : Nat} {bs : List (Nat × Byte)} (hnd : (bs.map (·.1)).Nodup) {ls : List Nat} (hls : ls.Nodup) {s : State}
    (hplain : s.Plain) (hfree : ∀ l ∈ ls, s.Free l) :
    (∀ b ∈ bs, b.1 / 128 ∈ ls → (State.windowWrites key bs ls s).phys.byte (some key) b.1 = b.2) ∧
      ∀ a, a / 128 ∉ ls → (State.windowWrites key bs ls s).phys.byte (some key) a = s.phys.byte (some key) a := by
  induction ls generalizing s with
  | nil => exact ⟨fun _ _ h => (nomatch h), fun _ _ => rfl⟩
  | cons l ls ih =>
    obtain ⟨hl, hls⟩ := List.nodup_cons.1 hls
    obtain ⟨hfl, hfree⟩ := List.forall_mem_cons.1 hfree
    have hfirst : State.windowWrites key bs (l :: ls) s = State.windowWrites key bs ls (s.performWrite l (windowWrite key bs l)) := by
      rw [← State.homeArrive_of_free hplain hfl]
      rfl
    obtain ⟨hin, hout⟩ := ih hls (hplain.performWrite l (windowWrite key bs l))
      fun j hj => (hfree j hj).performWrite hplain (ne_of_mem_of_not_mem hj hl) _
    rw [hfirst]
    refine ⟨fun b hb hbl => ?_, fun a ha => ?_⟩
    · by_cases hlater : b.1 / 128 ∈ ls
      · exact hin b hb hlater
      · have hbl : b.1 / 128 = l := (List.mem_cons.1 hbl).resolve_right hlater
        rw [hout b.1 hlater]
        refine State.byte_performWrite hplain rfl ?_ (List.mem_filter.2 ⟨hb, beq_iff_eq.2 hbl⟩)
        exact hnd.sublist (List.filter_sublist.map _)
    · rw [hout a fun h => ha (List.mem_cons_of_mem _ h)]
      refine s.byte_performWrite_ne l hplain.wf hplain.rises (windowWrite key bs l) fun b hb hba => ha ?_
      have hbl : b.1 / 128 = l := beq_iff_eq.1 (List.mem_filter.1 hb).2
      exact hba ▸ hbl ▸ List.mem_cons_self

theorem nodup_nodup (l : List Nat) : (nodup l).Nodup :=
  List.foldlRecOn (motive := List.Nodup) l _ List.nodup_nil fun acc hacc x _ => by
    split
    · exact hacc
    next h => exact List.nodup_append.2 ⟨hacc, List.nodup_singleton x, fun a ha b hb hab =>
        h (List.contains_iff_mem.2 (List.mem_singleton.1 hb ▸ hab ▸ ha))⟩

theorem nodup_fst_zip {as : List Nat} (h : as.Nodup) (data : List Byte) : ((as.zip data).map (·.1)).Nodup := by
  have hmin : min as.length data.length ≤ as.length ∧ min as.length data.length ≤ data.length := ⟨Nat.min_le_left .., Nat.min_le_right ..⟩
  have hlen : (as.take (min as.length data.length)).length ≤ (data.take (min as.length data.length)).length := by
    simp only [List.length_take]
    omega
  rw [List.zip_eq_zip_take_min]
  show (List.map Prod.fst _).Nodup
  rw [List.map_fst_zip hlen]
  exact h.sublist (List.take_sublist _ _)

/-- What a run of the window has written reads back under its key. -/
theorem cxlMemWrite_bytes {key : Nat} {as : List Nat} (data : List Byte) (has : as.Nodup) (hplain : s.Plain) (hfree : ∀ l, s.Free l) :
    ∀ b ∈ as.zip data, (State.windowWrites key (as.zip data) (nodup (as.map (· / 128))) s).phys.byte (some key) b.1 = b.2 := fun b hb =>
  (State.windowWrites_bytes (nodup_fst_zip has data) (nodup_nodup _) hplain fun l _ => hfree l).1 b hb
    ((mem_nodup ..).2 (List.mem_map.2 ⟨b.1, (List.of_mem_zip hb).1, rfl⟩))

end

end
end Sys2Proof.Machine
end

section
-- One proof after another, as in the sections before this one.
set_option Elab.async false

namespace Sys2Proof.Machine

section
open Sys2Proof.Claims

/-! ### Ports and flits (R15, R20, R278-R281) -/

section
variable {s : State} {p : Nat}

theorem State.port_setPort (s : State) (p : Nat) (v : Port) : (s.setPort p v).port p = v := tgetD_tset_self ..

theorem State.port_setPort_ne (s : State) {p j : Nat} (v : Port) (h : j ≠ p) : (s.setPort p v).port j = s.port j := tgetD_tset_ne _ _ _ h

/-- Other devices of the pod are lost. -/
def State.loseDevices (s : State) (ds : List Nat) : State := { s with fabric := { s.fabric with lostDevices := ds } }

theorem State.port_loseDevices (s : State) (ds : List Nat) (j : Nat) : (s.loseDevices ds).port j = s.port j := rfl

theorem State.checkPorts_eq (s : State) : s.checkPorts =
    if (List.range portCount).any fun p => (s.port p).up || (s.port p).retrain.isSome then s
    else s.loseDevices ((List.range 512).filter fun n => n != s.fuses.device) := rfl

theorem State.port_checkPorts (s : State) (j : Nat) : s.checkPorts.port j = s.port j := by
  rw [State.checkPorts_eq]
  generalize (List.range 512).filter _ = ds
  exact reading_ite (g := fun t : State => t.port j) rfl (s.port_loseDevices ds j)

/-- With no port up or retraining every other device is lost. -/
theorem State.checkPorts_lost (h : ∀ j, j < portCount → (s.port j).up = false ∧ (s.port j).retrain = none) {n : Nat} (hn : n < 512)
    (hother : n ≠ s.fuses.device) : n ∈ s.checkPorts.fabric.lostDevices := by
  have hnone : ((List.range portCount).any fun p => (s.port p).up || (s.port p).retrain.isSome) = false :=
    List.any_eq_false.2 fun j hj => by
      obtain ⟨hup, hretrain⟩ := h j (List.mem_range.1 hj)
      simp [hup, hretrain]
  have hin : n ∈ (List.range 512).filter fun m => m != s.fuses.device := List.mem_filter.2 ⟨List.mem_range.2 hn, bne_iff_ne.2 hother⟩
  rw [State.checkPorts_eq, hnone, if_neg Bool.false_ne_true]
  generalize (List.range 512).filter _ = ds at hin ⊢
  exact hin

theorem State.class0Port_of_up {dest : Nat} (h : (s.port (dest % portCount)).up = true) : s.class0Port dest = some (dest % portCount) := by
  unfold State.class0Port
  rw [portCount, List.range_succ_eq_map, List.map_cons, Nat.add_zero]
  exact List.find?_cons_of_pos h

/-- A port that is absent answers nothing (R20). -/
theorem absent_faults (h : s.portPresent p = false) :
    (∀ f, exec (.flitReceive p f) s = .fault .absentUnit) ∧ exec (.laneFailure p) s = .fault .absentUnit ∧
      exec (.retrainComplete p) s = .fault .absentUnit ∧ ∀ n, exec (.linkTraining p n) s = .fault .absentUnit := by
  refine ⟨fun f => ?_, ?_, ?_, fun n => ?_⟩
  · show execFlitReceive p f s = _
    rw [execFlitReceive, h]
    rfl
  · show execLaneFailure p s = _
    rw [execLaneFailure, h]
    rfl
  · show execRetrainComplete p s = _
    rw [execRetrainComplete, h]
    rfl
  · show execLinkTraining p n s = _
    rw [execLinkTraining, h]
    rfl

theorem linkTraining_far {n : Nat} (h : 512 ≤ n) : exec (.linkTraining p n) s = .fault .absentUnit := by
  show execLinkTraining p n s = _
  rw [execLinkTraining, decide_eq_true h, Bool.or_true]
  rfl

section
variable (hp : s.portPresent p = true)
include hp

/-! #### Flits (R278) -/

theorem flitReceive_stopped (h : s.phase ≠ .running) (f : List Byte) : exec (.flitReceive p f) s = .next s := by
  show execFlitReceive p f s = _
  rw [execFlitReceive, hp, bne_iff_ne.2 h]
  rfl

theorem flitReceive_running (h : s.phase = .running) (f : List Byte) :
    exec (.flitReceive p f) s = .next (if !(s.port p).up && (s.port p).retrain.isNone then s
      else if (s.port p).retrain.isSome || !flitOk f then { s with fabric := { s.fabric with retransmit := s.fabric.retransmit ++ [p] } }
      else { s with fabric := { s.fabric with rx := s.fabric.rx ++ [f] } }) := by
  show execFlitReceive p f s = _
  unfold execFlitReceive
  rw [hp, h]
  dsimp only
  generalize (!(s.port p).up && (s.port p).retrain.isNone) = a
  generalize ((s.port p).retrain.isSome || !flitOk f) = b
  cases a <;> cases b <;> rfl

/-! #### Lanes (R280) -/

theorem laneFailure_down (h : (s.port p).lanes < 3) :
    exec (.laneFailure p) s = .next (s.setPort p { s.port p with lanes := (s.port p).lanes - 1, up := false, retrain := none }).checkPorts := by
  have hdown : (s.port p).lanes - 1 < 2 := by omega
  show execLaneFailure p s = _
  unfold execLaneFailure
  rw [hp]
  exact if_pos hdown

theorem laneFailure_down_results (h : (s.port p).lanes < 3) : Completes (.laneFailure p) s fun t =>
    (t.port p).up = false ∧ (t.port p).retrain = none ∧ (t.port p).lanes = (s.port p).lanes - 1 ∧ (∀ j, j ≠ p → t.port j = s.port j) ∧
      ((∀ j, j < portCount → j ≠ p → (s.port j).up = false ∧ (s.port j).retrain = none) →
        ∀ n, n < 512 → n ≠ s.fuses.device → n ∈ t.fabric.lostDevices) := by
  generalize hv : ({ s.port p with lanes := (s.port p).lanes - 1, up := false, retrain := none } : Port) = v
  have hport : (s.setPort p v).checkPorts.port p = v := (State.port_checkPorts ..).trans (s.port_setPort p v)
  refine ⟨_, (laneFailure_down hp h).trans (by rw [hv]), by rw [hport, ← hv], by rw [hport, ← hv], by rw [hport, ← hv], fun j hj => ?_,
    fun hothers n hn hother => ?_⟩
  · rw [State.port_checkPorts, s.port_setPort_ne v hj]
  · refine State.checkPorts_lost (fun j hj => ?_) hn hother
    by_cases hjp : j = p
    · rw [hjp, State.port_setPort, ← hv]
      exact ⟨rfl, rfl⟩
    · rw [s.port_setPort_ne v hjp]
      exact hothers j hj hjp

theorem laneFailure_retrains (h : 3 ≤ (s.port p).lanes) (hlink : (s.port p).up = true ∨ (s.port p).retrain.isSome = true) :
    Completes (.laneFailure p) s fun t => ∃ ends, s.now < ends ∧ ends ≤ s.now + tickTime 2000 ∧
      t.port p = { s.port p with lanes := (s.port p).lanes - 1, up := false, retrain := some ends } ∧ (ends, Instr.retrainComplete p) ∈ t.agenda := by
  have hdown : ¬(s.port p).lanes - 1 < 2 := by omega
  have hidle : (!(s.port p).up && (s.port p).retrain.isNone) = false := by
    obtain h | h := hlink
    · rw [h]
      rfl
    · rw [Option.isNone_eq_false_iff.2 h, Bool.and_false]
  have hexec : exec (.laneFailure p) s = .next ((s.draw1.2.setPort p { s.port p with
      lanes := (s.port p).lanes - 1, up := false, retrain := some (s.now + tickTime (1 + s.draw1.1 % 2000)) }).schedule
      (s.now + tickTime (1 + s.draw1.1 % 2000)) (.retrainComplete p)) := by
    show execLaneFailure p s = _
    unfold execLaneFailure
    rw [hp]
    dsimp only
    rw [hidle]
    exact (if_neg hdown).trans rfl
  refine ⟨_, hexec, _, ?_, ?_, State.port_setPort _ p _, (State.mem_schedule _ _ _ _).2 (.inl rfl)⟩
  · simp only [tickTime, tickLen]
    omega
  · simp only [tickTime, tickLen]
    omega

/-! #### Retraining and training (R280, R281) -/

theorem retrainComplete_results {at_ : Nat} (h : (s.port p).retrain = some at_) : exec (.retrainComplete p) s =
    .next (if at_ ≤ s.now then s.setPort p { s.port p with retrain := none, up := true } else s) := by
  show execRetrainComplete p s = _
  unfold execRetrainComplete
  simp only [hp, Bool.not_true, Bool.false_eq_true, if_false, h]
  split <;> rfl

theorem linkTraining_stopped {n : Nat} (hn : n < 512) (h : s.phase = .thermalStop) : exec (.linkTraining p n) s = .next s := by
  show execLinkTraining p n s = _
  rw [execLinkTraining, hp, decide_eq_false (Nat.not_le.2 hn), h]
  rfl

end

/-- A port whose plane is that of port 0 comes up on its lanes. -/
def Port.trained (zero : Option Nat) (v : Port) : Port :=
  { v with up := 2 ≤ v.lanes && v.retrain.isNone && v.plane.isSome && v.plane == zero }

/-- The state of a port that has read the number of its switch port, before the ports come up. -/
def State.readPlane (s : State) (p n : Nat) : State :=
  let s1 := s.setPort p { s.port p with plane := some n, retrain := none }
  if p = 0 then { s1 with fuses := { s1.fuses with device := n } } else s1

/-- Every port trains against port 0. -/
def State.trainPorts (s : State) : State :=
  { s with fabric := { s.fabric with ports := s.fabric.ports.map fun e => (e.1, e.2.trained (s.port 0).plane) } }

theorem linkTraining_trains (hp : s.portPresent p = true) {n : Nat} (hn : n < 512) (h : s.phase ≠ .thermalStop) :
    exec (.linkTraining p n) s = .next (s.readPlane p n).trainPorts := by
  show execLinkTraining p n s = _
  rw [execLinkTraining, hp, decide_eq_false (Nat.not_le.2 hn), beq_eq_false_iff_ne.2 h]
  rfl

theorem State.tget_readPlane (s : State) (p n : Nat) :
    tget (s.readPlane p n).fabric.ports p = some { s.port p with plane := some n, retrain := none } := by
  unfold State.readPlane
  dsimp only
  split <;> exact tget_tset_self ..

theorem State.tget_readPlane_ne (s : State) {p j : Nat} (n : Nat) (h : j ≠ p) :
    tget (s.readPlane p n).fabric.ports j = tget s.fabric.ports j := by
  unfold State.readPlane
  dsimp only
  split <;> exact tget_tset_ne _ _ h

theorem State.port_of_tget {v : Port} (h : tget s.fabric.ports p = some v) : s.port p = v := by
  rw [State.port, tgetD, h]
  rfl

theorem State.port_trainPorts {v : Port} (h : tget s.fabric.ports p = some v) : s.trainPorts.port p = v.trained (s.port 0).plane := by
  refine State.port_of_tget ?_
  show tget (s.fabric.ports.map fun e => (e.1, e.2.trained (s.port 0).plane)) p = _
  rw [tget_map_key fun _ => Port.trained (s.port 0).plane, h]
  rfl

/-- A port trains: it is up where its plane is that of port 0. -/
theorem State.port_trained (s : State) (p n : Nat) : (s.readPlane p n).trainPorts.port p =
    Port.trained ((s.readPlane p n).port 0).plane { s.port p with plane := some n, retrain := none } :=
  State.port_trainPorts (s.tget_readPlane p n)

theorem State.device_readPlane (s : State) (p n : Nat) : (s.readPlane p n).fuses.device = if p = 0 then n else s.fuses.device := by
  unfold State.readPlane
  dsimp only
  split <;> rfl

theorem linkTraining_results (hp : s.portPresent p = true) {n : Nat} (hn : n < 512) (h : s.phase ≠ .thermalStop) :
    Completes (.linkTraining p n) s fun t => (t.port p).plane = some n ∧ (t.port p).retrain = none ∧
      (p = 0 → t.fuses.device = n ∧ (2 ≤ (s.port p).lanes → (t.port 0).up = true)) ∧ (p ≠ 0 → t.fuses.device = s.fuses.device) ∧
      (p ≠ 0 → ∀ z, tget s.fabric.ports 0 = some z → z.plane = some n → 2 ≤ (s.port p).lanes → (t.port p).up = true) ∧
      (p ≠ 0 → ∀ z, tget s.fabric.ports 0 = some z → z.plane ≠ some n → (t.port p).up = false) := by
  have hport := s.port_trained p n
  have hdevice : (s.readPlane p n).trainPorts.fuses.device = if p = 0 then n else s.fuses.device := s.device_readPlane p n
  have hzero : p ≠ 0 → ∀ z, tget s.fabric.ports 0 = some z → ((s.readPlane p n).port 0).plane = z.plane := fun hp0 z hz => by
    rw [State.port_of_tget ((s.tget_readPlane_ne n (Ne.symm hp0)).trans hz)]
  refine ⟨_, linkTraining_trains hp hn h, by rw [hport]; rfl, by rw [hport]; rfl, fun hp0 => ⟨?_, fun hlanes => ?_⟩, fun hp0 => ?_,
    fun hp0 z hz hplane hlanes => ?_, fun hp0 z hz hplane => ?_⟩
  · rw [hdevice, if_pos hp0]
  · subst hp0
    rw [hport, State.port_of_tget (s.tget_readPlane 0 n)]
    simp [Port.trained, hlanes]
  · rw [hdevice, if_neg hp0]
  · rw [hport, hzero hp0 z hz, hplane]
    simp [Port.trained, hlanes]
  · rw [hport, hzero hp0 z hz]
    have hne : (some n == z.plane) = false := beq_eq_false_iff_ne.2 (Ne.symm hplane)
    simp [Port.trained, hne]

end

/-- What reaches the ports (R15, R20, R278-R281). -/
theorem fabricPorts : FabricPorts := by
  intro s p
  refine ⟨absent_faults, fun dest h => State.class0Port_of_up h, fun hp => ?_⟩
  refine ⟨fun hrun => ⟨fun f hup hretrain hok => ⟨_, flitReceive_running hp hrun f, ?_⟩, fun f h => ⟨_, flitReceive_running hp hrun f, ?_⟩,
      fun f hup hretrain => ⟨_, flitReceive_running hp hrun f, ?_⟩⟩,
    fun hstop f => ⟨s, flitReceive_stopped hp hstop f, rfl⟩, fun h => laneFailure_down_results hp h,
    fun h hlink => laneFailure_retrains hp h hlink, fun at_ h hdue => ⟨_, retrainComplete_results hp h, ?_⟩,
    fun at_ h hlater => ⟨_, retrainComplete_results hp h, if_neg (Nat.not_le.2 hlater)⟩, fun n hn => linkTraining_far hn,
    fun n hn hstop => ⟨s, linkTraining_stopped hp hn hstop, rfl⟩, fun n hn hgo => linkTraining_results hp hn hgo⟩
  · rw [hup, hretrain, hok]
    rfl
  · obtain h | ⟨hup, hbad⟩ := h
    · rw [Option.isNone_eq_false_iff.2 h, h, Bool.and_false]
      rfl
    · rw [hup, hbad, Bool.not_false, Bool.or_true]
      rfl
  · rw [hup, hretrain]
    rfl
  · rw [if_pos hdue]
    exact ⟨State.port_setPort .., fun j hj => State.port_setPort_ne _ _ hj⟩

/-- What completes on the host's side (R276, R277). -/
theorem hostAccesses : HostAccesses := by
  intro s
  refine ⟨fun req ok data r h => ⟨_, hostCompletion_of_some h, fun e => ?_, rfl, ?_, fun l hl hid => Landing.complete_results hid s.now ok data⟩,
    fun req ok data h => ⟨s, hostCompletion_of_none h, rfl⟩, fun hrun => ⟨?window, fun w h => ⟨_, hdmWindowSet_of_none hrun h, rfl⟩, ?read, ?write,
      fun addr len h => ⟨s, cxlMemRead_of_none hrun h, rfl⟩, fun addr data h => ⟨s, cxlMemWrite_of_none hrun h, rfl⟩⟩⟩
  · show e ∈ s.host.reads.filter (fun e => e.id != req) ↔ _
    rw [List.mem_filter, bne_iff_ne]
  · rw [State.ctx_modCtx]
    rfl
  case window =>
    intro w p hpart
    have hexec := hdmWindowSet_of_some hrun hpart
    refine ⟨fun hgood => ⟨_, hexec, ?_⟩, fun hbad => ⟨_, hexec, if_neg (ne_true_of_eq_false hbad)⟩⟩
    rw [if_pos (show windowGood s p w = true from hgood)]
    exact ⟨rfl, rfl, rfl⟩
  case read =>
    intro addr len key as h
    have hexec := cxlMemRead_of_some hrun h
    refine ⟨fun hidle => ⟨_, hexec, ?_⟩, fun hbusy => ⟨_, hexec, ?_⟩⟩
    · rw [if_pos hidle]
      exact ⟨rfl, rfl⟩
    · rw [if_neg (ne_true_of_eq_false hbusy)]
      obtain ⟨at_, hlt, hmem⟩ := s.message_later (.cxlMemRead addr len)
      exact ⟨at_, hlt, hmem, rfl⟩
  case write =>
    intro addr data key as h
    have hexec := cxlMemWrite_of_some hrun h
    refine ⟨fun hidle hlines hranges hnd hwf hrise => ⟨_, hexec, ?_⟩, fun hbusy => ⟨_, hexec, ?_⟩⟩
    · rw [if_pos hidle]
      refine cxlMemWrite_bytes data hnd ⟨hwf, hrise, hranges⟩ fun l => ?_
      obtain ⟨hwaiting, hcollapsing, hreplicated, hexpiry, hperformed⟩ := hlines l
      exact ⟨hwaiting, hcollapsing, hreplicated, hexpiry, hperformed⟩
    · rw [if_neg (ne_true_of_eq_false hbusy)]
      obtain ⟨at_, hlt, hmem⟩ := s.message_later (.cxlMemWrite addr data)
      exact ⟨at_, hlt, hmem, rfl⟩

/-- Settles O52. -/
theorem hostAndFabric : Obligations.HostAndFabric := ⟨hostAccesses, fabricPorts⟩

end
end Sys2Proof.Machine
end

section
-- One proof after another, as in the sections before this one.
set_option Elab.async false

namespace Sys2Proof.Machine

section
open Sys2Proof.Claims

/-! ### The copy engine (R398, R399) -/

section
variable {s : State} {k : Nat} {tr : Transfer}

theorem State.eng_setRunning (s : State) (k : Nat) (tr : Transfer) : ((s.setRunning k tr).core k).eng.running = some tr := by
  rw [State.setRunning, State.core_modCore]

theorem transferStart_busy {r : Transfer} (h : (s.core k).eng.running = some r) : exec (.transferStart k) s = .next s := by
  show execTransferStart k s = _
  rw [execTransferStart, h]
  rfl

/-- The engine of a core takes a transfer, which runs to a time. -/
def Core.takeTransfer (tr : Transfer) (at_ : Nat) (c : Core) : Core :=
  { c with eng := { c.eng with
    buf := c.eng.buf.filter fun u => !u.is tr.env tr.chan tr.id, running := some { tr with ends := at_ } } }

def State.takeTransfer (s : State) (k : Nat) (tr : Transfer) (at_ : Nat) : State :=
  (s.modCore k (Core.takeTransfer tr at_)).schedule at_ (.transferComplete k)

theorem State.core_takeTransfer (s : State) (k : Nat) (tr : Transfer) (at_ : Nat) :
    (s.takeTransfer k tr at_).core k = (s.core k).takeTransfer tr at_ := s.core_modCore k (Core.takeTransfer tr at_)

theorem transferStart_takes (hfree : (s.core k).eng.running = none) (hnext : nextTransfer s.gtc (s.core k).eng.buf = some tr) :
    exec (.transferStart k) s = .next (s.draw1.2.takeTransfer k tr
      (s.after (((tr.height - tr.row) * tr.width + 63) / 64 + s.draw1.1 % 64))) := by
  show execTransferStart k s = _
  unfold execTransferStart
  dsimp only
  rw [hfree, hnext]
  rfl

theorem transferStart_results (hfree : (s.core k).eng.running = none) (hnext : nextTransfer s.gtc (s.core k).eng.buf = some tr) :
    Completes (.transferStart k) s fun t => ∃ at_, s.now ≤ at_ ∧ (t.core k).eng.running = some { tr with ends := at_ } ∧
      (at_, Instr.transferComplete k) ∈ t.agenda ∧ (t.core k).eng.buf = (s.core k).eng.buf.filter (fun u => !u.is tr.env tr.chan tr.id) ∧
      t.phys = s.phys := by
  refine ⟨_, transferStart_takes hfree hnext, _, Nat.le_add_right .., ?_, (State.mem_schedule _ _ _ _).2 (.inl rfl), ?_, rfl⟩
  · exact congrArg (·.eng.running) (State.core_takeTransfer ..)
  · exact congrArg (·.eng.buf) (State.core_takeTransfer ..)

theorem transferComplete_early (h : (s.core k).eng.running = some tr) (hlater : s.now < tr.ends) :
    exec (.transferComplete k) s = .next s := by
  show execTransferComplete k s = _
  unfold execTransferComplete
  rw [h]
  dsimp only
  rw [decide_eq_true hlater]
  rfl

/-- What becomes of a transfer whose rows have been copied as far as they go. -/
def State.afterRows (s : State) (k now gtc : Nat) (u : Transfer) : State :=
  match u.fault, u.bad with
  | some f, _ => ((s.modCore k fun c => { c with eng := { c.eng with running := none, buf := c.eng.buf ++ [u] } }).engineFault
      u.env u.thread f u.at_).schedule now (.transferStart k)
  | none, some _ => (s.setRunning k u).schedule now (.transferFault k)
  | none, none =>
    if s.engPending k then (s.setRunning k { u with ends := tickTime (gtc + 1) }).schedule (tickTime (gtc + 1)) (.transferComplete k)
    else (s.endOp u.env u.chan u.id true (some (1, 0))).freeEngine k

theorem transferComplete_copies (h : (s.core k).eng.running = some tr) (hbad : tr.bad = none) (hdue : tr.ends ≤ s.now) (hlocal : tr.rmt = none)
    {u : Transfer} {v : State} (hc : copyRows (tr.height - tr.row) tr s = (u, v)) :
    exec (.transferComplete k) s = .next ((v.engFlush k).afterRows k s.now s.gtc u) := by
  have hgo : (decide (s.now < tr.ends) || tr.bad.isSome) = false := by
    rw [decide_eq_false (Nat.not_lt.2 hdue), hbad]
    rfl
  show execTransferComplete k s = _
  unfold execTransferComplete
  rw [h]
  dsimp only
  rw [hgo, if_neg Bool.false_ne_true, hlocal]
  dsimp only
  rw [Bool.not_true, if_neg Bool.false_ne_true, hc]
  dsimp only
  unfold State.afterRows
  cases u.fault with
  | some f => rfl
  | none =>
    cases u.bad with
    | some a => rfl
    | none =>
      dsimp only
      split <;> rfl

theorem transferFault_ends {a : Nat} (h : (s.core k).eng.running = some tr) (hbad : tr.bad = some a) :
    exec (.transferFault k) s = .next (((s.endOp tr.env tr.chan tr.id false (some (2, 0))).engineTrap tr.env tr.thread
      ⟨.xferFault, tr.chan, a⟩ tr.at_).freeEngine k) := by
  show execTransferFault k s = _
  unfold execTransferFault
  dsimp only
  rw [h]
  dsimp only
  rw [hbad]
  rfl

/-! ### The loop generator (R400) -/

theorem loopGenerator_waits {x : Nat} {l : LoopGen} {r : List Transfer}
    (hl : (s.core k).eng.loops.find? (fun l => l.env.ctx == x && !l.left.isEmpty) = some l) (hleft : l.left = tr :: r)
    (hfull : 64 ≤ (s.core k).eng.buf.length) :
    exec (.loopGeneratorEntry k x) s = .next (s.schedule (s.after 1) (.loopGeneratorEntry k x)) := by
  show execLoopGeneratorEntry k x s = _
  unfold execLoopGeneratorEntry
  dsimp only
  rw [hl]
  dsimp only
  rw [hleft]
  exact if_pos hfull

/-- The loops of a core after one of them has handed a transfer over. -/
def loopsAfter (loops : List LoopGen) (l : LoopGen) (r : List Transfer) : List LoopGen :=
  (loops.map fun m => if m == l then { m with left := r } else m).filter fun m => !m.left.isEmpty

theorem loopGenerator_enters {x : Nat} {l : LoopGen} {r : List Transfer}
    (hl : (s.core k).eng.loops.find? (fun l => l.env.ctx == x && !l.left.isEmpty) = some l) (hleft : l.left = tr :: r)
    (hroom : (s.core k).eng.buf.length < 64) :
    let t := (s.modCore k fun c => { c with eng := { c.eng with loops := loopsAfter (s.core k).eng.loops l r } }).enterTransfer k tr
    exec (.loopGeneratorEntry k x) s = .next (if r.isEmpty then t else t.schedule (s.after 1) (.loopGeneratorEntry k x)) := by
  intro t
  show execLoopGeneratorEntry k x s = _
  unfold execLoopGeneratorEntry
  dsimp only
  rw [hl]
  dsimp only
  rw [hleft]
  exact if_neg (Nat.not_le.2 hroom)

theorem State.mem_enterTransfer (s : State) (k : Nat) (tr : Transfer) : tr ∈ ((s.enterTransfer k tr).core k).eng.buf := by
  have hcore : (s.enterTransfer k tr).core k = { s.core k with eng := { (s.core k).eng with buf := (s.core k).eng.buf ++ [tr] } } :=
    s.core_modCore k fun c => { c with eng := { c.eng with buf := c.eng.buf ++ [tr] } }
  rw [hcore]
  exact List.mem_append_right _ (List.mem_singleton_self tr)

end

/-! ### Collectives (R353-R355) -/

section
variable {s : State} {cohort g target : Nat} {u : GroupUse} {i : Issuer} {bs : List Byte}

/-- Data of a multicast waits in the inbox of a core, unless it waits there already. -/
def State.holdFrom (s : State) (k cohort g target : Nat) (i : Issuer) (bs : List Byte) : State :=
  s.modCore k fun c => { c with
    inbox := if c.inbox.any fun b => b.cohort == cohort && b.group == g && b.logical == target then c.inbox
      else c.inbox ++ [⟨cohort, g, target, i.dst, bs⟩] }

theorem State.inbox_holdFrom {k : Nat} (h : ∀ b ∈ (s.core k).inbox, ¬(b.cohort = cohort ∧ b.group = g ∧ b.logical = target)) :
    ((s.holdFrom k cohort g target i bs).core k).inbox = (s.core k).inbox ++ [⟨cohort, g, target, i.dst, bs⟩] := by
  have hnone : ((s.core k).inbox.any fun b => b.cohort == cohort && b.group == g && b.logical == target) = false :=
    List.any_eq_false.2 fun b hb hin => h b hb (by simpa [and_assoc] using hin)
  rw [State.holdFrom, State.core_modCore]
  dsimp only
  rw [hnone]
  rfl

/-- What a write of a multicast comes to (R353, R355). -/
def multicastWrote (cohort g target : Nat) (i : Issuer) : EngGot × State → State
  | (.ok _, s1) => s1.delivered cohort g target false
  | (.fault va lv wr, s1) => s1.collStall cohort g i va lv wr
  | (.bad a, s1) => s1.collLost cohort g i a

section
variable (huse : s.groupUse cohort g = some u) (hmcast : u.redgrp = false) (hhead : u.issuers.head? = some i) (hbytes : i.bytes = some bs)
  (hfault : i.fault = none) (hleft : target ∈ u.left)
include huse hmcast hhead hbytes hfault hleft

/-- A delivery that is still to be made goes where its target's workgroup is. -/
theorem mcastDelivery_by_seat : exec (.mcastDelivery cohort g target) s = .next (match s.peerSeat cohort target with
    | .live _ _ => multicastWrote cohort g target i (s.collWrite i (s.peerSeat cohort target) target bs)
    | .saved k _ => s.holdFrom k cohort g target i bs
    | .gone => if ((tget s.cohorts cohort).map (·.doneCores.contains target)).getD true then s.delivered cohort g target true
      else s.holdFrom (((tget s.cohorts cohort).bind fun h => h.place[target]?).getD 0) cohort g target i bs) := by
  have hgo : (u.redgrp || !u.left.contains target || i.fault.isSome) = false := by
    rw [hmcast, List.contains_iff_mem.2 hleft, hfault]
    rfl
  show execMcastDelivery cohort g target s = _
  unfold execMcastDelivery
  rw [huse]
  dsimp only
  rw [hhead]
  dsimp only [Option.bind_some]
  rw [hbytes]
  dsimp only
  rw [hgo, if_neg Bool.false_ne_true]
  cases hseat : s.peerSeat cohort target with
  | live j x =>
    dsimp only
    generalize s.collWrite i (.live j x) target bs = r
    obtain ⟨_ | _ | _, s1⟩ := r <;> rfl
  | saved j n => rfl
  | gone =>
    dsimp only
    split <;> rfl

theorem mcastDelivery_live {j x : Nat} (hseat : s.peerSeat cohort target = .live j x) :
    exec (.mcastDelivery cohort g target) s = .next (multicastWrote cohort g target i (s.collWrite i (.live j x) target bs)) := by
  rw [mcastDelivery_by_seat huse hmcast hhead hbytes hfault hleft, hseat]

theorem mcastDelivery_saved {j n : Nat} (hseat : s.peerSeat cohort target = .saved j n) :
    exec (.mcastDelivery cohort g target) s = .next (s.holdFrom j cohort g target i bs) := by
  rw [mcastDelivery_by_seat huse hmcast hhead hbytes hfault hleft, hseat]

theorem mcastDelivery_gone {h : Cohort} (hseat : s.peerSeat cohort target = .gone) (hh : tget s.cohorts cohort = some h) :
    (target ∈ h.doneCores → exec (.mcastDelivery cohort g target) s = .next (s.delivered cohort g target true)) ∧
      (target ∉ h.doneCores → ∀ j, h.place[target]? = some j →
        exec (.mcastDelivery cohort g target) s = .next (s.holdFrom j cohort g target i bs)) := by
  have hexec := mcastDelivery_by_seat huse hmcast hhead hbytes hfault hleft
  rw [hseat, hh] at hexec
  refine ⟨fun hdone => hexec.trans (congrArg _ (if_pos (List.contains_iff_mem.2 hdone))), fun hrun j hj => hexec.trans (congrArg _ ?_)⟩
  have hno : ¬(((some h).map (·.doneCores.contains target)).getD true = true) := fun hc => hrun (List.contains_iff_mem.1 hc)
  dsimp only
  rw [if_neg hno, Option.bind_some, hj]
  rfl

end

/-! #### Reductions (R354) -/

theorem redgrpResult_gives (huse : s.groupUse cohort g = some u) (hred : u.redgrp = true) (hdue : u.complete = true ∨ u.result.isSome = true) :
    exec (.redgrpResult cohort g) s = .next ((sortBy (·.lg) (u.issuers.filter fun i => i.fault.isNone)).foldl (redMember cohort g u)
      (s.setUse cohort g { u with result := some (redResult u) })) := by
  have hgo : (!u.redgrp || (u.result.isNone && !u.complete)) = false := by
    obtain h | h := hdue
    · rw [hred, h]
      exact Bool.and_false _
    · rw [hred, Option.isNone_eq_false_iff.2 h]
      rfl
  show execRedgrpResult cohort g s = _
  unfold execRedgrpResult
  rw [huse]
  dsimp only
  rw [hgo]
  rfl

theorem redgrpResult_early (huse : s.groupUse cohort g = some u) (hpart : u.complete = false) (hnone : u.result = none) :
    exec (.redgrpResult cohort g) s = .next s := by
  show execRedgrpResult cohort g s = _
  unfold execRedgrpResult
  rw [huse]
  dsimp only
  rw [hnone, hpart]
  exact if_pos (Bool.or_true _)

end

/-- Settles O51. -/
theorem engineEvents : Obligations.EngineEvents := by
  unfold Obligations.EngineEvents
  intro s k eng
  refine ⟨fun r h => ⟨s, transferStart_busy h, rfl⟩, fun tr hfree hnext => transferStart_results hfree hnext,
    fun tr h _ hlater => ⟨s, transferComplete_early h hlater, rfl⟩, ?copies, fun tr a h hbad => ⟨_, transferFault_ends h hbad, rfl⟩, ?loops, ?mcast,
    fun cohort g u huse hred => ⟨fun hdue => ⟨_, redgrpResult_gives huse hred hdue, rfl⟩,
      fun hpart hnone => ⟨s, redgrpResult_early huse hpart hnone, rfl⟩⟩⟩
  case copies =>
    intro tr h hbad hdue hlocal c u sent
    have hexec : exec (.transferComplete k) s = .next (sent.afterRows k s.now s.gtc u) := transferComplete_copies h hbad hdue hlocal rfl
    unfold State.afterRows at hexec
    refine ⟨fun f hf => ?_, fun hf hb => ?_, fun hf hb hpending => ?_, fun hf hb hdone => ?_⟩
    · rw [hf] at hexec
      exact ⟨_, hexec, rfl⟩
    · obtain ⟨a, ha⟩ := Option.isSome_iff_exists.1 hb
      rw [hf, ha] at hexec
      exact ⟨_, hexec, State.eng_setRunning .., (State.mem_schedule _ _ _ _).2 (.inl rfl), rfl⟩
    · rw [hf, hb] at hexec
      dsimp only at hexec
      rw [if_pos hpending] at hexec
      have hends : ({ u with ends := tickTime (s.gtc + 1), fault := none, bad := none } : Transfer) = { u with ends := tickTime (s.gtc + 1) } := by
        simp only [hf, hb]
      exact ⟨_, hexec, (State.eng_setRunning sent k _).trans (congrArg some hends), rfl⟩
    · rw [hf, hb] at hexec
      dsimp only at hexec
      rw [if_neg (ne_true_of_eq_false hdone)] at hexec
      exact ⟨_, hexec, rfl⟩
  case loops =>
    intro x l tr r hl hleft
    refine ⟨fun hfull => ⟨_, loopGenerator_waits hl hleft hfull, rfl⟩, fun hroom => ⟨_, loopGenerator_enters hl hleft hroom, ?_, fun hr => ?_⟩⟩
    · split
      · exact State.mem_enterTransfer ..
      · exact State.mem_enterTransfer ..
    · rw [if_neg (fun h => hr (List.isEmpty_iff.1 h))]
      exact (State.mem_schedule _ _ _ _).2 (.inl rfl)
  case mcast =>
    intro cohort g target u i bs huse hmcast hhead hbytes hfault hleft held
    refine ⟨?_, fun j n hseat hnew => ?_, fun h hseat hh => ⟨fun hdone => ?_, fun hrun j hj hnew => ?_⟩⟩
    · intro j x hseat r
      have hexec : exec (.mcastDelivery cohort g target) s = .next (multicastWrote cohort g target i r) :=
        mcastDelivery_live huse hmcast hhead hbytes hfault hleft hseat
      obtain ⟨got, s1⟩ := r
      refine ⟨fun o ho => ?_, fun va lv wr hv => ?_, fun a ha => ?_⟩
      · obtain rfl : got = .ok o := ho
        exact ⟨_, hexec, rfl⟩
      · obtain rfl : got = .fault va lv wr := hv
        exact ⟨_, hexec, rfl⟩
      · obtain rfl : got = .bad a := ha
        exact ⟨_, hexec, rfl⟩
    · exact ⟨_, mcastDelivery_saved huse hmcast hhead hbytes hfault hleft hseat, State.inbox_holdFrom hnew, rfl⟩
    · exact ⟨_, (mcastDelivery_gone huse hmcast hhead hbytes hfault hleft hseat hh).1 hdone, rfl⟩
    · exact ⟨_, (mcastDelivery_gone huse hmcast hhead hbytes hfault hleft hseat hh).2 hrun j hj, State.inbox_holdFrom hnew, rfl⟩

end
end Sys2Proof.Machine
end

section
-- One proof after another, as in the sections before this one.
set_option Elab.async false

namespace Sys2Proof.Machine

section
open Sys2Proof.Claims

/-! ### The life-cycle state as a property of states and answers (R285)

For each operation `f` on states a lemma `State.Forward.f` says that it takes the life-cycle state no further back; the lemma of an operation
follows its definition and cites the lemmas of the operations it uses, up to `exec` and `step`, as for the canonical form of memories. Only
a reset, the end of a wipe and a request for a change reach the life-cycle state. -/

/-- The life-cycle state is at `lc` or after it, and a change that waits for its wipe goes forward. -/
def State.Forward (lc : LifeCycle) (s : State) : Prop := LifeInv s ∧ lifeOrder lc ≤ lifeOrder s.life

/-- The state that an answer goes on with is at `lc` or after it. -/
def Answer.Forward (lc : LifeCycle) (r : Answer) : Prop :=
  match r with
  | .next t => t.Forward lc
  | .fault _ | .refused _ => True

section
variable {lc : LifeCycle} {s : State} {k x t d q n l : Nat} (h : s.Forward lc)
include h

/-! ### Changes of one field -/

theorem State.Forward.setCores {cs : Tab Core} : ({ s with cores := cs } : State).Forward lc := h
theorem State.Forward.modCore {f : Core → Core} : (s.modCore k f).Forward lc := h
theorem State.Forward.modMtx {f : Mtx → Mtx} : (s.modMtx k f).Forward lc := h
theorem State.Forward.modPhys {f : Phys → Phys} : (s.modPhys f).Forward lc := h
theorem State.Forward.modCtx {f : Ctx → Ctx} : (s.modCtx k x f).Forward lc := h
theorem State.Forward.modThread {f : Thread → Thread} : (s.modThread k x t f).Forward lc := h
theorem State.Forward.modMe {f : Ctx → Ctx} : (s.modMe f).Forward lc := h
theorem State.Forward.modHome {f : Core → Core} : (s.modHome f).Forward lc := h
theorem State.Forward.modCluster {f : Cluster → Cluster} : (s.modCluster k f).Forward lc := h
theorem State.Forward.modFe {f : FrontEnd → FrontEnd} : (s.modFe d f).Forward lc := h
theorem State.Forward.modQueue {f : Queue → Queue} : (s.modQueue d q f).Forward lc := h
theorem State.Forward.modHost {f : HostLink → HostLink} : (s.modHost f).Forward lc := h
theorem State.Forward.schedule {i : Instr} : (s.schedule t i).Forward lc := h
theorem State.Forward.draw1 : s.draw1.2.Forward lc := h
theorem State.Forward.newWait : s.newWait.2.Forward lc := h
theorem State.Forward.modLine {f : Line → Line} : (s.modLine n f).Forward lc := h
theorem State.Forward.modBank {f : Bank → Bank} : (s.modBank k n f).Forward lc := h
theorem State.Forward.message {i : Instr} : (s.message i).Forward lc := h

end

/-! ### The life cycle beside memory -/

/-- The life-cycle state, and the change that waits. -/
def State.course (s : State) : LifeCycle × Option LifeCycle := (s.life, s.lifePending)

theorem State.Forward.of_course {lc : LifeCycle} {s t : State} (h : s.Forward lc) (e : t.course = s.course) : t.Forward lc := by
  obtain ⟨hpend, hle⟩ := h
  have hlife : t.life = s.life := congrArg Prod.fst e
  have hwait : t.lifePending = s.lifePending := congrArg Prod.snd e
  exact ⟨fun n hn => hlife ▸ hpend n (hwait ▸ hn), hlife ▸ hle⟩

theorem besideAccesses_course (k x : Nat) : BesideAccesses k x State.course where
  phys _ _ := rfl
  bank _ _ _ _ := rfl
  agenda _ _ _ := rfl
  free _ := rfl
  core _ _ _ _ := rfl
  cluster _ _ _ := rfl
  host _ _ := rfl
  rmWrites _ := rfl

/-! ### Branches, folds and pairs -/

section
variable {lc : LifeCycle}

theorem State.Forward.ite {a b : State} {c : Prop} {dec : Decidable c} (ha : a.Forward lc) (hb : b.Forward lc) : (if c then a else b).Forward lc := by
  split
  · exact ha
  · exact hb

theorem State.Forward.ite_snd {α : Type} {a b : α × State} {c : Prop} {dec : Decidable c} (ha : a.2.Forward lc) (hb : b.2.Forward lc) :
    (if c then a else b).2.Forward lc := by
  split
  · exact ha
  · exact hb

/-- The state of a pair that is written out. -/
theorem State.Forward.of_eq {α : Type} {p : α × State} {a : α} {t : State} (h : p.2.Forward lc) (e : p = (a, t)) : t.Forward lc := by
  subst e; exact h

theorem State.Forward.foldl {s : State} {α : Type} {l : List α} {f : State → α → State} (h : s.Forward lc)
    (hf : ∀ s a, s.Forward lc → (f s a).Forward lc) : (l.foldl f s).Forward lc :=
  List.foldlRecOn l f h fun s hs a _ => hf s a hs

/-- A fold that carries a state beside other data. -/
theorem State.Forward.foldl_snd {σ α : Type} {p : σ × State} {l : List α} {f : σ × State → α → σ × State} (h : p.2.Forward lc)
    (hf : ∀ p a, p.2.Forward lc → (f p a).2.Forward lc) : (l.foldl f p).2.Forward lc :=
  List.foldlRecOn (motive := fun p => p.2.Forward lc) l f h fun p hp a _ => hf p a hp

theorem State.Forward.next {s : State} (h : s.Forward lc) : Answer.Forward lc (.next s) := h

theorem Answer.Forward.fault {x : Fault} : Answer.Forward lc (.fault x) := trivial

theorem Answer.Forward.ite {a b : Answer} {c : Prop} {dec : Decidable c} (ha : a.Forward lc) (hb : b.Forward lc) : Answer.Forward lc (if c then a else b) := by
  split
  · exact ha
  · exact hb

theorem Answer.Forward.andThen {r : Answer} {f : State → Answer} (h : r.Forward lc) (hf : ∀ s, s.Forward lc → Answer.Forward lc (f s)) :
    Answer.Forward lc (r.andThen f) := by
  cases r with
  | next s => exact hf s h
  | fault | refused => trivial

theorem Answer.Forward.stateOr {r : Answer} {s : State} (h : r.Forward lc) (hs : s.Forward lc) : (r.stateOr s).Forward lc := by
  cases r with
  | next t => exact h
  | fault | refused => exact hs

end

section
variable {lc : LifeCycle} {s : State} {k x t n l c : Nat}

/-! ### Records and traps -/

theorem State.Forward.addRecord (h : s.Forward lc) {tr : Trap} {late eng : Bool} {at_ stop : Pc} {point : Option (Nat × Nat)} {tick : Option Nat} :
    (s.addRecord k x t tr late eng at_ stop point tick).Forward lc :=
  h.modCore.schedule

theorem State.Forward.stopFirmware (h : s.Forward lc) : (s.stopFirmware k).Forward lc := h.modCtx.schedule

theorem State.Forward.leavePark (h : s.Forward lc) : (s.leavePark k x t).Forward lc := h.modCtx.modCore

theorem State.Forward.park (h : s.Forward lc) {p : TrapHold} {eng : Bool} {tick : Option Nat} : (s.park k x t p eng tick).Forward lc :=
  h.addRecord.leavePark.modCtx

theorem State.Forward.takeTrapsAt (h : s.Forward lc) {traps : List (Nat × Trap × Pc)} {point : Option (Nat × Nat)} :
    (s.takeTrapsAt k x traps point).Forward lc := by
  refine .ite (.stopFirmware ?_) ?_ <;> exact h.modCtx.foldl fun s t hs => by
    split
    · exact hs.park
    · exact hs

theorem State.Forward.takeTraps (h : s.Forward lc) {traps : List (Nat × Trap)} : (s.takeTraps k x traps).Forward lc := h.takeTrapsAt

theorem State.Forward.trapped (h : s.Forward lc) {traps : List (Nat × Trap)} : (s.trapped n traps).Forward lc := by
  unfold State.trapped
  split
  · exact h
  · exact h.takeTraps

theorem State.Forward.runOp (h : s.Forward lc) {traps : List (Nat × Trap)} {eff : State → State} (he : ∀ s, s.Forward lc → (eff s).Forward lc) :
    (runOp n traps eff s).Forward lc := by
  unfold Machine.runOp
  split
  · exact he s h
  · exact h.trapped

theorem State.Forward.holdFor (h : s.Forward lc) {e : Stall} : (s.holdFor e).Forward lc := h.modMe

theorem State.Forward.parkLate (h : s.Forward lc) {p : TrapHold} {eng : Bool} {tick : Option Nat} : (s.parkLate k x t p eng tick).Forward lc :=
  .ite h.addRecord h.park

theorem State.Forward.takeLateHolds (h : s.Forward lc) {holds : List (Nat × TrapHold)} {eng : Bool} {tick : Option Nat} :
    (s.takeLateHolds k x holds eng tick).Forward lc := by
  refine .ite (.stopFirmware ?_) ?_ <;> exact h.modCtx.foldl fun _ _ hs => hs.foldl fun _ _ hs => hs.parkLate

theorem State.Forward.takeLate (h : s.Forward lc) {traps : List (Nat × Trap)} {at_ : Pc} {dest : Option (Nat × Nat)} {eng : Bool} {tick : Option Nat} :
    (s.takeLate k x traps at_ dest eng tick).Forward lc := h.takeLateHolds

end

section
variable {lc : LifeCycle} {s : State} {k x t n l c pa : Nat}

/-! ### Banks, slices and home slices -/

theorem State.Forward.busyBank (h : s.Forward lc) : (s.busyBank k n).Forward lc := h.draw1.modBank.schedule

theorem State.Forward.flushWhere (h : s.Forward lc) {ok : Nat → Bool} : (s.flushWhere ok).Forward lc :=
  h.of_course ((besideAccesses_course 0 0).flushWhere s ok)

theorem State.Forward.flushIdle (h : s.Forward lc) : s.flushIdle.Forward lc := h.flushWhere

theorem State.Forward.answered (h : s.Forward lc) {at_ : Nat} : (s.answered n at_).Forward lc := h.setCores

theorem State.Forward.spill (h : s.Forward lc) : (s.spill l).Forward lc :=
  h.of_course ((besideAccesses_course 0 0).spill s l)

theorem State.Forward.performWrite (h : s.Forward lc) {w : PWrite} : (s.performWrite l w).Forward lc := by
  unfold State.performWrite
  cases w.id with
  | some id => exact .answered (.spill (.modLine h.modPhys))
  | none => exact .spill (.modLine h.modPhys)

theorem State.Forward.homeArrive (h : s.Forward lc) {w : PWrite} : (s.homeArrive l w).Forward lc :=
  .ite h.performWrite (.ite h.modLine.message (.ite h.modLine.schedule h.modLine))

theorem State.Forward.sendWcb (h : s.Forward lc) : (s.sendWcb c l).Forward lc :=
  h.of_course ((besideAccesses_course 0 0).sendWcb rfl)

/-! ### The L1, leases and translations -/

theorem State.Forward.l1Store (h : s.Forward lc) {key : Option Nat} {bs : List (Nat × Byte)} : (s.l1Store k l key bs).Forward lc :=
  h.of_course ((besideAccesses_course 0 0).l1Store rfl)

theorem State.Forward.l1Fill (h : s.Forward lc) {e : L1Line} : (s.l1Fill k l e).Forward lc :=
  h.of_course ((besideAccesses_course 0 0).l1Fill rfl)

theorem State.Forward.storeLine (h : s.Forward lc) {key : Option Nat} {rm : Bool} {bs : List (Nat × Byte)} :
    (s.storeLine k x t key rm l bs).Forward lc :=
  h.of_course ((besideAccesses_course k x).storeLine rfl)

theorem State.Forward.grant (h : s.Forward lc) {rm : Bool} : (s.grant k l rm).2.Forward lc :=
  h.of_course ((besideAccesses_course 0 0).grant rfl)

theorem State.Forward.grantRange (h : s.Forward lc) {d : Word} : ∀ g ∈ s.grantRange k l n d, g.2.Forward lc := by
  unfold State.grantRange
  intro g hg
  dsimp only at hg
  split at hg
  · cases hg
  · split at hg
    · cases hg; exact h.modPhys
    · split at hg
      · cases hg; exact h.modPhys.schedule
      · cases hg

theorem State.Forward.servedBy (h : s.Forward lc) : (s.servedBy l).2.Forward lc :=
  h.of_course ((besideAccesses_course 0 0).servedBy rfl)

theorem State.Forward.touchLine (h : s.Forward lc) {off n : Nat} {key : Option Nat} {rm : Bool} {range : Option (Nat × Word)} :
    (s.touchLine k l off n key rm range).2.Forward lc := by
  unfold State.touchLine
  split
  · exact h
  · exact h
  · dsimp only
    split
    · exact .ite_snd h h
    · split
      next e =>
        obtain ⟨r, -, hr⟩ := Option.bind_eq_some_iff.1 e
        obtain ⟨g, hg, hp⟩ := Option.map_eq_some_iff.1 hr
        cases hp
        have h2 := h.servedBy.grantRange _ hg
        exact .ite_snd h2.modCore h2.l1Fill
      next => exact .ite_snd h.servedBy.grant.modCore h.servedBy.grant.l1Fill

theorem State.Forward.startWalker (h : s.Forward lc) : (s.startWalker c).Forward lc := h.draw1.modCluster

theorem State.Forward.translate (h : s.Forward lc) {sp : Space} {va : Nat} {kind : AccessKind} : (s.translate sp va kind).2.Forward lc :=
  h.of_course ((besideAccesses_course 0 0).translate rfl)

end

section
variable {lc : LifeCycle} {s : State} {k x t n l c pa a e g : Nat}

/-! ### Landings, units and results -/

theorem State.Forward.asServing {f : State → State} (h : s.Forward lc) (hf : ∀ s, s.Forward lc → (f s).Forward lc) : (s.asServing f).Forward lc :=
  .ite (hf s h) (.foldl (hf _ (h.foldl fun _ _ hs => hs.modThread)) fun _ _ hs => hs.modThread)

theorem State.Forward.claimLast (h : s.Forward lc) {kind : DestKind} {dest width : Nat} {ts : List Nat} :
    (s.claimLast kind dest width ts).Forward lc := .ite h.modMe h

theorem State.Forward.land (h : s.Forward lc) {o : Op} {kind : DestKind} {dest width lat flags : Nat} {vals : List (Nat × List Word)}
    {exc : List (Nat × Nat)} {traps : List (Nat × Trap)} : (s.land o kind dest width lat vals flags exc traps).Forward lc :=
  .ite h.claimLast.modMe h.claimLast.modMe

theorem State.Forward.landZero (h : s.Forward lc) {o : Op} {width lat : Nat} : (s.landZero o width lat).Forward lc := .ite h.land h

theorem State.Forward.useUnit (h : s.Forward lc) {o : Op} : (s.useUnit o n).Forward lc := .ite h h.modHome

theorem State.Forward.produce (h : s.Forward lc) {o : Op} {ok : Bool} {srcs : List (Nat × Nat)} {traps : List (Nat × Trap)}
    {ty lat interval : Nat} {f : Nat → Nat → List Nat} : (s.produce o ok srcs traps ty lat interval f).Forward lc :=
  h.runOp fun _ hs => hs.land.useUnit

theorem State.Forward.pageFaults (h : s.Forward lc) {fs : List PFault} {precise : Bool} : (s.pageFaults k x fs precise).Forward lc :=
  State.Forward.modCtx (h.foldl fun _ _ hs => .ite hs hs.addRecord.modThread)

/-! ### Loads -/

theorem State.Forward.physPiece (h : s.Forward lc) {sp : Space} {va len : Nat} {kind : AccessKind} : (s.physPiece sp va len kind).2.Forward lc :=
  h.of_course ((besideAccesses_course 0 0).physPiece rfl)

theorem State.Forward.gotLatency (h : s.Forward lc) {g : Got} : (s.gotLatency g).2.Forward lc :=
  h.of_course ((besideAccesses_course 0 0).gotLatency rfl)

theorem State.Forward.noHost (h : s.Forward lc) {g : Got} : (s.noHost g).2.Forward lc := .ite_snd h h.draw1

theorem State.Forward.loadPiece (h : s.Forward lc) {p : PPiece} {range : Option (Nat × Word)} : (s.loadPiece k x p range).2.Forward lc :=
  .ite h.touchLine.modCtx h.touchLine

theorem State.Forward.putStash (h : s.Forward lc) {bs : List Byte} : (s.putStash k a bs).Forward lc := h.modCore

theorem State.Forward.readGranule (h : s.Forward lc) : (s.readGranule k x e g).2.2.Forward lc :=
  h.of_course ((besideAccesses_course k x).readGranule rfl)

theorem State.Forward.putCells (h : s.Forward lc) {cells : List (Nat × Byte)} :
    (s.modCore k fun c => { c with stash := cellPuts c.stash cells }).Forward lc := h.modCore

theorem State.Forward.refreshGranule (h : s.Forward lc) {bs : List Byte} : (s.refreshGranule k x e g l bs).Forward lc := h.putCells.modCtx

theorem State.Forward.fillGranule (h : s.Forward lc) : (s.fillGranule k x e g).2.Forward lc := by
  unfold State.fillGranule
  split
  · exact h
  · have h1 := h.readGranule (k := k) (x := x) (e := e) (g := g)
    generalize s.readGranule k x e g = r at h1 ⊢
    exact h1.gotLatency.refreshGranule.modCtx.schedule

theorem State.Forward.loadWindow (h : s.Forward lc) {inner : Nat} : (s.loadWindow k x e g inner a n).2.Forward lc := by
  unfold State.loadWindow
  dsimp only
  split
  · exact h.fillGranule
  · split
    · exact h.fillGranule
    · have h1 := (h.fillGranule (k := k) (x := x) (e := e) (g := g)).readGranule (k := k) (x := x) (e := e) (g := g)
      generalize State.readGranule _ k x e g = r at h1 ⊢
      exact h1.refreshGranule

theorem State.Forward.freshen (h : s.Forward lc) {va : Nat} : (s.freshen k x va n).Forward lc :=
  h.foldl fun _ _ hs => by
    split
    · exact .ite hs.modCore hs
    · exact hs

theorem State.Forward.freshAcc (h : s.Forward lc) {a : Acc} : (s.freshAcc k x a).Forward lc :=
  h.foldl fun _ _ hs => by
    dsimp only
    split
    · exact hs.freshen
    · exact hs.freshen
    · exact hs

theorem State.Forward.fillFor (h : s.Forward lc) : (s.fillFor k x e g).Forward lc := .ite h h.freshen.fillGranule

theorem State.Forward.loadAcc (h : s.Forward lc) {a : Acc} {range : Option (Nat × Word)} : (s.loadAcc k x a range).2.Forward lc :=
  h.foldl_snd (p := (({} : Got), s)) fun p pc hp => by
    dsimp only
    split
    · exact hp
    · exact hp.loadWindow
    · split
      · exact (hp.physPiece.of_eq ‹_›).loadPiece
      · exact hp.physPiece.of_eq ‹_›

/-! ### Stores and copies -/

theorem State.Forward.storeVirt (h : s.Forward lc) {va : Nat} {bs : List Byte} : (s.storeVirt k x t va bs).Forward lc :=
  h.foldl fun _ _ hs => by
    split
    · exact (hs.physPiece.of_eq ‹_›).storeLine
    · exact hs.physPiece.of_eq ‹_›

theorem State.Forward.copyGranule (h : s.Forward lc) : (s.copyGranule k x g).Forward lc := by
  unfold State.copyGranule
  dsimp only
  refine State.Forward.schedule (.modCtx ?_)
  split
  · exact h.freshen.loadAcc.noHost.gotLatency.putStash
  · exact h.freshen.loadAcc.noHost.gotLatency.foldl fun _ _ hs => hs.storeVirt

theorem State.Forward.copyFirst (h : s.Forward lc) {as : List Acc} : (s.copyFirst k x as).Forward lc := h.foldl fun _ _ hs => hs.copyGranule

theorem State.Forward.storeAcc (h : s.Forward lc) {a : Acc} {bs : List Byte} : (s.storeAcc k x a bs).Forward lc :=
  h.foldl fun _ _ hs => by
    dsimp only
    split
    · exact hs.putStash
    · exact hs.fillFor.putStash.modCtx
    · exact hs.storeVirt

theorem State.Forward.writeBack (h : s.Forward lc) {key : Nat} : (s.writeBack k x t key).Forward lc := by
  unfold State.writeBack
  dsimp only
  split
  · exact h
  · refine .ite h ?_
    split
    · exact h.physPiece.of_eq ‹_›
    next p s1 e =>
      have h1 : s1.Forward lc := h.physPiece.of_eq e
      refine State.Forward.modCtx (.ite ?_ (.storeLine ?_)) <;> exact .ite h1 h1.storeLine

theorem State.Forward.writeBackAll (h : s.Forward lc) : (s.writeBackAll k x t).Forward lc := h.foldl fun _ _ hs => hs.writeBack

theorem State.Forward.writeBackFault (h : s.Forward lc) : (s.writeBackFault k x t).Forward lc := by
  unfold State.writeBackFault
  dsimp only
  split
  · split
    · exact h
    · exact .ite h h.pageFaults
    · exact h.modCtx.takeLate
  · exact h

theorem State.Forward.speculate (h : s.Forward lc) {lines : List (Nat × Option (Nat × Word))} : (s.speculate k x lines).Forward lc := by
  unfold State.speculate
  split
  · exact h
  · exact h.modCtx.foldl fun _ _ hs => hs.draw1.schedule

end

end
end Sys2Proof.Machine
end

section
-- One proof after another, as in the sections before this one.
set_option Elab.async false

namespace Sys2Proof.Machine

section
open Sys2Proof.Claims

section
variable {lc : LifeCycle} {s : State} {k x t n l c pa a e g opc : Nat} {o : Op}

/-! ### Arithmetic -/

theorem State.Forward.intOp2 (h : s.Forward lc) {lat interval rty : Nat} {f : Nat → Nat → Nat} : (intOp2 opc o lat interval rty f s).Forward lc := h.produce

theorem State.Forward.intOp1 (h : s.Forward lc) {f : Nat → Nat} : (intOp1 opc o f s).Forward lc := h.produce

theorem State.Forward.divOp (h : s.Forward lc) {f : Nat → Nat → Nat → Nat} : (divOp opc f o s).Forward lc := h.produce

theorem State.Forward.wideOp (h : s.Forward lc) {four : Bool} {cty rty2 lat : Nat} {f : Nat → Nat → Nat → Nat → Nat × Nat} :
    (wideOp opc four cty rty2 lat o f s).Forward lc := h.runOp fun _ hs => hs.land.land

theorem State.Forward.floatOp (h : s.Forward lc) {ok : Bool} {srcs : List (Nat × Nat)} {rty lat interval : Nat}
    {f : State → Nat → Nat → List (Nat × Nat)} : (floatOp ok o srcs rty lat interval f s).Forward lc := h.runOp fun _ hs => hs.land.useUnit

theorem State.Forward.floatOp2 (h : s.Forward lc) {lat interval : Nat} {f : Fmt → Nat → Nat → Nat → Nat × Nat} :
    (floatOp2 opc lat interval f o s).Forward lc := by
  unfold Machine.floatOp2
  exact h.floatOp

theorem State.Forward.convOp (h : s.Forward lc) {f : State → Nat → Nat × Nat} : (convOp opc f o s).Forward lc := by
  unfold Machine.convOp
  exact h.floatOp

theorem State.Forward.laneOp (h : s.Forward lc) {f : List (Nat × Nat) → Nat → Nat × Nat} {nv : List (Nat × Nat) → Bool} :
    (laneOp opc o f nv s).Forward lc := h.runOp fun _ hs => hs.land.useUnit

theorem State.Forward.execMov (h : s.Forward lc) : Answer.Forward lc (execMov o s) := by
  unfold Machine.execMov
  dsimp only
  split
  · exact h.runOp fun _ hs => hs.land
  · exact h.runOp fun _ hs => hs.land

/-! ### Releases, host reads and loads -/

theorem State.Forward.sendCore (h : s.Forward lc) : (s.sendCore k).Forward lc := h.foldl fun _ _ hs => hs.sendWcb

theorem State.Forward.releaseStart (h : s.Forward lc) {scope : Nat} : (s.releaseStart k x t scope).Forward lc :=
  .ite h (.foldl (.ite h.writeBackAll.writeBackFault h) fun _ _ hs => hs.sendCore)

theorem State.Forward.releaseDone (h : s.Forward lc) {scope : Nat} : (s.releaseDone k x scope).Forward lc :=
  State.Forward.modCtx (.ite h.flushIdle h)

theorem State.Forward.hostReads (h : s.Forward lc) {ty : Nat} {reqs : List HostPiece} : (s.hostReads k x t ty reqs).2.Forward lc :=
  h.foldl_snd (p := (([] : List Nat), s)) fun _ _ hp => hp.modHost.schedule

theorem State.Forward.awaitBanks (h : s.Forward lc) {bs : List (Nat × Nat)} : (s.awaitBanks bs).2.Forward lc :=
  h.foldl_snd (p := (([] : List Nat), s)) fun _ _ hp => hp.newWait.modBank

theorem State.Forward.lastAwaits (h : s.Forward lc) {f : Landing → Landing} : (s.lastAwaits f).Forward lc := h.modMe

theorem State.Forward.loadOp (h : s.Forward lc) {ok : Bool} {srcs : List (Nat × Nat)} {extra : List (Nat × Trap)} {ty align : Nat}
    {range : Option (Nat × Word)} {accs : List Acc} : (loadOp o ok srcs extra ty align range accs s).Forward lc := by
  unfold Machine.loadOp
  extract_lets n d k x first traps faults size elems
  refine .ite h.pageFaults (.ite h.holdFor (h.runOp fun s hs => ?_))
  split
  next gots s1 e1 =>
  have h1 : s1.Forward lc := by
    refine State.Forward.of_eq (State.Forward.foldl_snd hs fun p _ hp => ?_) e1
    exact hp.foldl_snd (p := (({} : Got), p.2)) fun _ _ hp => hp.loadAcc
  extract_lets all late
  split
  next lat s2 e2 =>
  have h2 : s2.Forward lc := h1.gotLatency.of_eq e2
  extract_lets s3 s4
  have h4 : s4.Forward lc := h2.land.foldl fun _ _ hs => hs.modThread
  split
  next ids s5 e5 =>
  have h5 : s5.Forward lc := State.Forward.of_eq (.foldl_snd h4 fun p g (hp : p.2.Forward lc) => by exact hp.hostReads) e5
  split
  next waits s6 e6 => exact (h5.awaitBanks.of_eq e6).lastAwaits.speculate

theorem State.Forward.storeOp (h : s.Forward lc) {ok : Bool} {srcs : List (Nat × Nat)} {align : Nat} {writes : List (Acc × List Byte)} :
    (storeOp o ok srcs align writes s).Forward lc :=
  .ite h.pageFaults (.ite h.holdFor (h.runOp fun _ hs => hs.copyFirst.foldl fun _ _ hs => hs.storeAcc))

/-! ### Atomics -/

theorem State.Forward.atomArrive (h : s.Forward lc) {w : PWrite} : (s.atomArrive k l w).2.Forward lc := by
  have h1 : (if w.bytes.isEmpty then s else s.l1Store k l w.key w.bytes).Forward lc := .ite h h.l1Store
  exact .ite_snd h1.homeArrive h1.newWait.homeArrive

theorem State.Forward.atomLane (h : s.Forward lc) {a : Acc} {f : Nat → Nat} {writes : Nat → Bool} : (s.atomLane k x a f writes).2.Forward lc := by
  unfold State.atomLane
  dsimp only
  split
  · have h1 : (if a.seg = 4 then s.draw1 else (0, s)).2.Forward lc := .ite_snd h.draw1 h
    exact .ite h1.putStash h1
  · exact .ite h.fillFor.storeAcc h.fillFor
  · split
    next p s0 e0 =>
      have h1 := (h.physPiece.of_eq e0).sendWcb (c := clusterOf k) (l := p.pa / 128)
      exact .ite h1.draw1.atomArrive.modCtx h1.draw1.atomArrive
    next => exact h.physPiece.of_eq ‹_›

theorem State.Forward.atomOp (h : s.Forward lc) {acq rel : Bool} : (atomOp opc acq rel o s).Forward lc := by
  unfold Machine.atomOp
  dsimp only
  refine .ite h.pageFaults (.ite h.holdFor ?_)
  refine .ite (.holdFor ?_) (.runOp ?_ fun s hs => ?_)
  · exact .ite h.releaseStart h
  · exact .ite h.releaseStart h
  · refine .ite (.modMe ?_) ?_ <;>
    · refine .ite (.releaseDone ?_) ?_ <;>
      · refine State.Forward.foldl (.lastAwaits (.land (.foldl_snd hs.copyFirst fun p e hp => ?_))) fun _ _ hs => hs.modThread
        split
        · exact hp.atomLane
        · exact hp

/-! ### Prefetches, the stash map and fences -/

theorem State.Forward.prefLane (h : s.Forward lc) {p : Word} : (s.prefLane k x l t p).Forward lc := by
  unfold State.prefLane
  dsimp only
  refine .ite h ?_
  split
  · split
    · split
      · exact (h.physPiece.of_eq ‹_›).touchLine
      · exact h
    · exact h.fillGranule
    · exact h
  · exact h

theorem State.Forward.evictEntry (h : s.Forward lc) : (s.evictEntry k x t e).Forward lc := State.Forward.modCtx (h.foldl fun _ _ hs => hs.writeBack)

theorem State.Forward.execStmap (h : s.Forward lc) : Answer.Forward lc (execStmap o s) := by
  unfold Machine.execStmap
  dsimp only
  split
  · exact h
  · refine State.Forward.next (.ite h.pageFaults (h.runOp fun s hs => ?_))
    exact .ite (hs.foldl fun _ _ hs => hs.evictEntry) (State.Forward.modMe (hs.foldl fun _ _ hs => hs.evictEntry))

theorem State.Forward.stashOp (h : s.Forward lc) {back : Bool} {act : List Nat → Nat → State → State}
    (ha : ∀ gs t s, s.Forward lc → (act gs t s).Forward lc) : (stashOp opc back o act s).Forward lc := by
  unfold Machine.stashOp
  split
  · exact h
  · exact .ite h.holdFor (.ite h.pageFaults (h.runOp (ha _ _)))

theorem State.Forward.execStwb (h : s.Forward lc) : Answer.Forward lc (execStwb o s) :=
  State.Forward.next (h.stashOp fun _ _ _ hs => hs.foldl fun _ _ hs => hs.writeBack)

theorem State.Forward.refill (h : s.Forward lc) {key : Nat} : (s.refill k x key).Forward lc := by
  have h1 := h.readGranule (k := k) (x := x) (e := key / 2048) (g := key % 2048)
  unfold State.refill
  generalize s.readGranule k x (key / 2048) (key % 2048) = r at h1 ⊢
  exact h1.gotLatency.refreshGranule.modCtx.schedule

theorem State.Forward.execStinv (h : s.Forward lc) : Answer.Forward lc (execStinv o s) :=
  State.Forward.next (h.stashOp fun _ _ _ hs => hs.modMe.foldl fun _ _ hs => hs.refill)

theorem State.Forward.execFence (h : s.Forward lc) : Answer.Forward lc (execFence o s) := by
  refine State.Forward.next (h.runOp fun s hs => ?_)
  split
  · exact hs
  · refine .ite (State.Forward.foldl (.ite hs hs.releaseDone) fun _ _ hs => hs.modThread) ?_
    refine State.Forward.foldl (State.Forward.modMe (State.Forward.foldl (.ite hs.releaseStart hs) fun _ _ hs => hs.message)) fun _ _ hs => hs.modThread

end

section
variable {lc : LifeCycle} {s : State} {k x t n l c pa a e g b tr : Nat} {o : Op}

/-! ### Control registers -/

theorem State.Forward.modPartOf (h : s.Forward lc) {f : Partition → Partition} : (s.modPartOf k f).Forward lc := by
  unfold State.modPartOf
  split <;> exact h

theorem State.Forward.writeFeqCmd (h : s.Forward lc) {v : Word} : (s.writeFeqCmd n v).Forward lc := by
  refine .ite h ?_
  split <;> exact h

theorem State.Forward.csrStore (h : s.Forward lc) {v : Word} : (s.csrStore k x a v).Forward lc :=
  .ite h.modCtx <| .ite h.modCtx <| .ite h.modPartOf <| .ite h.modPartOf <| .ite h.modPartOf <|
  .ite (h.modPartOf.foldl fun _ _ hs => hs.schedule) <| .ite h.modCtx <| .ite h.modPartOf <| .ite h.modFe <|
  .ite h.writeFeqCmd <| .ite h.modCore <| .ite h.modCore h

theorem State.Forward.execCsrwr (h : s.Forward lc) : Answer.Forward lc (execCsrwr o s) := by
  unfold Machine.execCsrwr
  dsimp only
  split
  · exact h
  · exact h.runOp fun _ hs => hs.modMe

theorem State.Forward.applyLate (h : s.Forward lc) : (s.applyLate k x).Forward lc := h.modCtx.foldl fun _ _ hs => hs.csrStore

/-! ### Stubs and translations -/

theorem State.Forward.setStub (h : s.Forward lc) {st : Stub} : (s.setStub c st).Forward lc := h
theorem State.Forward.dropStub (h : s.Forward lc) {key : TKey} : (s.dropStub c key).Forward lc := h
theorem State.Forward.modStub (h : s.Forward lc) {f : Stub → Stub} : (s.modStub c tr f).Forward lc := h
theorem State.Forward.enterTr (h : s.Forward lc) : (s.enterTr c tr).Forward lc := h
theorem State.Forward.leaveTr (h : s.Forward lc) : (s.leaveTr c tr).Forward lc := h

theorem State.Forward.goToTr (h : s.Forward lc) : (s.goToTr k x t tr).Forward lc := .ite h h.leaveTr.enterTr.modThread

theorem State.Forward.follow (h : s.Forward lc) {ts : List Nat} : (s.follow k x ts).Forward lc := h.foldl fun _ _ hs => .ite hs hs.goToTr

theorem State.Forward.askStub (h : s.Forward lc) {key : TKey} {asked : Nat} : (s.askStub k x key asked).2.Forward lc := by
  unfold State.askStub
  dsimp only
  split
  · exact h
  · split
    · split
      · split <;> exact h
      · exact .ite h h.setStub
    · exact h.setStub.schedule

theorem State.Forward.takeFailure (h : s.Forward lc) {key : TKey} : (s.takeFailure k x key).Forward lc := h.modCtx

theorem State.Forward.forgetWaits (h : s.Forward lc) : (s.forgetWaits k x).Forward lc := h

theorem State.Forward.enterEntry (h : s.Forward lc) {t : Trans} : (s.enterEntry k x tr t).Forward lc := h.modCtx.follow

theorem State.Forward.passEntry (h : s.Forward lc) : (s.passEntry k x tr).Forward lc := by
  unfold State.passEntry
  split
  · exact h
  · split
    next e =>
      have h1 := h.askStub.of_eq e
      exact .ite h1.enterEntry h1.modCtx.follow
    next e => exact h.askStub.of_eq e

theorem State.Forward.putCellsAt (h : s.Forward lc) {bs : List (Nat × Byte)} : (s.putCells bs).Forward lc := h.foldl fun _ _ hs => hs.homeArrive

theorem State.Forward.putWords (h : s.Forward lc) {ws : List Word} : (s.putWords pa ws).Forward lc := h.putCellsAt

theorem State.Forward.putTrans (h : s.Forward lc) {t : Trans} : (s.putTrans c n t).Forward lc := h.putCellsAt

theorem State.Forward.compact (h : s.Forward lc) : (s.compact c).Forward lc := by
  refine State.Forward.foldl_snd (p := ((0 : Nat), s)) h fun p e hp => ?_
  split
  · split
    · exact hp.putTrans.modStub
    · exact hp
  · exact hp

theorem State.Forward.logTr (h : s.Forward lc) {event reason size : Nat} {key : TKey} : (s.logTr c k x event reason key size).Forward lc := by
  unfold State.logTr
  split
  · exact h
  next i p _ =>
    dsimp only
    split
    next ctl _ =>
      have h1 : ∀ p', ({ s with parts := tset s.parts i p' } : State).Forward lc := fun _ => h
      exact (h1 _).putWords
    next => exact h

/-! ### The code on its way to a core -/

theorem State.Forward.startFetch (h : s.Forward lc) {blk : Nat} : (s.startFetch k x tr blk).Forward lc := h.modCtx.modCluster.schedule

theorem State.Forward.fetchCode (h : s.Forward lc) {pc : Pc} : (s.fetchCode k x pc).Forward lc := by
  unfold State.fetchCode
  split
  · exact h
  · exact .ite h h.modCtx.startFetch

theorem State.Forward.pumpCode (h : s.Forward lc) {pc : Pc} {b : Bool} : (s.pumpCode k x pc b).Forward lc := by
  have h1 : ∀ {p : Prop} [Decidable p] {f : Ctx → Ctx}, (if p then s else s.modCtx k x f).Forward lc := .ite h h.modCtx
  unfold State.pumpCode
  dsimp only
  split
  · split
    · exact .ite h1.modCtx.startFetch h1
    · exact h1
  · exact h1

theorem State.Forward.execSegmentArrival (h : s.Forward lc) : Answer.Forward lc (execSegmentArrival k x s) := by
  unfold Machine.execSegmentArrival
  split
  · exact h
  · refine State.Forward.next (.pumpCode (.foldl (.modCtx (.modCtx (.ite h.modCore h.modCtx))) fun _ _ hs => hs.schedule))

/-! ### Banks and tickets -/

theorem State.Forward.activate (h : s.Forward lc) {row : Nat} {tix : Option Nat} {stk : Bool} : (s.activate k b row tix stk).Forward lc :=
  h.modBank.schedule.schedule

theorem State.Forward.serveDeferred (h : s.Forward lc) : (s.serveDeferred k b).Forward lc :=
  State.Forward.busyBank (.foldl (.modBank h.modPhys) fun _ _ hs => hs.draw1.answered)

theorem State.Forward.settleBank (h : s.Forward lc) : (s.settleBank k b).Forward lc := by
  unfold State.settleBank
  dsimp only
  split
  · split
    · exact h.activate
    · exact h.modBank
  · exact .ite h.activate (.ite h.modBank h.modBank.serveDeferred)

theorem State.Forward.closeRow (h : s.Forward lc) : (s.closeRow k b).Forward lc := .ite h.modBank.schedule h

theorem State.Forward.killTicket (h : s.Forward lc) : (s.killTicket k t).Forward lc := by
  unfold State.killTicket
  split
  · exact h
  · exact .ite h.modMtx.modBank (.ite h.modMtx.closeRow h.modMtx)

theorem State.Forward.killTickets (h : s.Forward lc) : (s.killTickets k x).Forward lc := h.foldl fun _ _ hs => hs.killTicket

theorem State.Forward.addWork (h : s.Forward lc) {w : Work} : (s.addWork k w).Forward lc := h.modMtx.schedule

theorem State.Forward.freeSet (h : s.Forward lc) {set : OsSet} : (s.freeSet k set).Forward lc := by
  unfold State.freeSet
  dsimp only
  have h2 := h.modMtx (k := k) (f := fun m => { m with
    slotOwner := m.slotOwner.filter fun e => !set.slots.contains e.1
    tileOwner := m.tileOwner.filter fun e => !set.tiles.contains e.1
    clearSlots := set.slots.foldl (fun t n => tset t n (s.after 128)) m.clearSlots
    clearTiles := set.tiles.foldl (fun t n => tset t n (s.after 1024)) m.clearTiles
    opmem := m.opmem.filter fun e => !set.slots.contains (e.1 / 16384)
    acc := m.acc.filter fun e => !set.tiles.contains (e.1 / 32768) })
  exact .ite (.ite h2 h2.schedule) (State.Forward.schedule (.ite h2 h2.schedule))

theorem State.Forward.execOsclaim (h : s.Forward lc) : Answer.Forward lc (execOsclaim o s) := by
  unfold Machine.execOsclaim
  dsimp only
  split
  · exact h
  · exact Answer.Forward.ite (.holdFor (.ite h h.modMtx)) (h.runOp fun _ hs => hs)

theorem State.Forward.execOsclaimGrant (h : s.Forward lc) : Answer.Forward lc (execOsclaimGrant k s) := by
  unfold Machine.execOsclaimGrant
  dsimp only
  split
  · split
    · exact h.modMtx
    · exact h
  · exact h

theorem State.Forward.execOsrel (h : s.Forward lc) : Answer.Forward lc (execOsrel o s) := by
  unfold Machine.execOsrel
  dsimp only
  split
  · exact h
  · exact Answer.Forward.ite h.holdFor (h.runOp fun _ hs => hs.freeSet)

theorem State.Forward.rowactOp (h : s.Forward lc) {force : Bool} : (rowactOp force o s).Forward lc := by
  unfold Machine.rowactOp
  extract_lets k x d
  split
  · exact h.landZero
  · refine h.runOp fun s hs => ?_
    extract_lets off b n0 s1
    have h1 : s1.Forward lc := by
      unfold s1
      split
      · exact hs.killTicket
      · exact hs
    clear_value s1
    split
    · exact h1
    · exact State.Forward.land (.ite h1.modMtx.activate h1.modMtx.modBank)

theorem State.Forward.rowconOp (h : s.Forward lc) {wait : Bool} : (rowconOp wait o s).Forward lc := by
  unfold Machine.rowconOp
  dsimp only
  split
  · exact h
  · refine .ite h.holdFor (.ite h.holdFor (.ite h.holdFor (h.runOp fun s hs => ?_)))
    split
    · refine State.Forward.modMe (.addWork ?_)
      split
      · exact .modBank hs.modMtx
      · exact hs.modMtx
    · refine State.Forward.addWork ?_
      split
      · exact .modBank hs.modMtx
      · exact hs.modMtx

theorem State.Forward.execRowcls (h : s.Forward lc) : Answer.Forward lc (execRowcls o s) := by
  unfold Machine.execRowcls
  split
  · exact h
  · refine State.Forward.next (h.runOp fun s hs => ?_)
    split
    · exact hs.killTicket
    · exact hs

theorem State.Forward.stkBegin (h : s.Forward lc) : (s.stkBegin k).Forward lc := by
  unfold State.stkBegin
  split
  · exact h.foldl fun _ _ hs => .ite hs (.ite hs.activate hs.modBank)
  · exact h

theorem State.Forward.stkReady (h : s.Forward lc) : (s.stkReady k).Forward lc := by
  unfold State.stkReady
  split
  · exact .ite (State.Forward.schedule (.modMtx (h.modCore))) h
  · exact h

theorem State.Forward.execBankAccessComplete (h : s.Forward lc) : Answer.Forward lc (execBankAccessComplete k b s) := by
  unfold Machine.execBankAccessComplete
  split
  · exact h.settleBank
  · exact h

theorem State.Forward.execRowOpen (h : s.Forward lc) : Answer.Forward lc (execRowOpen k b s) := by
  unfold Machine.execRowOpen
  dsimp only
  split
  · exact h.modBank.stkReady
  · exact h

theorem State.Forward.execRefreshClose (h : s.Forward lc) : Answer.Forward lc (execRefreshClose k b s) := by
  unfold Machine.execRefreshClose
  dsimp only
  split
  · split
    · exact h.modMtx.modBank.schedule
    · exact h.modBank.schedule
  · exact h

theorem State.Forward.execRowClose (h : s.Forward lc) : Answer.Forward lc (execRowClose k b s) := by
  unfold Machine.execRowClose
  split
  · split
    · exact h.modBank.schedule
    · exact h
  · exact h

theorem State.Forward.execPrechargeEnd (h : s.Forward lc) : Answer.Forward lc (execPrechargeEnd k b s) := by
  unfold Machine.execPrechargeEnd
  split
  · split
    · exact h.serveDeferred
    · exact h.settleBank
  · exact h

theorem State.Forward.execBankRefresh (h : s.Forward lc) : Answer.Forward lc (execBankRefresh k b s) := by
  unfold Machine.execBankRefresh
  split
  · exact Answer.Forward.fault
  · split
    · exact h.busyBank
    · exact h

/-! ### Words of agents -/

theorem State.Forward.peek64 (h : s.Forward lc) {sp : Space} {va : Nat} : (s.peek64 sp va).2.Forward lc := by
  unfold State.peek64
  split
  next e =>
    have h1 := h.physPiece.of_eq e
    exact .ite_snd h1.draw1 h1
  next e => exact h.physPiece.of_eq e

theorem State.Forward.poke64 (h : s.Forward lc) {sp : Space} {va : Nat} {w : Word} : (s.poke64 sp va w).2.Forward lc := by
  unfold State.poke64
  split
  next e =>
    have h1 := h.physPiece.of_eq e
    split
    · exact h1.modHost
    · exact h1.homeArrive
  next e => exact h.physPiece.of_eq e

theorem State.Forward.rmw64 (h : s.Forward lc) {sp : Space} {va : Nat} {f : Word → Word} : (s.rmw64 sp va f).2.Forward lc := by
  unfold State.rmw64
  split
  next e => exact (h.peek64.of_eq e).poke64
  next e => exact h.peek64.of_eq e

end

section
variable {lc : LifeCycle} {s : State} {k x t n l c pa a e g b tr : Nat} {o : Op}

/-! ### Parked threads, barriers and claims -/

theorem State.Forward.releaseThreads (h : s.Forward lc) {ts : List Nat} : (s.releaseThreads k x ts).Forward lc := h.modCtx

theorem State.Forward.trapParked (h : s.Forward lc) {tr : Trap} {at_ : BinKey} : (s.trapParked k x t tr at_).Forward lc := h.park

theorem State.Forward.barCheck (h : s.Forward lc) {id : Nat} : (s.barCheck k x id n).Forward lc :=
  .ite (.ite (h.foldl fun _ _ hs => hs.trapParked) h) h.modCtx.releaseThreads

theorem State.Forward.formClaims (h : s.Forward lc) : (s.formClaims k x).Forward lc := h.foldl fun _ _ hs => .ite hs.modCore hs

theorem State.Forward.deadlockCheck (h : s.Forward lc) : (s.deadlockCheck k).Forward lc := by
  unfold State.deadlockCheck
  dsimp only
  split
  · exact .ite (h.modCore.foldl fun _ _ hs => hs.trapParked) h
  · exact h

theorem State.Forward.execRegclmGrant (h : s.Forward lc) : Answer.Forward lc (execRegclmGrant k s) := by
  unfold Machine.execRegclmGrant
  split
  · exact Answer.Forward.ite (State.Forward.releaseThreads (h.modCore.foldl fun _ _ hs => hs.modThread)) h
  · exact h

/-! ### The end of threads and workgroups -/

theorem State.Forward.report (h : s.Forward lc) {l : Launch} {v : Int} : (s.report l v).Forward lc := h.message

theorem State.Forward.countFinish (h : s.Forward lc) {founder : Bool} : (s.countFinish k n founder).Forward lc := by
  unfold State.countFinish
  split
  · exact h
  next l _ =>
    have h1 : ∀ l', ({ s with launches := tset s.launches n l' } : State).Forward lc := fun _ => h
    exact .ite (.ite (h1 _).report (h1 _)) (.ite (h1 _) (.ite (h1 _).rmw64.report (h1 _).rmw64))

theorem State.Forward.leaveGroups (h : s.Forward lc) : (s.leaveGroups c l).Forward lc := by
  unfold State.leaveGroups
  split
  · exact h
  · refine h.foldl fun s _ hs => .ite (.ite (State.Forward.message ?_) ?_) hs <;> exact hs

theorem State.Forward.finishWg (h : s.Forward lc) : (s.finishWg k x).Forward lc := by
  unfold State.finishWg
  extract_lets c
  split
  · exact h
  next w _ =>
    have h1 : ∀ {s : State} {cs : Tab Cohort}, s.Forward lc → ({ s with cohorts := cs } : State).Forward lc := fun h => h
    exact (h1 h.writeBackAll.killTickets.freeSet.modMtx.modCore.modCtx.forgetWaits).leaveGroups.countFinish

theorem State.Forward.dropThread (h : s.Forward lc) : (s.dropThread k x t).Forward lc := h.leaveTr.modCore.modCtx

theorem State.Forward.endThreads (h : s.Forward lc) {ts : List Nat} : (s.endThreads k x ts).Forward lc := by
  cases ts with
  | nil => exact h
  | cons u us =>
    have h1 : ((u :: us).foldl (fun s t => s.dropThread k x t) s).Forward lc := h.foldl fun _ _ hs => hs.dropThread
    unfold State.endThreads
    refine .ite h1 (.ite h1.modCtx (.deadlockCheck (.formClaims (.ite (.foldl ?_ fun _ _ hs => hs.trapParked) ?_)))) <;>
      exact h1.foldl fun _ _ hs => hs.modCtx.barCheck

theorem State.Forward.exitOp (h : s.Forward lc) {ok : Bool} : (Machine.endOp ok o s).Forward lc := h.runOp fun _ hs => hs.endThreads

/-! ### Branches, calls and returns -/

theorem State.Forward.sendTo (h : s.Forward lc) {keys : List (Nat × BinKey)} : (s.sendTo keys).Forward lc := by
  cases keys with
  | nil => exact h
  | cons => exact .ite h.modMe h.modMe

theorem State.Forward.branch (h : s.Forward lc) {taken : List (Nat × Pc)} {delayed : Bool} : (s.branch taken delayed).Forward lc :=
  .ite h (.ite h.modMe h.sendTo)

theorem State.Forward.askAll (h : s.Forward lc) {asks : List (Nat × TKey)} : (s.askAll asks).2.Forward lc := by
  refine State.Forward.foldl_snd (p := (({} : Entries), s)) h fun p a hp => ?_
  split <;> exact hp.askStub.of_eq ‹_›

theorem State.Forward.takeFailures (h : s.Forward lc) {e : Entries} : (s.takeFailures e).Forward lc := h.foldl fun _ _ hs => hs.takeFailure

theorem State.Forward.farJump (h : s.Forward lc) {keys : List (Nat × BinKey)} : (s.farJump keys).Forward lc := by
  refine .ite h ?_
  split
  · exact .ite h.sendTo.modMe h.sendTo
  · exact h.sendTo

theorem State.Forward.brnFar (h : s.Forward lc) : (brnFar o s).Forward lc := by
  refine .ite (h.runOp fun _ hs => hs) (.ite h.askAll.holdFor (h.askAll.takeFailures.runOp fun s hs => ?_))
  exact .ite hs.farJump hs.branch

theorem State.Forward.brnNear (h : s.Forward lc) : (brnNear o s).Forward lc := by
  have h1 : ∀ v : Option Pc, ((v.map fun pc => s.fetchCode s.myCore s.myCtxNo pc).getD s).Forward lc := fun v => by
    cases v with
    | none => exact h
    | some _ => exact h.fetchCode
  refine .ite (State.Forward.holdFor (h1 _)) (h.runOp fun s hs => ?_)
  split
  · exact hs.branch
  · exact hs

theorem State.Forward.execBrn (h : s.Forward lc) : Answer.Forward lc (execBrn o s) :=
  State.Forward.next (h.asServing fun _ hs => .ite hs.brnFar hs.brnNear)

theorem State.Forward.execPbr (h : s.Forward lc) : Answer.Forward lc (execPbr o s) := by
  refine State.Forward.next (h.runOp fun s hs => .ite hs (.ite hs.modMe.schedule ?_))
  split
  · exact .ite hs.modMe.fetchCode hs.modMe
  · exact hs.modMe

theorem State.Forward.execCall (h : s.Forward lc) : Answer.Forward lc (execCall o s) := by
  refine Answer.Forward.ite (h.runOp fun _ hs => hs) (Answer.Forward.ite h.askAll.holdFor ?_)
  exact h.askAll.takeFailures.runOp fun _ hs => .ite hs hs.modMe.farJump

theorem State.Forward.execRet (h : s.Forward lc) : Answer.Forward lc (execRet o s) := by
  refine Answer.Forward.ite (h.runOp fun _ hs => hs) (Answer.Forward.ite h.askAll.holdFor ?_)
  exact h.askAll.takeFailures.runOp fun _ hs => .ite hs.endThreads hs.endThreads.modMe.farJump

theorem State.Forward.locWrite (h : s.Forward lc) {v : Loc} {w : Word} : (s.locWrite l t v w).Forward lc := by
  cases v with
  | reg | last => exact h.modMe
  | frame => exact h.storeAcc

theorem State.Forward.takeEdges (h : s.Forward lc) {pick : Nat → Nat → Edge} {srcs : List Loc} : (takeEdges pick srcs s).Forward lc := by
  refine .ite h.pageFaults (.ite h.pageFaults (h.runOp fun s hs => ?_))
  exact State.Forward.sendTo (hs.foldl fun _ _ hs => hs.foldl fun _ _ hs => hs.locWrite)

/-! ### Barrier ops, budgets and nests -/

theorem State.Forward.parkGroup (h : s.Forward lc) {place : Place} {ts : List Nat} : (s.parkGroup place n l ts).Forward lc := h.modMe.modMe

theorem State.Forward.barOp (h : s.Forward lc) {mode : Nat} {bad : Bar → Nat → Bool} {eff : Nat → List Nat → State → State}
    (he : ∀ id ts s, s.Forward lc → (eff id ts s).Forward lc) : (barOp mode bad eff o s).Forward lc :=
  h.runOp fun _ hs => .ite hs (he _ _ _ hs).barCheck.deadlockCheck

theorem State.Forward.bartestOp (h : s.Forward lc) {ctr : Bool} : (bartestOp ctr o s).Forward lc := h.runOp fun _ hs => hs.land

theorem State.Forward.raiseOp (h : s.Forward lc) {code : TrapCode} : (raiseOp code o s).Forward lc := h.runOp fun _ hs => hs

theorem State.Forward.breakNest (h : s.Forward lc) {ts : List Nat} : (s.breakNest ts).Forward lc := h.foldl fun _ _ hs => hs.trapParked

theorem State.Forward.lateNest (h : s.Forward lc) {late : List (Nat × Nest)} {traps : List (Nat × Trap)} {park : List Nat → State → State}
    {ts : List Nat} (hp : ∀ ts s, s.Forward lc → (park ts s).Forward lc) : (lateNest o late traps park ts s).Forward lc := by
  unfold Machine.lateNest
  split
  · exact h.runOp (hp ts)
  next a as =>
    generalize a :: as = l
    refine .ite (h.runOp fun _ hs => hs) (.ite h.askAll.holdFor (h.askAll.takeFailures.runOp fun s hs => ?_))
    exact (hp _ _ hs).modMe.sendTo

theorem State.Forward.execTnest (h : s.Forward lc) : Answer.Forward lc (execTnest o s) := by
  refine State.Forward.next (State.Forward.lateNest ?_ fun ts s hs => ?_)
  · exact .ite (State.Forward.modMe (.ite h.breakNest h)) (.ite h.breakNest h)
  · exact .ite (.ite hs.modMe hs) (State.Forward.deadlockCheck (State.Forward.parkGroup (.ite hs.modMe hs)))

theorem State.Forward.offerStarts (h : s.Forward lc) : (s.offerStarts n).Forward lc := by
  unfold State.offerStarts
  split
  · split
    · exact h.foldl fun _ _ hs => hs.message
    · exact h
  · exact h

theorem State.Forward.writeLasts (h : s.Forward lc) {l : Launch} {entries : List (List Word)} : (s.writeLasts l entries).Forward lc :=
  h.foldl fun _ _ hs => hs.foldl fun _ _ hs => hs.poke64

theorem State.Forward.freezeLaunch (h : s.Forward lc) {cont region reserve ln : Nat} {vals : List (List Word)} {l : Launch} :
    (freezeLaunch cont region reserve vals l ln t s).Forward lc := by
  have h1 : ∀ {s : State} {ls : Tab Launch}, s.Forward lc → ({ s with launches := ls } : State).Forward lc := fun h => h
  exact State.Forward.offerStarts (.endThreads (h1 h.writeLasts))

theorem State.Forward.freezeNest (h : s.Forward lc) {cont start reserve : Nat} {vals : List (List Word)} {e : Entries} :
    (freezeNest cont start reserve vals e s).Forward lc :=
  h.modMe.modMe.follow.foldl fun _ _ hs => .ite hs hs.trapParked

theorem State.Forward.execFreeze (h : s.Forward lc) : Answer.Forward lc (execFreeze o s) := by
  have none : ∀ {traps : List (Nat × Trap)}, (Machine.runOp o.slot traps id s).Forward lc := h.runOp fun _ hs => hs
  unfold Machine.execFreeze
  extract_lets n k x cont good strays f lv
  split
  · exact h
  · dsimp only
    refine Answer.Forward.ite h.pageFaults (Answer.Forward.ite none (Answer.Forward.ite ?_ ?_))
    · split
      · split
        · exact h.pageFaults
        · exact none
        · generalize hg : s.releaseStart k x _ 7 = s1
          have h1 : s1.Forward lc := hg ▸ h.releaseStart
          exact Answer.Forward.ite h1.holdFor.next (h1.runOp fun _ hs => hs.freezeLaunch).next
      · exact none
    · generalize List.map (fun u => (u, s.blockKey _ u)) _ = asks
      exact Answer.Forward.ite h.askAll.holdFor.next (h.askAll.takeFailures.runOp fun _ hs => hs.freezeNest).next
  · exact none
  · exact none

end

section
variable {lc : LifeCycle} {s : State} {k x t n l c pa a e g b tr d q id : Nat} {o : Op}

/-! ### The loader, firmware and translations -/

theorem State.Forward.fetchWord (h : s.Forward lc) {sp : Space} {va : Nat} : (s.fetchWord sp va).2.Forward lc := by
  unfold State.fetchWord
  split
  next e =>
    have h1 := h.physPiece.of_eq e
    exact .ite_snd h1.draw1 h1
  next e => exact h.physPiece.of_eq e

theorem State.Forward.imageWords (h : s.Forward lc) {image : CodeImage} : (s.imageWords n image).2.Forward lc := by
  cases image with
  | words => exact h
  | memory asid va n =>
    unfold State.imageWords
    dsimp only
    refine State.Forward.foldl_snd h fun p i hp => ?_
    split
    · exact hp
    · split
      next e =>
        have h1 := hp.fetchWord.of_eq e
        exact h1
      next e =>
        have h1 := hp.fetchWord.of_eq e
        exact h1

theorem State.Forward.startFirmware (h : s.Forward lc) {entry : TKey} : (s.startFirmware k entry).Forward lc := h.leaveTr.modCtx.modCore

theorem State.Forward.installFirmware (h : s.Forward lc) {p : Partition} {o : Obj} : (s.installFirmware p o id).Forward lc := by
  unfold State.installFirmware
  split
  · exact h.foldl fun _ _ hs => hs.modCore.startFirmware
  · exact h

theorem State.Forward.execLoadObject (h : s.Forward lc) {image : CodeImage} : Answer.Forward lc (execLoadObject n image s) := by
  have h1 : ∀ {s : State} {os : Tab Obj} {m : Nat}, s.Forward lc → ({ s with objs := os, nextObj := m } : State).Forward lc := fun h => h
  unfold Machine.execLoadObject
  refine Answer.Forward.ite h ?_
  split
  next ws s1 e =>
  have hs := h.imageWords.of_eq e
  refine State.Forward.next ?_
  split
  · exact h.modHost
  · exact (h1 hs.modHost).installFirmware
  · exact hs.modHost

theorem State.Forward.execUnloadObject (h : s.Forward lc) : Answer.Forward lc (execUnloadObject n s) :=
  Answer.Forward.ite h (State.Forward.next (.ite h h))

theorem State.Forward.execTranslateRequest (h : s.Forward lc) {key : TKey} : Answer.Forward lc (execTranslateRequest c k x key s) := by
  refine State.Forward.next ?_
  split
  · exact .ite h h.logTr.draw1.schedule
  · exact h

theorem State.Forward.makeRoom (h : s.Forward lc) : (State.makeRoom c n l s).Forward lc := by
  induction l generalizing s with
  | zero => exact h
  | succ l ih =>
    unfold State.makeRoom
    refine .ite h ?_
    split
    · exact h
    · exact ih h.modCluster.logTr

theorem State.Forward.failTranslation (h : s.Forward lc) {key : TKey} {st : Stub} : (s.failTranslation c key st n).Forward lc :=
  h.logTr.dropStub.foldl fun _ _ hs => hs.modCtx

theorem State.Forward.placeTrans (h : s.Forward lc) {key : TKey} {st : Stub} {t : Trans} : (s.placeTrans c key st t).Forward lc := by
  refine State.Forward.foldl (.putTrans (.setStub (.modCluster (.ite h h.compact)))) fun _ _ hs => .ite hs.enterEntry hs

theorem State.Forward.execTranslationComplete (h : s.Forward lc) {key : TKey} : Answer.Forward lc (execTranslationComplete c key s) := by
  refine State.Forward.next ?_
  split
  · exact .ite h (.ite h.makeRoom.placeTrans h.makeRoom.failTranslation)
  · exact .ite h h.failTranslation
  · exact h.dropStub
  · exact h

theorem State.Forward.execCompaction (h : s.Forward lc) : Answer.Forward lc (execCompaction c s) :=
  Answer.Forward.ite Answer.Forward.fault h.compact.next

/-! ### The end of a group's issue -/

theorem State.Forward.atBundle (h : s.Forward lc) : (s.atBundle n l).Forward lc := h.modMe

theorem State.Forward.clearSkips (h : s.Forward lc) {offs ts : List Nat} : (s.clearSkips k x tr offs ts).Forward lc := h.foldl fun _ _ hs => hs.modThread

theorem State.Forward.finishGroup (h : s.Forward lc) {b : Bool} {offs : List Nat} {ops : List Instr} {before : Ctx} :
    (finishGroup k x b offs ops before s).Forward lc := by
  unfold Machine.finishGroup
  exact .pumpCode (.applyLate (.applyLate (.follow (.modCtx h.clearSkips))))

theorem State.Forward.entryFailed (h : s.Forward lc) {g : Group} : ∀ t ∈ s.entryFailed k x g, t.Forward lc := by
  intro t ht
  obtain ⟨f, -, rfl⟩ := Option.map_eq_some_iff.1 ht
  exact h.takeTraps.takeFailure

/-! ### Packets -/

theorem State.Forward.putDesc (h : s.Forward lc) : (s.putDesc d q).Forward lc := h.putWords

theorem State.Forward.peekPacket (h : s.Forward lc) {sp : Space} {va : Nat} : (s.peekPacket sp va).2.Forward lc := by
  unfold State.peekPacket
  generalize List.range 8 = is
  refine State.Forward.foldl_snd h fun p i hp => ?_
  split
  · exact hp
  · split <;> exact hp.peek64.of_eq ‹_›

theorem State.Forward.setIssued (h : s.Forward lc) {f : Issued → Issued} : (s.setIssued d q id f).Forward lc := h
theorem State.Forward.finishPacket (h : s.Forward lc) {v : Int} : (s.finishPacket d q id v).Forward lc := h

theorem State.Forward.checkEntering (h : s.Forward lc) {i : Option Nat} : (s.checkEntering d q i).Forward lc := by
  unfold State.checkEntering
  split
  · exact h
  · dsimp only
    split
    · exact .ite h.setIssued.finishPacket h
    · exact h

theorem State.Forward.storeSig (h : s.Forward lc) {u : Queue} {ws : List Word} {v : Int} : (s.storeSig d u ws v).Forward lc := .ite h h.poke64

theorem State.Forward.sweep (h : s.Forward lc) {u : Queue} {v : Int} : (State.sweep d u v n k s).Forward lc := by
  induction n generalizing s k with
  | zero => exact h
  | succ n ih =>
    unfold State.sweep
    split
    next ws s1 e =>
    have h1 := h.peekPacket.of_eq e
    cases ws with
    | none => exact ih h1
    | some ws => exact ih h1.storeSig

theorem State.Forward.abortQueue (h : s.Forward lc) {v : Int} : (s.abortQueue d q v).Forward lc := by
  refine .ite h (.sweep (.foldl (.foldl ?_ fun _ _ hs => hs.storeSig) fun _ _ hs => hs.storeSig))
  exact h.modQueue.putDesc

theorem State.Forward.sendAll (h : s.Forward lc) : s.sendAll.Forward lc := h.foldl fun _ _ hs => hs.foldl fun _ _ hs => hs.sendWcb

theorem State.Forward.releaseFlush (h : s.Forward lc) : s.releaseFlush.Forward lc := h.flushIdle

/-- The release of an issued packet: both the state in which it has ended and the one in which it waits. -/
theorem State.Forward.packetRelease (h : s.Forward lc) {e : Issued} {started : Bool} :
    (∀ t ∈ (s.packetRelease d q e n started).1, t.Forward lc) ∧ (s.packetRelease d q e n started).2.Forward lc := by
  unfold State.packetRelease
  extract_lets s' s1 ls
  have h1 : s1.Forward lc := .ite h h.sendAll.setIssued
  clear_value s1
  split
  · exact ⟨fun t ht => by cases ht; exact h1.releaseFlush, h1⟩
  · exact ⟨fun t ht => by simp at ht, h1⟩

theorem State.Forward.updateSig (h : s.Forward lc) {sp : Space} {sig : Option Nat} {v : Int} : (s.updateSig sp sig v).2.Forward lc := by
  cases sig with
  | none => exact h
  | some va =>
    refine .ite_snd h.poke64 ?_
    split
    next w s1 e =>
      have h1 := h.peek64.of_eq e
      exact .ite_snd h1 (.ite_snd h1.poke64 h1)
    next e => exact h.peek64.of_eq e

theorem State.Forward.endPacket (h : s.Forward lc) {e : Issued} {v : Int} : (s.endPacket d q e v).Forward lc := by
  have h1 : ∀ {s : State} {ls : Tab Launch}, s.Forward lc → ({ s with launches := ls } : State).Forward lc := fun h => h
  exact .ite (h1 h.updateSig.modQueue).abortQueue (h1 h.updateSig.modQueue).checkEntering

theorem State.Forward.signalWrite (h : s.Forward lc) {p : Packet} : (s.signalWrite d q p).2.Forward lc := by
  refine .ite_snd h.poke64 ?_
  split
  next e => exact (h.peek64.of_eq e).poke64
  next e => exact h.peek64.of_eq e

theorem State.Forward.laterPacket (h : s.Forward lc) {v : Int} : (s.laterPacket d q id v).Forward lc := h

theorem State.Forward.releasePacket (h : s.Forward lc) {e : Issued} {v : Int} : (s.releasePacket d q e v).Forward lc := by
  refine .ite h.endPacket ?_
  have h1 := h.packetRelease (d := d) (q := q) (e := e) (n := 2) (started := e.stage == 2)
  split
  next eq => rw [eq] at h1; exact (h1.1 _ rfl).endPacket
  next eq => rw [eq] at h1; exact h1.2.laterPacket

theorem State.Forward.execPacketComplete (h : s.Forward lc) {v : Int} : Answer.Forward lc (execPacketComplete d q id v s) := by
  unfold Machine.execPacketComplete
  split
  · exact h
  next e _ =>
    refine Answer.Forward.ite ?_ h.releasePacket
    have h1 : (∀ t ∈ (if e.packet.rel = 0 then (some s, s) else s.packetRelease d q e 1 (e.stage == 1)).1, t.Forward lc) ∧
        (if e.packet.rel = 0 then (some s, s) else s.packetRelease d q e 1 (e.stage == 1)).2.Forward lc := by
      split
      · exact ⟨fun t ht => by cases ht; exact h, h⟩
      · exact h.packetRelease
    split
    next go s1 eq =>
    rw [eq] at h1
    split
    · exact h1.2.laterPacket
    next s2 =>
      have h2 : s2.Forward lc := h1.1 _ rfl
      exact h2.signalWrite.releasePacket

theorem State.Forward.execLookaheadRead (h : s.Forward lc) : Answer.Forward lc (execLookaheadRead d q s) := by
  have read : ∀ {sp : Space} {va : Nat} {f : Queue → Queue}, ((s.peekPacket sp va).2.modQueue d q f).Forward lc := h.peekPacket.modQueue
  unfold Machine.execLookaheadRead
  dsimp only
  refine Answer.Forward.ite h ?_
  split
  · exact read
  · exact Answer.Forward.ite read (Answer.Forward.ite h.modQueue h.modQueue.checkEntering)

theorem State.Forward.issueHead (h : s.Forward lc) : ∀ r ∈ s.issueHead d q, r.2.Forward lc := by
  unfold State.issueHead
  dsimp only
  split
  · intro r hr; cases hr
  · intro r hr
    cases hr
    exact .ite h.modQueue.modFe h.modQueue.modFe.putDesc

theorem State.Forward.reaches (h : s.Forward lc) {sp : Space} {va : Nat} {kind : AccessKind} : (s.reaches sp va kind).2.Forward lc := h.physPiece

theorem State.Forward.reachAll (h : s.Forward lc) {sp : Space} {l : List (Nat × AccessKind)} : (s.reachAll sp l).2.Forward lc :=
  h.foldl_snd (p := (true, s)) fun _ _ hp => hp.reaches

theorem State.Forward.issuePacket (h : s.Forward lc) {ptrs : Packet → List (Word × AccessKind)} {work : Packet → State → State}
    (hw : ∀ p s, s.Forward lc → (work p s).Forward lc) : Answer.Forward lc (issuePacket d q ptrs work s) := by
  unfold Machine.issuePacket
  refine Answer.Forward.ite h ?_
  split
  · exact h
  next p s1 e =>
    have h1 : s1.Forward lc := h.issueHead _ e
    extract_lets u sp sig
    split
    next sigOk s2 e2 =>
    have h2 : s2.Forward lc := h1.reachAll.of_eq e2
    extract_lets s3
    have h3 : s3.Forward lc := .ite h2 h2.setIssued
    clear_value s3
    split
    · exact h3.finishPacket
    · exact State.Forward.next (.ite (hw _ _ h3.reachAll) h3.reachAll.finishPacket)

theorem State.Forward.enterBuffer (h : s.Forward lc) {p : Packet} {buf : Word} {loop : Bool} : (s.enterBuffer d q p buf n loop).Forward lc :=
  .ite h.finishPacket h.modQueue

theorem State.Forward.predicate (h : s.Forward lc) {p : Packet} : (s.predicate d q p).2.Forward lc := h.peek64

theorem State.Forward.execTimestamp (h : s.Forward lc) : Answer.Forward lc (execTimestamp d q s) :=
  h.issuePacket fun _ _ hs => hs.poke64.finishPacket

theorem State.Forward.execCond (h : s.Forward lc) : Answer.Forward lc (execCond d q s) := by
  refine h.issuePacket fun p s hs => ?_
  split
  next e => exact (hs.predicate.of_eq e).finishPacket
  next e =>
    have h1 := hs.predicate.of_eq e
    exact .ite h1.modQueue.finishPacket h1.enterBuffer

theorem State.Forward.execLoop (h : s.Forward lc) : Answer.Forward lc (execLoop d q s) := by
  refine h.issuePacket fun p s hs => ?_
  split
  next e => exact (hs.predicate.of_eq e).finishPacket
  next e =>
    have h1 := hs.predicate.of_eq e
    split
    · exact .ite (.ite h1.modQueue h1.modQueue.finishPacket) (.ite h1.enterBuffer h1.modQueue.finishPacket)
    · exact .ite h1.enterBuffer h1.modQueue.finishPacket

theorem State.Forward.readWaits (h : s.Forward lc) {sp : Space} {aon : Bool} {l : List (Nat × Nat)} : (s.readWaits sp aon l).2.Forward lc := by
  refine State.Forward.foldl_snd (p := (({} : WaitRead), s)) h fun p e hp => ?_
  split
  next e => exact hp.peek64.of_eq e
  next e =>
    have h1 := hp.peek64.of_eq e
    exact .ite_snd h1 (.ite_snd h1 h1)

theorem State.Forward.execBarrierReread (h : s.Forward lc) : Answer.Forward lc (execBarrierReread d q id s) := by
  unfold Machine.execBarrierReread
  dsimp only
  split
  · exact h
  · refine Answer.Forward.ite h (Answer.Forward.ite h.message (State.Forward.next ?_))
    split
    · exact h.readWaits.finishPacket
    · exact h.readWaits.finishPacket
    · exact h.readWaits.finishPacket
    · exact h.readWaits.setIssued.message

theorem State.Forward.execCopy (h : s.Forward lc) : Answer.Forward lc (execCopy d q s) := h.issuePacket fun _ _ hs => hs.draw1.modFe.schedule

theorem State.Forward.readRun (h : s.Forward lc) {p : PPiece} : (s.readRun p n).2.Forward lc := .ite_snd h.draw1 h

theorem State.Forward.writeRun (h : s.Forward lc) {p : PPiece} {bs : List Byte} {owner : Nat × Nat × Nat} : (s.writeRun p bs owner).Forward lc := by
  unfold State.writeRun
  split
  · exact h.modHost
  · exact h.homeArrive

theorem State.Forward.copyBytes (h : s.Forward lc) {sp : Space} {owner : Nat × Nat × Nat} {fuel src dst len : Nat} :
    (copyBytes sp owner fuel src dst len s).2.Forward lc := by
  induction fuel generalizing s src dst len with
  | zero => exact h
  | succ fuel ih =>
    unfold Machine.copyBytes
    refine .ite_snd h ?_
    split
    next e => exact h.physPiece.of_eq e
    next e1 =>
      have h1 := h.physPiece.of_eq e1
      split
      next e => exact h1.physPiece.of_eq e
      next e => exact ih (h1.physPiece.of_eq e).readRun.writeRun

theorem State.Forward.execCopyComplete (h : s.Forward lc) : Answer.Forward lc (execCopyComplete d n s) := by
  unfold Machine.execCopyComplete
  split
  · exact h
  · extract_lets sp
    split
    next e =>
    have h1 := State.Forward.of_eq h.copyBytes e
    exact h1.modFe.finishPacket.next

/-! ### Queues -/

theorem State.Forward.pollWrite (h : s.Forward lc) : (s.pollWrite d q).Forward lc := .ite h h.draw1.schedule

theorem State.Forward.execQueueWriteObserved (h : s.Forward lc) : Answer.Forward lc (execQueueWriteObserved d q s) := by
  unfold Machine.execQueueWriteObserved
  dsimp only
  split
  · exact h
  · refine State.Forward.next (.pollWrite ?_)
    exact h
  · refine State.Forward.next (.pollWrite (.sweep ?_))
    exact h
  · generalize packetCount _ _ = m
    refine Answer.Forward.ite (.next (.pollWrite (.putDesc ?_))) (.next (.pollWrite ?_))
    · exact h
    · exact h

theorem State.Forward.execDoorbellWrite (h : s.Forward lc) {v : W32} : Answer.Forward lc (execDoorbellWrite d n v s) :=
  Answer.Forward.ite h.draw1.schedule h

theorem State.Forward.endCommand (h : s.Forward lc) : (s.endCommand d).Forward lc := h

theorem State.Forward.execEnable (h : s.Forward lc) : Answer.Forward lc (execEnable d q s) :=
  Answer.Forward.ite h.endCommand.modQueue.putDesc.schedule h.endCommand

theorem State.Forward.execDisable (h : s.Forward lc) : Answer.Forward lc (execDisable d q s) :=
  Answer.Forward.ite h.endCommand (State.Forward.next (h.endCommand.modQueue.putDesc.foldl fun _ _ hs => hs.checkEntering))

theorem State.Forward.execReset (h : s.Forward lc) : Answer.Forward lc (execReset d q s) :=
  Answer.Forward.ite h.endCommand.sweep.modQueue.putDesc.pollWrite h.endCommand

theorem State.Forward.suspendQueue (h : s.Forward lc) : (s.suspendQueue d q).Forward lc := .ite h.modQueue.putDesc h

theorem State.Forward.resumeQueue (h : s.Forward lc) : (s.resumeQueue d q).Forward lc :=
  .ite (h.modQueue.putDesc.schedule.foldl fun _ _ hs => .ite hs hs.schedule) h

end

end
end Sys2Proof.Machine
end

section
-- One proof after another, as in the sections before this one.
set_option Elab.async false

namespace Sys2Proof.Machine

section
open Sys2Proof.Claims

/-- Every state that an attempt to issue goes on with is at `lc` or after it. -/
def Attempt.Forward (lc : LifeCycle) (a : Attempt) : Prop :=
  match a with
  | .waits _ h | .delayed _ h | .filed h => h.Forward lc
  | .issues r => Answer.Forward lc r

/-- The state that the writing of parameters leaves is at `lc` or after it. -/
def ParamWrite.Forward (lc : LifeCycle) (w : ParamWrite) : Prop :=
  match w with
  | .ready s | .faulted s | .trapped s => s.Forward lc

theorem Attempt.Forward.ite {lc : LifeCycle} {a b : Attempt} {c : Prop} {dec : Decidable c} (ha : a.Forward lc) (hb : b.Forward lc) : (if c then a else b).Forward lc := by
  split
  · exact ha
  · exact hb

section
variable {lc : LifeCycle} {s : State} {k x t n l c pa a e g b tr d q id : Nat} {o : Op}

theorem State.Forward.writeParams (h : s.Forward lc) {g : Group} : (s.writeParams k x g).Forward lc := by
  unfold State.writeParams
  dsimp only
  split
  · exact h.pageFaults
  · exact h.takeTrapsAt
  · have h1 : ∀ {need : List (Nat × Nat)} {ws : List (Nat × Word)} {c : Ctx}, (need.foldl (fun s e => ws.foldl (fun s w =>
        s.storeAcc k x (frameAcc c e.1 e.2 w.1) (natToBytes 8 w.2.toNat)) s) s).Forward lc :=
      h.foldl fun _ _ hs => hs.foldl fun _ _ hs => hs.storeAcc
    exact h1.modCtx

/-! ### Running the ops of a group -/

/-- A state that collects traps, or has collected them. -/
theorem State.Forward.collecting (h : s.Forward lc) {ts : Option (List (Nat × Nat × Trap))} : ({ s with collect := ts } : State).Forward lc := h

variable {ex : Instr → State → Answer} (hex : ∀ i s, s.Forward lc → Answer.Forward lc (ex i s))
include hex

theorem State.Forward.runOne (h : s.Forward lc) {e : Op × Except DecodeError Instr} : Answer.Forward lc (runOne ex e s) := by
  unfold Machine.runOne
  split
  · exact hex _ _ h
  · exact State.Forward.next (h.runOp fun _ hs => hs)

theorem State.Forward.runEach (h : s.Forward lc) {es : List (Op × Except DecodeError Instr)} : Answer.Forward lc (runEach ex es s) := by
  induction es generalizing s with
  | nil => exact h
  | cons e r ih => exact (h.runOne hex).andThen fun _ hs => ih hs

theorem State.Forward.runBundles (h : s.Forward lc) {ctl : List (Nat × Op × Except DecodeError Instr)} {bs : List (Nat × Bundle)} :
    Answer.Forward lc (runBundles ex n ctl bs s) := by
  induction bs generalizing s ctl with
  | nil =>
    unfold Machine.runBundles
    split
    · exact h
    · exact State.Forward.runOne hex (.atBundle (.collecting h))
  | cons b r ih =>
    unfold Machine.runBundles
    dsimp only
    refine Answer.Forward.andThen (State.Forward.runEach hex (.collecting h.atBundle)) fun s1 h1 => ?_
    refine Answer.Forward.andThen (State.Forward.runEach hex (.collecting h1)) fun dry hd => ?_
    split
    · refine Answer.Forward.ite (State.Forward.next ?_) (ih (.collecting h1))
      exact .collecting (.ite (.collecting hd) (.collecting h1))
    · split
      · exact State.Forward.next (.takeTrapsAt (.collecting h.atBundle))
      · refine Answer.Forward.andThen (State.Forward.runOne hex (.atBundle (.collecting h.atBundle))) fun s3 h3 => ?_
        exact h3.atBundle.takeTrapsAt.next

theorem State.Forward.runGroup (h : s.Forward lc) {bs : List (Nat × Bundle)} : Answer.Forward lc (runGroup ex bs n s) := by
  unfold Machine.runGroup
  split
  · split
    · exact h.atBundle
    · exact h.atBundle.runOne hex
    · exact h.runBundles hex
  · exact h.runBundles hex

theorem State.Forward.heldOnly (h : s.Forward lc) {bs : List (Nat × Bundle)} : (heldOnly ex bs n s).Forward lc := by
  refine State.Forward.atBundle (h.foldl fun _ _ hs => hs.foldl fun s e hs => .ite hs (.ite (.collecting ?_) hs))
  exact Answer.Forward.stateOr (State.Forward.runOne hex (.collecting hs.atBundle)) hs

theorem State.Forward.tryGroup (h : s.Forward lc) {g : Group} {bs : List (Nat × Bundle)} : (tryGroup ex k x g bs n s).Forward lc := by
  unfold Machine.tryGroup
  extract_lets c ops offs start trial t charge
  have hs : start.Forward lc := h.modCtx
  have ht : Answer.Forward lc trial := hs.runGroup hex
  refine Attempt.Forward.ite h.modCtx (Attempt.Forward.ite h ?_)
  split
  · exact Answer.Forward.andThen ht fun s' hs' => hs'.finishGroup.next
  · exact Attempt.Forward.ite (h.heldOnly hex).modCtx (h.heldOnly hex).modCtx
  · exact Attempt.Forward.ite h.modCtx (h.heldOnly hex).modCtx

theorem State.Forward.attempt (h : s.Forward lc) : (attempt ex k x s).Forward lc := by
  unfold Machine.attempt
  extract_lets s1 sa
  have h1 : s1.Forward lc := h.modCtx
  have ha : sa.Forward lc := h1
  clear_value sa
  split
  · exact ha
  · split
    · exact ha
    next ga _ _ _ =>
      extract_lets sb g c
      have hb : sb.Forward lc := ha.passEntry
      clear_value sb
      split
      next e => exact hb.entryFailed _ e
      · refine Attempt.Forward.ite hb (Attempt.Forward.ite hb (Attempt.Forward.ite hb ?_))
        split
        · exact hb.modCtx
        · refine Attempt.Forward.ite hb ?_
          have hw := hb.writeParams (k := k) (x := x) (g := g)
          split
          next e => rw [e] at hw; exact hw
          next e => rw [e] at hw; exact hw
          next s1 e =>
            rw [e] at hw
            have h1 : s1.Forward lc := hw
            extract_lets c1
            split
            · exact h1.takeTraps
            · exact Attempt.Forward.ite h1.takeTraps (Attempt.Forward.ite h1.modCtx (Attempt.Forward.ite h1
                (Attempt.Forward.ite h1.modCtx (Attempt.Forward.ite h1 (h1.tryGroup hex)))))

/-! ### Turns -/

theorem State.Forward.look (h : s.Forward lc) : (look ex k x s).2.Forward lc := by
  unfold Machine.look
  dsimp only
  split
  · exact h
  · refine .ite_snd h ?_
    split
    · exact h
    · have ha := h.attempt hex (k := k) (x := x)
      split
      next e => rw [e] at ha; exact State.Forward.modCtx ha
      · exact h

theorem State.Forward.lookAll (h : s.Forward lc) {xs : List Nat} : (lookAll ex k xs s).2.Forward lc := by
  induction xs generalizing s with
  | nil => exact h
  | cons x r ih =>
    unfold Machine.lookAll
    split
    next e => exact ih ((h.look hex).of_eq e)
    next e => exact ih ((h.look hex).of_eq e)

omit hex

theorem State.Forward.release (h : s.Forward lc) {ready : List Nat} : (s.release k ready).Forward lc := by
  unfold State.release
  split
  · exact .ite h h.modCore
  · exact h

theorem State.Forward.serve (h : s.Forward lc) : (s.serve k x).Forward lc := .ite h.modCtx h.modCtx.modCore

theorem State.Forward.askCode (h : s.Forward lc) : (s.askCode k x).Forward lc := by
  unfold State.askCode
  split
  · exact .ite h h.fetchCode
  · exact h

theorem State.Forward.countCycle (h : s.Forward lc) {ready : List Nat} {own : Option (Nat × Stall)} : (countCycle k ready own s).Forward lc :=
  State.Forward.modCore (.modCtx (.askCode (h.foldl fun _ _ hs => hs.askCode.modCtx)))

theorem State.Forward.passTurn (h : s.Forward lc) {user : Option (BitVec 8)} : (s.passTurn k user).Forward lc := by
  have ht : ∀ {s : State} {a : List Agent}, s.Forward lc → ({ s with turn := a } : State).Forward lc := fun h => h
  exact .ite (.ite (ht h) (ht h.modCore)) (ht h)

include hex

theorem State.Forward.coreTurn (h : s.Forward lc) : Answer.Forward lc (coreTurn ex k s) := by
  unfold Machine.coreTurn
  split
  · exact h.finishWg.deadlockCheck.next
  · split
    · exact hex _ _ h
    · split
      next ready s1 e =>
      have h1 : s1.Forward lc := (h.lookAll hex).of_eq e
      split
      · exact State.Forward.next (.passTurn (.countCycle h1.modCtx))
      · extract_lets s2
        have h2 : s2.Forward lc := h1.release
        clear_value s2
        split
        · exact h2.countCycle.passTurn.next
        next y _ =>
          extract_lets s3 user
          have h3 : s3.Forward lc := h2.serve
          clear_value s3
          refine Answer.Forward.ite h3.countCycle.passTurn.next ?_
          have ha := h3.attempt hex (k := k) (x := y)
          split
          next e => rw [e] at ha; exact State.Forward.next ha
          next e => rw [e] at ha; exact State.Forward.next ha
          next e => rw [e] at ha; exact State.Forward.next (.passTurn (.countCycle ha))
          next e => rw [e] at ha; exact Answer.Forward.andThen ha fun _ hs => hs.countCycle.passTurn.next

theorem State.Forward.firmwareTurn (h : s.Forward lc) : Answer.Forward lc (firmwareTurn ex k s) := by
  have pop : ∀ {s : State} {f : Core → Core} {a : List Agent}, s.Forward lc →
      ({ s.modCore k f with turn := a } : State).Forward lc := fun h => h
  have ha := h.attempt hex (k := k) (x := 4)
  unfold Machine.firmwareTurn
  dsimp only
  split
  next e => rw [e] at ha; exact pop ha
  next e => rw [e] at ha; exact pop ha
  next e => rw [e] at ha; exact pop ha
  next e => rw [e] at ha; exact Answer.Forward.andThen ha fun _ hs => pop hs

omit hex

theorem State.Forward.strike (h : s.Forward lc) {e : SoftError} : (s.strike e).Forward lc := by
  unfold State.strike
  split
  · exact .ite h.modThread h
  · split
    · exact .ite h.modPhys h
    · exact h

theorem State.Forward.strikes (h : s.Forward lc) : s.strikes.Forward lc := State.Forward.foldl h fun _ _ hs => hs.strike

theorem State.Forward.passTime (h : s.Forward lc) : s.passTime.Forward lc := by
  have ht : ∀ {s : State} {a b : List Agent}, s.Forward lc → ({ s with turn := a, joined := b } : State).Forward lc := fun h => h
  have h1 : ∀ t, ({ s with now := t, joined := [] } : State).strikes.Forward lc := fun t => State.Forward.strikes h
  exact .ite (ht (h1 _)) (h1 _)

theorem State.Forward.endTurns (h : s.Forward lc) : s.endTurns.Forward lc := by
  unfold State.endTurns
  dsimp only
  split
  · exact h
  · exact h.passTime

include hex

theorem State.Forward.machineStep (h : s.Forward lc) : Answer.Forward lc (machineStep ex s) := by
  unfold Machine.machineStep
  split
  · unfold State.stoppedStep
    split
    · dsimp only
      split
      · exact hex _ _ h
      · exact h
    · exact h.passTime.next
  · split
    · exact hex _ _ h
    · split
      · exact hex _ _ h
      · unfold Machine.turnStep
        split
        · exact h.coreTurn hex
        · exact h.firmwareTurn hex
        · split
          · exact hex _ _ h
          · exact h
        · exact h.endTurns.next

end

section
variable {lc : LifeCycle} {s : State} {k x t n l c pa a e g b tr d q id : Nat} {o : Op}

/-! ### Home slices: writes, collapses, promotions and renewals -/

theorem State.Forward.nextWrite (h : s.Forward lc) : (s.nextWrite l).Forward lc := by
  unfold State.nextWrite
  split
  · exact .ite h h.schedule
  · exact h

theorem State.Forward.execHomeWritePerform (h : s.Forward lc) : Answer.Forward lc (execHomeWritePerform l s) := by
  unfold Machine.execHomeWritePerform
  dsimp only
  split
  · exact Answer.Forward.ite h (Answer.Forward.ite (State.Forward.next (.nextWrite (.performWrite h.modLine))) h.nextWrite.next)
  · exact h

theorem State.Forward.answerUp (h : s.Forward lc) {node : CollapseNode} : (s.answerUp l node).Forward lc := h.message

theorem State.Forward.execCollapseRequest (h : s.Forward lc) {node : CollapseNode} : Answer.Forward lc (execCollapseRequest l node s) := by
  cases node with
  | package => exact Answer.Forward.ite h.answerUp.next (State.Forward.next (h.modLine.foldl fun _ _ hs => hs.message))
  | die d => exact Answer.Forward.ite h.answerUp.next (State.Forward.next (h.modLine.foldl fun _ _ hs => hs.message))
  | replica c =>
    unfold Machine.execCollapseRequest
    dsimp only
    split
    · exact Answer.Forward.ite (State.Forward.next (.answerUp h.modPhys)) (State.Forward.next (.schedule h.modPhys))
    · exact h.answerUp.next

theorem State.Forward.execCollapseAnswer (h : s.Forward lc) {node : CollapseNode} : Answer.Forward lc (execCollapseAnswer l node s) := by
  cases node with
  | package => exact State.Forward.next (.nextWrite (.modLine h.modLine))
  | die d => exact Answer.Forward.ite h.modLine.next (State.Forward.next (.answerUp (.modPhys h.modLine)))
  | replica c => exact Answer.Forward.ite h.modLine.next (State.Forward.next (.answerUp (.modPhys h.modLine)))

theorem State.Forward.execPromotionRequest (h : s.Forward lc) : Answer.Forward lc (execPromotionRequest k x l s) := by
  unfold Machine.execPromotionRequest
  dsimp only
  split
  · exact h.modCtx.next
  · generalize hr : State.releaseStart s _ _ 0 7 = s1
    have h1 : s1.Forward lc := hr ▸ h.releaseStart
    exact Answer.Forward.ite h.modCtx.next (Answer.Forward.ite h1.modCtx.next h1.schedule.next)

theorem State.Forward.execWcbSend (h : s.Forward lc) : Answer.Forward lc (execWcbSend c l s) := by
  unfold Machine.execWcbSend
  split
  · exact State.Forward.next (.ite h.sendWcb h)
  · exact h

theorem State.Forward.grantAgain (h : s.Forward lc) {range : Option (Nat × Word)} : (s.grantAgain k l range).2.2.Forward lc := by
  unfold State.grantAgain
  split
  next e =>
    obtain ⟨r, -, hr⟩ := Option.bind_eq_some_iff.1 e
    obtain ⟨g, hg, rfl⟩ := Option.map_eq_some_iff.1 hr
    exact h.grantRange g hg
  next => exact h.grant

theorem State.Forward.renewLine (h : s.Forward lc) {range : Option (Nat × Word)} : (s.renewLine k l range).Forward lc := by
  unfold State.renewLine
  split
  · exact h
  · exact .ite h.grantAgain.modCore h.grantAgain.modCore

theorem State.Forward.execRenewalAnswer (h : s.Forward lc) : Answer.Forward lc (execRenewalAnswer k x l s) := by
  unfold Machine.execRenewalAnswer
  dsimp only
  split
  · exact h.renewLine.next
  · split
    · exact h.renewLine.modCtx.next
    · exact h.renewLine.modCtx.next

end

end
end Sys2Proof.Machine
end

section
-- One proof after another, as in the sections before this one.
set_option Elab.async false

namespace Sys2Proof.Machine

section
open Sys2Proof.Claims

section
variable {lc : LifeCycle} {s : State} {k x t n l c pa a e g b tr d q id : Nat} {o : Op}

/-! ### Records in save slots -/

theorem State.Forward.setRecord (h : s.Forward lc) {r : SaveRec} : (s.setRecord k n r).Forward lc := by
  unfold State.setRecord
  exact h.modPhys.setCores.modCore

theorem State.Forward.atSaved (h : s.Forward lc) {α : Type} {slot : Nat} {d : α} {f : Nat → Nat → State → α × State}
    (hf : ∀ k x s, s.Forward lc → (f k x s).2.Forward lc) : (s.atSaved k slot d f).2.Forward lc := by
  unfold State.atSaved
  split
  · exact h
  next r hr =>
    extract_lets here stash base len s1
    have h1 : s1.Forward lc := h.modCtx.modCore
    clear_value s1
    split
    next a s2 e =>
    have h2 : s2.Forward lc := (hf _ _ _ h1).of_eq e
    exact h2.modCtx.modCore.setRecord

theorem State.Forward.atSeat (h : s.Forward lc) {α : Type} {seat : Seat} {d : α} {f : Nat → Nat → State → α × State}
    (hf : ∀ k x s, s.Forward lc → (f k x s).2.Forward lc) : (s.atSeat seat d f).2.Forward lc := by
  cases seat with
  | live => exact hf _ _ _ h
  | saved => exact h.atSaved hf
  | gone => exact h

theorem State.Forward.onSeat (h : s.Forward lc) {v : EngEnv} {f : Nat → Nat → State → State} (hf : ∀ k x s, s.Forward lc → (f k x s).Forward lc) :
    (s.onSeat v f).Forward lc := h.atSeat hf

/-! ### Engines -/

theorem State.Forward.execEvqpop (h : s.Forward lc) : Answer.Forward lc (execEvqpop o s) :=
  State.Forward.next (h.runOp fun _ hs => .ite hs.landZero hs.modMe.land)

theorem State.Forward.endOp (h : s.Forward lc) {v : EngEnv} {ok : Bool} {rec_ : Option (Nat × Nat)} : (s.endOp v n id ok rec_).Forward lc :=
  h.onSeat fun _ _ _ hs => hs.modCtx

theorem State.Forward.ghostRecord (h : s.Forward lc) {v : EngEnv} {tr : Trap} {late : Bool} {at_ : Pc} : (s.ghostRecord v t tr late at_).Forward lc :=
  h.modCtx.addRecord.modCtx

theorem State.Forward.engineTrap (h : s.Forward lc) {v : EngEnv} {tr : Trap} {at_ : Pc} : (s.engineTrap v t tr at_).Forward lc := by
  unfold State.engineTrap
  split
  · exact h.ghostRecord
  · exact h.onSeat fun _ _ _ hs => .ite hs.addRecord (.ite hs.modCtx hs.takeLate)

theorem State.Forward.engineFault (h : s.Forward lc) {v : EngEnv} {f : FaultHold} {at_ : Pc} : (s.engineFault v t f at_).Forward lc := by
  unfold State.engineFault
  split
  · exact h.ghostRecord
  · exact h.onSeat fun _ _ _ hs => hs.addRecord

theorem State.Forward.freeBytes (h : s.Forward lc) : (s.freeBytes n).2.Forward lc := h.draw1

theorem State.Forward.engLoad (h : s.Forward lc) {v : EngEnv} {va : Nat} : (s.engLoad v va n).2.Forward lc := by
  refine State.Forward.foldl_snd (p := (EngGot.ok [], s)) h fun p pc hp => ?_
  split
  · split
    next e =>
      have h1 := hp.translate.of_eq e
      exact .ite_snd h1.draw1 (.ite_snd h1 h1)
    next e =>
      have h1 := hp.translate.of_eq e
      exact h1
    next e =>
      have h1 := hp.translate.of_eq e
      exact h1
  · exact hp

theorem State.Forward.engStore (h : s.Forward lc) {v : EngEnv} {va : Nat} {bs : List Byte} : (s.engStore v va bs).2.Forward lc := by
  unfold State.engStore
  dsimp only
  split
  · refine State.Forward.foldl h fun s _ hs => ?_
    split
    · exact (hs.physPiece.of_eq ‹_›).storeLine
    · exact hs.physPiece.of_eq ‹_›
  · exact h

theorem State.Forward.engOwn (h : s.Forward lc) {seat : Seat} {bs : Option (List Byte)} : (s.engOwn seat n a l bs).2.Forward lc := by
  unfold State.engOwn
  split
  · exact h.draw1
  · refine h.atSeat fun k x s hs => ?_
    extract_lets a
    generalize (if bs.isSome = true then AccessKind.store else AccessKind.load) = kind
    split
    · exact hs
    · exact hs
    · split
      · exact hs.storeAcc
      · dsimp only
        split
        · exact hs.freshAcc.loadAcc.noHost
        · exact hs.freshAcc.loadAcc.noHost

theorem State.Forward.engRead (h : s.Forward lc) {v : EngEnv} {p : Word} : (s.engRead v p n).2.Forward lc :=
  .ite_snd h.engOwn (.ite_snd h.engOwn h.engLoad)

theorem State.Forward.engWrite (h : s.Forward lc) {v : EngEnv} {p : Word} {bs : List Byte} : (s.engWrite v p bs).2.Forward lc :=
  .ite_snd h.engOwn h.engStore

/-! ### Transfers -/

theorem State.Forward.enterTransfer (h : s.Forward lc) {t : Transfer} : (s.enterTransfer k t).Forward lc := h.modCore.schedule

theorem State.Forward.execXfer (h : s.Forward lc) : Answer.Forward lc (execXfer o s) := by
  unfold Machine.execXfer
  dsimp only
  split
  · exact h.landZero.next
  · refine Answer.Forward.ite h.pageFaults.next (Answer.Forward.ite h.holdFor.next (State.Forward.next (h.runOp fun s hs => .land ?_)))
    split
    · exact State.Forward.enterTransfer (.modMe hs.releaseStart)
    · exact State.Forward.schedule (.modHome (.modMe hs.releaseStart))

theorem State.Forward.execLoopGeneratorEntry (h : s.Forward lc) : Answer.Forward lc (execLoopGeneratorEntry k x s) := by
  unfold Machine.execLoopGeneratorEntry
  dsimp only
  split
  · exact h
  · split
    · exact h
    · exact Answer.Forward.ite h.schedule.next (State.Forward.next (.ite (.enterTransfer h.modCore) (.schedule (.enterTransfer h.modCore))))

theorem State.Forward.execXloop (h : s.Forward lc) : Answer.Forward lc (execXloop o s) := by
  unfold Machine.execXloop
  dsimp only
  split
  · exact h
  · exact Answer.Forward.ite h.holdFor.next (State.Forward.next (h.runOp fun _ hs => hs.modMe))

theorem State.Forward.execXstat (h : s.Forward lc) : Answer.Forward lc (execXstat o s) := State.Forward.next (h.runOp fun _ hs => hs.land)

theorem State.Forward.execWaitid (h : s.Forward lc) : Answer.Forward lc (execWaitid o s) := by
  unfold Machine.execWaitid
  dsimp only
  split
  · exact h
  · exact Answer.Forward.ite h.holdFor.next (State.Forward.next (h.runOp fun _ hs => hs))

theorem State.Forward.execTransferStart (h : s.Forward lc) : Answer.Forward lc (execTransferStart k s) := by
  refine Answer.Forward.ite h ?_
  split
  · exact h
  · exact State.Forward.next (.schedule (.modCore h.draw1))

theorem State.Forward.sendRemote (h : s.Forward lc) {bs : List Byte} : (s.sendRemote k d a bs).Forward lc := h

/-- The rows of a transfer. The recursion is taken through its functional, which names no call of itself. -/
theorem State.Forward.copyTransferRows (h : s.Forward lc) {t : Transfer} : (Machine.copyRows n t s).2.Forward lc := by
  delta Machine.copyRows
  refine Nat.brecOn_induction (F := Machine.copyRows._f) (P := fun g => ∀ (t : Transfer) (s : State), s.Forward lc → (g t s).2.Forward lc)
    (fun _ _ _ h => h) (fun n below ih t s h => ?_) n t s h
  dsimp only [Machine.copyRows._f]
  refine State.Forward.ite_snd h ?_
  have h1 := h.engRead (v := t.env) (p := rowPtr t.src t.spitch t.row) (n := t.width)
  generalize s.engRead t.env (rowPtr t.src t.spitch t.row) t.width = r at h1 ⊢
  obtain ⟨g, s1⟩ := r
  cases g with
  | fault | bad => exact h1
  | ok bs =>
    refine .ite_snd (ih _ _ (State.Forward.onSeat h1 fun _ _ _ hs => hs.modCtx)) ?_
    generalize t.rmt = dev
    cases dev with
    | some dev => exact ih _ _ (State.Forward.sendRemote h1)
    | none =>
      have h2 := State.Forward.engWrite h1 (v := t.env) (p := rowPtr t.dst t.dpitch t.row) (bs := bs)
      generalize State.engWrite s1 t.env (rowPtr t.dst t.dpitch t.row) bs = w at h2 ⊢
      obtain ⟨g2, s2⟩ := w
      cases g2 with
      | ok => exact ih _ _ h2
      | fault | bad => exact h2

theorem State.Forward.engFlush (h : s.Forward lc) : (s.engFlush k).Forward lc := h.foldl fun _ _ hs => hs.sendWcb

theorem State.Forward.freeEngine (h : s.Forward lc) : (s.freeEngine k).Forward lc := h.modCore.schedule

theorem State.Forward.setRunning (h : s.Forward lc) {t : Transfer} : (s.setRunning k t).Forward lc := h.modCore

theorem State.Forward.podTakes (h : s.Forward lc) : (s.podTakes d).2.Forward lc := h.draw1

theorem State.Forward.execTransferComplete (h : s.Forward lc) : Answer.Forward lc (execTransferComplete k s) := by
  unfold Machine.execTransferComplete
  split
  · exact h
  next t _ =>
    refine Answer.Forward.ite h ?_
    split
    next takes s0 e0 =>
    have h0 : s0.Forward lc := by
      revert e0
      split
      · exact fun e0 => h.podTakes.of_eq e0
      · exact fun e0 => by cases e0; exact h
    refine Answer.Forward.ite h0.setRunning.schedule.next ?_
    split
    next u s1 e1 =>
    have h2 := (h0.copyTransferRows.of_eq e1).engFlush (k := k)
    extract_lets s2
    split
    · exact State.Forward.next (.schedule (.engineFault h2.modCore))
    · exact h2.setRunning.schedule.next
    · exact Answer.Forward.ite h2.setRunning.schedule.next h2.endOp.freeEngine.next

theorem State.Forward.execTransferFault (h : s.Forward lc) : Answer.Forward lc (execTransferFault k s) := by
  unfold Machine.execTransferFault
  dsimp only
  split
  · refine Answer.Forward.ite h.endOp.engineTrap.freeEngine.next ?_
    split
    · exact State.Forward.next (.engineTrap (.endOp h.modCore))
    · exact h
  · exact State.Forward.next (.engineTrap (.endOp h.modCore))
  · exact h

theorem State.Forward.stopRunning (h : s.Forward lc) {t : Transfer} : (s.stopRunning k t).Forward lc := by
  unfold State.stopRunning
  extract_lets total ran moved rows
  refine .ite h ?_
  split
  next u s1 e =>
  have h1 := h.copyTransferRows.of_eq e
  exact State.Forward.engFlush (.ite h1 h1.copyTransferRows)

theorem State.Forward.execXcancel (h : s.Forward lc) : Answer.Forward lc (execXcancel o s) := by
  unfold Machine.execXcancel
  dsimp only
  split
  · exact h
  · refine State.Forward.next (h.runOp fun s hs => ?_)
    split
    · exact State.Forward.endOp hs.modCore
    · split
      · split
        · exact State.Forward.freeEngine (.endOp hs.stopRunning)
        · exact hs
      · exact hs

end

section
variable {lc : LifeCycle} {s : State} {k x t n l c pa a e g b tr d q id : Nat} {o : Op}

/-! ### Publication and copies by the fathom bus -/

theorem State.Forward.dropLines (h : s.Forward lc) {ls : List Nat} : (s.dropLines ls).Forward lc := h.setCores

theorem State.Forward.publishLine (h : s.Forward lc) {p : PPiece} {bs : List Byte} : (s.publishLine k x t p bs).Forward lc := h.performWrite.dropLines

theorem State.Forward.publishAcc (h : s.Forward lc) {a : Acc} {bs : List Byte} : (s.publishAcc k x a bs).Forward lc :=
  h.foldl fun _ _ hs => by
    dsimp only
    split
    · split
      next e =>
        have h1 := hs.physPiece.of_eq e
        split
        · exact h1.publishLine
        · exact h1.storeLine
      next e => exact hs.physPiece.of_eq e
    · exact hs.storeAcc

theorem State.Forward.publishWrites (h : s.Forward lc) {ws : List (Option Nat × Nat × List Byte)} : (s.publishWrites k x t ws).Forward lc :=
  h.foldl fun _ _ hs => by
    split
    · exact hs.publishAcc
    · exact hs.engOwn

theorem State.Forward.execPublish (h : s.Forward lc) : Answer.Forward lc (execPublish o s) := by
  unfold Machine.execPublish
  dsimp only
  split
  · exact h
  · exact Answer.Forward.ite h.holdFor.next (Answer.Forward.ite h.pageFaults.next (Answer.Forward.ite
      (.next (.holdFor (.ite h.releaseStart h)))
      (.next (.runOp (.ite h.releaseStart h) fun _ hs => State.Forward.modMe (.releaseDone hs.publishWrites)))))

theorem State.Forward.execStkcpy (h : s.Forward lc) : Answer.Forward lc (execStkcpy o s) := by
  unfold Machine.execStkcpy
  dsimp only
  split
  · exact h.landZero.next
  · exact Answer.Forward.ite h.holdFor.next (Answer.Forward.ite (.next (.holdFor (.ite h.releaseStart h)))
      (.next (.runOp (.ite h.releaseStart h) fun _ hs => .land (.stkReady (.stkBegin (.modHome (.modMe hs.flushIdle)))))))

theorem State.Forward.putPillar (h : s.Forward lc) {bs : List (Nat × Byte)} : (s.putPillar n bs).Forward lc :=
  .dropLines (.foldl h.modPhys fun _ _ hs => hs.modLine)

theorem State.Forward.stkCopy (h : s.Forward lc) {fuel src dst left : Nat} : (stkCopy k a b src dst fuel left s).2.Forward lc := by
  induction fuel generalizing s src dst left with
  | zero => exact h
  | succ fuel ih => exact .ite_snd h (.ite_snd h (ih h.putPillar))

theorem State.Forward.execStkcpyComplete (h : s.Forward lc) : Answer.Forward lc (execStkcpyComplete k s) := by
  unfold Machine.execStkcpyComplete
  split
  · exact h
  · refine Answer.Forward.ite h ?_
    extract_lets v
    split
    next bad s1 e =>
    have h1 : s1.Forward lc := h.stkCopy.of_eq e
    extract_lets s2 s3
    have h3 : s3.Forward lc := .stkBegin (.modCore (h1.foldl fun _ _ hs => .ite (.closeRow hs.modBank) hs.modBank))
    clear_value s3
    split
    · exact h3.endOp.engineTrap.next
    · exact h3.endOp.next

/-! ### Collectives -/

theorem State.Forward.modCohort (h : s.Forward lc) {f : Cohort → Cohort} : (s.modCohort n f).Forward lc := by
  unfold State.modCohort
  split <;> exact h

theorem State.Forward.setUse (h : s.Forward lc) {u : GroupUse} : (s.setUse c g u).Forward lc := h.modCohort

theorem State.Forward.dropUse (h : s.Forward lc) : (s.dropUse c g).Forward lc := h.modCohort

theorem State.Forward.redgrpCheck (h : s.Forward lc) : (s.redgrpCheck c g).Forward lc := by
  unfold State.redgrpCheck
  split
  · exact .ite h.message h
  · exact h

theorem State.Forward.mcastSend (h : s.Forward lc) {u : GroupUse} : (s.mcastSend c g u).Forward lc := h.foldl fun _ _ hs => hs.message

theorem State.Forward.collLost (h : s.Forward lc) {i : Issuer} : (s.collLost c g i a).Forward lc := by
  unfold State.collLost
  extract_lets s1
  have h1 : s1.Forward lc := h.endOp.engineTrap
  clear_value s1
  split
  · exact .ite h1 (.ite h1.setUse.redgrpCheck h1.dropUse)
  · exact h1

theorem State.Forward.collRead (h : s.Forward lc) : (s.collRead c g l).Forward lc := by
  unfold State.collRead
  split
  · exact h
  · split
    · exact h
    · dsimp only
      split
      next e =>
        have h1 := h.engRead.of_eq e
        exact .ite h1.setUse.redgrpCheck h1.setUse.mcastSend
      next e => exact (h.engRead.of_eq e).setUse.engineFault
      next e => exact (h.engRead.of_eq e).collLost

theorem State.Forward.collOp (h : s.Forward lc) {redgrp : Bool} : (collOp redgrp o s).Forward lc := by
  unfold Machine.collOp
  extract_lets k x scope shadow fn opc lg cohort
  split
  · exact h
  · refine .ite (h.runOp fun _ hs => hs) (.ite h.holdFor (.ite (.runOp ?_ fun _ hs => hs) (h.runOp fun s hs => ?_)))
    · split
      · exact h.setUse.redgrpCheck
      · exact h
    · exact .collRead (.setUse (.modMe hs.releaseStart))

theorem State.Forward.delivered (h : s.Forward lc) {dropped : Bool} : (s.delivered c g n dropped).Forward lc := by
  unfold State.delivered
  split
  · exact h
  · dsimp only
    split
    · exact h.dropUse.endOp
    · exact h.setUse

theorem State.Forward.collWrite (h : s.Forward lc) {i : Issuer} {seat : Seat} {bs : List Byte} : (s.collWrite i seat n bs).2.Forward lc :=
  .ite_snd (h.onSeat fun _ _ _ hs => hs.modCtx) h.engOwn

theorem State.Forward.collStall (h : s.Forward lc) {i : Issuer} {write : Bool} : (s.collStall c g i a l write).Forward lc := by
  unfold State.collStall
  dsimp only
  split
  · exact h.setUse.engineFault
  · exact h

theorem State.Forward.collResume (h : s.Forward lc) : (s.collResume c g l).Forward lc := by
  unfold State.collResume
  split
  · exact h
  · exact .ite (.ite h.setUse.message h.setUse.mcastSend) h.collRead

theorem State.Forward.execMcastDelivery (h : s.Forward lc) : Answer.Forward lc (execMcastDelivery c g t s) := by
  unfold Machine.execMcastDelivery
  split
  · exact h
  · split
    · refine Answer.Forward.ite h ?_
      dsimp only
      split
      · split
        next e => exact (h.collWrite.of_eq e).delivered.next
        next e => exact (h.collWrite.of_eq e).collStall.next
        next e => exact (h.collWrite.of_eq e).collLost.next
      · exact State.Forward.next h.modCore
      · exact Answer.Forward.ite h.delivered.next (State.Forward.next h.modCore)
    · exact h

theorem State.Forward.openInbox (h : s.Forward lc) : (s.openInbox k c l).Forward lc := h.modCore.foldl fun _ _ hs => hs.schedule

theorem State.Forward.leaveUse (h : s.Forward lc) : (s.leaveUse c g l).Forward lc := by
  unfold State.leaveUse
  split
  · exact .ite h.dropUse h.setUse
  · exact h

theorem State.Forward.execRedgrpResult (h : s.Forward lc) : Answer.Forward lc (execRedgrpResult c g s) := by
  unfold Machine.execRedgrpResult
  split
  · exact h
  · refine Answer.Forward.ite h (State.Forward.next (h.setUse.foldl fun s i hs => ?_))
    split
    next e => exact (hs.collWrite.of_eq e).endOp.leaveUse
    next e => exact (hs.collWrite.of_eq e).collStall
    next e => exact (hs.collWrite.of_eq e).collLost.leaveUse

/-! ### Circuits -/

theorem State.Forward.execSendc (h : s.Forward lc) : Answer.Forward lc (execSendc o s) := by
  unfold Machine.execSendc
  dsimp only
  split
  · exact h
  · exact Answer.Forward.ite h.holdFor.next (State.Forward.next (h.runOp fun _ hs => .schedule (.modCohort hs.modMe)))

theorem State.Forward.giveCredit (h : s.Forward lc) : (s.giveCredit c a b n).Forward lc := h.atSeat fun _ _ _ hs => hs.modCtx

theorem State.Forward.execCircuitArrival (h : s.Forward lc) : Answer.Forward lc (execCircuitArrival c a b s) := by
  unfold Machine.execCircuitArrival
  split
  · exact h
  · split
    · exact h
    · extract_lets ws s1
      have h1 : s1.Forward lc := h.modCohort
      clear_value s1
      split
      · exact h1.giveCredit.next
      · split
        next waited s2 e2 =>
        have h2 : s2.Forward lc := by
          refine State.Forward.of_eq (h1.atSeat fun k x s hs => ?_) e2
          split
          · exact hs.modCtx
          · exact hs.modCtx
        split
        · exact h2.giveCredit.next
        · exact h2

theorem State.Forward.execRecvc (h : s.Forward lc) : Answer.Forward lc (execRecvc o s) := by
  unfold Machine.execRecvc
  dsimp only
  split
  · exact h.landZero.next
  · refine State.Forward.next (h.runOp fun s hs => ?_)
    split
    · exact .giveCredit (.modMe hs.land)
    · exact .modMe hs.land

/-! ### The matrix unit -/

theorem State.Forward.execMma (h : s.Forward lc) : Answer.Forward lc (execMma o s) := by
  unfold Machine.execMma
  dsimp only
  split
  · exact h
  · refine Answer.Forward.ite h.holdFor.next (Answer.Forward.ite h.holdFor.next (State.Forward.next (h.runOp fun s hs => .addWork ?_)))
    exact hs.modMtx

theorem State.Forward.runMoves (h : s.Forward lc) {ms : List EngMove} : (runMoves k x ms s).2.Forward lc := by
  induction ms generalizing s with
  | nil => exact h
  | cons m r ih =>
    unfold Machine.runMoves
    extract_lets write
    split
    · exact h
    · exact h
    · exact h
    · refine .ite_snd (ih h.copyFirst.storeAcc) ?_
      split
      next got s1 e =>
      have h1 : s1.Forward lc := (h.freshAcc.loadAcc (a := m.acc)).of_eq e
      split
      · exact h1
      · split
        next bs s2 e2 =>
        have h2 : s2.Forward lc := by
          refine State.Forward.of_eq (.ite_snd h1 ?_) e2
          exact h1.draw1
        exact ih h2.modMtx

theorem State.Forward.runStream (h : s.Forward lc) {w : Work} {ms : List EngMove} : (s.runStream k x w n ms).Forward lc := by
  unfold State.runStream
  split
  next e => exact (h.runMoves.of_eq e).addWork
  next e => exact .engineFault (.modMtx (h.runMoves.of_eq e))
  next e => exact (h.runMoves.of_eq e).engineTrap

theorem State.Forward.underSegs (h : s.Forward lc) {segs : Tab Word × Tab Word} {f : State → State} (hf : ∀ s, s.Forward lc → (f s).Forward lc) :
    (s.underSegs k x segs f).Forward lc := .modCtx (hf _ h.modCtx)

theorem State.Forward.resumeWork (h : s.Forward lc) {w : Work} : (s.resumeWork k w).Forward lc :=
  .underSegs h.modMtx fun _ hs => hs.runStream

theorem State.Forward.failWork (h : s.Forward lc) {w : Work} {f : FaultHold} : (s.failWork k t w f).Forward lc := .engineTrap h.modMtx

theorem State.Forward.accMoveOp (h : s.Forward lc) {store : Bool} : (accMoveOp store o s).Forward lc := by
  unfold Machine.accMoveOp
  dsimp only
  split
  · exact h
  · exact .ite h.holdFor (h.runOp fun _ hs => hs.runStream)

theorem State.Forward.execAccz (h : s.Forward lc) : Answer.Forward lc (execAccz o s) := by
  unfold Machine.execAccz
  dsimp only
  split
  · exact h
  · exact Answer.Forward.ite h.holdFor.next (State.Forward.next (h.runOp fun _ hs => .addWork hs.modMtx))

theorem State.Forward.execOsload (h : s.Forward lc) : Answer.Forward lc (execOsload o s) := by
  unfold Machine.execOsload
  dsimp only
  split
  · exact h
  · exact Answer.Forward.ite h.holdFor.next (State.Forward.next (h.runOp fun _ hs => .runStream hs.draw1))

/-! ### Firmware ops -/

theorem State.Forward.execSegset (h : s.Forward lc) : Answer.Forward lc (execSegset o s) := by
  unfold Machine.execSegset
  extract_lets k priv
  split
  · exact h
  · refine State.Forward.next (h.runOp fun s hs => .ite hs.modCtx ?_)
    split
    · split
      · exact hs.setRecord
      · exact hs
    · exact hs

theorem State.Forward.execTlbinv (h : s.Forward lc) : Answer.Forward lc (execTlbinv o s) := by
  unfold Machine.execTlbinv
  dsimp only
  split
  · exact h
  · refine Answer.Forward.ite (.next (.holdFor (.ite h.releaseStart h))) (.next (.runOp (.ite h.releaseStart h) fun s hs => ?_))
    exact hs

theorem State.Forward.ticketAdd (h : s.Forward lc) {w : Word} : (s.ticketAdd k x t w).2.Forward lc := by
  unfold State.ticketAdd
  dsimp only
  exact State.Forward.atomArrive (.draw1 h.sendWcb)

theorem State.Forward.execTicket (h : s.Forward lc) : Answer.Forward lc (execTicket o s) := by
  unfold Machine.execTicket
  extract_lets k x d priv
  refine Answer.Forward.ite h.landZero.next (Answer.Forward.ite (.next (.holdFor (.ite h.releaseStart h)))
    (.next (.runOp (.ite h.releaseStart h) fun s hs => ?_)))
  split
  next gots s1 e =>
  have h2 : s1.Forward lc := State.Forward.of_eq (.foldl_snd hs fun p g (hp : p.2.Forward lc) => by exact hp.ticketAdd) e
  exact .modMe (.releaseDone (.lastAwaits h2.land))

/-! ### Answers to traps and page faults -/

theorem State.Forward.setStreamHold (h : s.Forward lc) {st : Stream} {f : FaultHold} : (s.setStreamHold k st f).Forward lc := by
  cases st with
  | work => exact h.modMtx
  | xfer => exact h.modCore
  | coll =>
    unfold State.setStreamHold
    dsimp only
    split
    · exact h.setUse
    · exact h

theorem State.Forward.resumeStream (h : s.Forward lc) {st : Stream} : (s.resumeStream k st).Forward lc := by
  cases st with
  | work => exact h.resumeWork
  | xfer => exact .schedule h.modCore
  | coll => exact h.collResume

theorem State.Forward.failStream (h : s.Forward lc) {st : Stream} : (s.failStream k st).Forward lc := by
  cases st with
  | work => exact h.failWork
  | xfer => exact .schedule h.modCore
  | coll => exact h.collLost

theorem State.Forward.streamWalked (h : s.Forward lc) {st : Stream} : (s.streamWalked k st).Forward lc := by
  unfold State.streamWalked
  dsimp only
  split
  next e => exact (h.translate.of_eq e).setStreamHold.engineFault
  next e => exact (h.translate.of_eq e).resumeStream

theorem State.Forward.startWalk (h : s.Forward lc) : (s.startWalk k x t).Forward lc := h.startWalker.schedule

theorem State.Forward.loseBytes (h : s.Forward lc) : (s.loseBytes k x a).Forward lc := h.modCtx

theorem State.Forward.settleFaults (h : s.Forward lc) : (s.settleFaults k x).Forward lc := by
  unfold State.settleFaults
  dsimp only
  split
  · exact h
  · have h1 : ∀ (l : List (Nat × FaultHold)), ((l.foldl (fun s e => s.loseBytes k x e.2.addr)
        (l.foldl (fun s e => s.modThread k x e.1 fun th => { th with fault := none }) s)) : State).Forward lc := fun l =>
      (h.foldl fun _ _ hs => hs.modThread).foldl fun _ _ hs => hs.loseBytes
    generalize List.filter (fun e : Nat × FaultHold => e.2.failed) _ = l
    exact .ite (.ite (h1 _) (h1 _).takeTrapsAt) (.takeLateHolds (.ite (h1 _) (h1 _).takeTrapsAt))

theorem State.Forward.refile (h : s.Forward lc) {key : BinKey} : (s.refile k x t key).Forward lc := h.modCtx

theorem State.Forward.repark (h : s.Forward lc) {p : TrapHold} : (s.repark k x t p).Forward lc := by
  unfold State.repark
  extract_lets stay
  have h1 : stay.Forward lc := h.modThread
  clear_value stay
  split
  · exact h1.modCtx.barCheck
  · exact h1.formClaims.deadlockCheck
  · exact .ite h.refile h1
  · exact h.refile

theorem State.Forward.resumeThread (h : s.Forward lc) {p : TrapHold} {skip : Bool} : (s.resumeThread k x t p skip).Forward lc :=
  .ite (.repark (.ite h.modThread h)) (.refile (.ite h.modThread h))

theorem State.Forward.endCtx (h : s.Forward lc) : (s.endCtx k x).Forward lc := .endThreads h.modCtx

theorem State.Forward.endLaunch (h : s.Forward lc) : (s.endLaunch n).Forward lc := by
  refine State.Forward.foldl (.foldl ?_ fun _ _ hs => .countFinish hs.modCore) fun _ _ hs => hs.endCtx
  exact h

theorem State.Forward.endLaunchOf (h : s.Forward lc) : (s.endLaunchOf k x).Forward lc := by
  unfold State.endLaunchOf
  split
  · exact h.endLaunch
  · exact h

theorem State.Forward.endByAnswer (h : s.Forward lc) : (s.endByAnswer k x t).Forward lc :=
  .ite h.endLaunchOf (.settleFaults (.endThreads h.modThread))

theorem State.Forward.answerTrap (h : s.Forward lc) {p : TrapHold} : (s.answerTrap k x t p n).Forward lc := by
  unfold State.answerTrap
  split
  · exact h.resumeThread
  · exact .ite (.resumeThread h.modCtx) h.resumeThread
  · exact h.endByAnswer
  · exact h.endLaunchOf

theorem State.Forward.answerFault (h : s.Forward lc) {f : FaultHold} : (s.answerFault k x t f n).Forward lc := by
  unfold State.answerFault
  split
  · exact .startWalk h.modThread
  · exact .settleFaults h.modThread
  · exact h.endByAnswer
  · exact h.endLaunchOf

theorem State.Forward.answerStream (h : s.Forward lc) {st : Stream} : (s.answerStream k x t st n).Forward lc := by
  unfold State.answerStream
  split
  · exact h.setStreamHold.startWalk
  · exact h.failStream
  · exact h.endByAnswer.failStream
  · exact h.endLaunchOf.failStream

theorem State.Forward.answer (h : s.Forward lc) : (s.answer k x t n).2.Forward lc := by
  unfold State.answer
  extract_lets c th held
  split
  · exact .ite_snd h.answerTrap h
  · exact .ite_snd h (.ite_snd h.answerFault h)
  · exact .ite_snd h (.ite_snd h.answerStream h)
  · refine .ite_snd h (.ite_snd ?_ ?_)
    · dsimp only
      split
      · exact h.endLaunch
      · exact h
    · exact h.modCore
  · exact h

theorem State.Forward.tretOp (h : s.Forward lc) {mode : Nat → Nat} : (tretOp mode o s).Forward lc := by
  unfold Machine.tretOp
  dsimp only
  split
  · exact h.landZero
  · exact h.runOp fun _ hs => hs.answer.land

theorem State.Forward.refault (h : s.Forward lc) {f : FaultHold} : (s.refault k x t f n).Forward lc := .modThread h.addRecord

theorem State.Forward.replayed (h : s.Forward lc) : (s.replayed k x t).Forward lc := by
  have h1 : (s.modThread k x t fun th => { th with fault := none }).Forward lc := h.modThread
  exact .settleFaults (.ite (.foldl h1.writeBackAll.writeBackFault fun _ _ hs => hs.sendCore) h1)

theorem State.Forward.execPageWalkComplete (h : s.Forward lc) : Answer.Forward lc (execPageWalkComplete k x t s) := by
  unfold Machine.execPageWalkComplete
  split
  · refine Answer.Forward.ite h ?_
    split
    next e => exact (h.translate.of_eq e).refault.next
    next e => exact (h.translate.of_eq e).replayed.next
  · split
    · exact h.streamWalked.next
    · exact h

end

end
end Sys2Proof.Machine
end

section
-- One proof after another, as in the sections before this one.
set_option Elab.async false

namespace Sys2Proof.Machine

section
open Sys2Proof.Claims

section
variable {lc : LifeCycle} {s : State} {k x t n l c a d q id : Nat}

/-! ### Launches and starts of workgroups (R249, R250) -/

theorem State.Forward.peek32 (h : s.Forward lc) {sp : Space} {va : Nat} : (s.peek32 sp va).2.Forward lc := by
  unfold State.peek32
  split
  next e =>
    have h1 := h.physPiece.of_eq e
    exact .ite_snd h1.draw1 h1
  next e => exact h.physPiece.of_eq e

theorem State.Forward.peekWords (h : s.Forward lc) {sp : Space} {va : Nat} : (s.peekWords sp va n).2.Forward lc := by
  refine State.Forward.foldl_snd (p := (some [], s)) h fun p i hp => ?_
  split
  · exact hp
  · split
    next e => exact hp.peek32.of_eq e
    next e => exact hp.peek32.of_eq e

theorem State.Forward.readTable (h : s.Forward lc) {u : Queue} {rows cols : Nat} {circ : Word} : (s.readTable d u rows cols circ).2.Forward lc := by
  unfold State.readTable
  refine .ite_snd h (.ite_snd h (.ite_snd h ?_))
  dsimp only
  split
  next e => exact h.peek32.of_eq e
  next e =>
    have h1 := h.peek32.of_eq e
    refine .ite_snd h1 ?_
    split
    next e => exact h1.peekWords.of_eq e
    next e =>
      have h2 := h1.peekWords.of_eq e
      exact .ite_snd h2 h2

/-- The record of a launch as `launchWork` reads it: its 64 words. -/
theorem State.Forward.readRecord (h : s.Forward lc) {sp : Space} {va : Nat} {is : List Nat} {ws : Option (List Word)} :
    (is.foldl (fun (acc : Option (List Word) × State) i => match acc.1 with
      | none => acc
      | some ws => match acc.2.peek64 sp (va + 8 * i) with
        | (some w, s') => (some (ws ++ [w]), s')
        | (none, s') => (none, s')) (ws, s)).2.Forward lc := by
  refine State.Forward.foldl_snd (p := (ws, s)) h fun p i hp => ?_
  split
  · exact hp
  · split
    next e => exact hp.peek64.of_eq e
    next e => exact hp.peek64.of_eq e

theorem State.Forward.launchWork (h : s.Forward lc) {p : Packet} : (launchWork d q p s).Forward lc := by
  unfold Machine.launchWork
  dsimp only
  split
  · exact h.finishPacket
  · have h1 := h.readRecord (sp := s.queueSpace d (s.queue d q)) (va := (s.queue d q).va (p.word 2)) (is := List.range 64) (ws := some [])
    revert h1
    generalize List.foldl _ (some ([] : List Word), s) (List.range 64) = r
    intro h1
    split
    · refine .ite h1.finishPacket ?_
      split
      next e => exact (h1.readTable.of_eq e).finishPacket
      next e =>
        have h2 := h1.readTable.of_eq e
        refine .ite h2.finishPacket (.offerStarts ?_)
        exact h2
    · exact h1.finishPacket

theorem State.Forward.readLasts (h : s.Forward lc) {l : Launch} {b : LBlock} : (s.readLasts k l b).2.Forward lc := by
  refine State.Forward.foldl_snd h fun p e hp => ?_
  refine State.Forward.foldl_snd (p := (([] : List Word), p.2)) hp fun r i hr => ?_
  split
  next e => exact hr.peek64.of_eq e
  next e => exact (hr.peek64.of_eq e).draw1

theorem State.Forward.startMember (h : s.Forward lc) {ln cohort index logical budget : Nat} {l : Launch} {founder : Bool} :
    (s.startMember ln l cohort index logical founder k x budget).Forward lc := by
  unfold State.startMember
  dsimp only
  have h1 : (if (l.tmpl && !founder) = true then s.readLasts k l (s.startEntry l budget founder).2.2 else ([], s)).2.Forward lc :=
    .ite_snd h.readLasts h
  generalize (if (l.tmpl && !founder) = true then s.readLasts k l (s.startEntry l budget founder).2.2 else ([], s)) = p at h1 ⊢
  exact h1.modCore.modCtx.modCtx.passEntry.openInbox

theorem State.Forward.startCohort (h : s.Forward lc) {ln index rows cols : Nat} {l : Launch} {founder : Bool} {seats : List (Nat × Nat × Nat)} :
    (s.startCohort ln l index founder rows cols seats).Forward lc := by
  refine State.Forward.foldl ?_ fun _ _ hs => hs.startMember
  exact h

theorem State.Forward.waitPlace (h : s.Forward lc) {ln : Nat} {l : Launch} {p : Partition} : (s.waitPlace ln k l p).Forward lc :=
  .message (.ite h.schedule h)

theorem State.Forward.execWorkgroupStart (h : s.Forward lc) {ln : Nat} : Answer.Forward lc (execWorkgroupStart ln k s) := by
  unfold Machine.execWorkgroupStart
  split
  · exact h.next
  · split
    · exact h.next
    · refine Answer.Forward.ite h.next (Answer.Forward.ite h.message.next ?_)
      split
      · exact h.waitPlace.next
      · refine Answer.Forward.ite h.startCohort.next ?_
        split
        next e =>
          have h1 := h.rmw64.of_eq e
          exact Answer.Forward.ite h1.startCohort.message.next h1.next
        next e => exact (h.rmw64.of_eq e).next

/-! ### Pre-emption: a context drains and leaves its core with its record (R44) -/

theorem State.Forward.moveCopies (h : s.Forward lc) : (s.moveCopies k x).Forward lc := by
  refine h.foldl fun s e hs => ?_
  split
  · exact hs
  · exact .ite hs (.modCtx (hs.foldl fun _ _ hs => hs.storeVirt))

theorem State.Forward.sendOwn (h : s.Forward lc) : (s.sendOwn k x).Forward lc := h.foldl fun _ _ hs => hs.sendWcb

theorem State.Forward.stopCtx (h : s.Forward lc) : (s.stopCtx k x).Forward lc :=
  .ite h.modCtx h.modCtx.modCtx.moveCopies.writeBackAll.writeBackFault.sendOwn

theorem State.Forward.takeOut (h : s.Forward lc) : (s.takeOut k x).2.Forward lc := by
  unfold State.takeOut
  exact h.killTickets.freeSet.modMtx.modCore.forgetWaits

theorem State.Forward.saveCtx (h : s.Forward lc) : (s.saveCtx k x).Forward lc := by
  unfold State.saveCtx
  split
  · exact h
  · exact h.takeOut.setRecord

theorem State.Forward.preempt (h : s.Forward lc) {ms : List (Nat × Nat)} : (s.preempt ms).2.Forward lc :=
  have h1 := h.foldl (l := ms) fun _ _ hs => hs.stopCtx
  .ite_snd (h1.foldl fun _ _ hs => hs.saveCtx) h1

theorem State.Forward.execPreemption (h : s.Forward lc) : Answer.Forward lc (execPreemption k x s) := by
  unfold Machine.execPreemption
  refine Answer.Forward.ite Answer.Forward.fault ?_
  split
  · exact h.next
  · refine Answer.Forward.ite h.next ?_
    split
    next e =>
      have h1 := h.preempt.of_eq e
      split
      · exact h1.message.next
      · exact h1.next
    next e => exact (h.preempt.of_eq e).schedule.next

/-! ### A saved context goes on (R46) -/

theorem State.Forward.movePinsTo (h : s.Forward lc) {to_ : Nat} {new_ : Ctx} : (s.movePinsTo a to_ new_).2.Forward lc :=
  .ite_snd h (.foldl_snd h fun _ _ hp => hp.leaveTr.enterTr)

theorem State.Forward.storedAnswers (h : s.Forward lc) : (s.storedAnswers k x).Forward lc := by
  refine h.foldl fun s e hs => ?_
  split
  · split
    · exact hs.answerTrap
    · exact hs
  · exact hs

theorem State.Forward.putIn (h : s.Forward lc) {r : SaveRec} {c : Ctx} : (s.putIn k x r c).Forward lc := h.modCore.modMtx

theorem State.Forward.wake (h : s.Forward lc) : (s.wake k x).Forward lc :=
  .storedAnswers (h.formClaims.openInbox.foldl fun _ _ hs => .ite hs.startWalk hs)

theorem State.Forward.seatCohort (h : s.Forward lc) {g : Cohort} {ps : List Nat} {seats : List (SaveRec × Nat × Nat)} :
    (s.seatCohort n g c ps seats).Forward lc := h

theorem State.Forward.resumeAt (h : s.Forward lc) {g : Cohort} {recs : List (Nat × Nat × SaveRec)} {ps : List Nat}
    {seats : List (SaveRec × Nat × Nat)} : (s.resumeAt n g recs c ps seats).Forward lc := by
  have h1 : (recs.foldl (fun s r => s.modCore r.1 fun c => { c with saves := tdel c.saves r.2.1 }) s).Forward lc :=
    h.foldl fun _ _ hs => hs.modCore
  have h2 : (seats.foldl (fun s e =>
      let (r, k, x) := e
      let from_ := ((recs.find? fun q => q.2.2 == r).map fun q => clusterOf q.1).getD c
      let (c, s') := s.movePinsTo from_ (clusterOf k) (s.onCluster from_ (clusterOf k) r.ctx)
      s'.putIn k x r c)
      ((recs.foldl (fun s r => s.modCore r.1 fun c => { c with saves := tdel c.saves r.2.1 }) s).seatCohort n g c ps seats)).Forward lc :=
    (h1.seatCohort (g := g)).foldl fun _ _ hs => hs.movePinsTo.putIn
  exact h2.foldl fun _ _ hs => hs.wake

theorem State.Forward.execContextResume (h : s.Forward lc) {slot toCore toCtx : Nat} : Answer.Forward lc (execContextResume k slot toCore toCtx s) := by
  unfold Machine.execContextResume
  refine Answer.Forward.ite Answer.Forward.fault ?_
  split
  · exact h.next
  · dsimp only
    split
    · split
      · exact h.next
      · refine Answer.Forward.ite h.next ?_
        split
        · exact h.message.next
        · exact h.resumeAt.next
    · exact h.next

theorem State.Forward.execPriorityPreemption (h : s.Forward lc) : Answer.Forward lc (execPriorityPreemption d q s) :=
  State.Forward.next (h.foldl fun _ _ hs => hs.schedule)

end

section
variable {lc : LifeCycle} {s : State} {k x t n l c a d q id : Nat}

/-! ### Migration (R271, R272) -/

theorem State.Forward.execMigrationRequest (h : s.Forward lc) {toCore : Nat} : Answer.Forward lc (execMigrationRequest k x toCore s) := by
  unfold Machine.execMigrationRequest
  refine Answer.Forward.ite Answer.Forward.fault ?_
  split
  · exact Answer.Forward.ite h.next (State.Forward.schedule (h.foldl fun _ _ hs => hs.modCtx)).next
  · exact h.next

theorem State.Forward.frameWord (h : s.Forward lc) {w : Nat} : (s.frameWord k x t w).2.Forward lc := by
  unfold State.frameWord
  dsimp only
  split
  next e => exact h.peek64.of_eq e
  next e => exact (h.peek64.of_eq e).draw1

theorem State.Forward.liveValues (h : s.Forward lc) {f : LFunc} {e : PEntry} : (s.liveValues k x t f e).2.Forward lc := by
  refine State.Forward.foldl_snd h fun p l hp => ?_
  dsimp only
  split
  · exact hp
  · exact State.Forward.foldl_snd (p := (([] : List Word), p.2)) hp fun _ _ hr => hr.frameWord
  · exact hp

theorem State.Forward.copyVRows (h : s.Forward lc) {toCore : Nat} : (s.copyRows k x toCore).Forward lc :=
  .ite h (h.foldl fun _ _ hs => hs.homeArrive)

theorem State.Forward.carried (h : s.Forward lc) {m : Mover} : (s.carried m).2.Forward lc := by
  refine State.Forward.foldl_snd h fun p t hp => ?_
  dsimp only
  split
  · exact hp
  · split
    next e =>
      have h1 := hp.askStub.of_eq e
      split
      · refine .ite_snd h1 ?_
        split
        · exact h1.liveValues
        · exact h1
      · exact h1
    next e => exact hp.askStub.of_eq e
    next e => exact hp.askStub.of_eq e

theorem State.Forward.captureTraps (h : s.Forward lc) {m : Mover} {v : Carried} : (s.captureTraps m v).Forward lc :=
  have h2 := (h.foldl fun _ _ hs => hs.trapParked).foldl fun _ _ hs => hs.trapParked
  .ite h2 h2.modCtx

/-- The members of a cohort are captured one after another. -/
theorem State.Forward.carryAll (h : s.Forward lc) {ms : List Mover} {vs : List (Mover × Carried)} :
    (ms.foldl (fun (acc : List (Mover × Carried) × State) m => (acc.1 ++ [(m, (acc.2.carried m).1)], (acc.2.carried m).2)) (vs, s)).2.Forward lc :=
  State.Forward.foldl_snd (p := (vs, s)) h fun p _ (hp : p.2.Forward lc) => by exact hp.carried

theorem State.Forward.trapAll (h : s.Forward lc) {vs : List (Mover × Carried)} : (vs.foldl (fun s e => s.captureTraps e.1 e.2) s).Forward lc :=
  h.foldl fun _ _ hs => hs.captureTraps

theorem State.Forward.migrateNow (h : s.Forward lc) {g : Cohort} {ps : List Nat} {ms : List (Mover × List (Nat × Pc × PEntry × List LiveVal))} :
    (s.migrateNow n g c ps ms).Forward lc := by
  unfold State.migrateNow
  refine State.Forward.foldl (.foldl (.seatCohort (.foldl (.foldl_snd h.flushIdle ?_) ?_)) ?_) ?_
  · exact fun _ _ hp => hp.takeOut.movePinsTo
  · exact fun _ _ hs => hs.putIn
  · exact fun _ _ hs => hs.foldl fun _ _ hs => hs.foldl fun _ _ hs => hs.storeAcc
  · exact fun _ _ hs => hs.wake

theorem State.Forward.giveUp (h : s.Forward lc) {ms : List (Nat × Nat)} : (s.giveUp ms).Forward lc := h.foldl fun _ _ hs => hs.modCtx

theorem State.Forward.execMigrationCapture (h : s.Forward lc) : Answer.Forward lc (execMigrationCapture k x s) := by
  unfold Machine.execMigrationCapture
  dsimp only
  split
  · split
    · exact h.next
    · refine Answer.Forward.ite (State.Forward.schedule (h.foldl fun _ _ hs => hs.modCtx)).next ?_
      next w _ _ _ _ _ =>
      have h1 := h.foldl (l := s.members w.cohort) fun _ m hs => hs.stopCtx (k := m.1) (x := m.2)
      refine Answer.Forward.ite h1.schedule.next ?_
      split
      · exact h1.schedule.next
      · refine Answer.Forward.ite (State.Forward.schedule (h1.foldl fun _ _ hs => hs.copyVRows.modCtx)).next ?_
        exact Answer.Forward.ite h1.carryAll.trapAll.giveUp.next
          (Answer.Forward.ite h1.carryAll.trapAll.schedule.next h1.carryAll.trapAll.migrateNow.next)
  · exact h.next

/-! ### Resets, wipes and life cycle (R21 to R23, R282 to R285) -/

/-- A wipe for no change, or for one that goes forward. -/
theorem State.Forward.wiped (h : s.Forward lc) {pend : Option LifeCycle} (hpend : ∀ n ∈ pend, lifeOrder s.life < lifeOrder n) :
    (s.wiped pend).Forward lc := by
  obtain ⟨-, hle⟩ := h
  exact ⟨fun n hn => hpend n hn, hle⟩

theorem State.Forward.execDeviceReset (h : s.Forward lc) {kind : ResetKind} : Answer.Forward lc (execDeviceReset kind s) :=
  State.Forward.next (h.wiped fun _ hn => nomatch hn)

theorem State.Forward.aer (h : s.Forward lc) {cause : Nat} : (s.aer cause).Forward lc := h

theorem State.Forward.reply (h : s.Forward lc) {ok : Bool} : (s.reply ok).Forward lc := h

/-- The state that the end of a wipe commits is not before the present one. -/
theorem State.Forward.committed (h : s.Forward lc) : lifeOrder lc ≤ lifeOrder (s.lifePending.getD s.life) := by
  obtain ⟨hpend, hle⟩ := h
  cases hp : s.lifePending with
  | none => exact hle
  | some n => exact hle.trans (hpend n hp).le

theorem State.Forward.execWipeComplete (h : s.Forward lc) : Answer.Forward lc (execWipeComplete s) := by
  have hlife := h.committed
  refine Answer.Forward.ite h.next (State.Forward.next (.ite ?_ (.aer ?_)))
  · exact ⟨fun _ hn => (nomatch hn), hlife⟩
  · exact ⟨fun _ hn => (nomatch hn), hlife⟩

theorem State.Forward.execThermalStop (h : s.Forward lc) : Answer.Forward lc (execThermalStop d s) :=
  Answer.Forward.ite Answer.Forward.fault (State.Forward.next h)

theorem State.Forward.execLifeCycleChange (h : s.Forward lc) {next : LifeCycle} : Answer.Forward lc (execLifeCycleChange next s) := by
  unfold Machine.execLifeCycleChange
  split
  · exact h.next
  · split
    · exact h.reply.next
    next hforward => exact State.Forward.next (h.reply.wiped fun n hn => Option.some.inj hn ▸ Nat.lt_of_not_le hforward)

theorem State.Forward.execPowerLossDuringWipe (h : s.Forward lc) : Answer.Forward lc (execPowerLossDuringWipe s) :=
  State.Forward.next (.ite (h.wiped fun _ hn => nomatch hn) h)

/-! ### Partitions (R268) -/

theorem State.Forward.execPartitionCreate (h : s.Forward lc) {req : PartReq} : Answer.Forward lc (execPartitionCreate req s) := by
  refine Answer.Forward.ite h.next (Answer.Forward.ite h.reply.next ?_)
  exact h

theorem State.Forward.execPartitionReset (h : s.Forward lc) : Answer.Forward lc (execPartitionReset n s) := by
  unfold Machine.execPartitionReset
  split
  · exact h.next
  · refine State.Forward.next (.foldl (.foldl ?_ fun _ _ hs => hs.modQueue) fun _ _ hs => hs.schedule)
    exact h

theorem State.Forward.execPartitionSwap (h : s.Forward lc) : Answer.Forward lc (execPartitionSwap n l s) := by
  unfold Machine.execPartitionSwap
  split
  · refine Answer.Forward.ite h.next ?_
    next o _ _ _ =>
    have h1 := h.foldl (l := s.queuesOf o) fun _ q hs => hs.suspendQueue (d := q.1) (q := q.2)
    dsimp only
    split
    next e => exact (h1.preempt.of_eq e).schedule.next
    next e =>
      have h2 := h1.preempt.of_eq e
      refine State.Forward.next (.foldl (.foldl ?_ fun _ _ hs => hs.message) fun _ _ hs => hs.resumeQueue)
      exact h2
  · exact h.next

/-! ### Checkpoint and loss of a die (R273, R274) -/

theorem State.Forward.putStk (h : s.Forward lc) {key v : Nat} : (s.putStk key a v).Forward lc := h.putPillar

theorem State.Forward.localCopy (h : s.Forward lc) {half gen key : Nat} : (s.localCopy k half gen key).Forward lc := by
  unfold State.localCopy
  dsimp only
  split
  next e => exact (h.putStk.stkCopy.of_eq e).putStk
  next e => exact h.putStk.stkCopy.of_eq e

theorem State.Forward.buddyCopy (h : s.Forward lc) {half key dev : Nat} : (s.buddyCopy k half key dev).Forward lc := h

theorem State.Forward.execCheckpoint (h : s.Forward lc) {gen : Nat} : Answer.Forward lc (execCheckpoint n gen s) := by
  unfold Machine.execCheckpoint
  split
  · exact h.next
  · refine Answer.Forward.ite h.reply.next ?_
    dsimp only
    refine State.Forward.next (.ite (.reply (.foldl ?_ fun _ _ hs => hs.buddyCopy)) (.reply ?_))
    · exact State.Forward.podTakes (.draw1 (h.foldl fun _ _ hs => hs.localCopy))
    · exact State.Forward.podTakes (.draw1 (h.foldl fun _ _ hs => hs.localCopy))

theorem State.Forward.endLost (h : s.Forward lc) : (s.endLost n).Forward lc := by
  unfold State.endLost
  dsimp only
  split
  · exact h.endLaunch.report
  · exact h.endLaunch

theorem State.Forward.execDieLoss (h : s.Forward lc) {lost : Loss} : Answer.Forward lc (execDieLoss lost s) := by
  unfold Machine.execDieLoss
  split
  · exact Answer.Forward.ite Answer.Forward.fault (State.Forward.next h)
  · refine Answer.Forward.ite Answer.Forward.fault (State.Forward.next (.modFe (.foldl ?_ fun _ _ hs => hs.abortQueue)))
    next d =>
    have h1 {lns : List Nat} {f : Fabric} {ps : Tab Partition} :
        (lns.foldl (fun (s : State) n => s.endLost n) (({ s with fabric := f, parts := ps } : State).aer aerDie)).Forward lc := by
      refine State.Forward.foldl ?_ fun _ _ hs => hs.endLost
      exact h
    have h2 {s : State} (h : s.Forward lc) : ({ s with cores := s.cores.filter fun c => !(dieOf c.1 == d) } : State).Forward lc :=
      h.setCores
    exact h2 h1

/-! ### Keys and attestation, scheduling events -/

theorem State.Forward.execKeySlotLoad (h : s.Forward lc) {key : BitVec 512} : Answer.Forward lc (execKeySlotLoad n key s) :=
  Answer.Forward.ite Answer.Forward.fault (Answer.Forward.ite h.next (State.Forward.next h))

theorem State.Forward.execAttestationRequest (h : s.Forward lc) {nonce : List Byte} : Answer.Forward lc (execAttestationRequest nonce s) :=
  Answer.Forward.ite h.next h.modHost.next

theorem State.Forward.execBinAged (h : s.Forward lc) : Answer.Forward lc (execBinAged k x n s) := by
  unfold Machine.execBinAged
  dsimp only
  split
  · exact Answer.Forward.ite h.modCtx.next h.next
  · exact h.next

theorem State.Forward.execDraw (h : s.Forward lc) : Answer.Forward lc (execDraw k x s) := by
  unfold Machine.execDraw
  refine Answer.Forward.ite h.next ?_
  split
  · exact h.modCtx.next
  · exact h.next

theorem State.Forward.execQuantumExpiry (h : s.Forward lc) : Answer.Forward lc (execQuantumExpiry k s) := by
  unfold Machine.execQuantumExpiry
  dsimp only
  split
  · exact Answer.Forward.ite h.modCtx.modCore.next h.next
  · exact h.modCore.next

theorem State.Forward.execPriorityBoost (h : s.Forward lc) : Answer.Forward lc (execPriorityBoost k x s) :=
  Answer.Forward.ite h.modCore.next h.next

theorem State.Forward.execFirmwareCtlSteal (h : s.Forward lc) : Answer.Forward lc (execFirmwareCtlSteal k s) :=
  Answer.Forward.ite h.modCore.next h.next

/-! ### Completions -/

theorem State.Forward.takeLates (h : s.Forward lc) {all : List LateTrap} : (s.takeLates k x all).Forward lc := h.foldl fun _ _ hs => hs.takeLate

theorem State.Forward.execResultLanding (h : s.Forward lc) : Answer.Forward lc (execResultLanding k x s) :=
  Answer.Forward.ite h.modCtx.modCtx.next h.modCtx.takeLates.next

theorem State.Forward.execGranuleCopyComplete (h : s.Forward lc) : Answer.Forward lc (execGranuleCopyComplete k x s) := h.modCtx.next

theorem State.Forward.execStashFillComplete (h : s.Forward lc) : Answer.Forward lc (execStashFillComplete k x n s) := by
  unfold Machine.execStashFillComplete
  split
  · exact Answer.Forward.ite h.next (Answer.Forward.ite h.schedule.next h.modCtx.next)
  · exact h.next

theorem State.Forward.execFenceComplete (h : s.Forward lc) : Answer.Forward lc (execFenceComplete k x s) := by
  unfold Machine.execFenceComplete
  split
  · exact Answer.Forward.ite (State.Forward.next (.ite h.modCtx h.modCtx.releaseDone)) h.next
  · exact h.next

theorem State.Forward.deliverRecords (h : s.Forward lc) : (deliverRecords k n s).Forward lc := by
  induction n generalizing s with
  | zero => exact h
  | succ n ih =>
    unfold Machine.deliverRecords
    split
    · split
      · refine ih (.putWords (.modCore ?_))
        exact h
      · exact h
    · exact h

theorem State.Forward.execTrapRecordDelivery (h : s.Forward lc) : Answer.Forward lc (execTrapRecordDelivery k s) := h.deliverRecords.next

theorem State.Forward.execFirmwareRestart (h : s.Forward lc) : Answer.Forward lc (execFirmwareRestart k s) := by
  unfold Machine.execFirmwareRestart
  split
  · exact h.startFirmware.next
  · exact h.next

/-! ### The host and the links -/

theorem State.Forward.execHostCompletion (h : s.Forward lc) {ok : Bool} {data : List Byte} : Answer.Forward lc (execHostCompletion n ok data s) := by
  unfold Machine.execHostCompletion
  split
  · exact h.next
  · exact h.modHost.modCtx.next

theorem State.Forward.execHdmWindowSet (h : s.Forward lc) {req : HdmReq} : Answer.Forward lc (execHdmWindowSet req s) := by
  unfold Machine.execHdmWindowSet
  refine Answer.Forward.ite h.next ?_
  split
  · exact h.reply.next
  · exact State.Forward.next (.ite h.reply.modHost h.reply)

theorem State.Forward.execCxlMemRead (h : s.Forward lc) : Answer.Forward lc (execCxlMemRead a n s) := by
  unfold Machine.execCxlMemRead
  refine Answer.Forward.ite h.next ?_
  split
  · exact h.next
  · exact Answer.Forward.ite h.message.next h.modHost.next

theorem State.Forward.execCxlMemWrite (h : s.Forward lc) {data : List Byte} : Answer.Forward lc (execCxlMemWrite a data s) := by
  unfold Machine.execCxlMemWrite
  refine Answer.Forward.ite h.next ?_
  split
  · exact h.next
  · exact Answer.Forward.ite h.message.next (State.Forward.next (h.foldl fun _ _ hs => hs.homeArrive))

theorem State.Forward.setPort (h : s.Forward lc) {v : Port} : (s.setPort n v).Forward lc := h

theorem State.Forward.execFlitReceive (h : s.Forward lc) {flit : List Byte} : Answer.Forward lc (execFlitReceive n flit s) := by
  refine Answer.Forward.ite Answer.Forward.fault (Answer.Forward.ite h.next (Answer.Forward.ite h.next (Answer.Forward.ite ?_ ?_)))
  · exact h
  · exact h

theorem State.Forward.checkPorts (h : s.Forward lc) : s.checkPorts.Forward lc := by
  unfold State.checkPorts
  generalize (List.range 512).filter _ = ns
  exact .ite h h

theorem State.Forward.execLaneFailure (h : s.Forward lc) : Answer.Forward lc (execLaneFailure n s) := by
  unfold Machine.execLaneFailure
  dsimp only
  exact Answer.Forward.ite Answer.Forward.fault (Answer.Forward.ite h.setPort.checkPorts.next (Answer.Forward.ite h.setPort.next h.draw1.setPort.schedule.next))

theorem State.Forward.execRetrainComplete (h : s.Forward lc) : Answer.Forward lc (execRetrainComplete n s) := by
  refine Answer.Forward.ite Answer.Forward.fault ?_
  dsimp only
  split
  · exact Answer.Forward.ite h.setPort.next h.next
  · exact h.next

theorem State.Forward.execLinkTraining (h : s.Forward lc) : Answer.Forward lc (execLinkTraining n l s) := by
  refine Answer.Forward.ite Answer.Forward.fault (Answer.Forward.ite h.next ?_)
  have h2 {v : Port} {f : Fuses} : (if n = 0 then { s.setPort n v with fuses := f } else s.setPort n v).Forward lc := .ite h h.setPort
  exact h2

end

end
end Sys2Proof.Machine
end

section
-- One proof after another, as in the sections before this one.
set_option Elab.async false

namespace Sys2Proof.Machine

section
open Sys2Proof.Claims

/-! ### No instruction and no step takes the life-cycle state back (R285) -/

section
variable {lc : LifeCycle} {s : State} {d q : Nat}

theorem State.Forward.execNopPacket (h : s.Forward lc) : Answer.Forward lc (execNopPacket d q s) := h.issuePacket fun _ _ hs => hs.finishPacket

theorem State.Forward.execReturnPacket (h : s.Forward lc) : Answer.Forward lc (execReturnPacket d q s) := h.issuePacket fun _ _ hs => hs.finishPacket

theorem State.Forward.execJoin (h : s.Forward lc) : Answer.Forward lc (execJoin d q s) := h.issuePacket fun _ _ hs => hs.modQueue.finishPacket

theorem State.Forward.execCallPacket (h : s.Forward lc) : Answer.Forward lc (execCallPacket d q s) := h.issuePacket fun _ _ hs => hs.checkEntering

theorem State.Forward.execSignal (h : s.Forward lc) : Answer.Forward lc (execSignal d q s) := h.issuePacket fun _ _ hs => hs.finishPacket

theorem State.Forward.execBarrier (h : s.Forward lc) : Answer.Forward lc (execBarrier d q s) := by
  unfold Machine.execBarrier
  refine h.issuePacket fun _ _ hs => ?_
  dsimp only
  exact State.Forward.schedule hs.setIssued

theorem State.Forward.execLaunch (h : s.Forward lc) : Answer.Forward lc (execLaunch d q s) := h.issuePacket fun _ _ hs => hs.launchWork

end

theorem State.Forward.exec {lc : LifeCycle} {s : State} (i : Instr) (h : s.Forward lc) : Answer.Forward lc (Machine.exec i s) := by
  cases i with
  | deviceReset kind => exact h.execDeviceReset (kind := kind)
  | wipeComplete => exact h.execWipeComplete
  | thermalStop _ => exact h.execThermalStop
  | lifeCycleChange _ => exact h.execLifeCycleChange
  | powerLossDuringWipe => exact h.execPowerLossDuringWipe
  | partitionCreate _ => exact h.execPartitionCreate
  | partitionReset _ => exact h.execPartitionReset
  | loadObject _ _ => exact h.execLoadObject
  | unloadObject _ => exact h.execUnloadObject
  | workgroupStart _ _ => exact h.execWorkgroupStart
  | binAged _ _ _ => exact h.execBinAged
  | draw _ _ => exact h.execDraw
  | quantumExpiry _ => exact h.execQuantumExpiry
  | priorityBoost _ _ => exact h.execPriorityBoost
  | firmwareCtlSteal _ => exact h.execFirmwareCtlSteal
  | preemption _ _ => exact h.execPreemption
  | contextResume _ _ _ _ => exact h.execContextResume
  | resultLanding _ _ => exact h.execResultLanding
  | granuleCopyComplete _ _ => exact h.execGranuleCopyComplete
  | translateRequest _ _ _ _ => exact h.execTranslateRequest
  | translationComplete _ _ => exact h.execTranslationComplete
  | regclmGrant _ => exact h.execRegclmGrant
  | pageWalkComplete _ _ _ => exact h.execPageWalkComplete
  | stashFillComplete _ _ _ => exact h.execStashFillComplete
  | homeWritePerform _ => exact h.execHomeWritePerform
  | renewalAnswer _ _ _ => exact h.execRenewalAnswer
  | collapseRequest _ _ => exact h.execCollapseRequest
  | collapseAnswer _ _ => exact h.execCollapseAnswer
  | promotionRequest _ _ _ => exact h.execPromotionRequest
  | wcbSend _ _ => exact h.execWcbSend
  | rangeEntryExpiry _ _ => exact h.modPhys.next
  | circuitArrival _ _ _ => exact h.execCircuitArrival
  | queueWriteObserved _ _ => exact h.execQueueWriteObserved
  | doorbellWrite _ _ _ => exact h.execDoorbellWrite
  | lookaheadRead _ _ => exact h.execLookaheadRead
  | nopPacket _ _ => exact h.execNopPacket
  | launch _ _ => exact h.execLaunch
  | copy _ _ => exact h.execCopy
  | copyComplete _ _ => exact h.execCopyComplete
  | barrier _ _ => exact h.execBarrier
  | barrierReread _ _ _ => exact h.execBarrierReread
  | signal _ _ => exact h.execSignal
  | callPacket _ _ => exact h.execCallPacket
  | returnPacket _ _ => exact h.execReturnPacket
  | join _ _ => exact h.execJoin
  | cond _ _ => exact h.execCond
  | loop _ _ => exact h.execLoop
  | timestamp _ _ => exact h.execTimestamp
  | packetComplete _ _ _ _ => exact h.execPacketComplete
  | priorityPreemption _ _ => exact h.execPriorityPreemption
  | enable _ _ => exact h.execEnable
  | disable _ _ => exact h.execDisable
  | reset _ _ => exact h.execReset
  | suspend _ _ => exact h.endCommand.suspendQueue.next
  | resume _ _ => exact h.endCommand.resumeQueue.next
  | segmentArrival _ _ => exact h.execSegmentArrival
  | bankAccessComplete _ _ => exact h.execBankAccessComplete
  | rowOpen _ _ => exact h.execRowOpen
  | refreshClose _ _ => exact h.execRefreshClose
  | rowClose _ _ => exact h.execRowClose
  | prechargeEnd _ _ => exact h.execPrechargeEnd
  | engineWorkComplete _ => exact h.modMtx.next
  | slotClearComplete _ => exact h.modMtx.next
  | osclaimGrant _ => exact h.execOsclaimGrant
  | transferStart _ => exact h.execTransferStart
  | transferComplete _ => exact h.execTransferComplete
  | transferFault _ => exact h.execTransferFault
  | loopGeneratorEntry _ _ => exact h.execLoopGeneratorEntry
  | mcastDelivery _ _ _ => exact h.execMcastDelivery
  | redgrpResult _ _ => exact h.execRedgrpResult
  | stkcpyComplete _ => exact h.execStkcpyComplete
  | pbrFetchComplete _ _ _ => exact h.modCtx.next
  | fenceComplete _ _ => exact h.execFenceComplete
  | trapRecordDelivery _ => exact h.execTrapRecordDelivery
  | firmwareRestart _ => exact h.execFirmwareRestart
  | migrationRequest _ _ _ => exact h.execMigrationRequest
  | migrationCapture _ _ => exact h.execMigrationCapture
  | partitionSwap _ _ => exact h.execPartitionSwap
  | checkpoint _ _ => exact h.execCheckpoint
  | dieLoss _ => exact h.execDieLoss
  | hostCompletion _ _ _ => exact h.execHostCompletion
  | cxlMemRead _ _ => exact h.execCxlMemRead
  | cxlMemWrite _ _ => exact h.execCxlMemWrite
  | flitReceive _ _ => exact h.execFlitReceive
  | laneFailure _ => exact h.execLaneFailure
  | retrainComplete _ => exact h.execRetrainComplete
  | linkTraining _ _ => exact h.execLinkTraining
  | attestationRequest _ => exact h.execAttestationRequest
  | keySlotLoad _ _ => exact h.execKeySlotLoad
  | abs _ => exact h.intOp1.next
  | add _ => exact h.intOp2.next
  | and _ => exact h.intOp2.next
  | bfi _ => exact h.produce.next
  | bfx _ => exact h.intOp2.next
  | brev _ => exact h.intOp1.next
  | clz _ => exact h.intOp1.next
  | cmp _ => exact h.intOp2.next
  | accld _ => exact h.accMoveOp.next
  | accst _ => exact h.accMoveOp.next
  | accz _ => exact h.execAccz
  | addc _ => exact h.wideOp.next
  | atom _ => exact h.atomOp.next
  | atomAcq _ => exact h.atomOp.next
  | atomRel _ => exact h.atomOp.next
  | atomAr _ => exact h.atomOp.next
  | barAw _ => exact State.Forward.next (h.barOp fun _ _ _ hs => hs.modMe.parkGroup)
  | barArr _ => exact State.Forward.next (h.barOp fun _ _ _ hs => hs.modMe)
  | barWait _ => exact State.Forward.next (h.barOp fun _ _ _ hs => hs.modMe.parkGroup)
  | bartest _ => exact h.bartestOp.next
  | bartestCtr _ => exact h.bartestOp.next
  | br _ => exact h.takeEdges.next
  | cbr _ _ _ => exact h.takeEdges.next
  | brn _ => exact h.execBrn
  | brk _ => exact h.raiseOp.next
  | call _ => exact h.execCall
  | const _ => exact h.produce.next
  | csrrd _ => exact State.Forward.next (h.runOp fun _ hs => hs.land)
  | csrwr _ => exact h.execCsrwr
  | div _ => exact h.divOp.next
  | evqpop _ => exact h.execEvqpop
  | exit _ => exact h.exitOp.next
  | fadd _ => exact h.floatOp2.next
  | fsub _ => exact h.floatOp2.next
  | fmul _ => exact h.floatOp2.next
  | ffma _ => exact h.floatOp.next
  | fdiv _ => exact h.floatOp.next
  | fmin _ => exact h.floatOp2.next
  | fmax _ => exact h.floatOp2.next
  | fcmp _ => exact h.floatOp.next
  | fcvt _ => exact h.convOp.next
  | fence _ => exact h.execFence
  | fill _ => exact h.loadOp.next
  | freeze _ => exact h.execFreeze
  | frnd _ => exact h.floatOp.next
  | icvt _ => exact h.convOp.next
  | idx _ => exact h.produce.next
  | lcvt _ => exact h.convOp.next
  | ld _ => exact h.loadOp.next
  | ldRng _ => exact h.loadOp.next
  | ldv _ => exact h.loadOp.next
  | lpack _ => exact h.produce.next
  | lunpk _ => exact h.produce.next
  | madc _ => exact h.wideOp.next
  | max _ => exact h.intOp2.next
  | min _ => exact h.intOp2.next
  | mul _ => exact h.intOp2.next
  | mulhi _ => exact h.intOp2.next
  | neg _ => exact h.intOp1.next
  | not _ => exact h.intOp1.next
  | or _ => exact h.intOp2.next
  | popc _ => exact h.intOp1.next
  | rem _ => exact h.divOp.next
  | rot _ => exact h.intOp2.next
  | mcast _ => exact h.collOp.next
  | redgrp _ => exact h.collOp.next
  | mma _ => exact h.execMma
  | mov _ => exact h.execMov
  | nop _ => exact h.next
  | osclaim _ => exact h.execOsclaim
  | osload _ => exact h.execOsload
  | osrel _ => exact h.execOsrel
  | pbr _ => exact h.execPbr
  | pref _ => exact State.Forward.next (h.runOp fun _ hs => hs.foldl fun _ _ hs => hs.prefLane)
  | publish _ => exact h.execPublish
  | recvc _ => exact h.execRecvc
  | reform _ => exact State.Forward.next (h.runOp fun _ hs => .ite hs hs.modMe)
  | regrel _ => exact State.Forward.next (h.runOp fun _ hs => .ite hs.modMe hs.modMe.modHome)
  | regclm _ => exact State.Forward.next (h.runOp fun _ hs => .ite hs hs.parkGroup.formClaims.deadlockCheck)
  | ret _ => exact h.execRet
  | rowact _ => exact h.rowactOp.next
  | rowactForce _ => exact h.rowactOp.next
  | rowcon _ => exact h.rowconOp.next
  | rowconW _ => exact h.rowconOp.next
  | rowcls _ => exact h.execRowcls
  | segset _ => exact h.execSegset
  | sel _ => exact h.produce.next
  | sendc _ => exact h.execSendc
  | sfn _ => exact h.floatOp.next
  | shape _ _ => exact h
  | shfl _ => exact h.produce.next
  | shl _ => exact h.intOp2.next
  | shr _ => exact h.intOp2.next
  | shra _ => exact h.intOp2.next
  | sub _ => exact h.intOp2.next
  | xor _ => exact h.intOp2.next
  | spill _ => exact State.Forward.next (h.asServing fun _ hs => hs.storeOp)
  | st _ => exact h.storeOp.next
  | stv _ => exact h.storeOp.next
  | stmap _ => exact h.execStmap
  | stwb _ => exact h.execStwb
  | stinv _ => exact h.execStinv
  | stkcpy _ => exact h.execStkcpy
  | subb _ => exact h.wideOp.next
  | switch _ _ _ _ => exact h.takeEdges.next
  | ticket _ => exact h.execTicket
  | tlbinv _ => exact h.execTlbinv
  | tnest _ => exact h.execTnest
  | trap _ => exact h.raiseOp.next
  | retry _ => exact h.tretOp.next
  | cont _ => exact h.tretOp.next
  | replay _ => exact h.tretOp.next
  | fail _ => exact h.tretOp.next
  | endThread _ => exact h.tretOp.next
  | endLaunch _ => exact h.tretOp.next
  | vote _ => exact h.produce.next
  | vred _ => exact h.laneOp.next
  | vscan _ _ => exact h.laneOp.next
  | xfer _ => exact h.execXfer
  | xloop _ => exact h.execXloop
  | xstat _ => exact h.execXstat
  | waitid _ => exact h.execWaitid
  | xcancel _ => exact h.execXcancel
  | yield _ => exact State.Forward.next (h.runOp fun _ hs => .ite hs hs.modMe)
  | bankRefresh _ _ => exact h.execBankRefresh
  | compaction _ => exact h.execCompaction
  | hdmWindowSet _ => exact h.execHdmWindowSet
/-- Settles O59: no event of a step, by its own lemma, takes the life-cycle state back. -/
theorem lifeCycleForward : Obligations.LifeCycleForward := by
  unfold Obligations.LifeCycleForward
  intro s t h e
  have hstep : Answer.Forward s.life (step s) := State.Forward.machineStep (fun i _ => State.Forward.exec i) ⟨h, le_rfl⟩
  rw [e] at hstep
  exact hstep

end
end Sys2Proof.Machine
end
